-- ==== Sys2Proof/Word.lean ====
section
/-!
DEFINITION. The word types of the machine and their plainest arithmetic (R2, R3, R8, R118).
-/

namespace Sys2Proof

/-- A scalar register or a 64-bit control register. -/
abbrev Word := BitVec 64

/-- A byte (R2). -/
abbrev Byte := BitVec 8

/-- A five-bit field that numbers a scalar or a vector register (R113). -/
abbrev Reg := BitVec 5

/-- A three-bit field that numbers a mask register, a guard, a yarn slot or a watermark (R113). -/
abbrev Num3 := BitVec 3

/-- A one-bit field: a chain bit or a variant bit (R113). -/
abbrev Bit1 := BitVec 1

/-- Bits [lo + n - 1 : lo] of a natural number taken as a bit pattern (R3). -/
def bitsAt (x lo n : Nat) : Nat := x / 2 ^ lo % 2 ^ n

/-- `wrap(x, n)` of R118 for an exact integer. -/
def wrapInt (x : Int) (n : Nat) : Nat := (x % (2 ^ n : Int)).toNat

/-- `sext(x, n)` of R118: the two's complement value of the low `n` bits. -/
def sextNat (x n : Nat) : Int :=
  let y := x % 2 ^ n
  if n = 0 then 0 else if y < 2 ^ (n - 1) then (y : Int) else (y : Int) - (2 ^ n : Int)

/-- `sat(x, lo, hi)` of R118. -/
def satInt (x lo hi : Int) : Int := if x < lo then lo else if hi < x then hi else x

/-- Ceiling of a quotient of naturals. -/
def ceilDiv (a b : Nat) : Nat := (a + b - 1) / b

/-- The bytes of a number, least significant first (R3). -/
def bytesOf (x : Nat) : Nat → List Byte
  | 0 => []
  | n + 1 => BitVec.ofNat 8 x :: bytesOf (x / 256) n

/-- The number that a list of bytes holds, least significant first (R3). -/
def natOfBytes : List Byte → Nat
  | [] => 0
  | b :: bs => b.toNat + 256 * natOfBytes bs

/-- A 64-bit word from an exact integer, wrapping (R8, R118). -/
def wordOfInt (x : Int) : Word := BitVec.ofNat 64 (wrapInt x 64)

/-- A 64-bit word from a natural number, wrapping. -/
def wordOfNat (x : Nat) : Word := BitVec.ofNat 64 x

/-- `[0, 1, …, n - 1]` without one element: the half-open range of R4. -/
def upTo (n : Nat) : List Nat := List.range n

end Sys2Proof
end

