-- ==== Sys2Proof/Machine/Flags.lean ====
section
/-!
DEFINITION. Floating formats, rounding and flags (R148 to R156), exact: every operation is computed on exact numbers and
narrowed once. A result is a bit pattern with the flags it raises.
-/

namespace Sys2Proof.Machine

-- flags, in the order of STATUS[4:0] (R107)

/-- NV, invalid operation. -/
def flagNV : Nat := 16
/-- DZ, division by zero. -/
def flagDZ : Nat := 8
/-- OF, overflow. -/
def flagOF : Nat := 4
/-- UF, underflow. -/
def flagUF : Nat := 2
/-- NX, inexact. -/
def flagNX : Nat := 1

/-- A floating format (R148): total bits, significand bits, bias, and whether it has infinities. -/
structure Fmt where
  bits : Nat
  p : Nat
  bias : Nat
  hasInf : Bool
  deriving DecidableEq, Repr

/-- binary64 (R148). -/
def f64 : Fmt := ⟨64, 52, 1023, true⟩
/-- binary32. -/
def f32 : Fmt := ⟨32, 23, 127, true⟩
/-- binary16. -/
def f16 : Fmt := ⟨16, 10, 15, true⟩
/-- bfloat16. -/
def bf16 : Fmt := ⟨16, 7, 127, true⟩
/-- E4M3: no infinity, and only 0x7F and 0xFF are NaN (R149). -/
def e4m3 : Fmt := ⟨8, 3, 7, false⟩
/-- E5M2. -/
def e5m2 : Fmt := ⟨8, 2, 15, true⟩

/-- The format of a code FC from 0 to 5 (R226); FMT of SFPU and SFMA codes its first four (R174). -/
def fmtOf : Nat → Fmt
  | 0 => f64
  | 1 => f32
  | 2 => f16
  | 3 => bf16
  | 4 => e4m3
  | _ => e5m2

/-- Exponent bits. -/
def Fmt.ebits (f : Fmt) : Nat := f.bits - 1 - f.p

/-- The pattern of the largest finite magnitude (R148). -/
def Fmt.maxPat (f : Fmt) : Nat := if f.hasInf then (2 ^ f.ebits - 1) * 2 ^ f.p - 1 else 2 ^ (f.bits - 1) - 2

/-- The pattern of +infinity. -/
def Fmt.infPat (f : Fmt) : Nat := (2 ^ f.ebits - 1) * 2 ^ f.p

/-- The canonical NaN (R148). -/
def Fmt.nan (f : Fmt) : Nat := if f.hasInf then f.infPat + 2 ^ (f.p - 1) else 2 ^ (f.bits - 1) - 1

/-- A pattern with a sign. -/
def Fmt.signed (f : Fmt) (neg : Bool) (pat : Nat) : Nat := if neg then pat + 2 ^ (f.bits - 1) else pat

/-- The exponent of a subnormal's last place, 1 - bias - p. -/
def Fmt.emin (f : Fmt) : Int := 1 - (f.bias : Int) - f.p

/-- What a pattern stands for (R149): a finite value is m * 2^e with a sign. -/
inductive FVal where
  | nan (signalling : Bool)
  | inf (neg : Bool)
  | fin (neg : Bool) (m : Nat) (e : Int)
  deriving DecidableEq, Repr

/-- The value of a pattern (R149); bits above the format's width are ignored (R103). -/
def Fmt.unpack (f : Fmt) (x : Nat) : FVal :=
  let mag := x % 2 ^ (f.bits - 1)
  let neg := bitsAt x (f.bits - 1) 1 == 1
  let e := mag / 2 ^ f.p
  let t := mag % 2 ^ f.p
  if f.hasInf && e == 2 ^ f.ebits - 1 then
    if t = 0 then .inf neg else .nan (t < 2 ^ (f.p - 1))
  else if !f.hasInf && mag == 2 ^ (f.bits - 1) - 1 then .nan false
  else if e = 0 then .fin neg t f.emin
  else .fin neg (t + 2 ^ f.p) (f.emin + (e - 1 : Int))

/-- Rounding mode (R107, R152), and the 24-bit draw of SR (R153). -/
structure Rounding where
  mode : Nat
  draw : Nat
  deriving DecidableEq, Repr

/-- Round to nearest, ties to even. -/
def rneMode : Rounding := ⟨0, 0⟩

/-- The overflow result under a mode (R152, R153): an infinity, or the largest finite value. -/
def Rounding.toInfinity (r : Rounding) (neg : Bool) : Bool :=
  match r.mode with
  | 1 => false
  | 2 => neg
  | 3 => !neg
  | _ => true

/-- An overflow's pattern and flags: in place of an infinity a saturating conversion gives the largest finite value and
E4M3 its NaN (R155). -/
def overflow (f : Fmt) (r : Rounding) (sat neg : Bool) : Nat × Nat :=
  let fl := flagOF + flagNX
  if r.toInfinity neg && !sat then
    (if f.hasInf then f.signed neg f.infPat else f.nan, fl)
  else (f.signed neg f.maxPat, fl)

/-- Whether a magnitude between neighbours rounds away from zero: `rem / 2^sh` is the fraction, with more below it when
`sticky`; `odd` says that the nearer-zero neighbour's significand is odd (R152, R153). -/
def roundsUp (r : Rounding) (neg odd : Bool) (rem sh : Nat) (sticky : Bool) : Bool :=
  let half := 2 ^ sh
  match r.mode with
  | 0 => half < 2 * rem || (half == 2 * rem && (sticky || odd))
  | 1 => false
  | 2 => neg && (rem != 0 || sticky)
  | 3 => !neg && (rem != 0 || sticky)
  | 4 => half ≤ 2 * rem
  | _ => r.draw < rem * 2 ^ 24 / 2 ^ sh

/-- Narrow the magnitude (q + d) * 2^e, 0 ≤ d < 1 with d nonzero when `sticky`, to a format (R151 to R155). With `sticky`
the caller gives q at least 26 bits more than the format's significand. -/
def roundMag (f : Fmt) (r : Rounding) (sat neg : Bool) (q : Nat) (e : Int) (sticky : Bool) : Nat × Nat :=
  if q = 0 then (f.signed neg 0, if sticky then flagUF + flagNX else 0)
  else
    let top : Int := e + Nat.log2 q
    let ue : Int := max (top - f.p) f.emin
    let sh := (ue - e).toNat
    let sig := if ue ≤ e then q * 2 ^ (e - ue).toNat else q / 2 ^ sh
    let rem := if ue ≤ e then 0 else q % 2 ^ sh
    let inexact := rem != 0 || sticky
    let up := inexact && roundsUp r neg (sig % 2 == 1) rem sh sticky
    let sig' := if up then sig + 1 else sig
    -- the exponent field counts from the subnormal place; a carry into the next binade adds up by itself
    let pat := (ue - f.emin).toNat * 2 ^ f.p + sig'
    let tiny := top < f.emin + f.p
    let fl := (if inexact then flagNX else 0) + (if tiny && inexact then flagUF else 0)
    if r.mode = 5 ∧ f.hasInf = false ∧ f.maxPat * 2 ^ sh < ((ue - f.emin).toNat * 2 ^ f.p + sig) * 2 ^ sh + rem then
      -- E4M3 under SR: the neighbour above the largest finite value is 2^(emax + 1) (R153)
      let step := 2 * 2 ^ sh
      if f.maxPat + 2 ≤ pat - (if up then 1 else 0) then overflow f r sat neg
      else
        let off := ((ue - f.emin).toNat * 2 ^ f.p + sig - f.maxPat) * 2 ^ sh + rem
        if r.draw < off * 2 ^ 24 / step then overflow f r sat neg else (f.signed neg f.maxPat, flagNX)
    else if f.maxPat < pat then overflow f r sat neg
    else (f.signed neg pat, fl)

/-- Narrow an exact dyadic number m * 2^e. -/
def roundExact (f : Fmt) (r : Rounding) (sat : Bool) (neg : Bool) (m : Nat) (e : Int) : Nat × Nat :=
  roundMag f r sat neg m e false

/-- Narrow an exact signed integer times 2^e; `zeroNeg` is the sign of a zero. -/
def roundInt (f : Fmt) (r : Rounding) (x : Int) (e : Int) (zeroNeg : Bool) : Nat × Nat :=
  if x = 0 then (f.signed zeroNeg 0, 0) else roundExact f r false (x < 0) x.natAbs e

/-- The sign of an exact zero sum of two terms (R152). -/
def zeroSign (r : Rounding) (n1 n2 : Bool) : Bool := if n1 == n2 then n1 else r.mode == 2

/-- NV when one of the operands is a signalling NaN. -/
def snanFlag (vs : List FVal) : Nat := if vs.any (fun v => v == .nan true) then flagNV else 0

/-- An operand is a NaN. -/
def FVal.isNan : FVal → Bool
  | .nan _ => true
  | _ => false

/-- Sign of a value, false for a NaN. -/
def FVal.neg : FVal → Bool
  | .nan _ => false
  | .inf n => n
  | .fin n _ _ => n

/-- The value with its sign flipped when `b`. -/
def FVal.flip (v : FVal) (b : Bool) : FVal :=
  match v with
  | .nan q => .nan q
  | .inf n => .inf (n != b)
  | .fin n m e => .fin (n != b) m e

/-- The signed integer m * 2^(e - base) of a finite value, for a base not above e. -/
def scaled (neg : Bool) (m : Nat) (e base : Int) : Int :=
  let x : Int := m * 2 ^ (e - base).toNat
  if neg then -x else x

/-- Sum of two values (R152). -/
def fadd2 (f : Fmt) (r : Rounding) (a b : FVal) : Nat × Nat :=
  match a, b with
  | .nan _, _ | _, .nan _ => (f.nan, snanFlag [a, b])
  | .inf n, .inf n' => if n == n' then (f.signed n f.infPat, 0) else (f.nan, flagNV)
  | .inf n, _ | _, .inf n => (f.signed n f.infPat, 0)
  | .fin n m e, .fin n' m' e' =>
    let base := min e e'
    roundInt f r (scaled n m e base + scaled n' m' e' base) base (zeroSign r n n')

/-- Product of two values. -/
def fmul2 (f : Fmt) (r : Rounding) (a b : FVal) : Nat × Nat :=
  match a, b with
  | .nan _, _ | _, .nan _ => (f.nan, snanFlag [a, b])
  | .inf n, .inf n' => (f.signed (n != n') f.infPat, 0)
  | .inf n, .fin n' m _ | .fin n' m _, .inf n =>
    if m = 0 then (f.nan, flagNV) else (f.signed (n != n') f.infPat, 0)
  | .fin n m e, .fin n' m' e' => roundExact f r false (n != n') (m * m') (e + e')

/-- Quotient of two values (R175). -/
def fdiv2 (f : Fmt) (r : Rounding) (a b : FVal) : Nat × Nat :=
  let neg := a.neg != b.neg
  match a, b with
  | .nan _, _ | _, .nan _ => (f.nan, snanFlag [a, b])
  | .inf _, .inf _ => (f.nan, flagNV)
  | .inf _, _ => (f.signed neg f.infPat, 0)
  | .fin .., .inf _ => (f.signed neg 0, 0)
  | .fin _ m e, .fin _ m' e' =>
    if m' = 0 then (if m = 0 then (f.nan, flagNV) else (f.signed neg f.infPat, flagDZ))
    else if m = 0 then (f.signed neg 0, 0)
    else
      let k := f.p + 30 + Nat.log2 m' + 1
      let n := m * 2 ^ k
      roundMag f r false neg (n / m') (e - e' - k) (n % m' != 0)

/-- The integer square root, by bisection on `fuel` bits. -/
def isqrt (fuel x : Nat) : Nat :=
  match fuel with
  | 0 => 0
  | n + 1 =>
    let y := 2 * isqrt n (x / 4)
    if (y + 1) * (y + 1) ≤ x then y + 1 else y

/-- Square root of a value (R175). -/
def fsqrt1 (f : Fmt) (r : Rounding) (a : FVal) : Nat × Nat :=
  match a with
  | .nan q => (f.nan, if q then flagNV else 0)
  | .inf n => if n then (f.nan, flagNV) else (f.infPat, 0)
  | .fin n m e =>
    if m = 0 then (f.signed n 0, 0)
    else if n then (f.nan, flagNV)
    else
      -- x * 2^(2k + odd) with an even exponent, wide enough for a sticky root
      let k := f.p + 30
      let odd := (e % 2).toNat
      let x := m * 2 ^ (2 * k + odd)
      let e' := (e - odd) / 2 - k
      let q := isqrt (k + f.p + 3) x
      roundMag f r false false q e' (q * q != x)

/-- a * b + c with one rounding, the product and the addend signed as a variant asks (R152, R176, R218). -/
def fma3 (f : Fmt) (r : Rounding) (negP negC : Bool) (a b c : FVal) : Nat × Nat :=
  let c := c.flip negC
  let pneg := (a.neg != b.neg) != negP
  let invalid := match a, b with
    | .inf _, .fin _ m _ | .fin _ m _, .inf _ => m == 0
    | _, _ => false
  if invalid then (f.nan, flagNV)
  else if a.isNan || b.isNan || c.isNan then (f.nan, snanFlag [a, b, c])
  else
    match a, b, c with
    | .fin n m e, .fin n' m' e', .fin n'' m'' e'' =>
      let ep := e + e'
      let base := min ep e''
      let pn := (n != n') != negP
      roundInt f r (scaled pn (m * m') ep base + scaled n'' m'' e'' base) base (zeroSign r pn n'')
    | .fin .., .fin .., .inf n => (f.signed n f.infPat, 0)
    | _, _, .inf n => if n == pneg then (f.signed n f.infPat, 0) else (f.nan, flagNV)
    | _, _, _ => (f.signed pneg f.infPat, 0)

/-- The order of two values, neither a NaN; zeros are equal. -/
def fcmp (a b : FVal) : Ordering :=
  match a, b with
  | .inf n, .inf n' => if n == n' then .eq else if n then .lt else .gt
  | .inf n, _ => if n then .lt else .gt
  | _, .inf n => if n then .gt else .lt
  | .fin n m e, .fin n' m' e' =>
    let base := min e e'
    compare (scaled n m e base) (scaled n' m' e' base)
  | _, _ => .eq

/-- FMIN and FMAX of R175 on patterns: -0 is less than +0, and one NaN gives the other operand. -/
def fminmax (f : Fmt) (isMax : Bool) (x y : Nat) : Nat × Nat :=
  let a := f.unpack x
  let b := f.unpack y
  let fl := snanFlag [a, b]
  let x := x % 2 ^ f.bits
  let y := y % 2 ^ f.bits
  if a.isNan && b.isNan then (f.nan, fl)
  else if a.isNan then (y, fl)
  else if b.isNan then (x, fl)
  else
    let less := match fcmp a b with
      | .lt => true
      | .gt => false
      | .eq => a.neg && !b.neg
    (if less != isMax then x else y, fl)

/-- The relations of FEQ, FLT, FLE and the floating compares (R175, R219). -/
inductive FRel where
  | eq
  | ne
  | lt
  | le
  | gt
  | ge
  | un
  deriving DecidableEq, Repr

/-- A relation of two values, with its flags: the ordered relations raise NV for any NaN. -/
def frel (rel : FRel) (a b : FVal) : Bool × Nat :=
  let un := a.isNan || b.isNan
  let o := fcmp a b
  match rel with
  | .eq => (!un && o == .eq, snanFlag [a, b])
  | .ne => (un || o != .eq, snanFlag [a, b])
  | .un => (un, snanFlag [a, b])
  | .lt => (!un && o == .lt, if un then flagNV else 0)
  | .le => (!un && o != .gt, if un then flagNV else 0)
  | .gt => (!un && o == .gt, if un then flagNV else 0)
  | .ge => (!un && o != .lt, if un then flagNV else 0)

/-- Conversion between floating formats (R150, R155); `sat` is the saturating form, which only E4M3 and E5M2 have. -/
def fcvt1 (dst : Fmt) (r : Rounding) (sat : Bool) (a : FVal) : Nat × Nat :=
  match a with
  | .nan q => (dst.nan, if q then flagNV else 0)
  | .inf n =>
    if sat then (dst.signed n dst.maxPat, flagOF)
    else if dst.hasInf then (dst.signed n dst.infPat, 0)
    else (dst.nan, flagNV)
  | .fin n m e => roundExact dst r sat n m e

/-- The mode that conversions to integer and reductions use: RNE in place of SR (R154). -/
def Rounding.noSr (r : Rounding) : Rounding := if r.mode = 5 then rneMode else r

/-- An exact value m * 2^e rounded to an integer magnitude, and whether it was inexact. -/
def intMag (r : Rounding) (neg : Bool) (m : Nat) (e : Int) : Nat × Bool :=
  if 0 ≤ e then (m * 2 ^ e.toNat, false)
  else
    let sh := (-e).toNat
    let q := m / 2 ^ sh
    let rem := m % 2 ^ sh
    (if rem != 0 && roundsUp r neg (q % 2 == 1) rem sh false then q + 1 else q, rem != 0)

/-- Conversion to an integer of `n` bits (R156). -/
def fcvtInt (r : Rounding) (n : Nat) (signed : Bool) (a : FVal) : Int × Nat :=
  let lo : Int := if signed then -(2 ^ (n - 1) : Int) else 0
  let hi : Int := if signed then 2 ^ (n - 1) - 1 else 2 ^ n - 1
  match a with
  | .nan _ => (0, flagNV)
  | .inf neg => (if neg then lo else hi, flagNV)
  | .fin neg m e =>
    let (q, inexact) := intMag r.noSr neg m e
    let x : Int := if neg then -(q : Int) else q
    if x < lo then (lo, flagNV) else if hi < x then (hi, flagNV) else (x, if inexact then flagNX else 0)

/-- Conversion from an integer. -/
def fcvtFrom (f : Fmt) (r : Rounding) (x : Int) : Nat × Nat := roundInt f r x 0 false

/-- The reduction tree of R163 over operands in order, none being padding; `op` gives a result and its flags. The answer
is none when every operand is padding. One halving step combines element i with element i + h. -/
def halve {α : Type} (op : α → α → α × Nat) (h : Nat) (xs : List (Option α)) : List (Option α) × Nat :=
  let ys := xs.drop h
  let rec go : List (Option α) → List (Option α) → List (Option α) × Nat
    | [], _ => ([], 0)
    | x :: xs, [] => let (r, f) := go xs []; (x :: r, f)
    | x :: xs, y :: ys =>
      let (r, f) := go xs ys
      match x, y with
      | some a, some b => let (c, g) := op a b; (some c :: r, f ||| g)
      | some a, none => (some a :: r, f)
      | none, y => (y :: r, f)
  go (xs.take h) ys

/-- The halving steps from a power of two down to one operand. -/
def tree {α : Type} (op : α → α → α × Nat) : Nat → List (Option α) → Option α × Nat
  | 0, xs => ((xs.headD none), 0)
  | n + 1, xs =>
    let (ys, f) := halve op (2 ^ n) xs
    let (r, g) := tree op n ys
    (r, f ||| g)

/-- The least n with x ≤ 2^n. -/
def log2Up (x : Nat) : Nat := if x ≤ 1 then 0 else Nat.log2 (x - 1) + 1

/-- The reduction of R163 with an optional initial operand. -/
def reduceTree {α : Type} (op : α → α → α × Nat) (init : Option α) (xs : List (Option α)) : Option α × Nat :=
  let (r, f) := tree op (log2Up xs.length) xs
  match init, r with
  | some a, some b => let (c, g) := op a b; (some c, f ||| g)
  | some a, none => (some a, f)
  | none, r => (r, f)

end Sys2Proof.Machine
end

