-- ==== Sys2Proof/Syntax.lean ====
section
/-!
DEFINITION. The instructions and events of the machine: one constructor of `Instr` for each row of
spec/opcode_table.json. The first 108 are the events of the module (launch unit, engines, homes, hosts, fabric,
power and service), which have no word; the other 359 are the Elveni instructions, with the fields that the table
gives their words (R112, R113) under the table's own letters.
-/

namespace Sys2Proof

/-- What the gauge checker finds for the vector or matrix instruction that commits next (R145, R146). -/
inductive GaugeReport where
  /-- The lane result agrees with the checker. -/
  | agree
  /-- A first mismatch at a physical lane; the recomputation agrees and the lane receives a strike. -/
  | strike (die lgrp unit lane : Nat)
  /-- A first mismatch of an MXOP; the recomputation agrees and the array receives a strike. -/
  | strikeArray (die array : Nat)
  /-- A mismatch on the recomputation, at the checked element (for an MXOP, 32 * i + j). -/
  | mismatch (elem : Nat)
  /-- A word of the hart's register state reads uncorrectable (R405): file 0 vector, 1 mask, 2 accumulator; register; element of 64
  bits, or accumulator cell. -/
  | badRegister (file reg idx : Nat)
  /-- An 8-byte word of a scratchpad region reads uncorrectable (R266, R405). -/
  | badScratch (core lid word : Nat)
  /-- A line reads uncorrectable in a cache (R405). -/
  | badLine (line : Nat)
  /-- A state cell, or a marginal counter, of a variable of a sampling handle of the hart's launch reads uncorrectable (R335). -/
  | badSampler (handle v : Nat) (counter : Bool)
  /-- A core is found failing while it works (R82, R86). -/
  | badCore (core : Nat)
  deriving DecidableEq, Repr

/-- One boot step of a unit whose first `count` alternatives fail (R415). `detail` is the place of the
unit for step 7: die * 2^24 + lane group * 2^16 + unit * 2^8 + lane; an array has lane 255. -/
structure BootFail where
  step : Nat
  unit : Nat
  count : Nat
  detail : Nat
  deriving DecidableEq, Repr

/-- What a patrol scrubber finds in the line it reads (R267, R268). -/
inductive ScrubFinding where
  | clean
  | correctable
  | uncorrectable
  deriving DecidableEq, Repr

/-- Why the firmware ends a launch (R81, R386): its promised time has passed; retries and migrations have used up H; the page
fault or system call of the hart on a slot cannot be resolved. -/
inductive FirmwareEnd where
  | expired
  | allowance
  | unresolved (hid : Nat)
  deriving DecidableEq, Repr

/-- The end that the firmware gives a launch. -/
structure LaunchEnd where
  lid : Nat
  why : FirmwareEnd
  deriving DecidableEq, Repr

/-- The verification that a hart's LAUNCH has begun has ended (R29); `releases` are the entries of the verified-image table that
the supervisor releases before it enters the image. -/
structure Verified where
  hid : Nat
  releases : List Nat
  deriving DecidableEq, Repr

/-- The atomic of the hart on a slot, at the home of a line (R261). -/
structure HomeAccess where
  hid : Nat
  line : Nat
  deriving DecidableEq, Repr

/-- State of a line in a coherence agent (R258). -/
inductive Moesi where
  | m
  | o
  | e
  | s
  | i
  deriving DecidableEq, Repr

/-- A host port's request for device memory (R263, R67). -/
inductive HostReq where
  | read (pa len : Nat)
  | write (pa : Nat) (bytes : List Byte)
  | fetchAdd (pa n : Nat)
  deriving DecidableEq, Repr

/-- The fields of a collective record that members compare (R369). -/
structure CollHdr where
  kind : Nat
  type : Nat
  rop : Nat
  mode : Nat
  policy : Nat
  root : Nat
  count : Nat
  deriving DecidableEq, Repr

/-- One owned cell of a part, as its engine sends it to the other parts (R321). -/
structure MeshCell where
  key : Nat
  flag : Nat
  weight : Nat
  data : List (List Byte)
  deriving DecidableEq, Repr

/-- What one part's engine sends to the other parts of a collective mesh operation (R321). -/
structure MeshShare where
  part : Nat
  npart : Nat
  /-- Handle of the sender's part. -/
  src : Nat
  /-- The part it is sent to, and that part's handle. -/
  target : Nat
  dst : Nat
  kind : Nat
  mode : Nat
  cellBytes : List Nat
  /-- False when the sender's handle is not open, or its own peer entry does not name it. -/
  open_ : Bool
  cells : List MeshCell
  deriving DecidableEq, Repr

/-- What a collective or remote-copy flit carries (R358, R371, R377, R381, R321). -/
inductive FlitBody where
  /-- A member has dispatched the collective (`etag`, `cid`), its `n`-th of that pair, with this record; `data` holds its
  source elements as bit patterns, `exps` the block exponents of phase one that it keeps from an old view (R377): none
  for a block with no finite nonzero contribution. -/
  | share (etag cid n : Nat) (hdr : CollHdr) (data : List Nat) (poisoned : Bool) (exps : Option (List (Option Int)))
  /-- The sender holds its own result of that collective. -/
  | held (etag cid n : Nat)
  /-- A remote copy reads `len` bytes at `pa` for the sender's operation `op`. -/
  | copyRead (op pa len : Nat)
  /-- A remote copy writes bytes at `pa` for the sender's operation `op`, whose whole range is [base, base + len); `bad`
  holds the offsets within `bytes` of its poisoned 8-byte words. -/
  | copyWrite (op pa base len : Nat) (bytes : List Byte) (bad : List Nat)
  /-- The bytes that this package's operation `op` asked for, at offset `off` of its range, with their poisoned words. -/
  | copyData (op off : Nat) (bytes : List Byte) (bad : List Nat)
  /-- The remote side has performed `n` bytes of the writes of operation `op`. -/
  | copyDone (op n : Nat)
  /-- The remote side refuses the whole copy `op` (R381). -/
  | copyRefused (op : Nat)
  /-- Cells, keys and values of a part (R321). -/
  | meshShare (m : MeshShare)
  deriving DecidableEq, Repr

/-- A 256-byte flit of the fabric with the sender's view tag and fabric id (R358); `rank` is the sender's rank. -/
structure Flit where
  tag : Nat
  sender : Nat
  rank : Nat
  body : FlitBody
  deriving DecidableEq, Repr

/-- A collective of a view (R369): a pair, and which dispatch of it. -/
structure CollId where
  etag : Nat
  cid : Nat
  n : Nat
  deriving DecidableEq, Repr

/-- What an acknowledgement says of a collective (R362, R375): the members that its sender knows to hold their results, and the CODE
and DETAIL with which it has ended there with no result. -/
structure HeldBy where
  run : CollId
  fids : List Nat
  ending : Option (Nat × Nat)
  deriving DecidableEq, Repr

/-- How a collective of the old view is settled (R375, R383): every member of that view held its result, or it has ended with a CODE
and DETAIL. -/
structure Settled where
  run : CollId
  ending : Option (Nat × Nat)
  deriving DecidableEq, Repr

/-- Requests that are pending: packages that ask to join, and members to be removed (R379, R380). -/
structure Pending where
  joiners : List Nat
  leavers : List Nat
  deriving DecidableEq, Repr

/-- What a proposal carries (R362, R379): its member set, and the requests that the leader knows. -/
structure Proposed where
  members : List Nat
  pend : Pending
  deriving DecidableEq, Repr

/-- What an acknowledgement carries (R362, R379). -/
structure Acknowledged where
  heldBy : List HeldBy
  pend : Pending
  deriving DecidableEq, Repr

/-- The instructions and events of the module: one constructor for each row of the opcode table. -/
inductive Instr where
  -- events without a word
  | statusAccess (v : Option Word)
  | vtypeWrite (v : Word)
  | vlWrite (v : Word)
  | slipWrite (v : Word)
  | seedWrite (v : Word)
  | dseedWrite (v : Word)
  | rminWrite (cls : Bit1) (v : Word)
  | mtypeWrite (v : Word)
  | mvlWrite (v : Word)
  | spbaseWrite (v : Word)
  | controlRegisterWrite (creg : BitVec 12) (v : Word)
  | instructionFetch (core part : Nat)
  | slotPick (core part : Nat)
  | vectorQueueDispatch (hid : Nat)
  | granuleCommit (hid : Nat) (r : GaugeReport)
  | scalarStoreAck (hid : Nat)
  | hartStop (hid : Nat)
  | hartSaveDone (hid : Nat)
  | hartRestore (lid j : Nat)
  | heldEventTake (hid : Nat)
  | stretchPreemption (hid : Nat)
  | issueBudgetExhausted (hid : Nat)
  | budgetGraceExpiry (hid : Nat)
  | grantApply (hid : Nat)
  | mtypeChange (hid : Nat) (v : Word)
  | hartEnd (hid : Nat)
  | waitwWake (hid : Nat)
  | farmBarrierRelease (lid farm : Nat)
  | farmredResult (hid : Nat)
  | weirwtWake (hid : Nat)
  | vwmwaitWake (hid : Nat)
  | gatedElementRead (hid : Nat)
  | publicationApply (idx : Nat)
  | cwaitReturn (hid : Nat)
  | handleWaitReturn (hid : Nat)
  | copyComplete (op : Nat)
  | weirArrival (op n : Nat)
  | cpygsRowLanded (op row : Nat)
  | engineOperationComplete (op : Nat)
  | engineOperationStop (op : Nat)
  | imageVerificationDone (v : Verified)
  | handlePostedSlot (port slot : Nat)
  | prereqWordMet (lid j : Nat)
  | prereqUnreadable (lid j : Nat)
  | launchStart (lid : Nat)
  | promiseExpiry (e : LaunchEnd)
  | refit
  | completionRecordWrite (lid : Nat)
  | hostNotice (lid : Nat)
  | powerReading (mw decic : Nat)
  | standbyEntry
  | standbyExitDone
  | boot (fails : List BootFail)
  | linkService (link outcome : Nat)
  | patrolScrub (stack : Nat) (error fixable : Bool)
  | rds (agent line : Nat)
  | rdx (agent line : Nat)
  | upg (agent line : Nat)
  | evc (agent line : Nat)
  | wbd (agent line : Nat)
  | snps (agent line : Nat)
  | snpx (agent line : Nat)
  | inv (agent line : Nat)
  | binv (agent line : Nat)
  | fwd (agent line : Nat)
  | data (agent line : Nat)
  | rsp (agent line : Nat)
  | cmp (agent line : Nat)
  | homeAtomic (a : HomeAccess)
  | remoteAtomicError (hid : Nat) (applied : Bool) (elem : Nat)
  | hostPortRequest (port : Nat) (r : HostReq)
  | priResponse (hid : Nat) (ok : Bool)
  | priTimeout (hid : Nat)
  | atsInvalidation (port pasid va : Nat)
  | attest (port : Nat)
  | keysetInstall (port : Nat)
  | keysetClear (port : Nat)
  | jclear (port : Nat)
  | jread (port : Nat)
  | logread (port : Nat)
  | spaceBind (port : Nat)
  | spaceUnbind (port : Nat)
  | heartbeatSend
  | heartbeatReceive (fid : Nat)
  | heartbeatTimeout (fid : Nat)
  | neighbourUnreachable (fid : Nat)
  | suspicionReport (reporter suspect : Nat)
  | viewProposal (leader : Nat) (p : Proposed)
  | proposalAck (fid : Nat) (a : Acknowledged)
  | proposalAckTimeout (fid : Nat)
  | viewCommit (tag : Nat) (members : List Nat) (settled : List Settled) (failure : Bool)
  | commitTimeout
  | quiescenceHold (leader : Nat)
  | holdUnion (pairs : List (Nat × Nat))
  | holdAck (fid : Nat) (pairs : Option (List (Nat × Nat)))
  | joinRequest (fid : Nat) (leave : Bool)
  | joinRequestRetry (req : Nat) (answer : Option Bool)
  | joinTimeout (req : Nat)
  | membershipChangeTrap (hid : Nat)
  | fabricFlitArrival (f : Flit)
  | remoteCopyAccess (f : Flit)
  | remoteCopyRefused (op : Nat)
  | collectiveMatch (tag cid : Nat)
  | collectiveComplete (tag cid : Nat)
  | powerRemoved
  | illegalInstruction (w : BitVec 32)
  | targetCompletion (tag : Nat) (bytes : List Byte) (ok : Bool)
  | unknownCode (port : Nat)
  -- major 0x01
  | add (d a b : Reg)
  | sub (d a b : Reg)
  | and (d a b : Reg)
  | or (d a b : Reg)
  | xor (d a b : Reg)
  | andn (d a b : Reg)
  | sll (d a b : Reg)
  | srl (d a b : Reg)
  | sra (d a b : Reg)
  | ror (d a b : Reg)
  | slt (d a b : Reg)
  | sltn (d a b : Reg)
  | min (d a b : Reg)
  | max (d a b : Reg)
  | mul (d a b : Reg)
  | mulh (d a b : Reg)
  | mulhn (d a b : Reg)
  | div (d a b : Reg)
  | divn (d a b : Reg)
  | rem (d a b : Reg)
  | remn (d a b : Reg)
  | clz (d a : Reg)
  | popc (d a : Reg)
  | slli (d a : Reg) (h : BitVec 6)
  | srli (d a : Reg) (h : BitVec 6)
  | srai (d a : Reg) (h : BitVec 6)
  | rori (d a : Reg) (h : BitVec 6)
  -- major 0x02
  | addi (d a : Reg) (i : BitVec 16)
  -- major 0x03
  | andi (d a : Reg) (i : BitVec 16)
  -- major 0x04
  | ori (d a : Reg) (i : BitVec 16)
  -- major 0x05
  | xori (d a : Reg) (i : BitVec 16)
  -- major 0x06
  | slti (d a : Reg) (i : BitVec 16)
  -- major 0x07
  | sltni (d a : Reg) (i : BitVec 16)
  -- major 0x08
  | lhi (d : Reg) (i : BitVec 21)
  -- major 0x09
  | pchi (d : Reg) (i : BitVec 21)
  -- major 0x0A
  | fadd (d a b : Reg) (f m : Num3)
  | fsub (d a b : Reg) (f m : Num3)
  | fmul (d a b : Reg) (f m : Num3)
  | fdiv (d a b : Reg) (f m : Num3)
  | fsqrt (d a : Reg) (f m : Num3)
  | fmin (d a b : Reg) (f : Num3)
  | fmax (d a b : Reg) (f : Num3)
  | feq (d a b : Reg) (f : Num3)
  | flt (d a b : Reg) (f : Num3)
  | fle (d a b : Reg) (f : Num3)
  | fcvt (d a : Reg) (s f m : Num3)
  | fcvti (d a : Reg) (t : BitVec 2) (f m : Num3)
  | fcvtf (d a : Reg) (t : BitVec 2) (f m : Num3)
  -- major 0x0B
  | fma (d a b c : Reg) (f : BitVec 2)
  | fms (d a b c : Reg) (f : BitVec 2)
  | fnma (d a b c : Reg) (f : BitVec 2)
  | fnms (d a b c : Reg) (f : BitVec 2)
  -- major 0x0C
  | ldI8 (d a : Reg) (o : BitVec 13)
  | ldI16 (d a : Reg) (o : BitVec 13)
  | ldI32 (d a : Reg) (o : BitVec 13)
  | ldI64 (d a : Reg) (o : BitVec 13)
  | ldN8 (d a : Reg) (o : BitVec 13)
  | ldN16 (d a : Reg) (o : BitVec 13)
  | ldN32 (d a : Reg) (o : BitVec 13)
  -- major 0x0D
  | stI8 (s a : Reg) (o : BitVec 13)
  | stI16 (s a : Reg) (o : BitVec 13)
  | stI32 (s a : Reg) (o : BitVec 13)
  | stI64 (s a : Reg) (o : BitVec 13)
  -- major 0x0E
  | atswap (d a b : Reg) (o : BitVec 2) (s : Num3) (z : Bit1)
  | atadd (d a b : Reg) (o : BitVec 2) (s : Num3) (z : Bit1)
  | atand (d a b : Reg) (o : BitVec 2) (s : Num3) (z : Bit1)
  | ator (d a b : Reg) (o : BitVec 2) (s : Num3) (z : Bit1)
  | atxor (d a b : Reg) (o : BitVec 2) (s : Num3) (z : Bit1)
  | atmin (d a b : Reg) (o : BitVec 2) (s : Num3) (z : Bit1)
  | atmax (d a b : Reg) (o : BitVec 2) (s : Num3) (z : Bit1)
  | atminN (d a b : Reg) (o : BitVec 2) (s : Num3) (z : Bit1)
  | atmaxN (d a b : Reg) (o : BitVec 2) (s : Num3) (z : Bit1)
  | atfadd (d a b : Reg) (o : BitVec 2) (s : Num3) (z : Bit1)
  | ldo (d a : Reg) (o : BitVec 2) (s : Num3) (z : Bit1)
  | sto (a b : Reg) (o : BitVec 2) (s : Num3) (z : Bit1)
  -- major 0x0F
  | cas (d a b c : Reg) (o : BitVec 2) (s : Num3) (z : Bit1)
  -- major 0x10
  | beq (a b : Reg) (o : BitVec 16)
  -- major 0x11
  | bne (a b : Reg) (o : BitVec 16)
  -- major 0x12
  | blt (a b : Reg) (o : BitVec 16)
  -- major 0x13
  | bge (a b : Reg) (o : BitVec 16)
  -- major 0x14
  | bltn (a b : Reg) (o : BitVec 16)
  -- major 0x15
  | bgen (a b : Reg) (o : BitVec 16)
  -- major 0x16
  | jal (o : BitVec 26)
  -- major 0x17
  | jalr (d a : Reg) (i : BitVec 16)
  -- major 0x18
  | kbrAny (k : Num3) (o : BitVec 21)
  | kbrNone (k : Num3) (o : BitVec 21)
  | kbrAll (k : Num3) (o : BitVec 21)
  | kbrNall (k : Num3) (o : BitVec 21)
  -- major 0x19
  | vwhile (k : Num3) (v b : Reg) (o : BitVec 13)
  -- major 0x1A
  | fence (o : BitVec 2) (s : Num3)
  | waitw (d a b : Reg) (o : BitVec 2) (s : Num3)
  | yield
  | exit
  | brk (n : BitVec 6)
  | syscall (n : BitVec 6)
  -- major 0x1B
  | tret
  | ctxsv (a : Reg)
  | ctxld (a : Reg)
  | tlbinvPage (a b : Reg)
  | tlbinvAsid (b : Reg)
  | tlbinvAll
  | asw (a b : Reg)
  -- major 0x1C
  | crr (d : Reg) (c : BitVec 12)
  | crw (d a : Reg) (c : BitVec 12)
  | crs (d a : Reg) (c : BitVec 12)
  | crc (d a : Reg) (c : BitVec 12)
  -- major 0x1D
  | launch (d a : Reg)
  | lstat (d a : Reg)
  | lcancel (d a : Reg)
  | farm (a b : Reg)
  | strip (d a : Reg)
  | farmredF64 (d a b : Reg)
  | farmredMin (d a b : Reg)
  | farmredMax (d a b : Reg)
  | farmredI64 (d a b : Reg)
  -- major 0x1E
  | vsetvl (d a : Reg)
  | vsetvlB (d a b : Reg)
  | vsettype (d a : Reg)
  | mxmode (d a b : Reg)
  -- major 0x20
  | vadd (d a b : Reg) (c e : Bit1) (g : Num3)
  | vsub (d a b : Reg) (c e : Bit1) (g : Num3)
  | vrsub (d a b : Reg) (c e : Bit1) (g : Num3)
  | vand (d a b : Reg) (c e : Bit1) (g : Num3)
  | vor (d a b : Reg) (c e : Bit1) (g : Num3)
  | vxor (d a b : Reg) (c e : Bit1) (g : Num3)
  | vsll (d a b : Reg) (c e : Bit1) (g : Num3)
  | vsrl (d a b : Reg) (c e : Bit1) (g : Num3)
  | vsra (d a b : Reg) (c e : Bit1) (g : Num3)
  | vmin (d a b : Reg) (c e : Bit1) (g : Num3)
  | vmax (d a b : Reg) (c e : Bit1) (g : Num3)
  | vminn (d a b : Reg) (c e : Bit1) (g : Num3)
  | vmaxn (d a b : Reg) (c e : Bit1) (g : Num3)
  | vmul (d a b : Reg) (c e : Bit1) (g : Num3)
  | vmulh (d a b : Reg) (c e : Bit1) (g : Num3)
  | vmulhn (d a b : Reg) (c e : Bit1) (g : Num3)
  | vdiv (d a b : Reg) (c e : Bit1) (g : Num3)
  | vdivn (d a b : Reg) (c e : Bit1) (g : Num3)
  | vrem (d a b : Reg) (c e : Bit1) (g : Num3)
  | vremn (d a b : Reg) (c e : Bit1) (g : Num3)
  | vsadd (d a b : Reg) (c e : Bit1) (g : Num3)
  | vsaddn (d a b : Reg) (c e : Bit1) (g : Num3)
  | vssub (d a b : Reg) (c e : Bit1) (g : Num3)
  | vssubn (d a b : Reg) (c e : Bit1) (g : Num3)
  | vmv (d b : Reg) (e : Bit1) (g : Num3)
  | vmuln (d a b : Reg) (c e : Bit1) (g : Num3)
  | vid (d : Reg) (g : Num3)
  -- major 0x21
  | vaddVx (d a b : Reg) (c : Bit1) (g : Num3)
  | vsubVx (d a b : Reg) (c : Bit1) (g : Num3)
  | vrsubVx (d a b : Reg) (c : Bit1) (g : Num3)
  | vandVx (d a b : Reg) (c : Bit1) (g : Num3)
  | vorVx (d a b : Reg) (c : Bit1) (g : Num3)
  | vxorVx (d a b : Reg) (c : Bit1) (g : Num3)
  | vsllVx (d a b : Reg) (c : Bit1) (g : Num3)
  | vsrlVx (d a b : Reg) (c : Bit1) (g : Num3)
  | vsraVx (d a b : Reg) (c : Bit1) (g : Num3)
  | vminVx (d a b : Reg) (c : Bit1) (g : Num3)
  | vmaxVx (d a b : Reg) (c : Bit1) (g : Num3)
  | vminnVx (d a b : Reg) (c : Bit1) (g : Num3)
  | vmaxnVx (d a b : Reg) (c : Bit1) (g : Num3)
  | vmulVx (d a b : Reg) (c : Bit1) (g : Num3)
  | vmulhVx (d a b : Reg) (c : Bit1) (g : Num3)
  | vmulhnVx (d a b : Reg) (c : Bit1) (g : Num3)
  | vdivVx (d a b : Reg) (c : Bit1) (g : Num3)
  | vdivnVx (d a b : Reg) (c : Bit1) (g : Num3)
  | vremVx (d a b : Reg) (c : Bit1) (g : Num3)
  | vremnVx (d a b : Reg) (c : Bit1) (g : Num3)
  | vsaddVx (d a b : Reg) (c : Bit1) (g : Num3)
  | vsaddnVx (d a b : Reg) (c : Bit1) (g : Num3)
  | vssubVx (d a b : Reg) (c : Bit1) (g : Num3)
  | vssubnVx (d a b : Reg) (c : Bit1) (g : Num3)
  | vmvVx (d b : Reg) (g : Num3)
  | vmulnVx (d a b : Reg) (c : Bit1) (g : Num3)
  -- major 0x22
  | vfadd (d a b : Reg) (c e : Bit1) (g : Num3)
  | vfsub (d a b : Reg) (c e : Bit1) (g : Num3)
  | vfmul (d a b : Reg) (c e : Bit1) (g : Num3)
  | vfdiv (d a b : Reg) (c e : Bit1) (g : Num3)
  | vfsqrt (d a : Reg) (c : Bit1) (g : Num3)
  | vfmin (d a b : Reg) (c e : Bit1) (g : Num3)
  | vfmax (d a b : Reg) (c e : Bit1) (g : Num3)
  | vfsigncp (d a b : Reg) (c e : Bit1) (g : Num3)
  | vfsignneg (d a b : Reg) (c e : Bit1) (g : Num3)
  | vfsignxor (d a b : Reg) (c e : Bit1) (g : Num3)
  | vfcvti (d a : Reg) (c : Bit1) (g : Num3)
  | vfcvtin (d a : Reg) (c : Bit1) (g : Num3)
  | vfcvtf (d a : Reg) (c : Bit1) (g : Num3)
  | vfcvtfn (d a : Reg) (c : Bit1) (g : Num3)
  -- major 0x23
  | vfaddVx (d a b : Reg) (c : Bit1) (g : Num3)
  | vfsubVx (d a b : Reg) (c : Bit1) (g : Num3)
  | vfmulVx (d a b : Reg) (c : Bit1) (g : Num3)
  | vfdivVx (d a b : Reg) (c : Bit1) (g : Num3)
  | vfminVx (d a b : Reg) (c : Bit1) (g : Num3)
  | vfmaxVx (d a b : Reg) (c : Bit1) (g : Num3)
  | vfsigncpVx (d a b : Reg) (c : Bit1) (g : Num3)
  | vfsignnegVx (d a b : Reg) (c : Bit1) (g : Num3)
  | vfsignxorVx (d a b : Reg) (c : Bit1) (g : Num3)
  -- major 0x24
  | vfma (d a b c : Reg) (x y z : Bit1) (g : Num3)
  -- major 0x25
  | vfms (d a b c : Reg) (x y z : Bit1) (g : Num3)
  -- major 0x26
  | vfnma (d a b c : Reg) (x y z : Bit1) (g : Num3)
  -- major 0x27
  | vfnms (d a b c : Reg) (x y z : Bit1) (g : Num3)
  -- major 0x28
  | vcmpeq (d : Num3) (a b : Reg) (c e : Bit1) (g : Num3)
  | vcmpne (d : Num3) (a b : Reg) (c e : Bit1) (g : Num3)
  | vcmplt (d : Num3) (a b : Reg) (c e : Bit1) (g : Num3)
  | vcmple (d : Num3) (a b : Reg) (c e : Bit1) (g : Num3)
  | vcmpgt (d : Num3) (a b : Reg) (c e : Bit1) (g : Num3)
  | vcmpge (d : Num3) (a b : Reg) (c e : Bit1) (g : Num3)
  | vcmpltn (d : Num3) (a b : Reg) (c e : Bit1) (g : Num3)
  | vcmplen (d : Num3) (a b : Reg) (c e : Bit1) (g : Num3)
  | vcmpgtn (d : Num3) (a b : Reg) (c e : Bit1) (g : Num3)
  | vcmpgen (d : Num3) (a b : Reg) (c e : Bit1) (g : Num3)
  | vfcmpeq (d : Num3) (a b : Reg) (c e : Bit1) (g : Num3)
  | vfcmpne (d : Num3) (a b : Reg) (c e : Bit1) (g : Num3)
  | vfcmplt (d : Num3) (a b : Reg) (c e : Bit1) (g : Num3)
  | vfcmple (d : Num3) (a b : Reg) (c e : Bit1) (g : Num3)
  | vfcmpgt (d : Num3) (a b : Reg) (c e : Bit1) (g : Num3)
  | vfcmpge (d : Num3) (a b : Reg) (c e : Bit1) (g : Num3)
  | vfcmpun (d : Num3) (a b : Reg) (c e : Bit1) (g : Num3)
  | vcmpeqVx (d : Num3) (a b : Reg) (c : Bit1) (g : Num3)
  | vcmpneVx (d : Num3) (a b : Reg) (c : Bit1) (g : Num3)
  | vcmpltVx (d : Num3) (a b : Reg) (c : Bit1) (g : Num3)
  | vcmpleVx (d : Num3) (a b : Reg) (c : Bit1) (g : Num3)
  | vcmpgtVx (d : Num3) (a b : Reg) (c : Bit1) (g : Num3)
  | vcmpgeVx (d : Num3) (a b : Reg) (c : Bit1) (g : Num3)
  | vcmpltnVx (d : Num3) (a b : Reg) (c : Bit1) (g : Num3)
  | vcmplenVx (d : Num3) (a b : Reg) (c : Bit1) (g : Num3)
  | vcmpgtnVx (d : Num3) (a b : Reg) (c : Bit1) (g : Num3)
  | vcmpgenVx (d : Num3) (a b : Reg) (c : Bit1) (g : Num3)
  | vfcmpeqVx (d : Num3) (a b : Reg) (c : Bit1) (g : Num3)
  | vfcmpneVx (d : Num3) (a b : Reg) (c : Bit1) (g : Num3)
  | vfcmpltVx (d : Num3) (a b : Reg) (c : Bit1) (g : Num3)
  | vfcmpleVx (d : Num3) (a b : Reg) (c : Bit1) (g : Num3)
  | vfcmpgtVx (d : Num3) (a b : Reg) (c : Bit1) (g : Num3)
  | vfcmpgeVx (d : Num3) (a b : Reg) (c : Bit1) (g : Num3)
  | vfcmpunVx (d : Num3) (a b : Reg) (c : Bit1) (g : Num3)
  -- major 0x29
  | kand (d a b g : Num3)
  | kor (d a b g : Num3)
  | kxor (d a b g : Num3)
  | kandn (d a b g : Num3)
  | knot (d a g : Num3)
  | kmov (d a g : Num3)
  | kpop (d : Reg) (a g : Num3)
  | kfirst (d : Reg) (a g : Num3)
  | kmovSmiss (d : Num3)
  -- major 0x2A
  | vslideup (d a b : Reg) (c : Bit1) (g : Num3)
  | vslidedn (d a b : Reg) (c : Bit1) (g : Num3)
  | vinslo (d a b : Reg) (c : Bit1) (g : Num3)
  | vinshi (d a b : Reg) (c : Bit1) (g : Num3)
  | vshuf (d a b : Reg) (c e : Bit1) (g : Num3)
  | vbcast (d a b : Reg) (c : Bit1) (g : Num3)
  | vcompress (d a : Reg) (b : Num3) (c : Bit1)
  | vexpand (d a : Reg) (b : Num3) (c : Bit1)
  | viota (d : Reg) (b g : Num3)
  | vrev (d a : Reg) (c : Bit1) (g : Num3)
  -- major 0x2B
  | vredsum (d a b : Reg) (c : Bit1) (g : Num3)
  | vredand (d a b : Reg) (c : Bit1) (g : Num3)
  | vredor (d a b : Reg) (c : Bit1) (g : Num3)
  | vredxor (d a b : Reg) (c : Bit1) (g : Num3)
  | vredmin (d a b : Reg) (c : Bit1) (g : Num3)
  | vredmax (d a b : Reg) (c : Bit1) (g : Num3)
  | vredminn (d a b : Reg) (c : Bit1) (g : Num3)
  | vredmaxn (d a b : Reg) (c : Bit1) (g : Num3)
  | vfredsum (d a b : Reg) (c : Bit1) (g : Num3)
  | vfredmin (d a b : Reg) (c : Bit1) (g : Num3)
  | vfredmax (d a b : Reg) (c : Bit1) (g : Num3)
  | vqsum (d a : Reg) (c : Bit1) (g : Num3)
  -- major 0x2C
  | vcvt (d a s : Reg) (c : Bit1) (g : Num3) (t : BitVec 4)
  | vcvtNs (d a s : Reg) (c : Bit1) (g : Num3) (t : Bit1)
  | vscvt (d a : Reg) (b : BitVec 4) (c : Bit1) (g : Num3) (p : Bit1) (t : Num3)
  | vqntB4 (d a b : Reg) (c e : Bit1)
  | vqntS1 (d : Num3) (a b : Reg) (c e : Bit1)
  | vdqntB4 (d a b : Reg) (c e : Bit1) (g : Num3)
  | vdqntS1 (d : Reg) (a : Num3) (b : Reg) (e : Bit1) (g : Num3)
  | vrng (d : Reg) (b : BitVec 4) (g : Num3)
  | vdrop (d : Num3) (b : BitVec 4) (g : Num3)
  -- major 0x2D
  | vld (d a s : Reg) (g w : Num3)
  | vldAcqDie (d a s : Reg) (g w : Num3)
  | vldAcqPkg (d a s : Reg) (g w : Num3)
  | vldAcqSys (d a s : Reg) (g w : Num3)
  | vldWm (d a : Reg) (g w m : Num3)
  -- major 0x2E
  | vst (d a s : Reg) (c : Bit1) (g w : Num3)
  | vstU (d a s : Reg) (c : Bit1) (g w : Num3)
  | vstRelDie (d a s : Reg) (c : Bit1) (g w : Num3)
  | vstRelPkg (d a s : Reg) (c : Bit1) (g w : Num3)
  | vstRelSys (d a s : Reg) (c : Bit1) (g w : Num3)
  | vstNt (d a : Reg) (m : Num3) (c : Bit1) (g w : Num3)
  -- major 0x2F
  | vldx (d a s : Reg) (c : Bit1) (g w : Num3)
  | vldxAcqDie (d a s : Reg) (c : Bit1) (g w : Num3)
  | vldxAcqPkg (d a s : Reg) (c : Bit1) (g w : Num3)
  | vldxAcqSys (d a s : Reg) (c : Bit1) (g w : Num3)
  | vldxDup (d a s : Reg) (c : Bit1) (g w : Num3)
  | vldxDupAcqDie (d a s : Reg) (c : Bit1) (g w : Num3)
  | vldxDupAcqPkg (d a s : Reg) (c : Bit1) (g w : Num3)
  | vldxDupAcqSys (d a s : Reg) (c : Bit1) (g w : Num3)
  | vldxWm (d a s : Reg) (c : Bit1) (g w m : Num3)
  -- major 0x30
  | vstx (d a s : Reg) (c : Bit1) (g w : Num3)
  | vstxU (d a s : Reg) (c : Bit1) (g w : Num3)
  | vstxRelDie (d a s : Reg) (c : Bit1) (g w : Num3)
  | vstxRelPkg (d a s : Reg) (c : Bit1) (g w : Num3)
  | vstxRelSys (d a s : Reg) (c : Bit1) (g w : Num3)
  | vstxAdd (d a s : Reg) (c : Bit1) (g w : Num3)
  | vstxFadd (d a s : Reg) (c : Bit1) (g w : Num3)
  -- major 0x39
  | vatadd (d a s : Reg) (c r : Bit1) (g : Num3) (w : Bit1)
  | vatswap (d a s : Reg) (c r : Bit1) (g : Num3) (w : Bit1)
  | vatand (d a s : Reg) (c r : Bit1) (g : Num3) (w : Bit1)
  | vator (d a s : Reg) (c r : Bit1) (g : Num3) (w : Bit1)
  | vatxor (d a s : Reg) (c r : Bit1) (g : Num3) (w : Bit1)
  | vatmin (d a s : Reg) (c r : Bit1) (g : Num3) (w : Bit1)
  | vatmax (d a s : Reg) (c r : Bit1) (g : Num3) (w : Bit1)
  | vatfadd (d a s : Reg) (c r : Bit1) (g : Num3) (w : Bit1)
  -- major 0x31
  | ybind (d : Num3) (a : Reg)
  | vyld (d : Reg) (a : Num3)
  | vyst (d : Num3) (a : Reg) (c : Bit1)
  | yrel (d : Num3)
  | ystat (d : Reg) (a : Num3)
  | ybyte (d : Reg) (a : Num3)
  -- major 0x32
  | cpy (d a : Reg) (b : BitVec 4) (k : BitVec 2) (s : Num3)
  | cpyrg (d a : Reg) (b : BitVec 4) (k : BitVec 2) (s : Num3)
  | cpyrp (d a : Reg) (b : BitVec 4) (k : BitVec 2) (s : Num3)
  | cpygs (d a : Reg) (b : BitVec 4) (m : Num3)
  | cpyrk (d a : Reg) (b : Num3) (k : BitVec 2) (s : Num3)
  | weirarm (a b : Reg)
  | weirwt (d a b : Reg)
  -- major 0x33
  | vwmbind (d : Num3) (a : Reg) (s : Num3)
  | vwmaddr (d : Reg) (a : Num3)
  | vwmpub (d : Num3) (a : Reg)
  | vwmwait (d : Reg) (a : Num3) (b : Reg)
  -- major 0x34
  | mxopa (d : BitVec 2) (a b : Reg) (c e : Bit1) (g : Num3)
  | mxops (d : BitVec 2) (a b : Reg) (c e : Bit1) (g : Num3)
  -- major 0x35
  | mxzero (d : BitVec 2)
  | mxrow (d : Reg) (a : BitVec 2) (b : Reg)
  | mxcol (d : Reg) (a : BitVec 2) (b : Reg)
  | mxldRm (d : BitVec 2) (a b : Reg)
  | mxldCm (d : BitVec 2) (a b : Reg)
  | mxstRm (d : BitVec 2) (a b : Reg)
  | mxstCm (d : BitVec 2) (a b : Reg)
  -- major 0x36
  | msopen (d a : Reg)
  | msclose (a : Reg)
  | msrefine (a b : Reg)
  | msbal (a b : Reg)
  | msghost (a b : Reg)
  | mscolor (a b : Reg)
  | mskey (d a b : Reg) (c : Bit1) (g : Num3)
  | msfind (d a b : Reg) (c : Bit1) (g : Num3)
  | msremap (a b : Reg)
  | mswait (d a : Reg)
  -- major 0x37
  | gbind (d a : Reg)
  | gtable (a b : Reg)
  | gsweep (a b : Reg)
  | greadState (a b : Reg)
  | greadMarg (a b : Reg)
  | greadMargClr (a b : Reg)
  | gwait (d a : Reg)
  | grel (a : Reg)
  -- major 0x38
  | cview (d : Reg)
  | cviewMap (a : Reg)
  | cviewFid (d : Reg)
  | coll (a : Reg)
  | cwait (d a : Reg)
  | caston (d a : Reg)
  | cleave (d a : Reg)
  deriving DecidableEq, Repr

end Sys2Proof
end

