-- ==== Sys2Proof/WellFormed.lean ====
section
/-!
DEFINITION. Which instructions have a word of their own: the values of their fields that the entries assign
(R111, R113, R116, R174, R178, R179, R185, R184, R226, R271 to R286, R297). A word whose fields break these
conditions raises Illegal Instruction. An event has no word and is well-formed whatever it carries.
-/

namespace Sys2Proof

/-- The format codes FC of R226 that name a format. -/
def fcOk (c : Nat) : Bool := c < 6 || (8 ≤ c && c < 16)

/-- The field values that an instruction's entry assigns (R116). -/
def Instr.wf : Instr → Bool
  | .fadd _ _ _ f m => f.toNat < 4 && m.toNat != 6
  | .fsub _ _ _ f m => f.toNat < 4 && m.toNat != 6
  | .fmul _ _ _ f m => f.toNat < 4 && m.toNat != 6
  | .fdiv _ _ _ f m => f.toNat < 4 && m.toNat != 6
  | .fsqrt _ _ f m => f.toNat < 4 && m.toNat != 6
  | .fmin _ _ _ f => f.toNat < 4
  | .fmax _ _ _ f => f.toNat < 4
  | .feq _ _ _ f => f.toNat < 4
  | .flt _ _ _ f => f.toNat < 4
  | .fle _ _ _ f => f.toNat < 4
  | .fcvt _ _ s f m => f.toNat < 4 && m.toNat != 6 && s.toNat < 4 && s != f
  | .fcvti _ _ _ f m => f.toNat < 4 && m.toNat != 6
  | .fcvtf _ _ _ f m => f.toNat < 4 && m.toNat != 6
  | .atswap _ _ _ o s _ => o.toNat != 0 || s.toNat == 0
  | .atadd _ _ _ o s _ => o.toNat != 0 || s.toNat == 0
  | .atand _ _ _ o s _ => o.toNat != 0 || s.toNat == 0
  | .ator _ _ _ o s _ => o.toNat != 0 || s.toNat == 0
  | .atxor _ _ _ o s _ => o.toNat != 0 || s.toNat == 0
  | .atmin _ _ _ o s _ => o.toNat != 0 || s.toNat == 0
  | .atmax _ _ _ o s _ => o.toNat != 0 || s.toNat == 0
  | .atminN _ _ _ o s _ => o.toNat != 0 || s.toNat == 0
  | .atmaxN _ _ _ o s _ => o.toNat != 0 || s.toNat == 0
  | .atfadd _ _ _ o s _ => o.toNat != 0 || s.toNat == 0
  | .ldo _ _ o _ _ => o.toNat != 0
  | .sto _ _ o _ _ => o.toNat != 0
  | .cas _ _ _ _ o s _ => o.toNat != 0 || s.toNat == 0
  | .vwhile _ _ _ o => o.toNat != 0
  | .fence o _ => o.toNat != 0
  | .waitw _ _ _ o s => o.toNat == 1 || (o.toNat == 0 && s.toNat == 0)
  | .vcvt _ _ s _ _ t => fcOk s.toNat && fcOk t.toNat && s.toNat != t.toNat
  | .vcvtNs _ _ s _ _ t => s.toNat < 6 && s.toNat != 4 + t.toNat
  | .vscvt _ _ _ _ _ p t => 1 ≤ t.toNat && t.toNat ≤ 5 && p.toNat < t.toNat
  | .vqntB4 _ _ _ _ e => e.toNat == 0
  | .vqntS1 _ _ _ _ e => e.toNat == 0
  | .vld _ _ _ _ w => w.toNat < 5
  | .vldAcqDie _ _ _ _ w => w.toNat < 4
  | .vldAcqPkg _ _ _ _ w => w.toNat < 4
  | .vldAcqSys _ _ _ _ w => w.toNat < 4
  | .vldWm _ _ _ w _ => w.toNat < 4
  | .vst _ _ _ _ _ w => w.toNat < 5
  | .vstU _ _ _ _ _ w => w.toNat < 4
  | .vstRelDie _ _ _ _ _ w => w.toNat < 4
  | .vstRelPkg _ _ _ _ _ w => w.toNat < 4
  | .vstRelSys _ _ _ _ _ w => w.toNat < 4
  | .vstNt _ _ _ _ _ w => w.toNat < 4
  | .vldx _ _ _ _ _ w => w.toNat < 4
  | .vldxAcqDie _ _ _ _ _ w => w.toNat < 4
  | .vldxAcqPkg _ _ _ _ _ w => w.toNat < 4
  | .vldxAcqSys _ _ _ _ _ w => w.toNat < 4
  | .vldxDup _ _ _ _ _ w => w.toNat < 4
  | .vldxDupAcqDie _ _ _ _ _ w => w.toNat < 4
  | .vldxDupAcqPkg _ _ _ _ _ w => w.toNat < 4
  | .vldxDupAcqSys _ _ _ _ _ w => w.toNat < 4
  | .vldxWm _ _ _ _ _ w _ => w.toNat < 4
  | .vstx _ _ _ _ _ w => w.toNat < 4
  | .vstxU _ _ _ _ _ w => w.toNat < 4
  | .vstxRelDie _ _ _ _ _ w => w.toNat < 4
  | .vstxRelPkg _ _ _ _ _ w => w.toNat < 4
  | .vstxRelSys _ _ _ _ _ w => w.toNat < 4
  | .vstxAdd _ _ _ _ _ w => w.toNat < 4
  | .vstxFadd _ _ _ _ _ w => 1 ≤ w.toNat && w.toNat < 4
  | .cpy _ _ _ k s => k.toNat < 3 && (k.toNat != 0 || s.toNat == 0)
  | .cpyrg _ _ _ k s => k.toNat < 3 && (k.toNat != 0 || s.toNat == 0)
  | .cpyrp _ _ _ k s => k.toNat < 3 && (k.toNat != 0 || s.toNat == 0)
  | .cpyrk _ _ _ k s => k.toNat < 3 && (k.toNat != 0 || s.toNat == 0)
  | .add .. | .sub .. | .and .. | .or .. | .xor .. | .andn ..
  | .sll .. | .srl .. | .sra .. | .ror .. | .slt .. | .sltn ..
  | .min .. | .max .. | .mul .. | .mulh .. | .mulhn .. | .div ..
  | .divn .. | .rem .. | .remn .. | .clz .. | .popc .. | .slli ..
  | .srli .. | .srai .. | .rori .. | .addi .. | .andi .. | .ori ..
  | .xori .. | .slti .. | .sltni .. | .lhi .. | .pchi .. | .fma ..
  | .fms .. | .fnma .. | .fnms .. | .ldI8 .. | .ldI16 .. | .ldI32 ..
  | .ldI64 .. | .ldN8 .. | .ldN16 .. | .ldN32 .. | .stI8 .. | .stI16 ..
  | .stI32 .. | .stI64 .. | .beq .. | .bne .. | .blt .. | .bge ..
  | .bltn .. | .bgen .. | .jal .. | .jalr .. | .kbrAny .. | .kbrNone ..
  | .kbrAll .. | .kbrNall .. | .yield | .exit | .brk .. | .syscall ..
  | .tret | .ctxsv .. | .ctxld .. | .tlbinvPage .. | .tlbinvAsid .. | .tlbinvAll
  | .asw .. | .crr .. | .crw .. | .crs .. | .crc .. | .launch ..
  | .lstat .. | .lcancel .. | .farm .. | .strip .. | .farmredF64 .. | .farmredMin ..
  | .farmredMax .. | .farmredI64 .. | .vsetvl .. | .vsetvlB .. | .vsettype .. | .mxmode ..
  | .vadd .. | .vsub .. | .vrsub .. | .vand .. | .vor .. | .vxor ..
  | .vsll .. | .vsrl .. | .vsra .. | .vmin .. | .vmax .. | .vminn ..
  | .vmaxn .. | .vmul .. | .vmulh .. | .vmulhn .. | .vdiv .. | .vdivn ..
  | .vrem .. | .vremn .. | .vsadd .. | .vsaddn .. | .vssub .. | .vssubn ..
  | .vmv .. | .vmuln .. | .vid .. | .vaddVx .. | .vsubVx .. | .vrsubVx ..
  | .vandVx .. | .vorVx .. | .vxorVx .. | .vsllVx .. | .vsrlVx .. | .vsraVx ..
  | .vminVx .. | .vmaxVx .. | .vminnVx .. | .vmaxnVx .. | .vmulVx .. | .vmulhVx ..
  | .vmulhnVx .. | .vdivVx .. | .vdivnVx .. | .vremVx .. | .vremnVx .. | .vsaddVx ..
  | .vsaddnVx .. | .vssubVx .. | .vssubnVx .. | .vmvVx .. | .vmulnVx .. | .vfadd ..
  | .vfsub .. | .vfmul .. | .vfdiv .. | .vfsqrt .. | .vfmin .. | .vfmax ..
  | .vfsigncp .. | .vfsignneg .. | .vfsignxor .. | .vfcvti .. | .vfcvtin .. | .vfcvtf ..
  | .vfcvtfn .. | .vfaddVx .. | .vfsubVx .. | .vfmulVx .. | .vfdivVx .. | .vfminVx ..
  | .vfmaxVx .. | .vfsigncpVx .. | .vfsignnegVx .. | .vfsignxorVx .. | .vfma .. | .vfms ..
  | .vfnma .. | .vfnms .. | .vcmpeq .. | .vcmpne .. | .vcmplt .. | .vcmple ..
  | .vcmpgt .. | .vcmpge .. | .vcmpltn .. | .vcmplen .. | .vcmpgtn .. | .vcmpgen ..
  | .vfcmpeq .. | .vfcmpne .. | .vfcmplt .. | .vfcmple .. | .vfcmpgt .. | .vfcmpge ..
  | .vfcmpun .. | .vcmpeqVx .. | .vcmpneVx .. | .vcmpltVx .. | .vcmpleVx .. | .vcmpgtVx ..
  | .vcmpgeVx .. | .vcmpltnVx .. | .vcmplenVx .. | .vcmpgtnVx .. | .vcmpgenVx .. | .vfcmpeqVx ..
  | .vfcmpneVx .. | .vfcmpltVx .. | .vfcmpleVx .. | .vfcmpgtVx .. | .vfcmpgeVx .. | .vfcmpunVx ..
  | .kand .. | .kor .. | .kxor .. | .kandn .. | .knot .. | .kmov ..
  | .kpop .. | .kfirst .. | .kmovSmiss .. | .vslideup .. | .vslidedn .. | .vinslo ..
  | .vinshi .. | .vshuf .. | .vbcast .. | .vcompress .. | .vexpand .. | .viota ..
  | .vrev .. | .vredsum .. | .vredand .. | .vredor .. | .vredxor .. | .vredmin ..
  | .vredmax .. | .vredminn .. | .vredmaxn .. | .vfredsum .. | .vfredmin .. | .vfredmax ..
  | .vqsum .. | .vdqntB4 .. | .vdqntS1 .. | .vrng ..
  | .vdrop .. | .vatadd .. | .vatswap .. | .vatand .. | .vator .. | .vatxor ..
  | .vatmin .. | .vatmax .. | .vatfadd .. | .ybind .. | .vyld .. | .vyst ..
  | .yrel .. | .ystat .. | .ybyte .. | .cpygs .. | .weirarm .. | .weirwt ..
  | .vwmbind .. | .vwmaddr .. | .vwmpub .. | .vwmwait .. | .mxopa .. | .mxops ..
  | .mxzero .. | .mxrow .. | .mxcol .. | .mxldRm .. | .mxldCm .. | .mxstRm ..
  | .mxstCm .. | .msopen .. | .msclose .. | .msrefine .. | .msbal .. | .msghost ..
  | .mscolor .. | .mskey .. | .msfind .. | .msremap .. | .mswait .. | .gbind ..
  | .gtable .. | .gsweep .. | .greadState .. | .greadMarg .. | .greadMargClr .. | .gwait ..
  | .grel .. | .cview .. | .cviewMap .. | .cviewFid .. | .coll .. | .cwait ..
  | .caston .. | .cleave .. | .statusAccess .. | .vtypeWrite .. | .vlWrite .. | .slipWrite ..
  | .seedWrite .. | .dseedWrite .. | .rminWrite .. | .mtypeWrite .. | .mvlWrite .. | .spbaseWrite ..
  | .controlRegisterWrite .. | .instructionFetch .. | .slotPick .. | .vectorQueueDispatch .. | .granuleCommit .. | .scalarStoreAck ..
  | .hartStop .. | .hartSaveDone .. | .hartRestore .. | .heldEventTake .. | .stretchPreemption .. | .issueBudgetExhausted ..
  | .budgetGraceExpiry .. | .grantApply .. | .mtypeChange .. | .hartEnd .. | .waitwWake .. | .farmBarrierRelease ..
  | .farmredResult .. | .weirwtWake .. | .vwmwaitWake .. | .gatedElementRead .. | .publicationApply .. | .cwaitReturn ..
  | .handleWaitReturn .. | .copyComplete .. | .weirArrival .. | .cpygsRowLanded .. | .engineOperationComplete .. | .engineOperationStop ..
  | .imageVerificationDone .. | .handlePostedSlot .. | .prereqWordMet .. | .prereqUnreadable .. | .launchStart .. | .promiseExpiry ..
  | .refit .. | .completionRecordWrite .. | .hostNotice .. | .powerReading .. | .standbyEntry | .standbyExitDone
  | .boot .. | .linkService .. | .patrolScrub .. | .rds .. | .rdx .. | .upg ..
  | .evc .. | .wbd .. | .snps .. | .snpx .. | .inv .. | .binv ..
  | .fwd .. | .data .. | .rsp .. | .cmp .. | .homeAtomic .. | .remoteAtomicError ..
  | .hostPortRequest .. | .priResponse .. | .priTimeout .. | .atsInvalidation .. | .attest .. | .keysetInstall ..
  | .keysetClear .. | .jclear .. | .jread .. | .logread .. | .spaceBind .. | .spaceUnbind ..
  | .heartbeatSend | .heartbeatReceive .. | .heartbeatTimeout .. | .neighbourUnreachable .. | .suspicionReport .. | .viewProposal ..
  | .proposalAck .. | .proposalAckTimeout .. | .viewCommit .. | .commitTimeout | .quiescenceHold .. | .holdUnion ..
  | .holdAck .. | .joinRequest .. | .joinRequestRetry .. | .joinTimeout .. | .membershipChangeTrap .. | .fabricFlitArrival ..
  | .remoteCopyAccess .. | .remoteCopyRefused .. | .collectiveMatch .. | .collectiveComplete .. | .powerRemoved | .illegalInstruction ..
  | .targetCompletion .. | .unknownCode .. => true

end Sys2Proof
end

