-- ==== Sys2Proof/Decode.lean ====
section
/-!
DEFINITION. Decoding of 32-bit words (R112 to R117) and, after it, the encoder. Both are written from the formats of
R112 and the tables of the entries. Decoding uses only the word (R117); the checks of the current mode are made by
the meanings. `noncomputable` stands on the decoder only because Lean's compiled code admits 245 constructors with
fields in one type; the kernel evaluates these definitions like any other. Every word either decodes to one well-formed instruction or is rejected by name.
-/

namespace Sys2Proof

/-- Why a word is no instruction (R116). -/
inductive DecodeError where
  /-- The major opcode is illegal or reserved (R114). -/
  | badMajor
  /-- No entry of the major has this selecting value, or a reserved bit of the entry is nonzero. -/
  | unassigned
  /-- An entry matches, and one of its fields holds a value that the entry does not assign. -/
  | badField
  deriving DecidableEq, Repr

/-- The `n`-bit field of a word whose lowest bit is bit `lo`. -/
def fld (w lo n : Nat) : BitVec n := BitVec.ofNat n (w / 2 ^ lo)

/-- Entries of major 0x01. -/
def decodeMajor01 (w : Nat) : Option Instr :=
  if bitsAt w 0 11 = 0x0 then some (.add (fld w 21 5) (fld w 16 5) (fld w 11 5)) else
  if bitsAt w 0 11 = 0x40 then some (.sub (fld w 21 5) (fld w 16 5) (fld w 11 5)) else
  if bitsAt w 0 11 = 0x80 then some (.and (fld w 21 5) (fld w 16 5) (fld w 11 5)) else
  if bitsAt w 0 11 = 0xC0 then some (.or (fld w 21 5) (fld w 16 5) (fld w 11 5)) else
  if bitsAt w 0 11 = 0x100 then some (.xor (fld w 21 5) (fld w 16 5) (fld w 11 5)) else
  if bitsAt w 0 11 = 0x140 then some (.andn (fld w 21 5) (fld w 16 5) (fld w 11 5)) else
  if bitsAt w 0 11 = 0x180 then some (.sll (fld w 21 5) (fld w 16 5) (fld w 11 5)) else
  if bitsAt w 0 11 = 0x1C0 then some (.srl (fld w 21 5) (fld w 16 5) (fld w 11 5)) else
  if bitsAt w 0 11 = 0x200 then some (.sra (fld w 21 5) (fld w 16 5) (fld w 11 5)) else
  if bitsAt w 0 11 = 0x240 then some (.ror (fld w 21 5) (fld w 16 5) (fld w 11 5)) else
  if bitsAt w 0 11 = 0x280 then some (.slt (fld w 21 5) (fld w 16 5) (fld w 11 5)) else
  if bitsAt w 0 11 = 0x2C0 then some (.sltn (fld w 21 5) (fld w 16 5) (fld w 11 5)) else
  if bitsAt w 0 11 = 0x300 then some (.min (fld w 21 5) (fld w 16 5) (fld w 11 5)) else
  if bitsAt w 0 11 = 0x340 then some (.max (fld w 21 5) (fld w 16 5) (fld w 11 5)) else
  if bitsAt w 0 11 = 0x380 then some (.mul (fld w 21 5) (fld w 16 5) (fld w 11 5)) else
  if bitsAt w 0 11 = 0x3C0 then some (.mulh (fld w 21 5) (fld w 16 5) (fld w 11 5)) else
  if bitsAt w 0 11 = 0x400 then some (.mulhn (fld w 21 5) (fld w 16 5) (fld w 11 5)) else
  if bitsAt w 0 11 = 0x440 then some (.div (fld w 21 5) (fld w 16 5) (fld w 11 5)) else
  if bitsAt w 0 11 = 0x480 then some (.divn (fld w 21 5) (fld w 16 5) (fld w 11 5)) else
  if bitsAt w 0 11 = 0x4C0 then some (.rem (fld w 21 5) (fld w 16 5) (fld w 11 5)) else
  if bitsAt w 0 11 = 0x500 then some (.remn (fld w 21 5) (fld w 16 5) (fld w 11 5)) else
  if bitsAt w 0 16 = 0x540 then some (.clz (fld w 21 5) (fld w 16 5)) else
  if bitsAt w 0 16 = 0x580 then some (.popc (fld w 21 5) (fld w 16 5)) else
  if bitsAt w 6 10 = 0x17 then some (.slli (fld w 21 5) (fld w 16 5) (fld w 0 6)) else
  if bitsAt w 6 10 = 0x18 then some (.srli (fld w 21 5) (fld w 16 5) (fld w 0 6)) else
  if bitsAt w 6 10 = 0x19 then some (.srai (fld w 21 5) (fld w 16 5) (fld w 0 6)) else
  if bitsAt w 6 10 = 0x1A then some (.rori (fld w 21 5) (fld w 16 5) (fld w 0 6)) else
  none

/-- Entries of major 0x02. -/
def decodeMajor02 (w : Nat) : Option Instr :=
  some (.addi (fld w 21 5) (fld w 16 5) (fld w 0 16))

/-- Entries of major 0x03. -/
def decodeMajor03 (w : Nat) : Option Instr :=
  some (.andi (fld w 21 5) (fld w 16 5) (fld w 0 16))

/-- Entries of major 0x04. -/
def decodeMajor04 (w : Nat) : Option Instr :=
  some (.ori (fld w 21 5) (fld w 16 5) (fld w 0 16))

/-- Entries of major 0x05. -/
def decodeMajor05 (w : Nat) : Option Instr :=
  some (.xori (fld w 21 5) (fld w 16 5) (fld w 0 16))

/-- Entries of major 0x06. -/
def decodeMajor06 (w : Nat) : Option Instr :=
  some (.slti (fld w 21 5) (fld w 16 5) (fld w 0 16))

/-- Entries of major 0x07. -/
def decodeMajor07 (w : Nat) : Option Instr :=
  some (.sltni (fld w 21 5) (fld w 16 5) (fld w 0 16))

/-- Entries of major 0x08. -/
def decodeMajor08 (w : Nat) : Option Instr :=
  some (.lhi (fld w 21 5) (fld w 0 21))

/-- Entries of major 0x09. -/
def decodeMajor09 (w : Nat) : Option Instr :=
  some (.pchi (fld w 21 5) (fld w 0 21))

/-- Entries of major 0x0A. -/
def decodeMajor0A (w : Nat) : Option Instr :=
  if bitsAt w 6 5 = 0x0 then some (.fadd (fld w 21 5) (fld w 16 5) (fld w 11 5) (fld w 3 3) (fld w 0 3)) else
  if bitsAt w 6 5 = 0x1 then some (.fsub (fld w 21 5) (fld w 16 5) (fld w 11 5) (fld w 3 3) (fld w 0 3)) else
  if bitsAt w 6 5 = 0x2 then some (.fmul (fld w 21 5) (fld w 16 5) (fld w 11 5) (fld w 3 3) (fld w 0 3)) else
  if bitsAt w 6 5 = 0x3 then some (.fdiv (fld w 21 5) (fld w 16 5) (fld w 11 5) (fld w 3 3) (fld w 0 3)) else
  if bitsAt w 6 10 = 0x4 then some (.fsqrt (fld w 21 5) (fld w 16 5) (fld w 3 3) (fld w 0 3)) else
  if bitsAt w 0 3 = 0x0 ∧ bitsAt w 6 5 = 0x5 then some (.fmin (fld w 21 5) (fld w 16 5) (fld w 11 5) (fld w 3 3)) else
  if bitsAt w 0 3 = 0x0 ∧ bitsAt w 6 5 = 0x6 then some (.fmax (fld w 21 5) (fld w 16 5) (fld w 11 5) (fld w 3 3)) else
  if bitsAt w 0 3 = 0x0 ∧ bitsAt w 6 5 = 0x7 then some (.feq (fld w 21 5) (fld w 16 5) (fld w 11 5) (fld w 3 3)) else
  if bitsAt w 0 3 = 0x0 ∧ bitsAt w 6 5 = 0x8 then some (.flt (fld w 21 5) (fld w 16 5) (fld w 11 5) (fld w 3 3)) else
  if bitsAt w 0 3 = 0x0 ∧ bitsAt w 6 5 = 0x9 then some (.fle (fld w 21 5) (fld w 16 5) (fld w 11 5) (fld w 3 3)) else
  if bitsAt w 6 5 = 0xA ∧ bitsAt w 14 2 = 0x0 then some (.fcvt (fld w 21 5) (fld w 16 5) (fld w 11 3) (fld w 3 3) (fld w 0 3)) else
  if bitsAt w 6 5 = 0xB ∧ bitsAt w 13 3 = 0x0 then some (.fcvti (fld w 21 5) (fld w 16 5) (fld w 11 2) (fld w 3 3) (fld w 0 3)) else
  if bitsAt w 6 5 = 0xC ∧ bitsAt w 13 3 = 0x0 then some (.fcvtf (fld w 21 5) (fld w 16 5) (fld w 11 2) (fld w 3 3) (fld w 0 3)) else
  none

/-- Entries of major 0x0B. -/
def decodeMajor0B (w : Nat) : Option Instr :=
  if bitsAt w 0 2 = 0x0 ∧ bitsAt w 4 2 = 0x0 then some (.fma (fld w 21 5) (fld w 16 5) (fld w 11 5) (fld w 6 5) (fld w 2 2)) else
  if bitsAt w 0 2 = 0x0 ∧ bitsAt w 4 2 = 0x1 then some (.fms (fld w 21 5) (fld w 16 5) (fld w 11 5) (fld w 6 5) (fld w 2 2)) else
  if bitsAt w 0 2 = 0x0 ∧ bitsAt w 4 2 = 0x2 then some (.fnma (fld w 21 5) (fld w 16 5) (fld w 11 5) (fld w 6 5) (fld w 2 2)) else
  if bitsAt w 0 2 = 0x0 ∧ bitsAt w 4 2 = 0x3 then some (.fnms (fld w 21 5) (fld w 16 5) (fld w 11 5) (fld w 6 5) (fld w 2 2)) else
  none

/-- Entries of major 0x0C. -/
def decodeMajor0C (w : Nat) : Option Instr :=
  if bitsAt w 13 3 = 0x0 then some (.ldI8 (fld w 21 5) (fld w 16 5) (fld w 0 13)) else
  if bitsAt w 13 3 = 0x1 then some (.ldI16 (fld w 21 5) (fld w 16 5) (fld w 0 13)) else
  if bitsAt w 13 3 = 0x2 then some (.ldI32 (fld w 21 5) (fld w 16 5) (fld w 0 13)) else
  if bitsAt w 13 3 = 0x3 then some (.ldI64 (fld w 21 5) (fld w 16 5) (fld w 0 13)) else
  if bitsAt w 13 3 = 0x4 then some (.ldN8 (fld w 21 5) (fld w 16 5) (fld w 0 13)) else
  if bitsAt w 13 3 = 0x5 then some (.ldN16 (fld w 21 5) (fld w 16 5) (fld w 0 13)) else
  if bitsAt w 13 3 = 0x6 then some (.ldN32 (fld w 21 5) (fld w 16 5) (fld w 0 13)) else
  none

/-- Entries of major 0x0D. -/
def decodeMajor0D (w : Nat) : Option Instr :=
  if bitsAt w 13 3 = 0x0 then some (.stI8 (fld w 21 5) (fld w 16 5) (fld w 0 13)) else
  if bitsAt w 13 3 = 0x1 then some (.stI16 (fld w 21 5) (fld w 16 5) (fld w 0 13)) else
  if bitsAt w 13 3 = 0x2 then some (.stI32 (fld w 21 5) (fld w 16 5) (fld w 0 13)) else
  if bitsAt w 13 3 = 0x3 then some (.stI64 (fld w 21 5) (fld w 16 5) (fld w 0 13)) else
  none

/-- Entries of major 0x0E. -/
def decodeMajor0E (w : Nat) : Option Instr :=
  if bitsAt w 6 5 = 0x0 then some (.atswap (fld w 21 5) (fld w 16 5) (fld w 11 5) (fld w 4 2) (fld w 1 3) (fld w 0 1)) else
  if bitsAt w 6 5 = 0x1 then some (.atadd (fld w 21 5) (fld w 16 5) (fld w 11 5) (fld w 4 2) (fld w 1 3) (fld w 0 1)) else
  if bitsAt w 6 5 = 0x2 then some (.atand (fld w 21 5) (fld w 16 5) (fld w 11 5) (fld w 4 2) (fld w 1 3) (fld w 0 1)) else
  if bitsAt w 6 5 = 0x3 then some (.ator (fld w 21 5) (fld w 16 5) (fld w 11 5) (fld w 4 2) (fld w 1 3) (fld w 0 1)) else
  if bitsAt w 6 5 = 0x4 then some (.atxor (fld w 21 5) (fld w 16 5) (fld w 11 5) (fld w 4 2) (fld w 1 3) (fld w 0 1)) else
  if bitsAt w 6 5 = 0x5 then some (.atmin (fld w 21 5) (fld w 16 5) (fld w 11 5) (fld w 4 2) (fld w 1 3) (fld w 0 1)) else
  if bitsAt w 6 5 = 0x6 then some (.atmax (fld w 21 5) (fld w 16 5) (fld w 11 5) (fld w 4 2) (fld w 1 3) (fld w 0 1)) else
  if bitsAt w 6 5 = 0x7 then some (.atminN (fld w 21 5) (fld w 16 5) (fld w 11 5) (fld w 4 2) (fld w 1 3) (fld w 0 1)) else
  if bitsAt w 6 5 = 0x8 then some (.atmaxN (fld w 21 5) (fld w 16 5) (fld w 11 5) (fld w 4 2) (fld w 1 3) (fld w 0 1)) else
  if bitsAt w 6 5 = 0x9 then some (.atfadd (fld w 21 5) (fld w 16 5) (fld w 11 5) (fld w 4 2) (fld w 1 3) (fld w 0 1)) else
  if bitsAt w 6 10 = 0xA then some (.ldo (fld w 21 5) (fld w 16 5) (fld w 4 2) (fld w 1 3) (fld w 0 1)) else
  if bitsAt w 6 5 = 0xB ∧ bitsAt w 21 5 = 0x0 then some (.sto (fld w 16 5) (fld w 11 5) (fld w 4 2) (fld w 1 3) (fld w 0 1)) else
  none

/-- Entries of major 0x0F. -/
def decodeMajor0F (w : Nat) : Option Instr :=
  some (.cas (fld w 21 5) (fld w 16 5) (fld w 11 5) (fld w 6 5) (fld w 4 2) (fld w 1 3) (fld w 0 1))

/-- Entries of major 0x10. -/
def decodeMajor10 (w : Nat) : Option Instr :=
  some (.beq (fld w 21 5) (fld w 16 5) (fld w 0 16))

/-- Entries of major 0x11. -/
def decodeMajor11 (w : Nat) : Option Instr :=
  some (.bne (fld w 21 5) (fld w 16 5) (fld w 0 16))

/-- Entries of major 0x12. -/
def decodeMajor12 (w : Nat) : Option Instr :=
  some (.blt (fld w 21 5) (fld w 16 5) (fld w 0 16))

/-- Entries of major 0x13. -/
def decodeMajor13 (w : Nat) : Option Instr :=
  some (.bge (fld w 21 5) (fld w 16 5) (fld w 0 16))

/-- Entries of major 0x14. -/
def decodeMajor14 (w : Nat) : Option Instr :=
  some (.bltn (fld w 21 5) (fld w 16 5) (fld w 0 16))

/-- Entries of major 0x15. -/
def decodeMajor15 (w : Nat) : Option Instr :=
  some (.bgen (fld w 21 5) (fld w 16 5) (fld w 0 16))

/-- Entries of major 0x16. -/
def decodeMajor16 (w : Nat) : Option Instr :=
  some (.jal (fld w 0 26))

/-- Entries of major 0x17. -/
def decodeMajor17 (w : Nat) : Option Instr :=
  some (.jalr (fld w 21 5) (fld w 16 5) (fld w 0 16))

/-- Entries of major 0x18. -/
def decodeMajor18 (w : Nat) : Option Instr :=
  if bitsAt w 21 2 = 0x0 then some (.kbrAny (fld w 23 3) (fld w 0 21)) else
  if bitsAt w 21 2 = 0x1 then some (.kbrNone (fld w 23 3) (fld w 0 21)) else
  if bitsAt w 21 2 = 0x2 then some (.kbrAll (fld w 23 3) (fld w 0 21)) else
  if bitsAt w 21 2 = 0x3 then some (.kbrNall (fld w 23 3) (fld w 0 21)) else
  none

/-- Entries of major 0x19. -/
def decodeMajor19 (w : Nat) : Option Instr :=
  some (.vwhile (fld w 23 3) (fld w 18 5) (fld w 13 5) (fld w 0 13))

/-- Entries of major 0x1A. -/
def decodeMajor1A (w : Nat) : Option Instr :=
  if bitsAt w 0 1 = 0x0 ∧ bitsAt w 6 20 = 0x0 then some (.fence (fld w 4 2) (fld w 1 3)) else
  if bitsAt w 0 1 = 0x0 ∧ bitsAt w 6 5 = 0x1 then some (.waitw (fld w 21 5) (fld w 16 5) (fld w 11 5) (fld w 4 2) (fld w 1 3)) else
  if bitsAt w 0 26 = 0x80 then some .yield else
  if bitsAt w 0 26 = 0xC0 then some .exit else
  if bitsAt w 6 20 = 0x4 then some (.brk (fld w 0 6)) else
  if bitsAt w 6 20 = 0x5 then some (.syscall (fld w 0 6)) else
  none

/-- Entries of major 0x1B. -/
def decodeMajor1B (w : Nat) : Option Instr :=
  if bitsAt w 0 26 = 0x0 then some .tret else
  if bitsAt w 0 16 = 0x40 ∧ bitsAt w 21 5 = 0x0 then some (.ctxsv (fld w 16 5)) else
  if bitsAt w 0 16 = 0x80 ∧ bitsAt w 21 5 = 0x0 then some (.ctxld (fld w 16 5)) else
  if bitsAt w 0 11 = 0xC0 ∧ bitsAt w 21 5 = 0x0 then some (.tlbinvPage (fld w 16 5) (fld w 11 5)) else
  if bitsAt w 0 11 = 0xC1 ∧ bitsAt w 16 10 = 0x0 then some (.tlbinvAsid (fld w 11 5)) else
  if bitsAt w 0 26 = 0xC2 then some .tlbinvAll else
  if bitsAt w 0 11 = 0x100 ∧ bitsAt w 21 5 = 0x0 then some (.asw (fld w 16 5) (fld w 11 5)) else
  none

/-- Entries of major 0x1C. -/
def decodeMajor1C (w : Nat) : Option Instr :=
  if bitsAt w 12 9 = 0x0 then some (.crr (fld w 21 5) (fld w 0 12)) else
  if bitsAt w 12 4 = 0x1 then some (.crw (fld w 21 5) (fld w 16 5) (fld w 0 12)) else
  if bitsAt w 12 4 = 0x2 then some (.crs (fld w 21 5) (fld w 16 5) (fld w 0 12)) else
  if bitsAt w 12 4 = 0x3 then some (.crc (fld w 21 5) (fld w 16 5) (fld w 0 12)) else
  none

/-- Entries of major 0x1D. -/
def decodeMajor1D (w : Nat) : Option Instr :=
  if bitsAt w 0 16 = 0x0 then some (.launch (fld w 21 5) (fld w 16 5)) else
  if bitsAt w 0 16 = 0x40 then some (.lstat (fld w 21 5) (fld w 16 5)) else
  if bitsAt w 0 16 = 0x80 then some (.lcancel (fld w 21 5) (fld w 16 5)) else
  if bitsAt w 0 11 = 0xC0 ∧ bitsAt w 21 5 = 0x0 then some (.farm (fld w 16 5) (fld w 11 5)) else
  if bitsAt w 0 16 = 0x100 then some (.strip (fld w 21 5) (fld w 16 5)) else
  if bitsAt w 0 11 = 0x140 then some (.farmredF64 (fld w 21 5) (fld w 16 5) (fld w 11 5)) else
  if bitsAt w 0 11 = 0x148 then some (.farmredMin (fld w 21 5) (fld w 16 5) (fld w 11 5)) else
  if bitsAt w 0 11 = 0x150 then some (.farmredMax (fld w 21 5) (fld w 16 5) (fld w 11 5)) else
  if bitsAt w 0 11 = 0x158 then some (.farmredI64 (fld w 21 5) (fld w 16 5) (fld w 11 5)) else
  none

/-- Entries of major 0x1E. -/
def decodeMajor1E (w : Nat) : Option Instr :=
  if bitsAt w 0 16 = 0x0 then some (.vsetvl (fld w 21 5) (fld w 16 5)) else
  if bitsAt w 0 11 = 0x40 then some (.vsetvlB (fld w 21 5) (fld w 16 5) (fld w 11 5)) else
  if bitsAt w 0 16 = 0x80 then some (.vsettype (fld w 21 5) (fld w 16 5)) else
  if bitsAt w 0 11 = 0xC0 then some (.mxmode (fld w 21 5) (fld w 16 5) (fld w 11 5)) else
  none

/-- Entries of major 0x20. -/
noncomputable def decodeMajor20 (w : Nat) : Option Instr :=
  if bitsAt w 0 6 = 0x0 then some (.vadd (fld w 21 5) (fld w 16 5) (fld w 11 5) (fld w 10 1) (fld w 9 1) (fld w 6 3)) else
  if bitsAt w 0 6 = 0x1 then some (.vsub (fld w 21 5) (fld w 16 5) (fld w 11 5) (fld w 10 1) (fld w 9 1) (fld w 6 3)) else
  if bitsAt w 0 6 = 0x2 then some (.vrsub (fld w 21 5) (fld w 16 5) (fld w 11 5) (fld w 10 1) (fld w 9 1) (fld w 6 3)) else
  if bitsAt w 0 6 = 0x3 then some (.vand (fld w 21 5) (fld w 16 5) (fld w 11 5) (fld w 10 1) (fld w 9 1) (fld w 6 3)) else
  if bitsAt w 0 6 = 0x4 then some (.vor (fld w 21 5) (fld w 16 5) (fld w 11 5) (fld w 10 1) (fld w 9 1) (fld w 6 3)) else
  if bitsAt w 0 6 = 0x5 then some (.vxor (fld w 21 5) (fld w 16 5) (fld w 11 5) (fld w 10 1) (fld w 9 1) (fld w 6 3)) else
  if bitsAt w 0 6 = 0x6 then some (.vsll (fld w 21 5) (fld w 16 5) (fld w 11 5) (fld w 10 1) (fld w 9 1) (fld w 6 3)) else
  if bitsAt w 0 6 = 0x7 then some (.vsrl (fld w 21 5) (fld w 16 5) (fld w 11 5) (fld w 10 1) (fld w 9 1) (fld w 6 3)) else
  if bitsAt w 0 6 = 0x8 then some (.vsra (fld w 21 5) (fld w 16 5) (fld w 11 5) (fld w 10 1) (fld w 9 1) (fld w 6 3)) else
  if bitsAt w 0 6 = 0x9 then some (.vmin (fld w 21 5) (fld w 16 5) (fld w 11 5) (fld w 10 1) (fld w 9 1) (fld w 6 3)) else
  if bitsAt w 0 6 = 0xA then some (.vmax (fld w 21 5) (fld w 16 5) (fld w 11 5) (fld w 10 1) (fld w 9 1) (fld w 6 3)) else
  if bitsAt w 0 6 = 0xB then some (.vminn (fld w 21 5) (fld w 16 5) (fld w 11 5) (fld w 10 1) (fld w 9 1) (fld w 6 3)) else
  if bitsAt w 0 6 = 0xC then some (.vmaxn (fld w 21 5) (fld w 16 5) (fld w 11 5) (fld w 10 1) (fld w 9 1) (fld w 6 3)) else
  if bitsAt w 0 6 = 0xD then some (.vmul (fld w 21 5) (fld w 16 5) (fld w 11 5) (fld w 10 1) (fld w 9 1) (fld w 6 3)) else
  if bitsAt w 0 6 = 0xE then some (.vmulh (fld w 21 5) (fld w 16 5) (fld w 11 5) (fld w 10 1) (fld w 9 1) (fld w 6 3)) else
  if bitsAt w 0 6 = 0xF then some (.vmulhn (fld w 21 5) (fld w 16 5) (fld w 11 5) (fld w 10 1) (fld w 9 1) (fld w 6 3)) else
  if bitsAt w 0 6 = 0x10 then some (.vdiv (fld w 21 5) (fld w 16 5) (fld w 11 5) (fld w 10 1) (fld w 9 1) (fld w 6 3)) else
  if bitsAt w 0 6 = 0x11 then some (.vdivn (fld w 21 5) (fld w 16 5) (fld w 11 5) (fld w 10 1) (fld w 9 1) (fld w 6 3)) else
  if bitsAt w 0 6 = 0x12 then some (.vrem (fld w 21 5) (fld w 16 5) (fld w 11 5) (fld w 10 1) (fld w 9 1) (fld w 6 3)) else
  if bitsAt w 0 6 = 0x13 then some (.vremn (fld w 21 5) (fld w 16 5) (fld w 11 5) (fld w 10 1) (fld w 9 1) (fld w 6 3)) else
  if bitsAt w 0 6 = 0x14 then some (.vsadd (fld w 21 5) (fld w 16 5) (fld w 11 5) (fld w 10 1) (fld w 9 1) (fld w 6 3)) else
  if bitsAt w 0 6 = 0x15 then some (.vsaddn (fld w 21 5) (fld w 16 5) (fld w 11 5) (fld w 10 1) (fld w 9 1) (fld w 6 3)) else
  if bitsAt w 0 6 = 0x16 then some (.vssub (fld w 21 5) (fld w 16 5) (fld w 11 5) (fld w 10 1) (fld w 9 1) (fld w 6 3)) else
  if bitsAt w 0 6 = 0x17 then some (.vssubn (fld w 21 5) (fld w 16 5) (fld w 11 5) (fld w 10 1) (fld w 9 1) (fld w 6 3)) else
  if bitsAt w 0 6 = 0x18 ∧ bitsAt w 10 1 = 0x0 ∧ bitsAt w 16 5 = 0x0 then some (.vmv (fld w 21 5) (fld w 11 5) (fld w 9 1) (fld w 6 3)) else
  if bitsAt w 0 6 = 0x19 then some (.vmuln (fld w 21 5) (fld w 16 5) (fld w 11 5) (fld w 10 1) (fld w 9 1) (fld w 6 3)) else
  if bitsAt w 0 6 = 0x1A ∧ bitsAt w 9 12 = 0x0 then some (.vid (fld w 21 5) (fld w 6 3)) else
  none

/-- Entries of major 0x21. -/
noncomputable def decodeMajor21 (w : Nat) : Option Instr :=
  if bitsAt w 0 6 = 0x0 ∧ bitsAt w 9 1 = 0x0 then some (.vaddVx (fld w 21 5) (fld w 16 5) (fld w 11 5) (fld w 10 1) (fld w 6 3)) else
  if bitsAt w 0 6 = 0x1 ∧ bitsAt w 9 1 = 0x0 then some (.vsubVx (fld w 21 5) (fld w 16 5) (fld w 11 5) (fld w 10 1) (fld w 6 3)) else
  if bitsAt w 0 6 = 0x2 ∧ bitsAt w 9 1 = 0x0 then some (.vrsubVx (fld w 21 5) (fld w 16 5) (fld w 11 5) (fld w 10 1) (fld w 6 3)) else
  if bitsAt w 0 6 = 0x3 ∧ bitsAt w 9 1 = 0x0 then some (.vandVx (fld w 21 5) (fld w 16 5) (fld w 11 5) (fld w 10 1) (fld w 6 3)) else
  if bitsAt w 0 6 = 0x4 ∧ bitsAt w 9 1 = 0x0 then some (.vorVx (fld w 21 5) (fld w 16 5) (fld w 11 5) (fld w 10 1) (fld w 6 3)) else
  if bitsAt w 0 6 = 0x5 ∧ bitsAt w 9 1 = 0x0 then some (.vxorVx (fld w 21 5) (fld w 16 5) (fld w 11 5) (fld w 10 1) (fld w 6 3)) else
  if bitsAt w 0 6 = 0x6 ∧ bitsAt w 9 1 = 0x0 then some (.vsllVx (fld w 21 5) (fld w 16 5) (fld w 11 5) (fld w 10 1) (fld w 6 3)) else
  if bitsAt w 0 6 = 0x7 ∧ bitsAt w 9 1 = 0x0 then some (.vsrlVx (fld w 21 5) (fld w 16 5) (fld w 11 5) (fld w 10 1) (fld w 6 3)) else
  if bitsAt w 0 6 = 0x8 ∧ bitsAt w 9 1 = 0x0 then some (.vsraVx (fld w 21 5) (fld w 16 5) (fld w 11 5) (fld w 10 1) (fld w 6 3)) else
  if bitsAt w 0 6 = 0x9 ∧ bitsAt w 9 1 = 0x0 then some (.vminVx (fld w 21 5) (fld w 16 5) (fld w 11 5) (fld w 10 1) (fld w 6 3)) else
  if bitsAt w 0 6 = 0xA ∧ bitsAt w 9 1 = 0x0 then some (.vmaxVx (fld w 21 5) (fld w 16 5) (fld w 11 5) (fld w 10 1) (fld w 6 3)) else
  if bitsAt w 0 6 = 0xB ∧ bitsAt w 9 1 = 0x0 then some (.vminnVx (fld w 21 5) (fld w 16 5) (fld w 11 5) (fld w 10 1) (fld w 6 3)) else
  if bitsAt w 0 6 = 0xC ∧ bitsAt w 9 1 = 0x0 then some (.vmaxnVx (fld w 21 5) (fld w 16 5) (fld w 11 5) (fld w 10 1) (fld w 6 3)) else
  if bitsAt w 0 6 = 0xD ∧ bitsAt w 9 1 = 0x0 then some (.vmulVx (fld w 21 5) (fld w 16 5) (fld w 11 5) (fld w 10 1) (fld w 6 3)) else
  if bitsAt w 0 6 = 0xE ∧ bitsAt w 9 1 = 0x0 then some (.vmulhVx (fld w 21 5) (fld w 16 5) (fld w 11 5) (fld w 10 1) (fld w 6 3)) else
  if bitsAt w 0 6 = 0xF ∧ bitsAt w 9 1 = 0x0 then some (.vmulhnVx (fld w 21 5) (fld w 16 5) (fld w 11 5) (fld w 10 1) (fld w 6 3)) else
  if bitsAt w 0 6 = 0x10 ∧ bitsAt w 9 1 = 0x0 then some (.vdivVx (fld w 21 5) (fld w 16 5) (fld w 11 5) (fld w 10 1) (fld w 6 3)) else
  if bitsAt w 0 6 = 0x11 ∧ bitsAt w 9 1 = 0x0 then some (.vdivnVx (fld w 21 5) (fld w 16 5) (fld w 11 5) (fld w 10 1) (fld w 6 3)) else
  if bitsAt w 0 6 = 0x12 ∧ bitsAt w 9 1 = 0x0 then some (.vremVx (fld w 21 5) (fld w 16 5) (fld w 11 5) (fld w 10 1) (fld w 6 3)) else
  if bitsAt w 0 6 = 0x13 ∧ bitsAt w 9 1 = 0x0 then some (.vremnVx (fld w 21 5) (fld w 16 5) (fld w 11 5) (fld w 10 1) (fld w 6 3)) else
  if bitsAt w 0 6 = 0x14 ∧ bitsAt w 9 1 = 0x0 then some (.vsaddVx (fld w 21 5) (fld w 16 5) (fld w 11 5) (fld w 10 1) (fld w 6 3)) else
  if bitsAt w 0 6 = 0x15 ∧ bitsAt w 9 1 = 0x0 then some (.vsaddnVx (fld w 21 5) (fld w 16 5) (fld w 11 5) (fld w 10 1) (fld w 6 3)) else
  if bitsAt w 0 6 = 0x16 ∧ bitsAt w 9 1 = 0x0 then some (.vssubVx (fld w 21 5) (fld w 16 5) (fld w 11 5) (fld w 10 1) (fld w 6 3)) else
  if bitsAt w 0 6 = 0x17 ∧ bitsAt w 9 1 = 0x0 then some (.vssubnVx (fld w 21 5) (fld w 16 5) (fld w 11 5) (fld w 10 1) (fld w 6 3)) else
  if bitsAt w 0 6 = 0x18 ∧ bitsAt w 9 2 = 0x0 ∧ bitsAt w 16 5 = 0x0 then some (.vmvVx (fld w 21 5) (fld w 11 5) (fld w 6 3)) else
  if bitsAt w 0 6 = 0x19 ∧ bitsAt w 9 1 = 0x0 then some (.vmulnVx (fld w 21 5) (fld w 16 5) (fld w 11 5) (fld w 10 1) (fld w 6 3)) else
  none

/-- Entries of major 0x22. -/
noncomputable def decodeMajor22 (w : Nat) : Option Instr :=
  if bitsAt w 0 6 = 0x0 then some (.vfadd (fld w 21 5) (fld w 16 5) (fld w 11 5) (fld w 10 1) (fld w 9 1) (fld w 6 3)) else
  if bitsAt w 0 6 = 0x1 then some (.vfsub (fld w 21 5) (fld w 16 5) (fld w 11 5) (fld w 10 1) (fld w 9 1) (fld w 6 3)) else
  if bitsAt w 0 6 = 0x2 then some (.vfmul (fld w 21 5) (fld w 16 5) (fld w 11 5) (fld w 10 1) (fld w 9 1) (fld w 6 3)) else
  if bitsAt w 0 6 = 0x3 then some (.vfdiv (fld w 21 5) (fld w 16 5) (fld w 11 5) (fld w 10 1) (fld w 9 1) (fld w 6 3)) else
  if bitsAt w 0 6 = 0x4 ∧ bitsAt w 9 1 = 0x0 ∧ bitsAt w 11 5 = 0x0 then some (.vfsqrt (fld w 21 5) (fld w 16 5) (fld w 10 1) (fld w 6 3)) else
  if bitsAt w 0 6 = 0x5 then some (.vfmin (fld w 21 5) (fld w 16 5) (fld w 11 5) (fld w 10 1) (fld w 9 1) (fld w 6 3)) else
  if bitsAt w 0 6 = 0x6 then some (.vfmax (fld w 21 5) (fld w 16 5) (fld w 11 5) (fld w 10 1) (fld w 9 1) (fld w 6 3)) else
  if bitsAt w 0 6 = 0x7 then some (.vfsigncp (fld w 21 5) (fld w 16 5) (fld w 11 5) (fld w 10 1) (fld w 9 1) (fld w 6 3)) else
  if bitsAt w 0 6 = 0x8 then some (.vfsignneg (fld w 21 5) (fld w 16 5) (fld w 11 5) (fld w 10 1) (fld w 9 1) (fld w 6 3)) else
  if bitsAt w 0 6 = 0x9 then some (.vfsignxor (fld w 21 5) (fld w 16 5) (fld w 11 5) (fld w 10 1) (fld w 9 1) (fld w 6 3)) else
  if bitsAt w 0 6 = 0xA ∧ bitsAt w 9 1 = 0x0 ∧ bitsAt w 11 5 = 0x0 then some (.vfcvti (fld w 21 5) (fld w 16 5) (fld w 10 1) (fld w 6 3)) else
  if bitsAt w 0 6 = 0xB ∧ bitsAt w 9 1 = 0x0 ∧ bitsAt w 11 5 = 0x0 then some (.vfcvtin (fld w 21 5) (fld w 16 5) (fld w 10 1) (fld w 6 3)) else
  if bitsAt w 0 6 = 0xC ∧ bitsAt w 9 1 = 0x0 ∧ bitsAt w 11 5 = 0x0 then some (.vfcvtf (fld w 21 5) (fld w 16 5) (fld w 10 1) (fld w 6 3)) else
  if bitsAt w 0 6 = 0xD ∧ bitsAt w 9 1 = 0x0 ∧ bitsAt w 11 5 = 0x0 then some (.vfcvtfn (fld w 21 5) (fld w 16 5) (fld w 10 1) (fld w 6 3)) else
  none

/-- Entries of major 0x23. -/
noncomputable def decodeMajor23 (w : Nat) : Option Instr :=
  if bitsAt w 0 6 = 0x0 ∧ bitsAt w 9 1 = 0x0 then some (.vfaddVx (fld w 21 5) (fld w 16 5) (fld w 11 5) (fld w 10 1) (fld w 6 3)) else
  if bitsAt w 0 6 = 0x1 ∧ bitsAt w 9 1 = 0x0 then some (.vfsubVx (fld w 21 5) (fld w 16 5) (fld w 11 5) (fld w 10 1) (fld w 6 3)) else
  if bitsAt w 0 6 = 0x2 ∧ bitsAt w 9 1 = 0x0 then some (.vfmulVx (fld w 21 5) (fld w 16 5) (fld w 11 5) (fld w 10 1) (fld w 6 3)) else
  if bitsAt w 0 6 = 0x3 ∧ bitsAt w 9 1 = 0x0 then some (.vfdivVx (fld w 21 5) (fld w 16 5) (fld w 11 5) (fld w 10 1) (fld w 6 3)) else
  if bitsAt w 0 6 = 0x5 ∧ bitsAt w 9 1 = 0x0 then some (.vfminVx (fld w 21 5) (fld w 16 5) (fld w 11 5) (fld w 10 1) (fld w 6 3)) else
  if bitsAt w 0 6 = 0x6 ∧ bitsAt w 9 1 = 0x0 then some (.vfmaxVx (fld w 21 5) (fld w 16 5) (fld w 11 5) (fld w 10 1) (fld w 6 3)) else
  if bitsAt w 0 6 = 0x7 ∧ bitsAt w 9 1 = 0x0 then some (.vfsigncpVx (fld w 21 5) (fld w 16 5) (fld w 11 5) (fld w 10 1) (fld w 6 3)) else
  if bitsAt w 0 6 = 0x8 ∧ bitsAt w 9 1 = 0x0 then some (.vfsignnegVx (fld w 21 5) (fld w 16 5) (fld w 11 5) (fld w 10 1) (fld w 6 3)) else
  if bitsAt w 0 6 = 0x9 ∧ bitsAt w 9 1 = 0x0 then some (.vfsignxorVx (fld w 21 5) (fld w 16 5) (fld w 11 5) (fld w 10 1) (fld w 6 3)) else
  none

/-- Entries of major 0x24. -/
noncomputable def decodeMajor24 (w : Nat) : Option Instr :=
  some (.vfma (fld w 21 5) (fld w 16 5) (fld w 11 5) (fld w 6 5) (fld w 5 1) (fld w 4 1) (fld w 3 1) (fld w 0 3))

/-- Entries of major 0x25. -/
noncomputable def decodeMajor25 (w : Nat) : Option Instr :=
  some (.vfms (fld w 21 5) (fld w 16 5) (fld w 11 5) (fld w 6 5) (fld w 5 1) (fld w 4 1) (fld w 3 1) (fld w 0 3))

/-- Entries of major 0x26. -/
noncomputable def decodeMajor26 (w : Nat) : Option Instr :=
  some (.vfnma (fld w 21 5) (fld w 16 5) (fld w 11 5) (fld w 6 5) (fld w 5 1) (fld w 4 1) (fld w 3 1) (fld w 0 3))

/-- Entries of major 0x27. -/
noncomputable def decodeMajor27 (w : Nat) : Option Instr :=
  some (.vfnms (fld w 21 5) (fld w 16 5) (fld w 11 5) (fld w 6 5) (fld w 5 1) (fld w 4 1) (fld w 3 1) (fld w 0 3))

/-- Entries of major 0x28. -/
noncomputable def decodeMajor28 (w : Nat) : Option Instr :=
  if bitsAt w 0 6 = 0x0 ∧ bitsAt w 24 2 = 0x0 then some (.vcmpeq (fld w 21 3) (fld w 16 5) (fld w 11 5) (fld w 10 1) (fld w 9 1) (fld w 6 3)) else
  if bitsAt w 0 6 = 0x1 ∧ bitsAt w 24 2 = 0x0 then some (.vcmpne (fld w 21 3) (fld w 16 5) (fld w 11 5) (fld w 10 1) (fld w 9 1) (fld w 6 3)) else
  if bitsAt w 0 6 = 0x2 ∧ bitsAt w 24 2 = 0x0 then some (.vcmplt (fld w 21 3) (fld w 16 5) (fld w 11 5) (fld w 10 1) (fld w 9 1) (fld w 6 3)) else
  if bitsAt w 0 6 = 0x3 ∧ bitsAt w 24 2 = 0x0 then some (.vcmple (fld w 21 3) (fld w 16 5) (fld w 11 5) (fld w 10 1) (fld w 9 1) (fld w 6 3)) else
  if bitsAt w 0 6 = 0x4 ∧ bitsAt w 24 2 = 0x0 then some (.vcmpgt (fld w 21 3) (fld w 16 5) (fld w 11 5) (fld w 10 1) (fld w 9 1) (fld w 6 3)) else
  if bitsAt w 0 6 = 0x5 ∧ bitsAt w 24 2 = 0x0 then some (.vcmpge (fld w 21 3) (fld w 16 5) (fld w 11 5) (fld w 10 1) (fld w 9 1) (fld w 6 3)) else
  if bitsAt w 0 6 = 0x6 ∧ bitsAt w 24 2 = 0x0 then some (.vcmpltn (fld w 21 3) (fld w 16 5) (fld w 11 5) (fld w 10 1) (fld w 9 1) (fld w 6 3)) else
  if bitsAt w 0 6 = 0x7 ∧ bitsAt w 24 2 = 0x0 then some (.vcmplen (fld w 21 3) (fld w 16 5) (fld w 11 5) (fld w 10 1) (fld w 9 1) (fld w 6 3)) else
  if bitsAt w 0 6 = 0x8 ∧ bitsAt w 24 2 = 0x0 then some (.vcmpgtn (fld w 21 3) (fld w 16 5) (fld w 11 5) (fld w 10 1) (fld w 9 1) (fld w 6 3)) else
  if bitsAt w 0 6 = 0x9 ∧ bitsAt w 24 2 = 0x0 then some (.vcmpgen (fld w 21 3) (fld w 16 5) (fld w 11 5) (fld w 10 1) (fld w 9 1) (fld w 6 3)) else
  if bitsAt w 0 6 = 0x10 ∧ bitsAt w 24 2 = 0x0 then some (.vfcmpeq (fld w 21 3) (fld w 16 5) (fld w 11 5) (fld w 10 1) (fld w 9 1) (fld w 6 3)) else
  if bitsAt w 0 6 = 0x11 ∧ bitsAt w 24 2 = 0x0 then some (.vfcmpne (fld w 21 3) (fld w 16 5) (fld w 11 5) (fld w 10 1) (fld w 9 1) (fld w 6 3)) else
  if bitsAt w 0 6 = 0x12 ∧ bitsAt w 24 2 = 0x0 then some (.vfcmplt (fld w 21 3) (fld w 16 5) (fld w 11 5) (fld w 10 1) (fld w 9 1) (fld w 6 3)) else
  if bitsAt w 0 6 = 0x13 ∧ bitsAt w 24 2 = 0x0 then some (.vfcmple (fld w 21 3) (fld w 16 5) (fld w 11 5) (fld w 10 1) (fld w 9 1) (fld w 6 3)) else
  if bitsAt w 0 6 = 0x14 ∧ bitsAt w 24 2 = 0x0 then some (.vfcmpgt (fld w 21 3) (fld w 16 5) (fld w 11 5) (fld w 10 1) (fld w 9 1) (fld w 6 3)) else
  if bitsAt w 0 6 = 0x15 ∧ bitsAt w 24 2 = 0x0 then some (.vfcmpge (fld w 21 3) (fld w 16 5) (fld w 11 5) (fld w 10 1) (fld w 9 1) (fld w 6 3)) else
  if bitsAt w 0 6 = 0x16 ∧ bitsAt w 24 2 = 0x0 then some (.vfcmpun (fld w 21 3) (fld w 16 5) (fld w 11 5) (fld w 10 1) (fld w 9 1) (fld w 6 3)) else
  if bitsAt w 0 6 = 0x20 ∧ bitsAt w 9 1 = 0x0 ∧ bitsAt w 24 2 = 0x0 then some (.vcmpeqVx (fld w 21 3) (fld w 16 5) (fld w 11 5) (fld w 10 1) (fld w 6 3)) else
  if bitsAt w 0 6 = 0x21 ∧ bitsAt w 9 1 = 0x0 ∧ bitsAt w 24 2 = 0x0 then some (.vcmpneVx (fld w 21 3) (fld w 16 5) (fld w 11 5) (fld w 10 1) (fld w 6 3)) else
  if bitsAt w 0 6 = 0x22 ∧ bitsAt w 9 1 = 0x0 ∧ bitsAt w 24 2 = 0x0 then some (.vcmpltVx (fld w 21 3) (fld w 16 5) (fld w 11 5) (fld w 10 1) (fld w 6 3)) else
  if bitsAt w 0 6 = 0x23 ∧ bitsAt w 9 1 = 0x0 ∧ bitsAt w 24 2 = 0x0 then some (.vcmpleVx (fld w 21 3) (fld w 16 5) (fld w 11 5) (fld w 10 1) (fld w 6 3)) else
  if bitsAt w 0 6 = 0x24 ∧ bitsAt w 9 1 = 0x0 ∧ bitsAt w 24 2 = 0x0 then some (.vcmpgtVx (fld w 21 3) (fld w 16 5) (fld w 11 5) (fld w 10 1) (fld w 6 3)) else
  if bitsAt w 0 6 = 0x25 ∧ bitsAt w 9 1 = 0x0 ∧ bitsAt w 24 2 = 0x0 then some (.vcmpgeVx (fld w 21 3) (fld w 16 5) (fld w 11 5) (fld w 10 1) (fld w 6 3)) else
  if bitsAt w 0 6 = 0x26 ∧ bitsAt w 9 1 = 0x0 ∧ bitsAt w 24 2 = 0x0 then some (.vcmpltnVx (fld w 21 3) (fld w 16 5) (fld w 11 5) (fld w 10 1) (fld w 6 3)) else
  if bitsAt w 0 6 = 0x27 ∧ bitsAt w 9 1 = 0x0 ∧ bitsAt w 24 2 = 0x0 then some (.vcmplenVx (fld w 21 3) (fld w 16 5) (fld w 11 5) (fld w 10 1) (fld w 6 3)) else
  if bitsAt w 0 6 = 0x28 ∧ bitsAt w 9 1 = 0x0 ∧ bitsAt w 24 2 = 0x0 then some (.vcmpgtnVx (fld w 21 3) (fld w 16 5) (fld w 11 5) (fld w 10 1) (fld w 6 3)) else
  if bitsAt w 0 6 = 0x29 ∧ bitsAt w 9 1 = 0x0 ∧ bitsAt w 24 2 = 0x0 then some (.vcmpgenVx (fld w 21 3) (fld w 16 5) (fld w 11 5) (fld w 10 1) (fld w 6 3)) else
  if bitsAt w 0 6 = 0x30 ∧ bitsAt w 9 1 = 0x0 ∧ bitsAt w 24 2 = 0x0 then some (.vfcmpeqVx (fld w 21 3) (fld w 16 5) (fld w 11 5) (fld w 10 1) (fld w 6 3)) else
  if bitsAt w 0 6 = 0x31 ∧ bitsAt w 9 1 = 0x0 ∧ bitsAt w 24 2 = 0x0 then some (.vfcmpneVx (fld w 21 3) (fld w 16 5) (fld w 11 5) (fld w 10 1) (fld w 6 3)) else
  if bitsAt w 0 6 = 0x32 ∧ bitsAt w 9 1 = 0x0 ∧ bitsAt w 24 2 = 0x0 then some (.vfcmpltVx (fld w 21 3) (fld w 16 5) (fld w 11 5) (fld w 10 1) (fld w 6 3)) else
  if bitsAt w 0 6 = 0x33 ∧ bitsAt w 9 1 = 0x0 ∧ bitsAt w 24 2 = 0x0 then some (.vfcmpleVx (fld w 21 3) (fld w 16 5) (fld w 11 5) (fld w 10 1) (fld w 6 3)) else
  if bitsAt w 0 6 = 0x34 ∧ bitsAt w 9 1 = 0x0 ∧ bitsAt w 24 2 = 0x0 then some (.vfcmpgtVx (fld w 21 3) (fld w 16 5) (fld w 11 5) (fld w 10 1) (fld w 6 3)) else
  if bitsAt w 0 6 = 0x35 ∧ bitsAt w 9 1 = 0x0 ∧ bitsAt w 24 2 = 0x0 then some (.vfcmpgeVx (fld w 21 3) (fld w 16 5) (fld w 11 5) (fld w 10 1) (fld w 6 3)) else
  if bitsAt w 0 6 = 0x36 ∧ bitsAt w 9 1 = 0x0 ∧ bitsAt w 24 2 = 0x0 then some (.vfcmpunVx (fld w 21 3) (fld w 16 5) (fld w 11 5) (fld w 10 1) (fld w 6 3)) else
  none

/-- Entries of major 0x29. -/
noncomputable def decodeMajor29 (w : Nat) : Option Instr :=
  if bitsAt w 0 6 = 0x0 ∧ bitsAt w 9 2 = 0x0 ∧ bitsAt w 14 2 = 0x0 ∧ bitsAt w 19 2 = 0x0 ∧ bitsAt w 24 2 = 0x0 then some (.kand (fld w 21 3) (fld w 16 3) (fld w 11 3) (fld w 6 3)) else
  if bitsAt w 0 6 = 0x1 ∧ bitsAt w 9 2 = 0x0 ∧ bitsAt w 14 2 = 0x0 ∧ bitsAt w 19 2 = 0x0 ∧ bitsAt w 24 2 = 0x0 then some (.kor (fld w 21 3) (fld w 16 3) (fld w 11 3) (fld w 6 3)) else
  if bitsAt w 0 6 = 0x2 ∧ bitsAt w 9 2 = 0x0 ∧ bitsAt w 14 2 = 0x0 ∧ bitsAt w 19 2 = 0x0 ∧ bitsAt w 24 2 = 0x0 then some (.kxor (fld w 21 3) (fld w 16 3) (fld w 11 3) (fld w 6 3)) else
  if bitsAt w 0 6 = 0x3 ∧ bitsAt w 9 2 = 0x0 ∧ bitsAt w 14 2 = 0x0 ∧ bitsAt w 19 2 = 0x0 ∧ bitsAt w 24 2 = 0x0 then some (.kandn (fld w 21 3) (fld w 16 3) (fld w 11 3) (fld w 6 3)) else
  if bitsAt w 0 6 = 0x4 ∧ bitsAt w 9 7 = 0x0 ∧ bitsAt w 19 2 = 0x0 ∧ bitsAt w 24 2 = 0x0 then some (.knot (fld w 21 3) (fld w 16 3) (fld w 6 3)) else
  if bitsAt w 0 6 = 0x5 ∧ bitsAt w 9 7 = 0x0 ∧ bitsAt w 19 2 = 0x0 ∧ bitsAt w 24 2 = 0x0 then some (.kmov (fld w 21 3) (fld w 16 3) (fld w 6 3)) else
  if bitsAt w 0 6 = 0x6 ∧ bitsAt w 9 7 = 0x0 ∧ bitsAt w 19 2 = 0x0 then some (.kpop (fld w 21 5) (fld w 16 3) (fld w 6 3)) else
  if bitsAt w 0 6 = 0x7 ∧ bitsAt w 9 7 = 0x0 ∧ bitsAt w 19 2 = 0x0 then some (.kfirst (fld w 21 5) (fld w 16 3) (fld w 6 3)) else
  if bitsAt w 0 21 = 0x8 ∧ bitsAt w 24 2 = 0x0 then some (.kmovSmiss (fld w 21 3)) else
  none

/-- Entries of major 0x2A. -/
noncomputable def decodeMajor2A (w : Nat) : Option Instr :=
  if bitsAt w 0 6 = 0x0 ∧ bitsAt w 9 1 = 0x0 then some (.vslideup (fld w 21 5) (fld w 16 5) (fld w 11 5) (fld w 10 1) (fld w 6 3)) else
  if bitsAt w 0 6 = 0x1 ∧ bitsAt w 9 1 = 0x0 then some (.vslidedn (fld w 21 5) (fld w 16 5) (fld w 11 5) (fld w 10 1) (fld w 6 3)) else
  if bitsAt w 0 6 = 0x2 ∧ bitsAt w 9 1 = 0x0 then some (.vinslo (fld w 21 5) (fld w 16 5) (fld w 11 5) (fld w 10 1) (fld w 6 3)) else
  if bitsAt w 0 6 = 0x3 ∧ bitsAt w 9 1 = 0x0 then some (.vinshi (fld w 21 5) (fld w 16 5) (fld w 11 5) (fld w 10 1) (fld w 6 3)) else
  if bitsAt w 0 6 = 0x4 then some (.vshuf (fld w 21 5) (fld w 16 5) (fld w 11 5) (fld w 10 1) (fld w 9 1) (fld w 6 3)) else
  if bitsAt w 0 6 = 0x5 ∧ bitsAt w 9 1 = 0x0 then some (.vbcast (fld w 21 5) (fld w 16 5) (fld w 11 5) (fld w 10 1) (fld w 6 3)) else
  if bitsAt w 0 10 = 0x6 ∧ bitsAt w 14 2 = 0x0 then some (.vcompress (fld w 21 5) (fld w 16 5) (fld w 11 3) (fld w 10 1)) else
  if bitsAt w 0 10 = 0x7 ∧ bitsAt w 14 2 = 0x0 then some (.vexpand (fld w 21 5) (fld w 16 5) (fld w 11 3) (fld w 10 1)) else
  if bitsAt w 0 6 = 0x8 ∧ bitsAt w 9 2 = 0x0 ∧ bitsAt w 14 7 = 0x0 then some (.viota (fld w 21 5) (fld w 11 3) (fld w 6 3)) else
  if bitsAt w 0 6 = 0x9 ∧ bitsAt w 9 1 = 0x0 ∧ bitsAt w 11 5 = 0x0 then some (.vrev (fld w 21 5) (fld w 16 5) (fld w 10 1) (fld w 6 3)) else
  none

/-- Entries of major 0x2B. -/
noncomputable def decodeMajor2B (w : Nat) : Option Instr :=
  if bitsAt w 0 6 = 0x0 ∧ bitsAt w 9 1 = 0x0 then some (.vredsum (fld w 21 5) (fld w 16 5) (fld w 11 5) (fld w 10 1) (fld w 6 3)) else
  if bitsAt w 0 6 = 0x1 ∧ bitsAt w 9 1 = 0x0 then some (.vredand (fld w 21 5) (fld w 16 5) (fld w 11 5) (fld w 10 1) (fld w 6 3)) else
  if bitsAt w 0 6 = 0x2 ∧ bitsAt w 9 1 = 0x0 then some (.vredor (fld w 21 5) (fld w 16 5) (fld w 11 5) (fld w 10 1) (fld w 6 3)) else
  if bitsAt w 0 6 = 0x3 ∧ bitsAt w 9 1 = 0x0 then some (.vredxor (fld w 21 5) (fld w 16 5) (fld w 11 5) (fld w 10 1) (fld w 6 3)) else
  if bitsAt w 0 6 = 0x4 ∧ bitsAt w 9 1 = 0x0 then some (.vredmin (fld w 21 5) (fld w 16 5) (fld w 11 5) (fld w 10 1) (fld w 6 3)) else
  if bitsAt w 0 6 = 0x5 ∧ bitsAt w 9 1 = 0x0 then some (.vredmax (fld w 21 5) (fld w 16 5) (fld w 11 5) (fld w 10 1) (fld w 6 3)) else
  if bitsAt w 0 6 = 0x6 ∧ bitsAt w 9 1 = 0x0 then some (.vredminn (fld w 21 5) (fld w 16 5) (fld w 11 5) (fld w 10 1) (fld w 6 3)) else
  if bitsAt w 0 6 = 0x7 ∧ bitsAt w 9 1 = 0x0 then some (.vredmaxn (fld w 21 5) (fld w 16 5) (fld w 11 5) (fld w 10 1) (fld w 6 3)) else
  if bitsAt w 0 6 = 0x8 ∧ bitsAt w 9 1 = 0x0 then some (.vfredsum (fld w 21 5) (fld w 16 5) (fld w 11 5) (fld w 10 1) (fld w 6 3)) else
  if bitsAt w 0 6 = 0x9 ∧ bitsAt w 9 1 = 0x0 then some (.vfredmin (fld w 21 5) (fld w 16 5) (fld w 11 5) (fld w 10 1) (fld w 6 3)) else
  if bitsAt w 0 6 = 0xA ∧ bitsAt w 9 1 = 0x0 then some (.vfredmax (fld w 21 5) (fld w 16 5) (fld w 11 5) (fld w 10 1) (fld w 6 3)) else
  if bitsAt w 0 6 = 0xB ∧ bitsAt w 9 1 = 0x0 ∧ bitsAt w 11 5 = 0x0 then some (.vqsum (fld w 21 5) (fld w 16 5) (fld w 10 1) (fld w 6 3)) else
  none

/-- Entries of major 0x2C. -/
noncomputable def decodeMajor2C (w : Nat) : Option Instr :=
  if bitsAt w 4 2 = 0x0 ∧ bitsAt w 9 1 = 0x0 then some (.vcvt (fld w 21 5) (fld w 16 5) (fld w 11 5) (fld w 10 1) (fld w 6 3) (fld w 0 4)) else
  if bitsAt w 1 5 = 0xA ∧ bitsAt w 9 1 = 0x0 then some (.vcvtNs (fld w 21 5) (fld w 16 5) (fld w 11 5) (fld w 10 1) (fld w 6 3) (fld w 0 1)) else
  if bitsAt w 4 2 = 0x2 ∧ bitsAt w 9 1 = 0x0 ∧ bitsAt w 11 1 = 0x0 then some (.vscvt (fld w 21 5) (fld w 16 5) (fld w 12 4) (fld w 10 1) (fld w 6 3) (fld w 3 1) (fld w 0 3)) else
  if bitsAt w 0 9 = 0x30 then some (.vqntB4 (fld w 21 5) (fld w 16 5) (fld w 11 5) (fld w 10 1) (fld w 9 1)) else
  if bitsAt w 0 9 = 0x31 ∧ bitsAt w 24 2 = 0x0 then some (.vqntS1 (fld w 21 3) (fld w 16 5) (fld w 11 5) (fld w 10 1) (fld w 9 1)) else
  if bitsAt w 0 6 = 0x32 then some (.vdqntB4 (fld w 21 5) (fld w 16 5) (fld w 11 5) (fld w 10 1) (fld w 9 1) (fld w 6 3)) else
  if bitsAt w 0 6 = 0x33 ∧ bitsAt w 10 1 = 0x0 ∧ bitsAt w 19 2 = 0x0 then some (.vdqntS1 (fld w 21 5) (fld w 16 3) (fld w 11 5) (fld w 9 1) (fld w 6 3)) else
  if bitsAt w 0 6 = 0x34 ∧ bitsAt w 9 3 = 0x0 ∧ bitsAt w 16 5 = 0x0 then some (.vrng (fld w 21 5) (fld w 12 4) (fld w 6 3)) else
  if bitsAt w 0 6 = 0x35 ∧ bitsAt w 9 3 = 0x0 ∧ bitsAt w 16 5 = 0x0 ∧ bitsAt w 24 2 = 0x0 then some (.vdrop (fld w 21 3) (fld w 12 4) (fld w 6 3)) else
  none

/-- Entries of major 0x2D. -/
noncomputable def decodeMajor2D (w : Nat) : Option Instr :=
  if bitsAt w 0 3 = 0x0 ∧ bitsAt w 9 2 = 0x0 then some (.vld (fld w 21 5) (fld w 16 5) (fld w 11 5) (fld w 6 3) (fld w 3 3)) else
  if bitsAt w 0 3 = 0x1 ∧ bitsAt w 9 2 = 0x0 then some (.vldAcqDie (fld w 21 5) (fld w 16 5) (fld w 11 5) (fld w 6 3) (fld w 3 3)) else
  if bitsAt w 0 3 = 0x2 ∧ bitsAt w 9 2 = 0x0 then some (.vldAcqPkg (fld w 21 5) (fld w 16 5) (fld w 11 5) (fld w 6 3) (fld w 3 3)) else
  if bitsAt w 0 3 = 0x3 ∧ bitsAt w 9 2 = 0x0 then some (.vldAcqSys (fld w 21 5) (fld w 16 5) (fld w 11 5) (fld w 6 3) (fld w 3 3)) else
  if bitsAt w 9 7 = 0x1 then some (.vldWm (fld w 21 5) (fld w 16 5) (fld w 6 3) (fld w 3 3) (fld w 0 3)) else
  none

/-- Entries of major 0x2E. -/
noncomputable def decodeMajor2E (w : Nat) : Option Instr :=
  if bitsAt w 0 3 = 0x0 ∧ bitsAt w 9 1 = 0x0 then some (.vst (fld w 21 5) (fld w 16 5) (fld w 11 5) (fld w 10 1) (fld w 6 3) (fld w 3 3)) else
  if bitsAt w 0 3 = 0x0 ∧ bitsAt w 9 1 = 0x1 then some (.vstU (fld w 21 5) (fld w 16 5) (fld w 11 5) (fld w 10 1) (fld w 6 3) (fld w 3 3)) else
  if bitsAt w 0 3 = 0x1 ∧ bitsAt w 9 1 = 0x0 then some (.vstRelDie (fld w 21 5) (fld w 16 5) (fld w 11 5) (fld w 10 1) (fld w 6 3) (fld w 3 3)) else
  if bitsAt w 0 3 = 0x2 ∧ bitsAt w 9 1 = 0x0 then some (.vstRelPkg (fld w 21 5) (fld w 16 5) (fld w 11 5) (fld w 10 1) (fld w 6 3) (fld w 3 3)) else
  if bitsAt w 0 3 = 0x3 ∧ bitsAt w 9 1 = 0x0 then some (.vstRelSys (fld w 21 5) (fld w 16 5) (fld w 11 5) (fld w 10 1) (fld w 6 3) (fld w 3 3)) else
  if bitsAt w 0 3 = 0x4 ∧ bitsAt w 9 1 = 0x0 ∧ bitsAt w 14 2 = 0x0 then some (.vstNt (fld w 21 5) (fld w 16 5) (fld w 11 3) (fld w 10 1) (fld w 6 3) (fld w 3 3)) else
  none

/-- Entries of major 0x2F. -/
noncomputable def decodeMajor2F (w : Nat) : Option Instr :=
  if bitsAt w 0 3 = 0x0 ∧ bitsAt w 9 1 = 0x0 then some (.vldx (fld w 21 5) (fld w 16 5) (fld w 11 5) (fld w 10 1) (fld w 6 3) (fld w 3 3)) else
  if bitsAt w 0 3 = 0x1 ∧ bitsAt w 9 1 = 0x0 then some (.vldxAcqDie (fld w 21 5) (fld w 16 5) (fld w 11 5) (fld w 10 1) (fld w 6 3) (fld w 3 3)) else
  if bitsAt w 0 3 = 0x2 ∧ bitsAt w 9 1 = 0x0 then some (.vldxAcqPkg (fld w 21 5) (fld w 16 5) (fld w 11 5) (fld w 10 1) (fld w 6 3) (fld w 3 3)) else
  if bitsAt w 0 3 = 0x3 ∧ bitsAt w 9 1 = 0x0 then some (.vldxAcqSys (fld w 21 5) (fld w 16 5) (fld w 11 5) (fld w 10 1) (fld w 6 3) (fld w 3 3)) else
  if bitsAt w 0 3 = 0x4 ∧ bitsAt w 9 1 = 0x0 then some (.vldxDup (fld w 21 5) (fld w 16 5) (fld w 11 5) (fld w 10 1) (fld w 6 3) (fld w 3 3)) else
  if bitsAt w 0 3 = 0x5 ∧ bitsAt w 9 1 = 0x0 then some (.vldxDupAcqDie (fld w 21 5) (fld w 16 5) (fld w 11 5) (fld w 10 1) (fld w 6 3) (fld w 3 3)) else
  if bitsAt w 0 3 = 0x6 ∧ bitsAt w 9 1 = 0x0 then some (.vldxDupAcqPkg (fld w 21 5) (fld w 16 5) (fld w 11 5) (fld w 10 1) (fld w 6 3) (fld w 3 3)) else
  if bitsAt w 0 3 = 0x7 ∧ bitsAt w 9 1 = 0x0 then some (.vldxDupAcqSys (fld w 21 5) (fld w 16 5) (fld w 11 5) (fld w 10 1) (fld w 6 3) (fld w 3 3)) else
  if bitsAt w 9 1 = 0x1 then some (.vldxWm (fld w 21 5) (fld w 16 5) (fld w 11 5) (fld w 10 1) (fld w 6 3) (fld w 3 3) (fld w 0 3)) else
  none

/-- Entries of major 0x30. -/
noncomputable def decodeMajor30 (w : Nat) : Option Instr :=
  if bitsAt w 0 3 = 0x0 ∧ bitsAt w 9 1 = 0x0 then some (.vstx (fld w 21 5) (fld w 16 5) (fld w 11 5) (fld w 10 1) (fld w 6 3) (fld w 3 3)) else
  if bitsAt w 0 3 = 0x0 ∧ bitsAt w 9 1 = 0x1 then some (.vstxU (fld w 21 5) (fld w 16 5) (fld w 11 5) (fld w 10 1) (fld w 6 3) (fld w 3 3)) else
  if bitsAt w 0 3 = 0x1 ∧ bitsAt w 9 1 = 0x0 then some (.vstxRelDie (fld w 21 5) (fld w 16 5) (fld w 11 5) (fld w 10 1) (fld w 6 3) (fld w 3 3)) else
  if bitsAt w 0 3 = 0x2 ∧ bitsAt w 9 1 = 0x0 then some (.vstxRelPkg (fld w 21 5) (fld w 16 5) (fld w 11 5) (fld w 10 1) (fld w 6 3) (fld w 3 3)) else
  if bitsAt w 0 3 = 0x3 ∧ bitsAt w 9 1 = 0x0 then some (.vstxRelSys (fld w 21 5) (fld w 16 5) (fld w 11 5) (fld w 10 1) (fld w 6 3) (fld w 3 3)) else
  if bitsAt w 0 3 = 0x4 ∧ bitsAt w 9 1 = 0x0 then some (.vstxAdd (fld w 21 5) (fld w 16 5) (fld w 11 5) (fld w 10 1) (fld w 6 3) (fld w 3 3)) else
  if bitsAt w 0 3 = 0x5 ∧ bitsAt w 9 1 = 0x0 then some (.vstxFadd (fld w 21 5) (fld w 16 5) (fld w 11 5) (fld w 10 1) (fld w 6 3) (fld w 3 3)) else
  none

/-- Entries of major 0x39. -/
noncomputable def decodeMajor39 (w : Nat) : Option Instr :=
  if bitsAt w 0 3 = 0x0 ∧ bitsAt w 4 2 = 0x1 then some (.vatadd (fld w 21 5) (fld w 16 5) (fld w 11 5) (fld w 10 1) (fld w 9 1) (fld w 6 3) (fld w 3 1)) else
  if bitsAt w 0 3 = 0x1 ∧ bitsAt w 4 2 = 0x1 then some (.vatswap (fld w 21 5) (fld w 16 5) (fld w 11 5) (fld w 10 1) (fld w 9 1) (fld w 6 3) (fld w 3 1)) else
  if bitsAt w 0 3 = 0x2 ∧ bitsAt w 4 2 = 0x1 then some (.vatand (fld w 21 5) (fld w 16 5) (fld w 11 5) (fld w 10 1) (fld w 9 1) (fld w 6 3) (fld w 3 1)) else
  if bitsAt w 0 3 = 0x3 ∧ bitsAt w 4 2 = 0x1 then some (.vator (fld w 21 5) (fld w 16 5) (fld w 11 5) (fld w 10 1) (fld w 9 1) (fld w 6 3) (fld w 3 1)) else
  if bitsAt w 0 3 = 0x4 ∧ bitsAt w 4 2 = 0x1 then some (.vatxor (fld w 21 5) (fld w 16 5) (fld w 11 5) (fld w 10 1) (fld w 9 1) (fld w 6 3) (fld w 3 1)) else
  if bitsAt w 0 3 = 0x5 ∧ bitsAt w 4 2 = 0x1 then some (.vatmin (fld w 21 5) (fld w 16 5) (fld w 11 5) (fld w 10 1) (fld w 9 1) (fld w 6 3) (fld w 3 1)) else
  if bitsAt w 0 3 = 0x6 ∧ bitsAt w 4 2 = 0x1 then some (.vatmax (fld w 21 5) (fld w 16 5) (fld w 11 5) (fld w 10 1) (fld w 9 1) (fld w 6 3) (fld w 3 1)) else
  if bitsAt w 0 3 = 0x7 ∧ bitsAt w 4 2 = 0x1 then some (.vatfadd (fld w 21 5) (fld w 16 5) (fld w 11 5) (fld w 10 1) (fld w 9 1) (fld w 6 3) (fld w 3 1)) else
  none

/-- Entries of major 0x31. -/
noncomputable def decodeMajor31 (w : Nat) : Option Instr :=
  if bitsAt w 0 16 = 0x0 ∧ bitsAt w 24 2 = 0x0 then some (.ybind (fld w 21 3) (fld w 16 5)) else
  if bitsAt w 0 16 = 0x1 ∧ bitsAt w 19 2 = 0x0 then some (.vyld (fld w 21 5) (fld w 16 3)) else
  if bitsAt w 0 10 = 0x2 ∧ bitsAt w 11 5 = 0x0 ∧ bitsAt w 24 2 = 0x0 then some (.vyst (fld w 21 3) (fld w 16 5) (fld w 10 1)) else
  if bitsAt w 0 21 = 0x3 ∧ bitsAt w 24 2 = 0x0 then some (.yrel (fld w 21 3)) else
  if bitsAt w 0 16 = 0x4 ∧ bitsAt w 19 2 = 0x0 then some (.ystat (fld w 21 5) (fld w 16 3)) else
  if bitsAt w 0 16 = 0x5 ∧ bitsAt w 19 2 = 0x0 then some (.ybyte (fld w 21 5) (fld w 16 3)) else
  none

/-- Entries of major 0x32. -/
noncomputable def decodeMajor32 (w : Nat) : Option Instr :=
  if bitsAt w 0 1 = 0x0 ∧ bitsAt w 6 6 = 0x0 then some (.cpy (fld w 21 5) (fld w 16 5) (fld w 12 4) (fld w 4 2) (fld w 1 3)) else
  if bitsAt w 0 1 = 0x0 ∧ bitsAt w 6 6 = 0x1 then some (.cpyrg (fld w 21 5) (fld w 16 5) (fld w 12 4) (fld w 4 2) (fld w 1 3)) else
  if bitsAt w 0 1 = 0x0 ∧ bitsAt w 6 6 = 0x2 then some (.cpyrp (fld w 21 5) (fld w 16 5) (fld w 12 4) (fld w 4 2) (fld w 1 3)) else
  if bitsAt w 0 3 = 0x0 ∧ bitsAt w 6 6 = 0x3 then some (.cpygs (fld w 21 5) (fld w 16 5) (fld w 12 4) (fld w 3 3)) else
  if bitsAt w 0 1 = 0x0 ∧ bitsAt w 6 7 = 0x4 then some (.cpyrk (fld w 21 5) (fld w 16 5) (fld w 13 3) (fld w 4 2) (fld w 1 3)) else
  if bitsAt w 0 11 = 0x140 ∧ bitsAt w 21 5 = 0x0 then some (.weirarm (fld w 16 5) (fld w 11 5)) else
  if bitsAt w 0 11 = 0x180 then some (.weirwt (fld w 21 5) (fld w 16 5) (fld w 11 5)) else
  none

/-- Entries of major 0x33. -/
noncomputable def decodeMajor33 (w : Nat) : Option Instr :=
  if bitsAt w 3 13 = 0x0 ∧ bitsAt w 24 2 = 0x0 then some (.vwmbind (fld w 21 3) (fld w 16 5) (fld w 0 3)) else
  if bitsAt w 0 16 = 0x40 ∧ bitsAt w 19 2 = 0x0 then some (.vwmaddr (fld w 21 5) (fld w 16 3)) else
  if bitsAt w 0 16 = 0x80 ∧ bitsAt w 24 2 = 0x0 then some (.vwmpub (fld w 21 3) (fld w 16 5)) else
  if bitsAt w 0 11 = 0xC0 ∧ bitsAt w 19 2 = 0x0 then some (.vwmwait (fld w 21 5) (fld w 16 3) (fld w 11 5)) else
  none

/-- Entries of major 0x34. -/
noncomputable def decodeMajor34 (w : Nat) : Option Instr :=
  if bitsAt w 0 6 = 0x0 ∧ bitsAt w 23 3 = 0x0 then some (.mxopa (fld w 21 2) (fld w 16 5) (fld w 11 5) (fld w 10 1) (fld w 9 1) (fld w 6 3)) else
  if bitsAt w 0 6 = 0x1 ∧ bitsAt w 23 3 = 0x0 then some (.mxops (fld w 21 2) (fld w 16 5) (fld w 11 5) (fld w 10 1) (fld w 9 1) (fld w 6 3)) else
  none

/-- Entries of major 0x35. -/
noncomputable def decodeMajor35 (w : Nat) : Option Instr :=
  if bitsAt w 0 21 = 0x0 ∧ bitsAt w 23 3 = 0x0 then some (.mxzero (fld w 21 2)) else
  if bitsAt w 0 11 = 0x1 ∧ bitsAt w 18 3 = 0x0 then some (.mxrow (fld w 21 5) (fld w 16 2) (fld w 11 5)) else
  if bitsAt w 0 11 = 0x2 ∧ bitsAt w 18 3 = 0x0 then some (.mxcol (fld w 21 5) (fld w 16 2) (fld w 11 5)) else
  if bitsAt w 0 11 = 0x3 ∧ bitsAt w 23 3 = 0x0 then some (.mxldRm (fld w 21 2) (fld w 16 5) (fld w 11 5)) else
  if bitsAt w 0 11 = 0x4 ∧ bitsAt w 23 3 = 0x0 then some (.mxldCm (fld w 21 2) (fld w 16 5) (fld w 11 5)) else
  if bitsAt w 0 11 = 0x5 ∧ bitsAt w 23 3 = 0x0 then some (.mxstRm (fld w 21 2) (fld w 16 5) (fld w 11 5)) else
  if bitsAt w 0 11 = 0x6 ∧ bitsAt w 23 3 = 0x0 then some (.mxstCm (fld w 21 2) (fld w 16 5) (fld w 11 5)) else
  none

/-- Entries of major 0x36. -/
noncomputable def decodeMajor36 (w : Nat) : Option Instr :=
  if bitsAt w 0 16 = 0x0 then some (.msopen (fld w 21 5) (fld w 16 5)) else
  if bitsAt w 0 16 = 0x40 ∧ bitsAt w 21 5 = 0x0 then some (.msclose (fld w 16 5)) else
  if bitsAt w 0 11 = 0x80 ∧ bitsAt w 21 5 = 0x0 then some (.msrefine (fld w 16 5) (fld w 11 5)) else
  if bitsAt w 0 11 = 0xC0 ∧ bitsAt w 21 5 = 0x0 then some (.msbal (fld w 16 5) (fld w 11 5)) else
  if bitsAt w 0 11 = 0x100 ∧ bitsAt w 21 5 = 0x0 then some (.msghost (fld w 16 5) (fld w 11 5)) else
  if bitsAt w 0 11 = 0x140 ∧ bitsAt w 21 5 = 0x0 then some (.mscolor (fld w 16 5) (fld w 11 5)) else
  if bitsAt w 3 2 = 0x0 ∧ bitsAt w 6 5 = 0x6 then some (.mskey (fld w 21 5) (fld w 16 5) (fld w 11 5) (fld w 5 1) (fld w 0 3)) else
  if bitsAt w 3 2 = 0x0 ∧ bitsAt w 6 5 = 0x7 then some (.msfind (fld w 21 5) (fld w 16 5) (fld w 11 5) (fld w 5 1) (fld w 0 3)) else
  if bitsAt w 0 11 = 0x200 ∧ bitsAt w 21 5 = 0x0 then some (.msremap (fld w 16 5) (fld w 11 5)) else
  if bitsAt w 0 16 = 0x240 then some (.mswait (fld w 21 5) (fld w 16 5)) else
  none

/-- Entries of major 0x37. -/
noncomputable def decodeMajor37 (w : Nat) : Option Instr :=
  if bitsAt w 0 16 = 0x0 then some (.gbind (fld w 21 5) (fld w 16 5)) else
  if bitsAt w 0 11 = 0x40 ∧ bitsAt w 21 5 = 0x0 then some (.gtable (fld w 16 5) (fld w 11 5)) else
  if bitsAt w 0 11 = 0x80 ∧ bitsAt w 21 5 = 0x0 then some (.gsweep (fld w 16 5) (fld w 11 5)) else
  if bitsAt w 0 11 = 0xC0 ∧ bitsAt w 21 5 = 0x0 then some (.greadState (fld w 16 5) (fld w 11 5)) else
  if bitsAt w 0 11 = 0xC1 ∧ bitsAt w 21 5 = 0x0 then some (.greadMarg (fld w 16 5) (fld w 11 5)) else
  if bitsAt w 0 11 = 0xC3 ∧ bitsAt w 21 5 = 0x0 then some (.greadMargClr (fld w 16 5) (fld w 11 5)) else
  if bitsAt w 0 16 = 0x100 then some (.gwait (fld w 21 5) (fld w 16 5)) else
  if bitsAt w 0 16 = 0x140 ∧ bitsAt w 21 5 = 0x0 then some (.grel (fld w 16 5)) else
  none

/-- Entries of major 0x38. -/
noncomputable def decodeMajor38 (w : Nat) : Option Instr :=
  if bitsAt w 0 21 = 0x0 then some (.cview (fld w 21 5)) else
  if bitsAt w 0 16 = 0x1 ∧ bitsAt w 21 5 = 0x0 then some (.cviewMap (fld w 16 5)) else
  if bitsAt w 0 21 = 0x2 then some (.cviewFid (fld w 21 5)) else
  if bitsAt w 0 16 = 0x40 ∧ bitsAt w 21 5 = 0x0 then some (.coll (fld w 16 5)) else
  if bitsAt w 0 16 = 0x80 then some (.cwait (fld w 21 5) (fld w 16 5)) else
  if bitsAt w 0 16 = 0xC0 then some (.caston (fld w 21 5) (fld w 16 5)) else
  if bitsAt w 0 16 = 0x100 then some (.cleave (fld w 21 5) (fld w 16 5)) else
  none

/-- The entry that a word matches, if any (R114, R115). -/
noncomputable def decodeEntry (w : Nat) : Except DecodeError Instr :=
  let pick (r : Option Instr) : Except DecodeError Instr :=
    match r with
    | some i => .ok i
    | none => .error .unassigned
  match bitsAt w 26 6 with
  | 0x01 => pick (decodeMajor01 w)
  | 0x02 => pick (decodeMajor02 w)
  | 0x03 => pick (decodeMajor03 w)
  | 0x04 => pick (decodeMajor04 w)
  | 0x05 => pick (decodeMajor05 w)
  | 0x06 => pick (decodeMajor06 w)
  | 0x07 => pick (decodeMajor07 w)
  | 0x08 => pick (decodeMajor08 w)
  | 0x09 => pick (decodeMajor09 w)
  | 0x0A => pick (decodeMajor0A w)
  | 0x0B => pick (decodeMajor0B w)
  | 0x0C => pick (decodeMajor0C w)
  | 0x0D => pick (decodeMajor0D w)
  | 0x0E => pick (decodeMajor0E w)
  | 0x0F => pick (decodeMajor0F w)
  | 0x10 => pick (decodeMajor10 w)
  | 0x11 => pick (decodeMajor11 w)
  | 0x12 => pick (decodeMajor12 w)
  | 0x13 => pick (decodeMajor13 w)
  | 0x14 => pick (decodeMajor14 w)
  | 0x15 => pick (decodeMajor15 w)
  | 0x16 => pick (decodeMajor16 w)
  | 0x17 => pick (decodeMajor17 w)
  | 0x18 => pick (decodeMajor18 w)
  | 0x19 => pick (decodeMajor19 w)
  | 0x1A => pick (decodeMajor1A w)
  | 0x1B => pick (decodeMajor1B w)
  | 0x1C => pick (decodeMajor1C w)
  | 0x1D => pick (decodeMajor1D w)
  | 0x1E => pick (decodeMajor1E w)
  | 0x20 => pick (decodeMajor20 w)
  | 0x21 => pick (decodeMajor21 w)
  | 0x22 => pick (decodeMajor22 w)
  | 0x23 => pick (decodeMajor23 w)
  | 0x24 => pick (decodeMajor24 w)
  | 0x25 => pick (decodeMajor25 w)
  | 0x26 => pick (decodeMajor26 w)
  | 0x27 => pick (decodeMajor27 w)
  | 0x28 => pick (decodeMajor28 w)
  | 0x29 => pick (decodeMajor29 w)
  | 0x2A => pick (decodeMajor2A w)
  | 0x2B => pick (decodeMajor2B w)
  | 0x2C => pick (decodeMajor2C w)
  | 0x2D => pick (decodeMajor2D w)
  | 0x2E => pick (decodeMajor2E w)
  | 0x2F => pick (decodeMajor2F w)
  | 0x30 => pick (decodeMajor30 w)
  | 0x39 => pick (decodeMajor39 w)
  | 0x31 => pick (decodeMajor31 w)
  | 0x32 => pick (decodeMajor32 w)
  | 0x33 => pick (decodeMajor33 w)
  | 0x34 => pick (decodeMajor34 w)
  | 0x35 => pick (decodeMajor35 w)
  | 0x36 => pick (decodeMajor36 w)
  | 0x37 => pick (decodeMajor37 w)
  | 0x38 => pick (decodeMajor38 w)
  | _ => .error .badMajor

/-- Decoding of a 32-bit word: its instruction, or why it raises Illegal Instruction (R116). -/
noncomputable def decode (w : BitVec 32) : Except DecodeError Instr :=
  match decodeEntry w.toNat with
  | .ok i => if i.wf then .ok i else .error .badField
  | .error e => .error e

/-- A field's value at its place in a word. -/
def put {n : Nat} (x : BitVec n) (lo : Nat) : Nat := x.toNat * 2 ^ lo

/-- The encoder: the number that an instruction's word holds, from the formats of R112; none for an event. -/
def encode : Instr → Option Nat
  | .add d a b => some (0x04000000 + put d 21 + put a 16 + put b 11)
  | .sub d a b => some (0x04000040 + put d 21 + put a 16 + put b 11)
  | .and d a b => some (0x04000080 + put d 21 + put a 16 + put b 11)
  | .or d a b => some (0x040000C0 + put d 21 + put a 16 + put b 11)
  | .xor d a b => some (0x04000100 + put d 21 + put a 16 + put b 11)
  | .andn d a b => some (0x04000140 + put d 21 + put a 16 + put b 11)
  | .sll d a b => some (0x04000180 + put d 21 + put a 16 + put b 11)
  | .srl d a b => some (0x040001C0 + put d 21 + put a 16 + put b 11)
  | .sra d a b => some (0x04000200 + put d 21 + put a 16 + put b 11)
  | .ror d a b => some (0x04000240 + put d 21 + put a 16 + put b 11)
  | .slt d a b => some (0x04000280 + put d 21 + put a 16 + put b 11)
  | .sltn d a b => some (0x040002C0 + put d 21 + put a 16 + put b 11)
  | .min d a b => some (0x04000300 + put d 21 + put a 16 + put b 11)
  | .max d a b => some (0x04000340 + put d 21 + put a 16 + put b 11)
  | .mul d a b => some (0x04000380 + put d 21 + put a 16 + put b 11)
  | .mulh d a b => some (0x040003C0 + put d 21 + put a 16 + put b 11)
  | .mulhn d a b => some (0x04000400 + put d 21 + put a 16 + put b 11)
  | .div d a b => some (0x04000440 + put d 21 + put a 16 + put b 11)
  | .divn d a b => some (0x04000480 + put d 21 + put a 16 + put b 11)
  | .rem d a b => some (0x040004C0 + put d 21 + put a 16 + put b 11)
  | .remn d a b => some (0x04000500 + put d 21 + put a 16 + put b 11)
  | .clz d a => some (0x04000540 + put d 21 + put a 16)
  | .popc d a => some (0x04000580 + put d 21 + put a 16)
  | .slli d a h => some (0x040005C0 + put d 21 + put a 16 + put h 0)
  | .srli d a h => some (0x04000600 + put d 21 + put a 16 + put h 0)
  | .srai d a h => some (0x04000640 + put d 21 + put a 16 + put h 0)
  | .rori d a h => some (0x04000680 + put d 21 + put a 16 + put h 0)
  | .addi d a i => some (0x08000000 + put d 21 + put a 16 + put i 0)
  | .andi d a i => some (0x0C000000 + put d 21 + put a 16 + put i 0)
  | .ori d a i => some (0x10000000 + put d 21 + put a 16 + put i 0)
  | .xori d a i => some (0x14000000 + put d 21 + put a 16 + put i 0)
  | .slti d a i => some (0x18000000 + put d 21 + put a 16 + put i 0)
  | .sltni d a i => some (0x1C000000 + put d 21 + put a 16 + put i 0)
  | .lhi d i => some (0x20000000 + put d 21 + put i 0)
  | .pchi d i => some (0x24000000 + put d 21 + put i 0)
  | .fadd d a b f m => some (0x28000000 + put d 21 + put a 16 + put b 11 + put f 3 + put m 0)
  | .fsub d a b f m => some (0x28000040 + put d 21 + put a 16 + put b 11 + put f 3 + put m 0)
  | .fmul d a b f m => some (0x28000080 + put d 21 + put a 16 + put b 11 + put f 3 + put m 0)
  | .fdiv d a b f m => some (0x280000C0 + put d 21 + put a 16 + put b 11 + put f 3 + put m 0)
  | .fsqrt d a f m => some (0x28000100 + put d 21 + put a 16 + put f 3 + put m 0)
  | .fmin d a b f => some (0x28000140 + put d 21 + put a 16 + put b 11 + put f 3)
  | .fmax d a b f => some (0x28000180 + put d 21 + put a 16 + put b 11 + put f 3)
  | .feq d a b f => some (0x280001C0 + put d 21 + put a 16 + put b 11 + put f 3)
  | .flt d a b f => some (0x28000200 + put d 21 + put a 16 + put b 11 + put f 3)
  | .fle d a b f => some (0x28000240 + put d 21 + put a 16 + put b 11 + put f 3)
  | .fcvt d a s f m => some (0x28000280 + put d 21 + put a 16 + put s 11 + put f 3 + put m 0)
  | .fcvti d a t f m => some (0x280002C0 + put d 21 + put a 16 + put t 11 + put f 3 + put m 0)
  | .fcvtf d a t f m => some (0x28000300 + put d 21 + put a 16 + put t 11 + put f 3 + put m 0)
  | .fma d a b c f => some (0x2C000000 + put d 21 + put a 16 + put b 11 + put c 6 + put f 2)
  | .fms d a b c f => some (0x2C000010 + put d 21 + put a 16 + put b 11 + put c 6 + put f 2)
  | .fnma d a b c f => some (0x2C000020 + put d 21 + put a 16 + put b 11 + put c 6 + put f 2)
  | .fnms d a b c f => some (0x2C000030 + put d 21 + put a 16 + put b 11 + put c 6 + put f 2)
  | .ldI8 d a o => some (0x30000000 + put d 21 + put a 16 + put o 0)
  | .ldI16 d a o => some (0x30002000 + put d 21 + put a 16 + put o 0)
  | .ldI32 d a o => some (0x30004000 + put d 21 + put a 16 + put o 0)
  | .ldI64 d a o => some (0x30006000 + put d 21 + put a 16 + put o 0)
  | .ldN8 d a o => some (0x30008000 + put d 21 + put a 16 + put o 0)
  | .ldN16 d a o => some (0x3000A000 + put d 21 + put a 16 + put o 0)
  | .ldN32 d a o => some (0x3000C000 + put d 21 + put a 16 + put o 0)
  | .stI8 s a o => some (0x34000000 + put s 21 + put a 16 + put o 0)
  | .stI16 s a o => some (0x34002000 + put s 21 + put a 16 + put o 0)
  | .stI32 s a o => some (0x34004000 + put s 21 + put a 16 + put o 0)
  | .stI64 s a o => some (0x34006000 + put s 21 + put a 16 + put o 0)
  | .atswap d a b o s z => some (0x38000000 + put d 21 + put a 16 + put b 11 + put o 4 + put s 1 + put z 0)
  | .atadd d a b o s z => some (0x38000040 + put d 21 + put a 16 + put b 11 + put o 4 + put s 1 + put z 0)
  | .atand d a b o s z => some (0x38000080 + put d 21 + put a 16 + put b 11 + put o 4 + put s 1 + put z 0)
  | .ator d a b o s z => some (0x380000C0 + put d 21 + put a 16 + put b 11 + put o 4 + put s 1 + put z 0)
  | .atxor d a b o s z => some (0x38000100 + put d 21 + put a 16 + put b 11 + put o 4 + put s 1 + put z 0)
  | .atmin d a b o s z => some (0x38000140 + put d 21 + put a 16 + put b 11 + put o 4 + put s 1 + put z 0)
  | .atmax d a b o s z => some (0x38000180 + put d 21 + put a 16 + put b 11 + put o 4 + put s 1 + put z 0)
  | .atminN d a b o s z => some (0x380001C0 + put d 21 + put a 16 + put b 11 + put o 4 + put s 1 + put z 0)
  | .atmaxN d a b o s z => some (0x38000200 + put d 21 + put a 16 + put b 11 + put o 4 + put s 1 + put z 0)
  | .atfadd d a b o s z => some (0x38000240 + put d 21 + put a 16 + put b 11 + put o 4 + put s 1 + put z 0)
  | .ldo d a o s z => some (0x38000280 + put d 21 + put a 16 + put o 4 + put s 1 + put z 0)
  | .sto a b o s z => some (0x380002C0 + put a 16 + put b 11 + put o 4 + put s 1 + put z 0)
  | .cas d a b c o s z => some (0x3C000000 + put d 21 + put a 16 + put b 11 + put c 6 + put o 4 + put s 1 + put z 0)
  | .beq a b o => some (0x40000000 + put a 21 + put b 16 + put o 0)
  | .bne a b o => some (0x44000000 + put a 21 + put b 16 + put o 0)
  | .blt a b o => some (0x48000000 + put a 21 + put b 16 + put o 0)
  | .bge a b o => some (0x4C000000 + put a 21 + put b 16 + put o 0)
  | .bltn a b o => some (0x50000000 + put a 21 + put b 16 + put o 0)
  | .bgen a b o => some (0x54000000 + put a 21 + put b 16 + put o 0)
  | .jal o => some (0x58000000 + put o 0)
  | .jalr d a i => some (0x5C000000 + put d 21 + put a 16 + put i 0)
  | .kbrAny k o => some (0x60000000 + put k 23 + put o 0)
  | .kbrNone k o => some (0x60200000 + put k 23 + put o 0)
  | .kbrAll k o => some (0x60400000 + put k 23 + put o 0)
  | .kbrNall k o => some (0x60600000 + put k 23 + put o 0)
  | .vwhile k v b o => some (0x64000000 + put k 23 + put v 18 + put b 13 + put o 0)
  | .fence o s => some (0x68000000 + put o 4 + put s 1)
  | .waitw d a b o s => some (0x68000040 + put d 21 + put a 16 + put b 11 + put o 4 + put s 1)
  | .yield => some (0x68000080)
  | .exit => some (0x680000C0)
  | .brk n => some (0x68000100 + put n 0)
  | .syscall n => some (0x68000140 + put n 0)
  | .tret => some (0x6C000000)
  | .ctxsv a => some (0x6C000040 + put a 16)
  | .ctxld a => some (0x6C000080 + put a 16)
  | .tlbinvPage a b => some (0x6C0000C0 + put a 16 + put b 11)
  | .tlbinvAsid b => some (0x6C0000C1 + put b 11)
  | .tlbinvAll => some (0x6C0000C2)
  | .asw a b => some (0x6C000100 + put a 16 + put b 11)
  | .crr d c => some (0x70000000 + put d 21 + put c 0)
  | .crw d a c => some (0x70001000 + put d 21 + put a 16 + put c 0)
  | .crs d a c => some (0x70002000 + put d 21 + put a 16 + put c 0)
  | .crc d a c => some (0x70003000 + put d 21 + put a 16 + put c 0)
  | .launch d a => some (0x74000000 + put d 21 + put a 16)
  | .lstat d a => some (0x74000040 + put d 21 + put a 16)
  | .lcancel d a => some (0x74000080 + put d 21 + put a 16)
  | .farm a b => some (0x740000C0 + put a 16 + put b 11)
  | .strip d a => some (0x74000100 + put d 21 + put a 16)
  | .farmredF64 d a b => some (0x74000140 + put d 21 + put a 16 + put b 11)
  | .farmredMin d a b => some (0x74000148 + put d 21 + put a 16 + put b 11)
  | .farmredMax d a b => some (0x74000150 + put d 21 + put a 16 + put b 11)
  | .farmredI64 d a b => some (0x74000158 + put d 21 + put a 16 + put b 11)
  | .vsetvl d a => some (0x78000000 + put d 21 + put a 16)
  | .vsetvlB d a b => some (0x78000040 + put d 21 + put a 16 + put b 11)
  | .vsettype d a => some (0x78000080 + put d 21 + put a 16)
  | .mxmode d a b => some (0x780000C0 + put d 21 + put a 16 + put b 11)
  | .vadd d a b c e g => some (0x80000000 + put d 21 + put a 16 + put b 11 + put c 10 + put e 9 + put g 6)
  | .vsub d a b c e g => some (0x80000001 + put d 21 + put a 16 + put b 11 + put c 10 + put e 9 + put g 6)
  | .vrsub d a b c e g => some (0x80000002 + put d 21 + put a 16 + put b 11 + put c 10 + put e 9 + put g 6)
  | .vand d a b c e g => some (0x80000003 + put d 21 + put a 16 + put b 11 + put c 10 + put e 9 + put g 6)
  | .vor d a b c e g => some (0x80000004 + put d 21 + put a 16 + put b 11 + put c 10 + put e 9 + put g 6)
  | .vxor d a b c e g => some (0x80000005 + put d 21 + put a 16 + put b 11 + put c 10 + put e 9 + put g 6)
  | .vsll d a b c e g => some (0x80000006 + put d 21 + put a 16 + put b 11 + put c 10 + put e 9 + put g 6)
  | .vsrl d a b c e g => some (0x80000007 + put d 21 + put a 16 + put b 11 + put c 10 + put e 9 + put g 6)
  | .vsra d a b c e g => some (0x80000008 + put d 21 + put a 16 + put b 11 + put c 10 + put e 9 + put g 6)
  | .vmin d a b c e g => some (0x80000009 + put d 21 + put a 16 + put b 11 + put c 10 + put e 9 + put g 6)
  | .vmax d a b c e g => some (0x8000000A + put d 21 + put a 16 + put b 11 + put c 10 + put e 9 + put g 6)
  | .vminn d a b c e g => some (0x8000000B + put d 21 + put a 16 + put b 11 + put c 10 + put e 9 + put g 6)
  | .vmaxn d a b c e g => some (0x8000000C + put d 21 + put a 16 + put b 11 + put c 10 + put e 9 + put g 6)
  | .vmul d a b c e g => some (0x8000000D + put d 21 + put a 16 + put b 11 + put c 10 + put e 9 + put g 6)
  | .vmulh d a b c e g => some (0x8000000E + put d 21 + put a 16 + put b 11 + put c 10 + put e 9 + put g 6)
  | .vmulhn d a b c e g => some (0x8000000F + put d 21 + put a 16 + put b 11 + put c 10 + put e 9 + put g 6)
  | .vdiv d a b c e g => some (0x80000010 + put d 21 + put a 16 + put b 11 + put c 10 + put e 9 + put g 6)
  | .vdivn d a b c e g => some (0x80000011 + put d 21 + put a 16 + put b 11 + put c 10 + put e 9 + put g 6)
  | .vrem d a b c e g => some (0x80000012 + put d 21 + put a 16 + put b 11 + put c 10 + put e 9 + put g 6)
  | .vremn d a b c e g => some (0x80000013 + put d 21 + put a 16 + put b 11 + put c 10 + put e 9 + put g 6)
  | .vsadd d a b c e g => some (0x80000014 + put d 21 + put a 16 + put b 11 + put c 10 + put e 9 + put g 6)
  | .vsaddn d a b c e g => some (0x80000015 + put d 21 + put a 16 + put b 11 + put c 10 + put e 9 + put g 6)
  | .vssub d a b c e g => some (0x80000016 + put d 21 + put a 16 + put b 11 + put c 10 + put e 9 + put g 6)
  | .vssubn d a b c e g => some (0x80000017 + put d 21 + put a 16 + put b 11 + put c 10 + put e 9 + put g 6)
  | .vmv d b e g => some (0x80000018 + put d 21 + put b 11 + put e 9 + put g 6)
  | .vmuln d a b c e g => some (0x80000019 + put d 21 + put a 16 + put b 11 + put c 10 + put e 9 + put g 6)
  | .vid d g => some (0x8000001A + put d 21 + put g 6)
  | .vaddVx d a b c g => some (0x84000000 + put d 21 + put a 16 + put b 11 + put c 10 + put g 6)
  | .vsubVx d a b c g => some (0x84000001 + put d 21 + put a 16 + put b 11 + put c 10 + put g 6)
  | .vrsubVx d a b c g => some (0x84000002 + put d 21 + put a 16 + put b 11 + put c 10 + put g 6)
  | .vandVx d a b c g => some (0x84000003 + put d 21 + put a 16 + put b 11 + put c 10 + put g 6)
  | .vorVx d a b c g => some (0x84000004 + put d 21 + put a 16 + put b 11 + put c 10 + put g 6)
  | .vxorVx d a b c g => some (0x84000005 + put d 21 + put a 16 + put b 11 + put c 10 + put g 6)
  | .vsllVx d a b c g => some (0x84000006 + put d 21 + put a 16 + put b 11 + put c 10 + put g 6)
  | .vsrlVx d a b c g => some (0x84000007 + put d 21 + put a 16 + put b 11 + put c 10 + put g 6)
  | .vsraVx d a b c g => some (0x84000008 + put d 21 + put a 16 + put b 11 + put c 10 + put g 6)
  | .vminVx d a b c g => some (0x84000009 + put d 21 + put a 16 + put b 11 + put c 10 + put g 6)
  | .vmaxVx d a b c g => some (0x8400000A + put d 21 + put a 16 + put b 11 + put c 10 + put g 6)
  | .vminnVx d a b c g => some (0x8400000B + put d 21 + put a 16 + put b 11 + put c 10 + put g 6)
  | .vmaxnVx d a b c g => some (0x8400000C + put d 21 + put a 16 + put b 11 + put c 10 + put g 6)
  | .vmulVx d a b c g => some (0x8400000D + put d 21 + put a 16 + put b 11 + put c 10 + put g 6)
  | .vmulhVx d a b c g => some (0x8400000E + put d 21 + put a 16 + put b 11 + put c 10 + put g 6)
  | .vmulhnVx d a b c g => some (0x8400000F + put d 21 + put a 16 + put b 11 + put c 10 + put g 6)
  | .vdivVx d a b c g => some (0x84000010 + put d 21 + put a 16 + put b 11 + put c 10 + put g 6)
  | .vdivnVx d a b c g => some (0x84000011 + put d 21 + put a 16 + put b 11 + put c 10 + put g 6)
  | .vremVx d a b c g => some (0x84000012 + put d 21 + put a 16 + put b 11 + put c 10 + put g 6)
  | .vremnVx d a b c g => some (0x84000013 + put d 21 + put a 16 + put b 11 + put c 10 + put g 6)
  | .vsaddVx d a b c g => some (0x84000014 + put d 21 + put a 16 + put b 11 + put c 10 + put g 6)
  | .vsaddnVx d a b c g => some (0x84000015 + put d 21 + put a 16 + put b 11 + put c 10 + put g 6)
  | .vssubVx d a b c g => some (0x84000016 + put d 21 + put a 16 + put b 11 + put c 10 + put g 6)
  | .vssubnVx d a b c g => some (0x84000017 + put d 21 + put a 16 + put b 11 + put c 10 + put g 6)
  | .vmvVx d b g => some (0x84000018 + put d 21 + put b 11 + put g 6)
  | .vmulnVx d a b c g => some (0x84000019 + put d 21 + put a 16 + put b 11 + put c 10 + put g 6)
  | .vfadd d a b c e g => some (0x88000000 + put d 21 + put a 16 + put b 11 + put c 10 + put e 9 + put g 6)
  | .vfsub d a b c e g => some (0x88000001 + put d 21 + put a 16 + put b 11 + put c 10 + put e 9 + put g 6)
  | .vfmul d a b c e g => some (0x88000002 + put d 21 + put a 16 + put b 11 + put c 10 + put e 9 + put g 6)
  | .vfdiv d a b c e g => some (0x88000003 + put d 21 + put a 16 + put b 11 + put c 10 + put e 9 + put g 6)
  | .vfsqrt d a c g => some (0x88000004 + put d 21 + put a 16 + put c 10 + put g 6)
  | .vfmin d a b c e g => some (0x88000005 + put d 21 + put a 16 + put b 11 + put c 10 + put e 9 + put g 6)
  | .vfmax d a b c e g => some (0x88000006 + put d 21 + put a 16 + put b 11 + put c 10 + put e 9 + put g 6)
  | .vfsigncp d a b c e g => some (0x88000007 + put d 21 + put a 16 + put b 11 + put c 10 + put e 9 + put g 6)
  | .vfsignneg d a b c e g => some (0x88000008 + put d 21 + put a 16 + put b 11 + put c 10 + put e 9 + put g 6)
  | .vfsignxor d a b c e g => some (0x88000009 + put d 21 + put a 16 + put b 11 + put c 10 + put e 9 + put g 6)
  | .vfcvti d a c g => some (0x8800000A + put d 21 + put a 16 + put c 10 + put g 6)
  | .vfcvtin d a c g => some (0x8800000B + put d 21 + put a 16 + put c 10 + put g 6)
  | .vfcvtf d a c g => some (0x8800000C + put d 21 + put a 16 + put c 10 + put g 6)
  | .vfcvtfn d a c g => some (0x8800000D + put d 21 + put a 16 + put c 10 + put g 6)
  | .vfaddVx d a b c g => some (0x8C000000 + put d 21 + put a 16 + put b 11 + put c 10 + put g 6)
  | .vfsubVx d a b c g => some (0x8C000001 + put d 21 + put a 16 + put b 11 + put c 10 + put g 6)
  | .vfmulVx d a b c g => some (0x8C000002 + put d 21 + put a 16 + put b 11 + put c 10 + put g 6)
  | .vfdivVx d a b c g => some (0x8C000003 + put d 21 + put a 16 + put b 11 + put c 10 + put g 6)
  | .vfminVx d a b c g => some (0x8C000005 + put d 21 + put a 16 + put b 11 + put c 10 + put g 6)
  | .vfmaxVx d a b c g => some (0x8C000006 + put d 21 + put a 16 + put b 11 + put c 10 + put g 6)
  | .vfsigncpVx d a b c g => some (0x8C000007 + put d 21 + put a 16 + put b 11 + put c 10 + put g 6)
  | .vfsignnegVx d a b c g => some (0x8C000008 + put d 21 + put a 16 + put b 11 + put c 10 + put g 6)
  | .vfsignxorVx d a b c g => some (0x8C000009 + put d 21 + put a 16 + put b 11 + put c 10 + put g 6)
  | .vfma d a b c x y z g => some (0x90000000 + put d 21 + put a 16 + put b 11 + put c 6 + put x 5 + put y 4 + put z 3 + put g 0)
  | .vfms d a b c x y z g => some (0x94000000 + put d 21 + put a 16 + put b 11 + put c 6 + put x 5 + put y 4 + put z 3 + put g 0)
  | .vfnma d a b c x y z g => some (0x98000000 + put d 21 + put a 16 + put b 11 + put c 6 + put x 5 + put y 4 + put z 3 + put g 0)
  | .vfnms d a b c x y z g => some (0x9C000000 + put d 21 + put a 16 + put b 11 + put c 6 + put x 5 + put y 4 + put z 3 + put g 0)
  | .vcmpeq d a b c e g => some (0xA0000000 + put d 21 + put a 16 + put b 11 + put c 10 + put e 9 + put g 6)
  | .vcmpne d a b c e g => some (0xA0000001 + put d 21 + put a 16 + put b 11 + put c 10 + put e 9 + put g 6)
  | .vcmplt d a b c e g => some (0xA0000002 + put d 21 + put a 16 + put b 11 + put c 10 + put e 9 + put g 6)
  | .vcmple d a b c e g => some (0xA0000003 + put d 21 + put a 16 + put b 11 + put c 10 + put e 9 + put g 6)
  | .vcmpgt d a b c e g => some (0xA0000004 + put d 21 + put a 16 + put b 11 + put c 10 + put e 9 + put g 6)
  | .vcmpge d a b c e g => some (0xA0000005 + put d 21 + put a 16 + put b 11 + put c 10 + put e 9 + put g 6)
  | .vcmpltn d a b c e g => some (0xA0000006 + put d 21 + put a 16 + put b 11 + put c 10 + put e 9 + put g 6)
  | .vcmplen d a b c e g => some (0xA0000007 + put d 21 + put a 16 + put b 11 + put c 10 + put e 9 + put g 6)
  | .vcmpgtn d a b c e g => some (0xA0000008 + put d 21 + put a 16 + put b 11 + put c 10 + put e 9 + put g 6)
  | .vcmpgen d a b c e g => some (0xA0000009 + put d 21 + put a 16 + put b 11 + put c 10 + put e 9 + put g 6)
  | .vfcmpeq d a b c e g => some (0xA0000010 + put d 21 + put a 16 + put b 11 + put c 10 + put e 9 + put g 6)
  | .vfcmpne d a b c e g => some (0xA0000011 + put d 21 + put a 16 + put b 11 + put c 10 + put e 9 + put g 6)
  | .vfcmplt d a b c e g => some (0xA0000012 + put d 21 + put a 16 + put b 11 + put c 10 + put e 9 + put g 6)
  | .vfcmple d a b c e g => some (0xA0000013 + put d 21 + put a 16 + put b 11 + put c 10 + put e 9 + put g 6)
  | .vfcmpgt d a b c e g => some (0xA0000014 + put d 21 + put a 16 + put b 11 + put c 10 + put e 9 + put g 6)
  | .vfcmpge d a b c e g => some (0xA0000015 + put d 21 + put a 16 + put b 11 + put c 10 + put e 9 + put g 6)
  | .vfcmpun d a b c e g => some (0xA0000016 + put d 21 + put a 16 + put b 11 + put c 10 + put e 9 + put g 6)
  | .vcmpeqVx d a b c g => some (0xA0000020 + put d 21 + put a 16 + put b 11 + put c 10 + put g 6)
  | .vcmpneVx d a b c g => some (0xA0000021 + put d 21 + put a 16 + put b 11 + put c 10 + put g 6)
  | .vcmpltVx d a b c g => some (0xA0000022 + put d 21 + put a 16 + put b 11 + put c 10 + put g 6)
  | .vcmpleVx d a b c g => some (0xA0000023 + put d 21 + put a 16 + put b 11 + put c 10 + put g 6)
  | .vcmpgtVx d a b c g => some (0xA0000024 + put d 21 + put a 16 + put b 11 + put c 10 + put g 6)
  | .vcmpgeVx d a b c g => some (0xA0000025 + put d 21 + put a 16 + put b 11 + put c 10 + put g 6)
  | .vcmpltnVx d a b c g => some (0xA0000026 + put d 21 + put a 16 + put b 11 + put c 10 + put g 6)
  | .vcmplenVx d a b c g => some (0xA0000027 + put d 21 + put a 16 + put b 11 + put c 10 + put g 6)
  | .vcmpgtnVx d a b c g => some (0xA0000028 + put d 21 + put a 16 + put b 11 + put c 10 + put g 6)
  | .vcmpgenVx d a b c g => some (0xA0000029 + put d 21 + put a 16 + put b 11 + put c 10 + put g 6)
  | .vfcmpeqVx d a b c g => some (0xA0000030 + put d 21 + put a 16 + put b 11 + put c 10 + put g 6)
  | .vfcmpneVx d a b c g => some (0xA0000031 + put d 21 + put a 16 + put b 11 + put c 10 + put g 6)
  | .vfcmpltVx d a b c g => some (0xA0000032 + put d 21 + put a 16 + put b 11 + put c 10 + put g 6)
  | .vfcmpleVx d a b c g => some (0xA0000033 + put d 21 + put a 16 + put b 11 + put c 10 + put g 6)
  | .vfcmpgtVx d a b c g => some (0xA0000034 + put d 21 + put a 16 + put b 11 + put c 10 + put g 6)
  | .vfcmpgeVx d a b c g => some (0xA0000035 + put d 21 + put a 16 + put b 11 + put c 10 + put g 6)
  | .vfcmpunVx d a b c g => some (0xA0000036 + put d 21 + put a 16 + put b 11 + put c 10 + put g 6)
  | .kand d a b g => some (0xA4000000 + put d 21 + put a 16 + put b 11 + put g 6)
  | .kor d a b g => some (0xA4000001 + put d 21 + put a 16 + put b 11 + put g 6)
  | .kxor d a b g => some (0xA4000002 + put d 21 + put a 16 + put b 11 + put g 6)
  | .kandn d a b g => some (0xA4000003 + put d 21 + put a 16 + put b 11 + put g 6)
  | .knot d a g => some (0xA4000004 + put d 21 + put a 16 + put g 6)
  | .kmov d a g => some (0xA4000005 + put d 21 + put a 16 + put g 6)
  | .kpop d a g => some (0xA4000006 + put d 21 + put a 16 + put g 6)
  | .kfirst d a g => some (0xA4000007 + put d 21 + put a 16 + put g 6)
  | .kmovSmiss d => some (0xA4000008 + put d 21)
  | .vslideup d a b c g => some (0xA8000000 + put d 21 + put a 16 + put b 11 + put c 10 + put g 6)
  | .vslidedn d a b c g => some (0xA8000001 + put d 21 + put a 16 + put b 11 + put c 10 + put g 6)
  | .vinslo d a b c g => some (0xA8000002 + put d 21 + put a 16 + put b 11 + put c 10 + put g 6)
  | .vinshi d a b c g => some (0xA8000003 + put d 21 + put a 16 + put b 11 + put c 10 + put g 6)
  | .vshuf d a b c e g => some (0xA8000004 + put d 21 + put a 16 + put b 11 + put c 10 + put e 9 + put g 6)
  | .vbcast d a b c g => some (0xA8000005 + put d 21 + put a 16 + put b 11 + put c 10 + put g 6)
  | .vcompress d a b c => some (0xA8000006 + put d 21 + put a 16 + put b 11 + put c 10)
  | .vexpand d a b c => some (0xA8000007 + put d 21 + put a 16 + put b 11 + put c 10)
  | .viota d b g => some (0xA8000008 + put d 21 + put b 11 + put g 6)
  | .vrev d a c g => some (0xA8000009 + put d 21 + put a 16 + put c 10 + put g 6)
  | .vredsum d a b c g => some (0xAC000000 + put d 21 + put a 16 + put b 11 + put c 10 + put g 6)
  | .vredand d a b c g => some (0xAC000001 + put d 21 + put a 16 + put b 11 + put c 10 + put g 6)
  | .vredor d a b c g => some (0xAC000002 + put d 21 + put a 16 + put b 11 + put c 10 + put g 6)
  | .vredxor d a b c g => some (0xAC000003 + put d 21 + put a 16 + put b 11 + put c 10 + put g 6)
  | .vredmin d a b c g => some (0xAC000004 + put d 21 + put a 16 + put b 11 + put c 10 + put g 6)
  | .vredmax d a b c g => some (0xAC000005 + put d 21 + put a 16 + put b 11 + put c 10 + put g 6)
  | .vredminn d a b c g => some (0xAC000006 + put d 21 + put a 16 + put b 11 + put c 10 + put g 6)
  | .vredmaxn d a b c g => some (0xAC000007 + put d 21 + put a 16 + put b 11 + put c 10 + put g 6)
  | .vfredsum d a b c g => some (0xAC000008 + put d 21 + put a 16 + put b 11 + put c 10 + put g 6)
  | .vfredmin d a b c g => some (0xAC000009 + put d 21 + put a 16 + put b 11 + put c 10 + put g 6)
  | .vfredmax d a b c g => some (0xAC00000A + put d 21 + put a 16 + put b 11 + put c 10 + put g 6)
  | .vqsum d a c g => some (0xAC00000B + put d 21 + put a 16 + put c 10 + put g 6)
  | .vcvt d a s c g t => some (0xB0000000 + put d 21 + put a 16 + put s 11 + put c 10 + put g 6 + put t 0)
  | .vcvtNs d a s c g t => some (0xB0000014 + put d 21 + put a 16 + put s 11 + put c 10 + put g 6 + put t 0)
  | .vscvt d a b c g p t => some (0xB0000020 + put d 21 + put a 16 + put b 12 + put c 10 + put g 6 + put p 3 + put t 0)
  | .vqntB4 d a b c e => some (0xB0000030 + put d 21 + put a 16 + put b 11 + put c 10 + put e 9)
  | .vqntS1 d a b c e => some (0xB0000031 + put d 21 + put a 16 + put b 11 + put c 10 + put e 9)
  | .vdqntB4 d a b c e g => some (0xB0000032 + put d 21 + put a 16 + put b 11 + put c 10 + put e 9 + put g 6)
  | .vdqntS1 d a b e g => some (0xB0000033 + put d 21 + put a 16 + put b 11 + put e 9 + put g 6)
  | .vrng d b g => some (0xB0000034 + put d 21 + put b 12 + put g 6)
  | .vdrop d b g => some (0xB0000035 + put d 21 + put b 12 + put g 6)
  | .vld d a s g w => some (0xB4000000 + put d 21 + put a 16 + put s 11 + put g 6 + put w 3)
  | .vldAcqDie d a s g w => some (0xB4000001 + put d 21 + put a 16 + put s 11 + put g 6 + put w 3)
  | .vldAcqPkg d a s g w => some (0xB4000002 + put d 21 + put a 16 + put s 11 + put g 6 + put w 3)
  | .vldAcqSys d a s g w => some (0xB4000003 + put d 21 + put a 16 + put s 11 + put g 6 + put w 3)
  | .vldWm d a g w m => some (0xB4000200 + put d 21 + put a 16 + put g 6 + put w 3 + put m 0)
  | .vst d a s c g w => some (0xB8000000 + put d 21 + put a 16 + put s 11 + put c 10 + put g 6 + put w 3)
  | .vstU d a s c g w => some (0xB8000200 + put d 21 + put a 16 + put s 11 + put c 10 + put g 6 + put w 3)
  | .vstRelDie d a s c g w => some (0xB8000001 + put d 21 + put a 16 + put s 11 + put c 10 + put g 6 + put w 3)
  | .vstRelPkg d a s c g w => some (0xB8000002 + put d 21 + put a 16 + put s 11 + put c 10 + put g 6 + put w 3)
  | .vstRelSys d a s c g w => some (0xB8000003 + put d 21 + put a 16 + put s 11 + put c 10 + put g 6 + put w 3)
  | .vstNt d a m c g w => some (0xB8000004 + put d 21 + put a 16 + put m 11 + put c 10 + put g 6 + put w 3)
  | .vldx d a s c g w => some (0xBC000000 + put d 21 + put a 16 + put s 11 + put c 10 + put g 6 + put w 3)
  | .vldxAcqDie d a s c g w => some (0xBC000001 + put d 21 + put a 16 + put s 11 + put c 10 + put g 6 + put w 3)
  | .vldxAcqPkg d a s c g w => some (0xBC000002 + put d 21 + put a 16 + put s 11 + put c 10 + put g 6 + put w 3)
  | .vldxAcqSys d a s c g w => some (0xBC000003 + put d 21 + put a 16 + put s 11 + put c 10 + put g 6 + put w 3)
  | .vldxDup d a s c g w => some (0xBC000004 + put d 21 + put a 16 + put s 11 + put c 10 + put g 6 + put w 3)
  | .vldxDupAcqDie d a s c g w => some (0xBC000005 + put d 21 + put a 16 + put s 11 + put c 10 + put g 6 + put w 3)
  | .vldxDupAcqPkg d a s c g w => some (0xBC000006 + put d 21 + put a 16 + put s 11 + put c 10 + put g 6 + put w 3)
  | .vldxDupAcqSys d a s c g w => some (0xBC000007 + put d 21 + put a 16 + put s 11 + put c 10 + put g 6 + put w 3)
  | .vldxWm d a s c g w m => some (0xBC000200 + put d 21 + put a 16 + put s 11 + put c 10 + put g 6 + put w 3 + put m 0)
  | .vstx d a s c g w => some (0xC0000000 + put d 21 + put a 16 + put s 11 + put c 10 + put g 6 + put w 3)
  | .vstxU d a s c g w => some (0xC0000200 + put d 21 + put a 16 + put s 11 + put c 10 + put g 6 + put w 3)
  | .vstxRelDie d a s c g w => some (0xC0000001 + put d 21 + put a 16 + put s 11 + put c 10 + put g 6 + put w 3)
  | .vstxRelPkg d a s c g w => some (0xC0000002 + put d 21 + put a 16 + put s 11 + put c 10 + put g 6 + put w 3)
  | .vstxRelSys d a s c g w => some (0xC0000003 + put d 21 + put a 16 + put s 11 + put c 10 + put g 6 + put w 3)
  | .vstxAdd d a s c g w => some (0xC0000004 + put d 21 + put a 16 + put s 11 + put c 10 + put g 6 + put w 3)
  | .vstxFadd d a s c g w => some (0xC0000005 + put d 21 + put a 16 + put s 11 + put c 10 + put g 6 + put w 3)
  | .vatadd d a s c r g w => some (0xE4000010 + put d 21 + put a 16 + put s 11 + put c 10 + put r 9 + put g 6 + put w 3)
  | .vatswap d a s c r g w => some (0xE4000011 + put d 21 + put a 16 + put s 11 + put c 10 + put r 9 + put g 6 + put w 3)
  | .vatand d a s c r g w => some (0xE4000012 + put d 21 + put a 16 + put s 11 + put c 10 + put r 9 + put g 6 + put w 3)
  | .vator d a s c r g w => some (0xE4000013 + put d 21 + put a 16 + put s 11 + put c 10 + put r 9 + put g 6 + put w 3)
  | .vatxor d a s c r g w => some (0xE4000014 + put d 21 + put a 16 + put s 11 + put c 10 + put r 9 + put g 6 + put w 3)
  | .vatmin d a s c r g w => some (0xE4000015 + put d 21 + put a 16 + put s 11 + put c 10 + put r 9 + put g 6 + put w 3)
  | .vatmax d a s c r g w => some (0xE4000016 + put d 21 + put a 16 + put s 11 + put c 10 + put r 9 + put g 6 + put w 3)
  | .vatfadd d a s c r g w => some (0xE4000017 + put d 21 + put a 16 + put s 11 + put c 10 + put r 9 + put g 6 + put w 3)
  | .ybind d a => some (0xC4000000 + put d 21 + put a 16)
  | .vyld d a => some (0xC4000001 + put d 21 + put a 16)
  | .vyst d a c => some (0xC4000002 + put d 21 + put a 16 + put c 10)
  | .yrel d => some (0xC4000003 + put d 21)
  | .ystat d a => some (0xC4000004 + put d 21 + put a 16)
  | .ybyte d a => some (0xC4000005 + put d 21 + put a 16)
  | .cpy d a b k s => some (0xC8000000 + put d 21 + put a 16 + put b 12 + put k 4 + put s 1)
  | .cpyrg d a b k s => some (0xC8000040 + put d 21 + put a 16 + put b 12 + put k 4 + put s 1)
  | .cpyrp d a b k s => some (0xC8000080 + put d 21 + put a 16 + put b 12 + put k 4 + put s 1)
  | .cpygs d a b m => some (0xC80000C0 + put d 21 + put a 16 + put b 12 + put m 3)
  | .cpyrk d a b k s => some (0xC8000100 + put d 21 + put a 16 + put b 13 + put k 4 + put s 1)
  | .weirarm a b => some (0xC8000140 + put a 16 + put b 11)
  | .weirwt d a b => some (0xC8000180 + put d 21 + put a 16 + put b 11)
  | .vwmbind d a s => some (0xCC000000 + put d 21 + put a 16 + put s 0)
  | .vwmaddr d a => some (0xCC000040 + put d 21 + put a 16)
  | .vwmpub d a => some (0xCC000080 + put d 21 + put a 16)
  | .vwmwait d a b => some (0xCC0000C0 + put d 21 + put a 16 + put b 11)
  | .mxopa d a b c e g => some (0xD0000000 + put d 21 + put a 16 + put b 11 + put c 10 + put e 9 + put g 6)
  | .mxops d a b c e g => some (0xD0000001 + put d 21 + put a 16 + put b 11 + put c 10 + put e 9 + put g 6)
  | .mxzero d => some (0xD4000000 + put d 21)
  | .mxrow d a b => some (0xD4000001 + put d 21 + put a 16 + put b 11)
  | .mxcol d a b => some (0xD4000002 + put d 21 + put a 16 + put b 11)
  | .mxldRm d a b => some (0xD4000003 + put d 21 + put a 16 + put b 11)
  | .mxldCm d a b => some (0xD4000004 + put d 21 + put a 16 + put b 11)
  | .mxstRm d a b => some (0xD4000005 + put d 21 + put a 16 + put b 11)
  | .mxstCm d a b => some (0xD4000006 + put d 21 + put a 16 + put b 11)
  | .msopen d a => some (0xD8000000 + put d 21 + put a 16)
  | .msclose a => some (0xD8000040 + put a 16)
  | .msrefine a b => some (0xD8000080 + put a 16 + put b 11)
  | .msbal a b => some (0xD80000C0 + put a 16 + put b 11)
  | .msghost a b => some (0xD8000100 + put a 16 + put b 11)
  | .mscolor a b => some (0xD8000140 + put a 16 + put b 11)
  | .mskey d a b c g => some (0xD8000180 + put d 21 + put a 16 + put b 11 + put c 5 + put g 0)
  | .msfind d a b c g => some (0xD80001C0 + put d 21 + put a 16 + put b 11 + put c 5 + put g 0)
  | .msremap a b => some (0xD8000200 + put a 16 + put b 11)
  | .mswait d a => some (0xD8000240 + put d 21 + put a 16)
  | .gbind d a => some (0xDC000000 + put d 21 + put a 16)
  | .gtable a b => some (0xDC000040 + put a 16 + put b 11)
  | .gsweep a b => some (0xDC000080 + put a 16 + put b 11)
  | .greadState a b => some (0xDC0000C0 + put a 16 + put b 11)
  | .greadMarg a b => some (0xDC0000C1 + put a 16 + put b 11)
  | .greadMargClr a b => some (0xDC0000C3 + put a 16 + put b 11)
  | .gwait d a => some (0xDC000100 + put d 21 + put a 16)
  | .grel a => some (0xDC000140 + put a 16)
  | .cview d => some (0xE0000000 + put d 21)
  | .cviewMap a => some (0xE0000001 + put a 16)
  | .cviewFid d => some (0xE0000002 + put d 21)
  | .coll a => some (0xE0000040 + put a 16)
  | .cwait d a => some (0xE0000080 + put d 21 + put a 16)
  | .caston d a => some (0xE00000C0 + put d 21 + put a 16)
  | .cleave d a => some (0xE0000100 + put d 21 + put a 16)
  | .statusAccess .. | .vtypeWrite .. | .vlWrite .. | .slipWrite .. | .seedWrite ..
  | .dseedWrite .. | .rminWrite .. | .mtypeWrite .. | .mvlWrite .. | .spbaseWrite ..
  | .controlRegisterWrite .. | .instructionFetch .. | .slotPick .. | .vectorQueueDispatch .. | .granuleCommit ..
  | .scalarStoreAck .. | .hartStop .. | .hartSaveDone .. | .hartRestore .. | .heldEventTake ..
  | .stretchPreemption .. | .issueBudgetExhausted .. | .budgetGraceExpiry .. | .grantApply .. | .mtypeChange ..
  | .hartEnd .. | .waitwWake .. | .farmBarrierRelease .. | .farmredResult .. | .weirwtWake ..
  | .vwmwaitWake .. | .gatedElementRead .. | .publicationApply .. | .cwaitReturn .. | .handleWaitReturn ..
  | .copyComplete .. | .weirArrival .. | .cpygsRowLanded .. | .engineOperationComplete .. | .engineOperationStop ..
  | .imageVerificationDone .. | .handlePostedSlot .. | .prereqWordMet .. | .prereqUnreadable .. | .launchStart ..
  | .promiseExpiry .. | .refit .. | .completionRecordWrite .. | .hostNotice .. | .powerReading ..
  | .standbyEntry | .standbyExitDone | .boot .. | .linkService .. | .patrolScrub ..
  | .rds .. | .rdx .. | .upg .. | .evc .. | .wbd ..
  | .snps .. | .snpx .. | .inv .. | .binv .. | .fwd ..
  | .data .. | .rsp .. | .cmp .. | .homeAtomic .. | .remoteAtomicError ..
  | .hostPortRequest .. | .priResponse .. | .priTimeout .. | .atsInvalidation .. | .attest ..
  | .keysetInstall .. | .keysetClear .. | .jclear .. | .jread .. | .logread ..
  | .spaceBind .. | .spaceUnbind .. | .heartbeatSend | .heartbeatReceive .. | .heartbeatTimeout ..
  | .neighbourUnreachable .. | .suspicionReport .. | .viewProposal .. | .proposalAck .. | .proposalAckTimeout ..
  | .viewCommit .. | .commitTimeout | .quiescenceHold .. | .holdUnion .. | .holdAck ..
  | .joinRequest .. | .joinRequestRetry .. | .joinTimeout .. | .membershipChangeTrap .. | .fabricFlitArrival ..
  | .remoteCopyAccess .. | .remoteCopyRefused .. | .collectiveMatch .. | .collectiveComplete .. | .powerRemoved
  | .illegalInstruction .. | .targetCompletion .. | .unknownCode .. => none

/-- The word of an instruction as 32 bits; zero, which is no instruction, for an event. -/
def encodeWord (i : Instr) : BitVec 32 := BitVec.ofNat 32 ((encode i).getD 0)

/-- The bytes of an instruction in memory: its word, little-endian (R3, R112). -/
def encodeBytes (i : Instr) : List Byte := bytesOf (encodeWord i).toNat 4

/-- The instruction that the decoder reads from the first word of a list of bytes, and the rest of the list; none when
fewer than four bytes stand there or the word is no instruction. -/
noncomputable def decodeBytes (bs : List Byte) : Option (Instr × List Byte) :=
  match bs with
  | b0 :: b1 :: b2 :: b3 :: rest =>
    match decode (BitVec.ofNat 32 (natOfBytes [b0, b1, b2, b3])) with
    | .ok i => some (i, rest)
    | .error _ => none
  | _ => none

/-- The instruction that the decoder reads from a word whose bits, numbered from bit 0 of the first word on, are `w`;
every row of the table has one 32-bit word, laid out in memory as R3 and R112 state. -/
noncomputable def decodeTableWord (nbits w : Nat) : Option Instr :=
  (decodeBytes (bytesOf (w % 2 ^ nbits) 4)).map (·.1)

end Sys2Proof
end

