-- ==== Sys2Proof/Config.lean ====
section
/-!
DEFINITION. What an implementation fixes, and the free values: constants that the manual leaves open. A constant
without a body has no value that a proof could use; the others are choices named in the assumption log.
-/

namespace Sys2Proof.Config

-- free values: nothing constrains them

/-- Clocks, beyond the first, that a step takes: the manual's clock counts bind no result (R147). -/
opaque stepClocks : Nat → Nat

/-- Which translation an access uses, by clock, address and kind of access, where the tables differ from what a translation
cache holds (R401). -/
opaque staleUse : Nat → Nat → Nat → Nat

/-- Which element's value stands where two elements of a .u store write one place (R279): true for the later one. -/
opaque laterStands : Nat → Bool

/-- Bytes that an access moves across an HBM interface or a fabric port (R38): the caches decide. -/
opaque traffic : Nat → Nat

/-- After how many granules of the instruction that a hart issues next a requested stop comes, 0 for none of it (R144). -/
opaque stopGranules : Nat → Nat

/-- Whether a hart's register storage lies in the share of the pool that a fence takes (R407). -/
opaque storedIn : Nat → Bool

/-- Whether a hart's registers cannot stay at its grant in the storage that remains after a fence (R407). -/
opaque cannotStay : Nat → Bool

/-- Clocks of a hart that its issue budget is not charged: throttle gating (R24) and link pauses (R409). -/
opaque uncharged : Nat → Nat

/-- Clocks that a recomputation after a gauge mismatch costs a hart (R75, R146). -/
opaque retryClocks : Nat → Nat

/-- The 32 secret bytes of the identity key (R422), as a number. -/
opaque identitySeed : Nat

/-- SHA-512 of the running firmware (R422), as a number, first byte lowest. -/
opaque firmwareDigest : Nat

/-- Fresh values for MNONCE (R418). -/
opaque freshNonce : Nat → Nat

/-- The 16 characters of the module's serial (R46), as a number, first byte lowest. -/
opaque serial : Nat

/-- The silicon stepping counted from the first, which the capability list gives as 1 (R46). -/
opaque laterStepping : Nat

/-- The silicon stepping, from 1, in the byte that holds it (R46). -/
def stepping : Nat := laterStepping % 255 + 1

/-- A word of a collective's source that has changed since an earlier run read it reads new in the run after a view change (R376:
either). -/
opaque readsNew : Nat → Bool

/-- Which blocks of an aborted collective's destination hold its old-view results, where this package had them (R376). -/
opaque abortWrites : Nat → Bool

/-- DETAIL of a status word for an outcome whose entry states none (R311, R324). -/
opaque freeDetail : Nat → Nat

-- choices of the model, each in the assumption log

/-- Where BAR0 of a host port lies in device memory (R66, R418): inside the supervisor's first 2^30 bytes (R381). -/
def bar0 (port : Nat) : Nat := 0x10000000 + port * 0x10000

/-- Bytes of BAR0 of a port: 32 KiB of submission region and 4 KiB of management region. -/
def bar0Size : Nat := 0x9000

/-- Where the management region of a port lies (R418). -/
def mgmt (port : Nat) : Nat := bar0 port + 0x8000

/-- The PC of harts 0 to 15 after reset. -/
def firmwarePc : Word := 0

/-- The physical address of the root table that harts 0 to 15 have after reset. -/
def firmwareRoot : Word := 0

/-- The first ASID that the firmware assigns to a bound pair (R397); smaller ones are its own. -/
def firstAsid : Nat := 16

end Sys2Proof.Config
end

