-- ==== Sys2Proof/Machine/State.lean ====
section
/-!
DEFINITION. The state of one module, as plain data: everything the manual gives the machine, the state after reset,
and the reasons for which a step stops. INVENTORY.md lists every field with the rule that names it.
-/

namespace Sys2Proof.Machine

/-- Where a translated access lands (R99, R251, R264, R42, R263). -/
inductive Loc where
  /-- Device memory: the storage address home(pa) * 2^37 + pa[36:0] (R99), and whether its page is a SYNC page. -/
  | dev (addr : Nat) (sync : Bool)
  /-- A byte offset in the scratchpad region of launch `lid` made on `core` (R88). -/
  | scr (core lid off : Nat)
  /-- The capability window, at an offset from CAPBASE (R42). -/
  | cap (off : Nat)
  /-- An IO page, at a physical address (R263). -/
  | io (pa : Nat)
  /-- A host-backed page of a port, at a virtual address (R404). -/
  | hostb (port va : Nat)
  deriving DecidableEq, Repr

/-- A stretch of `len` bytes at consecutive places from `loc` on. -/
structure Seg where
  loc : Loc
  len : Nat
  deriving DecidableEq, Repr

/-- A yarn slot (R291, R296, R395). -/
structure YarnSlot where
  bound : Bool
  /-- The bound record, 64 bytes as a number, byte 0 lowest. -/
  record : Nat
  pos : Nat
  byteOff : Nat
  /-- DELTA predecessor. -/
  prev : Nat
  /-- SPARSE value offset. -/
  valOff : Nat
  epoch : Nat
  /-- Elements that wait to be encoded, oldest first. -/
  held : List Nat
  deriving DecidableEq, Repr

/-- A watermark's binding (R287, R290): ADDR, 0 when unbound, and SC. -/
structure WmBinding where
  addr : Word
  sc : Num3
  deriving DecidableEq, Repr

/-- The state of a hart's slot (R132). STALLED holds a hart whose oldest instruction waits. -/
inductive Run where
  | ready
  | stalled
  | sleep
  /-- Stopped; its context is being saved (R392). -/
  | swap
  deriving DecidableEq, Repr

/-- Why a stop of a placed hart has been requested (R144, R389, R392). -/
inductive StopReq where
  /-- Its stretch is over (R73), or its slot is needed by its owner (R74). -/
  | preempt
  /-- The unit that holds its registers left service (R407), or its core was fenced (R86). -/
  | migrate
  /-- Its launch ends. -/
  | ended
  deriving DecidableEq, Repr

/-- A completion that an IO device or a host has returned to a waiting instruction (R263, R404). -/
structure Reply where
  bytes : List Byte
  ok : Bool
  /-- The access is not made again, so that its instruction completes before a stop (R170, R280). -/
  whole : Bool
  deriving DecidableEq, Repr

/-- A poisoned word of register state (R405): file 0 vector, 1 mask, 2 accumulator; register number; element of 64
bits, or accumulator cell. -/
structure RegPoison where
  file : Nat
  reg : Nat
  idx : Nat
  deriving DecidableEq, Repr

/-- A held publication (R288): count BASE + n for the word, which it must first reach BASE. -/
structure Publication where
  word : Loc
  base : Nat
  n : Nat
  deriving DecidableEq, Repr

/-- A translation that a waiting access holds from its dispatch on (R402): a virtual address, for a write or not, and its
place. -/
structure Held where
  va : Nat
  write : Bool
  loc : Loc
  deriving DecidableEq, Repr

/-- What a waiting instruction has done already and does not do again. -/
structure Begun where
  /-- Its publication, which is held or applied (R288, R290). -/
  pub : Option Publication
  /-- The elements below which its gates have held (R289). -/
  gates : Nat
  /-- The granules whose traffic is counted (R38). -/
  counted : Nat
  /-- The image verification that it has started (R29). -/
  verif : Option Nat
  /-- Its translations (R402); none before its access has waited. -/
  held : Option (List Held)
  /-- The active elements of the granule at VSTART, by the guard as that granule read it (R301). -/
  acts : Option (List Nat)
  /-- AVAIL as it read it at its start (R306). -/
  avail : Option Nat
  /-- How many of its stores have been made, of those that it makes as a whole and in order (R193, R248, R295). -/
  stored : Nat
  /-- The granule at VSTART has been performed in part: its elements on the pages of hosts perform one after another (R348). -/
  inside : Bool
  deriving DecidableEq, Repr

/-- A placed hart: its architectural state (R102, R106) and what the module holds about it. -/
structure Hart where
  /-- Slot id: core * 16 + partition * 4 + slot (R12). -/
  hid : Nat
  /-- LAUNCHID; 0 on harts 0 to 15. -/
  lid : Nat
  /-- Index within the launch (R37). -/
  j : Nat
  x : Vector Word 32
  pc : Word
  /-- Vector registers, as the numbers their bits write (R118). -/
  v : Vector Nat 32
  /-- Mask registers, 65,536 bits each. -/
  k : Vector Nat 8
  smiss : Nat
  /-- Accumulator tiles: cell (i, j) stands at bit 64 * (32 * i + j) (R233). -/
  acc : Vector Nat 4
  y : Vector YarnSlot 8
  vl : Nat
  vtype : Word
  vstart : Nat
  /-- GRANT in KiB (R93). -/
  grant : Nat
  mrows : Nat
  mcols : Nat
  /-- MTYPE.IFMT (R234). -/
  ifmt : Nat
  slip : Nat
  seed : Word
  status : Word
  tvec : Word
  tpc : Word
  tcause : Word
  tval : Word
  tscratch : Word
  asid : Nat
  ptroot : Word
  spbase : Word
  wm : Vector Word 8
  wmb : Vector WmBinding 8
  viewnote : Word
  /-- The grant target G' of the next VSETVL (R91, R92). -/
  target : Option Nat
  /-- The clock at which its context had arrived (R73). -/
  placedAt : Nat
  /-- How many clocks had been gated when the instruction before the present one was done (R24). -/
  gatedAt : Nat
  /-- Issue budget that stood at clock `since` (R38). -/
  budget : Nat
  since : Nat
  /-- The clock at which the grace of R38 ends. -/
  grace : Option Nat
  /-- It has raised budget exhausted for its issue budget, which it does once (R38). -/
  spent : Bool
  heldRefusal : Option Word
  heldBudget : Option Nat
  heldMember : Option Word
  stop : Option StopReq
  run : Run
  /-- The gauge checker's report on the next checked instruction (R145). -/
  gauge : Option GaugeReport
  poison : List RegPoison
  /-- Completions that have arrived for the waiting instruction, in order of its requests. -/
  replies : List Reply
  /-- Tag of the request that the waiting instruction has outstanding. -/
  waitTag : Option Nat
  /-- PRI page request outstanding (R404): port, virtual address, for a write. -/
  pri : Option (Nat × Nat × Bool)
  /-- The page whose access the host has denied for good (R404): port, virtual address, for a write. -/
  priDone : Option (Nat × Nat × Bool)
  /-- Scalar stores to IO and HOSTB pages that are not yet acknowledged (R254). -/
  unacked : List Nat
  /-- AGE (R134). -/
  age : Nat
  /-- Words in the fetch buffer (R127). -/
  fbuf : Nat
  /-- FARMs completed (R201). -/
  farmGen : Nat
  /-- The clock up to which YIELD keeps it from being ready (R188). -/
  quiet : Nat
  /-- Its EXIT waits for its queues (R189). -/
  exiting : Bool
  /-- Its context is being loaded into the slot, which is in SWAP (R132). -/
  arriving : Bool
  /-- A requested stop falls within its next instruction: the first element that is not committed before it (R144). -/
  cut : Option Nat
  /-- What its waiting instruction has done already. -/
  begun : Begun
  deriving DecidableEq, Repr

/-- Where a launch's hart is. -/
inductive HPos where
  | unplaced
  | placed
  | saved
  | exited
  deriving DecidableEq, Repr

/-- What the launch unit keeps about one hart of a launch. -/
structure LHart where
  pos : HPos
  /-- Home core (R86). -/
  home : Option Nat
  grant : Nat
  /-- Issue budget left, while it is not placed. -/
  budget : Nat
  /-- Clocks charged (R412). -/
  charged : Nat
  grace : Option Nat
  spent : Bool
  farmGen : Nat
  /-- Its storage lay in a fenced share and cannot stay (R407): it resumes at the target with grant lost. -/
  lostGrant : Bool
  /-- The latest frame in which it has had its stretch, counted from 1; 0 for none (R73). -/
  served : Nat
  /-- Clocks of retries and migrations that faults have cost it (R75, R81), and the clock at which a migration that has not
  ended began. -/
  faults : Nat
  movedAt : Option Nat
  deriving DecidableEq, Repr

/-- A prerequisite entry (R31, R40, R41). -/
structure Prereq where
  kind : Nat
  word : Nat
  value : Nat
  met : Bool
  deriving DecidableEq, Repr

/-- The dispenser of a strip farm (R97, R98, R201, R203). -/
structure Farm where
  /-- Loops opened so far. -/
  gen : Nat
  n : Nat
  l : Nat
  next : Nat
  /-- Harts whose arrival at the next FARM is recorded, and that FARM's operands. -/
  arrived : List Nat
  arrN : Nat
  arrL : Nat
  op : Option Nat
  deposits : List (Nat × Word)
  deriving DecidableEq, Repr

/-- A mesh record as MSOPEN read it or an engine wrote it (R47). -/
structure MeshRec where
  addr : Nat
  dim2 : Bool
  nbase : Nat
  maxlev : Nat
  bfaces : Nat
  border : Nat
  forest : Nat
  fbits : Nat
  blo : Nat
  bhi : Nat
  ownfirst : Nat
  nown : Nat
  nghost : Nat
  ghosts : Nat
  gowner : Nat
  part : Nat
  npart : Nat
  deriving DecidableEq, Repr

/-- An address space and the rights of the hart that uses it (R397, R400). -/
structure Space where
  asid : Nat
  root : Nat
  task : Bool
  deriving DecidableEq, Repr

/-- A mesh as an instruction read it: its record with the contents of the arrays that it names (R47, R59). Leaves are
the keys of the stored trees, in curve order (R55). -/
structure MeshData where
  head : MeshRec
  faces : List Nat
  border : List Nat
  leaves : List Nat
  ghosts : List Nat
  owners : List Nat
  deriving DecidableEq, Repr

/-- An open mesh handle (R307, R313, R315). `space` is that of the hart that opened it, which the addresses of the record are of
(R47), and `made` that of the hart whose operation has written its forest and ghosts; `places` are its arrays as translated when
it was opened or written (R446), and `data` what they held then: the old values of R59. -/
structure MeshHandle where
  h : Nat
  mesh : MeshRec
  space : Space
  made : Space
  places : List (List Seg)
  epoch : Nat
  /-- Status word of the latest operation on it (R329). -/
  last : Word
  data : MeshData
  deriving DecidableEq, Repr

/-- An output array of a mesh operation: its address, its places and its capacity (R317). -/
structure MeshArray where
  va : Nat
  segs : List Seg
  cap : Nat
  deriving DecidableEq, Repr

/-- A field of MSBAL or MSGHOST (R322). -/
structure MeshField where
  bytes : Nat
  old : List Seg
  new : List Seg
  deriving DecidableEq, Repr

/-- A refining, balancing or ghost operation that has begun, with everything it has read (R317, R321 to R324): `kind` is 0 for
MSREFINE, 1 for MSBAL, 2 for MSGHOST; `arrays` are the places of its mesh's arrays, `space` the address space that it was
dispatched in; `peers` holds rank and handle of each part; `shares` what the parts have sent, this part's own among them. -/
structure MeshJob where
  kind : Nat
  mode : Nat
  mesh : MeshData
  arrays : List (List Seg)
  space : Space
  newrec : MeshArray
  forest : MeshArray
  ghosts : MeshArray
  gowner : MeshArray
  remap : MeshArray
  ccap : Nat
  fields : List MeshField
  peers : List (Nat × Nat)
  shares : List MeshShare
  /-- The status with which it ends whatever the other parts do: it met poisoned data (R308). -/
  forced : Option Word
  deriving DecidableEq, Repr

/-- The mesh that an operation has made, for its handle to move to (R319). -/
structure NewMesh where
  mesh : MeshRec
  made : Space
  places : List (List Seg)
  data : MeshData
  deriving DecidableEq, Repr

/-- The mesh that an operation finds at its dispatch: the record, its epoch, the places of its arrays and what they held. -/
structure MeshAt where
  mesh : MeshRec
  epoch : Nat
  arrays : List (List Seg)
  data : MeshData
  deriving DecidableEq, Repr

/-- A refining, balancing or ghost operation as its dispatch leaves it (R308): `flags` are the places of FLAGS or WEIGHTS, if
any. -/
structure JobPlan where
  kind : Nat
  mode : Nat
  mesh : MeshAt
  space : Space
  newrec : MeshArray
  forest : MeshArray
  ghosts : MeshArray
  gowner : MeshArray
  remap : MeshArray
  ccap : Nat
  flags : List Seg
  fields : List MeshField
  peers : List (Nat × Nat)
  forced : Option Word
  deriving DecidableEq, Repr

/-- What the arrays of a bound graph hold (R330). -/
structure Graph where
  rowptr : List Nat
  colidx : List Nat
  weight : List Nat
  bias : List Nat
  colour : List Nat
  clampm : Nat
  deriving DecidableEq, Repr

/-- An open sampling handle (R330 to R336). -/
structure GibbsHandle where
  h : Nat
  nvar : Nat
  /-- Entries of COLIDX. -/
  ne : Nat
  ncol : Nat
  rowptr : Nat
  colidx : Nat
  weight : Nat
  bias : Nat
  colour : Nat
  clampm : Nat
  done : Nat
  beta : Nat
  stream : Nat
  sc : Nat
  /-- State bitmap. -/
  s : Nat
  marg : List Nat
  table : Option (List Word)
  /-- Variables whose state cell is poisoned (R335). -/
  bad : List Nat
  /-- Variables whose counter is poisoned (R335). -/
  badMarg : List Nat
  /-- What the arrays held when the graph was bound: the old values of R59. -/
  graph : Graph
  last : Word
  deriving DecidableEq, Repr

/-- The open handles of a launch, and the serial number of the next one (R307). -/
structure Handles where
  serial : Nat
  mesh : List MeshHandle
  gibbs : List GibbsHandle
  deriving DecidableEq, Repr

/-- A launch (R31, R72, R80). -/
structure Launch where
  lid : Nat
  port : Nat
  pasid : Nat
  cls : Nat
  harts : Nat
  farms : Nat
  gmin : Nat
  gpref : Nat
  scratch : Nat
  image : Nat
  entry : Nat
  textOff : Nat
  textSize : Nat
  dataOff : Nat
  dataSize : Nat
  bssSize : Nat
  arg : Word
  save : Nat
  seed : Word
  budget : Nat
  mbudget : Nat
  deadline : Nat
  handler : Word
  compl : Nat
  /-- The completion record's place, translated at acceptance (R446). -/
  complAt : List Seg
  data : Nat
  note : Nat
  strictPre : Bool
  lright : Bool
  pre : List Prereq
  /-- Share units of each hart (R73). -/
  share : Nat
  /-- T without Wk (R75), and B'. -/
  fixedT : Nat
  bPrime : Nat
  bound : Nat
  /-- State code of R80. -/
  state : Nat
  /-- The final state that a stop in progress leads to. -/
  ending : Option Nat
  cause : Nat
  causeHart : Nat
  causeValue : Nat
  tmet : Option Nat
  tfinal : Option Nat
  mbytes : Nat
  /-- The memory-budget trap has been raised (R38). -/
  mbRaised : Bool
  recordDone : Bool
  noticed : Bool
  hs : List LHart
  farm : List Farm
  /-- Its handles (R307). -/
  handles : Handles
  deriving DecidableEq, Repr

/-- An entry of the verified-image table (R29, R76). -/
structure ImageEntry where
  port : Nat
  pasid : Nat
  addr : Nat
  total : Nat
  /-- The header as verified, 256 bytes as a number. -/
  header : Nat
  matrixFree : Bool
  /-- Storage addresses of the pinned, write-protected lines, divided by 128. -/
  pins : List Nat
  /-- Order of the latest LAUNCH of it. -/
  used : Nat
  deriving DecidableEq, Repr

/-- An image verification that LAUNCH has begun (R29, R170), with a number of its own: its outcome is REASON and DETAIL, 0 for
success. -/
structure Verification where
  id : Nat
  hid : Nat
  /-- The card as this LAUNCH has read it, 256 bytes as a number (R34). -/
  card : Nat
  port : Nat
  pasid : Nat
  addr : Nat
  outcome : Option (Nat × Nat)
  deriving DecidableEq, Repr

/-- An address-space binding (R397). -/
structure Binding where
  port : Nat
  pasid : Nat
  asid : Nat
  root : Nat
  deriving DecidableEq, Repr

/-- A scratchpad region (R88): bytes by offset, those not listed zero (R266), and poisoned 8-byte words. A region of a fenced
core moves to another core before a hart homed there resumes (R86); places go on naming it by the core that it was made on. -/
structure Region where
  core : Nat
  lid : Nat
  kib : Nat
  cells : List Host.Cell
  bad : List Nat
  moveTo : Option Nat
  /-- The core in whose slices it lies. -/
  lies : Nat
  deriving DecidableEq, Repr

/-- How an engine operation signals completion (R297). -/
inductive Signal where
  | none
  /-- A weir of the scratchpad region. -/
  | weir (core lid off : Nat)
  /-- A progress word. -/
  | word (w : Loc)
  deriving DecidableEq, Repr

/-- What an operation does once it begins (R298, R302, R308, R309), with every operand and place that its dispatch has fixed. -/
inductive Work where
  /-- Nothing but to end with a status word. -/
  | settled (word : Word)
  /-- CPY. -/
  | copy (sig : Signal) (src dst : List Seg)
  /-- CPYRK: MODE, w, count, sign; `old` is the destination where its bits beyond the count are kept. -/
  | repack (sig : Signal) (mode w count : Nat) (sgn : Bool) (src old dst : List Seg)
  /-- CPYGS: `count` rows, into mask `kreg`. -/
  | rows (kreg count : Nat) (src dst : List Seg)
  /-- CPYRP: to `pa` on a rank. -/
  | put (sig : Signal) (addr : Word) (node pa : Nat) (src : List Seg)
  /-- MSREFINE, MSBAL, MSGHOST. -/
  | job (p : JobPlan)
  /-- MSREMAP: TYPE, children of a cell, NCOMP, NOLD, NNEW. -/
  | remap (ty kids ncomp nold nnew : Nat) (rec old new : List Seg)
  /-- MSCOLOR over a mesh: MODE, MAXC, and the elements for which its outputs have room. -/
  | colourMesh (mode maxc room : Nat) (mesh : MeshAt) (out : List (List Seg))
  /-- MSCOLOR over a graph of n elements and ne entries. -/
  | colourGraph (maxc n ne : Nat) (row col : List Seg) (out : List (List Seg))
  /-- GSWEEP: n sweeps from base under a seed, over the places of the graph's arrays. -/
  | sweep (n base : Nat) (seed : Word) (graph : List (List Seg))
  /-- GREAD: the marginal counters, which .clr clears, or the states. -/
  | read (marg clr : Bool) (dst : List Seg)
  deriving DecidableEq, Repr

/-- A piece of an operation's data that a device or a host holds: the request for it, and its bytes when they have arrived. -/
structure Fetch where
  tag : Nat
  seg : Seg
  bytes : Option (List Byte)
  deriving DecidableEq, Repr

/-- What an engine operation is, with what its completion still needs. -/
inductive OpKind where
  /-- It has been dispatched and has not begun: an operation before it on its handle, or data from outside, is awaited. -/
  | waits (work : Work) (status done : Option Loc)
  /-- A local copy or repack of `len` bytes, of which `left` are still to be counted into the weir. -/
  | copy (sig : Signal) (len left : Nat)
  /-- CPYGS: rows not yet landed, into mask `kreg` of the hart. -/
  | gather (kreg : Nat) (rows : List Nat)
  /-- CPYRG: bytes still to arrive, at offsets of the destination. -/
  | get (sig : Signal) (addr : Word) (node len : Nat) (dst : List Seg) (left : Nat)
  /-- CPYRP: bytes that the remote side has still to perform. -/
  | put (sig : Signal) (addr : Word) (node len left : Nat)
  /-- A topology or sampling operation whose status word is settled; the new mesh it moves the handle to. -/
  | engine (word : Word) (status : Option Loc) (done : Option Loc) (mesh : Option NewMesh) (isGibbs : Bool)
  /-- A topology operation over parts that waits for the other parts (R321). -/
  | parts (job : MeshJob) (status done : Option Loc)
  deriving DecidableEq, Repr

/-- An engine operation in flight (R298, R308). -/
structure EngineOp where
  id : Nat
  hid : Nat
  lid : Nat
  j : Nat
  /-- Handle it is ordered on; 0 for none. -/
  handle : Nat
  /-- It reaches the launch's scratchpad (R411). -/
  scratch : Bool
  /-- What it writes until it completes: younger accesses of its hart to these pages wait (R298, R308). -/
  writes : List Seg
  /-- Its data in devices and hosts. -/
  asks : List Fetch
  /-- Tags of its writes to devices and hosts. -/
  sent : List Nat
  /-- Bytes written there that are counted once they have performed (R304). -/
  late : Nat
  kind : OpKind
  deriving DecidableEq, Repr

/-- One member's contribution to a collective, as received (R369, R371). -/
structure Share where
  rank : Nat
  hdr : CollHdr
  data : List Nat
  poisoned : Bool
  /-- Exponents that it keeps from an old view (R377). -/
  exps : Option (List (Option Int))
  deriving DecidableEq, Repr

/-- A collective of this package (R367 to R377). -/
structure Coll where
  id : Nat
  lid : Nat
  j : Nat
  hid : Nat
  etag : Nat
  /-- The view in which it now runs. -/
  tag : Nat
  cid : Nat
  /-- It is the package's n-th dispatch of that pair (R369). -/
  n : Nat
  hdr : CollHdr
  /-- FID of ROOT in the ETAG view. -/
  rootFid : Nat
  esize : Nat
  /-- Its record, as a place. -/
  record : Loc
  done : Option Loc
  src : List Seg
  dst : List Seg
  /-- Its source data in devices and hosts, and tags of its writes there. -/
  asks : List Fetch
  sent : List Nat
  /-- SIZE of the ETAG view, and SIZE and RANK in the view in which it runs. -/
  nOld : Nat
  nNew : Nat
  rank : Nat
  shares : List Share
  /-- Ranks that hold their own result. -/
  held : List Nat
  /-- Phase-one exponents kept from the old view (R377). -/
  exps : Option (List (Option Int))
  restarted : Bool
  /-- Its own share in the view in which it ran before (R376). -/
  prior : Option Share
  /-- The status word that has gone to its record and has still to perform there (R372). -/
  ending : Option Word
  status : Option Word
  deriving DecidableEq, Repr

/-- A leaf that a translation cache holds (R194, R250, R401): which cache, that of a core (by its number), the second level of the
cores (32) or those of the lane dies, which translate the same addresses (33; R402); the ASID, 0 for a leaf with G; the page,
counted in pages of the leaf's level; where the entry stands, and the entry as it was used. -/
structure Cached where
  cache : Nat
  asid : Nat
  page : Nat
  level : Nat
  at_ : Nat
  leaf : Nat
  deriving DecidableEq, Repr

/-- An outstanding request to an IO device or a host (R263, R404). -/
structure TargetReq where
  tag : Nat
  hid : Nat
  /-- It is a scalar store, which no instruction waits for (R254). -/
  store : Bool
  /-- It is an ATS translation request, of an access that writes when `write` (R404). -/
  ats : Bool
  write : Bool
  /-- An address of the request. -/
  loc : Loc
  /-- PASID that the request carries (R403). -/
  pasid : Nat
  /-- It comes from the vector or the memory queue (R256). -/
  queued : Bool
  /-- The access is not made again: its instruction completes before a stop (R170, R280). -/
  whole : Bool
  deriving DecidableEq, Repr

/-- An ATS Invalidation Request that waits for the accesses which the dropped translations served (R404): its page, and what was
dropped, as first pages and numbers of pages. -/
structure Inval where
  port : Nat
  pasid : Nat
  page : Nat
  dropped : List (Nat × Nat)
  deriving DecidableEq, Repr

/-- A translation that a host has granted (R403, R404): port, PASID, its first 4 KiB page and their number, for writes or not. -/
structure AtsEntry where
  port : Nat
  pasid : Nat
  page : Nat
  pages : Nat
  write : Bool
  deriving DecidableEq, Repr

/-- A place of a lane or, with lane 255 and unit 0, of an array whose number is `lgrp` (R14, R146, R242). -/
structure Place where
  die : Nat
  lgrp : Nat
  unit : Nat
  lane : Nat
  deriving DecidableEq, Repr

/-- A journal entry (R416). -/
structure JEntry where
  step : Nat
  unit : Nat
  outcome : Nat
  alt : Nat
  boot : Nat
  detail : Nat
  deriving DecidableEq, Repr

/-- An entry of the service log (R420). -/
structure SEntry where
  kind : Nat
  clock : Nat
  place : Nat
  detail : Nat
  deriving DecidableEq, Repr

/-- A host port as trained (R46). -/
structure HostPort where
  trained : Bool
  width : Nat
  gen : Nat
  deriving DecidableEq, Repr

/-- The module's lasting damage: what boot and the gauge check have taken out of service (R406, R415). -/
structure Units where
  coresOut : List Nat
  /-- Cores out of service when the boot records were written (R43). -/
  bootCoresOut : List Nat
  stacksOut : List Nat
  /-- Strikes on lanes and arrays (R146). -/
  strikes : List Place
  retired : List Place
  fenced : List Place
  arraysOut : List Place
  /-- Each die link: 0 full width, 1 half, 2 routed through a third die, 3 failed. -/
  links : Vector Nat 10
  portsOut : List Nat
  host : Vector HostPort 2
  /-- LARGEST of the GRANT record (R46). -/
  largest : Nat
  /-- SEQ of the LANES, LINKS and GRANT records (R44). -/
  seqLanes : Nat
  seqLinks : Nat
  seqGrant : Nat
  deriving DecidableEq, Repr

/-- Power states that hold work or none (R21); Idle belongs to lane groups that hold no placed hart. -/
inductive Power where
  | run
  | standby
  /-- On the way from Standby to Run. -/
  | waking
  | off
  deriving DecidableEq, Repr

/-- A coherence message on the links (R259). -/
inductive CohKind where
  | rds
  | rdx
  | upg
  | evc
  | wbd
  | snps
  | snpx
  | inv
  | binv
  | fwd
  | data
  | rsp
  | cmp
  deriving DecidableEq, Repr

/-- A message in flight: to or from `agent`, about `line`. `req` is the agent whose request it serves; `st` the state
that a Data or Cmp grants, none for a Data that a Cmp follows, or the new state that an Rsp reports. -/
structure CohMsg where
  kind : CohKind
  agent : Nat
  line : Nat
  req : Nat
  st : Option Moesi
  deriving DecidableEq, Repr

/-- A request that the home is serving for a line (R259, R260, R262). `wait` lists agents whose Rsp or WbD is due. -/
structure Txn where
  kind : CohKind
  agent : Nat
  wait : List Nat
  /-- The state that the requester will take. -/
  grants : Moesi
  /-- The snooped owner's copy left it before the snoop, so that the home sends the data (R270). -/
  fromHome : Bool
  deriving DecidableEq, Repr

/-- A snoop-filter entry of a line at its home (R262). -/
structure DirEntry where
  line : Nat
  owner : Option (Nat × Moesi)
  sharers : List Nat
  busy : Option Txn
  /-- Requests that wait at the home, oldest first. -/
  queue : List CohMsg
  used : Nat
  /-- The entry is being freed by back-invalidation. -/
  victim : Bool
  deriving DecidableEq, Repr

/-- An agent's own view of a line (R258), with what a pending request has received. -/
structure Copy where
  agent : Nat
  line : Nat
  st : Moesi
  asked : Option CohKind
  gotData : Bool
  gotCmp : Option Moesi
  deriving DecidableEq, Repr

/-- A membership proposal that this package has acknowledged or, as leader, is collecting acknowledgements for; `since`
is the clock at which it did so or sent it. -/
structure Proposal where
  leader : Nat
  members : List Nat
  acks : List Nat
  heldBy : List HeldBy
  since : Nat
  deriving DecidableEq, Repr

/-- The quiescence of a planned change (R363). -/
structure Hold where
  leader : Nat
  /-- Pairs sent in answer, by member. -/
  answers : List (Nat × List (Nat × Nat))
  union : Option (List (Nat × Nat))
  acks : List Nat
  deriving DecidableEq, Repr

/-- A CASTON or CLEAVE that waits (R379, R380). -/
structure Request where
  id : Nat
  /-- The hart that asks: its launch and index, or the slot of one of harts 0 to 15. -/
  lid : Nat
  j : Nat
  hid : Nat
  /-- Contact of a CASTON, or the member a CLEAVE removes. -/
  fid : Nat
  leave : Bool
  answered : Bool
  /-- The result, once it is settled. -/
  result : Option Word
  since : Nat
  deriving DecidableEq, Repr

/-- The view controller (R357 to R364). -/
structure Fabric where
  fid : Nat
  tag : Nat
  members : List Nat
  suspects : List Nat
  /-- Neighbours heard since the last period, with the clock. -/
  heard : List (Nat × Nat)
  joiners : List Nat
  leavers : List Nat
  /-- The proposal this package has acknowledged, and stopped sending under the old tag. -/
  acked : Option Proposal
  /-- The proposal this package leads. -/
  leading : Option Proposal
  hold : Option Hold
  requests : List Request
  /-- How often each CID has been dispatched in this view (R369). -/
  counts : List (Nat × Nat)
  /-- The collectives of this view that have ended here with a result or with codes 0x05 and 0x06 (R362, R375). -/
  ended : List HeldBy
  /-- Flits of the next view that were discarded, which their senders resend once this package adopts it (R383). -/
  early : List Flit
  deriving DecidableEq, Repr

/-- What leaves the module. -/
inductive OutMsg where
  | msix (port vec : Nat)
  | aer (port : Nat)
  /-- Requests carry the PASID of the launch's card (R403); a read of no bytes asks for a translation. -/
  | readReq (tag pasid : Nat) (loc : Loc) (len : Nat)
  | writeReq (tag pasid : Nat) (loc : Loc) (bytes : List Byte)
  /-- A PCIe AtomicOp: 0 Swap, 1 FetchAdd, 2 CAS, with its operands. -/
  | atomicReq (tag pasid : Nat) (loc : Loc) (op size a b : Nat)
  | pageReq (port pasid va : Nat) (write : Bool)
  | hostData (port : Nat) (bytes : List Byte) (poisoned : Bool)
  /-- An ATS Invalidation Request is complete (R404). -/
  | atsDone (port pasid page : Nat)
  | heartbeat (dst : Nat)
  | suspect (dst suspect : Nat)
  | proposal (dst : Nat) (p : Proposed)
  | proposalAck (dst : Nat) (a : Acknowledged)
  | commit (dst tag : Nat) (members : List Nat) (settled : List Settled) (failure : Bool)
  | holdReq (dst : Nat)
  | holdAnswer (dst : Nat) (pairs : List (Nat × Nat))
  | holdUnion (dst : Nat) (pairs : List (Nat × Nat))
  | holdAck (dst : Nat)
  | joinReq (dst fid : Nat) (leave : Bool)
  | joinAnswer (dst : Nat) (ok : Bool)
  | flit (dst : Nat) (f : Flit)
  deriving DecidableEq, Repr

/-- The launch unit's registers and tables (R29, R71 to R74, R106, R199, R397). -/
structure LaunchUnit where
  launches : List Launch
  nextLid : Nat
  dseed : Word
  rmin0 : Nat
  rmin1 : Nat
  images : List ImageEntry
  imageClock : Nat
  verifs : List Verification
  bindings : List Binding
  /-- Public keys of the key slots, 32 bytes as a number; none when a slot is empty. -/
  keys : Vector (Option Nat) 8
  /-- The keys as the KEYS record, written at boot, holds them (R43). -/
  bootKeys : Vector (Option Nat) 8
  /-- Dispensers of harts 0 to 15, each a farm of one. -/
  ownFarms : Vector Farm 16
  /-- Handles of harts 0 to 15, which belong to no launch. -/
  ownHandles : Handles
  /-- A thermal trip is in progress (R25). -/
  thermal : Bool
  deriving DecidableEq, Repr

/-- Power manager, boot and service state (R20 to R25, R415 to R422). -/
structure Service where
  power : Power
  throttle : Nat
  /-- The latest readings of the draw in mW, newest first, at most ten. -/
  readings : List Nat
  low : Nat
  bootCount : Nat
  bootStopped : Bool
  journal : List JEntry
  /-- JCLEAR has been given since boot. -/
  clearJournal : Bool
  log : List SEntry
  logged : Nat
  units : Units
  /-- Next stack-local line of each patrol scrubber (R267). -/
  scrub : Vector Nat 8
  /-- MNONCE of each port, as the device gave it (R418). -/
  mnonce : Vector Nat 2
  /-- The values that MNONCE has had, newest first: a record of the model's own. -/
  nonces : List Nat
  /-- Clocks since boot that throttling has gated (R23): a count of the model's own. -/
  gated : Nat
  deriving DecidableEq, Repr

/-- A patrol scrubber's read of a line, and whether a write to it has reached the stack since (R268). -/
structure Scrub where
  stack : Nat
  line : Nat
  place : Nat
  finding : ScrubFinding
  hit : Bool
  deriving DecidableEq, Repr

/-- Coherence state of all homes and agents (R257 to R263, R267 to R269). -/
structure Coherence where
  dir : List DirEntry
  copies : List Copy
  msgs : List CohMsg
  useClock : Nat
  /-- Storage lines whose HBM copy is poisoned. -/
  poison : List Nat
  /-- Lines that agents hold poisoned (R270, R405). -/
  taint : List Nat
  /-- Lines in each core's L1I and L1D (R253): core and line, oldest first. -/
  l1i : List (Nat × Nat)
  l1d : List (Nat × Nat)
  /-- Lines that the latest access to them used as lines of a SYNC page (R342). -/
  sync : List Nat
  /-- What the patrol scrubbers have read and not yet acted on (R268). -/
  scrubs : List Scrub
  deriving DecidableEq, Repr

/-- The whole module. -/
structure State where
  /-- The hart whose turn it is: the one that executes instructions. -/
  hart : Hart
  /-- The other placed harts. -/
  parked : List Hart
  /-- Device memory by storage address, strictly rising; an address not listed holds zero. -/
  mem : List Host.Cell
  regions : List Region
  lu : LaunchUnit
  ops : List EngineOp
  nextOp : Nat
  /-- Shares of parts whose own operation here has not been dispatched (R321). -/
  mail : List Flit
  colls : List Coll
  pubs : List Publication
  targets : List TargetReq
  nextTag : Nat
  /-- Host-port address translation caches (R194, R403). -/
  ats : List AtsEntry
  /-- What the translation caches of the module hold (R194, R401). -/
  tlb : List Cached
  /-- Invalidations that wait for the accesses that they cover (R404). -/
  invals : List Inval
  fabric : Fabric
  svc : Service
  coh : Coherence
  /-- Events that are pending, oldest first. -/
  inbox : List Instr
  outbox : List OutMsg
  /-- Harts that the pickers have chosen to issue next (R134). -/
  picked : List Nat
  /-- RR of each slot of each partition: 3 * (core * 4 + partition) + class (R134). -/
  rr : Vector Nat 384
  /-- The partition that each core's fetch unit serves next (R127). -/
  fetchTurn : Vector Nat 32
  /-- CLOCKS (R106). -/
  clock : Nat
  /-- How many free values have been taken: a counter of the model's own. -/
  draw : Nat
  deriving DecidableEq, Repr

/-- The reasons for which the machine stops. -/
inductive Fault where
  /-- Raised by `step` when the module is Off and no event is pending: nothing is powered, so nothing happens until
  power returns (R21). Safe: the module executes nothing in Off. -/
  | poweredOff
  deriving DecidableEq, Repr

/-- The reasons for which an instruction has no meaning. -/
inductive Refusal where
  /-- Raised by an arm of `exec` for an instruction that is not modelled yet, by its mnemonic. Safe: nothing is
  claimed of it. -/
  | notModelled (mnemonic : String)
  deriving DecidableEq, Repr

/-- Nothing has been done. -/
def Begun.fresh : Begun := ⟨none, 0, 0, none, none, none, none, 0, false⟩

/-- An unbound yarn slot. -/
def YarnSlot.empty : YarnSlot := ⟨false, 0, 0, 0, 0, 0, 0, []⟩

/-- No handle has been made (R307). -/
def Handles.fresh : Handles := ⟨1, [], []⟩

/-- A farm on which no loop has been opened. -/
def Farm.empty : Farm := ⟨0, 0, 1, 0, [], 0, 0, none, []⟩

/-- The architectural values of R37 and R106 for a hart that starts at slot `hid`. -/
def Hart.fresh (hid : Nat) : Hart where
  hid := hid
  lid := 0
  j := 0
  x := Vector.replicate 32 0
  pc := 0
  v := Vector.replicate 32 0
  k := Vector.replicate 8 0
  smiss := 0
  acc := Vector.replicate 4 0
  y := Vector.replicate 8 YarnSlot.empty
  vl := 0
  vtype := 3
  vstart := 0
  grant := 1
  mrows := 0
  mcols := 0
  ifmt := 0
  slip := 4
  seed := 0
  status := 0
  tvec := 0
  tpc := 0
  tcause := 0
  tval := 0
  tscratch := 0
  asid := 0
  ptroot := 0
  spbase := 0xFFFFFFFFFFC00000
  wm := Vector.replicate 8 0
  wmb := Vector.replicate 8 ⟨0, 0⟩
  viewnote := 0
  target := none
  placedAt := 0
  gatedAt := 0
  budget := 0
  since := 0
  grace := none
  spent := false
  heldRefusal := none
  heldBudget := none
  heldMember := none
  stop := none
  run := .ready
  gauge := none
  poison := []
  replies := []
  waitTag := none
  pri := none
  priDone := none
  unacked := []
  age := 0
  fbuf := 0
  farmGen := 0
  quiet := 0
  exiting := false
  arriving := false
  cut := none
  begun := Begun.fresh

/-- A firmware hart after reset (R12, R84): supervisor mode (STATUS.MODE, bit 16), at the firmware's first
instruction. -/
def Hart.firmware (hid : Nat) : Hart :=
  { Hart.fresh hid with pc := Config.firmwarePc, status := 0x10000, ptroot := Config.firmwareRoot }

/-- Every unit in service, every link and port trained. -/
def Units.full : Units where
  coresOut := []
  bootCoresOut := []
  stacksOut := []
  strikes := []
  retired := []
  fenced := []
  arraysOut := []
  links := Vector.replicate 10 0
  portsOut := []
  host := Vector.replicate 2 ⟨true, 16, 6⟩
  largest := 128
  seqLanes := 0
  seqLinks := 0
  seqGrant := 0

/-- The steps and units of boot (R415); links carry the numbers of R46. -/
def bootUnits : List (Nat × Nat) :=
  [(1, 0)] ++ (List.range 32).map (2, ·) ++ [(3, 0)] ++ (List.range 4).map (4, ·)
    ++ (List.range 6).map (fun k => (5, k + 4)) ++ (List.range 8).map (6, ·) ++ (List.range 4).map (7, ·)
    ++ (List.range 32).map (8, ·) ++ (List.range 64).map (9, ·) ++ (List.range 2).map (10, ·) ++ [(11, 0)]

/-- The journal of a first boot in which every step passes in its full form (R416). -/
def cleanJournal : List JEntry := bootUnits.map fun u => ⟨u.1, u.2, 0, 0, 1, 0⟩

/-- The module right after reset: boot has ended with every unit in service, the firmware harts stand at their first
instruction, and no work has been submitted. The throttle level is 0 with no reading held and no low reading counted (DESIGN
CHOICE: log 62). -/
def State.reset : State where
  hart := Hart.firmware 0
  parked := ((List.range 16).drop 1).map Hart.firmware
  mem := []
  regions := []
  lu := { launches := [], nextLid := 1, dseed := 0, rmin0 := 16 * 488, rmin1 := 8 * 488, images := [], imageClock := 0,
          verifs := [], bindings := [], keys := Vector.replicate 8 none,
          bootKeys := Vector.replicate 8 none, ownFarms := Vector.replicate 16 Farm.empty, ownHandles := Handles.fresh, thermal := false }
  ops := []
  nextOp := 1
  mail := []
  colls := []
  pubs := []
  targets := []
  nextTag := 0
  ats := []
  tlb := []
  invals := []
  fabric := { fid := 0, tag := 0, members := [], suspects := [], heard := [], joiners := [], leavers := [],
              acked := none, leading := none, hold := none, requests := [], counts := [], ended := [], early := [] }
  svc := { power := .run, throttle := 0, readings := [], low := 0, bootCount := 1, bootStopped := false, journal := cleanJournal,
           clearJournal := false, log := [], logged := 0, units := Units.full, scrub := Vector.replicate 8 0,
           mnonce := Vector.replicate 2 0, nonces := [], gated := 0 }
  coh := { dir := [], copies := [], msgs := [], useClock := 0, poison := [], taint := [], l1i := [], l1d := [], sync := [], scrubs := [] }
  inbox := []
  outbox := []
  picked := []
  rr := Vector.replicate 384 0
  fetchTurn := Vector.replicate 32 0
  clock := 0
  draw := 0

end Sys2Proof.Machine
end

