-- ==== Sys2Proof/Machine/Caps.lean ====
section
/-!
DEFINITION. What the module has in service: lanes, arrays, cores, pools and free pools (R45, R72, R84, R89, R406,
R407), and the capability list that reports it (R42 to R46).
-/

namespace Sys2Proof.Machine

-- units in service

/-- Working lanes retired in a unit (R14). -/
def Units.retiredIn (u : Units) (die lgrp unit : Nat) : Nat :=
  (u.retired.filter fun p => p.die = die ∧ p.lgrp = lgrp ∧ p.unit = unit).length

/-- Whether a SIMD unit has been fenced (R407). -/
def Units.isFenced (u : Units) (die lgrp unit : Nat) : Bool :=
  u.fenced.any fun p => p.die == die && p.lgrp == lgrp && p.unit == unit

/-- SIMD units of a die that are fenced. -/
def Units.fencedOn (u : Units) (die : Nat) : Nat := (u.fenced.filter fun p => p.die = die).length

/-- Units of a die in service whose spare lane is in use. -/
def Units.sparedOn (u : Units) (die : Nat) : Nat :=
  (u.retired.filter fun p => p.die = die ∧ !u.isFenced p.die p.lgrp p.unit).length

/-- Lane groups of a die with all four units in service. -/
def Units.wholeGroups (u : Units) (die : Nat) : Nat :=
  ((List.range 64).filter fun g => !(u.fenced.any fun p => p.die == die && p.lgrp == g)).length

/-- Matrix arrays of a die in service. -/
def Units.arraysOn (u : Units) (die : Nat) : Nat := 256 / 4 - (u.arraysOut.filter fun p => p.die = die).length

/-- The LANES word of a die, which LANEMAP also reads (R45, R406). -/
def Units.lanesWord (u : Units) (die : Nat) : Nat :=
  (8192 - 32 * u.fencedOn die) + u.sparedOn die * 2 ^ 16 + u.fencedOn die * 2 ^ 25 + u.wholeGroups die * 2 ^ 34
    + u.arraysOn die * 2 ^ 42

/-- Whether a core is in service. -/
def Units.coreIn (u : Units) (c : Nat) : Bool := c < 32 && !u.coresOut.contains c

/-- Slots available to launches, ascending (R84). -/
def Units.slots (u : Units) : List Nat := (List.range 512).filter fun h => 16 ≤ h && u.coreIn (h / 16)

/-- S of R72. -/
def Units.numSlots (u : Units) : Nat := u.slots.length

/-- F of R72. -/
def Units.numFloor (u : Units) : Nat := (u.numSlots + 63) / 64

/-- The floor slots: the F highest available slots (R84). -/
def Units.floorSlots (u : Units) : List Nat := u.slots.drop (u.numSlots - u.numFloor)

/-- A die's grant pool in KiB: 49,152, less 192 for each fenced unit (R72, R407). -/
def Units.pool (u : Units) (die : Nat) : Nat := 49152 - 192 * u.fencedOn die

/-- Share units of the module (R72). -/
def Units.shareUnits (u : Units) : Nat := (u.numSlots - u.numFloor) * 64

-- reservations

/-- A state code is final (R80). -/
def isFinal (state : Nat) : Bool := 8 ≤ state

/-- Launches that are not final. -/
def State.live (s : State) : List Launch := s.lu.launches.filter fun l => !isFinal l.state

/-- The launch of an id. -/
def State.launch? (s : State) (lid : Nat) : Option Launch := s.lu.launches.find? fun l => l.lid = lid

/-- KiB of each die that reservations hold (R72). -/
def State.reservedKib (s : State) : Nat := (s.live.map fun l => 8 * l.gmin * l.harts).sum

/-- KiB of each die that harts hold beyond their reservation (R89). -/
def State.excessKib (s : State) : Nat :=
  (s.live.map fun l => (l.hs.map fun h => if h.grant = 0 then 0 else 8 * (h.grant - l.gmin)).sum).sum

/-- The free pool of a die (R89); negative after a loss. -/
def State.freePool (s : State) (die : Nat) : Int :=
  (s.svc.units.pool die : Int) - s.reservedKib - s.excessKib

/-- The smallest free pool of the four dies. -/
def State.tightPool (s : State) : Int :=
  ((List.range 4).map s.freePool).foldl min (s.freePool 0)

/-- The largest g in [lo, hi] with 8 * (g - base) at most `room`; none when no g is (R90, R91). -/
def largestGrant (lo hi : Nat) (base : Int) (room : Int) : Option Nat :=
  ((List.range (hi + 1)).filter fun g => lo ≤ g && 8 * ((g : Int) - base) ≤ room).getLast?

/-- LARGEST as the free pools give it (R46). -/
def State.largestNow (s : State) : Nat := (largestGrant 1 128 1 s.tightPool).getD 0

/-- The GRANT record follows the free pools: LARGEST takes its new value and SEQ goes to the next even value (R44, R46). -/
def State.trackGrant (s : State) : State :=
  let g := s.largestNow
  if g = s.svc.units.largest then s
  else { s with svc := { s.svc with units := { s.svc.units with largest := g, seqGrant := s.svc.units.seqGrant + 2 } } }

-- the capability list

/-- The virtual address of the first capability record (R42). -/
def capBase : Nat := 0xFFFFFFFFFFB00000

/-- A record: its header and its contents (R42); NEXT 0 for the last. VER is 1, and the list has its records in ascending ID one
after the other (DESIGN CHOICE: log 71). -/
def capRecord (id len next : Nat) (body : List Byte) : List Byte :=
  bytesOf id 2 ++ bytesOf 1 1 ++ bytesOf 0 1 ++ bytesOf len 4 ++ bytesOf next 8 ++ body

/-- Number of a bitmap given as a predicate over [0, n). -/
def bitmap (n : Nat) (p : Nat → Bool) : Nat :=
  ((List.range n).map fun i => if p i then 2 ^ i else 0).sum

/-- Cores as the boot records report them (R43). -/
def State.bootCore (s : State) (c : Nat) : Bool := !s.svc.units.bootCoresOut.contains c

/-- Whether a stack is present (R46). -/
def State.stackIn (s : State) (k : Nat) : Bool := !s.svc.units.stacksOut.contains k

/-- The capability list as bytes from CAPBASE on (R43 to R46). -/
def State.capList (s : State) : List Byte :=
  let u := s.svc.units
  let bootCores := (List.range 32).filter s.bootCore
  let slots := 16 * (bootCores.filter fun c => c ≠ 0).length
  let nx (o : Nat) := capBase + o
  let occupied := bitmap 8 fun i => (s.lu.bootKeys[i]?.getD none).isSome
  capRecord 1 48 (nx 48) (bytesOf 4 2 ++ bytesOf Config.stepping 1 ++ bytesOf 0x1F 1 ++ bytesOf 0 4
      ++ bytesOf Config.serial 16 ++ bytesOf s.svc.bootCount 8)
  ++ capRecord 2 32 (nx 80) (bytesOf (bitmap 32 s.bootCore) 4 ++ bytesOf slots 2 ++ bytesOf ((slots + 63) / 64) 2
      ++ bytesOf 8192 4 ++ bytesOf 0 4)
  ++ capRecord 3 56 (nx 136) (bytesOf u.seqLanes 8 ++ ((List.range 4).map fun d => bytesOf (u.lanesWord d) 8).flatten)
  ++ capRecord 4 48 (nx 184) (bytesOf (bitmap 8 s.stackIn) 1 ++ bytesOf 0 3 ++ bytesOf 64 4
      ++ ((List.range 4).map fun _ => bytesOf 98304 4).flatten ++ bytesOf 32768 4 ++ bytesOf 1024 4)
  ++ capRecord 5 40 (nx 224) (bytesOf u.seqLinks 8 ++ bytesOf (bitmap 10 fun k => u.links[k]?.getD 0 == 1) 2
      ++ bytesOf (bitmap 10 fun k => u.links[k]?.getD 0 == 2) 2 ++ bytesOf 0 4
      ++ bytesOf (bitmap 64 fun p => !u.portsOut.contains p) 8)
  ++ capRecord 6 32 (nx 256) ((u.host.toList.map fun p => bytesOf (if p.trained then 1 else 0) 1
      ++ bytesOf (if p.trained then p.width else 0) 1 ++ bytesOf (if p.trained then p.gen else 0) 1
      ++ bytesOf 0 5).flatten)
  ++ capRecord 7 48 (nx 304) (bytesOf u.seqGrant 8 ++ ((List.range 4).map fun d => bytesOf (u.pool d) 4).flatten
      ++ bytesOf u.largest 2 ++ bytesOf 0 6)
  ++ capRecord 8 280 (nx 584) (bytesOf occupied 8
      ++ (s.lu.bootKeys.toList.map fun k => bytesOf (k.getD 0) 32).flatten)
  ++ capRecord 9 24 (nx 608) (bytesOf 0x1F 8)
  ++ capRecord 10 32 0 (bytesOf 1 2 ++ bytesOf (min slots 496) 2 ++ bytesOf 0x1000000 4 ++ bytesOf 64 2 ++ bytesOf 0 6)

/-- A byte of the capability window; bytes that no record occupies read zero (R42). -/
def State.capByte (s : State) (off : Nat) : Byte := s.capList.getD off 0

end Sys2Proof.Machine
end

