-- ==== Sys2Proof/Machine/Protocol.lean ====
section
/-!
DEFINITION. The coherence protocol (R250, R253, R257 to R263, R270): agents and their copies, the home with its snoop filter,
the messages of R259, and what an access moves. Memory itself holds each line's latest data, whichever agent holds it (R262: a
move changes the place where data is held, never its value).
-/

namespace Sys2Proof.Machine

-- agents and their copies

/-- An agent's copy of a line; a line it does not list is in I. -/
def Coherence.copy (c : Coherence) (agent line : Nat) : Copy :=
  (c.copies.find? fun p => p.agent = agent ∧ p.line = line).getD ⟨agent, line, .i, none, false, none⟩

/-- Set an agent's copy; a copy in I with nothing asked is not listed. A line that leaves L2 leaves every L1I and L1D (R253). -/
def Coherence.setCopy (c : Coherence) (p : Copy) : Coherence :=
  let rest := c.copies.filter fun q => ¬ (q.agent = p.agent ∧ q.line = p.line)
  let keeps (e : Nat × Nat) : Bool := !(p.agent == 4 && p.st == .i && e.2 == p.line)
  { c with
    copies := if p.st = .i ∧ p.asked.isNone then rest else rest ++ [p]
    l1i := c.l1i.filter keeps
    l1d := c.l1d.filter keeps }

/-- Set the state of an agent's copy. -/
def Coherence.setSt (c : Coherence) (agent line : Nat) (st : Moesi) : Coherence :=
  c.setCopy { c.copy agent line with st := st }

/-- Put a message on its link. -/
def Coherence.put (c : Coherence) (m : CohMsg) : Coherence := { c with msgs := c.msgs ++ [m] }

/-- A message that comes from the home, in order with the others from it. -/
def CohKind.ofHome : CohKind → Bool
  | .snps | .snpx | .inv | .binv | .data | .cmp => true
  | _ => false

/-- Take the first message of a kind about a line to or from an agent; messages of the home arrive in their order. -/
def Coherence.take (c : Coherence) (kind : CohKind) (agent line : Nat) : Option (CohMsg × Coherence) :=
  let same (m : CohMsg) : Bool := m.agent == agent && m.line == line
    && (if kind.ofHome then m.kind.ofHome else m.kind == kind)
  match c.msgs.find? same with
  | some m => if m.kind = kind then some (m, { c with msgs := c.msgs.erase m }) else none
  | none => none

-- the home

/-- Sets of a die's snoop filter (R250), and a line's set. -/
def filterSet (line : Nat) : Nat × Nat := (line / 2 ^ 30, line % 65536)

/-- A line's entry in its home's snoop filter (R262). -/
def Coherence.entry? (c : Coherence) (line : Nat) : Option DirEntry := c.dir.find? fun e => e.line = line

/-- Change a line's entry; it becomes the latest used. -/
def Coherence.updEntry (c : Coherence) (line : Nat) (f : DirEntry → DirEntry) : Coherence :=
  { c with useClock := c.useClock + 1
           dir := c.dir.map fun e => if e.line = line then { f e with used := c.useClock + 1 } else e }

/-- Agents that hold a line, by its entry. -/
def DirEntry.holders (e : DirEntry) : List Nat := (e.owner.map (·.1)).toList ++ e.sharers

/-- Drop an entry that records no holder and serves no request. -/
def Coherence.sweep (c : Coherence) (line : Nat) : Coherence :=
  { c with dir := c.dir.filter fun e => !(e.line == line && e.holders.isEmpty && e.busy.isNone && e.queue.isEmpty) }

/-- A line as it reads is poisoned (R269, R405): its copies, where the home records any, and else the one in HBM. -/
def Coherence.bad (c : Coherence) (line : Nat) : Bool :=
  if (c.entry? line).isSome then c.taint.contains line else c.poison.contains line

/-- What a line holds is poisoned from now on (R298, R405). -/
def Coherence.spoil (c : Coherence) (line : Nat) : Coherence :=
  if c.bad line then c
  else if (c.entry? line).isSome then { c with taint := c.taint ++ [line] }
  else { c with poison := c.poison ++ [line] }

/-- All bytes of some lines are written anew (R269). -/
def Coherence.mend (c : Coherence) (f : Nat → Bool) : Coherence :=
  { c with poison := c.poison.filter fun l => !f l, taint := c.taint.filter fun l => !f l }

/-- Data comes from HBM: with a poisoned line there, poisoned (R269, R270). -/
def Coherence.readHbm (c : Coherence) (line : Nat) : Coherence :=
  let held := (c.entry? line).any fun e => !e.holders.isEmpty
  let bad := c.poison.contains line || (held && c.taint.contains line)
  { c with taint := if bad then line :: c.taint.filter (· != line) else c.taint.filter (· != line) }

/-- Answer a request for a line whose entry serves no other (R260). -/
def Coherence.serve (c : Coherence) (kind : CohKind) (agent line : Nat) : Coherence :=
  match c.entry? line with
  | none => c
  | some e =>
    let msg (k : CohKind) (st : Option Moesi) (to_ : Nat) : CohMsg := ⟨k, to_, line, agent, st⟩
    let others := e.holders.filter (· != agent)
    let upg := kind = .upg ∧ e.holders.contains agent
    if kind = .rds then
      match e.owner with
      | some (o, _) =>
        (c.put (msg .snps none o)).updEntry line fun e => { e with busy := some ⟨.rds, agent, [o], .s, false⟩ }
      | none =>
        let st : Moesi := if e.sharers.isEmpty then .e else .s
        ((c.readHbm line).put (msg .data (some st) agent)).updEntry line fun e =>
          if e.sharers.isEmpty then { e with owner := some (agent, .e) } else { e with sharers := e.sharers ++ [agent] }
    else if others.isEmpty then
      ((if upg then c else c.readHbm line).put (msg (if upg then .cmp else .data) (some .m) agent)).updEntry line fun e =>
        { e with owner := some (agent, .m), sharers := [] }
    else
      let snoop (o : Nat) : CohMsg :=
        if !upg && e.owner.map (·.1) == some o then msg .snpx none o else msg .inv none o
      let c := others.foldl (fun (c : Coherence) o => c.put (snoop o)) c
      let c := if !upg && e.owner.isNone then (c.readHbm line).put (msg .data none agent) else c
      c.updEntry line fun e => { e with busy := some ⟨if upg then .upg else .rdx, agent, others, .m, false⟩ }

/-- The least recently used entry of a full set that serves no request (R262). -/
def Coherence.victim (c : Coherence) (line : Nat) : Option (Option DirEntry) :=
  let set := c.dir.filter fun e => filterSet e.line = filterSet line
  if set.length < 16 then some none
  else
    let free := set.filter fun e => e.busy.isNone
    match free with
    | [] => none
    | e :: es => some (some (es.foldl (fun a b => if b.used < a.used then b else a) e))

/-- A request arrives at the home (R259, R262): it waits behind one for the same line; a new entry in a full set first
frees the least recently used one by back-invalidation. With every entry of the set busy it is still on its link: it waits
on no request for another line (R259). -/
def Coherence.arrive (c : Coherence) (m : CohMsg) : Coherence :=
  let queueAt (c : Coherence) (line : Nat) : Coherence := c.updEntry line fun e => { e with queue := e.queue ++ [m] }
  match c.entry? m.line, c.dir.find? fun e => e.line ≠ m.line ∧ e.queue.any fun q => q.line = m.line with
  | some e, _ => if e.busy.isSome then queueAt c m.line else c.serve m.kind m.agent m.line
  | none, some e => queueAt c e.line
  | none, none =>
    match c.victim m.line with
    | some none =>
      let c : Coherence := { c with dir := c.dir ++ [⟨m.line, none, [], none, [], 0, false⟩] }
      c.serve m.kind m.agent m.line
    | some (some v) =>
      let c := v.holders.foldl (fun (c : Coherence) o => c.put ⟨.binv, o, v.line, m.agent, none⟩) c
      let c := c.updEntry v.line fun e => { e with victim := true, busy := some ⟨.binv, m.agent, v.holders, .i, false⟩ }
      queueAt c v.line
    | none => c.put m

/-- Serve the requests that have waited, in order, until the line is busy again. -/
def Coherence.drain (c : Coherence) (line : Nat) : Coherence :=
  match c.entry? line with
  | none => c
  | some e =>
    let c := c.updEntry line fun e => { e with queue := [] }
    (e.queue.foldl Coherence.arrive c).sweep line

/-- The last answer to a snoop has arrived: the home records the new holders and completes the request (R260), or frees
the entry (R262). `st` is the snooped owner's new state. -/
def Coherence.settle (c : Coherence) (line : Nat) (st : Moesi) : Coherence :=
  match c.entry? line with
  | none => c
  | some e =>
    match e.busy with
    | none => c
    | some t =>
      if !t.wait.isEmpty then c
      else if t.kind = .binv then
        let c : Coherence := { c with dir := c.dir.filter fun e => e.line ≠ line }
        e.queue.foldl Coherence.arrive c
      else
        let o := (e.owner.map (·.1)).getD t.agent
        let c := (if t.fromHome then c.readHbm line else c).updEntry line fun e =>
          let e := { e with busy := none }
          if t.kind = .rds then
            match st with
            | .o => { e with owner := some (o, .o), sharers := e.sharers ++ [t.agent] }
            | .s => { e with owner := none, sharers := e.sharers ++ [o, t.agent] }
            | _ => { e with owner := none, sharers := e.sharers ++ [t.agent] }
          else { e with owner := some (t.agent, .m), sharers := [] }
        let c := c.put ⟨if t.fromHome then .data else .cmp, t.agent, line, t.agent, some t.grants⟩
        c.drain line

/-- A snooped agent's answer reaches the home. -/
def Coherence.answered (c : Coherence) (agent line : Nat) (st : Moesi) : Coherence :=
  (c.updEntry line fun e => { e with busy := e.busy.map fun (t : Txn) => { t with wait := t.wait.erase agent } }).settle line st

/-- A copy that left an agent by itself (R260, R270): the record loses the agent; where a snoop was on its way to it as the
owner, the home sends the data. -/
def Coherence.gone (c : Coherence) (agent line : Nat) : Coherence :=
  let c := c.updEntry line fun e =>
    let owned := e.owner.map (·.1) == some agent
    { e with
      owner := if owned then none else e.owner
      sharers := e.sharers.filter (· != agent)
      busy := e.busy.map fun t =>
        if owned && t.wait.contains agent && t.kind != .upg then { t with fromHome := true } else t }
  (c.sweep line)

/-- The home writes a line to HBM: a scrubber that has read it discards its own write (R268). -/
def Coherence.reached (c : Coherence) (line : Nat) : Coherence :=
  { c with scrubs := c.scrubs.map fun q => if q.line = line then { q with hit := true } else q }

/-- A write of dirty data to HBM, which replaces the copy there (R268, R269); a line that was poisoned when the agent took it, and
that no write has covered since, stays so. -/
def Coherence.written (c : Coherence) (line : Nat) : Coherence :=
  let rest := c.poison.filter (· != line)
  { c.reached line with poison := if c.taint.contains line then line :: rest else rest }

/-- A copy leaves its agent by itself: a clean one with EvC, a dirty one with WbD (R259). -/
def Coherence.evict (c : Coherence) (agent line : Nat) : Coherence :=
  let p := c.copy agent line
  let c := c.setSt agent line .i
  (if p.st = .m ∨ p.st = .o then c.written line else c).gone agent line

/-- Sets of an agent's cache (R250): 49,152 in a die cache, 16,384 in L2; each holds 16 lines. -/
def cacheSets (agent : Nat) : Nat := if agent < 4 then 49152 else 16384

/-- A set that holds more lines than it has ways loses the one that moved longest ago (R250). -/
def Coherence.fit (c : Coherence) (agent line : Nat) : Coherence :=
  let set := c.copies.filter fun p => p.agent == agent && p.line % cacheSets agent == line % cacheSets agent && p.st != .i
  if set.length ≤ 16 then c
  else
    match set.find? fun p => p.line != line && p.asked.isNone with
    | some p => c.evict agent p.line
    | none => c

/-- The requester takes its new state when it holds the data and the home's Cmp (R260), and makes room for the line (R250). -/
def Coherence.complete (c : Coherence) (agent line : Nat) : Coherence :=
  let p := c.copy agent line
  match p.gotCmp with
  | some st =>
    if p.gotData ∨ (p.asked = some .upg ∧ p.st ≠ .i) then (c.setCopy ⟨agent, line, st, none, false, none⟩).fit agent line else c
  | none => c

/-- A request of an agent goes to the home. -/
def Coherence.ask (c : Coherence) (kind : CohKind) (agent line : Nat) : Coherence :=
  (c.setCopy { c.copy agent line with asked := some kind, gotData := false, gotCmp := none }).arrive
    ⟨kind, agent, line, agent, none⟩

/-- Whether a snoop must wait at an agent: its own request has been granted and its data is on the way. -/
def Copy.deferred (p : Copy) : Bool := p.asked.isSome && p.gotCmp.isSome

/-- What a message does where it arrives; it has left its link (R259, R260, R262). -/
def Coherence.deliver (c : Coherence) (m : CohMsg) : Coherence :=
  let p := c.copy m.agent m.line
  let rsp (c : Coherence) (st : Moesi) : Coherence := c.put ⟨.rsp, m.agent, m.line, m.req, some st⟩
  let fwd (c : Coherence) : Coherence := c.put ⟨.fwd, m.req, m.line, m.req, none⟩
  match m.kind with
  | .rds | .rdx | .upg => c.arrive m
  | .evc => c.gone m.agent m.line
  | .wbd => (c.written m.line).answered m.agent m.line .i
  | .snps =>
    -- the owner keeps a copy; one that has left answers I (R270)
    let st : Moesi := match p.st with
      | .m | .o => .o
      | .e | .s => .s
      | .i => .i
    rsp (if p.st = .i then c else fwd (c.setSt m.agent m.line st)) st
  | .snpx => rsp (if p.st = .i then c else fwd (c.setSt m.agent m.line .i)) .i
  | .inv => rsp (c.setSt m.agent m.line .i) .i
  | .binv =>
    let dirty := p.st = .m ∨ p.st = .o
    (c.setSt m.agent m.line .i).put ⟨if dirty then .wbd else .rsp, m.agent, m.line, m.req, if dirty then none else some .i⟩
  | .fwd => (c.setCopy { p with gotData := true }).complete m.agent m.line
  | .data =>
    (c.setCopy { p with gotData := true, gotCmp := if m.st.isSome then m.st else p.gotCmp }).complete m.agent m.line
  | .rsp => c.answered m.agent m.line (m.st.getD .i)
  | .cmp => (c.setCopy { p with gotCmp := m.st }).complete m.agent m.line

/-- A message may arrive now: those of the home come in their order, and a snoop waits at an agent whose own request has
been granted. -/
def Coherence.mayArrive (c : Coherence) (m : CohMsg) : Bool :=
  !m.kind.ofHome ||
    ((c.msgs.find? fun q => q.agent == m.agent && q.line == m.line && q.kind.ofHome) == some m
      && (m.kind == .data || m.kind == .cmp || !(c.copy m.agent m.line).deferred))

/-- Let the messages about the lines of `f` arrive, until none is left or the fuel is used up. -/
def Coherence.flush (f : Nat → Bool) : Nat → Coherence → Coherence
  | 0, c => c
  | n + 1, c =>
    match c.msgs.find? fun m => f m.line && c.mayArrive m with
    | some m => flush f n (({ c with msgs := c.msgs.erase m } : Coherence).deliver m)
    | none => c

/-- The requests for a line that are in progress end before the next access to it (R259). -/
def Coherence.quiet (c : Coherence) (line : Nat) : Coherence := c.flush (· == line) 256

/-- An agent's request for a line, until it is granted. -/
def Coherence.request (c : Coherence) (kind : CohKind) (agent line : Nat) : Coherence :=
  let c := (c.ask kind agent line).quiet line
  if (c.copy agent line).asked.isSome then c.flush (fun _ => true) 4096 else c

/-- What is in progress for a line ends, and what its requests wait for; one of the agent's own among them. -/
def Coherence.ready (c : Coherence) (agent line : Nat) : Coherence :=
  let c := c.quiet line
  if (c.copy agent line).asked.isSome then c.flush (fun _ => true) 4096 else c

/-- An agent takes a line to read it or to write it (R258, R260): a copy in E becomes M with no message. -/
def Coherence.hold (c : Coherence) (agent line : Nat) (write : Bool) : Coherence :=
  let c := c.ready agent line
  match (c.copy agent line).st, write with
  | .m, _ => c
  | .e, true => c.setSt agent line .m
  | .s, true | .o, true => c.request .upg agent line
  | .i, true => c.request .rdx agent line
  | .i, false => c.request .rds agent line
  | _, false => c

/-- A request of agent 4 whose line is not retained (R263): a read takes a copy and drops it, unless L2 held one before; a write
takes the line in M and writes it back at once. -/
def Coherence.pass (c : Coherence) (write : Bool) (line : Nat) : Coherence :=
  let c := c.ready 4 line
  let had := (c.copy 4 line).st ≠ .i
  let c := c.hold 4 line write
  if had ∧ !write then c else c.evict 4 line

/-- The home of a line, by storage address over 128 (R99). -/
def homeOf (line : Nat) : Nat := line / 2 ^ 30

/-- An atomic at the home (R261): the line is in M in the home's own die cache; what it writes reaches the line (R268). -/
def Coherence.atomic (c : Coherence) (line : Nat) (write : Bool) : Coherence :=
  let c := c.hold (homeOf line) line true
  if write then c.reached line else c

/-- A core's L1 cache takes a line: 128 sets of 4 ways for L1I, 64 of 8 for L1D (R250); the line that it took first in a full
set leaves. -/
def l1Take (sets ways core line : Nat) (l : List (Nat × Nat)) : List (Nat × Nat) :=
  if l.contains (core, line) then l
  else
    let set := l.filter fun e => e.1 == core && e.2 % sets == line % sets
    (match set with
      | e :: _ => if ways ≤ set.length then l.erase e else l
      | [] => l) ++ [(core, line)]

/-- A scalar load of a core (R253): a line in its L1D is there; else L2 takes it and L1D fills. -/
def Coherence.coreRead (c : Coherence) (core line : Nat) : Coherence :=
  if c.l1d.contains (core, line) then c
  else
    let c := c.hold 4 line false
    { c with l1d := l1Take 64 8 core line c.l1d }

/-- A scalar store (R253, R254): L2 holds the line in M. -/
def Coherence.coreWrite (c : Coherence) (line : Nat) : Coherence := c.hold 4 line true

/-- A fetch of a core (R253): L1I fills from L2. -/
def Coherence.coreFetch (c : Coherence) (core line : Nat) : Coherence :=
  if c.l1i.contains (core, line) then c
  else
    let c := c.hold 4 line false
    { c with l1i := l1Take 128 4 core line c.l1i }

/-- The home performs every access to a SYNC line, in its own die cache; no other agent holds it (R253, R342). -/
def Coherence.atHome (c : Coherence) (line : Nat) (excl write : Bool) : Coherence :=
  let home := homeOf line
  let c := (List.range 5).foldl (fun (c : Coherence) a =>
    if a = home ∨ (c.copy a line).st = .i then c else c.evict a line) (c.quiet line)
  let c := c.hold home line excl
  if write then c.reached line else c

/-- Who makes an access: a core; a lane die; the copy engine, through the die cache of the line's home (R255; which die's cache it
goes through is open: DESIGN CHOICE, log 70); an engine or a host, whose request keeps no copy (R263); or the home itself, for
an atomic (R261). -/
inductive Via where
  | core (k : Nat)
  | lane (die : Nat)
  | copy
  | passing
  | atomic
  deriving DecidableEq, Repr

/-- The lines move as one access to a line needs it (R253 to R256, R261, R263, R342). -/
def Coherence.access (via : Via) (sync write : Bool) (c : Coherence) (line : Nat) : Coherence :=
  if sync then
    let c := c.atHome line (write || via == .atomic) write
    if c.sync.contains line then c else { c with sync := line :: c.sync }
  else
    let c : Coherence := { c with sync := c.sync.filter (· != line) }
    match via with
    | .core k => if write then c.coreWrite line else c.coreRead k line
    | .lane d => c.hold d line write
    | .copy => c.hold (homeOf line) line write
    | .passing => c.pass write line
    | .atomic => c.atomic line write

/-- Lines that a range of device memory touches. -/
def linesOf (a n : Nat) : List Nat := (List.range ((a % 128 + n + 127) / 128)).map (a / 128 + ·)

/-- The lines of a range move for an access of all of it. -/
def Coherence.accessAll (via : Via) (sync write : Bool) (a n : Nat) (c : Coherence) : Coherence :=
  (linesOf a n).foldl (Coherence.access via sync write) c

end Sys2Proof.Machine
end

