-- ==== Sys2Proof/Machine/Ops.lean ====
section
/-!
DEFINITION. The named operations that every meaning is made of: scalar registers and modes, bytes of memory,
translation (R396 to R400), accesses to every kind of place, traps and their return (R386, R387, R192), waiting, and
the end of a launch (R80, R83, R411).
-/

namespace Sys2Proof.Machine

/-- What a step answers. -/
abbrev Answer := Host.Outcome State Fault Refusal

-- scalar registers and fields of the acting hart

/-- A scalar register; x0 reads zero (R102). -/
def State.rx (s : State) (r : Reg) : Word := if r = 0 then 0 else (s.hart.x[r.toNat]?).getD 0

/-- Replace the acting hart. -/
def State.withHart (s : State) (f : Hart → Hart) : State := { s with hart := f s.hart }

/-- Write a scalar register; a write to x0 is discarded (R103). -/
def Hart.wx (h : Hart) (r : Reg) (w : Word) : Hart :=
  if r = 0 then h else { h with x := h.x.setIfInBounds r.toNat w }

/-- Write a scalar register of the acting hart. -/
def State.wx (s : State) (r : Reg) (w : Word) : State := s.withHart (Hart.wx · r w)

/-- Go on to the next word, which leaves one word fewer in the fetch buffer (R127). -/
def State.advance (s : State) : State := s.withHart fun h => { h with pc := h.pc + 4, fbuf := h.fbuf - 1 }

/-- Continue at an address; the words buffered from the old path go (R129). -/
def State.jump (s : State) (pc : Word) : State := s.withHart fun h => { h with pc := pc, fbuf := 0 }

/-- An instruction that only writes a scalar register. -/
def State.done1 (s : State) (d : Reg) (w : Word) : State := (s.wx d w).advance

/-- STATUS.MODE is 1 (R107). -/
def Hart.super (h : Hart) : Bool := h.status.getLsbD 16

/-- TCAUSE.ACTIVE (R384). -/
def Hart.active (h : Hart) : Bool := h.tcause.getLsbD 63

/-- STATUS.FRM (R107). -/
def Hart.frm (h : Hart) : Nat := bitsAt h.status.toNat 5 3

/-- Raise flags NV, DZ, OF, UF, NX, given as bits [4:0], in STATUS (R107, R151). -/
def Hart.raise (h : Hart) (flags : Nat) : Hart := { h with status := h.status ||| BitVec.ofNat 64 (flags % 32) }

/-- Raise flags in the acting hart's STATUS. -/
def State.raise (s : State) (flags : Nat) : State := s.withHart (Hart.raise · flags)

/-- The launch of the acting hart. -/
def State.myLaunch (s : State) : Option Launch := s.launch? s.hart.lid

/-- Change the launch of an id. -/
def State.updLaunch (s : State) (lid : Nat) (f : Launch → Launch) : State :=
  { s with lu := { s.lu with launches := s.lu.launches.map fun l => if l.lid = lid then f l else l } }

/-- Change what the launch unit keeps about hart j of a launch. -/
def State.updLHart (s : State) (lid j : Nat) (f : LHart → LHart) : State :=
  s.updLaunch lid fun l => { l with hs := l.hs.modify j f }

/-- All placed harts. -/
def State.placed (s : State) : List Hart := s.hart :: s.parked

/-- The hart on a slot. -/
def State.hart? (s : State) (hid : Nat) : Option Hart := s.placed.find? fun h => h.hid = hid

/-- Change the hart on a slot. -/
def State.updHart (s : State) (hid : Nat) (f : Hart → Hart) : State :=
  { s with hart := if s.hart.hid = hid then f s.hart else s.hart,
           parked := s.parked.map fun h => if h.hid = hid then f h else h }

/-- Clocks charged to a placed hart since its account was last settled: none while it is in SWAP (R38, R73, R132). -/
def State.chargedNow (s : State) (h : Hart) : Nat := if h.run = .swap then 0 else s.clock - h.since

/-- Issue clocks that a hart has left (R38). -/
def State.budgetLeft (s : State) (h : Hart) : Nat := h.budget - s.chargedNow h

/-- Put events behind those pending. -/
def State.post (s : State) (es : List Instr) : State := { s with inbox := s.inbox ++ es }

/-- Send messages out of the module. -/
def State.send (s : State) (ms : List OutMsg) : State := { s with outbox := s.outbox ++ ms }

/-- Enter an event into the service log, which holds the latest 65,536 (R420). -/
def State.logEvent (s : State) (kind place detail : Nat) : State :=
  let log := s.svc.log ++ [⟨kind, s.clock, place, detail⟩]
  { s with svc := { s.svc with log := if 65536 < log.length then log.tail else log, logged := s.svc.logged + 1 } }

-- byte lists in canonical form

/-- The byte at a key; a key that is not listed holds zero. -/
def cellAt : List Host.Cell → Nat → Byte
  | [], _ => 0
  | (k, b) :: t, a => if k = a then b else if a < k then 0 else cellAt t a

/-- Set the byte at a key, keeping the keys strictly rising and no zero listed. -/
def cellSet : List Host.Cell → Nat → Byte → List Host.Cell
  | [], a, b => if b = 0 then [] else [(a, b)]
  | (k, c) :: t, a, b =>
    if a < k then (if b = 0 then (k, c) :: t else (a, b) :: (k, c) :: t)
    else if a = k then (if b = 0 then t else (a, b) :: t)
    else (k, c) :: cellSet t a b

/-- The canonical form: keys strictly rising, no zero byte listed. -/
def cellsWf : List Host.Cell → Bool
  | [] => true
  | [(_, b)] => b != 0
  | (k, b) :: (k', b') :: t => b != 0 && k < k' && cellsWf ((k', b') :: t)

/-- Set consecutive bytes from a key on. -/
def cellsPut (m : List Host.Cell) (a : Nat) : List Byte → List Host.Cell
  | [] => m
  | b :: bs => cellsPut (cellSet m a b) (a + 1) bs

/-- Read consecutive bytes from a key on. -/
def cellsGet (m : List Host.Cell) (a n : Nat) : List Byte := (List.range n).map fun i => cellAt m (a + i)

/-- The memory of a state has the canonical form. -/
abbrev State.memWf (s : State) : Prop := cellsWf s.mem = true

-- device memory by storage address

/-- A little-endian number of `n` bytes of device memory. -/
def State.memNat (s : State) (a n : Nat) : Nat := natOfBytes (cellsGet s.mem a n)

/-- Write bytes of device memory; a write of all 128 bytes of a line clears its poison (R269). -/
def State.memPut (s : State) (a : Nat) (bs : List Byte) : State :=
  { s with
    mem := cellsPut s.mem a bs
    coh := s.coh.mend fun l => a ≤ 128 * l && 128 * l + 128 ≤ a + bs.length }

/-- The lines of a place move for an access (R253 to R263); places outside device memory are not cached. -/
def State.moves (s : State) (via : Via) (write : Bool) (loc : Loc) (n : Nat) : State :=
  match loc with
  | .dev a sync => { s with coh := s.coh.accessAll via sync write a n }
  | _ => s

/-- A line reads poisoned (R269). -/
def State.linePoisoned (s : State) (line : Nat) : Bool := s.coh.bad line

/-- A line lies in an excluded stack (R252). -/
def State.noStack (s : State) (a : Nat) : Bool :=
  let d := a / 2 ^ 37
  let out (k : Nat) := s.svc.units.stacksOut.contains k
  (out (2 * d) && out (2 * d + 1)) || ((out (2 * d) || out (2 * d + 1)) && bitsAt a 36 1 == 1)

/-- The home die of a physical address (R99). -/
def homeDie (hp pa : Nat) : Nat :=
  match hp with
  | 0 => bitsAt pa 37 2
  | 1 => bitsAt pa 37 2 ^^^ bitsAt pa 12 2
  | _ => (List.range 20).foldl (fun x k => x ^^^ bitsAt pa (7 + 2 * k) 2) 0 ^^^ bitsAt pa 47 1

/-- The storage address of a physical address under a home policy (R99). -/
def storageAddr (hp pa : Nat) : Nat := homeDie hp pa * 2 ^ 37 + pa % 2 ^ 37

/-- The byte list of a scratchpad region. -/
def State.region? (s : State) (core lid : Nat) : Option Region :=
  s.regions.find? fun r => r.core = core ∧ r.lid = lid

/-- Change a scratchpad region. -/
def State.updRegion (s : State) (core lid : Nat) (f : Region → Region) : State :=
  { s with regions := s.regions.map fun r => if r.core = core ∧ r.lid = lid then f r else r }

-- translation

/-- Kinds of access that translation distinguishes (R400). -/
inductive Access where
  | read
  | write
  | fetch
  /-- Needs both R and W: AMO, CAS, VAMO, combining scatter. -/
  | atomic
  deriving DecidableEq, Repr

/-- The page-fault code of an access (R388, R398): a load page fault for a read or fetch, else a store page fault. -/
def Access.pageFault : Access → Nat
  | .read | .fetch => 4
  | .write | .atomic => 5

/-- The access needs W (R400). -/
def Access.writes : Access → Bool
  | .read | .fetch => false
  | .write | .atomic => true

/-- Access fault (R388). -/
def accessFault : Nat := 6

/-- The checks of a valid leaf at level `l` and the place it maps (R399, R400); `va` is the address translated. -/
def checkLeaf (task : Bool) (e l va : Nat) (acc : Access) : Except Nat Loc :=
  let bit (k : Nat) := bitsAt e k 1 == 1
  let io := bit 54
  let hostb := bit 55
  let sync := bit 53
  let ppn := bitsAt e 12 40
  let pa := ppn * 4096 + va % 2 ^ (12 + 9 * l)
  let dev := !io && !hostb
  let hp := bitsAt e 56 2
  if bitsAt e 60 4 ≠ 0 || (!hostb && bit 52) || 3 ≤ l || (!hostb && ppn % 2 ^ (9 * l) ≠ 0)
      || (dev && (hp == 3 || (hp == 0 && bitsAt e 58 2 != bitsAt pa 37 2) || 2 ^ 39 ≤ pa))
      || (io && (sync || hostb)) || (sync && hostb) || (io && (pa < 2 ^ 51 || 2 ^ 52 ≤ pa))
      || (!dev && acc == .fetch) then .error accessFault
  else if (task && !bit 5)
      || (match acc with
          | .read => !bit 2
          | .write => !bit 3
          | .fetch => !bit 4
          | .atomic => !bit 2 || !bit 3) then .error acc.pageFault
  else if hostb then .ok (.hostb (bitsAt e 52 1) va)
  else if io then .ok (.io pa)
  else .ok (.dev (storageAddr hp pa) sync)

/-- A, and D for a write, of a page-table entry (R400). -/
def Access.used (acc : Access) : Nat := if acc == .write || acc == .atomic then 0xC0 else 0x40

/-- A leaf that an access uses: its level, the storage address of its entry, and the entry. -/
structure Leaf where
  level : Nat
  at_ : Nat
  entry : Nat
  deriving DecidableEq, Repr

/-- Set A, and D for a write, in the entry of a leaf, by an atomic at its home, unless the leaf as used has them already
(R400). -/
def State.markUsed (s : State) (f : Leaf) (acc : Access) : State :=
  if f.entry ||| acc.used = f.entry then s
  else { s with
    mem := cellsPut s.mem f.at_ (bytesOf (s.memNat f.at_ 8 ||| acc.used) 8)
    coh := s.coh.atomic (f.at_ / 128) true }

/-- The walk of R398 from level `l` on, over a table at physical address `t`: tables are homed as under HP 0b00, so
that a storage address is the physical address. -/
def State.walkFrom (s : State) (va : Nat) (acc : Access) : Nat → Nat → Except Nat Leaf
  | l, t =>
    let a := t + 8 * bitsAt va (12 + 9 * l) 9
    if 2 ^ 39 ≤ a || s.noStack a then .error accessFault
    else if s.linePoisoned (a / 128) then .error 7
    else
      let e := s.memNat a 8
      if bitsAt e 0 1 = 0 then .error acc.pageFault
      else if bitsAt e 1 1 = 1 then .ok ⟨l, a, e⟩
      else if bitsAt e 2 10 ≠ 0 || bitsAt e 52 12 ≠ 0 then .error accessFault
      else
        match l with
        | 0 => .error accessFault
        | l' + 1 => s.walkFrom va acc l' (bitsAt e 12 40 * 4096)

-- translation caches

/-- The entry says no more than another of the same leaf: they differ in A and D at most, and it has none that the other
lacks. -/
def Leaf.within (f : Leaf) (level at_ leaf : Nat) : Bool :=
  f.level == level && f.at_ == at_ && f.entry ||| 0xC0 == leaf ||| 0xC0 && f.entry ||| leaf == leaf

/-- A cached leaf that maps an address of an address space; G matches every ASID (R399). -/
def Cached.serves (c : Cached) (asid va : Nat) : Bool :=
  va / 2 ^ (12 + 9 * c.level) == c.page && (bitsAt c.leaf 8 1 == 1 || c.asid == asid)

/-- A cached leaf maps a storage line, as one of a SYNC page or of another. -/
def Cached.maps (c : Cached) (sync : Bool) (line : Nat) : Bool :=
  let e := c.leaf
  let size := 2 ^ (12 + 9 * c.level)
  let base := bitsAt e 12 40 * 4096 / size * size
  let a := 128 * line
  bitsAt e 54 2 == 0 && (bitsAt e 53 1 == 1) == sync && (List.range 4).any fun k =>
    let pa := k * 2 ^ 37 + a % 2 ^ 37
    base ≤ pa && pa < base + size && storageAddr (bitsAt e 56 2) pa == a

/-- A line is one of a SYNC page, as far as the translation caches and the latest access to it tell (R342; DEDUCED: log 72). -/
def State.syncLine (s : State) (line : Nat) : Bool := s.coh.sync.contains line || s.tlb.any (·.maps true line)

/-- The leaves for an address in some of the caches that the tables do not hold any more (R401). -/
def State.stale (s : State) (caches : List Nat) (asid va : Nat) (now : Except Nat Leaf) : List Leaf :=
  (s.tlb.filter fun c => caches.contains c.cache && c.serves asid va && (match now with
    | .ok f => !(Leaf.within ⟨c.level, c.at_, c.leaf⟩ f.level f.at_ f.entry)
    | .error _ => true)).map fun c => ⟨c.level, c.at_, c.leaf⟩

/-- Leaves that a translation cache holds (R250): 512 for a core, 8,192 that the cores share, and 16,384 for a lane die. -/
def tlbSize (cache : Nat) : Nat := if cache < 32 then 512 else if cache = 32 then 8192 else 16384

/-- A cache holds a leaf that an access has used from then on (R401), in place of the one used longest ago when it is full. -/
def State.holdIn (s : State) (asid va : Nat) (f : Leaf) (acc : Access) (cache : Nat) : State :=
  let g : Leaf := { f with entry := f.entry ||| acc.used }
  let mine := s.tlb.filter fun c => c.cache == cache
  if mine.any fun c => c.serves asid va && g.within c.level c.at_ c.leaf then s
  else { s with tlb :=
    (⟨cache, if bitsAt f.entry 8 1 = 1 then 0 else asid, va / 2 ^ (12 + 9 * f.level), f.level, f.at_, g.entry⟩
      :: mine.filter fun c => !(c.serves asid va && Leaf.within ⟨c.level, c.at_, c.leaf⟩ g.level g.at_ g.entry)).take (tlbSize cache)
      ++ s.tlb.filter fun c => c.cache != cache }

/-- Every cache that the access goes through holds the leaf. -/
def State.hold (s : State) (caches : List Nat) (asid va : Nat) (f : Leaf) (acc : Access) : State :=
  caches.foldl (State.holdIn · asid va f acc) s

/-- The caches that an access of the acting hart goes through (R250, R402): the lane dies' for a vector memory instruction, else the
core's and the cores' second level. -/
def State.caches (s : State) (lanes : Bool) : List Nat := if lanes then [33] else [s.hart.hid / 16, 32]

/-- The translation that an access uses: the walk's, or one of the caches that it goes through where the tables have changed since;
which of them is free, for each access (R401). -/
def State.leafFor (s : State) (caches : List Nat) (asid root va : Nat) (acc : Access) : Except Nat Leaf :=
  let now := s.walkFrom va acc 4 (bitsAt root 12 40 * 4096)
  let old := s.stale caches asid va now
  match old[Config.staleUse s.clock va acc.used % (old.length + 1)]? with
  | some f => .ok f
  | none => now

/-- Bits [63:57] are copies of bit 56 (R396). -/
def validVa (va : Nat) : Bool := bitsAt va 57 7 == (if bitsAt va 56 1 == 1 then 127 else 0)

/-- Translation in an address space, outside both windows: R396, the walk, the excluded stacks of R252, and, for a
write, the pinned image pages of R29. The answer holds the place and the state with A and D set. -/
def State.xlateIn (s : State) (caches : List Nat) (asid root : Nat) (task : Bool) (va : Nat) (acc : Access) :
    Except Nat (Loc × State) :=
  if !validVa va then .error accessFault
  else
    match s.leafFor caches asid root va acc with
    | .error c => .error c
    | .ok f =>
      match checkLeaf task f.entry f.level va acc with
      | .error c => .error c
      | .ok loc =>
        match loc with
        | .dev a _ =>
          if s.noStack a then .error accessFault
          else if (acc == .write || acc == .atomic) && s.lu.images.any (fun i => i.pins.contains (a / 128)) then
            .error accessFault
          else .ok (loc, (s.markUsed f acc).hold caches asid va f acc)
        | _ => .ok (loc, (s.markUsed f acc).hold caches asid va f acc)

/-- An address lies in the capability window (R42). -/
def inCap (va : Nat) : Bool := capBase ≤ va && va < capBase + 0x100000

/-- An address lies in the SPBASE window of a hart (R88). -/
def inWindow (h : Hart) (va : Nat) : Bool := h.spbase.toNat ≤ va && va < h.spbase.toNat + 0x400000

/-- The core on which a launch's region that lies on a core now was made (R86, R88). -/
def State.regionKey (s : State) (core lid : Nat) : Nat :=
  ((s.regions.find? fun r => r.lies = core ∧ r.lid = lid).map (·.core)).getD core

/-- SCRATCH in KiB of the acting hart's launch. -/
def State.scratchKib (s : State) : Nat := (s.myLaunch.map (·.scratch)).getD 0

/-- `translate(va, kind)` for the acting hart (R396, R400, R264, R42), by the lane dies or by its core. -/
def State.xlate (s : State) (va : Nat) (acc : Access) (lanes : Bool := false) : Except Nat (Loc × State) :=
  if inWindow s.hart va then
    let off := va - s.hart.spbase.toNat
    if off % 0x100000 < s.scratchKib * 256 && acc != .fetch then .ok (.scr (s.regionKey (s.hart.hid / 16) s.hart.lid) s.hart.lid off, s)
    else .error accessFault
  else if inCap va then (if acc == .read then .ok (.cap (va - capBase), s) else .error accessFault)
  else s.xlateIn (s.caches lanes) s.hart.asid s.hart.ptroot.toNat (!s.hart.super) va acc

-- effects that may stop

/-- How an instruction stops short. -/
inductive Stop where
  /-- It raises a trap (R8). -/
  | trap (code : Nat) (tval : Word)
  /-- It waits, in WAITW when `asleep`; `kept` when part of it has been done and it goes on from VSTART. -/
  | wait (asleep kept : Bool)
  deriving DecidableEq, Repr

/-- A meaning as a sequence of effects on the state, which a trap or a wait ends. -/
abbrev Act (α : Type) := EStateM Stop State α

/-- Raise a trap. -/
def Act.trap {α : Type} (code : Nat) (tval : Word) : Act α := throw (.trap code tval)

/-- Raise a trap when a condition fails. -/
def Act.check (ok : Bool) (code : Nat) (tval : Word) : Act Unit := if ok then pure () else Act.trap code tval

/-- Wait, with nothing done. -/
def Act.wait {α : Type} : Act α := throw (.wait false false)

/-- Wait until a condition holds. -/
def Act.waitUntil (ok : Bool) : Act Unit := if ok then pure () else Act.wait

/-- Change the state. -/
def Act.upd (f : State → State) : Act Unit := modify f

/-- The place that the acting hart's waiting access has held for an address since its dispatch (R402). -/
def State.heldPlace (s : State) (va : Nat) (acc : Access) : Option Loc :=
  s.hart.begun.held.bind fun l => (l.find? fun q => q.va = va ∧ q.write = acc.writes).map (·.loc)

/-- Translate, once for each access (R402). -/
def State.xlateOnce (s : State) (va : Nat) (acc : Access) (lanes : Bool := false) : Except Nat (Loc × State) :=
  match s.heldPlace va acc with
  | some loc => .ok (loc, s)
  | none => s.xlate va acc lanes

/-- Translate; a failure traps with the address. -/
def Act.xlate (va : Nat) (acc : Access) (lanes : Bool := false) : Act Loc := do
  let s ← get
  match s.xlateOnce va acc lanes with
  | .ok (loc, s') => set s'; pure loc
  | .error c => Act.trap c (wordOfNat va)

/-- Translate addresses in order, up to the first failure (R402). -/
def State.xlateAll (s : State) (acc : Access) (lanes : Bool) : List Nat → List Held × State
  | [] => ([], s)
  | va :: vas =>
    match s.xlate va acc lanes with
    | .ok (loc, t) => let r := t.xlateAll acc lanes vas; (⟨va, acc.writes, loc⟩ :: r.1, r.2)
    | .error _ => ([], s)

/-- Change what the acting hart's instruction has done already. -/
def State.withBegun (s : State) (f : Begun → Begun) : State := s.withHart fun h => { h with begun := f h.begun }

/-- An access that waits for the first time keeps the translations of all its addresses (R402). -/
def Act.holding {α : Type} (acc : Access) (vas : List Nat) (m : Act α) (lanes : Bool := false) : Act α := fun s =>
  match m s with
  | .error (.wait a k) t =>
    if t.hart.begun.held.isSome then .error (.wait a k) t
    else
      let (l, u) := t.xlateAll acc lanes vas
      .error (.wait a k) (u.withBegun fun b => { b with held := some l })
  | r => r

/-- An operation belongs to a hart, wherever the hart is placed. -/
def EngineOp.ofHart (o : EngineOp) (h : Hart) : Bool :=
  o.lid == h.lid && o.j == h.j && (h.lid != 0 || o.hid == h.hid)

/-- A place outside the module: a device or a host. -/
def Loc.outside : Loc → Bool
  | .io _ | .hostb .. => true
  | _ => false

/-- An IO page. -/
def Loc.isIo : Loc → Bool
  | .io _ => true
  | _ => false

/-- What an operation has still to write: a remote copy until its bytes have arrived, an engine until it completes, and outside the
module until the target has performed it. -/
def EngineOp.toWrite (o : EngineOp) : List Seg :=
  match o.kind with
  | .get _ _ _ _ _ left => if left = 0 then o.writes.filter fun g => g.loc.outside else o.writes
  | _ => o.writes

/-- The writes of an operation or a collective to devices and hosts have performed there (R254). -/
def State.performed (s : State) (sent : List Nat) : Bool := !(s.targets.any fun q => sent.contains q.tag)

/-- The handles of a launch; harts 0 to 15, of no launch, share their own. -/
def State.handlesOf (s : State) (lid : Nat) : Handles :=
  match s.launch? lid with
  | some l => l.handles
  | none => s.lu.ownHandles

/-- Change the handles of a launch. -/
def State.updHandles (s : State) (lid : Nat) (f : Handles → Handles) : State :=
  match s.launch? lid with
  | some _ => s.updLaunch lid fun l => { l with handles := f l.handles }
  | none => { s with lu := { s.lu with ownHandles := f s.lu.ownHandles } }

/-- A stretch has bytes in the 4 KiB page of a place. -/
def Seg.onPage (g : Seg) (loc : Loc) : Bool :=
  g.len != 0 && match g.loc, loc with
  | .dev a _, .dev b _ => a / 4096 ≤ b / 4096 && b / 4096 ≤ (a + g.len - 1) / 4096
  | .scr c l a, .scr d m b => c == d && l == m && a / 4096 ≤ b / 4096 && b / 4096 ≤ (a + g.len - 1) / 4096
  | .hostb p a, .hostb q b => p == q && a / 4096 ≤ b / 4096 && b / 4096 ≤ (a + g.len - 1) / 4096
  | .io a, .io b => a / 4096 ≤ b / 4096 && b / 4096 ≤ (a + g.len - 1) / 4096
  | _, _ => false

/-- An older engine operation of the acting hart has still to write the page of a place (R298, R308). -/
def State.engineHolds (s : State) (loc : Loc) : Bool :=
  s.ops.any fun o => o.ofHart s.hart && o.toWrite.any (·.onPage loc)

/-- An access of the hart itself: translated, then held back while an older engine operation of the hart has still to write
its page (R298, R308). -/
def Act.reach (va : Nat) (acc : Access) (lanes : Bool := false) : Act Loc := do
  let loc ← Act.xlate va acc lanes
  let s ← get
  Act.waitUntil (!s.engineHolds loc)
  pure loc

-- requests to devices and hosts

/-- PASID of a launch. -/
def State.pasidOf (s : State) (lid : Nat) : Nat := ((s.launch? lid).map (·.pasid)).getD 0

/-- PASID of the acting hart's launch. -/
def State.pasid (s : State) : Nat := s.pasidOf s.hart.lid

/-- Issue a request to a device or a host for an access of kind `acc`, or the ATS translation request for one, and wait for its
completion (R263, R404). -/
def Act.request {α : Type} (ats : Bool) (acc : Access) (loc : Loc) (msg : Nat → OutMsg) : Act α := do
  let s ← get
  match s.hart.waitTag with
  | some _ => Act.wait
  | none =>
    set ({ s with
      nextTag := s.nextTag + 1
      targets := s.targets ++ [⟨s.nextTag, s.hart.hid, false, ats, acc.writes, loc, s.pasid, false,
        acc == .atomic || loc.isIo⟩]
      outbox := s.outbox ++ [msg s.nextTag]
      hart := { s.hart with waitTag := some s.nextTag } } : State)
    Act.wait

/-- A granted translation covers a page, for writes when they are asked for (R403). -/
def AtsEntry.covers (e : AtsEntry) (port pasid page : Nat) (write : Bool) : Bool :=
  e.port == port && e.pasid == pasid && e.page ≤ page && page < e.page + e.pages && (e.write || !write)

/-- The host's denial answers an access to a page: a denied read answers a write too (R404). -/
def denies (d : Nat × Nat × Bool) (port va : Nat) (acc : Access) : Bool :=
  d.1 == port && d.2.1 / 4096 == va / 4096 && (!d.2.2 || acc.writes)

/-- The host's translation of a page, cached or requested (R404); a denied access that no page request helps raises the page
fault of R400, at the access to that page. -/
def Act.hostPage (port va : Nat) (acc : Access) : Act Unit := do
  let s ← get
  if s.hart.priDone.any (denies · port va acc) then
    set (s.withHart fun h => { h with priDone := none })
    Act.trap acc.pageFault (wordOfNat va)
  else if s.hart.pri.isSome then Act.wait
  else if s.ats.any (·.covers port s.pasid (va / 4096) acc.writes) then pure ()
  else Act.request true acc (.hostb port va) (fun tag => .readReq tag s.pasid (.hostb port va) 0)

/-- Take the next completion that has arrived, or request it for an access of kind `acc`. -/
def Act.reply (acc : Access) (loc : Loc) (msg : Nat → OutMsg) : Act (List Byte) := do
  let s ← get
  match s.hart.replies with
  | r :: rest => do
    set (s.withHart fun h => { h with replies := rest })
    pure r.bytes
  | [] => Act.request false acc loc msg

/-- Who makes an access of the acting hart: its core, or the lane die that executes it (R253, R255). -/
def State.via (s : State) (lane : Option Nat) : Via :=
  match lane with
  | some d => .lane d
  | none => .core (s.hart.hid / 16)

/-- Read bytes at a place, poison aside: device memory, scratchpad, capability window, a device or a host. -/
def Act.readAt (loc : Loc) (n : Nat) (lane : Option Nat := none) : Act (List Byte) := do
  let s ← get
  match loc with
  | .dev a _ =>
    set (s.moves (s.via lane) false loc n)
    pure (cellsGet s.mem a n)
  | .scr c l off => pure (((s.region? c l).map fun r => cellsGet r.cells off n).getD (List.replicate n 0))
  | .cap off => pure ((List.range n).map fun i => s.capByte (off + i))
  | .io _ => Act.reply .read loc (fun tag => .readReq tag s.pasid loc n)
  | .hostb port va => do
    Act.hostPage port va .read
    Act.reply .read loc (fun tag => .readReq tag s.pasid loc n)

/-- The bytes at a place are poisoned (R405). -/
def State.poisonedAt (s : State) (loc : Loc) (n : Nat) : Bool :=
  match loc with
  | .dev a _ => (List.range n).any fun i => s.linePoisoned ((a + i) / 128)
  | .scr c l off =>
    ((s.region? c l).map fun r => (List.range n).any fun i => r.bad.contains ((off + i) / 8)).getD false
  | _ => false

/-- Read bytes at a place for a use: poisoned data raises poison consumed with the virtual address (R405). -/
def Act.load (va : Nat) (loc : Loc) (n : Nat) (lane : Option Nat := none) : Act Nat := do
  let s ← get
  Act.check (!s.poisonedAt loc n) 7 (wordOfNat va)
  let bs ← Act.readAt loc n lane
  pure (natOfBytes bs)

/-- Write bytes at a place of memory. -/
def State.putAt (s : State) (loc : Loc) (bs : List Byte) : State :=
  match loc with
  | .dev a _ => s.memPut a bs
  | .scr c l off =>
    s.updRegion c l fun r => { r with
      cells := cellsPut r.cells off bs
      bad := r.bad.filter fun w => !(off ≤ 8 * w && 8 * w + 8 ≤ off + bs.length) }
  | _ => s

/-- Store bytes at a place; a store to a device or a host leaves as a write request (R254, R356). -/
def State.storeAt (s : State) (loc : Loc) (bs : List Byte) (lane : Option Nat := none) : State :=
  if loc.outside then
    { s with
      nextTag := s.nextTag + 1
      targets := s.targets ++ [⟨s.nextTag, s.hart.hid, true, false, true, loc, s.pasid, lane.isSome, false⟩]
      outbox := s.outbox ++ [.writeReq s.nextTag s.pasid loc bs]
      hart := { s.hart with unacked := s.hart.unacked ++ [s.nextTag] } }
  else (s.moves (s.via lane) true loc bs.length).putAt loc bs

/-- Before a store to a host, its page must be granted (R404). -/
def Act.storePage (loc : Loc) : Act Unit :=
  match loc with
  | .hostb port va => Act.hostPage port va .write
  | _ => pure ()

/-- Store bytes at a place. -/
def Act.store (loc : Loc) (bs : List Byte) : Act Unit := do
  Act.storePage loc
  Act.upd (·.storeAt loc bs)

/-- Wait until the hart's older stores to devices and hosts are acknowledged (R254, R255). -/
def Act.drain : Act Unit := do
  let s ← get
  Act.waitUntil s.hart.unacked.isEmpty

/-- A release waits for the hart's older accesses, and with them for its stores to devices and hosts (R343, R356). -/
def Act.release (order : BitVec 2) : Act Unit := if order.getLsbD 1 then Act.drain else pure ()

/-- An older vector store of the hart to the page of a device or a host is outstanding (R256). -/
def State.storeHolds (s : State) (loc : Loc) : Bool :=
  s.targets.any fun q => q.queued && s.hart.unacked.contains q.tag && Seg.onPage ⟨q.loc, 1⟩ loc

/-- A fence at sys scope waits for the hart's older accesses to devices (R356). -/
def Act.drainIo : Act Unit := do
  let s ← get
  Act.waitUntil (!s.targets.any fun q => s.hart.unacked.contains q.tag && q.loc.isIo)

/-- Bytes counted against MBUDGET for one access: a free value, for a hart of a launch (R38). -/
def State.countTraffic (s : State) : State :=
  match s.myLaunch with
  | none => s
  | some _ =>
    { s.updLaunch s.hart.lid fun l => { l with mbytes := l.mbytes + Config.traffic s.draw } with draw := s.draw + 1 }

/-- A launch whose memory budget is spent and has not raised its trap (R38). -/
def Launch.overBudget (l : Launch) : Bool :=
  !(l.cls == 3 && l.mbudget == 0) && !l.mbRaised && l.mbudget < l.mbytes

/-- The grace that the first budget trap of a hart starts, whichever budget it names (R38, R386). -/
def Launch.graceFrom (l : Launch) (h : Hart) (clock : Nat) : Hart :=
  { h with grace := some (h.grace.getD (clock + max 1900 (l.budget / 64))) }

/-- The traffic of granule `n` of an instruction is counted, once however often the instruction waits and runs again (R38). -/
def State.countGranule (s : State) (n : Nat) : State :=
  if n < s.hart.begun.counted then s
  else s.countTraffic.withBegun fun b => { b with counted := n + 1 }

/-- A memory granule issues (R38), the instruction's `n`-th: the first one after the count exceeds MBUDGET raises budget
exhausted in its place, or leaves it held while ACTIVE is 1, the grace counting from here (R387). -/
def Act.granule (n : Nat := 0) : Act Unit := do
  let s ← get
  match s.myLaunch with
  | none => pure ()
  | some l =>
    if l.overBudget then
      let s := s.updLaunch l.lid fun l => { l with mbRaised := true }
      if s.hart.active then
        set (s.withHart fun h =>
          let h := { h with heldBudget := some (h.heldBudget.getD 1) }
          if l.handler = 0 then h else l.graceFrom h s.clock)
      else
        set s
        Act.trap 9 1
    else pure ()
    Act.upd (·.countGranule n)

-- the end of a launch

/-- A launch became final after another. -/
def Launch.after (a b : Launch) : Bool :=
  isFinal a.state && (b.tfinal.getD 0 < a.tfinal.getD 0 || (a.tfinal == b.tfinal && b.lid < a.lid))

/-- Keep the records of the 65,536 launches that became final most recently (R199), and those whose completion record or notice
is still due (R412, R414). -/
def ageOut (ls : List Launch) : List Launch :=
  if (ls.filter fun l => isFinal l.state).length ≤ 65536 then ls
  else ls.filter fun l =>
    !(isFinal l.state && (l.compl == 0 || l.recordDone) && (l.note == 0xFFFF || l.noticed)
      && 65536 ≤ (ls.filter (·.after l)).length)

/-- The handles on which one of some operations is still to run. -/
def Handles.keep (hs : Handles) (ops : List EngineOp) : Handles :=
  { hs with
    mesh := hs.mesh.filter fun h => ops.any fun o => o.handle == h.h
    gibbs := hs.gibbs.filter fun h => ops.any fun o => o.handle == h.h }

/-- Free what a launch holds in the final state (R83, R88, R307), but for the handles of operations that run on (R411), look at undelivered shares of parts again (R321), and stop the
operations that R411 stops; its record is due when no operation is left that may run. The stops come before every event that is pending. -/
def State.toFinal (s : State) (lid code : Nat) : State :=
  let runs := s.ops.filter fun o => o.lid == lid && !o.scratch && code == 8
  let s := s.updLaunch lid fun l => { l with state := code, ending := none, tfinal := some s.clock, handles := l.handles.keep runs }
  let stops := (s.ops.filter fun o => o.lid = lid ∧ (o.scratch ∨ code ≠ 8)).map fun o => Instr.engineOperationStop o.id
  let s := if code = 13 then s.logEvent 7 lid (((s.launch? lid).map (·.cause)).getD 0) else s
  ({ s with
    regions := s.regions.filter fun r => r.lid ≠ lid
    pubs := s.pubs.filter fun p => match p.word with | .scr _ i _ => i ≠ lid | _ => true
    mail := []
    inbox := stops ++ s.inbox ++ s.mail.map Instr.fabricFlitArrival ++ [.completionRecordWrite lid]
    lu := { s.lu with launches := ageOut s.lu.launches } } : State).trackGrant

/-- Whether a "launch ended" entry is met, can no longer be met, or waits (R41). -/
def State.endedPre (s : State) (strict : Bool) (p : Prereq) : Option Bool :=
  match s.launch? p.word with
  | none => some true
  | some l => if isFinal l.state then some (!strict || l.state == 8) else none

/-- The entry of a queued launch that can no longer be met; of several the lowest (DESIGN CHOICE: log 60). -/
def State.brokenPre (s : State) (l : Launch) : Option Nat :=
  (List.range l.pre.length).find? fun j =>
    match l.pre[j]? with
    | some p => p.kind == 1 && !p.met && s.endedPre l.strictPre p == some false
    | none => false

/-- The launch with the entries marked that are met now. -/
def State.markPre (s : State) (l : Launch) : Launch :=
  { l with pre := l.pre.map fun p => if p.kind = 1 ∧ s.endedPre l.strictPre p = some true then { p with met := true } else p }

/-- Every used entry is met. -/
def Launch.preMet (l : Launch) : Bool := l.pre.all fun p => p.kind == 0 || p.met

/-- Take a queued launch on: PREFAIL when an entry can no longer be met, READY when all are met (R41, R79). -/
def State.settleOne (s : State) (lid : Nat) : State :=
  match s.launch? lid with
  | none => s
  | some l =>
    if l.state ≠ 0 then s
    else
      match s.brokenPre l with
      | some j =>
        let w := ((l.pre[j]?).map (·.word)).getD 0
        (s.updLaunch lid fun l => { l with cause := j, causeHart := 0xFFFF, causeValue := w }).toFinal lid 12
      | none =>
        let l' := s.markPre l
        if l'.preMet then
          { s.updLaunch lid fun _ => { l' with state := 1, tmet := some s.clock } with inbox := s.inbox ++ [.launchStart lid] }
        else s.updLaunch lid fun _ => l'

/-- Settle the prerequisites of every queued launch; a launch that fails may decide others. -/
def State.settle : Nat → State → State
  | 0, s => s
  | n + 1, s => State.settle n ((s.lu.launches.map (·.lid)).foldl State.settleOne s)

/-- A launch enters a final state, and the prerequisites that name it are settled (R80, R83, R41). -/
def State.finalize (s : State) (lid code : Nat) : State :=
  let t := s.toFinal lid code
  State.settle t.lu.launches.length t

/-- Launch states name harts that are placed or saved. -/
def Launch.anyPlaced (l : Launch) : Bool := l.hs.any fun h => h.pos = .placed

/-- A stop of the whole launch: with a hart still placed the launch is STOPPING, and each placed hart stops at its next
granule boundary; the launch is final when none is placed (R38, R80, R83). -/
def State.endLaunch (s : State) (lid code cause hart value : Nat) : State :=
  match s.launch? lid with
  | none => s
  | some l =>
    if isFinal l.state || l.ending.isSome then s
    else
      let s := s.updLaunch lid fun l => { l with
        state := 3, ending := some code, cause := cause, causeHart := hart, causeValue := value }
      if l.anyPlaced then
        let mine := s.placed.filter fun h => h.lid = lid
        let s := mine.foldl (fun s h => s.updHart h.hid fun h => { h with stop := some .ended }) s
        s.post (mine.map fun h => .hartStop h.hid)
      else s.finalize lid code

/-- Request a migration of the placed harts of launches that `which` names. -/
def State.migrate (s : State) (which : Hart → Bool) : State :=
  let mine := s.placed.filter fun h => h.lid ≠ 0 ∧ which h ∧ h.stop.isNone
  (mine.foldl (fun s h => s.updHart h.hid fun h => { h with stop := some .migrate }) s).post
    (mine.map fun h => .hartStop h.hid)

-- traps

/-- SUFFIX of TPC: granule(VSTART) mod GRANT for a vector instruction, 0 otherwise (R385). -/
def Hart.tpcOf (h : Hart) (suffix : Nat) : Word :=
  BitVec.ofNat 64 (suffix % 128 * 2 ^ 57 + h.pc.toNat % 2 ^ 57)

/-- Element width that VTYPE names (R108, R113). -/
def widthOf (vtype : Word) : Nat :=
  match bitsAt vtype.toNat 0 3 with
  | 0 => 8
  | 1 => 16
  | 2 => 32
  | 3 => 64
  | _ => bitsAt vtype.toNat 6 4 + 1

/-- The suffix for a trap at VSTART under the current VTYPE and GRANT (R385). -/
def Hart.suffix (h : Hart) : Nat := (h.vstart * widthOf h.vtype / 8192) % h.grant

/-- Trap entry of a hart (R387): the registers that name the trap, and the pc in the handler. -/
def Hart.enter (h : Hart) (code : Nat) (tval : Word) (suffix : Nat) (handler : Option Word) : Hart :=
  let h := { h with
    tpc := h.tpcOf suffix, tcause := BitVec.ofNat 64 (2 ^ 63 + code), tval := tval, fbuf := 0
    run := if h.arriving then .swap else .ready
    exiting := false, begun := Begun.fresh, replies := [], waitTag := none, pri := none, priDone := none }
  match handler with
  | some pc => { h with status := h.status &&& ~~~(0x20000 : Word), pc := pc }
  | none =>
    let pm : Word := if h.super then 0x20000 else 0
    { h with status := ((h.status &&& ~~~(0x20000 : Word)) ||| pm) ||| 0x10000, pc := h.tvec }

/-- Where R386 sends a trap of a task-mode hart. -/
inductive Delivery where
  | handler (pc : Word)
  | supervisor
  /-- The launch ends in a final state with this CAUSE. -/
  | ends (code cause : Nat)
  deriving DecidableEq, Repr

/-- Delivery of a trap raised in task mode (R386). Budget exhausted with no handler stops the hart, and with it the
launch (R38). -/
def deliver (code : Nat) (handler : Word) : Delivery :=
  if code = 4 ∨ code = 5 ∨ code = 8 ∨ code = 12 then .supervisor
  else if handler ≠ 0 then .handler handler
  else if code = 14 then .ends 13 6
  else if code = 9 then .ends 9 0
  else .ends 11 code

/-- Codes of the traps that are raised between instructions and held while ACTIVE is 1 (R387). -/
def asynchronous (code : Nat) : Bool := code == 9 || code == 10

/-- Taking a trap in the acting hart: R386 chooses where it goes, R387 enters it. A synchronous trap of task mode while
ACTIVE is 1 ends the launch with the nested cause; `sync` is false for an event taken at a granule boundary. -/
def takeTrap (sync : Bool) (code : Nat) (tval : Word) (suffix : Nat) (s : State) : State :=
  let h := s.hart
  if h.super then s.withHart fun h => h.enter code tval suffix none
  else
    match s.launch? h.lid with
    | none => s.withHart fun h => h.enter code tval suffix none
    | some l =>
      if h.active && sync then s.endLaunch h.lid 11 (code + 128) h.j tval.toNat
      else
        match deliver code l.handler with
        | .handler pc =>
          let s := s.withHart fun h => h.enter code tval suffix (some pc)
          if code = 9 then s.withHart fun h => l.graceFrom h s.clock else s
        | .supervisor => s.withHart fun h => h.enter code tval suffix none
        | .ends f c => s.endLaunch h.lid f c h.j (if f = 11 then tval.toNat else 0)

/-- What was kept for a waiting instruction that has ended. -/
def Hart.settled (h : Hart) : Hart := { h with replies := [], priDone := none, begun := Begun.fresh }

/-- The acting hart waits: its instruction runs again later, with the completions that had arrived for it. -/
def State.stall (s : State) (asleep : Bool) : State :=
  s.withHart fun h => { h with run := if asleep then .sleep else .stalled }

/-- Run a meaning: a normal end, a trap of suffix 0 or of a vector instruction, or a wait. -/
def Act.run (vector : Bool) (m : Act Unit) (s : State) : Answer :=
  match m s with
  | .ok _ t => .next (t.withHart fun h => { h.settled with run := if h.run == .stalled || h.run == .sleep then .ready else h.run })
  | .error (.trap c v) t =>
    .next (takeTrap true c v (if vector then t.hart.suffix else 0) (t.withHart Hart.settled))
  | .error (.wait asleep kept) t =>
    .next ((t.withHart fun h =>
      if kept then h else { h with replies := if asleep then [] else s.hart.replies }).stall asleep)

/-- The held events of a hart that may be taken: none is held. -/
def Hart.anyHeld (h : Hart) : Bool := h.heldRefusal.isSome || h.heldBudget.isSome || h.heldMember.isSome

/-- Return from a trap (R192, R387): PC from TPC, the mode from PMODE in supervisor mode, ACTIVE cleared; events held
while ACTIVE was 1 are taken at the following boundaries. -/
def trapReturn (s : State) : State :=
  let s := s.withHart fun h =>
    let h := { h with
      pc := (h.tpc.extractLsb' 0 57).signExtend 64
      fbuf := 0
      tcause := h.tcause &&& 0x7FFFFFFFFFFFFFFF }
    if h.super then
      (if h.status.getLsbD 17 then h else { h with status := h.status &&& ~~~(0x10000 : Word) })
    else h
  if s.hart.anyHeld then s.post [.heldEventTake s.hart.hid] else s

/-- The acting instruction of a hart has begun what it does not do again: a request to a device or an atomic is out, its answer
is in, the page fault of a denied access is due, or its granule, or what it stores as a whole, has been performed in part (R170,
R177, R348, R389, R404). A translation request is no such thing, nor is a read of a host's memory. -/
def State.midway (s : State) (h : Hart) : Bool :=
  h.priDone.isSome || h.begun.inside || h.begun.stored != 0 || h.replies.any (·.whole)
    || h.waitTag.any fun t => s.targets.any fun q => q.tag == t && !q.ats && q.whole

/-- The first element of the granule that comes `n` granules after that of VSTART (R118, R144). -/
def Hart.cutAfter (h : Hart) (n : Nat) : Nat :=
  ceilDiv ((h.vstart * widthOf h.vtype / 8192 + n) * 8192) (widthOf h.vtype)

/-- The word of an instruction, which is the trap value of Illegal Instruction (R388). -/
def illegal (i : Instr) (s : State) : Answer := .next (takeTrap true 1 ((encodeWord i).setWidth 64) 0 s)

/-- A vector instruction's failed configuration check (R207, R272): Illegal Instruction for its word, with the suffix of
VSTART (R385). -/
def illegalWord (w : Nat) (s : State) : Answer := .next (takeTrap true 1 (wordOfNat w) s.hart.suffix s)

end Sys2Proof.Machine
end

