-- ==== Sys2Proof/Machine/Random.lean ====
section
/-!
DEFINITION. The riffle generator and its draws (R166, R118).
-/

namespace Sys2Proof.Machine

/-- `rotl32` of R118. -/
def rotl32 (x n : Nat) : Nat :=
  let k := n % 32
  x * 2 ^ k % 2 ^ 32 + x % 2 ^ 32 / 2 ^ (32 - k)

/-- The words w0 to w3 of the generator (R166). -/
structure Riffle where
  w0 : Nat
  w1 : Nat
  w2 : Nat
  w3 : Nat
  deriving DecidableEq, Repr

/-- Round `r` of R166. -/
def Riffle.round (key : Nat) (r : Nat) (w : Riffle) : Riffle :=
  let w0 := (w.w0 + w.w1 + (if r % 2 = 0 then key % 2 ^ 32 else key / 2 ^ 32 % 2 ^ 32)) % 2 ^ 32
  let w3 := rotl32 (w.w3 ^^^ w0) 16
  let w2 := (w.w2 + w3 + (r + 1) * 0x9E3779B9) % 2 ^ 32
  let w1 := rotl32 (w.w1 ^^^ w2) 12
  ⟨w0, w1, w2, w3⟩

/-- Rounds 0 to n - 1. -/
def Riffle.rounds (key : Nat) : Nat → Riffle → Riffle
  | 0, w => w
  | n + 1, w => Riffle.round key n (Riffle.rounds key n w)

/-- `riffle(K, C, S)` (R166). -/
def riffle (key counter stream : Nat) : Nat :=
  let w := Riffle.rounds key 8
    ⟨counter % 2 ^ 32, counter / 2 ^ 32 % 2 ^ 32, stream % 2 ^ 32, (key % 2 ^ 32) ^^^ (key / 2 ^ 32 % 2 ^ 32)⟩
  (w.w1 ^^^ w.w3) * 2 ^ 32 + (w.w0 ^^^ w.w2)

/-- `d24` of R118. -/
def d24 (x : Nat) : Nat := bitsAt x 40 24

/-- The draw of dynamic stochastic rounding for element `i` of the instruction at `pc` (R154). -/
def dynamicDraw (seed pc i : Nat) : Nat := d24 (riffle seed ((pc * 2 ^ 17 + i) % 2 ^ 64) 0xFFFFFFFF)

end Sys2Proof.Machine
end

