-- ==== Sys2Proof/Machine/Operands.lean ====
section
/-!
DEFINITION. Operand forms: immediates, targets and addresses (R113, R172, R173, R177, R181), elements of vector
registers and groups (R95, R108, R118, R206), guards and active elements (R9), and the rounding mode with its draw
(R152, R154, R174).
-/

namespace Sys2Proof.Machine

-- scalar operand forms

/-- A signed immediate of 16 bits (R172). -/
def imm16 (i : BitVec 16) : Word := i.signExtend 64

/-- The value of LHI and PCHI: sext(imm21, 21) * 2^16 (R173). -/
def immHigh (i : BitVec 21) : Word := i.signExtend 64 <<< 16

/-- A branch target: PC + 4 * sext(off, n) (R113). -/
def target {n : Nat} (pc : Word) (off : BitVec n) : Word := pc + off.signExtend 64 * 4

/-- The address of LD and ST: x[a] + sext(off13, 13) (R177). -/
def State.addr13 (s : State) (a : Reg) (o : BitVec 13) : Word := s.rx a + o.signExtend 64

/-- A scope of a field SC (R111): 0 hart, 1 core, 2 die, 3 pkg, 4 host, 5 view, 6 fabric, 7 sys. -/
def scopeOf (sc : Num3) : Nat := sc.toNat

-- the configuration of a vector instruction

/-- Element width, whether bit-sliced, group size and elements per register (R95, R108, R118). -/
structure VCfg where
  w : Nat
  sliced : Bool
  gm : Nat
  per : Nat
  deriving DecidableEq, Repr

/-- EW of VTYPE (R108). -/
def Hart.ew (h : Hart) : Nat := bitsAt h.vtype.toNat 0 3

/-- ALT of VTYPE. -/
def Hart.alt (h : Hart) : Bool := h.vtype.getLsbD 3

/-- GM of VTYPE. -/
def gmOf (vtype : Word) : Nat := 2 ^ bitsAt vtype.toNat 4 2

/-- The configuration that VTYPE and GRANT give (R95). -/
def Hart.cfg (h : Hart) : VCfg :=
  let w := widthOf h.vtype
  ⟨w, h.ew == 4, gmOf h.vtype, h.grant * 8192 / w⟩

/-- The configuration of a narrow group of width `nw` beside operands of width `ww` (R227). -/
def Hart.narrow (h : Hart) (nw ww : Nat) : VCfg :=
  ⟨nw, false, max 1 (gmOf h.vtype * nw / ww), h.grant * 8192 / nw⟩

/-- `maxvl` of R212. -/
def maxVl (vtype : Word) (grant : Nat) : Nat := min (gmOf vtype * (grant * 8192 / widthOf vtype)) 65536

/-- An admitted VTYPE (R211). -/
def admitted (v : Word) : Bool :=
  let ew := bitsAt v.toNat 0 3
  v.toNat < 1024 && ew ≤ 4 && (ew == 4 || bitsAt v.toNat 6 4 == 0) && (ew ≤ 1 || bitsAt v.toNat 3 1 == 0)

/-- The floating format that VTYPE names (R206). -/
def Hart.ffmt (h : Hart) : Fmt :=
  match h.ew with
  | 1 => if h.alt then bf16 else f16
  | 2 => f32
  | _ => f64

/-- The row of R206 has floating elements. -/
def Hart.floatRow (h : Hart) : Bool := 1 ≤ h.ew && h.ew ≤ 3

-- elements

/-- Bits of element at position p of a register under a configuration (R118). -/
def regElem (c : VCfg) (v p : Nat) : Nat :=
  if c.sliced then ((List.range c.w).map fun j => bitsAt v (j * c.per + p) 1 * 2 ^ j).sum
  else bitsAt v (p * c.w) c.w

/-- Replace `n` bits at `lo`. -/
def setBits (v lo n x : Nat) : Nat := v - bitsAt v lo n * 2 ^ lo + x % 2 ^ n * 2 ^ lo

/-- A register with the element at position p replaced (R118). -/
def regSetElem (c : VCfg) (v p x : Nat) : Nat :=
  if c.sliced then (List.range c.w).foldl (fun v j => setBits v (j * c.per + p) 1 (bitsAt x j 1)) v
  else setBits v (p * c.w) c.w x

/-- A vector register. -/
def Hart.vreg (h : Hart) (r : Nat) : Nat := (h.v[r]?).getD 0

/-- A mask register. -/
def Hart.kreg (h : Hart) (r : Nat) : Nat := (h.k[r]?).getD 0

/-- `elem(v, i)` for a group with base `b` (R118). -/
def Hart.elem (h : Hart) (c : VCfg) (b i : Nat) : Nat := regElem c (h.vreg (b + i / c.per)) (i % c.per)

/-- The words of 64 bits of a register that hold the element at position p. -/
def elemWords (c : VCfg) (p : Nat) : List Nat :=
  if c.sliced then (List.range c.w).map fun j => (j * c.per + p) / 64 else [p * c.w / 64]

/-- `setelem(v, i, x)` (R118); a written word is no longer poisoned (R405). -/
def Hart.setElem (h : Hart) (c : VCfg) (b i x : Nat) : Hart :=
  let r := b + i / c.per
  let p := i % c.per
  { h with
    v := h.v.setIfInBounds r (regSetElem c (h.vreg r) p x)
    poison := h.poison.filter fun q => !(q.file == 0 && q.reg == r && (elemWords c p).contains q.idx) }

/-- The words that hold element i of a group are poisoned (R405). -/
def Hart.poisonElem (h : Hart) (c : VCfg) (b i : Nat) : Hart :=
  let ws := (elemWords c (i % c.per)).map fun w => (⟨0, b + i / c.per, w⟩ : RegPoison)
  { h with poison := h.poison ++ ws.filter fun w => !h.poison.contains w }

/-- Bit i of a mask register. -/
def Hart.maskBit (h : Hart) (k i : Nat) : Bool := (h.kreg k).testBit i

/-- A mask register with bit i written. -/
def Hart.setMaskBit (h : Hart) (k i : Nat) (b : Bool) : Hart :=
  { h with
    k := h.k.setIfInBounds k (setBits (h.kreg k) i 1 (if b then 1 else 0))
    poison := h.poison.filter fun q => !(q.file == 1 && q.reg == k && q.idx == i / 64) }

/-- A whole mask register written. -/
def Hart.setMask (h : Hart) (k x : Nat) : Hart :=
  { h with
    k := h.k.setIfInBounds k (x % 2 ^ 65536)
    poison := h.poison.filter fun q => !(q.file == 1 && q.reg == k) }

-- guards and active elements

/-- The guard lets element i act (R9). -/
def Hart.guardBit (h : Hart) (kg : Num3) (i : Nat) : Bool := kg = 0 || h.maskBit kg.toNat i

/-- The active elements in [VSTART, VL), ascending (R9). -/
def Hart.actives (h : Hart) (kg : Num3) : List Nat :=
  ((List.range h.vl).drop h.vstart).filter (h.guardBit kg)

-- poison of register state

/-- A register operand that an instruction reads at element i (R405). -/
inductive Src where
  | vec (c : VCfg) (b : Nat)
  | mask (k : Nat)
  /-- A scale of `w` bits in register `b` for every `blk` elements (R231). -/
  | scale (b w blk : Nat)
  deriving DecidableEq, Repr

/-- The trap value of a poisoned register word (R405). -/
def regPoisonTval (file reg elem : Nat) : Word :=
  BitVec.ofNat 64 (2 ^ 63 + file * 2 ^ 61 + reg % 32 * 2 ^ 56 + elem % 2 ^ 17)

/-- The trap value when reading element i of a source finds a poisoned word. -/
def Hart.srcPoison (h : Hart) (src : Src) (i : Nat) : Option Word :=
  match src with
  | .vec c b =>
    let r := b + i / c.per
    let ws := elemWords c (i % c.per)
    if h.poison.any fun q => q.file == 0 && q.reg == r && ws.contains q.idx then some (regPoisonTval 0 r i) else none
  | .scale b w blk =>
    if h.poison.any fun q => q.file == 0 && q.reg == b && q.idx == i / blk * w / 64 then some (regPoisonTval 0 b i) else none
  | .mask k => if h.poison.any fun q => q.file == 1 && q.reg == k && q.idx == i / 64 then some (regPoisonTval 1 k i) else none

/-- The first element of [VSTART, VL) whose guard or, if it is active, one of whose sources is poisoned. -/
def Hart.firstPoison (h : Hart) (kg : Num3) (srcs : List Src) : Option (Nat × Word) :=
  if h.poison.isEmpty then none
  else
    ((List.range h.vl).drop h.vstart).findSome? fun i =>
      let g := if kg = 0 then none else h.srcPoison (.mask kg.toNat) i
      let p := match g with
        | some t => some t
        | none => if h.guardBit kg i then srcs.findSome? fun x => h.srcPoison x i else none
      p.map fun t => (i, t)

-- rounding

/-- Rounding under FRM for element i (R152, R154). -/
def Hart.rounding (h : Hart) (i : Nat) : Rounding :=
  ⟨h.frm, if h.frm = 5 then dynamicDraw h.seed.toNat h.pc.toNat i else 0⟩

/-- Rounding under a field RM of SFPU: 0b111 is dyn (R174); SR draws as R154 gives (R175). -/
def Hart.roundingRm (h : Hart) (rm : Num3) : Rounding :=
  let m := if rm = 7 then h.frm else rm.toNat
  ⟨m, if m = 5 then dynamicDraw h.seed.toNat h.pc.toNat 0 else 0⟩

/-- A mask is the destination of a CPYGS that has not completed (R301). -/
def State.maskBusy (s : State) (k : Nat) : Bool :=
  s.ops.any fun o => o.lid == s.hart.lid && o.j == s.hart.j && (o.lid != 0 || o.hid == s.hart.hid) &&
    (match o.kind with
     | .gather kr _ | .waits (.rows kr ..) _ _ => kr == k
     | _ => false)

end Sys2Proof.Machine
end

