-- ==== Sys2Proof/Machine/Gauge.lean ====
section
/-!
DEFINITION. What a gauge check leaves behind: strikes, retired lanes, fenced units and arrays out of service (R14, R146,
R245, R406, R407), and the place of a checked element (R388, R445).
-/

namespace Sys2Proof.Machine

/-- WHERE of R420 for a place of a lane or an array. -/
def placeCode (p : Place) : Nat := p.die * 2 ^ 24 + p.lgrp * 2 ^ 16 + p.unit * 2 ^ 8 + (if p.lane = 255 then 0 else p.lane)

/-- The journal's DETAIL for a place: as WHERE, with lane 255 kept for an array. -/
def placeDetail (p : Place) : Nat := p.die * 2 ^ 24 + p.lgrp * 2 ^ 16 + p.unit * 2 ^ 8 + p.lane

/-- Change the units in service. -/
def State.updUnits (s : State) (f : Units → Units) : State := { s with svc := { s.svc with units := f s.svc.units } }

/-- The LANES record changes: SEQ goes to the next even value (R44). -/
def State.bumpLanes (s : State) : State := s.updUnits fun u => { u with seqLanes := u.seqLanes + 2 }

/-- The GRANT record changes. -/
def State.bumpGrant (s : State) : State := s.updUnits fun u => { u with seqGrant := u.seqGrant + 2 }

/-- Write a journal entry in the place of the one for its step and unit (R416); under step 7 each lost place of a die has
its own entry, which replaces the die's passed one. -/
def journalPut (e : JEntry) (j : List JEntry) : List JEntry :=
  (j.filter fun o => !(o.step == e.step && o.unit == e.unit
    && (e.step != 7 || o.outcome == 0 || o.detail == e.detail))) ++ [e]

/-- Enter an outcome into the journal. -/
def State.journal (s : State) (e : JEntry) : State :=
  { s with svc := { s.svc with journal := journalPut e s.svc.journal } }

/-- Enter a lane or unit into the boot journal under step 7 (R406, R416). -/
def State.journalLane (s : State) (alt : Nat) (p : Place) : State :=
  s.journal ⟨7, p.die, 2, alt, s.svc.bootCount, placeDetail p⟩

/-- Free values, one for each hart in order: does it hold, and how many were taken. -/
def State.chooseHarts (s : State) (f : Nat → Bool) (hs : List (Nat × Nat)) : List (Nat × Nat) × State :=
  (((List.range hs.length).zip hs).filterMap (fun p => if f (s.draw + p.1) then some p.2 else none),
    { s with draw := s.draw + hs.length })

/-- Harts of launches that are not final, by launch and index, that are placed or saved. -/
def State.liveHarts (s : State) : List (Nat × Nat) :=
  s.live.flatMap fun l => (List.range l.hs.length).filterMap fun j =>
    match l.hs[j]? with
    | some r => if r.pos = .placed ∨ r.pos = .saved then some (l.lid, j) else none
    | none => none

/-- Mark harts whose registers cannot stay at their grant (R407). -/
def State.markLost (s : State) (hs : List (Nat × Nat)) : State :=
  hs.foldl (fun s p => s.updLaunch p.1 fun l => { l with hs := l.hs.modify p.2 fun r => { r with lostGrant := true } }) s

/-- SIMD_UNIT_FENCE (R407): 192 KiB of the die's pool leaves service; the harts whose storage lies there are stopped, a set
that the manual leaves open; the refit is the next entry of the admission order (R82). -/
def State.fenceUnit (s : State) (p : Place) : State :=
  let s := s.updUnits fun u => { u with fenced := u.fenced ++ [⟨p.die, p.lgrp, p.unit, 0⟩] }
  let s := ((s.bumpLanes.bumpGrant).logEvent 5 (placeCode p) 0).journalLane 2 p
  let (moved, s) := s.chooseHarts Config.storedIn s.liveHarts
  let (lost, s) := s.chooseHarts Config.cannotStay moved
  let s := ((s.markLost lost).migrate fun h => moved.contains (h.lid, h.j)).trackGrant
  { s with inbox := .refit :: s.inbox }

/-- A core is fenced (R82, R86), core 0 excepted: its harts are stopped and saved, and so are those of classes 0 to 2 on slots that
become floor slots (R72, R84); the refit is the next entry of the admission order. -/
def State.fenceCore (s : State) (core : Nat) : State :=
  if core = 0 ∨ !s.svc.units.coreIn core then s
  else
    let s := s.updUnits fun u => { u with coresOut := u.coresOut ++ [core] }
    let floor := s.svc.units.floorSlots
    let s := s.migrate fun h => h.hid / 16 == core || (floor.contains h.hid && ((s.launch? h.lid).map (·.cls)) != some 3)
    { s with inbox := .refit :: s.inbox }

/-- LANE_RETIRE (R146): the lane gives way to its unit's spare; a unit whose spare is in use is fenced instead. -/
def State.retireLane (s : State) (p : Place) : State :=
  if s.svc.units.retiredIn p.die p.lgrp p.unit = 0 then
    ((s.updUnits fun u => { u with retired := u.retired ++ [p] }).bumpLanes.logEvent 4 (placeCode p) 0).journalLane 1 p
  else s.fenceUnit p

/-- ARRAY_OUT_OF_SERVICE (R146, R245). -/
def State.loseArray (s : State) (p : Place) : State :=
  ((s.updUnits fun u => { u with arraysOut := u.arraysOut ++ [p] }).bumpLanes.logEvent 6 (placeCode p) 0).journalLane 1 p

/-- A strike on a place in service; the second one takes it out (R146). The place of R445 may lie in a fenced unit, whose share
another unit computes: then no lane has a strike (DESIGN CHOICE: log 74). -/
def State.strike (s : State) (p : Place) : State :=
  let u := s.svc.units
  if u.retired.contains p || u.arraysOut.contains p || (p.lane ≠ 255 && u.isFenced p.die p.lgrp p.unit) then s
  else
    let second := u.strikes.contains p
    let s := (s.updUnits fun u => { u with strikes := u.strikes ++ [p] }).logEvent 3 (placeCode p) 0
    if !second then s else if p.lane = 255 then s.loseArray p else s.retireLane p

/-- The place where element `i` of an instruction is first computed on lane die `die` (R445). -/
def State.gaugePlace (s : State) (die i : Nat) : Place :=
  let h := s.hart
  let w := widthOf h.vtype
  let lgrp := (i * w / 8192) % h.grant % 64
  let lane := i * w % 8192 / 64
  let unit := lane / 32
  let below := s.svc.units.retired.any fun p => p.die == die && p.lgrp == lgrp && p.unit == unit && p.lane ≤ lane % 32
  ⟨die, lgrp, unit, lane % 32 + if below then 1 else 0⟩

/-- The trap value of a gauge mismatch at element `i` computed on lane die `die` (R388, R445). -/
def State.gaugeValue (s : State) (die i : Nat) : Word :=
  let p := s.gaugePlace die i
  wordOfNat (p.die * 2 ^ 62 + p.lgrp * 2 ^ 56 + p.unit * 2 ^ 54 + p.lane * 2 ^ 48 + i % 2 ^ 17)

/-- The check of an instruction over its elements to check: with one, the report is used up, and a lane that computed one of
them receives its strike (R145, R146, R445). -/
def State.settleGauge (s : State) (acts : List Nat) (dieOf : Nat → Nat) : State :=
  match s.hart.gauge with
  | none => s
  | some r =>
    if acts.isEmpty then s
    else
      let t := s.withHart fun h => { h with gauge := none }
      match r with
      | .strike d g u l => if acts.any fun i => s.gaugePlace (dieOf i) i == ⟨d, g, u, l⟩ then t.strike ⟨d, g, u, l⟩ else t
      | _ => t

end Sys2Proof.Machine
end

