-- ==== Sys2Proof/Machine/Places.lean ====
section
/-!
DEFINITION. Stretches of memory: a range of virtual addresses as places (R446), reading, writing
and copying such stretches with their poison (R298, R405), and the address space of a launch (R397).
-/

namespace Sys2Proof.Machine

/-- Cut `n` bytes from a virtual address on into pieces within lines of 128 bytes, the unit that has one home (R99). -/
def pieces : Nat → Nat → Nat → List (Nat × Nat)
  | 0, _, _ => []
  | f + 1, va, n =>
    if n = 0 then []
    else
      let k := min n (128 - va % 128)
      (va % 2 ^ 64, k) :: pieces f (va + k) (n - k)

/-- The pieces of a range. -/
def piecesOf (va n : Nat) : List (Nat × Nat) := pieces (n / 128 + 2) va n

/-- Translate every piece with one translator; a failure names the code and the address. -/
def spanWith (tr : State → Nat → Except Nat (Loc × State)) :
    List (Nat × Nat) → State → Except (Nat × Nat) (List Seg × State)
  | [], s => .ok ([], s)
  | (va, n) :: ps, s =>
    match tr s va with
    | .error c => .error (c, va)
    | .ok (loc, s') =>
      match spanWith tr ps s' with
      | .error e => .error e
      | .ok (segs, t) => .ok (⟨loc, n⟩ :: segs, t)

/-- A range in the acting hart's address space, windows included. -/
def Act.span (va n : Nat) (acc : Access) (lanes : Bool := false) : Act (List Seg) := do
  let s ← get
  match spanWith (fun s va => s.xlateOnce va acc lanes) (piecesOf va n) s with
  | .ok (segs, t) => set t; pure segs
  | .error (c, a) => Act.trap c (wordOfNat a)

/-- Ranges of an operation: address, bytes, access. -/
abbrev Range := Nat × Nat × Access

/-- Translate ranges in ascending address (R308), range `i` by `span i`; the answer has them in the order given. -/
def Act.rangesBy (span : Nat → Range → Act (List Seg)) (rs : List Range) : Act (List (List Seg)) := do
  let order := (List.range rs.length).insertionSort fun i j => (rs.getD i (0, 0, .read)).1 ≤ (rs.getD j (0, 0, .read)).1
  let got ← order.mapM fun i => do
    let gs ← span i (rs.getD i (0, 0, .read))
    pure (i, gs)
  pure ((List.range rs.length).map fun i => ((got.find? fun p => p.1 = i).map (·.2)).getD [])

/-- Ranges in the acting hart's address space. -/
def Act.ranges (rs : List Range) : Act (List (List Seg)) := Act.rangesBy (fun _ r => Act.span r.1 r.2.1 r.2.2) rs

/-- A range that the hart itself accesses (R298, R308). -/
def Act.reachAll (va n : Nat) (acc : Access) (lanes : Bool := false) : Act (List Seg) := do
  let gs ← Act.span va n acc lanes
  let s ← get
  Act.waitUntil (!gs.any fun g => s.engineHolds g.loc)
  pure gs

/-- The pages of hosts among places that a store will reach are granted first (R404). -/
def Act.pushAll : List Loc → Act Unit
  | [] => pure ()
  | l :: ls => do
    Act.storePage l
    Act.pushAll ls

/-- The pages of hosts among places that a unit will read are granted first (R404). -/
def Act.grantReads : List Seg → Act Unit
  | [] => pure ()
  | g :: gs => do
    match g.loc with
    | .hostb port va => Act.hostPage port va .read
    | _ => pure ()
    Act.grantReads gs

/-- The address space bound to a pair (R397). -/
def State.bindingOf (s : State) (port pasid : Nat) : Option Binding :=
  s.lu.bindings.find? fun b => b.port = port ∧ b.pasid = pasid

/-- An address of one of the two windows that no page table maps: the capability window, or the scratchpad window as the launch
unit sets it (R42, R88). -/
def inWindows (va : Nat) : Bool := capBase ≤ va && va < 2 ^ 64

/-- Translation by the launch unit in the address space of a pair (R70, R36, R392): task pages, never a mapping of a window. It goes
through the second level of the cores (R250; which cache is open: DESIGN CHOICE, log 70). -/
def State.xlatePair (s : State) (port pasid : Nat) (acc : Access) (va : Nat) : Except Nat (Loc × State) :=
  match s.bindingOf port pasid with
  | none => .error accessFault
  | some b => if inWindows va then .error accessFault else s.xlateIn [32] b.asid b.root true va acc

/-- A range in the address space of a pair. -/
def State.spanPair (s : State) (port pasid va n : Nat) (acc : Access) : Except (Nat × Nat) (List Seg × State) :=
  spanWith (fun s va => s.xlatePair port pasid acc va) (piecesOf va n) s

/-- The place `k` bytes further on. -/
def Loc.plus (l : Loc) (k : Nat) : Loc :=
  match l with
  | .dev a sy => .dev (a + k) sy
  | .scr c i off => .scr c i (off + k)
  | .cap off => .cap (off + k)
  | .io pa => .io (pa + k)
  | .hostb p va => .hostb p (va + k)

/-- The address that a place's alignment follows. -/
def Loc.within : Loc → Nat
  | .dev a _ => a
  | .scr _ _ off => off
  | .cap off => off
  | .io pa => pa
  | .hostb _ va => va

/-- The places from byte `k` on, `n` bytes long. -/
def segsAt : List Seg → Nat → Nat → List Seg
  | [], _, _ => []
  | g :: gs, k, n =>
    if n = 0 then []
    else if g.len ≤ k then segsAt gs (k - g.len) n
    else
      let m := min n (g.len - k)
      ⟨g.loc.plus k, m⟩ :: segsAt gs 0 (n - m)

/-- Bytes of a place of memory, poison aside; a place outside the module reads as zero here. -/
def State.bytesAt (s : State) (loc : Loc) (n : Nat) : List Byte :=
  match loc with
  | .dev a _ => cellsGet s.mem a n
  | .scr c l off => ((s.region? c l).map fun r => cellsGet r.cells off n).getD (List.replicate n 0)
  | .cap off => (List.range n).map fun i => s.capByte (off + i)
  | _ => List.replicate n 0

/-- Bytes of a stretch. -/
def State.segBytes (s : State) (gs : List Seg) : List Byte := (gs.map fun g => s.bytesAt g.loc g.len).flatten

/-- Some byte of a stretch is poisoned. -/
def State.segsPoisoned (s : State) (gs : List Seg) : Bool := gs.any fun g => s.poisonedAt g.loc g.len

/-- Bytes that a stretch holds, as a number, least significant first. -/
def State.segNat (s : State) (gs : List Seg) : Nat := natOfBytes (s.segBytes gs)

/-- A line of a verified image, which is write-protected (R29). -/
def State.pinned (s : State) (line : Nat) : Bool := s.lu.images.any fun i => i.pins.contains line

/-- A unit's write to a device or a host leaves as a write request, which its target acknowledges (R254). -/
def State.sendWrite (s : State) (loc : Loc) (bs : List Byte) : State :=
  { s with
    nextTag := s.nextTag + 1
    targets := s.targets ++ [⟨s.nextTag, s.hart.hid, true, false, true, loc, s.pasid, false, false⟩]
    outbox := s.outbox ++ [.writeReq s.nextTag s.pasid loc bs] }

/-- Tags of the requests that have gone out between two states. -/
def State.tagsFrom (t s : State) : List Nat := List.range' s.nextTag (t.nextTag - s.nextTag)

/-- A unit writes bytes over a stretch, its lines moving as `via` says (R255). A write reaches the page that its translation named,
whatever has become of that page since (R446). -/
def State.segWriteVia (via : Via) (s : State) : List Seg → List Byte → State
  | [], _ => s
  | g :: gs, bs =>
    let here := bs.take g.len
    let t := if g.loc.outside then s.sendWrite g.loc here else (s.moves via true g.loc g.len).putAt g.loc here
    State.segWriteVia via t gs (bs.drop g.len)

/-- A unit that keeps no copy of the lines writes over a stretch. -/
def State.segWrite (s : State) (gs : List Seg) (bs : List Byte) : State := State.segWriteVia .passing s gs bs

/-- Give a word its new value in one step at its home (R261, R287, R310). -/
def State.setWord (s : State) (w : Loc) (v : Nat) : State :=
  match w with
  | .dev .. => (s.moves .atomic true w 8).putAt w (bytesOf v 8)
  | _ => s.putAt w (bytesOf v 8)

/-- What a unit does on behalf of a launch: its requests to devices and hosts carry the PASID of that launch (R403). -/
def State.onBehalf (s : State) (lid : Nat) (f : State → State) : State :=
  (f (s.withHart fun h => { h with lid := lid })).withHart fun h => { h with lid := s.hart.lid }

/-- The acting hart stores bytes over a stretch (R254, R256). -/
def State.storeSegs (s : State) : List Seg → List Byte → State
  | [], _ => s
  | g :: gs, bs => (s.storeAt g.loc (bs.take g.len)).storeSegs gs (bs.drop g.len)

/-- An element, or a piece, that performs in its turn: its number, its place, and what it does. -/
structure Piece where
  elem : Nat
  loc : Option Loc
  act : State → State

/-- A place has to wait for the hart's older stores outside the module: accesses of one host port keep their order there
(R263, R348). -/
def State.behind (s : State) (loc : Option Loc) : Bool :=
  match loc with
  | some (.hostb p _) => s.targets.any fun q => s.hart.unacked.contains q.tag && (match q.loc with
      | .hostb p' _ => p' != p
      | _ => true)
  | _ => !s.hart.unacked.isEmpty

/-- Perform in order; what lies outside the module performs before the next (R348). `mark` notes what is the first to wait. -/
def Act.perform (mark : Piece → State → State) : List Piece → Act Unit
  | [] => pure ()
  | p :: ps => do
    let s ← get
    if s.behind p.loc then do
      Act.upd (mark p)
      throw (.wait false true)
    else do
      Act.upd p.act
      Act.perform mark ps

/-- Note how many pieces of what an instruction stores as a whole have been performed. -/
def markStored (p : Piece) (s : State) : State := s.withBegun fun b => { b with stored := p.elem }

/-- Read the bytes of a stretch, places outside the module included, one piece after another (R404). -/
def Act.pull (gs : List Seg) (lane : Option Nat := none) : Act (List Byte) :=
  match gs with
  | [] => pure []
  | g :: gs => do
    let b ← Act.readAt g.loc g.len lane
    let bs ← Act.pull gs lane
    pure (b ++ bs)

/-- A unit reads a stretch, its lines moving as `via` says (R255). -/
def State.segReadVia (via : Via) (s : State) (gs : List Seg) : State := gs.foldl (fun s g => s.moves via false g.loc g.len) s

/-- A unit that keeps no copy reads a stretch: an owner's copy of a line becomes shared (R263). -/
def State.segRead (s : State) (gs : List Seg) : State := State.segReadVia .passing s gs

/-- Mark the bytes of a place poisoned: whole lines of device memory, whole 8-byte words of scratchpad (R266, R269). -/
def State.poisonLoc (s : State) (loc : Loc) (n : Nat) : State :=
  if n = 0 then s else
  match loc with
  | .dev a _ =>
    let lines := (List.range ((a + n - 1) / 128 + 1 - a / 128)).map (· + a / 128)
    { s with coh := lines.foldl Coherence.spoil s.coh }
  | .scr c l off =>
    let words := (List.range ((off + n - 1) / 8 + 1 - off / 8)).map (· + off / 8)
    s.updRegion c l fun r => { r with bad := r.bad ++ words.filter fun w => !r.bad.contains w }
  | _ => s

/-- The bytes [a, a + n) all lie in the stretches, each an address and a length. -/
def coveredBy (ps : List (Nat × Nat)) (a n : Nat) : Bool :=
  (List.range n).all fun i => ps.any fun p => p.1 ≤ a + i && a + i < p.1 + p.2

/-- What one store instruction wrote as a whole: a line, or a scratchpad word, all of whose bytes it covers is no longer
poisoned (R266, R269). -/
def State.mend (s : State) (gs : List Seg) : State :=
  if s.coh.poison.isEmpty && s.coh.taint.isEmpty && s.regions.all fun r => r.bad.isEmpty then s
  else
    let dev := gs.filterMap fun g => match g.loc with
      | .dev a _ => some (a, g.len)
      | _ => none
    let scr (core lid : Nat) := gs.filterMap fun g => match g.loc with
      | .scr c l off => if c = core ∧ l = lid then some (off, g.len) else none
      | _ => none
    { s with
      coh := s.coh.mend fun l => coveredBy dev (128 * l) 128
      regions := s.regions.map fun r => { r with bad := r.bad.filter fun w => !coveredBy (scr r.core r.lid) (8 * w) 8 } }

/-- Offsets of the 8-byte words of a stretch of `n` bytes that read poisoned. -/
def State.badWords (s : State) (gs : List Seg) (n : Nat) : List Nat :=
  if !s.segsPoisoned gs then []
  else ((List.range ((n + 7) / 8)).map (8 * ·)).filter fun o => s.segsPoisoned (segsAt gs o (min 8 (n - o)))

/-- Poison 8-byte words of a stretch, by offset. -/
def State.poisonWords (s : State) (gs : List Seg) (n : Nat) (offs : List Nat) : State :=
  offs.foldl (fun s o => (segsAt gs o (min 8 (n - o))).foldl (fun s g => s.poisonLoc g.loc g.len) s) s

/-- Copy a stretch over another of the same length, poison with it (R298). -/
def State.segCopy (s : State) (src dst : List Seg) (n : Nat) : State :=
  let bad := s.badWords src n
  ((s.segRead src).segWrite dst (s.segBytes src)).poisonWords dst n bad

end Sys2Proof.Machine
end

