-- ==== Sys2Proof/Machine/Creg.lean ====
section
/-!
DEFINITION. Control registers: what each reads and what a write stores (R106 to R109, R234, R236, R287, R360, R384,
R385, R396), major 0x1C (R196), and the events that are such writes.
-/

namespace Sys2Proof.Machine

/-- Whether a control register may be read, and written, in a mode (R106). -/
def cregAccess (super : Bool) (n : Nat) : Bool × Bool :=
  if n ∈ [0x002, 0x006, 0x010, 0x020, 0x022, 0x025] || (0x060 ≤ n && n ≤ 0x067) then (true, true)
  else if n ∈ [0x000, 0x001, 0x004, 0x005, 0x023, 0x024, 0x032, 0x080] then (true, super)
  else if n ∈ [0x011, 0x021, 0x030, 0x031, 0x052, 0x053] then (super, super)
  else if n ∈ [0x003, 0x040, 0x041, 0x042, 0x050, 0x051, 0x0F0] || (0x070 ≤ n && n ≤ 0x073) then (true, false)
  else (false, false)

/-- MVL as a register (R236). -/
def Hart.mvl (h : Hart) : Word := wordOfNat (h.mrows + h.mcols * 256)

/-- The promised time of a launch, t_m + BOUND × 4,096; zero before t_m is known (R81). -/
def Launch.promised (l : Launch) : Nat :=
  match l.tmet with
  | some t => t + l.bound * 4096
  | none => 0

/-- What a control register holds (R106). -/
def cregRead (s : State) (n : Nat) : Word :=
  let h := s.hart
  if 0x060 ≤ n ∧ n ≤ 0x067 then (h.wm[n - 0x060]?).getD 0
  else if 0x070 ≤ n ∧ n ≤ 0x073 then wordOfNat (s.svc.units.lanesWord (n - 0x070))
  else
    match n with
    | 0x000 => wordOfNat h.vl
    | 0x001 => h.vtype
    | 0x002 => wordOfNat h.vstart
    | 0x003 => wordOfNat h.grant
    | 0x004 => h.mvl
    | 0x005 => wordOfNat h.ifmt
    | 0x006 => wordOfNat h.slip
    | 0x010 => h.seed
    | 0x011 => s.lu.dseed
    | 0x020 => h.status
    | 0x021 => h.tvec
    | 0x022 => h.tpc
    | 0x023 => h.tcause
    | 0x024 => h.tval
    | 0x025 => h.tscratch
    | 0x030 => wordOfNat h.asid
    | 0x031 => h.ptroot
    | 0x032 => h.spbase
    | 0x040 => wordOfNat h.hid
    | 0x041 => wordOfNat h.lid
    | 0x042 => wordOfNat capBase
    | 0x050 => wordOfNat (s.budgetLeft h)
    | 0x051 => wordOfNat ((s.myLaunch.map Launch.promised).getD 0)
    | 0x052 => wordOfNat s.lu.rmin0
    | 0x053 => wordOfNat s.lu.rmin1
    | 0x080 => h.viewnote
    | 0x0F0 => wordOfNat s.clock
    | _ => 0

-- registers whose writes have behaviour of their own

/-- A write of STATUS (R107): flags and FRM, of which 0b110 and 0b111 are not stored; PMODE in supervisor mode; MODE
never. -/
def Hart.writeStatus (h : Hart) (v : Word) : Hart :=
  let keepFrm : Word := if 6 ≤ bitsAt v.toNat 5 3 then 0 else 0xE0
  let mask : Word := 0x1F ||| keepFrm ||| (if h.super then 0x20000 else 0)
  { h with status := (h.status &&& ~~~mask) ||| (v &&& mask) }

/-- A write of VTYPE (R108): an admitted combination is stored and clamps VL; another leaves both. -/
def Hart.writeVtype (h : Hart) (v : Word) : Hart :=
  let v : Word := v &&& 0x3FF
  if admitted v then { h with vtype := v, vl := min h.vl (maxVl v h.grant) } else h

/-- A write of VL (R108). -/
def Hart.writeVl (h : Hart) (v : Word) : Hart := { h with vl := min (bitsAt v.toNat 0 17) (maxVl h.vtype h.grant) }

/-- A write of SLIP (R109). -/
def Hart.writeSlip (h : Hart) (v : Word) : Hart := { h with slip := max 1 (min (bitsAt v.toNat 0 5) 16) }

/-- A write of MTYPE (R234): the tiles never change. -/
def Hart.writeMtype (h : Hart) (v : Word) : Hart :=
  let f := bitsAt v.toNat 0 4
  if f ≤ 8 then { h with ifmt := f } else h

/-- A write of MVL (R236). -/
def Hart.writeMvl (h : Hart) (v : Word) : Hart :=
  { h with mrows := min (bitsAt v.toNat 0 8) 32, mcols := min (bitsAt v.toNat 8 8) 32 }

/-- A write of SPBASE (R88): the window stays aligned to its 4 MiB. -/
def Hart.writeSpbase (h : Hart) (v : Word) : Hart := { h with spbase := v &&& 0xFFFFFFFFFFC00000 }

/-- A write of DSEED (R106). -/
def State.writeDseed (s : State) (v : Word) : State := { s with lu := { s.lu with dseed := v } }

/-- A write of RMIN0 or RMIN1 (R74): clamped, and ignored while a launch of the class is admitted and not final. -/
def State.writeRmin (s : State) (cls : Nat) (v : Word) : State :=
  if s.live.any fun l => l.cls = cls then s
  else
    let x := min v.toNat s.svc.units.shareUnits
    { s with lu := if cls = 0 then { s.lu with rmin0 := x } else { s.lu with rmin1 := x } }

/-- A write of a register of the hart whose fields are stored as its map gives them (R196). -/
def Hart.writePlain (h : Hart) (n : Nat) (v : Word) : Hart :=
  if 0x060 ≤ n ∧ n ≤ 0x067 then { h with wm := h.wm.setIfInBounds (n - 0x060) v }
  else
    match n with
    | 0x002 => { h with vstart := bitsAt v.toNat 0 17 }
    | 0x010 => { h with seed := v }
    | 0x021 => { h with tvec := v &&& 0xFFFFFFFFFFFFFFFC }
    | 0x022 => { h with tpc := v }
    | 0x023 => { h with tcause := v &&& 0x80000000000000FF }
    | 0x024 => { h with tval := v }
    | 0x025 => { h with tscratch := v }
    | 0x030 => { h with asid := bitsAt v.toNat 0 16 }
    | 0x031 => { h with ptroot := v &&& 0x000FFFFFFFFFF000 }
    | 0x080 => { h with viewnote := v &&& 0x0FFFFFFFFFFFFFFF }
    | _ => h

/-- A write of a control register. -/
def cregWrite (s : State) (n : Nat) (v : Word) : State :=
  match n with
  | 0x000 => s.withHart (·.writeVl v)
  | 0x001 => s.withHart (·.writeVtype v)
  | 0x004 => s.withHart (·.writeMvl v)
  | 0x005 => s.withHart (·.writeMtype v)
  | 0x006 => s.withHart (·.writeSlip v)
  | 0x011 => s.writeDseed v
  | 0x020 => s.withHart (·.writeStatus v)
  | 0x032 => s.withHart (·.writeSpbase v)
  | 0x052 => s.writeRmin 0 v
  | 0x053 => s.writeRmin 1 v
  | n => s.withHart (·.writePlain n v)

/-- CRR (R196). -/
def execCrr (d : Reg) (c : BitVec 12) (s : State) : Answer :=
  if (cregAccess s.hart.super c.toNat).1 then .next (s.done1 d (cregRead s c.toNat)) else illegal (.crr d c) s

/-- CRW: the register takes x[a] as it was before x[d] is written. -/
def execCrw (d a : Reg) (c : BitVec 12) (s : State) : Answer :=
  if (cregAccess s.hart.super c.toNat).2 then
    .next ((cregWrite s c.toNat (s.rx a)).done1 d (cregRead s c.toNat))
  else illegal (.crw d a c) s

/-- CRS: with a = 0 nothing is written, and the right to read suffices. -/
def execCrs (d a : Reg) (c : BitVec 12) (s : State) : Answer :=
  let r := cregAccess s.hart.super c.toNat
  let old := cregRead s c.toNat
  if a = 0 then (if r.1 then .next (s.done1 d old) else illegal (.crs d a c) s)
  else if r.2 then .next ((cregWrite s c.toNat (old ||| s.rx a)).done1 d old)
  else illegal (.crs d a c) s

/-- CRC. -/
def execCrc (d a : Reg) (c : BitVec 12) (s : State) : Answer :=
  let r := cregAccess s.hart.super c.toNat
  let old := cregRead s c.toNat
  if a = 0 then (if r.1 then .next (s.done1 d old) else illegal (.crc d a c) s)
  else if r.2 then .next ((cregWrite s c.toNat (old &&& ~~~(s.rx a))).done1 d old)
  else illegal (.crc d a c) s

-- the writes as events of the acting hart; what the mode does not allow has no effect

/-- A write of register `n` where the acting hart's mode allows it. -/
def writeIfAllowed (n : Nat) (v : Word) (s : State) : Answer :=
  .next (if (cregAccess s.hart.super n).2 then cregWrite s n v else s)

/-- STATUS_ACCESS (R110): a read has no effect of its own; every older instruction has completed. -/
def execStatusAccess (v : Option Word) (s : State) : Answer :=
  match v with
  | some v => writeIfAllowed 0x020 v s
  | none => .next s

/-- VTYPE_WRITE. -/
def execVtypeWrite (v : Word) (s : State) : Answer := writeIfAllowed 0x001 v s
/-- VL_WRITE. -/
def execVlWrite (v : Word) (s : State) : Answer := writeIfAllowed 0x000 v s
/-- SLIP_WRITE. -/
def execSlipWrite (v : Word) (s : State) : Answer := writeIfAllowed 0x006 v s
/-- SEED_WRITE (R168). -/
def execSeedWrite (v : Word) (s : State) : Answer := writeIfAllowed 0x010 v s
/-- DSEED_WRITE. -/
def execDseedWrite (v : Word) (s : State) : Answer := writeIfAllowed 0x011 v s
/-- RMIN_WRITE. -/
def execRminWrite (cls : Bit1) (v : Word) (s : State) : Answer := writeIfAllowed (0x052 + cls.toNat) v s
/-- MTYPE_WRITE. -/
def execMtypeWrite (v : Word) (s : State) : Answer := writeIfAllowed 0x005 v s
/-- MVL_WRITE. -/
def execMvlWrite (v : Word) (s : State) : Answer := writeIfAllowed 0x004 v s
/-- SPBASE_WRITE. -/
def execSpbaseWrite (v : Word) (s : State) : Answer := writeIfAllowed 0x032 v s

/-- Registers of the hart without behaviour of their own. -/
def plainCreg (n : Nat) : Bool :=
  n ∈ [0x002, 0x021, 0x022, 0x023, 0x024, 0x025, 0x030, 0x031, 0x080] || (0x060 ≤ n && n ≤ 0x067)

/-- CONTROL_REGISTER_WRITE. -/
def execControlRegisterWrite (c : BitVec 12) (v : Word) (s : State) : Answer :=
  if plainCreg c.toNat then writeIfAllowed c.toNat v s else .next s

end Sys2Proof.Machine
end

