-- ==== Sys2Proof/Machine/Sched.lean ====
section
/-!
DEFINITION. Around an instruction: fetching its word (R76, R117, R127), the turn, the clock, and the progress that engines
and other units make by themselves between instructions (R298, R308).
-/

namespace Sys2Proof.Machine

/-- An address lies in the text section of the acting hart's launch; the bound binds task mode only (R76, R387). -/
def State.inText (s : State) (pc : Nat) : Bool :=
  s.hart.super ||
    match s.myLaunch with
    | none => true
    | some l => l.image + l.textOff ≤ pc && pc < l.image + l.textOff + l.textSize

/-- The lines move for a fetch: L1I fills from L2 (R127, R253); a SYNC line stays at its home (R342). -/
def State.fetchMoves (s : State) (loc : Loc) : State :=
  match loc with
  | .dev a false => { s with coh := s.coh.coreFetch (s.hart.hid / 16) (a / 128) }
  | _ => s.moves (.core (s.hart.hid / 16)) false loc 4

/-- Fetch of the word at the pc: alignment, text bound, translation, poison, in the order of R117. The answer names the
trap and its value, or the word. -/
def fetch (s : State) : Except (Nat × Word) (BitVec 32 × State) :=
  let pc := s.hart.pc
  if pc.toNat % 4 ≠ 0 then .error (3, pc)
  else if !s.inText pc.toNat then .error (6, pc)
  else
    match s.xlate pc.toNat .fetch with
    | .error c => .error (c, pc)
    | .ok (loc, s') =>
      match loc with
      | .dev a _ =>
        if s'.linePoisoned (a / 128) then .error (7, pc)
        else .ok (BitVec.ofNat 32 (s'.memNat a 4), s'.fetchMoves loc)
      | _ => .error (6, pc)

/-- Give the turn to the next placed hart in order. -/
def rotate (s : State) : State :=
  match s.parked with
  | [] => s
  | h :: t => { s with hart := h, parked := t ++ [s.hart] }

/-- Give the turn to a placed hart, by slot. -/
def giveTurn (hid : Nat) : Nat → State → State
  | 0, s => s
  | n + 1, s => if s.hart.hid = hid then s else giveTurn hid n (rotate s)

/-- Clocks up to one, that one included, that level `l` gates (R23): the last `l` of each aligned block of 16. -/
def gatedTo (l clock : Nat) : Nat := clock / 16 * l + (clock % 16 + 1 + l - 16)

/-- The clock of a step: at least one, and as many more as the manual leaves open. -/
def tick (s : State) : State :=
  let now := s.clock + 1 + Config.stepClocks s.draw
  { s with
    clock := now, draw := s.draw + 1
    svc := { s.svc with gated := s.svc.gated + (gatedTo s.svc.throttle now - gatedTo s.svc.throttle s.clock) } }

/-- An operation that will send flits of the view once it begins. -/
def EngineOp.sends (o : EngineOp) : Bool :=
  match o.kind with
  | .waits (.put ..) _ _ => true
  | .waits (.job p) _ _ => p.mesh.mesh.npart != 1 && p.forced.isNone
  | _ => false

/-- An operation may begin behind others: its data from outside has arrived, those of them on its handle have completed (R309), and
what it sends may be sent (R362). -/
def State.opTurn (s : State) (before : List EngineOp) (o : EngineOp) : Bool :=
  (o.asks.all fun a => a.bytes.isSome) && !(o.sends && s.fabric.acked.isSome)
    && !(o.handle != 0 && before.any fun q => q.handle == o.handle && q.lid == o.lid)

/-- The operations dispatched before one. -/
def State.opsBefore (s : State) (o : EngineOp) : List EngineOp := s.ops.takeWhile fun q => q.id != o.id

/-- The next event of an engine operation, which its engine brings about by itself, once its writes to devices and hosts have
performed (R254, R304). -/
def State.opWork (s : State) (o : EngineOp) : List Instr :=
  if !s.performed o.sent then []
  else if o.late ≠ 0 then [.weirArrival o.id o.late]
  else
  match o.kind with
  | .waits .. => if s.opTurn (s.opsBefore o) o then [.engineOperationComplete o.id] else []
  | .copy _ _ left => if left = 0 then [.copyComplete o.id] else [.weirArrival o.id left]
  | .get _ _ _ _ _ left | .put _ _ _ _ left => if left = 0 then [.copyComplete o.id] else []
  | .gather _ rows => rows.map fun r => .cpygsRowLanded o.id r
  | .engine .. => [.engineOperationComplete o.id]
  | .parts .. => []

/-- A collective has begun to write its destination or its status word (R372). -/
def Coll.writing (c : Coll) : Bool := !c.sent.isEmpty || c.ending.isSome

/-- A collective is in flight, and its outcome is open. -/
def Coll.isOpen (c : Coll) : Bool := c.status.isNone && !c.writing

/-- Phase one of QSUM is over at this member: its own share carries the agreed exponents (R377). -/
def Coll.agreed (c : Coll) : Bool := c.shares.any fun q => q.rank == c.rank && q.exps.isSome

/-- Every member's record of a collective has arrived, and this member has no result yet (R369); under QSUM, once it has agreed the
exponents, every member has. -/
def Coll.matched (c : Coll) : Bool :=
  c.isOpen && !c.held.contains c.rank && ((List.range c.nNew).all fun r => c.shares.any fun q => q.rank == r)
    && (c.hdr.mode != 1 || !c.agreed || c.shares.all fun q => q.exps.isSome)

/-- Every member holds its own result (R372). -/
def Coll.everywhere (c : Coll) : Bool :=
  c.isOpen && c.held.contains c.rank && (List.range c.nNew).all c.held.contains

/-- This member's source has arrived from devices and hosts, and its share has still to be sent. -/
def Coll.gathers (c : Coll) : Bool :=
  c.isOpen && !(c.shares.any fun q => q.rank == c.rank) && c.asks.all fun a => a.bytes.isSome

/-- The next event of a collective (R369, R372), while no proposal is acknowledged; what it writes to devices and hosts performs
first (R254). -/
def State.collWork (s : State) (c : Coll) : List Instr :=
  if !s.performed c.sent then []
  else if c.status.isNone && c.writing then [.collectiveComplete c.etag c.cid]
  else if s.fabric.acked.isSome then []
  else if c.gathers || c.matched then [.collectiveMatch c.etag c.cid]
  else if c.everywhere then [.collectiveComplete c.etag c.cid] else []

/-- A remote copy. -/
def EngineOp.remote (o : EngineOp) : Bool :=
  match o.kind with
  | .get .. | .put .. | .waits (.put ..) _ _ => true
  | _ => false

/-- A member may acknowledge a hold (R363): it has the union, has dispatched each pair of it under the current tag, and none of its
collectives or remote copies is left. -/
def State.quiet (s : State) (h : Hold) : Bool :=
  match h.union with
  | none => false
  | some u => (u.all fun p => p.1 != s.fabric.tag || s.fabric.counts.any fun q => q.1 == p.2 && q.2 != 0)
      && !((s.colls.any fun c => c.status.isNone) || s.ops.any EngineOp.remote)

/-- What the view controller does by itself (R363): the leader of a view with joiners or leavers begins a planned change,
and a member acknowledges a hold once its collectives and remote copies have ended. -/
def State.viewWork (s : State) : List Instr :=
  let f := s.fabric
  let leads := f.members.contains f.fid && f.members.find? (fun m => !f.suspects.contains m) == some f.fid
  match f.hold with
  | none =>
    if leads && f.acked.isNone && f.leading.isNone && !(f.joiners.isEmpty && f.leavers.isEmpty) then
      [.quiescenceHold f.fid] else []
  | some h => if f.acked.isNone && !h.acks.contains f.fid && s.quiet h then [.holdAck f.fid none] else []

/-- Q of R73: the clocks of a stretch. -/
def stretchQ : Nat := 262144

/-- P of R73: the clocks of saving and restoring in a stretch. -/
def stretchP : Nat := 76000

/-- The clock at which the frame of a clock begins: frames of 64 stretches, aligned to the clock count since boot (R73). -/
def State.frameStart (s : State) : Nat := s.clock / (64 * stretchQ) * (64 * stretchQ)

/-- The number of the present frame, counted from 1. -/
def State.frame (s : State) : Nat := s.clock / (64 * stretchQ) + 1

/-- A placed hart of class 0 to 2 has had its stretch in this frame: it has been placed for its share of the frame, unbroken
(R73). -/
def State.stretched (s : State) (h : Hart) : Bool :=
  match s.launch? h.lid with
  | none => false
  | some l => l.cls != 3 && max h.placedAt s.frameStart + l.share * stretchQ ≤ s.clock

/-- Clocks that faults have cost a hart: retries, migrations that have ended, and one that goes on. -/
def LHart.faultClocks (r : LHart) (clock : Nat) : Nat := r.faults + ((r.movedAt.map fun t => clock - t).getD 0)

/-- H of R75. -/
def allowance (bPrime : Nat) : Nat := ceilDiv bPrime 512 + 76000

/-- Retries and migrations of a hart have used up H (R75, R81); each hart has the allowance for itself (DESIGN CHOICE: log 67). -/
def State.pastAllowance (s : State) (l : Launch) : Bool := l.hs.any fun r => allowance l.bPrime < r.faultClocks s.clock

/-- The value of a progress word in memory of the package. -/
def State.progressAt (s : State) (w : Loc) : Nat :=
  match w with
  | .dev a _ => s.memNat a 8
  | .scr c l off => ((s.region? c l).map fun r => natOfBytes (cellsGet r.cells off 8)).getD 0
  | _ => 0

/-- Events that are due to a placed hart: its budget (R38), its save (R392), a requested stop (R144, R389), and an event that was
held (R387). -/
def State.hartWork (s : State) (h : Hart) : List Instr :=
  let budget :=
    if h.lid = 0 ∨ h.stop.isSome ∨ h.arriving then []
    else
      (match h.grace with
        | some g => if g ≤ s.clock then [.budgetGraceExpiry h.hid] else []
        | none => [])
      ++ (if s.budgetLeft h = 0 ∧ !h.spent then [.issueBudgetExhausted h.hid] else [])
  let stop := h.stop.isSome && h.run != .swap && h.cut.isNone && !s.midway h
  let held := h.stop.isNone && h.run != .swap && h.anyHeld && !h.active && !s.midway h
  let save := h.run == .swap && !h.arriving && h.lid != 0 && h.stop.isSome && h.stop != some .ended && s.performed h.unacked
  budget ++ (if save then [.hartSaveDone h.hid] else []) ++ (if stop then [.hartStop h.hid] else []) ++ (if held then [.heldEventTake h.hid] else [])

/-- Events of the launch unit: promises that have expired and allowances that are used up (R81), and progress words that it
watches (R41). -/
def State.launchWork (s : State) : List Instr :=
  s.live.flatMap fun l =>
    (if l.state = 2 ∧ s.pastAllowance l then [.promiseExpiry ⟨l.lid, .allowance⟩] else []) ++
    (match l.tmet with
     | some t => if t + l.bound * 4096 ≤ s.clock then [.promiseExpiry ⟨l.lid, .expired⟩] else []
     | none => [])
    ++ (if l.state = 0 then
          ((List.range l.pre.length).filterMap fun j =>
            match l.pre[j]? with
            | some p => if p.kind = 2 ∧ !p.met then some [.prereqWordMet l.lid j, .prereqUnreadable l.lid j] else none
            | none => none).flatten
        else [])

/-- The next event of each unit that works by itself: engines and copies (R298, R308), verification (R29), held
publications whose word has reached BASE (R288), budgets and the launch unit. -/
def pendingWork (s : State) : List Instr :=
  s.placed.flatMap s.hartWork ++ s.launchWork ++ s.viewWork ++
  s.ops.flatMap s.opWork ++ s.colls.flatMap s.collWork
  ++ ((s.lu.verifs.filter fun v => v.outcome.isNone).map fun v => .imageVerificationDone ⟨v.hid, []⟩)
  ++ ((List.range s.pubs.length).filter fun i =>
      ((s.pubs[i]?).map fun p => decide (p.base ≤ s.progressAt p.word)).getD false).map fun i => .publicationApply i

end Sys2Proof.Machine
end

