-- ==== Sys2Proof/Machine/Sync.lean ====
section
/-!
DEFINITION. Synchronisation, traps by software, and ends: major 0x1A (R185 to R190), and the events WAITW_WAKE and
HART_END.
-/

namespace Sys2Proof.Machine

/-- FENCE (R186): steps are in order and whole, so only stores to devices and hosts that are not yet acknowledged keep
a fence with release from completing (R254), and those to devices any fence at sys scope (R356). -/
def execFence (o : BitVec 2) (sc : Num3) (s : State) : Answer :=
  Act.run false (do
    Act.release o
    if sc = 7 then Act.drainIo else pure ()
    Act.upd State.advance) s

/-- WAITW (R187): the value that differs from x[b], or sleep. -/
def waitw (d a b : Reg) : Act Unit := do
  let s ← get
  let va := (s.rx a).toNat
  Act.check (va % 8 == 0) 3 (s.rx a)
  let loc ← Act.reach va .read
  match loc with
  | .io _ => Act.trap accessFault (s.rx a)
  | _ => pure ()
  let v ← Act.load va loc 8
  if wordOfNat v = s.rx b then throw (.wait true false)
  else Act.upd (·.done1 d (wordOfNat v))

/-- WAITW. -/
def execWaitw (d a b : Reg) (_o : BitVec 2) (_s0 : Num3) (s : State) : Answer := Act.run false (waitw d a b) s

/-- YIELD (R188): the hart is not ready for 16 clocks. -/
def execYield (s : State) : Answer :=
  .next (s.advance.withHart fun h => { h with quiet := s.clock + 17 })

/-- Launches and harts that wait for a slot: their events are due when one becomes free (R72, R85, R86). -/
def State.waiting (s : State) : List Instr :=
  s.live.flatMap fun l =>
    if l.state = 1 then [.launchStart l.lid]
    else if l.state = 2 ∧ l.ending.isNone then
      (List.range l.hs.length).filterMap fun j =>
        match (l.hs[j]?).map (·.pos) with
        | some .unplaced | some .saved => some (.hartRestore l.lid j)
        | _ => none
    else []

/-- Remove a placed hart from its slot, which becomes EMPTY; the turn passes on if it was acting. With no other hart
placed the slot stays in SWAP, which never executes. -/
def State.vacate (s : State) (hid : Nat) : State :=
  let s := { s with parked := s.parked.filter fun h => h.hid ≠ hid, inbox := s.inbox ++ s.waiting }
  if s.hart.hid = hid then
    match s.parked with
    | h :: t => { s with hart := h, parked := t }
    | [] => s.withHart fun h => { h with run := .swap, stop := none, arriving := false }
  else s

/-- A hart leaves its slot: what is charged to it is settled. -/
def State.leave (s : State) (h : Hart) (pos : HPos) : State :=
  (s.updLHart h.lid h.j fun r => { r with
    pos := pos, budget := s.budgetLeft h, charged := r.charged + s.chargedNow h, grace := h.grace, spent := h.spent,
    farmGen := h.farmGen }).vacate h.hid

/-- The end of a hart (R189): its slot is EMPTY, and the launch retires when its last hart has ended (R80, R411). -/
def State.hartEnds (s : State) (h : Hart) : State :=
  let s := s.leave h .exited
  match s.launch? h.lid with
  | none => s
  | some l =>
    if l.hs.all (fun r => r.pos = .exited) && !isFinal l.state && l.ending.isNone then s.finalize h.lid 8
    else if l.ending.isSome && !l.anyPlaced && !isFinal l.state then s.finalize h.lid (l.ending.getD 8)
    else s

/-- EXIT (R189): it waits until its stores to devices and hosts are acknowledged, and the hart ends. -/
def execExit (s : State) : Answer :=
  if s.hart.hid < 16 then illegal .exit s
  else if s.hart.unacked.isEmpty then .next (s.hartEnds s.hart)
  else .next ((s.withHart fun h => { h with exiting := true }).stall false)

/-- HART_END: the end of a hart whose EXIT has waited for its queues. -/
def execHartEnd (hid : Nat) (s : State) : Answer :=
  match s.hart? hid with
  | some h => if h.exiting && h.unacked.isEmpty && 16 ≤ h.hid then .next (s.hartEnds h) else .next s
  | none => .next s

/-- BRK (R190). -/
def execBrk (n : BitVec 6) (s : State) : Answer := .next (takeTrap true 13 (n.setWidth 64) 0 s)

/-- SYSCALL (R190). -/
def execSyscall (n : BitVec 6) (s : State) : Answer := .next (takeTrap true 12 (n.setWidth 64) 0 s)

/-- Run a meaning for a placed hart, which has the turn while it runs. -/
def asHart (hid : Nat) (f : State → Answer) (s : State) : Answer :=
  match s.hart? hid with
  | none => .next s
  | some _ =>
    let back := s.hart.hid
    match f (giveTurn hid (s.parked.length + 1) s) with
    | .next t => .next (giveTurn back (t.parked.length + 1) t)
    | r => r

/-- Fields of a word (R112). -/
def wordD (w : BitVec 32) : Reg := w.extractLsb' 21 5
/-- Field a. -/
def wordA (w : BitVec 32) : Reg := w.extractLsb' 16 5
/-- Field b. -/
def wordB (w : BitVec 32) : Reg := w.extractLsb' 11 5
/-- The major opcode. -/
def wordMajor (w : BitVec 32) : Nat := (w.extractLsb' 26 6).toNat
/-- fn[10:6], which selects the operation of most A3 majors. -/
def wordOp (w : BitVec 32) : Nat := (w.extractLsb' 6 5).toNat

/-- A placed hart that waits, and that no YIELD holds back (R188), runs its instruction again, if its word is one that `sel`
names. -/
def wake (hid : Nat) (sel : BitVec 32 → Option (State → Answer)) (s : State) : Answer :=
  match s.hart? hid with
  | none => .next s
  | some h =>
    if (h.run = .stalled ∨ h.run = .sleep) ∧ h.quiet ≤ s.clock then
      asHart hid (fun s =>
        match fetch s with
        | .error _ => .next s
        | .ok (w, s') =>
          match sel w with
          | some f => f (s'.withHart fun h => { h with gatedAt := s'.svc.gated })
          | none => .next s) s
    else .next s

/-- WAITW_WAKE (R187): a sleeping WAITW reads the word again. -/
def execWaitwWake (hid : Nat) (s : State) : Answer :=
  wake hid (fun w =>
    if wordMajor w = 0x1A ∧ wordOp w = 1 then some (Act.run false (waitw (wordD w) (wordA w) (wordB w))) else none) s

end Sys2Proof.Machine
end

