-- ==== Sys2Proof/Machine/Vcfg.lean ====
section
/-!
DEFINITION. VCFG: major 0x1E (R211 to R213, R237), the application of a grant (R92), and the events GRANT_APPLY and
MTYPE_CHANGE.
-/

namespace Sys2Proof.Machine

/-- A vector register under a new number of elements (R92): elements below both capacities keep their values. -/
def moveReg (w : Nat) (sliced : Bool) (e e' v : Nat) : Nat :=
  let k := min e e'
  if sliced then ((List.range w).map fun j => bitsAt v (j * e) k * 2 ^ (j * e')).sum else v % 2 ^ (k * w)

/-- The words of 64 bits to which the bits of a poisoned word move. -/
def moveWord (w : Nat) (sliced : Bool) (e e' idx : Nat) : List Nat :=
  if sliced then
    ((List.range 64).filterMap fun b =>
      let bit := 64 * idx + b
      let j := bit / e
      let p := bit % e
      if j < w ∧ p < e' then some ((j * e' + p) / 64) else none).dedup
  else if 64 * idx < e' * w then [idx] else []

/-- GRANT := g, with the vector registers changed as R92 states and VL within their capacity (R108). -/
def Hart.regrant (h : Hart) (g : Nat) : Hart :=
  let w := widthOf h.vtype
  let sliced := h.ew == 4
  let e := h.grant * 8192 / w
  let e' := g * 8192 / w
  { h with
    grant := g
    target := none
    v := h.v.map (moveReg w sliced e e')
    vl := min h.vl (maxVl h.vtype g)
    poison := h.poison.flatMap fun p =>
      if p.file = 0 then (moveWord w sliced e e' p.idx).map fun i => { p with idx := i } else [p] }

/-- Apply the acting hart's pending grant, with its charge (R92, R89). -/
def State.applyGrant (s : State) : State :=
  match s.hart.target with
  | none => s
  | some g => ((s.updLHart s.hart.lid s.hart.j fun r => { r with grant := g }).withHart (·.regrant g)).trackGrant

/-- Set VL from a request under the present VTYPE (R212). -/
def State.setVl (s : State) (d : Reg) (n : Nat) : State :=
  let vl := min n (maxVl s.hart.vtype s.hart.grant)
  (s.withHart fun h => { h with vl := vl, vstart := 0 }).done1 d (wordOfNat vl)

/-- VSETVL with OP 0 (R212). -/
def execVsetvl (d a : Reg) (s : State) : Answer := .next (s.applyGrant.setVl d (s.rx a).toNat)

/-- VSETVL with OP 1: x[b] must be an admitted VTYPE, before anything changes. -/
def execVsetvlB (d a b : Reg) (s : State) : Answer :=
  if !admitted (s.rx b) then illegal (.vsetvlB d a b) s
  else .next ((s.applyGrant.withHart fun h => { h with vtype := s.rx b }).setVl d (s.rx a).toNat)

/-- VSETTYPE (R213): it applies no pending grant. -/
def execVsettype (d a : Reg) (s : State) : Answer :=
  if !admitted (s.rx a) then illegal (.vsettype d a) s
  else .next ((s.withHart fun h => { h with vtype := s.rx a }).setVl d s.hart.vl)

/-- MTYPE := f, every bit of the tiles zero (R237). -/
def Hart.retype (h : Hart) (f : Nat) : Hart :=
  if f = h.ifmt then h
  else { h with ifmt := f, acc := Vector.replicate 4 0, poison := h.poison.filter fun p => p.file ≠ 2 }

/-- MXMODE (R237). -/
def execMxmode (d a b : Reg) (s : State) : Answer :=
  let m := s.rx b
  if 8 < m.toNat then illegal (.mxmode d a b) s
  else
    let x := (s.rx a).toNat
    let s := s.withHart fun h =>
      { h.retype m.toNat with mrows := min (bitsAt x 0 16) 32, mcols := min (bitsAt x 16 16) 32 }
    .next (s.done1 d s.hart.mvl)

/-- The word at the acting hart's pc, when it can be fetched. -/
def State.nextWord (s : State) : Option (BitVec 32) :=
  match fetch s with
  | .ok (w, _) => some w
  | .error _ => none

/-- A word is a VSETVL that executes: with OP 1, x[b] is an admitted VTYPE (R212). -/
def State.isVsetvl (s : State) (w : BitVec 32) : Bool :=
  w == encodeWord (.vsetvl (wordD w) (wordA w))
    || (w == encodeWord (.vsetvlB (wordD w) (wordA w) (wordB w)) && admitted (s.rx (wordB w)))

/-- GRANT_APPLY (R92): the pending grant of a hart whose next instruction is VSETVL. -/
def execGrantApply (hid : Nat) (s : State) : Answer :=
  asHart hid (fun s =>
    match s.nextWord with
    | some w => .next (if s.isVsetvl w then s.applyGrant else s)
    | none => .next s) s

/-- MTYPE_CHANGE (R237): the new MTYPE of a hart whose next instruction is an MXMODE that names it. -/
def execMtypeChange (hid : Nat) (v : Word) (s : State) : Answer :=
  asHart hid (fun s =>
    match s.nextWord with
    | some w =>
      .next (if w = encodeWord (.mxmode (wordD w) (wordA w) (wordB w)) ∧ s.rx (wordB w) = v ∧ v.toNat ≤ 8 then
        s.withHart (·.retype v.toNat) else s)
    | none => .next s) s

end Sys2Proof.Machine
end

