-- ==== Sys2Proof/Machine/Issue.lean ====
section
/-!
DEFINITION. Fetch, issue and commit: the events INSTRUCTION_FETCH (R127), SLOT_PICK (R132 to R134),
VECTOR_QUEUE_DISPATCH (R138, R255), GRANULE_COMMIT (R143, R145), SCALAR_STORE_ACK (R254) and ILLEGAL_INSTRUCTION
(R116, R117).
-/

namespace Sys2Proof.Machine

/-- Slot class of a major opcode (R130): 0 scalar, 1 vector, 2 memory. -/
def slotClass (major : Nat) : Nat :=
  if (0x20 ≤ major ∧ major ≤ 0x2C) ∨ major = 0x32 ∨ (0x34 ≤ major ∧ major ≤ 0x38) then 1
  else if (0x0C ≤ major ∧ major ≤ 0x0F) ∨ (0x2D ≤ major ∧ major ≤ 0x31) ∨ major = 0x33 ∨ major = 0x39 then 2
  else 0

/-- A major whose instructions enter the vector or the memory queue (R130). -/
def queued (major : Nat) : Bool := slotClass major == 1 || (slotClass major == 2 && 0x2D ≤ major)

/-- A major whose results the gauge check covers (R145): vector arithmetic, VRED and MXOP. -/
def gauged (major : Nat) : Bool := (0x20 ≤ major && major ≤ 0x28) || major == 0x2B || major == 0x2C || major == 0x34

/-- The word that a placed hart executes next. -/
def State.wordNext (s : State) (h : Hart) : Option (BitVec 32) :=
  match fetch { s with hart := h } with
  | .ok (w, _) => some w
  | .error _ => none

/-- A hart of a partition (R12). -/
def Hart.inPart (h : Hart) (core part : Nat) : Bool := h.hid / 4 == core * 4 + part

/-- Words that a fetched block of eight gives a hart: those from its next word to be fetched on (R127). -/
def Hart.blockWords (h : Hart) : Nat := 8 - (h.pc.toNat / 4 + h.fbuf) % 8

/-- A core's fetch unit serves a partition (R127): the hart with the fewest buffered words that has room for the block takes
it, one without room being passed over (DESIGN CHOICE: log 63), and the next partition follows. -/
def State.fetchBlock (s : State) (core part : Nat) : State :=
  let t : State := { s with fetchTurn := s.fetchTurn.setIfInBounds core ((part + 1) % 4) }
  let able := s.placed.filter fun h => h.inPart core part && h.run != .swap && h.fbuf + h.blockWords ≤ 16
  let least (a b : Hart) : Hart := if b.fbuf < a.fbuf || (b.fbuf == a.fbuf && b.hid < a.hid) then b else a
  match able with
  | [] => t
  | h :: hs => t.updHart (hs.foldl least h).hid fun h => { h with fbuf := h.fbuf + h.blockWords }

/-- INSTRUCTION_FETCH (R127): the partition whose turn it is; a hart without room for the block is passed over (DESIGN CHOICE:
log 63). -/
def execInstructionFetch (core part : Nat) (s : State) : Answer :=
  if 32 ≤ core || 4 ≤ part || s.svc.power == .off || s.fetchTurn[core]? ≠ some part then .next s
  else .next (s.fetchBlock core part)

/-- Nothing holds a hart back from issuing (R133, R188): in an order of whole instructions, what may is a stop, a wait, a yield
or an empty fetch buffer. A hart whose instruction has begun goes on with it before a stop (R170, R389). -/
def State.able (s : State) (h : Hart) : Bool :=
  h.run == .ready && 0 < h.fbuf && !decide (s.clock < h.quiet) && (h.stop.isNone || h.cut.isSome || s.midway h)

/-- A hart is ready for its slot: able to issue, and not picked already. -/
def State.isReady (s : State) (h : Hart) : Bool := s.able h && !s.picked.contains h.hid

/-- The class of a hart's next instruction; a word that cannot be fetched traps in the scalar slot. -/
def State.classOf (s : State) (h : Hart) : Nat := ((s.wordNext h).map fun w => slotClass (wordMajor w)).getD 0

/-- The hart that a slot picks (R134): the largest AGE; a tie goes to the first at or after RR. -/
def pickSlot (rr : Nat) (hs : List Hart) : Option Hart :=
  let oldest := (hs.map (·.age)).foldl max 0
  (List.range 4).findSome? fun i => hs.find? fun h => h.age == oldest && h.hid % 4 == (rr + i) % 4

/-- The three slots of a partition each pick a hart, and every AGE moves on (R134). -/
def State.pickPart (s : State) (core part : Nat) : State :=
  let mine := s.placed.filter (·.inPart core part)
  let ready := mine.filter s.isReady
  let rrAt (c : Nat) := 3 * (core * 4 + part) + c
  let picks := (List.range 3).filterMap fun c =>
    (pickSlot ((s.rr[rrAt c]?).getD 0) (ready.filter fun h => s.classOf h == c)).map fun h => (c, h.hid)
  let s := mine.foldl (fun s h => s.updHart h.hid fun h => { h with
    age := if ready.any (·.hid == h.hid) && !picks.any (·.2 == h.hid) then h.age + 1 else 0 }) s
  { s with
    picked := s.picked ++ picks.map (·.2)
    rr := picks.foldl (fun rr p => rr.setIfInBounds (rrAt p.1) ((p.2 % 4 + 1) % 4)) s.rr }

/-- SLOT_PICK (R134). -/
def execSlotPick (core part : Nat) (s : State) : Answer :=
  .next (if 32 ≤ core || 4 ≤ part || s.svc.power == .off then s else s.pickPart core part)

/-- VECTOR_QUEUE_DISPATCH (R138): the head of a hart's vector or memory queue goes next, once every older scalar store is
acknowledged where it enters the memory queue (R255). -/
def execVectorQueueDispatch (hid : Nat) (s : State) : Answer :=
  match s.hart? hid with
  | none => .next s
  | some h =>
    match s.wordNext h with
    | none => .next s
    | some w =>
      if !s.able h || !queued (wordMajor w) || (slotClass (wordMajor w) == 2 && !h.unacked.isEmpty) then .next s
      else .next { s with picked := hid :: s.picked.filter (· != hid) }

/-- Uncorrectable data is marked poisoned where it is read (R405). -/
def State.markBad (s : State) (hid : Nat) (r : GaugeReport) : State :=
  match r with
  | .badRegister file reg idx =>
    let q : RegPoison := ⟨file, reg, idx⟩
    s.updHart hid fun h => if h.poison.contains q then h else { h with poison := h.poison ++ [q] }
  | .badScratch core lid word =>
    s.updRegion (s.regionKey core lid) lid fun r => if r.bad.contains word then r else { r with bad := r.bad ++ [word] }
  | .badLine line =>
    { s with coh := s.coh.spoil line }
  | .badSampler handle v counter =>
    match s.hart? hid with
    | none => s
    | some h => s.updHandles h.lid fun hs => { hs with gibbs := hs.gibbs.map fun g =>
        if g.h ≠ handle ∨ g.nvar ≤ v then g
        else if counter then { g with badMarg := (v :: g.badMarg).dedup } else { g with bad := (v :: g.bad).dedup } }
  | _ => s

/-- The recomputation after a mismatch costs its hart clocks (R75, R146): how many is free. -/
def State.countRetry (s : State) (h : Hart) : State :=
  { s.updLHart h.lid h.j fun r => { r with faults := r.faults + Config.retryClocks s.draw } with draw := s.draw + 1 }

/-- GRANULE_COMMIT (R143, R145, R405): data that the granule reads uncorrectable is marked; what the gauge checker finds is for the
hart's next instruction, when that is one it checks, and the instruction itself acts on it (R146). -/
def execGranuleCommit (hid : Nat) (r : GaugeReport) (s : State) : Answer :=
  match s.hart? hid with
  | none => .next s
  | some h =>
    match r with
    | .badRegister .. | .badScratch .. | .badLine .. | .badSampler .. => .next (s.markBad hid r)
    | .badCore core => .next (s.fenceCore core)
    | _ =>
      match s.wordNext h with
      | some w => .next (if gauged (wordMajor w) then (s.updHart hid fun h => { h with gauge := some r }).countRetry h else s)
      | none => .next s

/-- SCALAR_STORE_ACK (R254): the stores whose target has returned its completion are acknowledged. -/
def execScalarStoreAck (hid : Nat) (s : State) : Answer :=
  .next (s.updHart hid fun h => { h with unacked := h.unacked.filter fun t => s.targets.any fun q => q.tag == t })

/-- ILLEGAL_INSTRUCTION (R116, R117, R388): Illegal Instruction with the word as TVAL. -/
def execIllegalInstruction (w : BitVec 32) (s : State) : Answer := .next (takeTrap true 1 (w.setWidth 64) 0 s)

end Sys2Proof.Machine
end

