-- ==== Sys2Proof/Machine/Picker.lean ====
section
/-!
DEFINITION. A clock of the cores (R127, R132 to R134): contexts that have arrived, the fetch units, which harts are ready, and
the pickers. What an instruction's own entry makes it wait for is found by trying it, which `waits` does.
-/

namespace Sys2Proof.Machine

/-- Change every placed hart. -/
def State.eachHart (s : State) (f : Hart → Hart) : State := { s with hart := f s.hart, parked := s.parked.map f }

/-- A restored context has arrived (R132): its hart is STALLED until words are fetched for it, and is charged from now on. -/
def Hart.land (clock : Nat) (h : Hart) : Hart :=
  if h.arriving then { h with arriving := false, run := .stalled, since := clock, placedAt := clock } else h

/-- The clocks of a migration that has ended are counted (R81). -/
def LHart.landed (clock : Nat) (r : LHart) : LHart := { r with faults := r.faultClocks clock, movedAt := none }

/-- Every context that is being loaded has arrived. -/
def State.land (s : State) : State :=
  (s.placed.filter (·.arriving)).foldl (fun s h => s.updLHart h.lid h.j (LHart.landed s.clock)) (s.eachHart (Hart.land s.clock))

/-- READY or STALLED for one hart (R132, R133): its buffer holds a word, and no wait of the instruction's entry holds; AGE goes
back to 0 when it leaves READY (R134). -/
def State.refresh (waits : State → Bool) (s : State) (hid : Nat) : State :=
  match s.hart? hid with
  | none => s
  | some h =>
    if h.run = .swap then s
    else if h.fbuf ≠ 0 ∧ !waits (giveTurn hid (s.parked.length + 1) s) then s.updHart hid fun h => { h with run := .ready }
    else s.updHart hid fun h => { h with run := if h.run = .sleep then .sleep else .stalled, age := 0 }

/-- The parts of the package's cores: core and partition. -/
def partitions : List (Nat × Nat) := (List.range 32).flatMap fun c => (List.range 4).map fun p => (c, p)

/-- The hart asks a dispenser for a strip next (R204). -/
def State.asksStrip (s : State) (hid : Nat) : Bool :=
  ((s.hart? hid).bind s.wordNext).any fun w => wordMajor w = 0x1D ∧ wordOp w = 4

/-- The index of a hart in its launch. -/
def State.jOf (s : State) (hid : Nat) : Nat := ((s.hart? hid).map (·.j)).getD 0

/-- Picked harts go on in the order of their picks, but those that ask a dispenser in the same clock in ascending j (R97, R204). -/
def State.serveStrips (s : State) : State :=
  let ask := s.picked.filter s.asksStrip
  { s with picked := s.picked.filter (fun hid => !s.asksStrip hid) ++ ask.insertionSort fun a b => s.jOf a ≤ s.jOf b }

/-- One clock of the cores: contexts arrive, each fetch unit serves its partition, harts become ready or stalled, and each
slot of each partition picks. -/
def State.round (waits : State → Bool) (s : State) : State :=
  let s := s.land
  let s := (List.range 32).foldl (fun s c => s.fetchBlock c ((s.fetchTurn[c]?).getD 0)) s
  let s := (s.placed.map (·.hid)).foldl (State.refresh waits) s
  (partitions.foldl (fun s q => s.pickPart q.1 q.2) s).serveStrips

end Sys2Proof.Machine
end

