-- ==== Sys2Proof/Machine/Branch.lean ====
section
/-!
DEFINITION. Branches and jumps: majors 0x10 to 0x19 (R181 to R184).
-/

namespace Sys2Proof.Machine

/-- Go to the target when the condition holds, else to the next word (R181). -/
def State.branchIf {n : Nat} (s : State) (taken : Bool) (off : BitVec n) : State :=
  if taken then s.jump (target s.hart.pc off) else s.advance

/-- BEQ. -/
def execBeq (a b : Reg) (o : BitVec 16) (s : State) : Answer := .next (s.branchIf (s.rx a == s.rx b) o)
/-- BNE. -/
def execBne (a b : Reg) (o : BitVec 16) (s : State) : Answer := .next (s.branchIf (s.rx a != s.rx b) o)
/-- BLT. -/
def execBlt (a b : Reg) (o : BitVec 16) (s : State) : Answer := .next (s.branchIf ((s.rx a).slt (s.rx b)) o)
/-- BGE. -/
def execBge (a b : Reg) (o : BitVec 16) (s : State) : Answer := .next (s.branchIf (!(s.rx a).slt (s.rx b)) o)
/-- BLTN. -/
def execBltn (a b : Reg) (o : BitVec 16) (s : State) : Answer := .next (s.branchIf ((s.rx a).ult (s.rx b)) o)
/-- BGEN. -/
def execBgen (a b : Reg) (o : BitVec 16) (s : State) : Answer := .next (s.branchIf (!(s.rx a).ult (s.rx b)) o)

/-- JAL (R182). -/
def execJal (o : BitVec 26) (s : State) : Answer :=
  .next ((s.wx 1 (s.hart.pc + 4)).jump (target s.hart.pc o))

/-- JALR (R182): a misaligned target writes no link. -/
def execJalr (d a : Reg) (i : BitVec 16) (s : State) : Answer :=
  let t := s.rx a + imm16 i
  if t.toNat % 4 ≠ 0 then .next (takeTrap true 3 t 0 s)
  else .next ((s.wx d (s.hart.pc + 4)).jump t)

/-- The bits [0, VL) of a mask register. -/
def Hart.maskLow (h : Hart) (k : Nat) : Nat := h.kreg k % 2 ^ h.vl

/-- A poisoned word of a mask register below bit `n`: its trap value (R405). -/
def Hart.maskPoison (h : Hart) (k n : Nat) : Option Word :=
  if h.poison.isEmpty then none else (List.range n).findSome? fun i => h.srcPoison (.mask k) i

/-- KBR (R183): it waits for a CPYGS that still writes the mask (R301), reads bits [0, VL) and branches. -/
def kbr (cond : Nat → Nat → Bool) (k : Num3) (o : BitVec 21) (s : State) : Answer :=
  if s.maskBusy k.toNat then .next (s.stall false)
  else
    match s.hart.maskPoison k.toNat s.hart.vl with
    | some t => .next (takeTrap true 7 t 0 s)
    | none => .next (s.branchIf (cond s.hart.vl (s.hart.maskLow k.toNat)) o)

/-- KBR.any. -/
def execKbrAny (k : Num3) (o : BitVec 21) (s : State) : Answer := kbr (fun _ m => m != 0) k o s
/-- KBR.none. -/
def execKbrNone (k : Num3) (o : BitVec 21) (s : State) : Answer := kbr (fun _ m => m == 0) k o s
/-- KBR.all. -/
def execKbrAll (k : Num3) (o : BitVec 21) (s : State) : Answer := kbr (fun vl m => m == 2 ^ vl - 1) k o s
/-- KBR.nall. -/
def execKbrNall (k : Num3) (o : BitVec 21) (s : State) : Answer := kbr (fun vl m => m != 2 ^ vl - 1) k o s

/-- VWHILE (R184): the base of va must be a multiple of GM (R95, R207). -/
def execVwhile (k : Num3) (v b : Reg) (o : BitVec 13) (s : State) : Answer :=
  let h := s.hart
  let c := h.cfg
  let n := (s.rx b).toNat
  if v.toNat % c.gm ≠ 0 then illegal (.vwhile k v b o) s
  else if s.maskBusy k.toNat then .next (s.stall false)
  else
    match (if h.poison.isEmpty then none else (List.range h.vl).findSome? fun i => h.srcPoison (.vec c v.toNat) i) with
    | some t => .next (takeTrap true 7 t 0 s)
    | none =>
      let m := bitmap h.vl fun i => h.elem c v.toNat i < n
      let s := s.withHart (·.setMask k.toNat m)
      .next (if m != 0 then s.jump (h.pc - BitVec.ofNat 64 (4 * o.toNat)) else s.advance)

end Sys2Proof.Machine
end

