-- ==== Sys2Proof/Machine/Coherence.lean ====
section
/-!
DEFINITION. Coherence between the dies as events (R257 to R263, R270): the messages of R259 as they reach the home or an agent,
and the patrol scrubbers (R267 to R269). What a message does is the protocol's (`Coherence.deliver`).
-/

namespace Sys2Proof.Machine

/-- Change the coherence state. -/
def State.updCoh (s : State) (f : Coherence → Coherence) : State := { s with coh := f s.coh }

/-- An agent and a line of a powered module. -/
def State.cohOk (s : State) (agent line : Nat) : Bool := s.svc.power != .off && agent < 5 && line < 2 ^ 32

/-- An agent may ask for a line by itself: its home's die cache any, and others none of a SYNC page (R253, R342). A line is known for
one of no SYNC page where a translation cache maps it so, none maps it as one, and no access has used it as one last. -/
def State.mayAsk (s : State) (agent line : Nat) : Bool :=
  agent == homeOf line || (s.tlb.any (·.maps false line) && !s.syncLine line)

/-- A message that is on its link arrives, when it may; without one, the state changes as given. -/
def State.arrives (s : State) (kind : CohKind) (agent line : Nat) (other : State) : State :=
  match s.coh.take kind agent line with
  | some (m, c) => if s.coh.mayArrive m then { s with coh := c.deliver m } else s
  | none => other

/-- A request reaches the home: one that is still on its link, or a new one of an agent whose copy is in such a state (R260). -/
def State.requests (s : State) (kind : CohKind) (agent line : Nat) (from_ : Moesi → Bool) : State :=
  if !s.cohOk agent line then s
  else
    let p := s.coh.copy agent line
    s.arrives kind agent line (if from_ p.st && p.asked.isNone && s.mayAsk agent line then s.updCoh (·.ask kind agent line) else s)

/-- RDS (R260): an agent in I asks to read. -/
def execRds (agent line : Nat) (s : State) : Answer := .next (s.requests .rds agent line (· == .i))

/-- RDX (R260): an agent in I asks to write. -/
def execRdx (agent line : Nat) (s : State) : Answer := .next (s.requests .rdx agent line (· == .i))

/-- UPG (R260): an agent in S or O asks to write. -/
def execUpg (agent line : Nat) (s : State) : Answer := .next (s.requests .upg agent line fun st => st == .s || st == .o)

/-- A copy leaves its agent by itself, unless the agent has asked for its line. -/
def State.leaves (s : State) (agent line : Nat) (from_ : Moesi → Bool) : State :=
  let p := s.coh.copy agent line
  if from_ p.st && p.asked.isNone then s.updCoh (·.evict agent line) else s

/-- EVC (R259): a clean copy leaves its agent, and the home updates its record. -/
def execEvc (agent line : Nat) (s : State) : Answer :=
  .next (if s.cohOk agent line then s.leaves agent line fun st => st == .e || st == .s else s)

/-- WBD (R259): a dirty copy leaves its agent with its data, in answer to a back-invalidation or by itself. -/
def execWbd (agent line : Nat) (s : State) : Answer :=
  .next (if s.cohOk agent line then s.arrives .wbd agent line (s.leaves agent line fun st => st == .m || st == .o) else s)

/-- A message that is on its link arrives; with none nothing happens. -/
def State.message (s : State) (kind : CohKind) (agent line : Nat) : State :=
  if s.cohOk agent line then s.arrives kind agent line s else s

/-- SNPS (R259): the owner forwards and keeps a copy; one that has left answers I (R270). -/
def execSnps (agent line : Nat) (s : State) : Answer := .next (s.message .snps agent line)

/-- SNPX (R259): the owner forwards and goes to I. -/
def execSnpx (agent line : Nat) (s : State) : Answer := .next (s.message .snpx agent line)

/-- INV (R259): the sharer goes to I. -/
def execInv (agent line : Nat) (s : State) : Answer := .next (s.message .inv agent line)

/-- BINV (R259, R262): a holder goes to I, and returns dirty data by WbD. -/
def execBinv (agent line : Nat) (s : State) : Answer := .next (s.message .binv agent line)

/-- FWD (R259): the requester holds the data. -/
def execFwd (agent line : Nat) (s : State) : Answer := .next (s.message .fwd agent line)

/-- DATA (R259, R260): data from HBM, its own Cmp unless one follows. -/
def execData (agent line : Nat) (s : State) : Answer := .next (s.message .data agent line)

/-- RSP (R259, R260): the snoop is done. -/
def execRsp (agent line : Nat) (s : State) : Answer := .next (s.message .rsp agent line)

/-- CMP (R259, R260): every other copy is settled. -/
def execCmp (agent line : Nat) (s : State) : Answer := .next (s.message .cmp agent line)

-- the patrol scrubbers

/-- The line, by storage address over 128, at line `k` of a stack (R251, R252). -/
def stackLine (both : Bool) (stack k : Nat) : Nat := stack / 2 * 2 ^ 30 + (if both then 2 * k + stack % 2 else k)

/-- An agent holds the line's data dirty, or it is on a link: its write-back will replace the copy in HBM (R269). -/
def Coherence.dirty (c : Coherence) (line : Nat) : Bool :=
  let onLink (k : CohKind) := c.msgs.any fun m => m.kind == k && m.line == line
  onLink .wbd || c.copies.any fun p =>
    p.line == line && (p.st == .m || p.st == .o || (p.asked == some .rdx && (p.gotData || onLink .fwd)))

/-- The scrubber marks a line in HBM. What agents hold dirty stands; clean copies are of the line that is marked (R269, R270). -/
def Coherence.mark (c : Coherence) (line : Nat) : Coherence :=
  let c := if c.dirty line then c else c.spoil line
  if c.poison.contains line then c else { c with poison := c.poison ++ [line] }

/-- What a scrubber found in a line takes effect, unless a write to the line has reached the stack since its read (R268): a
corrected line is written back, one past correction is marked poisoned. A write-back of what an agent holds dirty replaces the
HBM copy and its mark (R269). -/
def State.scrubbed (s : State) (q : Scrub) : State :=
  match q.finding, q.hit with
  | .correctable, false => s.logEvent 1 q.place 0
  | .uncorrectable, false => (s.updCoh (·.mark q.line)).logEvent 2 q.place 0
  | _, _ => s

/-- PATROL_SCRUB (R267 to R269): a scrubber acts on the line that it has read and reads the next one, in ascending order; its code
finds an error in it or none, and can correct what it finds or not. -/
def execPatrolScrub (stack : Nat) (error fixable : Bool) (s : State) : Answer :=
  if s.svc.power = .off ∨ 8 ≤ stack ∨ s.svc.units.stacksOut.contains stack then .next s
  else
    let f : ScrubFinding := if !error then .clean else if fixable then .correctable else .uncorrectable
    let due := s.coh.scrubs.filter fun q => q.stack == stack
    let s := due.foldl State.scrubbed s
    let k := s.svc.scrub[stack]?.getD 0
    let line := stackLine (!s.svc.units.stacksOut.contains (stack ^^^ 1)) stack k
    .next (({ s with svc := { s.svc with scrub := s.svc.scrub.setIfInBounds stack ((k + 1) % 2 ^ 29) } } : State).updCoh fun c =>
      { c with scrubs := c.scrubs.filter (fun q => q.stack != stack) ++ [⟨stack, line, stack * 2 ^ 56 + 128 * k, f, false⟩] })

end Sys2Proof.Machine
end

