-- ==== Sys2Proof/Machine/Crypto.lean ====
section
/-!
DEFINITION. SHA-512 and Ed25519 (R28, R418, R422), which the manual names by RFC 8032 (PureEd25519, the group equation
with the cofactor). Constants are computed from their definitions: roots of primes, the curve's equation.
-/

namespace Sys2Proof.Machine

-- SHA-512

/-- The floor of the k-th root of x, bit by bit from bit n - 1 down. -/
def rootFloor (k x : Nat) : Nat → Nat → Nat
  | 0, r => r
  | n + 1, r => if (r + 2 ^ n) ^ k ≤ x then rootFloor k x n (r + 2 ^ n) else rootFloor k x n r

/-- The first 80 primes. -/
def shaPrimes : List Nat := (List.range 410).filter fun n => 2 ≤ n && (List.range 21).all fun d => d < 2 || d = n || n % d ≠ 0

/-- The first 64 bits of the fractional part of the k-th root of a prime. -/
def rootBits (k p : Nat) : Nat := rootFloor k (p * 2 ^ (64 * k)) 72 0 % 2 ^ 64

/-- Round constants. -/
def shaK : List Word := shaPrimes.map fun p => wordOfNat (rootBits 3 p)

/-- Initial hash value. -/
def shaInit : List Word := (shaPrimes.take 8).map fun p => wordOfNat (rootBits 2 p)

/-- The message schedule extended to n more words. -/
def shaSchedule : Nat → List Word → List Word
  | 0, w => w
  | n + 1, w =>
    let at_ (k : Nat) := w.getD (w.length - k) 0
    let s0 := (at_ 15).rotateRight 1 ^^^ (at_ 15).rotateRight 8 ^^^ (at_ 15) >>> 7
    let s1 := (at_ 2).rotateRight 19 ^^^ (at_ 2).rotateRight 61 ^^^ (at_ 2) >>> 6
    shaSchedule n (w ++ [at_ 16 + s0 + at_ 7 + s1])

/-- One round on the eight working words. -/
def shaRound (v : List Word) (kw : Word) : List Word :=
  match v with
  | [a, b, c, d, e, f, g, h] =>
    let s1 := e.rotateRight 14 ^^^ e.rotateRight 18 ^^^ e.rotateRight 41
    let t1 := h + s1 + ((e &&& f) ^^^ (~~~e &&& g)) + kw
    let s0 := a.rotateRight 28 ^^^ a.rotateRight 34 ^^^ a.rotateRight 39
    let t2 := s0 + ((a &&& b) ^^^ (a &&& c) ^^^ (b &&& c))
    [t1 + t2, a, b, c, d + t1, e, f, g]
  | v => v

/-- A big-endian word of eight bytes. -/
def beWord (bs : List Byte) : Word := wordOfNat (natOfBytes bs.reverse)

/-- Lists of n items each, `k` of them. -/
def chunksOf {α : Type} (n : Nat) : Nat → List α → List (List α)
  | 0, _ => []
  | k + 1, xs => xs.take n :: chunksOf n k (xs.drop n)

/-- One block of 128 bytes. -/
def shaBlock (h : List Word) (b : List Byte) : List Word :=
  let w := shaSchedule 64 ((chunksOf 8 16 b).map beWord)
  List.zipWith (· + ·) h ((List.zipWith (· + ·) shaK w).foldl shaRound h)

/-- SHA-512 of a message, 64 bytes. -/
def sha512 (m : List Byte) : List Byte :=
  let pad := (239 - m.length % 128) % 128
  let msg := m ++ [0x80] ++ List.replicate pad 0 ++ (bytesOf (8 * m.length) 16).reverse
  ((chunksOf 128 (msg.length / 128) msg).foldl shaBlock shaInit).flatMap fun w => (bytesOf w.toNat 8).reverse

-- the curve

/-- The field's prime. -/
def edP : Nat := 2 ^ 255 - 19

/-- The order of the base point. -/
def edL : Nat := 2 ^ 252 + 27742317777372353535851937790883648493

/-- x^e in the field; e below 2^n. -/
def edPow (x e : Nat) : Nat → Nat
  | 0 => 1
  | n + 1 =>
    let y := edPow x (e / 2) n
    let z := y * y % edP
    if e % 2 = 1 then z * x % edP else z

/-- Inverse in the field. -/
def edInv (x : Nat) : Nat := edPow x (edP - 2) 255

/-- Difference in the field. -/
def edSub (x y : Nat) : Nat := (x + (edP - y % edP)) % edP

/-- The curve's constant d = -121665 / 121666. -/
def edD : Nat := edSub 0 (121665 * edInv 121666)

/-- A point in extended coordinates X, Y, Z, T. -/
structure EdPoint where
  x : Nat
  y : Nat
  z : Nat
  t : Nat
  deriving DecidableEq, Repr

/-- Sum of points. -/
def EdPoint.add (p q : EdPoint) : EdPoint :=
  let a := edSub p.y p.x * edSub q.y q.x % edP
  let b := (p.y + p.x) * (q.y + q.x) % edP
  let c := 2 * p.t * q.t * edD % edP
  let d := 2 * p.z * q.z % edP
  let e := edSub b a
  let f := edSub d c
  let g := (d + c) % edP
  let h := (b + a) % edP
  ⟨e * f % edP, g * h % edP, f * g % edP, e * h % edP⟩

/-- The neutral point. -/
def EdPoint.zero : EdPoint := ⟨0, 1, 1, 0⟩

/-- k times a point; k below 2^n. -/
def EdPoint.mul (p : EdPoint) (k : Nat) : Nat → EdPoint
  | 0 => EdPoint.zero
  | n + 1 =>
    let h := p.mul (k / 2) n
    let h2 := h.add h
    if k % 2 = 1 then h2.add p else h2

/-- Equality of points. -/
def EdPoint.same (p q : EdPoint) : Bool :=
  p.x * q.z % edP == q.x * p.z % edP && p.y * q.z % edP == q.y * p.z % edP

/-- The x coordinate with a sign for a y coordinate, when there is one. -/
def edRecover (y sign : Nat) : Option Nat :=
  if edP ≤ y then none
  else
    let u := edSub (y * y) 1
    let v := (edD * y * y + 1) % edP
    let x2 := u * edInv v % edP
    let x := edPow x2 ((edP + 3) / 8) 255
    let x := if x * x % edP = x2 then x else x * edPow 2 ((edP - 1) / 4) 255 % edP
    if x * x % edP ≠ x2 then none
    else if x = 0 ∧ sign = 1 then none
    else some (if x % 2 = sign then x else edP - x)

/-- A point from its 32 bytes, as a number. -/
def EdPoint.decode (n : Nat) : Option EdPoint :=
  let y := n % 2 ^ 255
  (edRecover y (bitsAt n 255 1)).map fun x => ⟨x, y, 1, x * y % edP⟩

/-- The 32 bytes of a point, as a number. -/
def EdPoint.encode (p : EdPoint) : Nat :=
  let zi := edInv p.z
  p.y * zi % edP + (p.x * zi % edP) % 2 * 2 ^ 255

/-- The base point: y = 4/5, x even. -/
def edBase : EdPoint :=
  let y := 4 * edInv 5 % edP
  let x := (edRecover y 0).getD 0
  ⟨x, y, 1, x * y % edP⟩

/-- Verification of a 64-byte signature of a message under a 32-byte public key. -/
def edVerify (key : Nat) (msg sig : List Byte) : Bool :=
  let r := natOfBytes (sig.take 32)
  let s := natOfBytes (sig.drop 32)
  match EdPoint.decode key, EdPoint.decode r with
  | some a, some rp =>
    let k := natOfBytes (sha512 (bytesOf r 32 ++ bytesOf key 32 ++ msg)) % edL
    s < edL && ((edBase.mul s 253).mul 8 4).same ((rp.add (a.mul k 253)).mul 8 4)
  | _, _ => false

/-- The secret scalar and the second half of the hash of a secret seed. -/
def edSecret (seed : Nat) : Nat × List Byte :=
  let h := sha512 (bytesOf seed 32)
  let a := natOfBytes (h.take 32)
  (a % 2 ^ 254 / 8 * 8 + 2 ^ 254, h.drop 32)

/-- The public key of a secret seed. -/
def edPublic (seed : Nat) : Nat := (edBase.mul (edSecret seed).1 255).encode

/-- The signature of a message by a secret seed. -/
def edSign (seed : Nat) (msg : List Byte) : List Byte :=
  let (a, tail) := edSecret seed
  let key := edPublic seed
  let r := natOfBytes (sha512 (tail ++ msg)) % edL
  let rp := (edBase.mul r 253).encode
  let k := natOfBytes (sha512 (bytesOf rp 32 ++ bytesOf key 32 ++ msg)) % edL
  bytesOf rp 32 ++ bytesOf ((r + k * a) % edL) 32

end Sys2Proof.Machine
end

