-- ==== Sys2Proof/Machine/Admission.lean ====
section
/-!
DEFINITION. Admission: kernel images and their verification (R26 to R30, R76), cards (R31 to R33, R40), the three
resources and the bound (R71 to R79), and the status word (R69, R70).
-/

namespace Sys2Proof.Machine

-- cards and images

/-- A field of a record held as a number: `len` bytes at offset `off`. -/
def recField (x off len : Nat) : Nat := bitsAt x (8 * off) (8 * len)

/-- Who executes a LAUNCH: its mode, its launch's pair and class, and its SEED. -/
structure Caller where
  super : Bool
  port : Nat
  pasid : Nat
  cls : Nat
  seed : Word
  deriving DecidableEq, Repr

/-- PORT and PASID of a card (R31). -/
def cardPort (c : Nat) : Nat := bitsAt (recField c 0x58 4) 20 1
/-- PASID of a card. -/
def cardPasid (c : Nat) : Nat := bitsAt (recField c 0x58 4) 0 20

/-- The least offset of a list of checks that is marked broken. -/
def firstBroken (xs : List (Nat × Bool)) : Option Nat := ((xs.filter (·.2)).map (·.1)).min?

/-- A used section: its offset and size fields, of an image of `total` bytes, break R27, or it overlaps another. -/
def sectionBroken (total off size : Nat) (others : List (Nat × Nat)) : Bool :=
  size != 0 && (off % 4096 != 0 || off < 4096 || total < off + size + 64
    || others.any fun o => o.2 != 0 && off < o.1 + o.2 && o.1 < off + size)

/-- The first offending field of an image header (R26, R27, R70). -/
def headerBroken (h : Nat) : Option Nat :=
  let f := recField h
  let total := f 0x08 4
  let text := (f 0x10 4, f 0x14 4)
  let ro := (f 0x18 4, f 0x1C 4)
  let dat := (f 0x20 4, f 0x24 4)
  firstBroken [
    (0x00, f 0x00 4 != 0x4B564C45), (0x04, f 0x04 2 != 1), (0x06, 7 < f 0x06 1), (0x07, f 0x07 1 != 0),
    (0x08, total % 64 != 0 || total < 4160 || 0x1000000 < total),
    (0x0C, f 0x0C 4 % 4 != 0 || f 0x0C 4 < text.1 || text.1 + text.2 ≤ f 0x0C 4),
    (0x10, sectionBroken total text.1 text.2 [ro, dat]), (0x14, text.2 == 0 || text.2 % 4 != 0),
    (0x18, sectionBroken total ro.1 ro.2 [text, dat]), (0x20, sectionBroken total dat.1 dat.2 [text, ro]),
    (0x2C, f 0x2C 2 == 0 || 496 < f 0x2C 2), (0x2E, f 0x2E 2 == 0 || 128 < f 0x2E 2),
    (0x34, f 0x34 4 != 0), (0x49, f 0x49 183 != 0)]

/-- A prerequisite entry of a card. -/
def cardPre (c j : Nat) : Prereq :=
  { kind := bitsAt (recField c 0x5D 1) (2 * j) 2, word := recField c (0x60 + 16 * j) 8,
    value := recField c (0x68 + 16 * j) 8, met := false }

/-- Checks of a prerequisite entry (R40): its WORD and VALUE fields. -/
def preChecks (c nextLid j : Nat) : List (Nat × Bool) :=
  let p := cardPre c j
  [(0x60 + 16 * j, (p.kind == 1 && (p.word == 0 || nextLid ≤ p.word)) || (p.kind == 2 && p.word % 8 != 0)),
   (0x68 + 16 * j, p.kind == 1 && p.value != 0)]

/-- The first field of a card that breaks a condition which the card alone decides (R31 to R33). -/
def cardBroken (cl : Caller) (nextLid c : Nat) : Option Nat :=
  let f := recField c
  let cls := f 0x5C 1
  firstBroken ([
    (0x00, f 0x00 2 != 1), (0x02, 8 ≤ f 0x02 2), (0x04, f 0x04 2 == 0 || 496 < f 0x04 2),
    (0x06, f 0x06 2 != 0 && f 0x04 2 % f 0x06 2 != 0), (0x08, f 0x08 2 == 0 || 128 < f 0x08 2),
    (0x0A, f 0x0A 2 < f 0x08 2 || 128 < f 0x0A 2), (0x0C, f 0x0C 4 % 4 != 0 || 4096 < f 0x0C 4),
    (0x10, f 0x10 8 % 4096 != 0), (0x20, f 0x20 8 % 4096 != 0), (0x30, f 0x30 8 == 0),
    (0x38, f 0x38 8 == 0 && cls != 3), (0x40, cls == 0 && f 0x40 8 == 0), (0x48, f 0x48 8 % 4 != 0),
    (0x58, bitsAt (f 0x58 4) 21 11 != 0 || (!cl.super && (cardPort c != cl.port || cardPasid c != cl.pasid))),
    (0x5C, 3 < cls || (!cl.super && cls < cl.cls)),
    (0x5D, (List.range 4).any fun j => (cardPre c j).kind == 3),
    (0xA0, f 0xA0 8 % 64 != 0), (0xA8, f 0xA8 88 != 0)]
    ++ (List.range 4).flatMap (preChecks c nextLid))

/-- The first field of a card that breaks a condition stated by the image header (R31, R33). -/
def cardVsImage (c h : Nat) : Option Nat :=
  let f := recField c
  firstBroken [
    (0x04, recField h 0x2C 2 < f 0x04 2), (0x08, f 0x08 2 < recField h 0x2E 2), (0x0C, f 0x0C 4 < recField h 0x30 4),
    (0xA0, f 0xA0 8 == 0 && recField h 0x24 4 + recField h 0x28 4 != 0)]

-- mappings that a card needs

/-- A stretch lies in device memory. -/
def allDevice (segs : List Seg) : Bool := segs.all fun g => match g.loc with | .dev .. => true | _ => false

/-- A range lies in device memory that grants an access. -/
def State.mapped (s : State) (port pasid va n : Nat) (acc : Access) : Bool :=
  match s.spanPair port pasid va n acc with
  | .error _ => false
  | .ok (segs, _) => allDevice segs

/-- Bytes of data that an image header asks to be placed; none of a header that cannot be read. -/
def dataBytes (h : Option Nat) : Nat := (h.map fun h => recField h 0x24 4 + recField h 0x28 4).getD 0

/-- The areas of a card: the offset of its field, DETAIL of REASON 0x04, its range and the access it needs (R35, R36,
R412); `h` is the image header, none when it cannot be read. -/
def cardAreas (c : Nat) (h : Option Nat) : List (Nat × Nat × Nat × Nat × Access) :=
  let f := recField c
  let data := dataBytes h
  [(0x10, 1, f 0x10 8, (h.map (recField · 0x08 4)).getD 256, .read),
    (0x20, 2, f 0x20 8, f 0x04 2 * slotSizeOf (f 0x0A 2), .write)]
    ++ (if data = 0 then [] else [(0xA0, 3, f 0xA0 8, data, .write)])
    ++ (if f 0x50 8 = 0 then [] else [(0x50, 4, f 0x50 8, 64, .write)])
where
  /-- Bytes of a save slot (R35). -/
  slotSizeOf (gpref : Nat) : Nat := 131072 + 32768 * gpref

/-- The page of an address is a HOSTB page of an address space, whatever access it grants (R399). -/
def State.hostbPage (s : State) (port pasid va : Nat) : Bool :=
  match s.bindingOf port pasid with
  | none => false
  | some b =>
    validVa va && !inWindows va &&
      match s.leafFor [32] b.asid b.root va .read with
      | .error _ => false
      | .ok f =>
        match checkLeaf false (f.entry ||| 0x3C) f.level va .read with
        | .ok (.hostb ..) => true
        | _ => false

/-- The addresses of a card, each with the offset of its field and the bytes it stands for (R33): its areas, DATAAREA with no
data to place, and HANDLER. -/
def cardAddresses (c : Nat) (h : Option Nat) : List (Nat × Nat × Nat) :=
  let f := recField c
  ((cardAreas c h).map fun a => (a.1, a.2.2.1, a.2.2.2.1))
    ++ (if f 0xA0 8 = 0 then [] else [(0xA0, f 0xA0 8, 1)]) ++ (if f 0x48 8 = 0 then [] else [(0x48, f 0x48 8, 4)])

/-- Malformed by an address in a HOSTB page (R33): the field. -/
def State.cardHostb (s : State) (c : Nat) (h : Option Nat) : Option Nat :=
  firstBroken ((cardAddresses c h).map fun a =>
    (a.1, (List.range ((a.2.1 % 4096 + a.2.2 + 4095) / 4096)).any fun k =>
      s.hostbPage (cardPort c) (cardPasid c) ((a.2.1 + 4096 * k) % 2 ^ 64)))

/-- REASON 0x04 (R70, R40, R412): its DETAIL. -/
def State.cardUnmapped (s : State) (c : Nat) (h : Option Nat) : Option Nat :=
  if (s.bindingOf (cardPort c) (cardPasid c)).isNone then some 0
  else
    firstBroken ((cardAreas c h).map (fun a =>
        (a.2.1, !s.mapped (cardPort c) (cardPasid c) a.2.2.1 a.2.2.2.1 a.2.2.2.2
          || (a.2.1 == 4 && a.2.2.1 % 8 != 0)))
      ++ (List.range 4).map fun j =>
        (5 + j, (cardPre c j).kind == 2
          && !s.mapped (cardPort c) (cardPasid c) (cardPre c j).word 8 .read))

-- the bound (R75)

/-- Wk of R75 for classes 0 to 2. -/
def workTerm (bPrime sigma : Nat) : Nat :=
  if sigma = 64 then bPrime
  else (ceilDiv bPrime (sigma * stretchQ - stretchP) + 1) * 64 * stretchQ

/-- Wk of R75 for class 3, with V and F. -/
def floorTerm (v harts bPrime f : Nat) : Nat := ceilDiv (v + (harts - 1) * bPrime) f + bPrime

/-- B' of R75. -/
def budgetPrime (budget : Nat) (matrixFree : Bool) : Nat := if matrixFree then budget else 2 * budget

/-- A + Z + E + H of R75. -/
def fixedTerms (dataBss budget bPrime : Nat) (handler : Nat) (standby : Bool) : Nat :=
  40000 + ceilDiv dataBss 256 + (if standby then 38000 else 0)
    + (if handler = 0 then 38000 else 38000 + max 1900 (budget / 64)) + allowance bPrime

/-- Share units of launches of a class that are not final (R74). -/
def State.usedShare (s : State) (cls : Nat) : Nat :=
  ((s.live.filter fun l => l.cls = cls).map fun l => l.harts * l.share).sum

/-- avail_c of R74. -/
def State.availShare (s : State) (cls : Nat) : Int :=
  let free : Int := s.svc.units.shareUnits - ((List.range 3).map s.usedShare).sum
  let hold (c m : Nat) : Int := if c < cls then max 0 ((m : Int) - s.usedShare c) else 0
  free - hold 0 s.lu.rmin0 - hold 1 s.lu.rmin1

/-- V of R75: the work of class-3 launches that are not final. -/
def workAhead (ls : List Launch) : Nat := ((ls.filter fun l => l.cls = 3 ∧ !isFinal l.state).map fun l => l.harts * l.bPrime).sum

/-- A code of R70 with its DETAIL. -/
abbrev Refused := Nat × Nat

/-- A shortfall as DETAIL states it, saturated. -/
def shortfall (x : Int) : Nat := min x.toNat 0xFFFF

/-- The share and the bound T of a card (R75, R77), or its refusal with 0x07 or 0x08. With no slot available at all F is 0 and
the class-3 term has no value: the card is refused with 0x08 (DESIGN CHOICE: log 60). -/
def State.shareOf (s : State) (cls harts deadline fixed bPrime : Nat) : Except Refused (Nat × Nat) :=
  let fits (r : Nat × Nat) : Except Refused (Nat × Nat) := if 2 ^ 32 ≤ ceilDiv r.2 4096 then .error (8, 0) else .ok r
  if cls = 3 then
    let f := s.svc.units.numFloor
    let t := fixed + floorTerm (workAhead s.lu.launches) harts bPrime f
    if f = 0 ∨ (deadline ≠ 0 ∧ deadline < t) then .error (8, 0) else fits (0, t)
  else
    let avail := s.availShare cls
    if deadline = 0 then
      let sigma := min 64 (avail / harts).toNat
      if sigma = 0 then .error (7, shortfall ((harts : Int) - avail))
      else fits (sigma, fixed + workTerm bPrime sigma)
    else if deadline < fixed + workTerm bPrime 64 then .error (8, 0)
    else
      let sigma := (((List.range 65).filter fun n => 1 ≤ n ∧ fixed + workTerm bPrime n ≤ deadline).head?).getD 64
      if avail < (harts * sigma : Nat) then .error (7, shortfall ((harts * sigma : Nat) - avail))
      else fits (sigma, fixed + workTerm bPrime sigma)

-- verification (R28 to R30)

/-- A launch that is not final refers to an entry (R29). -/
def State.referred (s : State) (e : ImageEntry) : Bool :=
  s.live.any fun l => l.port == e.port && l.pasid == e.pasid && l.image == e.addr

/-- The entry of an image (R29). -/
def State.imageEntry (s : State) (port pasid addr : Nat) : Option ImageEntry :=
  s.lu.images.find? fun e => e.port = port ∧ e.pasid = pasid ∧ e.addr = addr

/-- Enter a verified image; a full table releases the entry launched least recently to which no launch refers. An entry that no
launch has used counts from its verification, and of two that count alike the one entered first goes (DESIGN CHOICE: log 60). -/
def State.enterImage (s : State) (e : ImageEntry) : Option State :=
  let put (old : List ImageEntry) : State := { s with lu := { s.lu with images := old ++ [e] } }
  if s.lu.images.length < 64 then some (put s.lu.images)
  else
    let free := s.lu.images.filter fun i => !s.referred i
    match (free.map (·.used)).min? with
    | none => none
    | some u =>
      match free.find? fun i => i.used = u with
      | some victim => some (put (s.lu.images.filter fun i => i ≠ victim))
      | none => none

/-- The supervisor releases entries, by their numbers; one to which a launch refers stays (R29). -/
def State.releaseImages (s : State) (which : List Nat) : State :=
  { s with lu := { s.lu with images :=
      (((List.range s.lu.images.length).zip s.lu.images).filter fun p => !which.contains p.1 || s.referred p.2).map (·.2) } }

/-- The lines of the pages that hold a range, which are pinned whole (R29). -/
def State.pinsOf (s : State) (port pasid va n : Nat) : List Nat :=
  match s.spanPair port pasid va ((n + 4095) / 4096 * 4096) .read with
  | .ok (segs, _) => segs.filterMap fun g => match g.loc with
    | .dev a _ => some (a / 128)
    | _ => none
  | .error _ => []

/-- What an image's bytes decide (R28, R30, R70): the refusal, or whether it is matrix-free (R76). -/
def State.imageGood (s : State) (h : Nat) (bs : List Byte) : Except Refused Bool :=
  let total := recField h 0x08 4
  let good := match (s.lu.keys[recField h 0x06 1]?).join with
    | none => false
    | some k => edVerify k (sha512 (bs.take (total - 64))) (bs.drop (total - 64))
  if !good then .error (2, 0)
  else
    let text := (bs.drop (recField h 0x10 4)).take (recField h 0x14 4)
    .ok (!((chunksOf 4 (text.length / 4) text).any fun w =>
      let op := natOfBytes w / 2 ^ 26
      op == 0x34 || op == 0x35))

/-- A range of an image as the launch unit reads it (R26, R29, R30): its places, in device memory and not poisoned, with A set
(R400), or the refusal; `part` is DETAIL of REASON 0x0D. -/
def State.imageSpan (s : State) (port pasid va n part : Nat) : Except Refused (List Seg × State) :=
  match s.spanPair port pasid va n .read with
  | .error _ => .error (4, 1)
  | .ok (segs, t) =>
    if segs.any fun g => match g.loc with | .hostb .. => true | _ => false then .error (1, 0x10)
    else if !allDevice segs then .error (4, 1)
    else if t.segsPoisoned segs then .error (0x0D, part)
    else .ok (segs, t.segRead segs)

/-- Verification of an image: (0, 0) with the entry made, or REASON and DETAIL (R26 to R30, R70). An image that another LAUNCH
has entered meanwhile has its entry (R29, R71). -/
def State.verifyImage (s : State) (port pasid addr : Nat) : Refused × State :=
  if (s.imageEntry port pasid addr).isSome then ((0, 0), s)
  else
  match s.imageSpan port pasid addr 256 1 with
  | .error r => (r, s)
  | .ok (hs, s) =>
    let h := s.segNat hs
    match headerBroken h with
    | some off => ((1, 0x100 + off), s)
    | none =>
      let total := recField h 0x08 4
      match s.imageSpan port pasid addr total 2 with
      | .error r => (r, s)
      | .ok (segs, s) =>
        match s.imageGood h (s.segBytes segs) with
        | .error r => (r, s)
        | .ok free =>
          match s.enterImage ⟨port, pasid, addr, total, h, free, s.pinsOf port pasid addr total, s.lu.imageClock⟩ with
          | some t => ((0, 0), t)
          | none => ((3, 0), s)

-- the decision

/-- What the launch unit answers to a card. -/
inductive CardAnswer where
  | refused (reason detail : Nat)
  /-- The image has no entry: its verification comes first. -/
  | unverified
  | accepted (l : Launch)
  deriving DecidableEq, Repr

/-- Z of R75 applies: the module is in Standby, or on its way from there to Run (R22). -/
def State.fromStandby (s : State) : Bool := s.svc.power == .standby || s.svc.power == .waking

/-- The refusal of a card with the lowest code (R70), or its share and T; `h` is its image header, none when it cannot be read: no
header gives a lower bound than one that places no data, which then stands for it (DESIGN CHOICE: log 68). -/
def State.judge (s : State) (c : Nat) (h : Option Nat) (matrixFree : Bool) : Except Refused (Nat × Nat) := do
  let f := recField c
  let harts := f 0x04 2
  let cls := f 0x5C 1
  match s.cardUnmapped c h with
  | some d => throw (4, d)
  | none => pure ()
  let records : Int := 8192 - (s.live.map (·.harts)).sum
  if records < harts then throw (5, shortfall (harts - records))
  let room : Int := (((List.range 4).map s.svc.units.pool).min?.getD 0 : Nat) - s.reservedKib
  let need : Int := 8 * f 0x08 2 * harts
  if room < need then throw (6, shortfall (need - room))
  let bPrime := budgetPrime (f 0x30 8) matrixFree
  let fixed := fixedTerms (dataBytes h) (f 0x30 8) bPrime (f 0x48 8) s.fromStandby
  let r ← s.shareOf cls harts (f 0x40 8) fixed bPrime
  let queue := s.live.filter fun l => l.port = cardPort c ∧ l.pasid = cardPasid c ∧ l.cls = cls
  if 64 ≤ queue.length then throw (9, 0)
  if s.lu.thermal then throw (0x0A, 0)
  if 0x3FFFFFFF < s.lu.nextLid then throw (0x0C, 0)
  pure r

/-- The launch that an accepted card makes. -/
def State.makeLaunch (s : State) (cl : Caller) (c : Nat) (e : ImageEntry) (share t : Nat) : Launch :=
  let f := recField c
  let h := e.header
  let bPrime := budgetPrime (f 0x30 8) e.matrixFree
  { lid := s.lu.nextLid, port := cardPort c, pasid := cardPasid c, cls := f 0x5C 1, harts := f 0x04 2,
    farms := f 0x06 2, gmin := f 0x08 2, gpref := f 0x0A 2, scratch := f 0x0C 4, image := f 0x10 8,
    entry := recField h 0x0C 4, textOff := recField h 0x10 4, textSize := recField h 0x14 4,
    dataOff := recField h 0x20 4, dataSize := recField h 0x24 4, bssSize := recField h 0x28 4,
    arg := wordOfNat (f 0x18 8), save := f 0x20 8,
    seed := if f 0x02 2 % 2 = 0 then wordOfNat (f 0x28 8) else if cl.super then s.lu.dseed else cl.seed,
    budget := f 0x30 8, mbudget := f 0x38 8, deadline := f 0x40 8, handler := wordOfNat (f 0x48 8),
    compl := f 0x50 8, complAt := [],
    data := f 0xA0 8, note := f 0x5E 2, strictPre := bitsAt (f 0x02 2) 2 1 == 1, lright := bitsAt (f 0x02 2) 1 1 == 1,
    pre := (List.range 4).map (cardPre c), share := share,
    fixedT := fixedTerms (recField h 0x24 4 + recField h 0x28 4) (f 0x30 8) bPrime (f 0x48 8) s.fromStandby,
    bPrime := bPrime, bound := ceilDiv t 4096, state := 0, ending := none, cause := 0, causeHart := 0xFFFF,
    causeValue := 0, tmet := none, tfinal := none, mbytes := 0, mbRaised := false, recordDone := false, noticed := false,
    hs := List.replicate (f 0x04 2) ⟨.unplaced, none, 0, f 0x30 8, 0, none, false, 0, false, 0, 0, none⟩,
    farm := List.replicate (if f 0x06 2 = 0 then f 0x04 2 else f 0x06 2) Farm.empty,
    handles := Handles.fresh }

/-- The image header of a card as it reads now; none when it cannot be read. -/
def State.headerNow (s : State) (c : Nat) : Option Nat :=
  match s.spanPair (cardPort c) (cardPasid c) (recField c 0x10 8) 256 .read with
  | .ok (segs, _) => if s.segsPoisoned segs then none else some (s.segNat segs)
  | .error _ => none

/-- REASON 0x01: the lowest offset among the broken fields of the card, alone, beside its image header, and in its address
space (R33). -/
def State.malformed (s : State) (cl : Caller) (c : Nat) (h : Option Nat) : Option Nat :=
  ((cardBroken cl s.lu.nextLid c).toList ++ (h.bind (cardVsImage c)).toList ++ (s.cardHostb c h).toList).min?

/-- The refusal of a card when `q` is a cause that its bytes gave: boot that stopped refuses every card (R415), and of the
causes that hold whatever the card says, the one with the lowest code comes first (R70). -/
def State.lowest (s : State) (q : Refused) : Refused :=
  if s.svc.bootStopped then (0x0A, 1)
  else if s.lu.thermal && 0x0A < q.1 then (0x0A, 0)
  else if 0x3FFFFFFF < s.lu.nextLid ∧ 0x0C < q.1 then (0x0C, 0)
  else q

/-- The launch unit's answer to a card; `outcome` is that of a verification which this LAUNCH has had. When several
causes hold the lowest code is reported (R70); boot that stopped refuses every card (R415). A card whose pair or image
address is itself broken has no image to verify. An image whose body cannot be read counts as matrix-free, which makes the bound
least (DESIGN CHOICE: log 68). -/
def State.consider (s : State) (cl : Caller) (c : Nat) (outcome : Option Refused) : CardAnswer :=
  let bound := (s.bindingOf (cardPort c) (cardPasid c)).isSome
  let aligned := recField c 0x10 8 % 4096 == 0
  let noImage := !aligned || !bound || bitsAt (recField c 0x58 4) 21 11 != 0
    || (!cl.super && (cardPort c != cl.port || cardPasid c != cl.pasid))
    || s.hostbPage (cardPort c) (cardPasid c) (recField c 0x10 8)
  let entry := s.imageEntry (cardPort c) (cardPasid c) (recField c 0x10 8)
  let h := match entry with
    | some e => some e.header
    | none => if aligned then s.headerNow c else none
  if s.svc.bootStopped then .refused 0x0A 1
  else if noImage then
    match s.malformed cl c h with
    | none => .refused 4 0
    | some off => .refused 1 off
  else
    match entry, outcome with
    | some e, _ =>
      match s.malformed cl c h with
      | some off => .refused 1 off
      | none =>
        match s.judge c h e.matrixFree with
        | .error (r, d) => .refused r d
        | .ok (share, t) => .accepted (s.makeLaunch cl c e share t)
    | none, some (0, _) | none, none => .unverified
    | none, some (r, d) =>
      match s.malformed cl c h with
      | some off => .refused 1 off
      | none =>
        match s.judge c h true with
        | .error (r', d') => if r' < r ∨ (r' = r ∧ d' < d) then .refused r' d' else .refused r d
        | .ok _ => .refused (s.lowest (r, d)).1 (s.lowest (r, d)).2

/-- Status words (R69). -/
def refusedWord (reason detail : Nat) : Word := wordOfNat (2 ^ 63 + reason % 256 * 2 ^ 16 + detail % 2 ^ 16)

/-- The status word of an accepted card. -/
def acceptedWord (lid bound : Nat) : Word := wordOfNat (2 ^ 62 + lid * 2 ^ 32 + bound % 2 ^ 32)

/-- The exit from Standby begins (R21, R22). -/
def State.wakeUp (s : State) : State :=
  if s.svc.power = .standby then
    { s with svc := { s.svc with power := .waking }, inbox := s.inbox ++ [.standbyExitDone] }
  else s

/-- The place of the completion record as acceptance translates it, with A and D set (R400, R412, R446). -/
def State.placeRecord (s : State) (l : Launch) : List Seg × State :=
  if l.compl = 0 then ([], s)
  else
    match s.spanPair l.port l.pasid l.compl 64 .write with
    | .ok (segs, t) => (segs, t)
    | .error _ => ([], s)

/-- Enter an accepted launch: its id, its image's use, the place of its record, the exit from Standby (R22), its prerequisites
(R41). -/
def State.accept (s : State) (l : Launch) : State :=
  let (at_, s) := s.placeRecord l
  let s : State := { s with lu := { s.lu with
    launches := s.lu.launches ++ [{ l with complAt := at_ }], nextLid := s.lu.nextLid + 1, imageClock := s.lu.imageClock + 1,
    images := s.lu.images.map fun e =>
      if e.port = l.port ∧ e.pasid = l.pasid ∧ e.addr = l.image then { e with used := s.lu.imageClock + 1 } else e } }
  s.wakeUp.trackGrant.settleOne l.lid

/-- The caller that the acting hart is (R33, R39). -/
def State.caller (s : State) : Caller :=
  match s.myLaunch with
  | some l => ⟨s.hart.super, l.port, l.pasid, l.cls, s.hart.seed⟩
  | none => ⟨s.hart.super, 0, 0, 0, s.hart.seed⟩

end Sys2Proof.Machine
end

