-- ==== Sys2Proof/Machine/Context.lean ====
section
/-!
DEFINITION. The save slot: the image of a hart's context and what a restore makes of one (R35, R193, R393 to R395).
-/

namespace Sys2Proof.Machine

/-- Bytes of a save slot (R35). -/
def slotSize (gpref : Nat) : Nat := 131072 + 32768 * gpref

/-- The HELD word (R394). -/
def Hart.heldWord (h : Hart) : Nat :=
  (if h.heldBudget.isSome then 1 else 0) + (if h.heldMember.isSome then 2 else 0)
    + (if h.heldRefusal.isSome then 4 else 0) + (h.heldBudget.getD 0) % 2 * 8
    + ((h.heldMember.map (·.toNat)).getD 0) % 2 ^ 32 * 2 ^ 32

/-- Word n of the control area (R394). -/
def Hart.ctxWord (h : Hart) (pc : Word) (n : Nat) : Nat :=
  if 14 ≤ n ∧ n ≤ 21 then ((h.wm[n - 14]?).getD 0).toNat
  else if 22 ≤ n ∧ n ≤ 29 then
    ((h.wmb[n - 22]?).map fun b => b.addr.toNat ||| b.sc.toNat).getD 0
  else
    match n with
    | 0 => pc.toNat
    | 1 => h.vl
    | 2 => h.vtype.toNat
    | 3 => h.vstart
    | 4 => h.mvl.toNat
    | 5 => h.ifmt
    | 6 => h.slip
    | 7 => h.seed.toNat
    | 8 => h.status.toNat
    | 9 => h.tpc.toNat
    | 10 => h.tcause.toNat
    | 11 => h.tval.toNat
    | 12 => h.tscratch.toNat
    | 13 => h.viewnote.toNat
    | 30 => h.heldWord
    | 31 => ((h.heldRefusal.map (·.toNat)).getD 0)
    | _ => 0

/-- The image of a yarn slot, 1,024 bytes (R395). -/
def YarnSlot.image (y : YarnSlot) : List Byte :=
  bytesOf y.record 64 ++ bytesOf y.pos 8 ++ bytesOf y.byteOff 8 ++ bytesOf y.prev 8 ++ bytesOf y.valOff 8
    ++ bytesOf y.epoch 8 ++ bytesOf y.held.length 8 ++ bytesOf (if y.bound then 1 else 0) 8 ++ bytesOf 0 8
    ++ ((List.range 64).map fun i => bytesOf (y.held.getD i 0) 8).flatten ++ bytesOf 0 384

/-- The image of a hart's context that resumes at `pc`, header first (R393). -/
def Hart.image (h : Hart) (pc : Word) : List Byte :=
  bytesOf 0x54584353 4 ++ bytesOf 1 2 ++ bytesOf 1 2 ++ bytesOf h.grant 8 ++ bytesOf h.lid 8 ++ bytesOf h.j 8
    ++ bytesOf 0 224
    ++ ((List.range 32).map fun r => bytesOf (if r = 0 then 0 else ((h.x[r]?).getD 0).toNat) 8).flatten
    ++ ((List.range 64).map fun n => bytesOf (h.ctxWord pc n) 8).flatten
    ++ (h.y.toList.map YarnSlot.image).flatten ++ bytesOf 0 7168
    ++ bytesOf h.smiss 8192 ++ bytesOf 0 8192
    ++ (h.acc.toList.map fun t => bytesOf t 8192).flatten
    ++ (h.k.toList.map fun m => bytesOf m 8192).flatten
    ++ (h.v.toList.map fun v => bytesOf v (1024 * h.grant)).flatten

/-- Offsets in the image of the 8-byte words that hold poisoned register words (R405). -/
def Hart.imagePoison (h : Hart) : List Nat :=
  h.poison.map fun p =>
    if p.file = 0 then 0x20000 + 1024 * h.grant * p.reg + 8 * p.idx
    else if p.file = 1 then 0x10000 + 8192 * p.reg + 8 * p.idx
    else 0x8000 + 8192 * p.reg + 8 * p.idx

/-- A yarn slot from its image, the image's bytes as a number (R395). -/
def YarnSlot.ofImage (x : Nat) : YarnSlot where
  bound := bitsAt x (8 * 0x070) 1 == 1
  record := bitsAt x 0 512
  pos := bitsAt x (8 * 0x040) 64
  byteOff := bitsAt x (8 * 0x048) 64
  prev := bitsAt x (8 * 0x050) 64
  valOff := bitsAt x (8 * 0x058) 64
  epoch := bitsAt x (8 * 0x060) 64
  held := (List.range (min (bitsAt x (8 * 0x068) 64) 63)).map fun i => bitsAt x (8 * 0x080 + 64 * i) 64

/-- An 8-byte word of an image. -/
def imgWord (x off : Nat) : Nat := bitsAt x (8 * off) 64

/-- Word n of the control area of an image. -/
def ctlWord (x n : Nat) : Word := wordOfNat (imgWord x (0x200 + 8 * n))

/-- Load everything of an image but PC, STATUS and the trap registers: registers as the image holds them, control
words as a supervisor CRW would write them (R394). -/
def Hart.loadImage (h : Hart) (x : Nat) : Hart :=
  let h := { h with
    x := Vector.ofFn fun (r : Fin 32) => if r.val = 0 then 0 else wordOfNat (imgWord x (0x100 + 8 * r.val))
    v := Vector.ofFn fun (r : Fin 32) => bitsAt x (8 * (0x20000 + 1024 * h.grant * r.val)) (8192 * h.grant)
    k := Vector.ofFn fun (r : Fin 8) => bitsAt x (8 * (0x10000 + 8192 * r.val)) 65536
    smiss := bitsAt x (8 * 0x4000) 65536
    acc := Vector.ofFn fun (r : Fin 4) => bitsAt x (8 * (0x8000 + 8192 * r.val)) 65536
    y := Vector.ofFn fun (r : Fin 8) => YarnSlot.ofImage (bitsAt x (8 * (0x400 + 1024 * r.val)) 8192)
    poison := [] }
  let vt := ctlWord x 2 &&& 0x3FF
  let h := if admitted vt then { h with vtype := vt }.writeVl (ctlWord x 1) else { h with vtype := 3, vl := 0 }
  let h := (((h.writePlain 0x002 (ctlWord x 3)).writeMvl (ctlWord x 4)).writeMtype (ctlWord x 5)).writeSlip (ctlWord x 6)
  let h := (h.writePlain 0x010 (ctlWord x 7)).writePlain 0x080 (ctlWord x 13)
  let held := ctlWord x 30
  { h with
    tval := ctlWord x 11
    tscratch := ctlWord x 12
    wm := Vector.ofFn fun (k : Fin 8) => ctlWord x (14 + k.val)
    wmb := Vector.ofFn fun (k : Fin 8) =>
      let w := ctlWord x (22 + k.val)
      ⟨w &&& 0xFFFFFFFFFFFFFFF8, w.extractLsb' 0 3⟩
    heldBudget := if held.getLsbD 0 then some (if held.getLsbD 3 then 1 else 0) else none
    heldMember := if held.getLsbD 1 then some (held >>> 32) else none
    heldRefusal := if held.getLsbD 2 then some (ctlWord x 31) else none }

/-- A restore by the launch unit (R394): MODE, PMODE and ACTIVE take their saved values. -/
def Hart.restoreFrom (h : Hart) (x : Nat) : Hart :=
  let st := ctlWord x 8
  let h := h.loadImage x
  let h := { h with status := h.status ||| 0x10000 }.writeStatus st
  { h with
    pc := ctlWord x 0
    status := (h.status &&& ~~~(0x30000 : Word)) ||| (st &&& 0x30000)
    tpc := ctlWord x 9
    tcause := ctlWord x 10 &&& 0x80000000000000FF }

/-- CTXLD's load (R193): the slot's PC goes to TPC, its MODE to PMODE, MODE stays 1, ACTIVE keeps its value. -/
def Hart.loadFrom (h : Hart) (x : Nat) : Hart :=
  let st := ctlWord x 8
  let h1 := (h.loadImage x).writeStatus st
  { h1 with
    status := (h1.status &&& ~~~(0x20000 : Word)) ||| 0x10000 ||| (if st.getLsbD 16 then 0x20000 else 0)
    tpc := ctlWord x 0
    tcause := (h.tcause &&& 0x8000000000000000) ||| (ctlWord x 10 &&& 0xFF) }

/-- Bytes of a slot's header (R393). -/
def headerSize : Nat := 32

/-- The header names a valid slot of grant `g` (R193). -/
def headerValid (x g : Nat) : Bool :=
  bitsAt x 0 32 == 0x54584353 && bitsAt x 32 16 == 1 && bitsAt x 48 1 == 1 && bitsAt x 64 64 == g

/-- The header also names the hart (R393). -/
def headerNames (x lid j : Nat) : Bool := bitsAt x 128 64 == lid && bitsAt x 192 64 == j

end Sys2Proof.Machine
end

