-- ==== Sys2Proof/Machine/LaunchUnit.lean ====
section
/-!
DEFINITION. LAUNCH, LSTAT and LCANCEL (R198 to R200), verification (R29), submission from a host (R66 to R68), the
prerequisites, the start of a launch (R36, R37, R79, R85 to R90), its promised time (R81), refits (R82, R86), and the
completion record with its notice (R412 to R414).
-/

namespace Sys2Proof.Machine

-- LAUNCH (R198)

/-- What LAUNCH reads at a card's address (R31, R34): the card, or the refusal. -/
def State.readCard (s : State) (va : Nat) : Except Refused (Nat × State) :=
  if va % 256 ≠ 0 then .error (1, 0)
  else
    match spanWith (fun s a => s.xlate a .read) (piecesOf va 256) s with
    | .error _ => .error (4, 0)
    | .ok (segs, t) =>
      if !allDevice segs then .error (4, 0)
      else if t.segsPoisoned segs then .error (0x0D, 0)
      else .ok (t.segNat segs, t.segRead segs)

/-- The verification that the acting hart's LAUNCH has begun and waits for. -/
def State.myVerif (s : State) : Option Verification :=
  s.hart.begun.verif.bind fun n => s.lu.verifs.find? fun v => v.id = n

/-- Forget a verification. -/
def State.dropVerif (s : State) (id : Nat) : State :=
  { s with lu := { s.lu with verifs := s.lu.verifs.filter fun v => v.id ≠ id } }

/-- Begin the verification of a card's image, during which the LAUNCH waits. -/
def State.startVerif (s : State) (c : Nat) : State :=
  let v : Verification := ⟨s.nextOp, s.hart.hid, c, cardPort c, cardPasid c, recField c 0x10 8, none⟩
  let s : State := { s with nextOp := s.nextOp + 1, lu := { s.lu with verifs := s.lu.verifs ++ [v] } }
  (s.withHart fun h => { h with begun := { h.begun with verif := some v.id } }).stall false

/-- LAUNCH returns its status word. -/
def State.launched (s : State) (d : Reg) (w : Word) : State :=
  let s := match s.hart.begun.verif with
    | some n => s.dropVerif n
    | none => s
  (s.done1 d w).withHart fun h => { h with run := .ready, begun := Begun.fresh }

/-- Decide a card as read: the status word, or the start of a verification. -/
def launchCard (d : Reg) (c : Nat) (outcome : Option Refused) (s : State) : State :=
  match s.consider s.caller c outcome with
  | .refused r x => s.launched d (refusedWord r x)
  | .accepted l => (s.launched d (acceptedWord l.lid l.bound)).accept l
  | .unverified => s.startVerif c

/-- LAUNCH (R198): access fault without launch rights, before anything is read (R32). -/
def execLaunch (d a : Reg) (s : State) : Answer :=
  if !s.hart.super && !((s.myLaunch.map (·.lright)).getD false) then .next (takeTrap true accessFault 0 0 s)
  else
    match s.myVerif with
    | some v =>
      match v.outcome with
      | none => .next (s.stall false)
      | some o => .next (launchCard d v.card (some o) s)
    | none =>
      match s.readCard (s.rx a).toNat with
      | .error q => .next (s.done1 d (refusedWord (s.lowest q).1 (s.lowest q).2))
      | .ok (c, t) => .next (launchCard d c none t)

/-- IMAGE_VERIFICATION_DONE (R29, R30, R170): an image that passes is entered, after the entries that the supervisor releases;
the outcome goes to the LAUNCH that waits for it, if it still does. -/
def execImageVerificationDone (v : Verified) (s : State) : Answer :=
  let s := s.releaseImages v.releases
  match s.lu.verifs.find? fun w => w.hid = v.hid ∧ w.outcome.isNone with
  | none => .next s
  | some v =>
    let (o, t) := s.verifyImage v.port v.pasid v.addr
    let waiting := t.placed.any fun h => h.begun.verif == some v.id
    .next (if waiting then
        { t with lu := { t.lu with verifs := t.lu.verifs.map fun w => if w.id = v.id then { w with outcome := some o } else w } }
      else t.dropVerif v.id)

/-- A launch is visible to the acting hart (R199, R200): in task mode, one of its own pair. -/
def State.visible (s : State) (l : Launch) : Bool :=
  s.hart.super ||
    match s.myLaunch with
    | some m => m.port == l.port && m.pasid == l.pasid
    | none => false

/-- LSTAT (R199). -/
def execLstat (d a : Reg) (s : State) : Answer :=
  let w := match s.launch? (s.rx a).toNat with
    | some l => if s.visible l then 256 + l.state else 0
    | none => 0
  .next (s.done1 d (wordOfNat w))

/-- LCANCEL (R200): the result, and the cancellation when it comes before any final state. -/
def execLcancel (d a : Reg) (s : State) : Answer :=
  let lid := (s.rx a).toNat
  let right := s.hart.super || ((s.myLaunch.map (·.lright)).getD false) || lid == s.hart.lid
  match s.launch? lid with
  | some l =>
    if !s.visible l || !right then .next (s.done1 d 2)
    else if isFinal l.state then .next (s.done1 d 1)
    else .next ((s.done1 d 0).endLaunch lid 0xA 0 0xFFFF 0)
  | none => .next (s.done1 d 2)

-- submission from a host (R66 to R68)

/-- The status word for a posted card, its verification included; a card that names another port is refused by the
supervisor (R68). -/
def postedStatus (port c : Nat) (s : State) : Word × State :=
  let cl : Caller := ⟨true, port, 0, 0, 0⟩
  let settle (s : State) (a : CardAnswer) : Word × State :=
    match a with
    | .accepted l => (acceptedWord l.lid l.bound, s.accept l)
    | .refused r d => (refusedWord r d, s)
    | .unverified => (refusedWord 4 1, s)
  if cardPort c ≠ port then (refusedWord 0x0B 0, s)
  else
    match s.consider cl c none with
    | .unverified =>
      let (o, t) := s.verifyImage (cardPort c) (cardPasid c) (recField c 0x10 8)
      settle t (t.consider cl c (some o))
    | a => settle s a

/-- Slots that a port has posted (R66), as a number. -/
def State.postmap (s : State) (port : Nat) : Nat := s.memNat (Config.bar0 port + 0x4600) 8

/-- HANDLE_POSTED_SLOT (R68): the lowest posted slot of the lower port comes first. -/
def execHandlePostedSlot (port slot : Nat) (s : State) : Answer :=
  let map := s.postmap port
  let first := 2 ≤ port || 64 ≤ slot || !map.testBit slot || map % 2 ^ slot != 0 || (port == 1 && s.postmap 0 != 0)
  if first then .next s
  else
    let b := Config.bar0 port
    let s := s.setWord (.dev (b + 0x4600) false) (map - 2 ^ slot)
    let bad := s.linePoisoned ((b + 256 * slot) / 128) || s.linePoisoned ((b + 256 * slot) / 128 + 1)
    let (w, s) := if bad then (refusedWord (s.lowest (0x0D, 0)).1 (s.lowest (0x0D, 0)).2, s) else postedStatus port (s.memNat (b + 256 * slot) 256) s
    let entry (s : State) (k x : Nat) := s.segWrite [⟨.dev (b + 0x4200 + 16 * slot + k) false, 8⟩] (bytesOf x 8)
    let s := entry s 0 w.toNat
    let s := entry s 8 (s.memNat (b + 0x4000 + 8 * slot) 8)
    let vec := s.memNat (b + 0x4608) 2
    .next (if vec = 0xFFFF then s else s.send [.msix port vec])

-- prerequisites on progress words (R40, R41)

/-- The word of a prerequisite entry, when the launch unit can read it, with A set in its page's entry (R400). -/
def State.preWord (s : State) (l : Launch) (p : Prereq) : Option (Nat × State) :=
  match s.xlatePair l.port l.pasid .read p.word with
  | .ok (.dev a sy, t) => if s.poisonedAt (.dev a sy) 8 then none else some (s.memNat a 8, t.moves .passing false (.dev a sy) 8)
  | _ => none

/-- The unmet progress-word entry j of a queued launch. -/
def State.openPre (s : State) (lid j : Nat) : Option (Launch × Prereq) := do
  let l ← s.launch? lid
  let p ← l.pre[j]?
  if l.state = 0 ∧ p.kind = 2 ∧ !p.met then some (l, p) else none

/-- PREREQ_WORD_MET. -/
def execPrereqWordMet (lid j : Nat) (s : State) : Answer :=
  match s.openPre lid j with
  | none => .next s
  | some (l, p) =>
    match s.preWord l p with
    | none => .next s
    | some (x, s) =>
      if x < p.value then .next s
      else .next ((s.updLaunch lid fun l => { l with pre := l.pre.modify j fun p => { p with met := true } }).settleOne lid)

/-- PREREQ_UNREADABLE: the launch ends PREFAIL with j and WORD. -/
def execPrereqUnreadable (lid j : Nat) (s : State) : Answer :=
  match s.openPre lid j with
  | none => .next s
  | some (l, p) =>
    match s.preWord l p with
    | some _ => .next s
    | none =>
      .next ((s.updLaunch lid fun l => { l with cause := j, causeHart := 0xFFFF, causeValue := p.word }).finalize lid 12)

-- placement (R84 to R90)

/-- A slot holds no hart. -/
def State.slotFree (s : State) (hid : Nat) : Bool := !(s.placed.any fun h => h.hid == hid)

/-- KiB of scratchpad regions on a core, other than those of one launch. -/
def State.coreKib (s : State) (core lid : Nat) : Nat :=
  ((s.regions.filter fun r => (r.lies = core ∨ r.moveTo = some core) ∧ r.lid ≠ lid).map (·.kib)).sum

/-- A core can take a launch's region, or holds it (R88). -/
def State.coreRoom (s : State) (l : Launch) (core : Nat) : Bool := l.scratch = 0 || s.coreKib core l.lid + l.scratch ≤ 4096

/-- A region of a launch is to move to a core, and cannot yet: a hart of the launch is placed on the core where it lies (R86). -/
def State.regionHeld (s : State) (lid core : Nat) : Bool :=
  s.regions.any fun r => r.lid == lid && r.moveTo == some core && s.placed.any fun h => h.lid == lid && h.hid / 16 == r.lies

/-- A slot may hold a hart of a launch whose home core, if any, is given (R72, R85, R86, R88): a floor slot is for class 3 only;
the core has room for the region, which is there or can come. -/
def State.slotSuits (s : State) (l : Launch) (home : Option Nat) (hid : Nat) : Bool :=
  (l.cls == 3 || !s.svc.units.floorSlots.contains hid) && s.coreRoom l (hid / 16) && !s.regionHeld l.lid (hid / 16)
    && (home.isNone || home == some (hid / 16))

/-- A hart that waits for a slot, or, for a ready launch, its first hart. `lent` says that it only borrows capacity: it is of
class 3, or has had its stretch in this frame (R73, R74). -/
structure Claim where
  lent : Bool
  cls : Nat
  lid : Nat
  j : Nat
  home : Option Nat
  deriving DecidableEq, Repr

/-- The hart of one claim comes before that of another: an owner of capacity before a borrower, then class by class, then in
admission order (R74, R76, R79). -/
def Claim.before (a b : Claim) : Bool :=
  if a.lent != b.lent then b.lent
  else if a.cls ≠ b.cls then a.cls < b.cls
  else if a.lid ≠ b.lid then a.lid < b.lid
  else a.j < b.j

/-- The claim of hart j of a launch. -/
def State.claim (s : State) (l : Launch) (j : Nat) (r : LHart) : Claim :=
  ⟨l.cls == 3 || r.served == s.frame, l.cls, l.lid, j, r.home⟩

/-- The claims of all launches. -/
def State.claims (s : State) : List Claim :=
  s.live.flatMap fun l =>
    if l.state = 1 then [⟨l.cls == 3, l.cls, l.lid, 0, none⟩]
    else if l.state = 2 ∧ l.ending.isNone then
      ((List.range l.hs.length).zip l.hs).filterMap fun p =>
        if p.2.pos = .unplaced ∨ p.2.pos = .saved then some (s.claim l p.1 p.2) else none
    else []

/-- A slot suits a claim. -/
def State.suitsClaim (s : State) (c : Claim) (hid : Nat) : Bool := ((s.launch? c.lid).map fun l => s.slotSuits l c.home hid).getD false

/-- Slots eligible for a claim: free, suited, and wanted by no claim that comes before it (R74, R76, R79, R85, R86). -/
def State.eligible (s : State) (c : Claim) : List Nat :=
  let earlier := s.claims.filter (·.before c)
  s.svc.units.slots.filter fun h => s.slotFree h && s.suitsClaim c h && !(earlier.any fun o => s.suitsClaim o h)

/-- The slot that R85 chooses: fewest harts of the launch on the core, then the lowest core, then the lowest id. -/
def State.chooseSlot (s : State) (c : Claim) : Option Nat :=
  let count (h : Nat) := (s.placed.filter fun p => p.lid = c.lid ∧ p.hid / 16 = h / 16).length
  (s.eligible c).foldl (fun best h =>
    match best with
    | none => some h
    | some b => if count h < count b then some h else some b) none

/-- The slot for hart j of a launch. -/
def State.slotOf (s : State) (l : Launch) (j : Nat) : Option Nat :=
  (l.hs[j]?).bind fun r => s.chooseSlot (s.claim l j r)

/-- A region of a launch that is to move to a core does so (R86). -/
def State.bringRegion (s : State) (lid core : Nat) : State :=
  { s with regions := s.regions.map fun r =>
      if r.lid = lid ∧ r.moveTo = some core then { r with lies := core, moveTo := none } else r }

/-- The region of a launch on a core: one that is to come there moves, and with none there it is made, zeroed, at the first
placement (R86, R88). -/
def State.withRegion (s : State) (l : Launch) (core : Nat) : State :=
  let s := s.bringRegion l.lid core
  if l.scratch = 0 || (s.regions.any fun r => r.lid == l.lid && r.lies == core) then s
  else { s with regions := s.regions ++ [⟨core, l.lid, l.scratch, [], [], none, core⟩] }

/-- A hart of a launch as it starts (R37, R106), its slot in SWAP until it has arrived (R132). TVEC, which the firmware sets,
starts at 0 (DESIGN CHOICE: log 60). -/
def startHart (l : Launch) (hid j grant asid root clock : Nat) : Hart :=
  let h := Hart.fresh hid
  { h with
    lid := l.lid
    j := j
    pc := wordOfNat (l.image + l.entry)
    x := (((h.x.setIfInBounds 10 l.arg).setIfInBounds 11 (wordOfNat j)).setIfInBounds 12 (wordOfNat l.harts)).setIfInBounds 13
      (wordOfNat l.data)
    seed := l.seed
    grant := grant
    asid := asid
    ptroot := wordOfNat root
    budget := l.budget
    since := clock
    run := .swap
    arriving := true }

/-- The grant of a first placement (R90). -/
def State.firstGrant (s : State) (l : Launch) : Nat := (largestGrant l.gmin l.gpref l.gmin s.tightPool).getD l.gmin

/-- The first placement of hart j (R85, R90); unchanged when no slot is eligible. -/
def State.placeFirst (s : State) (lid j : Nat) : State :=
  match s.launch? lid with
  | none => s
  | some l =>
    match s.slotOf l j with
    | none => s
    | some hid =>
      let g := s.firstGrant l
      let b := (s.bindingOf l.port l.pasid).getD ⟨l.port, l.pasid, 0, 0⟩
      let home := if l.scratch = 0 then none else some (hid / 16)
      let s := s.withRegion l (hid / 16)
      let s := s.updLHart lid j fun r => { r with pos := .placed, home := home, grant := g }
      let s := s.updLaunch lid fun l => { l with state := 2 }
      ({ s with parked := s.parked ++ [startHart l hid j g b.asid b.root s.clock] } : State).trackGrant

/-- A placed hart need not keep its slot (R73, R74, R76): one of class 3 on a lent slot, or one of another class whose share is
less than a whole slot and which has had its stretch in this frame. A hart on a floor slot runs to its end. -/
def State.mayPreempt (s : State) (h : Hart) : Bool :=
  match s.launch? h.lid with
  | none => false
  | some l =>
    h.stop.isNone && !h.arriving && h.run != .swap &&
      if l.cls = 3 then !s.svc.units.floorSlots.contains h.hid
      else l.share < 64 && (s.stretched h || ((l.hs[h.j]?).map (·.served)) == some s.frame)

/-- The placement that ends for an owner of capacity with no slot (R74, R79): none while one that suits it is ending already; else
of the placements that need not last and whose slot suits it, one of the lowest class. -/
def State.roomFor (s : State) (c : Claim) : Option Instr :=
  let cls (h : Hart) : Nat := ((s.launch? h.lid).map (·.cls)).getD 0
  let mine := s.placed.filter fun h => s.suitsClaim c h.hid
  if c.lent || mine.any fun h => h.stop.isSome || (h.run == .swap && !h.arriving) then none
  else
    ([3, 2, 1, 0].findSome? fun k => mine.find? fun h => s.mayPreempt h && cls h == k).map fun h => .stretchPreemption h.hid

/-- Hart j is the next one of its launch to have its first placement (R85). -/
def Launch.hartNext (l : Launch) (j : Nat) : Bool := (List.range j).all fun i => ((l.hs[i]?).map (·.pos)) != some .unplaced

/-- The copy of the data section to DATAAREA and the zeroed bytes after it (R36), or the fault: code and address. The whole data
section is translated first, then DATAAREA, and with a fault in either nothing is copied (DESIGN CHOICE: log 60). -/
def State.copyData (s : State) (l : Launch) : Except (Nat × Nat) State :=
  match s.spanPair l.port l.pasid (l.image + l.dataOff) l.dataSize .read with
  | .error e => .error e
  | .ok (src, s1) =>
    match s1.spanPair l.port l.pasid l.data (l.dataSize + l.bssSize) .write with
    | .error e => .error e
    | .ok (dst, s2) =>
      let s3 := s2.segCopy src (segsAt dst 0 l.dataSize) l.dataSize
      .ok (s3.segWrite (segsAt dst l.dataSize l.bssSize) (List.replicate l.bssSize 0))

/-- No ready launch comes before this one (R79). -/
def State.isNext (s : State) (l : Launch) : Bool :=
  !(s.lu.launches.any fun o => o.state == 1 && (o.cls < l.cls || (o.cls == l.cls && o.lid < l.lid)))

/-- What the launch unit does by itself for one claim: it gives it a slot that is eligible, or ends a placement for its owner. -/
def State.claimWork (s : State) (c : Claim) : List Instr :=
  match s.launch? c.lid with
  | none => []
  | some l =>
    if l.state = 1 && !s.isNext l || l.state = 2 && ((l.hs[c.j]?).map (·.pos)) == some .unplaced && !l.hartNext c.j then []
    else if (s.chooseSlot c).isSome then [if l.state = 1 then .launchStart c.lid else .hartRestore c.lid c.j]
    else (s.roomFor c).toList

/-- What the launch unit does by itself for the harts that wait for slots (R73, R74, R79): in each frame every hart has its
stretch. -/
def State.slotWork (s : State) : List Instr := if s.svc.power = .run then s.claims.flatMap s.claimWork else []

/-- LAUNCH_START (R36, R37, R79, R85): the first ready launch starts when a slot is free for it in Run; harts for which
no slot is free are placed later. -/
def execLaunchStart (lid : Nat) (s : State) : Answer :=
  match s.launch? lid with
  | none => .next s
  | some l =>
    if l.state ≠ 1 || s.svc.power ≠ .run || !s.isNext l then .next s
    else if (s.slotOf l 0).isNone then .next s
    else
      match s.copyData l with
      | .error (code, va) => .next (s.endLaunch lid 11 code 0xFFFF va)
      | .ok t => .next ((List.range l.harts).foldl (fun t j => t.placeFirst lid j) t)

-- ends that the launch unit brings about

/-- Remove every placed hart of a launch. -/
def State.removeHarts (s : State) (lid : Nat) : State :=
  (s.placed.filter fun h => h.lid = lid).foldl (fun s h => s.leave h .exited) s

/-- A delivery failure (R81, R413): the launch ends as DELIVFAIL unless it is final, or on its way to this end, already. -/
def State.deliveryFail (s : State) (lid cause : Nat) : State :=
  match s.launch? lid with
  | none => s
  | some l =>
    if isFinal l.state || l.ending = some 13 then s
    else
      let s := s.updLaunch lid fun l => { l with cause := cause, causeHart := 0xFFFF, causeValue := 0 }
      (s.removeHarts lid).finalize lid 13

/-- The end that the firmware gives a launch (R81, R386): its promised time has passed; the retries and migrations of its harts
have used up H; or a hart's page fault or system call, which its handler runs for, cannot be resolved. -/
def State.firmwareEnds (s : State) (l : Launch) : FirmwareEnd → State
  | .expired => if l.tmet.isSome && l.promised ≤ s.clock then s.deliveryFail l.lid 3 else s
  | .allowance => if l.state = 2 ∧ s.pastAllowance l then s.deliveryFail l.lid 2 else s
  | .unresolved hid =>
    match s.hart? hid with
    | none => s
    | some h =>
      let code := bitsAt h.tcause.toNat 0 8
      if h.lid = l.lid ∧ h.super ∧ h.active ∧ (code = 4 ∨ code = 5 ∨ code = 12) then
        s.endLaunch l.lid 11 code h.j h.tval.toNat
      else s

/-- PROMISE_EXPIRY (R81), with the other ends of a launch that only the firmware decides (R386). -/
def execPromiseExpiry (e : LaunchEnd) (s : State) : Answer :=
  match s.launch? e.lid with
  | none => .next s
  | some l => .next (s.firmwareEnds l e.why)

/-- What a refit has re-reserved so far (R82). -/
structure Refit where
  harts : Nat
  kib : Nat
  units : Nat
  ahead : Nat
  deriving DecidableEq, Repr

/-- Launches that are not final, in class order and then in admission order. -/
def State.refitOrder (s : State) : List Nat :=
  (List.range 4).flatMap fun c => (s.live.filter fun l => l.cls = c).map (·.lid)

/-- A core to which the harts and the region of a launch homed on `core` can move (R86): the lowest one that holds no region of
the launch (DESIGN CHOICE: log 60). -/
def State.replacement (s : State) (l : Launch) (core : Nat) : Option Nat :=
  let need := (l.hs.filter fun r => r.home = some core ∧ r.pos ≠ .exited).length
  (List.range 32).find? fun c =>
    c ≠ core && s.svc.units.coreIn c && s.coreRoom l c
      && !(s.regions.any fun r => r.lid = l.lid ∧ (r.lies = c ∨ r.moveTo = some c))
      && need ≤ (s.svc.units.slots.filter fun h => s.slotFree h && s.slotSuits l (some c) h).length

/-- Give the harts homed on a core that is out of service another home, to which the region is to move (R86); none when no core
can take them. -/
def State.moveHome (s : State) (l : Launch) (core : Nat) : Option State :=
  if s.svc.units.coreIn core then some s
  else
    match s.replacement l core with
    | none => none
    | some c =>
      let s := s.updLaunch l.lid fun l => { l with
        hs := l.hs.map fun r => if r.home = some core then { r with home := some c } else r }
      some { s with regions := s.regions.map fun r =>
        if (r.lies = core ∨ r.moveTo = some core) ∧ r.lid = l.lid then { r with moveTo := some c } else r }

/-- Homes of a launch. -/
def Launch.homes (l : Launch) : List Nat := (l.hs.filterMap fun r => if r.pos = .exited then none else r.home).dedup

/-- One launch of a refit: what it still fits, or its delivery failure with CAUSE 0x01. -/
def State.refitOne (s : State) (r : Refit) (lid : Nat) : Refit × State :=
  match s.launch? lid with
  | none => (r, s)
  | some l =>
    let u := s.svc.units
    let t := l.fixedT + floorTerm r.ahead l.harts l.bPrime u.numFloor
    let fits := r.harts + l.harts ≤ 8192
      && (List.range 4).all (fun d => r.kib + 8 * l.gmin * l.harts ≤ u.pool d)
      && r.units + l.harts * l.share ≤ u.shareUnits
      && (l.cls ≠ 3 || (0 < u.numFloor && ceilDiv t 4096 ≤ l.bound))
    let moved := l.homes.foldl (fun o c => o.bind fun s => s.moveHome l c) (some s)
    match fits, moved with
    | true, some s =>
      ({ harts := r.harts + l.harts, kib := r.kib + 8 * l.gmin * l.harts, units := r.units + l.harts * l.share,
         ahead := r.ahead + if l.cls = 3 then l.harts * l.bPrime else 0 }, s)
    | _, _ => (r, s.deliveryFail lid 1)

/-- REFIT (R82): what no longer fits ends. -/
def execRefit (s : State) : Answer :=
  .next ((s.refitOrder.foldl (fun p lid => p.2.refitOne p.1 lid) (⟨0, 0, 0, 0⟩, s)).2).trackGrant

-- the completion record (R412 to R414)

/-- The record's bytes 0x04 to 0x3F. -/
def Launch.recordTail (l : Launch) : List Byte :=
  let ones := 2 ^ 64 - 1
  bytesOf l.state 1
    ++ bytesOf (if l.state = 11 ∨ l.state = 12 ∨ l.state = 13 then l.cause else 0) 1
    ++ bytesOf l.causeHart 2 ++ bytesOf l.lid 8
    ++ bytesOf (if l.state = 11 ∨ l.state = 12 then l.causeValue else 0) 8
    ++ bytesOf (l.tmet.getD ones) 8 ++ bytesOf (l.tfinal.getD 0) 8
    ++ bytesOf (if l.tmet.isSome then l.promised else ones) 8
    ++ bytesOf ((l.hs.map (·.charged)).sum) 8 ++ bytesOf (min l.mbytes ones) 8

/-- Operations and collectives of a launch that have not ended (R411). -/
def State.working (s : State) (lid : Nat) : Bool :=
  (s.ops.any fun o => o.lid == lid) || (s.colls.any fun c => c.lid == lid && c.status.isNone)

/-- Write the record of a launch, MAGIC last; the host notice is due (R412, R414). -/
def State.writeRecord (s : State) (l : Launch) : State :=
  let s := s.updLaunch l.lid fun l => { l with recordDone := true }
  let s := (s.segWrite (segsAt l.complAt 4 60) l.recordTail).segWrite (segsAt l.complAt 0 4) (bytesOf 0x504D4F43 4)
  if l.note = 0xFFFF then s else s.post [.hostNotice l.lid]

/-- COMPLETION_RECORD_WRITE (R412): once, after the final state and every operation that may run. -/
def execCompletionRecordWrite (lid : Nat) (s : State) : Answer :=
  match s.launch? lid with
  | none => .next s
  | some l => .next (if !isFinal l.state || l.recordDone || s.working lid then s else s.writeRecord l)

/-- HOST_NOTICE (R414): MSI-X vector NOTE of the card's port, once, after the record. -/
def execHostNotice (lid : Nat) (s : State) : Answer :=
  match s.launch? lid with
  | none => .next s
  | some l =>
    if !l.recordDone || l.noticed || l.note = 0xFFFF then .next s
    else .next ((s.updLaunch lid fun l => { l with noticed := true }).send [.msix l.port l.note])

end Sys2Proof.Machine
end

