-- ==== Sys2Proof/Machine/HartEvents.lean ====
section
/-!
DEFINITION. Events of a placed hart: stops, saves and restores (R132, R144, R392 to R394, R91, R407), held events (R387,
R389), stretches (R73) and issue budgets (R38).
-/

namespace Sys2Proof.Machine

/-- The view summary word (R360). -/
def State.viewSummary (s : State) : Word :=
  let f := s.fabric
  if f.members.contains f.fid then
    wordOfNat (f.members.length * 2 ^ 46 + 2 ^ 45 + f.members.idxOf f.fid * 2 ^ 32 + f.tag)
  else 0

/-- A hart whose instruction waits forgets what had been done for it: the instruction begins again on resumption (R170,
R404). -/
def Hart.forget (h : Hart) : Hart :=
  { h with
    replies := [], waitTag := none, pri := none, priDone := none, exiting := false, cut := none, begun := Begun.fresh }

/-- Where a stop falls within the next instruction of a hart that could issue it (R144): after how many of its granules is
open, and none when the stop comes before it. -/
def State.cutOf (s : State) (h : Hart) : Option Nat :=
  let n := Config.stopGranules s.draw
  let c := h.cutAfter n
  match s.wordNext h with
  | some w => if queued (wordMajor w) && s.able { h with stop := none } && 0 < n && c < h.vl then some c else none
  | none => none

/-- A hart goes to SWAP with what is charged to it settled (R38, R132, R412); its stretch of this frame is over or not (R73), and a
migration begins (R81). -/
def State.swapOut (s : State) (h : Hart) : State :=
  (s.updLHart h.lid h.j fun r => { r with
    charged := r.charged + s.chargedNow h
    served := if s.stretched h then s.frame else r.served
    movedAt := if h.stop = some .migrate then some s.clock else r.movedAt }).updHart h.hid fun g =>
    { g.forget with run := .swap, target := none, budget := s.budgetLeft h }

/-- A requested stop takes effect at a granule boundary (R389, R392): a hart whose launch ends leaves its slot, any other is
saved. -/
def State.stopHart (s : State) (h : Hart) : Answer :=
  if h.stop = some .ended then
    let s := s.leave h .exited
    match s.launch? h.lid with
    | none => .next s
    | some l =>
      .next (match l.ending with
        | some code => if l.anyPlaced then s else s.finalize h.lid code
        | none => s)
  else if h.run = .swap then .next s
  else .next ((s.swapOut h).post [.hartSaveDone h.hid])

/-- HART_STOP (R144, R389, R392): a requested stop. An instruction that has begun at a device, a home or a host completes first,
and a page fault that is due is taken first (R170, R389); within a vector or a memory instruction the stop comes after some
of its granules. -/
def execHartStop (hid : Nat) (s : State) : Answer :=
  match s.hart? hid with
  | none => .next s
  | some h =>
    if h.stop.isNone || (h.run != .swap && s.midway h) then .next s
    else if h.cut.isSome then s.stopHart h
    else
      match s.cutOf h with
      | some c =>
        .next { s.updHart hid fun h => { h with cut := some c } with
          draw := s.draw + 1, picked := hid :: s.picked.filter (· != hid) }
      | none => s.stopHart h

/-- The address of a hart's save slot (R35). -/
def Launch.slotOf (l : Launch) (j : Nat) : Nat := l.save + j * slotSize l.gpref

/-- HART_SAVE_DONE (R392, R393): the image is written, the header last, once the rest has performed, and the slot becomes EMPTY; a
write that faults ends the launch. -/
def execHartSaveDone (hid : Nat) (s : State) : Answer :=
  match s.hart? hid with
  | none => .next s
  | some h =>
    match s.launch? h.lid with
    | none => .next s
    | some l =>
      if h.run ≠ .swap || h.arriving || h.stop = some .ended || !s.performed h.unacked then .next s
      else
        let n := slotSize h.grant
        match s.spanPair l.port l.pasid (l.slotOf h.j) n .write with
        | .error (code, va) => .next (s.endLaunch l.lid 11 (code + 128) 0xFFFF va)
        | .ok (segs, t) =>
          let img := h.image h.pc
          let rest := t.onBehalf l.lid fun t =>
            (t.segWrite (segsAt segs headerSize n) (img.drop headerSize)).poisonWords segs n h.imagePoison
          let finish (t : State) : Answer :=
            .next ((t.onBehalf l.lid (·.segWrite (segsAt segs 0 headerSize) (img.take headerSize))).leave h .saved)
          if h.begun.stored ≠ 0 then finish t
          else if (rest.tagsFrom t).isEmpty then finish rest
          else
            .next (rest.updHart hid fun h => { h with
              unacked := rest.tagsFrom t, begun := { h.begun with stored := 1 } })

/-- The target of a resumption (R91). -/
def State.resumeTarget (s : State) (l : Launch) (g : Nat) : Nat := (largestGrant l.gmin l.gpref g s.tightPool).getD l.gmin

/-- The hart that a saved context resumes as on a slot (R88, R91, R394). -/
def resumed (l : Launch) (r : LHart) (hid j x asid root clock target : Nat) : Hart :=
  let h := { (Hart.fresh hid) with lid := l.lid, j := j, grant := r.grant }
  { h.restoreFrom x with
    asid := asid
    ptroot := wordOfNat root
    spbase := 0xFFFFFFFFFFC00000
    budget := r.budget
    since := clock
    grace := r.grace
    farmGen := r.farmGen
    spent := r.spent
    run := .swap
    arriving := true
    target := if target = r.grant then none else some target }

/-- The grant-lost value (R388). -/
def grantLostValue (old new : Nat) : Word := wordOfNat (old % 256 * 256 + new % 256)

/-- A hart whose storage could not stay resumes at the target with VSTART 0 and takes grant lost (R407). -/
def State.loseGrant (s : State) (lid j hid old new : Nat) : Answer :=
  let s := ((s.updHart hid fun h => { h.regrant new with vstart := 0 }).updLHart lid j fun r =>
    { r with grant := new, lostGrant := false }).trackGrant
  asHart hid (fun s => .next (takeTrap true 14 (grantLostValue old new) 0 s)) s

/-- A failed check of a restore ends the launch (R393). -/
def State.badSlot (s : State) (l : Launch) (j : Nat) : Answer := .next (s.endLaunch l.lid 11 0x82 0xFFFF (l.slotOf j))

/-- Restore a saved hart on a slot (R393): the header's checks, the context, VALID cleared, the target. -/
def State.restore (s : State) (l : Launch) (r : LHart) (j hid : Nat) : Answer :=
  let va := l.slotOf j
  match s.spanPair l.port l.pasid va (slotSize r.grant) .read with
  | .error _ => s.badSlot l j
  | .ok (segs, t) =>
    match t.spanPair l.port l.pasid va 32 .write with
    | .error _ => t.badSlot l j
    | .ok (hdr, t) =>
      let x := t.segNat segs
      if t.segsPoisoned segs || !headerValid x r.grant || !headerNames x l.lid j then t.badSlot l j
      else
        let b := (t.bindingOf l.port l.pasid).getD ⟨l.port, l.pasid, 0, 0⟩
        let target := t.resumeTarget l r.grant
        let t := (t.segRead segs).segWrite (segsAt hdr 6 2) (bytesOf (bitsAt x 48 16 / 2 * 2) 2)
        let t := t.withRegion l (hid / 16)
        let t := t.updLHart l.lid j fun r => { r with pos := .placed }
        let t := { t with parked := t.parked ++ [resumed l r hid j x b.asid b.root t.clock target] }
        if r.lostGrant && target < r.grant then t.loseGrant l.lid j hid r.grant target
        else .next (t.updLHart l.lid j fun r => { r with lostGrant := false })

/-- HART_RESTORE (R85, R86, R91, R393): a saved hart is resumed, and a hart not yet placed has its first placement, when
a slot is free for it. -/
def execHartRestore (lid j : Nat) (s : State) : Answer :=
  match s.launch? lid with
  | none => .next s
  | some l =>
    match l.hs[j]? with
    | none => .next s
    | some r =>
      if l.state ≠ 2 || l.ending.isSome || s.svc.power ≠ .run then .next s
      else
        match r.pos with
        | .unplaced => .next (if l.hartNext j then s.placeFirst lid j else s)
        | .saved =>
          match s.slotOf l j with
          | none => .next s
          | some hid => s.restore l r j hid
        | _ => .next s

/-- SUFFIX of TPC at a boundary (R385): that of the vector instruction at the pc, else 0. -/
def State.boundarySuffix (s : State) : Nat :=
  if s.hart.vstart = 0 then 0
  else
    match s.nextWord with
    | some w => if (0x20 ≤ wordMajor w ∧ wordMajor w ≤ 0x31) ∨ wordMajor w = 0x39 then s.hart.suffix else 0
    | none => 0

/-- HELD_EVENT_TAKE (R387, R389): refusal, then budget, then membership, one at a boundary, unless ACTIVE is 1. -/
def takeHeld (s : State) : State :=
  let h := s.hart
  if h.active then s
  else
    match h.heldRefusal with
    | some w => takeTrap false 6 w s.boundarySuffix (s.withHart fun h => { h with heldRefusal := none })
    | none =>
      match h.heldBudget with
      | some v => takeTrap false 9 (wordOfNat v) s.boundarySuffix (s.withHart fun h => { h with heldBudget := none })
      | none =>
        match h.heldMember with
        | some w => takeTrap false 10 w s.boundarySuffix (s.withHart fun h => { h with heldMember := none, viewnote := s.viewSummary })
        | none => s

/-- HELD_EVENT_TAKE: at a boundary, which no instruction that has begun at a device or a host offers, and after a stop (R389). -/
def execHeldEventTake (hid : Nat) (s : State) : Answer :=
  match s.hart? hid with
  | none => .next s
  | some h =>
    if h.run = .swap || h.stop.isSome || s.midway h then .next s else asHart hid (fun s => .next (takeHeld s)) s

/-- STRETCH_PREEMPTION (R73, R74, R76): a pre-emption is requested of a hart of a launch that need not keep its slot. -/
def execStretchPreemption (hid : Nat) (s : State) : Answer :=
  match s.hart? hid with
  | none => .next s
  | some h => .next (if s.mayPreempt h then (s.updHart hid fun h => { h with stop := some .preempt }).post [.hartStop hid] else s)

/-- ISSUE_BUDGET_EXHAUSTED (R38): a hart of a launch with no clocks left takes budget exhausted once, or has it held;
the grace counts from here. -/
def execIssueBudgetExhausted (hid : Nat) (s : State) : Answer :=
  match s.hart? hid with
  | none => .next s
  | some h =>
    match s.launch? h.lid with
    | none => .next s
    | some l =>
      if s.budgetLeft h ≠ 0 || h.spent || h.stop.isSome || h.arriving then .next s
      else
        .next ((s.updHart hid fun h =>
          let h := { h with spent := true, heldBudget := some (h.heldBudget.getD 0) }
          if l.handler = 0 then h else l.graceFrom h s.clock).post [.heldEventTake hid])

/-- BUDGET_GRACE_EXPIRY (R38): at the end of the grace the hart is stopped, and the launch ends as a budget stop. -/
def execBudgetGraceExpiry (hid : Nat) (s : State) : Answer :=
  match s.hart? hid with
  | none => .next s
  | some h =>
    match h.grace with
    | none => .next s
    | some g => .next (if g ≤ s.clock then s.endLaunch h.lid 9 0 h.j 0 else s)

end Sys2Proof.Machine
end

