-- ==== Sys2Proof/Machine/Vec.lean ====
section
/-!
DEFINITION. How every vector arithmetic instruction proceeds (R207 to R210): the configuration check, active elements in
order, poison and gauge mismatch at an element, flags, VSTART.
-/

namespace Sys2Proof.Machine

/-- Where an instruction stops: an element, a trap code and its value. -/
abbrev StopAt := Nat × Nat × Word

/-- The earlier of two stops; at one element the first comes first. -/
def firstStop (a b : Option StopAt) : Option StopAt :=
  match a, b with
  | some x, some y => if y.1 < x.1 then some y else some x
  | some x, none => some x
  | none, y => y

/-- A gauge mismatch at a checked element (R146), which lies on the lane die that `dieOf` gives. -/
def State.gaugeStop (s : State) (acts : List Nat) (dieOf : Nat → Nat) : Option StopAt :=
  match s.hart.gauge with
  | some (.mismatch e) => if acts.contains e then some (e, 8, s.gaugeValue (dieOf e) e) else none
  | _ => none

/-- The stop of a vector arithmetic instruction: poison consumed, or a gauge mismatch (R208). -/
def State.vecStop (s : State) (kg : Num3) (srcs : List Src) (dieOf : Nat → Nat) : Option StopAt :=
  firstStop ((s.hart.firstPoison kg srcs).map fun p => (p.1, 7, p.2)) (s.gaugeStop (s.hart.actives kg) dieOf)

/-- Elements committed: those that act before the stop. -/
def commits (acts : List Nat) (stop : Option StopAt) : List Nat :=
  match stop with
  | some p => acts.filter fun i => i < p.1
  | none => acts

/-- Write the results of elements in order and raise their flags. -/
def Hart.commit (h : Hart) (put : Hart → Nat → Nat → Hart) (val : Nat → Nat × Nat) (is : List Nat) : Hart :=
  is.foldl (fun g i => (put g i (val i).1).raise (val i).2) h

/-- The end of a vector instruction: a trap at its element with VSTART there, or VSTART 0 and the next word (R390, R208);
`checked` lists the elements that the gauge check may choose. -/
def State.vecEnd (s : State) (stop : Option StopAt) (checked : List Nat) (dieOf : Nat → Nat) : State :=
  match stop with
  | some (k, code, v) =>
    let s := s.withHart fun h => { h with vstart := k, gauge := if code = 8 then none else h.gauge }
    takeTrap true code v s.hart.suffix s
  | none => ((s.withHart fun h => { h with vstart := 0 }).settleGauge checked dieOf).advance

/-- The end of an instruction that the gauge check does not cover. -/
def State.plainEnd (s : State) (stop : Option StopAt) : State := s.vecEnd stop [] fun _ => 0

/-- Where a requested stop ends the instruction at the pc, if it does so before its last granule and before its trap (R144). -/
def Hart.cutAt (h : Hart) (stop : Option StopAt) : Option Nat :=
  h.cut.filter fun c => h.vstart < c && c < h.vl && stop.all fun p => c ≤ p.1

/-- A requested stop ends an instruction at an element: what came before is committed (R144). -/
def Act.stopAt (c : Nat) : Act Unit := do
  Act.upd (·.withHart fun h => { h with vstart := c, cut := none })
  throw (.wait false true)

/-- An instruction whose active elements are written by `write`, up to a requested stop within it, which leaves the granules before
committed and VSTART at the first element after them (R144), or else up to its trap, and then ended by `last`. -/
def State.upToCut (s : State) (acts : List Nat) (stop : Option StopAt) (write : List Nat → Hart → Hart) (last : State → State) :
    State :=
  match s.hart.cutAt stop with
  | some c => s.withHart fun h => { write (acts.filter (· < c)) h with vstart := c, cut := none, run := .stalled }
  | none => last (s.withHart (write (commits acts stop)))

/-- An element-wise instruction (R208). `val` gives an element's result and flags from the inputs; `put` writes it. -/
def State.vecRun (s : State) (kg : Num3) (srcs : List Src) (dieOf : Nat → Nat) (val : Nat → Nat × Nat)
    (put : Hart → Nat → Nat → Hart) : State :=
  let acts := s.hart.actives kg
  let stop := s.vecStop kg srcs dieOf
  s.upToCut acts stop (fun is h => h.commit put val is) (·.vecEnd stop acts dieOf)

/-- An instruction that commits as a whole (R209): a stop comes before any effect and leaves VSTART; `f` is the effect. -/
def State.vecWhole (s : State) (stop : Option StopAt) (checked : List Nat) (dieOf : Nat → Nat) (f : State → State) : State :=
  match stop with
  | some (_, code, v) =>
    takeTrap true code v s.hart.suffix (s.withHart fun h => { h with gauge := if code = 8 then none else h.gauge })
  | none => (((f s).withHart fun h => { h with vstart := 0 }).settleGauge checked dieOf).advance

/-- The lane die that holds element i of a group with base b (R94, R95). -/
def dieOfGroup (c : VCfg) (b i : Nat) : Nat := (b + i / c.per) % 4

/-- Wait while a CPYGS writes one of the masks named (R301); else go on. -/
def State.whenFree (s : State) (masks : List Nat) (k : Answer) : Answer :=
  if masks.any s.maskBusy then .next (s.stall false) else k

/-- A field of a group under a configuration is aligned (R95, R207). -/
def aligned (c : VCfg) (r : Reg) : Bool := r.toNat % c.gm == 0

/-- Two stretches of registers overlap. -/
def overlaps (b n b' n' : Nat) : Bool := b < b' + n' && b' < b + n

/-- Element i of a group, from the hart as the instruction found it. -/
def Hart.el (h : Hart) (r : Reg) (i : Nat) : Nat := h.elem h.cfg r.toNat i

/-- A second operand: a vector group or a scalar (R205). -/
inductive Opnd where
  | v (r : Reg)
  | x (r : Reg)
  deriving DecidableEq, Repr

/-- Element i of a second operand: a scalar's low w bits (R210). -/
def State.opnd (s : State) (o : Opnd) (i : Nat) : Nat :=
  match o with
  | .v r => s.hart.el r i
  | .x r => (s.rx r).toNat % 2 ^ s.hart.cfg.w

/-- Its register group, as a source. -/
def Opnd.srcs (o : Opnd) (c : VCfg) : List Src :=
  match o with
  | .v r => [.vec c r.toNat]
  | .x _ => []

/-- Its base is aligned. -/
def Opnd.ok (o : Opnd) (c : VCfg) : Bool :=
  match o with
  | .v r => aligned c r
  | .x _ => true

/-- The register of a second operand. -/
def Opnd.reg : Opnd → Reg
  | .v r | .x r => r

/-- A word of format V3 or VS: the fixed bits of its entry with its fields at their places (R112). -/
def wordV (base : Nat) (d a b : Reg) (c e : Bit1) (g : Num3) : Nat :=
  base + put d 21 + put a 16 + put b 11 + put c 10 + put e 9 + put g 6

end Sys2Proof.Machine
end

