-- ==== Sys2Proof/Machine/Copy.lean ====
section
/-!
DEFINITION. The copy engine and weirs: major 0x32 (R297 to R305), and the events COPY_COMPLETE, WEIR_ARRIVAL,
CPYGS_ROW_LANDED and WEIRWT_WAKE. An operation inside the package moves its bytes when it is dispatched, which R298 allows, or
when its data from devices and hosts has arrived; its completion is a step of its own.
-/

namespace Sys2Proof.Machine

-- weirs

/-- Count n bytes into a weir (R304): TARGET, COUNT, GEN and FLAGS stand in its four words of 4 bytes. -/
def State.weirCount (s : State) (core lid off n : Nat) : State :=
  let at_ (k : Nat) := natOfBytes (s.bytesAt (.scr core lid (off + 4 * k)) 4)
  let count := min (at_ 1 + n) (2 ^ 32 - 1)
  let t := at_ 0
  let (count, gens) := if t = 0 then (count, 0) else (count % t, count / t)
  s.putAt (.scr core lid (off + 4)) (bytesOf count 4 ++ bytesOf (at_ 2 + gens) 4)

/-- Set LOST in a weir (R381). -/
def State.weirLost (s : State) (sig : Signal) : State :=
  match sig with
  | .weir core lid off =>
    let f := natOfBytes (s.bytesAt (.scr core lid (off + 12)) 4)
    s.putAt (.scr core lid (off + 12)) (bytesOf (f ||| 1) 4)
  | _ => s

/-- A place of the hart's scratchpad region: `n` bytes from a virtual address in the window (R88, R264). -/
def State.scratchPlace (s : State) (va n : Nat) : Option Loc :=
  if inWindow s.hart va ∧ inWindow s.hart (va + n - 1) then
    match s.xlate va .write, s.xlate (va + n - 1) .write with
    | .ok (l, _), .ok _ => some l
    | _, _ => none
  else none

/-- The weir that an operand names: outside the window an access fault, misaligned unless 16-byte aligned (R298, R305). -/
def Act.weirAt (x : Word) : Act Loc := do
  let s ← get
  match s.scratchPlace x.toNat 16 with
  | none => Act.trap accessFault x
  | some l => do
    Act.check (x.toNat % 16 == 0) 3 x
    pure l

/-- WEIRARM (R305). -/
def execWeirarm (a b : Reg) (s : State) : Answer :=
  Act.run false (do
    Act.drain
    Act.granule
    let l ← Act.weirAt (s.rx a)
    Act.upd fun s =>
      let f := natOfBytes (s.bytesAt (l.plus 12) 4)
      ((s.putAt l (bytesOf ((s.rx b).toNat % 2 ^ 32) 4 ++ bytesOf 0 4)).putAt (l.plus 12) (bytesOf (f / 2 * 2) 4)).advance) s

/-- WEIRWT (R305): waits for another generation, after the hart's older scalar stores (R255, R352). -/
def weirwt (d a b : Reg) : Act Unit := do
  let s ← get
  Act.drain
  Act.granule
  let l ← Act.weirAt (s.rx a)
  let g ← Act.load ((s.rx a).toNat + 8) (l.plus 8) 4
  Act.waitUntil (g ≠ (s.rx b).toNat % 2 ^ 32)
  Act.upd (·.done1 d (wordOfNat g))

/-- WEIRWT. -/
def execWeirwt (d a b : Reg) (s : State) : Answer := Act.run false (weirwt d a b) s

/-- WEIRWT_WAKE (R305): a waiting WEIRWT reads the generation again. -/
def execWeirwtWake (hid : Nat) (s : State) : Answer :=
  wake hid (fun w =>
    if wordMajor w = 0x32 ∧ wordOp w = 6 then some (Act.run false (weirwt (wordD w) (wordA w) (wordB w))) else none) s

-- operations

/-- How an operation of the acting hart signals: its completion kind and address checked without translation (R298). -/
def Act.signal (k : BitVec 2) (x : Word) : Act Signal := do
  if k = 1 then do
    let l ← Act.weirAt x
    match l with
    | .scr core lid off => pure (.weir core lid off)
    | _ => Act.trap accessFault x
  else do
    Act.check (k ≠ 2 || x.toNat % 8 == 0) 3 x
    pure .none

/-- The progress word's translation, the last check (R298): it lies in memory of the package (R287). -/
def Act.signalWord (k : BitVec 2) (x : Word) (sig : Signal) : Act Signal := do
  if k = 2 then do
    let l ← Act.xlate x.toNat .write
    Act.check (!l.outside) accessFault x
    pure (.word l)
  else pure sig

/-- A signal that reaches the scratchpad. -/
def Signal.scratch : Signal → Bool
  | .weir .. => true
  | .word (.scr ..) => true
  | _ => false

/-- Places that reach the scratchpad. -/
def segsScratch (gs : List Seg) : Bool := gs.any fun g => match g.loc with
  | .scr .. => true
  | _ => false

/-- The pieces of a stretch that devices and hosts hold. -/
def outsideOf (gs : List Seg) : List Seg := (gs.filter fun g => g.loc.outside).dedup

/-- Request an operation's data in devices and hosts (R263, R404). -/
def State.askAll (s : State) : List Seg → State × List Fetch
  | [] => (s, [])
  | g :: gs =>
    let r := State.askAll { s with
      nextTag := s.nextTag + 1
      targets := s.targets ++ [⟨s.nextTag, s.hart.hid, false, false, false, g.loc, s.pasid, true, false⟩]
      outbox := s.outbox ++ [.readReq s.nextTag s.pasid g.loc g.len] } gs
    (r.1, ⟨s.nextTag, g, none⟩ :: r.2)

/-- What an operation is when it begins: the state with what it has done so far, and what it has still to write. -/
abbrev Starts := State × OpKind × List Seg

/-- Dispatch an operation of the acting hart, which will write `writes` and reads `reads`: it begins at once when its turn has
come, and else waits with its work (R298, R308, R309). -/
def State.dispatch (s : State) (handle : Nat) (scratch : Bool) (writes reads : List Seg) (work : Work) (status done : Option Loc)
    (run : EngineOp → State → Starts) : State :=
  let (t, asks) := s.askAll (outsideOf reads)
  let o : EngineOp := ⟨s.nextOp, s.hart.hid, s.hart.lid, s.hart.j, handle, scratch, writes, asks, [], 0,
    .waits work status done⟩
  let t : State := { t with nextOp := s.nextOp + 1 }
  if t.opTurn t.ops o then
    let r := run o t
    { r.1 with ops := r.1.ops ++ [{ o with kind := r.2.1, writes := r.2.2, sent := r.1.tagsFrom t }] }
  else { t with ops := t.ops ++ [o] }

/-- What a stretch holds for an operation: memory as it reads now, and what devices and hosts have answered. -/
def State.opBytes (s : State) (asks : List Fetch) (gs : List Seg) : List Byte :=
  (gs.map fun g =>
    if g.loc.outside then ((asks.find? fun a => a.seg = g).bind (·.bytes)).getD (List.replicate g.len 0)
    else s.bytesAt g.loc g.len).flatten

/-- The copy engine writes bytes, with the offsets of their poisoned words, over a stretch (R255, R298). -/
def State.fill (s : State) (dst : List Seg) (bs : List Byte) (bad : List Nat) : State :=
  (State.segWriteVia .copy s dst bs).poisonWords dst bs.length bad

/-- What a copy that has begun has still to write: what lies in devices and hosts, until it performs there. -/
def unperformed (dst : List Seg) : List Seg := dst.filter fun g => g.loc.outside

/-- CPY begins: its bytes move (R298). -/
def runCopy (sig : Signal) (src dst : List Seg) (o : EngineOp) (s : State) : Starts :=
  let bs := s.opBytes o.asks src
  ((State.segReadVia .copy s src).fill dst bs (s.badWords src bs.length), .copy sig bs.length bs.length, unperformed dst)

/-- CPY (R297, R298). -/
def execCpy (d a : Reg) (b : BitVec 4) (k : BitVec 2) (_s0 : Num3) (s : State) : Answer :=
  let rb : Reg := b.setWidth 5 <<< 1
  let n := (s.rx rb).toNat
  let x := s.rx (rb + 1)
  Act.run false (do
    Act.drain
    Act.granule
    let sig ← Act.signal k x
    let src ← Act.span (s.rx a).toNat n .read
    let dst ← Act.span (s.rx d).toNat n .write
    let sig ← Act.signalWord k x sig
    Act.grantReads src
    Act.pushAll (dst.map (·.loc))
    Act.upd fun s =>
      (s.dispatch 0 (sig.scratch || segsScratch src || segsScratch dst) dst src (.copy sig src dst) none none
        (runCopy sig src dst)).advance) s

-- remote copies

/-- The 256-byte pieces of a range: offset and length. -/
def flitPieces (n : Nat) : List (Nat × Nat) := (List.range (ceilDiv n 256)).map fun i => (256 * i, min 256 (n - 256 * i))

/-- A flit of this package to a member, by rank; one to itself arrives at once. -/
def State.sendFlit (s : State) (rank : Nat) (body : FlitBody) : State :=
  let f : Flit := ⟨s.fabric.tag, s.fabric.fid, s.fabric.members.idxOf s.fabric.fid, body⟩
  let fid := (s.fabric.members[rank]?).getD 0
  if fid = s.fabric.fid then
    match body with
    | .copyRead .. | .copyWrite .. => s.post [.remoteCopyAccess f]
    | _ => s.post [.fabricFlitArrival f]
  else s.send [.flit fid f]

/-- Bytes that cross a fabric port for a launch count towards its MBUDGET, in whole flits of 256 bytes (R38, R358; DESIGN CHOICE:
log 65). -/
def State.countFlits (s : State) (lid n : Nat) : State :=
  s.updLaunch lid fun l => { l with mbytes := l.mbytes + 256 * max 1 (ceilDiv n 256) }

/-- A flit of a launch that carries n bytes to a member; one to this package itself crosses no port. -/
def State.sendFor (s : State) (lid n rank : Nat) (body : FlitBody) : State :=
  let t := s.sendFlit rank body
  if (s.fabric.members[rank]?).getD 0 = s.fabric.fid then t else t.countFlits lid n

/-- The checks of a remote address at issue (R299): rank, range and reserved bits; the answer is rank and address. -/
def Act.remote (x : Word) (n : Nat) : Act (Nat × Nat) := do
  let s ← get
  let node := bitsAt x.toNat 39 13
  let pa := bitsAt x.toNat 0 39
  Act.check (x.toNat < 2 ^ 52 && node < s.fabric.members.length && s.fabric.members.contains s.fabric.fid
    && pa + n ≤ 2 ^ 39) 2 x
  pure (node, pa)

/-- Remote copies and collectives stay undispatched during a view change (R362, R363). -/
def Fabric.holds (f : Fabric) : Bool := f.acked.isSome || (f.hold.map fun h => h.union.isSome).getD false

/-- A copy to a rank begins: its bytes go there in flits (R358). -/
def runPut (sig : Signal) (addr : Word) (node pa : Nat) (src : List Seg) (o : EngineOp) (s : State) : Starts :=
  let bs := s.opBytes o.asks src
  let n := bs.length
  let bad := s.badWords src n
  ((flitPieces n).foldl (fun t p =>
    t.sendFor o.lid p.2 node (.copyWrite o.id (pa + p.1) pa n ((bs.drop p.1).take p.2)
      ((bad.filter fun q => p.1 ≤ q ∧ q < p.1 + p.2).map (· - p.1)))) (State.segReadVia .copy s src), .put sig addr node n n, [])

/-- CPYRG: a copy from a remote package (R297, R299). -/
def execCpyrg (d a : Reg) (b : BitVec 4) (k : BitVec 2) (_s0 : Num3) (s : State) : Answer :=
  let rb : Reg := b.setWidth 5 <<< 1
  let n := (s.rx rb).toNat
  let x := s.rx (rb + 1)
  Act.run false (do
    Act.drain
    Act.waitUntil (!s.fabric.holds)
    Act.granule
    let (node, pa) ← Act.remote (s.rx a) n
    let sig ← Act.signal k x
    let dst ← Act.span (s.rx d).toNat n .write
    let sig ← Act.signalWord k x sig
    Act.pushAll (dst.map (·.loc))
    Act.upd fun s =>
      (s.dispatch 0 (sig.scratch || segsScratch dst) dst [] (.settled 0) none none fun o t =>
        (if n = 0 then t else t.sendFor o.lid 0 node (.copyRead o.id pa n), .get sig (s.rx a) node n dst n, dst)).advance) s

/-- CPYRP: a copy to a remote package. -/
def execCpyrp (d a : Reg) (b : BitVec 4) (k : BitVec 2) (_s0 : Num3) (s : State) : Answer :=
  let rb : Reg := b.setWidth 5 <<< 1
  let n := (s.rx rb).toNat
  let x := s.rx (rb + 1)
  Act.run false (do
    Act.drain
    Act.waitUntil (!s.fabric.holds)
    Act.granule
    let (node, pa) ← Act.remote (s.rx d) n
    let sig ← Act.signal k x
    let src ← Act.span (s.rx a).toNat n .read
    let sig ← Act.signalWord k x sig
    Act.grantReads src
    Act.upd fun s =>
      (s.dispatch 0 (sig.scratch || segsScratch src) [] src (.put sig (s.rx d) node pa src) none none
        (runPut sig (s.rx d) node pa src)).advance) s

-- gathers of rows

/-- CPYGS begins: its rows move, and none has landed (R300). -/
def runRows (kreg count : Nat) (src dst : List Seg) (o : EngineOp) (s : State) : Starts :=
  let bs := s.opBytes o.asks src
  ((State.segReadVia .copy s src).fill dst bs (s.badWords src bs.length), .gather kreg (List.range count), [])

/-- CPYGS (R300): rows into the scratchpad, with a mask bit for each row that has landed. -/
def execCpygs (d a : Reg) (b : BitVec 4) (m : Num3) (s : State) : Answer :=
  let h := s.hart
  let c := h.cfg
  let rb : Reg := b.setWidth 5 <<< 1
  let base := (s.rx rb).toNat
  let p := s.rx (rb + 1)
  let n := p.toNat
  let dst := (s.rx d).toNat
  if !(h.vstart == 0 && aligned c a) then
    illegalWord (0xC80000C0 + put d 21 + put a 16 + put b 12 + put m 3) s
  else
    s.whenFree [m.toNat] (Act.run false (do
      Act.drain
      Act.granule
      Act.check (n % 8 == 0 && 8 ≤ n && n ≤ 65536) 2 p
      match (piecesOf dst (h.vl * n)).find? fun q => (s.scratchPlace q.1 q.2).isNone with
      | some q => Act.trap accessFault (wordOfNat q.1)
      | none => pure ()
      Act.check (dst % 8 == 0) 3 (s.rx d)
      match (if h.poison.isEmpty then none else (List.range h.vl).findSome? fun i => h.srcPoison (.vec c a.toNat) i) with
      | some t => Act.trap 7 t
      | none => pure ()
      let rows ← Act.ranges ((List.range h.vl).map fun i => ((base + h.elem c a.toNat i * n) % 2 ^ 64, n, .read))
      let dest ← Act.span dst (h.vl * n) .write
      let src := rows.flatten
      Act.grantReads src
      Act.upd fun s =>
        if h.vl = 0 then s.advance
        else
          let t := s.withHart fun h => h.setMask m.toNat (h.kreg m.toNat / 2 ^ h.vl * 2 ^ h.vl)
          (t.dispatch 0 true dest src (.rows m.toNat h.vl src dest) none none (runRows m.toNat h.vl src dest)).advance)
    s)

-- repacks

/-- Bytes with a poison flag each. -/
abbrev Tagged := List (Nat × Bool)

/-- A byte of a tagged list. -/
def tagAt (xs : Tagged) (i : Nat) : Nat × Bool := xs.getD i (0, false)

/-- `w` bits from bit planes (R276): element i, with the flag of the bytes that hold it. -/
def fromPlanes (xs : Tagged) (w q i : Nat) : Nat × Bool :=
  let bits := (List.range w).map fun j => let b := tagAt xs (j * q + i / 8); (bitsAt b.1 (i % 8) 1 * 2 ^ j, b.2)
  ((bits.map (·.1)).sum, bits.any (·.2))

/-- Mode 0 (R302): from planes of q bytes to packed elements of eb bytes. -/
def unpackPlanes (xs : Tagged) (w q eb count : Nat) (sgn : Bool) : Tagged :=
  (List.range count).flatMap fun i =>
    let (x, bad) := fromPlanes xs w q i
    let y := if sgn then wrapInt (sextNat x w) (8 * eb) else x
    (List.range eb).map fun k => (bitsAt y (8 * k) 8, bad)

/-- Mode 1 (R302): byte q' of plane j, whose bits beyond the count keep the destination's. -/
def packPlanes (xs old : Tagged) (w q eb count : Nat) : Tagged :=
  (List.range w).flatMap fun j => (List.range q).map fun o =>
    let keep := tagAt old (j * q + o)
    let bits := (List.range 8).map fun b =>
      let i := 8 * o + b
      if i < count then
        let e := tagAt xs (eb * i + j / 8)
        (bitsAt e.1 (j % 8) 1 * 2 ^ b, (List.range eb).any fun k => (tagAt xs (eb * i + k)).2)
      else (bitsAt keep.1 b 1 * 2 ^ b, false)
    ((bits.map (·.1)).sum, bits.any (·.2))

/-- Mode 2 (R302): matrix-packed operands of 544 bytes from mantissas and scales; rows beyond the count are zero. -/
def packMatrix (mant scale : Tagged) (count : Nat) : Tagged :=
  (List.range (ceilDiv count 32)).flatMap fun q =>
    ((List.range 512).map fun o => if 32 * q + o / 16 < count then tagAt mant (512 * q + o) else (0, false))
    ++ (List.range 32).map fun r => if 32 * q + r < count then tagAt scale (32 * q + r) else (0, false)

/-- Mode 3: the mantissa stream, then the scale stream. -/
def unpackMatrix (xs : Tagged) (count : Nat) : Tagged × Tagged :=
  ((List.range (16 * count)).map fun o => tagAt xs (544 * (o / 512) + o % 512),
   (List.range count).map fun k => tagAt xs (544 * (k / 32) + 512 + k % 32))

/-- Bytes of a stretch with their poison. -/
def State.tagged (s : State) (gs : List Seg) (bs : List Byte) : Tagged :=
  let bad := s.badWords gs bs.length
  (List.range bs.length).map fun i => ((bs.getD i 0).toNat, bad.contains (i / 8 * 8))

/-- Offsets of the 8-byte words of a tagged list that hold a poisoned byte. -/
def taggedBad (xs : Tagged) : List Nat :=
  ((List.range (ceilDiv xs.length 8)).map (8 * ·)).filter fun o => ((xs.drop o).take 8).any (·.2)

/-- The ranges of a repack: sources and destinations in order, as address and length (R302). -/
def repackRanges (mode w p count d a sc : Nat) : List (Nat × Nat) × List (Nat × Nat) :=
  let eb := if w ≤ 8 then 1 else 2
  let planes (x : Nat) := (List.range w).map fun j => ((x + j * p) % 2 ^ 64, ceilDiv count 8)
  match mode with
  | 0 => (planes a, [(d, count * eb)])
  | 1 => ([(a, count * eb)], planes d)
  | 2 => ([(a, 16 * count), (sc, count)], [(d, 544 * ceilDiv count 32)])
  | _ => ([(a, 544 * ceilDiv count 32)], [(d, 16 * count), (sc, count)])

/-- What a repack writes, over its destinations joined. -/
def repacked (mode w count : Nat) (sgn : Bool) (xs old : Tagged) : Tagged :=
  let eb := if w ≤ 8 then 1 else 2
  match mode with
  | 0 => unpackPlanes xs w (ceilDiv count 8) eb count sgn
  | 1 => packPlanes xs old w (ceilDiv count 8) eb count
  | 2 => packMatrix xs (xs.drop (16 * count)) count
  | _ => let (m, c) := unpackMatrix xs count; m ++ c

/-- CPYRK begins: it writes what it makes of its sources (R302); `old` is the destination where its bits stay. -/
def runRepack (sig : Signal) (mode w count : Nat) (sgn : Bool) (src old dst : List Seg) (o : EngineOp) (s : State) : Starts :=
  let out := repacked mode w count sgn (s.tagged src (s.opBytes o.asks src)) (s.tagged old (s.opBytes o.asks old))
  ((State.segReadVia .copy s src).fill dst (out.map fun q => BitVec.ofNat 8 q.1) (taggedBad out),
    .copy sig out.length out.length, unperformed dst)

/-- CPYRK (R302). -/
def execCpyrk (d a : Reg) (b : Num3) (k : BitVec 2) (_s0 : Num3) (s : State) : Answer :=
  let rb : Reg := b.setWidth 5 <<< 2
  let count := (s.rx rb).toNat
  let x := s.rx (rb + 1)
  let par := s.rx (rb + 2)
  let mode := bitsAt par.toNat 0 2
  let w := bitsAt par.toNat 2 4 + 1
  let p := bitsAt par.toNat 32 32
  let (srcs, dsts) := repackRanges mode w p count (s.rx d).toNat (s.rx a).toNat (s.rx (rb + 3)).toNat
  Act.run false (do
    Act.drain
    Act.granule
    let sig ← Act.signal k x
    Act.check (bitsAt par.toNat 7 25 == 0 && (2 ≤ mode || ceilDiv count 8 ≤ p)) 2 par
    let src ← Act.ranges (srcs.map fun r => (r.1, r.2, .read))
    let dst ← Act.ranges (dsts.map fun r => (r.1, r.2, .write))
    let sig ← Act.signalWord k x sig
    let src := src.flatten
    let dst := dst.flatten
    let old := if mode = 1 ∧ count % 8 ≠ 0 then dst else []
    Act.grantReads (src ++ old)
    Act.pushAll (dst.map (·.loc))
    let sgn := par.getLsbD 6
    Act.upd fun s =>
      (s.dispatch 0 (sig.scratch || segsScratch src || segsScratch dst) dst (src ++ old)
        (.repack sig mode w count sgn src old dst) none none (runRepack sig mode w count sgn src old dst)).advance) s

-- completion

/-- An operation is over. A final launch whose last one it was is due its completion record (R412). -/
def State.endOp (s : State) (id : Nat) : State :=
  match s.ops.find? fun o => o.id = id with
  | none => s
  | some o =>
    let s := { s with ops := s.ops.filter fun o => o.id ≠ id }
    match s.launch? o.lid with
    | some l =>
      if !isFinal l.state then s
      else
        let s := s.updLaunch o.lid fun l => { l with handles := l.handles.keep (s.ops.filter fun q => q.lid == o.lid) }
        if s.working o.lid then s else s.post [.completionRecordWrite o.lid]
    | none => s

/-- Change an operation. -/
def State.updOp (s : State) (id : Nat) (f : EngineOp → EngineOp) : State :=
  { s with ops := s.ops.map fun o => if o.id = id then f o else o }

/-- Bytes of an operation still to be counted, and its signal. -/
def OpKind.remaining : OpKind → Option (Signal × Nat × Nat)
  | .copy sig len left => some (sig, len, left)
  | .get sig _ _ len _ left => some (sig, len, left)
  | .put sig _ _ len left => some (sig, len, left)
  | _ => none

/-- How a remote copy signals (R381). -/
def OpKind.remoteSignal : OpKind → Option Signal
  | .get sig .. | .put sig .. | .waits (.put sig ..) _ _ => some sig
  | _ => none

/-- The operation with n bytes fewer to come. -/
def OpKind.minus (k : OpKind) (n : Nat) : OpKind :=
  match k with
  | .copy sig len left => .copy sig len (left - n)
  | .get sig a node len dst left => .get sig a node len dst (left - n)
  | .put sig a node len left => .put sig a node len (left - n)
  | k => k

/-- Bytes of an operation that have arrived, counted into its weir (R304). -/
def State.arrived (s : State) (id n : Nat) : State :=
  match s.ops.find? fun o => o.id = id with
  | none => s
  | some o =>
    match o.kind.remaining with
    | none => s
    | some (sig, _, left) =>
      let n := min n left
      let s := s.updOp id fun o => { o with kind := o.kind.minus n }
      match sig with
      | .weir core lid off => s.weirCount core lid off n
      | _ => s

/-- WEIR_ARRIVAL (R304): bytes of a local operation arrive, or bytes of a remote one that went to a device or a host; what has gone
there has performed first. -/
def execWeirArrival (op n : Nat) (s : State) : Answer :=
  match s.ops.find? fun o => o.id = op with
  | some o =>
    if !s.performed o.sent then .next s
    else
      match o.kind with
      | .copy .. => .next (s.arrived op n)
      | .get .. => .next ((s.updOp op fun o => { o with late := o.late - n }).arrived op (min n o.late))
      | _ => .next s
  | none => .next s

/-- COPY_COMPLETE (R298): an operation whose bytes have all arrived and performed ends, and raises its progress word. -/
def execCopyComplete (op : Nat) (s : State) : Answer :=
  match s.ops.find? fun o => o.id = op with
  | none => .next s
  | some o =>
    if !s.performed o.sent then .next s
    else
    match o.kind.remaining with
    | some (.word w, len, 0) =>
      let v := natOfBytes (s.bytesAt w 8)
      .next ((s.setWord w (min (v + len) (2 ^ 64 - 1))).endOp op)
    | some (_, _, 0) => .next (s.endOp op)
    | _ => .next s

/-- Set a bit of mask register k of a hart, placed or saved (R298, R393). -/
def State.landBit (s : State) (o : EngineOp) (k i : Nat) : State :=
  match s.placed.find? o.ofHart with
  | some h => s.updHart h.hid fun h => h.setMaskBit k i true
  | none =>
    match s.launch? o.lid with
    | none => s
    | some l =>
      let va := l.save + o.j * slotSize l.gpref + 0x10000 + 8192 * k + i / 8
      match s.spanPair l.port l.pasid va 1 .write with
      | .ok (segs, t) => t.onBehalf o.lid (·.segWrite segs (bytesOf (t.segNat segs ||| 2 ^ (i % 8)) 1))
      | .error _ => s

/-- CPYGS_ROW_LANDED (R300): a row's bit becomes 1; the last row ends the operation. -/
def execCpygsRowLanded (op row : Nat) (s : State) : Answer :=
  match s.ops.find? fun o => o.id = op with
  | none => .next s
  | some o =>
    match o.kind with
    | .gather k rows =>
      if !rows.contains row then .next s
      else
        let left := rows.filter (· ≠ row)
        let s := (s.landBit o k row).updOp op fun o => { o with kind := .gather k left }
        .next (if left.isEmpty then s.endOp op else s)
    | _ => .next s

end Sys2Proof.Machine
end

