-- ==== Sys2Proof/Machine/MeshObj.lean ====
section
/-!
DEFINITION. Mesh objects: keys and curve order (R52 to R54), faces across base cells (R48 to R51), the forest stream
(R55), reading and checking a mesh (R47, R58), and the streams of records (R60 to R64).
-/

namespace Sys2Proof.Machine

-- cells and keys

/-- A cell in its base cell's frame: integer coordinates at its level; z is 0 in 2-D (R48, R52). -/
structure Cell where
  base : Nat
  level : Nat
  x : Nat
  y : Nat
  z : Nat
  deriving DecidableEq, Repr

/-- BASE, LEVEL and the level-L digit of a key (R53). -/
def keyBase (k : Nat) : Nat := k / 2 ^ 34
/-- LEVEL. -/
def keyLevel (k : Nat) : Nat := bitsAt k 30 4
/-- The digit of level L, from 1. -/
def keyDigit (k l : Nat) : Nat := bitsAt k (30 - 3 * l) 3

/-- The cell of a key. -/
def Cell.ofKey (k : Nat) : Cell :=
  let ax (j : Nat) := (List.range (keyLevel k)).foldl (fun c l => 2 * c + bitsAt (keyDigit k (l + 1)) j 1) 0
  ⟨keyBase k, keyLevel k, ax 0, ax 1, ax 2⟩

/-- Child number of a cell within its parent (R52). -/
def Cell.child (c : Cell) : Nat := c.x % 2 + 2 * (c.y % 2) + 4 * (c.z % 2)

/-- The ancestor `n` levels up. -/
def Cell.up (c : Cell) (n : Nat) : Cell := ⟨c.base, c.level - n, c.x / 2 ^ n, c.y / 2 ^ n, c.z / 2 ^ n⟩

/-- A child of a cell. -/
def Cell.kid (c : Cell) (n : Nat) : Cell :=
  ⟨c.base, c.level + 1, 2 * c.x + bitsAt n 0 1, 2 * c.y + bitsAt n 1 1, 2 * c.z + bitsAt n 2 1⟩

/-- The key of a cell (R53). -/
def Cell.key (c : Cell) : Nat :=
  c.base * 2 ^ 34 + c.level * 2 ^ 30
    + ((List.range c.level).map fun l => (c.up (c.level - 1 - l)).child * 2 ^ (27 - 3 * l)).sum

/-- A key of a mesh of `nbase` base cells that breaks no condition of R53. -/
def keyOk (dim2 : Bool) (nbase k : Nat) : Bool :=
  k < 2 ^ 64 && keyBase k < nbase && keyLevel k ≤ 10 && k % 2 ^ (30 - 3 * keyLevel k) == 0
    && (!dim2 || (List.range (keyLevel k)).all fun l => keyDigit k (l + 1) < 4)

/-- Key a is key b or an ancestor of it. -/
def covers (a b : Nat) : Bool :=
  let n := 30 - 3 * keyLevel a
  keyBase a == keyBase b && keyLevel a ≤ keyLevel b && bitsAt a n (30 - n) == bitsAt b n (30 - n)

/-- Place of a key in curve order (R54): base order position, then path, then level. -/
def curveRank (border : List Nat) (k : Nat) : Nat :=
  border.idxOf (keyBase k) * 2 ^ 34 + k % 2 ^ 30 * 16 + keyLevel k

/-- Keys sorted in curve order. -/
def curveSort (border : List Nat) (ks : List Nat) : List Nat :=
  ks.insertionSort fun a b => curveRank border a ≤ curveRank border b

-- faces

/-- Axes of the face-local coordinates u and v (R48). -/
def faceAxes (f : Nat) : Nat × Nat := (if f / 2 = 0 then 1 else 0, if f / 2 = 2 then 1 else 2)

/-- A coordinate of a cell. -/
def Cell.at (c : Cell) (axis : Nat) : Nat := if axis = 0 then c.x else if axis = 1 then c.y else c.z

/-- A cell with one coordinate replaced. -/
def Cell.set (c : Cell) (axis v : Nat) : Cell :=
  if axis = 0 then { c with x := v } else if axis = 1 then { c with y := v } else { c with z := v }

/-- The inverse of an orientation code (R50). -/
def invOrient (o : Nat) : Nat := if o < 4 then o else 4 + bitsAt o 0 1 * 2 + bitsAt o 1 1

/-- The map of R51 on coordinates of [0, n). -/
def orient (o n : Nat) (uv : Nat × Nat) : Nat × Nat :=
  let p := if bitsAt o 2 1 = 1 then (uv.2, uv.1) else uv
  (if bitsAt o 1 1 = 1 then n - 1 - p.1 else p.1, if bitsAt o 0 1 = 1 then n - 1 - p.2 else p.2)

/-- Faces of a cell: 2 * D. -/
def MeshRec.nfaces (r : MeshRec) : Nat := if r.dim2 then 4 else 6

/-- Children of a cell: 2 ^ D. -/
def MeshRec.nkids (r : MeshRec) : Nat := if r.dim2 then 4 else 8

/-- The base face entry of face f of a base cell (R49). -/
def MeshData.face (m : MeshData) (b f : Nat) : Nat := (m.faces[b * m.head.nfaces + f]?).getD 0

/-- What lies across face f of a cell at its own level: the cell, its face and the orientation code, or the boundary tag
(R49 to R51). Cells of one base cell meet with code 0b000; where a periodic base cell meets itself, the code of the entry says
all the same which of its cells lies there (DESIGN CHOICE: log 61). -/
def MeshData.across (m : MeshData) (c : Cell) (f : Nat) : Except Nat (Cell × Nat × Nat) :=
  let n := 2 ^ c.level
  let a := f / 2
  let x := c.at a
  if f % 2 = 1 ∧ x + 1 < n then .ok (c.set a (x + 1), f - 1, 0)
  else if f % 2 = 0 ∧ 0 < x then .ok (c.set a (x - 1), f + 1, 0)
  else
    let e := m.face c.base f
    if bitsAt e 34 30 = 0x3FFFFFFF then .error (bitsAt e 0 16)
    else
      let g := bitsAt e 31 3
      let o := bitsAt e 28 3
      let (ua, va) := faceAxes f
      let (gu, gv) := faceAxes g
      let uv := orient o n (c.at ua, if m.head.dim2 then 0 else c.at va)
      let d : Cell := ⟨bitsAt e 34 30, c.level, 0, 0, 0⟩
      let d := ((d.set (g / 2) (if g % 2 = 1 then n - 1 else 0)).set gu uv.1).set gv (if m.head.dim2 then 0 else uv.2)
      .ok (d, g, if d.base = c.base then 0 else o)

/-- The keys across the faces of a key's cell, at its own level. -/
def MeshData.beside (m : MeshData) (k : Nat) : List Nat :=
  (List.range m.head.nfaces).filterMap fun f =>
    match m.across (Cell.ofKey k) f with
    | .ok (c, _, _) => some c.key
    | .error _ => none

/-- Two cells share a face part of positive area (R56). -/
def MeshData.touch (m : MeshData) (a b : Nat) : Bool :=
  (m.beside a).any (fun n => covers b n) || (m.beside b).any (fun n => covers a n)

-- the forest stream

/-- The leaves of one tree from stream bit `pos` on, and the bit after it; `r` levels may still be refined (R55). -/
def parseNode (bits fbits kids : Nat) : Nat → Cell → Nat → Option (List Nat × Nat)
  | r, c, pos =>
    if fbits ≤ pos then none
    else if !bits.testBit pos then some ([c.key], pos + 1)
    else
      match r with
      | 0 => none
      | r' + 1 =>
        (List.range kids).foldlM (fun p n => do
          let (ks, q) ← parseNode bits fbits kids r' (c.kid n) p.2
          pure (p.1 ++ ks, q)) ([], pos + 1)

/-- The leaves of the stored trees, when the stream holds exactly those trees (R55, R58). -/
def parseForest (r : MeshRec) (border : List Nat) (bits : Nat) : Option (List Nat) := do
  let trees := (border.drop r.blo).take (r.bhi - r.blo)
  let (ks, q) ← trees.foldlM (fun p b => do
    let (ks, q) ← parseNode bits r.fbits r.nkids r.maxlev ⟨b, 0, 0, 0, 0⟩ p.2
    pure (p.1 ++ ks, q)) (([] : List Nat), 0)
  if q = r.fbits then some ks else none

/-- The stream bits of a node whose leaves head a list in curve order, and the leaves left; a part of the tree in which no
leaf is listed is one leaf. -/
def emitNode (kids : Nat) : Nat → Cell → List Nat → List Bool × List Nat
  | _, _, [] => ([false], [])
  | r, c, k :: ks =>
    if k = c.key then ([false], ks)
    else if !covers c.key k then ([false], k :: ks)
    else
      match r with
      | 0 => ([false], k :: ks)
      | r' + 1 =>
        (List.range kids).foldl (fun p n =>
          let q := emitNode kids r' (c.kid n) p.2
          (p.1 ++ q.1, q.2)) ([true], k :: ks)

/-- The stream of the trees of base order positions [blo, bhi) with the leaves given in curve order. -/
def emitForest (kids : Nat) (trees : List Nat) (leaves : List Nat) : List Bool :=
  (trees.foldl (fun (p : List Bool × List Nat) b =>
    let q := emitNode kids 10 ⟨b, 0, 0, 0, 0⟩ p.2
    (p.1 ++ q.1, q.2)) ([], leaves)).1

/-- Bits as a number, the first lowest. -/
def natOfBits : List Bool → Nat
  | [] => 0
  | b :: bs => (if b then 1 else 0) + 2 * natOfBits bs

-- reading a mesh

/-- Consecutive fields of `n` bytes of a number. -/
def fieldsOf (x n count : Nat) : List Nat := (List.range count).map fun i => bitsAt x (8 * n * i) (8 * n)

/-- The mesh record at an address from its 256 bytes, if its own fields break nothing of R47. -/
def parseMeshRec (addr x : Nat) : Option MeshRec :=
  let f (off len : Nat) := bitsAt x (8 * off) (8 * len)
  let r : MeshRec := {
    addr := addr, dim2 := f 6 2 == 1, nbase := f 8 4, maxlev := f 0x0C 1, bfaces := f 0x10 8, border := f 0x18 8,
    forest := f 0x20 8, fbits := f 0x28 8, blo := f 0x30 4, bhi := f 0x34 4, ownfirst := f 0x38 8, nown := f 0x40 4,
    nghost := f 0x44 4, ghosts := f 0x48 8, gowner := f 0x50 8, part := f 0x58 4, npart := f 0x5C 4 }
  if f 0 4 == 0x4853454D && f 4 2 == 1 && f 6 2 ≤ 1 && 1 ≤ r.nbase && r.nbase ≤ 0x3FFFFFFF && r.maxlev ≤ 10
      && f 0x0D 3 == 0 && r.bfaces % 8 == 0 && r.border % 4 == 0 && r.forest % 8 == 0 && r.blo ≤ r.bhi
      && r.bhi ≤ r.nbase && (r.nghost == 0 || (r.ghosts % 8 == 0 && r.gowner % 4 == 0)) && r.part < r.npart
      && r.nown + r.nghost ≤ 0xFFFFFFFD && f 0x60 160 == 0 then some r else none

/-- The 256 bytes of a mesh record (R47). -/
def meshRecBytes (r : MeshRec) : List Byte :=
  bytesOf 0x4853454D 4 ++ bytesOf 1 2 ++ bytesOf (if r.dim2 then 1 else 0) 2 ++ bytesOf r.nbase 4 ++ bytesOf r.maxlev 4
    ++ bytesOf r.bfaces 8 ++ bytesOf r.border 8 ++ bytesOf r.forest 8 ++ bytesOf r.fbits 8 ++ bytesOf r.blo 4
    ++ bytesOf r.bhi 4 ++ bytesOf r.ownfirst 8 ++ bytesOf r.nown 4 ++ bytesOf r.nghost 4 ++ bytesOf r.ghosts 8
    ++ bytesOf r.gowner 8 ++ bytesOf r.part 4 ++ bytesOf r.npart 4 ++ List.replicate 160 0

/-- The arrays that a mesh record names: address and bytes, in the order of its fields (R47, R49). -/
def MeshRec.arrays (r : MeshRec) : List (Nat × Nat) :=
  [(r.bfaces, 8 * r.nfaces * r.nbase), (r.border, 4 * r.nbase), (r.forest, 8 * ceilDiv r.fbits 64)]
    ++ if r.nghost = 0 then [] else [(r.ghosts, 8 * r.nghost), (r.gowner, 4 * r.nghost)]

/-- Why a mesh cannot be read. -/
inductive MeshFail where
  /-- A translation fails: code and address. -/
  | fault (code va : Nat)
  /-- A poisoned word at an address (R313). -/
  | poison (va : Nat)
  /-- It fails R58. -/
  | broken
  deriving DecidableEq, Repr

/-- Places all in device memory. -/
def onlyDevice (gs : List Seg) : Bool := gs.all fun g => match g.loc with
  | .dev .. => true
  | _ => false

/-- Translate ranges for a read by one translator, all in device memory (R47). -/
def State.arraySegs (s : State) (tr : State → Nat → Except Nat (Loc × State)) :
    List (Nat × Nat) → Except MeshFail (List (List Seg) × State)
  | [] => .ok ([], s)
  | (va, n) :: rs =>
    match spanWith tr (piecesOf va n) s with
    | .error (c, a) => .error (.fault c a)
    | .ok (segs, t) =>
      if !onlyDevice segs then .error .broken
      else
        match t.arraySegs tr rs with
        | .error e => .error e
        | .ok (gs, u) => .ok (segs :: gs, u)

/-- Translation for a read in the acting hart's address space. -/
def readHere (s : State) (va : Nat) : Except Nat (Loc × State) := s.xlate va .read

/-- Translation for a read in an address space, of which no window is part (R47, R88). -/
def Space.readIn (sp : Space) (s : State) (va : Nat) : Except Nat (Loc × State) :=
  if inWindows va then .error accessFault else s.xlateIn (s.caches false) sp.asid sp.root sp.task va .read

/-- A range in an address space. -/
def Act.spanIn (sp : Space) (va n : Nat) : Act (List Seg) := do
  let s ← get
  match spanWith sp.readIn (piecesOf va n) s with
  | .ok (segs, t) => set t; pure segs
  | .error (c, a) => Act.trap c (wordOfNat a)

/-- The address space of the acting hart. -/
def State.mySpace (s : State) : Space := ⟨s.hart.asid, s.hart.ptroot.toNat, !s.hart.super⟩

/-- The address space of array `i` of an open mesh: BFACES and BORDER are the record's, the others those of the operation that
wrote them. -/
def MeshHandle.spaceOf (h : MeshHandle) (i : Nat) : Space := if i < 2 then h.space else h.made

/-- The offsets in a piece of `n` bytes from an address on at which a word of 8 bytes begins, the piece's own start among them. -/
def wordStarts (va n : Nat) : List Nat := (List.range n).filter fun i => i == 0 || (va + i) % 8 == 0

/-- The address of the first poisoned word of an array (R266, R269). -/
def State.poisonIn (s : State) (va n : Nat) (gs : List Seg) : Option Nat :=
  ((piecesOf va n).zip gs).findSome? fun p =>
    if s.poisonedAt p.2.loc p.2.len then
      ((wordStarts p.1.1 p.2.len).find? fun i => s.poisonedAt (p.2.loc.plus i) 1).map fun i => (p.1.1 + i) / 8 * 8
    else none

/-- The base cell table obeys R49 and R50. -/
def MeshData.facesOk (m : MeshData) : Bool :=
  (List.range m.head.nbase).all fun b => (List.range m.head.nfaces).all fun f =>
    let e := m.face b f
    let nb := bitsAt e 34 30
    let g := bitsAt e 31 3
    let o := bitsAt e 28 3
    bitsAt e 16 12 == 0 &&
      if nb = 0x3FFFFFFF then g == 0 && o == 0
      else
        let back := m.face nb g
        nb < m.head.nbase && bitsAt e 0 16 == 0 && g < m.head.nfaces && !(nb == b && g == f)
          && (!m.head.dim2 || o &&& 5 == 0)
          && bitsAt back 34 30 == b && bitsAt back 31 3 == f && bitsAt back 28 3 == invOrient o

/-- Owned cells in local order (R57). -/
def MeshData.owned (m : MeshData) : List Nat := (m.leaves.drop m.head.ownfirst).take m.head.nown

/-- Local cells in local order (R57). -/
def MeshData.locals (m : MeshData) : List Nat := m.owned ++ m.ghosts

/-- The ghost list obeys R53 and R57: keys of leaves, strictly ascending in curve order, none of them, and none of their
ancestors or descendants, an owned cell; owners are other parts. -/
def MeshData.ghostsOk (m : MeshData) : Bool :=
  m.ghosts.all (fun k => keyOk m.head.dim2 m.head.nbase k && keyLevel k ≤ m.head.maxlev
    && !(m.owned.any fun c => covers c k || covers k c)
    && !(m.leaves.any fun c => c != k && (covers c k || covers k c)))
  && (m.ghosts.zip (m.ghosts.drop 1)).all (fun p =>
    curveRank m.border p.1 < curveRank m.border p.2 && !covers p.1 p.2)
  && m.owners.all fun p => p < m.head.npart && p != m.head.part

/-- The local cells are 2:1 balanced (R56). -/
def MeshData.balanced (m : MeshData) : Bool :=
  m.locals.all fun k => (m.beside k).all fun n =>
    !(m.locals.any fun a => keyLevel a + 2 ≤ keyLevel n && covers a n)

/-- The contents of a mesh from the places of its arrays: each array is read and checked in turn (R58, R313), and poison is an
error when `mind`. -/
def State.meshFrom (s : State) (r : MeshRec) (gs : List (List Seg)) (mind : Bool := true) : Except MeshFail MeshData :=
  let arr (i : Nat) : Except MeshFail Nat :=
    match r.arrays[i]?, gs[i]? with
    | some (va, n), some g =>
      match if mind then s.poisonIn va n g else none with
      | some a => .error (.poison a)
      | none => .ok (s.segNat g)
    | _, _ => .ok 0
  let need (b : Bool) : Except MeshFail Unit := if b then .ok () else .error .broken
  do
    let bf ← arr 0
    let m : MeshData := ⟨r, fieldsOf bf 8 (r.nfaces * r.nbase), [], [], [], []⟩
    need m.facesOk
    let bo ← arr 1
    let border := fieldsOf bo 4 r.nbase
    need (border.all (· < r.nbase) && decide border.Nodup)
    let fo ← arr 2
    match parseForest r border fo with
    | none => .error .broken
    | some leaves =>
      let m := { m with border := border, leaves := leaves }
      need (r.ownfirst + r.nown ≤ leaves.length)
      let gk ← arr 3
      let go ← arr 4
      let m := { m with ghosts := fieldsOf gk 8 r.nghost, owners := fieldsOf go 4 r.nghost }
      need (m.ghostsOk && m.balanced)
      .ok m

/-- The places of the arrays of an open mesh. -/
def State.meshSegs (s : State) (h : MeshHandle) : Except MeshFail (List (List Seg) × State) :=
  match s.arraySegs h.space.readIn (h.mesh.arrays.take 2) with
  | .error e => .error e
  | .ok (gs, t) =>
    match t.arraySegs h.made.readIn (h.mesh.arrays.drop 2) with
    | .error e => .error e
    | .ok (gs', u) => .ok (gs ++ gs', u)

/-- An open mesh as it reads now, with the places of its arrays; poison reads as the data that stand there. -/
def State.readMesh (s : State) (h : MeshHandle) : Except MeshFail (MeshData × List (List Seg) × State) :=
  match s.meshSegs h with
  | .error e => .error e
  | .ok (gs, t) =>
    match t.meshFrom h.mesh gs false with
    | .error e => .error e
    | .ok m => .ok (m, gs, t)

-- records

/-- How a face of a local cell meets what lies across it. -/
inductive Meets where
  | boundary (tag : Nat)
  | same (idx face orient : Nat)
  | coarser (idx face orient sub : Nat)
  | finer (idx face orient sub : Nat)
  | remote (face orient : Nat)
  deriving DecidableEq, Repr

/-- What each sub-face of face f meets one level finer, in ascending SUB, by the coarse cell's own axes (R61). -/
def MeshData.subFaces (m : MeshData) (c : Cell) (f : Nat) : List (Nat × Option Nat) :=
  let (ua, va) := faceAxes f
  (List.range (m.head.nkids / 2)).map fun s =>
    let k := if m.head.dim2 then bitsAt s 0 1 * 2 ^ ua else bitsAt s 0 1 * 2 ^ ua + bitsAt s 1 1 * 2 ^ va
    match m.across (c.kid (k + f % 2 * 2 ^ (f / 2))) f with
    | .ok (n, _, _) => (s, m.locals.idxOf? n.key)
    | .error _ => (s, none)

/-- The records of face f of local cell i (R62). A stored leaf that is not owned is recorded as remote (R57); under NPART 1, where it
is no leaf of another part, that is a choice (DESIGN CHOICE: log 61). -/
def MeshData.meets (m : MeshData) (i f : Nat) : List Meets :=
  let c := Cell.ofKey ((m.locals[i]?).getD 0)
  match m.across c f with
  | .error t => [.boundary t]
  | .ok (n, g, o) =>
    match m.locals.idxOf? n.key with
    | some j => [.same j g o]
    | none =>
      let (gu, gv) := faceAxes g
      match (if c.level = 0 then none else m.locals.idxOf? (n.up 1).key) with
      | some j => [.coarser j g o (n.at gu % 2 + if m.head.dim2 then 0 else 2 * (n.at gv % 2))]
      | none =>
        let subs := m.subFaces c f
        if subs.all fun p => p.2.isNone then [.remote g o]
        else subs.map fun p =>
          match p.2 with
          | some j => .finer j g o p.1
          | none => .remote g o

/-- A neighbour record (R60). -/
def Meets.record : Meets → Nat
  | .boundary t => 0xFFFFFFFF * 2 ^ 32 + 3 * 2 ^ 29 + t
  | .same j g o => j * 2 ^ 32 + g * 2 ^ 26 + o * 2 ^ 23
  | .coarser j g o s => j * 2 ^ 32 + 1 * 2 ^ 29 + g * 2 ^ 26 + o * 2 ^ 23 + s * 2 ^ 20
  | .finer j g o s => j * 2 ^ 32 + 2 * 2 ^ 29 + g * 2 ^ 26 + o * 2 ^ 23 + s * 2 ^ 20
  | .remote g o => 0xFFFFFFFE * 2 ^ 32 + 4 * 2 ^ 29 + g * 2 ^ 26 + o * 2 ^ 23

/-- The NBR stream (R62). -/
def MeshData.nbr (m : MeshData) : List Nat :=
  (List.range m.head.nown).flatMap fun i => (List.range m.head.nfaces).flatMap fun f => (m.meets i f).map Meets.record

/-- The record of a face that cell i emits: its two elements (R63). -/
def MeshData.faceRecord (m : MeshData) (i f : Nat) : List Nat :=
  match m.meets i f with
  | [.same j g o] =>
    if (i < j || (i == j && f < g)) && (i < m.head.nown || j < m.head.nown) then
      [i * 2 ^ 32 + j, f * 2 ^ 61 + g * 2 ^ 58 + o * 2 ^ 55] else []
  | [.coarser j g o s] =>
    if i < m.head.nown || j < m.head.nown then
      [i * 2 ^ 32 + j, f * 2 ^ 61 + g * 2 ^ 58 + o * 2 ^ 55 + s * 2 ^ 52 + 1 * 2 ^ 49] else []
  | _ => []

/-- The FACE stream (R63). -/
def MeshData.faceStream (m : MeshData) : List Nat :=
  (List.range m.locals.length).flatMap fun i => (List.range m.head.nfaces).flatMap fun f => m.faceRecord i f

/-- The stream of a topology yarn by its FMT: 5 NBR, 6 FACE, 7 CELLS (R62 to R64, R315). -/
def MeshData.stream (m : MeshData) (fmt : Nat) : List Nat :=
  if fmt = 5 then m.nbr else if fmt = 6 then m.faceStream else m.locals

end Sys2Proof.Machine
end

