-- ==== Sys2Proof/Machine/Engines.lean ====
section
/-!
DEFINITION. What the topology and sampling engines share: handles (R307), command blocks (R308, R310), status words
(R311), the order on a handle (R309), what a completion changes, MSWAIT and GWAIT (R329) with HANDLE_WAIT_RETURN.
-/

namespace Sys2Proof.Machine

-- handles

/-- Handles of the acting hart. -/
def State.myHandles (s : State) : Handles := s.handlesOf s.hart.lid

/-- A new handle in the lowest slot that no open handle of its kind has (R307). -/
def newHandle (serial : Nat) (taken : List Nat) : Nat :=
  serial % 2 ^ 28 * 16 + ((List.range 16).find? fun k => !(taken.any fun h => h % 16 == k)).getD 0

/-- The open mesh handle that a scalar operand names (R307). -/
def Act.meshHandle (x : Word) : Act MeshHandle := do
  let s ← get
  match s.myHandles.mesh.find? fun h => h.h = x.toNat with
  | some h => pure h
  | none => Act.trap 2 x

/-- The open sampling handle that a scalar operand names (R307). -/
def Act.gibbsHandle (x : Word) : Act GibbsHandle := do
  let s ← get
  match s.myHandles.gibbs.find? fun h => h.h = x.toNat with
  | some h => pure h
  | none => Act.trap 2 x

/-- An operation on a handle of the acting hart's launch has not completed. -/
def State.handleBusy (s : State) (handle : Nat) : Bool :=
  s.ops.any fun o => o.handle == handle && handle != 0 && o.lid == s.hart.lid

/-- Wait until every operation dispatched earlier on a handle has completed (R309). -/
def Act.idle (handle : Nat) : Act Unit := do
  let s ← get
  Act.waitUntil (!s.handleBusy handle)

-- command blocks

/-- A field of a command block. -/
def blockField (b off len : Nat) : Nat := bitsAt b (8 * off) (8 * len)

/-- The first poisoned word of a range makes its read trap (R308, R405). -/
def Act.noPoison (va n : Nat) (gs : List Seg) : Act Unit := do
  let s ← get
  match s.poisonIn va n gs with
  | some a => Act.trap 7 (wordOfNat a)
  | none => pure ()

/-- A range read at dispatch before any effect: translated, poison trapping. -/
def Act.fetchRange (va n : Nat) : Act Nat := do
  let gs ← Act.span va n .read
  Act.noPoison va n gs
  let bs ← Act.pull gs
  pure (natOfBytes bs)

/-- A range that an instruction of the hart itself reads, through the core or a lane die (R255). -/
def Act.ownRange (va n : Nat) (lane : Option Nat := none) : Act Nat := do
  let gs ← Act.reachAll va n .read
  Act.noPoison va n gs
  let bs ← Act.pull gs lane
  pure (natOfBytes bs)

/-- A command block, read once, with the checks of its tail and of its reserved bytes (R310, R6). -/
def Act.block (x : Word) (reserved : List (Nat × Nat)) : Act Nat := do
  Act.check (x.toNat % 256 == 0) 2 x
  let b ← Act.fetchRange x.toNat 256
  let f := blockField b
  Act.check (f 0xE0 8 % 8 == 0 && f 0xE8 1 < 8 && f 0xE9 7 == 0 && f 0xF8 8 == 0
    && reserved.all fun r => f r.1 r.2 == 0) 2 x
  pure b

/-- The ranges of a block itself and of its DONE word. -/
def blockRanges (x : Word) (b : Nat) : List Range :=
  [(x.toNat + 0xF0, 8, .write)] ++ if blockField b 0xE0 8 = 0 then [] else [(blockField b 0xE0 8, 8, .write)]

/-- The places of STATUS and DONE among the first translated ranges; a progress word lies in memory of the package
(R287, R446). -/
def Act.tail (b : Nat) (gs : List (List Seg)) : Act (Option Loc × Option Loc) := do
  let loc (i : Nat) : Option Loc := ((gs[i]?).bind (·.head?)).map (·.loc)
  let done := if blockField b 0xE0 8 = 0 then none else loc 1
  Act.check (!((done.map Loc.outside).getD false)) accessFault (wordOfNat (blockField b 0xE0 8))
  pure (loc 0, done)

/-- Two ranges of bytes share one. -/
def clash (a b : Nat × Nat) : Bool := a.2 != 0 && b.2 != 0 && a.1 < b.1 + b.2 && b.1 < a.1 + a.2

/-- Some two of a list of ranges overlap. -/
def anyClash : List (Nat × Nat) → Bool
  | [] => false
  | r :: rs => rs.any (clash r) || anyClash rs

/-- A status word (R311). -/
def statusWord (code flags detail : Nat) : Word :=
  wordOfNat (code * 2 ^ 56 + flags % 32 * 2 ^ 32 + detail % 2 ^ 32)

/-- The index of the first element of `size` bytes that reads poisoned, among `n`. -/
def State.badElem (s : State) (gs : List Seg) (size n : Nat) : Option Nat :=
  if !s.segsPoisoned gs then none
  else (List.range n).find? fun i => s.segsPoisoned (segsAt gs (i * size) size)

/-- The places of STATUS and DONE, as stretches. -/
def tailSegs (tail : Option Loc × Option Loc) : List Seg := (tail.1.toList ++ tail.2.toList).map fun l => ⟨l, 8⟩

/-- Some of an operation's places reach the scratchpad (R411). -/
def scratchy (gs : List (List Seg)) (tail : Option Loc × Option Loc) : Bool :=
  gs.any segsScratch || segsScratch (tailSegs tail)

/-- Dispatch an operation of an engine, with its status words' places. -/
def State.dispatchEngine (s : State) (handle : Nat) (scratch : Bool) (writes reads : List Seg) (work : Work)
    (tail : Option Loc × Option Loc) (run : EngineOp → State → Starts) : State :=
  s.dispatch handle scratch (writes ++ tailSegs tail) reads work tail.1 tail.2 run

/-- An operation begins whose results stand: its engine completes it in a step of its own. -/
def EngineOp.results (o : EngineOp) (word : Word) (mesh : Option NewMesh) (isGibbs : Bool) (tail : Option Loc × Option Loc)
    (s : State) : Starts := (s, .engine word tail.1 tail.2 mesh isGibbs, o.writes)

-- completion

/-- What completion does to the handles: the status of the latest operation (R329) and, for an operation that made a new
mesh, the handle's mesh and epoch (R315, R319). -/
def Handles.complete (hs : Handles) (handle : Nat) (word : Word) (mesh : Option NewMesh) (isGibbs : Bool) : Handles :=
  if isGibbs then
    { hs with gibbs := hs.gibbs.map fun h => if h.h = handle then { h with last := word } else h }
  else
    { hs with mesh := hs.mesh.map fun h =>
        if h.h ≠ handle then h
        else
          match mesh with
          | some r =>
            { h with last := word, mesh := r.mesh, made := r.made, places := r.places, data := r.data, epoch := h.epoch + 1 }
          | none => { h with last := word } }

/-- Add 1 to a progress word (R310), which the device never lowers (R351): at its largest value it stays. -/
def State.bump (s : State) (done : Option Loc) : State :=
  match done with
  | some w => s.setWord w (min (natOfBytes (s.bytesAt w 8) + 1) (2 ^ 64 - 1))
  | none => s

/-- An operation whose results stand completes: STATUS, then, once it has performed, the handle and DONE (R310, R311, R315, R319). -/
def State.completeOp (s : State) (o : EngineOp) (word : Word) (status done : Option Loc) (mesh : Option NewMesh)
    (isGibbs : Bool) : State :=
  let t := match status with
    | some w => s.onBehalf o.lid (·.segWrite [⟨w, 8⟩] (bytesOf word.toNat 8))
    | none => s
  if (t.tagsFrom s).isEmpty then
    ((t.updHandles o.lid fun hs => hs.complete o.handle word mesh isGibbs).bump done).endOp o.id
  else t.updOp o.id fun o => { o with sent := t.tagsFrom s, kind := .engine word none done mesh isGibbs }

-- waiting

/-- MSWAIT (R329). -/
def mswait (d a : Reg) : Act Unit := do
  let s ← get
  let h ← Act.meshHandle (s.rx a)
  Act.idle h.h
  Act.upd (·.done1 d h.last)

/-- MSWAIT. -/
def execMswait (d a : Reg) (s : State) : Answer := Act.run false (mswait d a) s

/-- GWAIT (R329). -/
def gwait (d a : Reg) : Act Unit := do
  let s ← get
  let h ← Act.gibbsHandle (s.rx a)
  Act.idle h.h
  Act.upd (·.done1 d h.last)

/-- GWAIT. -/
def execGwait (d a : Reg) (s : State) : Answer := Act.run false (gwait d a) s

/-- HANDLE_WAIT_RETURN (R309, R329): a waiting MSWAIT or GWAIT looks again. -/
def execHandleWaitReturn (hid : Nat) (s : State) : Answer :=
  wake hid (fun w =>
    if wordMajor w = 0x36 ∧ wordOp w = 9 then some (Act.run false (mswait (wordD w) (wordA w)))
    else if wordMajor w = 0x37 ∧ wordOp w = 4 then some (Act.run false (gwait (wordD w) (wordA w)))
    else none) s

end Sys2Proof.Machine
end

