-- ==== Sys2Proof/Machine/MeshJob.lean ====
section
/-!
DEFINITION. What a refining, balancing or ghost operation computes from the cells of every part: R318 to R324, over one
part or several.
-/

namespace Sys2Proof.Machine

/-- An owned cell of some part: the part, its local index there, and the cell. -/
structure PartCell where
  part : Nat
  idx : Nat
  cell : MeshCell
  deriving DecidableEq, Repr

/-- An owned cell of the new mesh: its part, its key, SRC, REL and CHILD of its remap record (R65), and its field bytes. -/
structure NewCell where
  part : Nat
  key : Nat
  src : Nat
  rel : Nat
  child : Nat
  data : List (List Byte)
  deriving DecidableEq, Repr

/-- A remap record (R65). -/
def NewCell.remap (c : NewCell) : Nat := c.src * 2 ^ 32 + c.rel * 2 ^ 29 + c.child * 2 ^ 26

/-- Shares in ascending part. -/
def MeshJob.inOrder (j : MeshJob) : List MeshShare :=
  (List.range j.mesh.head.npart).filterMap fun p => j.shares.find? fun m => m.part = p

/-- The owned cells of all parts, those of part 0 first (R323). -/
def MeshJob.cells (j : MeshJob) : List PartCell :=
  j.inOrder.flatMap fun m => (List.range m.cells.length).filterMap fun i => (m.cells[i]?).map fun c => ⟨m.part, i, c⟩

-- refining (R318)

/-- One round of the balance closure: the leaves one level coarser that share a face part with a member. -/
def MeshData.closeOnce (m : MeshData) (keys r : List Nat) : List Nat :=
  r ++ ((r.filter fun k => 0 < keyLevel k).flatMap fun k =>
    (m.beside k).filterMap fun n =>
      let p := ((Cell.ofKey n).up 1).key
      if keys.contains p && !r.contains p then some p else none).dedup

/-- The balance closure. -/
def MeshData.closure (m : MeshData) (keys : List Nat) : Nat → List Nat → List Nat
  | 0, r => r
  | n + 1, r => let t := m.closeOnce keys r; if t.length = r.length then r else m.closure keys n t

/-- The parent of a key. -/
def keyParent (k : Nat) : Nat := ((Cell.ofKey k).up 1).key

/-- The keys of the children of a key. -/
def MeshRec.kidKeys (r : MeshRec) (k : Nat) : List Nat := (List.range r.nkids).map fun n => ((Cell.ofKey k).kid n).key

/-- R: the leaves that refine (steps 1 and 2). -/
def MeshData.refining (m : MeshData) (cs : List PartCell) : List Nat :=
  m.closure (cs.map (·.cell.key)) cs.length
    ((cs.filter fun c => c.cell.flag = 1 ∧ keyLevel c.cell.key < m.head.maxlev).map (·.cell.key))

/-- C: the parents of the families that coarsen (step 3). -/
def MeshData.coarsening (m : MeshData) (cs : List PartCell) (r : List Nat) : List Nat :=
  let fine := cs.flatMap fun c => if r.contains c.cell.key then m.head.kidKeys c.cell.key else [c.cell.key]
  (cs.filter fun c => 0 < keyLevel c.cell.key && (Cell.ofKey c.cell.key).child == 0).filterMap fun c =>
    let p := keyParent c.cell.key
    let family := (m.head.kidKeys p).all fun k =>
      cs.any fun d => d.cell.key == k && d.part == c.part && d.cell.flag == 2 && !r.contains k
    let tooFine := fine.any fun q => keyLevel p + 2 ≤ keyLevel q && (m.beside q).any fun n => covers p n
    if family && !tooFine then some p else none

/-- The new cells in order (step 4). -/
def MeshData.refined (m : MeshData) (cs : List PartCell) : List NewCell :=
  let r := m.refining cs
  let co := m.coarsening cs r
  cs.flatMap fun c =>
    let k := c.cell.key
    if r.contains k then
      (List.range m.head.nkids).map fun n => ⟨c.part, ((Cell.ofKey k).kid n).key, c.idx, 1, n, []⟩
    else if 0 < keyLevel k && co.contains (keyParent k) then
      (if (Cell.ofKey k).child = 0 then [⟨c.part, keyParent k, c.idx, 2, 0, []⟩] else [])
    else [⟨c.part, k, c.idx, 0, 0, []⟩]

-- balancing (R323)

/-- The parts of the cells, in order, by R323; `before` is Wb. -/
def balanceParts (parts total : Nat) : Nat → List Nat → List Nat
  | _, [] => []
  | before, w :: ws => min (parts - 1) (parts * (2 * before + w) / (2 * total)) :: balanceParts parts total (before + w) ws

/-- The new cells of a balance, in order, each with its new part. -/
def balanced (parts : Nat) (cs : List PartCell) : List NewCell :=
  let ws := cs.map (·.cell.weight)
  let ws := if ws.sum = 0 then ws.map (fun _ => 1) else ws
  (cs.zip (balanceParts parts ws.sum 0 ws)).map fun q =>
    ⟨q.2, q.1.cell.key, if q.2 = q.1.part then q.1.idx else 0xFFFFFFFF, 0, 0, q.1.cell.data⟩

-- the new mesh of a part (R318, R319, R323)

/-- What a part writes: its new record, stream bits, ghosts with owners, remap records and the field bytes of its new
owned cells. -/
structure MeshOut where
  head : MeshRec
  bits : List Bool
  ghosts : List Nat
  owners : List Nat
  remap : List Nat
  cells : List NewCell
  deriving DecidableEq, Repr

/-- The new cells of an operation that makes a new mesh. -/
def MeshJob.newCells (j : MeshJob) : List NewCell :=
  if j.kind = 0 then j.mesh.refined j.cells
  else if j.kind = 1 then balanced j.mesh.head.npart j.cells
  else j.cells.map fun c => ⟨c.part, c.cell.key, c.idx, 0, 0, []⟩

/-- Base order positions that hold the given keys: first, and one past the last. -/
def boundsOf (border ks : List Nat) : Nat × Nat :=
  let ps := ks.map fun k => border.idxOf (keyBase k)
  match ps.min?, ps.max? with
  | some a, some b => (a, b + 1)
  | _, _ => (0, 0)

/-- The result of an operation for this part. OWNFIRST counts the stored leaves before the first owned cell (R47), for MSBAL those
of tree BLO (R323). -/
def MeshJob.out (j : MeshJob) : MeshOut :=
  let m := j.mesh
  let r := m.head
  let new := j.newCells
  let mine := new.filter fun c => c.part = r.part
  let keys := mine.map (·.key)
  let near := if r.npart = 1 then [] else
    new.filter fun c => c.part ≠ r.part ∧ (keys.any fun k => m.touch k c.key)
  let ghosts := curveSort m.border (near.map (·.key))
  let owners := ghosts.map fun g => ((near.find? fun c => c.key = g).map (·.part)).getD 0
  let (blo, bhi) := if j.kind = 1 then boundsOf m.border (keys ++ ghosts) else (r.blo, r.bhi)
  let trees := (m.border.drop blo).take (bhi - blo)
  let known := j.cells.map (·.cell.key)
  let unowned := m.leaves.filter fun k => !known.contains k
  let leaves := curveSort m.border ((new.map (·.key) ++ unowned).filter fun k => trees.contains (keyBase k))
  let bits := emitForest r.nkids trees leaves
  let h := { r with
    addr := j.newrec.va, forest := j.forest.va, fbits := bits.length, blo := blo, bhi := bhi, nown := keys.length,
    nghost := ghosts.length, ghosts := j.ghosts.va, gowner := j.gowner.va }
  let stored := (parseForest { h with maxlev := 10 } m.border (natOfBits bits)).getD []
  let from? := if j.kind = 1 then stored.filter fun k => some (keyBase k) = trees.head? else stored
  let first := match keys with
    | k :: _ => from?.idxOf k
    | [] => if r.npart = 1 ∧ j.kind ≠ 1 then r.ownfirst else 0
  { head := { h with ownfirst := first }, bits := bits, ghosts := ghosts, owners := owners,
    remap := mine.map NewCell.remap ++ ghosts.map (fun _ => 0xFFFFFFFF * 2 ^ 32), cells := mine }

/-- The capacity that a result exceeds, as DETAIL of code 0x01 (R311, R319, R323). -/
def MeshJob.tooSmall (j : MeshJob) (o : MeshOut) : Option Nat :=
  if j.forest.cap < o.bits.length then some 0
  else if j.ghosts.cap < o.ghosts.length then some 1
  else if j.remap.cap < o.remap.length then some 2
  else if j.kind = 1 ∧ !j.fields.isEmpty ∧ j.ccap < o.remap.length then some 3
  else none

/-- Numbers as consecutive fields of n bytes. -/
def packed (n : Nat) (xs : List Nat) : List Byte := xs.flatMap fun x => bytesOf x n

/-- Write bytes at the head of an array. -/
def State.intoArray (s : State) (a : MeshArray) (bs : List Byte) : State := s.segWrite (segsAt a.segs 0 bs.length) bs

/-- Write what a part's operation produced (R319). -/
def State.putMesh (s : State) (j : MeshJob) (o : MeshOut) : State :=
  let s := s.intoArray j.forest (bytesOf (natOfBits o.bits) (8 * ceilDiv o.bits.length 64))
  let s := s.intoArray j.ghosts (packed 8 o.ghosts)
  let s := s.intoArray j.gowner (packed 4 o.owners)
  let s := s.intoArray j.remap (packed 8 o.remap)
  let s := (List.range j.fields.length).foldl (fun s i =>
    match j.fields[i]? with
    | some f =>
      let bs := o.cells.flatMap fun c => c.data.getD i []
      s.segWrite (segsAt f.new 0 bs.length) bs
    | none => s) s
  s.intoArray j.newrec (meshRecBytes o.head)

/-- Ghost field values from the owners (R324, MODE 0). -/
def State.putGhosts (s : State) (j : MeshJob) : State :=
  let m := j.mesh
  (List.range m.ghosts.length).foldl (fun s g =>
    let from? := (j.shares.find? fun q => q.part = (m.owners[g]?).getD 0).bind fun q =>
      q.cells.find? fun c => c.key = (m.ghosts[g]?).getD 0
    match from? with
    | none => s
    | some c =>
      (List.range j.fields.length).foldl (fun s i =>
        match j.fields[i]? with
        | some f => s.segWrite (segsAt f.new (g * f.bytes) f.bytes) (c.data.getD i [])
        | none => s) s) s

/-- The first part that disagrees (R321). -/
def MeshJob.disagrees (j : MeshJob) : Option Nat :=
  match j.shares.find? fun m => m.part = j.mesh.head.part with
  | none => some j.mesh.head.part
  | some own =>
    ((j.shares.filter fun m => !m.open_ || m.kind != own.kind || m.mode != own.mode || m.npart != own.npart
      || m.cellBytes != own.cellBytes).map (·.part)).min?

/-- The mesh that a part's operation has made, with the places of its arrays (R319). -/
def MeshJob.newMesh (j : MeshJob) (o : MeshOut) : NewMesh :=
  let cut (a : MeshArray) (n : Nat) : List Seg := segsAt a.segs 0 n
  { mesh := o.head, made := j.space,
    data := {
      head := o.head, faces := j.mesh.faces, border := j.mesh.border, ghosts := o.ghosts, owners := o.owners,
      leaves := (parseForest o.head j.mesh.border (natOfBits o.bits)).getD [] },
    places := j.arrays.take 2 ++ [cut j.forest (8 * ceilDiv o.bits.length 64)] ++
      if o.ghosts.isEmpty then [] else [cut j.ghosts (8 * o.ghosts.length), cut j.gowner (4 * o.ghosts.length)] }

/-- The outcome of an operation whose parts have all sent their cells: status word, the new mesh if there is one, and the
state with everything written but STATUS and DONE. -/
def State.finishMesh (s : State) (j : MeshJob) : Word × Option NewMesh × State :=
  match j.forced, j.disagrees with
  | some w, _ => (w, none, s)
  | none, some p => (statusWord 5 0 p, none, s)
  | none, none =>
    if j.kind = 2 ∧ j.mode = 0 then
      (statusWord 0 0 (Config.freeDetail s.draw), none, { s.putGhosts j with draw := s.draw + 1 })
    else
      let o := j.out
      match j.tooSmall o with
      | some d => (statusWord 1 0 d, none, s)
      | none => (statusWord 0 0 o.head.nown, some (j.newMesh o), s.putMesh j o)

/-- Every part has sent its cells. -/
def MeshJob.ready (j : MeshJob) : Bool := j.inOrder.length == j.mesh.head.npart

/-- An operation over parts ends when every part has sent its cells. -/
def MeshJob.goesOn (j : MeshJob) (o : EngineOp) (tail : Option Loc × Option Loc) (s : State) : Starts :=
  if !j.ready then (s, .parts j tail.1 tail.2, o.writes)
  else
    let (w, r, t) := s.finishMesh j
    o.results w r false tail t

/-- Bytes of a share: the key, flag and weight of each cell with its field bytes. -/
def shareSize (m : MeshShare) : Nat := (m.cells.map fun c => 16 + (c.data.map List.length).sum).sum

/-- An operation here waits for a share. -/
def EngineOp.takes (o : EngineOp) (m : MeshShare) : Bool :=
  match o.kind with
  | .parts j _ _ => o.handle == m.dst && j.mesh.head.part == m.target
      && !(j.shares.any fun q => q.part == m.part)
  | _ => false

/-- An open mesh handle of any launch; a final launch has none (R307). -/
def State.meshOpen (s : State) (handle : Nat) : Bool :=
  (s.lu.ownHandles.mesh.any fun h => h.h == handle)
    || s.lu.launches.any fun l => !isFinal l.state && l.handles.mesh.any fun h => h.h == handle

/-- An operation that waits for a share takes it. -/
def State.takeShare (s : State) (o : EngineOp) (m : MeshShare) : State :=
  match o.kind with
  | .parts j a b =>
    let j' : MeshJob := { j with shares := j.shares ++ [m] }
    if j'.ready then
      let (w, r, t) := s.finishMesh j'
      { t with ops := t.ops.map fun q =>
          if q.id = o.id then { q with kind := .engine w a b r false, sent := q.sent ++ t.tagsFrom s } else q }
    else { s with ops := s.ops.map fun q => if q.id = o.id then { q with kind := .parts j' a b } else q }
  | _ => s

/-- A part's share arrives (R321): an operation that waits for it takes it; with the handle open it is kept; with no such
handle the sender is told so. -/
def State.meshArrive (s : State) (f : Flit) (m : MeshShare) : State :=
  match s.ops.find? fun o => o.takes m with
  | some o => (s.countFlits o.lid (shareSize m)).onBehalf o.lid (·.takeShare o m)
  | none =>
    if s.meshOpen m.dst then { s with mail := s.mail ++ [f] }
    else if !m.open_ then s
    else s.sendFlit f.rank (.meshShare { m with
      part := m.target, target := m.part, src := m.dst, dst := m.src, open_ := false, cells := [] })

end Sys2Proof.Machine
end

