-- ==== Sys2Proof/Machine/ScalarMem.lean ====
section
/-!
DEFINITION. Scalar loads, stores and atomics: majors 0x0C to 0x0F (R177 to R180).
-/

namespace Sys2Proof.Machine

/-- The steps that scalar memory instructions share (R169): the granule, alignment, translation, and the hart's older vector
stores to the page (R256). -/
def scalarPlace (va size : Nat) (acc : Access) : Act Loc := do
  Act.granule
  Act.check (va % size == 0) 3 (wordOfNat va)
  let loc ← Act.reach va acc
  let s ← get
  Act.waitUntil (!s.storeHolds loc)
  pure loc

/-- LD (R177): `n` bytes, extended with the sign or with zeros. -/
def loadScalar (n : Nat) (sgn : Bool) (d a : Reg) (o : BitVec 13) : Act Unit := do
  let s ← get
  let va := (s.addr13 a o).toNat
  let x ← Act.holding .read [va] (do
    let loc ← scalarPlace va n .read
    Act.load va loc n)
  Act.upd (·.done1 d (if sgn then wordOfInt (sextNat x (8 * n)) else wordOfNat x))

/-- ST (R177). -/
def storeScalar (n : Nat) (src a : Reg) (o : BitVec 13) : Act Unit := do
  let s ← get
  let va := (s.addr13 a o).toNat
  Act.holding .write [va] (do
    let loc ← scalarPlace va n .write
    Act.store loc (bytesOf (s.rx src).toNat n))
  Act.upd State.advance

/-- LD.i8. -/
def execLdI8 (d a : Reg) (o : BitVec 13) (s : State) : Answer := Act.run false (loadScalar 1 true d a o) s
/-- LD.i16. -/
def execLdI16 (d a : Reg) (o : BitVec 13) (s : State) : Answer := Act.run false (loadScalar 2 true d a o) s
/-- LD.i32. -/
def execLdI32 (d a : Reg) (o : BitVec 13) (s : State) : Answer := Act.run false (loadScalar 4 true d a o) s
/-- LD.i64. -/
def execLdI64 (d a : Reg) (o : BitVec 13) (s : State) : Answer := Act.run false (loadScalar 8 true d a o) s
/-- LD.n8. -/
def execLdN8 (d a : Reg) (o : BitVec 13) (s : State) : Answer := Act.run false (loadScalar 1 false d a o) s
/-- LD.n16. -/
def execLdN16 (d a : Reg) (o : BitVec 13) (s : State) : Answer := Act.run false (loadScalar 2 false d a o) s
/-- LD.n32. -/
def execLdN32 (d a : Reg) (o : BitVec 13) (s : State) : Answer := Act.run false (loadScalar 4 false d a o) s
/-- ST.i8 and ST.n8. -/
def execStI8 (src a : Reg) (o : BitVec 13) (s : State) : Answer := Act.run false (storeScalar 1 src a o) s
/-- ST.i16 and ST.n16. -/
def execStI16 (src a : Reg) (o : BitVec 13) (s : State) : Answer := Act.run false (storeScalar 2 src a o) s
/-- ST.i32 and ST.n32. -/
def execStI32 (src a : Reg) (o : BitVec 13) (s : State) : Answer := Act.run false (storeScalar 4 src a o) s
/-- ST.i64 and ST.n64. -/
def execStI64 (src a : Reg) (o : BitVec 13) (s : State) : Answer := Act.run false (storeScalar 8 src a o) s

/-- One indivisible step at the home of `size` bytes (R178, R261, R350): reads m, writes what `f` gives, and answers m. `pcie` is
the AtomicOp that carries it to a HOSTB page; with none, and on every IO page, it raises access fault (R180). LDO, which only
reads, is one of the reads that reach the capability window (R42; DESIGN CHOICE: log 73). A release waits as R343 says. -/
def atomicAt (order : BitVec 2) (va size : Nat) (acc : Access) (pcie : Option (Nat × Nat × Nat)) (f : Nat → Option Nat) :
    Act Nat := do
  Act.release order
  Act.holding acc [va] (do
    let loc ← scalarPlace va size acc
    match loc with
    | .io _ => Act.trap accessFault (wordOfNat va)
    | .hostb port _ =>
      match pcie with
      | none => Act.trap accessFault (wordOfNat va)
      | some (op, a, b) => do
        Act.hostPage port va acc
        let s ← get
        let bs ← Act.reply acc loc (fun tag => .atomicReq tag s.pasid loc op size a b)
        pure (natOfBytes bs)
    | _ => do
      let s ← get
      Act.check (!s.poisonedAt loc size) 7 (wordOfNat va)
      let m := natOfBytes (s.bytesAt loc size)
      Act.upd (·.moves .atomic (f m).isSome loc size)
      match f m with
      | some x => Act.upd (·.putAt loc (bytesOf x size))
      | none => pure ()
      pure m)

/-- Bytes of an AMO by its size bit (R178). -/
def amoSize (z : Bit1) : Nat := if z = 0 then 4 else 8

/-- x[d] from an old value m: sign-extended for .i32, zero-extended for .n32 and .f32 (R178). -/
def amoResult (sgn : Bool) (size m : Nat) : Word := if sgn then wordOfInt (sextNat m (8 * size)) else wordOfNat m

/-- An AMO that computes its new value from m and x[b] (R178). -/
def amo (sgn : Bool) (pcie : Option Nat) (f : Nat → Nat → Nat → Nat) (d a b : Reg) (o : BitVec 2) (z : Bit1) : Act Unit := do
  let s ← get
  let n := amoSize z
  let x := (s.rx b).toNat % 2 ^ (8 * n)
  let m ← atomicAt o (s.rx a).toNat n .atomic (pcie.map fun op => (op, x, 0)) (fun m => some (f (8 * n) m x))
  Act.upd (·.done1 d (amoResult sgn n m))

/-- The smaller or larger of two patterns of `w` bits. -/
def pickBy (signed isMax : Bool) (w x y : Nat) : Nat :=
  let less : Bool := if signed then sextNat x w < sextNat y w else x < y
  if less != isMax then x else y

/-- ATSWAP. -/
def execAtswap (d a b : Reg) (o : BitVec 2) (_s0 : Num3) (z : Bit1) (s : State) : Answer :=
  Act.run false (amo true (some 0) (fun _ _ x => x) d a b o z) s
/-- ATADD. -/
def execAtadd (d a b : Reg) (o : BitVec 2) (_s0 : Num3) (z : Bit1) (s : State) : Answer :=
  Act.run false (amo true (some 1) (fun w m x => (m + x) % 2 ^ w) d a b o z) s
/-- ATAND. -/
def execAtand (d a b : Reg) (o : BitVec 2) (_s0 : Num3) (z : Bit1) (s : State) : Answer :=
  Act.run false (amo true none (fun _ m x => m &&& x) d a b o z) s
/-- ATOR. -/
def execAtor (d a b : Reg) (o : BitVec 2) (_s0 : Num3) (z : Bit1) (s : State) : Answer :=
  Act.run false (amo true none (fun _ m x => m ||| x) d a b o z) s
/-- ATXOR. -/
def execAtxor (d a b : Reg) (o : BitVec 2) (_s0 : Num3) (z : Bit1) (s : State) : Answer :=
  Act.run false (amo true none (fun _ m x => m ^^^ x) d a b o z) s
/-- ATMIN, signed. -/
def execAtmin (d a b : Reg) (o : BitVec 2) (_s0 : Num3) (z : Bit1) (s : State) : Answer :=
  Act.run false (amo true none (pickBy true false) d a b o z) s
/-- ATMAX, signed. -/
def execAtmax (d a b : Reg) (o : BitVec 2) (_s0 : Num3) (z : Bit1) (s : State) : Answer :=
  Act.run false (amo true none (pickBy true true) d a b o z) s
/-- ATMIN, natural. -/
def execAtminN (d a b : Reg) (o : BitVec 2) (_s0 : Num3) (z : Bit1) (s : State) : Answer :=
  Act.run false (amo false none (pickBy false false) d a b o z) s
/-- ATMAX, natural. -/
def execAtmaxN (d a b : Reg) (o : BitVec 2) (_s0 : Num3) (z : Bit1) (s : State) : Answer :=
  Act.run false (amo false none (pickBy false true) d a b o z) s

/-- ATFADD: rounds RNE and raises its flags in STATUS (R178). -/
def execAtfadd (d a b : Reg) (o : BitVec 2) (_s0 : Num3) (z : Bit1) (s : State) : Answer :=
  Act.run false (do
    let n := amoSize z
    let f := if z = 0 then f32 else f64
    let sum (m : Nat) := fadd2 f rneMode (f.unpack m) (f.unpack (s.rx b).toNat)
    let m ← atomicAt o (s.rx a).toNat n .atomic none (fun m => some (sum m).1)
    Act.upd fun t => (t.raise (sum m).2).done1 d (wordOfNat m)) s

/-- LDO: needs R only (R178, R400). -/
def execLdo (d a : Reg) (o : BitVec 2) (_s0 : Num3) (z : Bit1) (s : State) : Answer :=
  Act.run false (do
    let m ← atomicAt o (s.rx a).toNat (amoSize z) .read none (fun _ => none)
    Act.upd (·.done1 d (amoResult true (amoSize z) m))) s

/-- STO: needs W only, and answers no value (R178, R400). -/
def execSto (a b : Reg) (o : BitVec 2) (_s0 : Num3) (z : Bit1) (s : State) : Answer :=
  Act.run false (do
    let _ ← atomicAt o (s.rx a).toNat (amoSize z) .write none
      (fun _ => some ((s.rx b).toNat % 2 ^ (8 * amoSize z)))
    Act.upd State.advance) s

/-- CAS (R179): translates for a write even when the comparison fails. -/
def execCas (d a b c : Reg) (o : BitVec 2) (_s0 : Num3) (z : Bit1) (s : State) : Answer :=
  Act.run false (do
    let n := amoSize z
    let low (r : Reg) := (s.rx r).toNat % 2 ^ (8 * n)
    let m ← atomicAt o (s.rx a).toNat n .atomic (some (2, low b, low c))
      (fun m => if m = low b then some (low c) else none)
    Act.upd (·.done1 d (amoResult true n m))) s

end Sys2Proof.Machine
end

