-- ==== Sys2Proof/Machine/VInt.lean ====
section
/-!
DEFINITION. Vector integer arithmetic: majors 0x20 and 0x21 (R214, R215). An operation is a function of the width and of
two patterns of that width.
-/

namespace Sys2Proof.Machine

/-- Signed quotient towards zero; all ones for a zero divisor (R215). -/
def elDiv (w a b : Nat) : Nat := if b = 0 then 2 ^ w - 1 else wrapInt ((sextNat a w).tdiv (sextNat b w)) w

/-- Signed remainder with the sign of the dividend; the dividend for a zero divisor (R215). -/
def elRem (w a b : Nat) : Nat := if b = 0 then a else wrapInt ((sextNat a w).tmod (sextNat b w)) w

/-- Saturation to the signed range of w bits (R214). -/
def elSat (w : Nat) (x : Int) : Nat := wrapInt (satInt x (-(2 ^ (w - 1) : Int)) (2 ^ (w - 1) - 1)) w

/-- A vector integer instruction on a group and a second operand (R207, R214). -/
def vint (base : Nat) (f : Nat → Nat → Nat → Nat) (d a : Reg) (o : Opnd) (c e : Bit1) (g : Num3) (s : State) : Answer :=
  let k := s.hart.cfg
  if !(aligned k d && aligned k a && o.ok k) then illegalWord (wordV base d a o.reg c e g) s
  else
    .next (s.vecRun g (.vec k a.toNat :: o.srcs k) (dieOfGroup k d.toNat)
      (fun i => (f k.w (s.hart.el a i) (s.opnd o i), 0)) (fun h i x => h.setElem k d.toNat i x))

/-- VMV on a second operand (R214). -/
def vmove (base : Nat) (d : Reg) (o : Opnd) (e : Bit1) (g : Num3) (s : State) : Answer :=
  let k := s.hart.cfg
  if !(aligned k d && o.ok k) then illegalWord (wordV base d 0 o.reg 0 e g) s
  else
    .next (s.vecRun g (o.srcs k) (dieOfGroup k d.toNat) (fun i => (s.opnd o i, 0))
      (fun h i x => h.setElem k d.toNat i x))

/-- VADD. -/
def execVadd (d a b : Reg) (c e : Bit1) (g : Num3) (s : State) : Answer :=
  vint 0x80000000 (fun w a b => (a + b) % 2 ^ w) d a (.v b) c e g s

/-- VADD_VX. -/
def execVaddVx (d a b : Reg) (c : Bit1) (g : Num3) (s : State) : Answer :=
  vint 0x84000000 (fun w a b => (a + b) % 2 ^ w) d a (.x b) c 0 g s

/-- VSUB. -/
def execVsub (d a b : Reg) (c e : Bit1) (g : Num3) (s : State) : Answer :=
  vint 0x80000001 (fun w a b => (a + 2 ^ w - b) % 2 ^ w) d a (.v b) c e g s

/-- VSUB_VX. -/
def execVsubVx (d a b : Reg) (c : Bit1) (g : Num3) (s : State) : Answer :=
  vint 0x84000001 (fun w a b => (a + 2 ^ w - b) % 2 ^ w) d a (.x b) c 0 g s

/-- VRSUB. -/
def execVrsub (d a b : Reg) (c e : Bit1) (g : Num3) (s : State) : Answer :=
  vint 0x80000002 (fun w a b => (b + 2 ^ w - a) % 2 ^ w) d a (.v b) c e g s

/-- VRSUB_VX. -/
def execVrsubVx (d a b : Reg) (c : Bit1) (g : Num3) (s : State) : Answer :=
  vint 0x84000002 (fun w a b => (b + 2 ^ w - a) % 2 ^ w) d a (.x b) c 0 g s

/-- VAND. -/
def execVand (d a b : Reg) (c e : Bit1) (g : Num3) (s : State) : Answer :=
  vint 0x80000003 (fun _ a b => a &&& b) d a (.v b) c e g s

/-- VAND_VX. -/
def execVandVx (d a b : Reg) (c : Bit1) (g : Num3) (s : State) : Answer :=
  vint 0x84000003 (fun _ a b => a &&& b) d a (.x b) c 0 g s

/-- VOR. -/
def execVor (d a b : Reg) (c e : Bit1) (g : Num3) (s : State) : Answer :=
  vint 0x80000004 (fun _ a b => a ||| b) d a (.v b) c e g s

/-- VOR_VX. -/
def execVorVx (d a b : Reg) (c : Bit1) (g : Num3) (s : State) : Answer :=
  vint 0x84000004 (fun _ a b => a ||| b) d a (.x b) c 0 g s

/-- VXOR. -/
def execVxor (d a b : Reg) (c e : Bit1) (g : Num3) (s : State) : Answer :=
  vint 0x80000005 (fun _ a b => a ^^^ b) d a (.v b) c e g s

/-- VXOR_VX. -/
def execVxorVx (d a b : Reg) (c : Bit1) (g : Num3) (s : State) : Answer :=
  vint 0x84000005 (fun _ a b => a ^^^ b) d a (.x b) c 0 g s

/-- VSLL. -/
def execVsll (d a b : Reg) (c e : Bit1) (g : Num3) (s : State) : Answer :=
  vint 0x80000006 (fun w a b => a * 2 ^ (b % w) % 2 ^ w) d a (.v b) c e g s

/-- VSLL_VX. -/
def execVsllVx (d a b : Reg) (c : Bit1) (g : Num3) (s : State) : Answer :=
  vint 0x84000006 (fun w a b => a * 2 ^ (b % w) % 2 ^ w) d a (.x b) c 0 g s

/-- VSRL. -/
def execVsrl (d a b : Reg) (c e : Bit1) (g : Num3) (s : State) : Answer :=
  vint 0x80000007 (fun w a b => a / 2 ^ (b % w)) d a (.v b) c e g s

/-- VSRL_VX. -/
def execVsrlVx (d a b : Reg) (c : Bit1) (g : Num3) (s : State) : Answer :=
  vint 0x84000007 (fun w a b => a / 2 ^ (b % w)) d a (.x b) c 0 g s

/-- VSRA. -/
def execVsra (d a b : Reg) (c e : Bit1) (g : Num3) (s : State) : Answer :=
  vint 0x80000008 (fun w a b => wrapInt (sextNat a w / 2 ^ (b % w)) w) d a (.v b) c e g s

/-- VSRA_VX. -/
def execVsraVx (d a b : Reg) (c : Bit1) (g : Num3) (s : State) : Answer :=
  vint 0x84000008 (fun w a b => wrapInt (sextNat a w / 2 ^ (b % w)) w) d a (.x b) c 0 g s

/-- VMIN. -/
def execVmin (d a b : Reg) (c e : Bit1) (g : Num3) (s : State) : Answer :=
  vint 0x80000009 (pickBy true false) d a (.v b) c e g s

/-- VMIN_VX. -/
def execVminVx (d a b : Reg) (c : Bit1) (g : Num3) (s : State) : Answer :=
  vint 0x84000009 (pickBy true false) d a (.x b) c 0 g s

/-- VMAX. -/
def execVmax (d a b : Reg) (c e : Bit1) (g : Num3) (s : State) : Answer :=
  vint 0x8000000A (pickBy true true) d a (.v b) c e g s

/-- VMAX_VX. -/
def execVmaxVx (d a b : Reg) (c : Bit1) (g : Num3) (s : State) : Answer :=
  vint 0x8400000A (pickBy true true) d a (.x b) c 0 g s

/-- VMINN. -/
def execVminn (d a b : Reg) (c e : Bit1) (g : Num3) (s : State) : Answer :=
  vint 0x8000000B (pickBy false false) d a (.v b) c e g s

/-- VMINN_VX. -/
def execVminnVx (d a b : Reg) (c : Bit1) (g : Num3) (s : State) : Answer :=
  vint 0x8400000B (pickBy false false) d a (.x b) c 0 g s

/-- VMAXN. -/
def execVmaxn (d a b : Reg) (c e : Bit1) (g : Num3) (s : State) : Answer :=
  vint 0x8000000C (pickBy false true) d a (.v b) c e g s

/-- VMAXN_VX. -/
def execVmaxnVx (d a b : Reg) (c : Bit1) (g : Num3) (s : State) : Answer :=
  vint 0x8400000C (pickBy false true) d a (.x b) c 0 g s

/-- VMUL. -/
def execVmul (d a b : Reg) (c e : Bit1) (g : Num3) (s : State) : Answer :=
  vint 0x8000000D (fun w a b => a * b % 2 ^ w) d a (.v b) c e g s

/-- VMUL_VX. -/
def execVmulVx (d a b : Reg) (c : Bit1) (g : Num3) (s : State) : Answer :=
  vint 0x8400000D (fun w a b => a * b % 2 ^ w) d a (.x b) c 0 g s

/-- VMULH. -/
def execVmulh (d a b : Reg) (c e : Bit1) (g : Num3) (s : State) : Answer :=
  vint 0x8000000E (fun w a b => wrapInt (sextNat a w * sextNat b w / 2 ^ w) w) d a (.v b) c e g s

/-- VMULH_VX. -/
def execVmulhVx (d a b : Reg) (c : Bit1) (g : Num3) (s : State) : Answer :=
  vint 0x8400000E (fun w a b => wrapInt (sextNat a w * sextNat b w / 2 ^ w) w) d a (.x b) c 0 g s

/-- VMULHN. -/
def execVmulhn (d a b : Reg) (c e : Bit1) (g : Num3) (s : State) : Answer :=
  vint 0x8000000F (fun w a b => a * b / 2 ^ w) d a (.v b) c e g s

/-- VMULHN_VX. -/
def execVmulhnVx (d a b : Reg) (c : Bit1) (g : Num3) (s : State) : Answer :=
  vint 0x8400000F (fun w a b => a * b / 2 ^ w) d a (.x b) c 0 g s

/-- VDIV. -/
def execVdiv (d a b : Reg) (c e : Bit1) (g : Num3) (s : State) : Answer :=
  vint 0x80000010 (elDiv) d a (.v b) c e g s

/-- VDIV_VX. -/
def execVdivVx (d a b : Reg) (c : Bit1) (g : Num3) (s : State) : Answer :=
  vint 0x84000010 (elDiv) d a (.x b) c 0 g s

/-- VDIVN. -/
def execVdivn (d a b : Reg) (c e : Bit1) (g : Num3) (s : State) : Answer :=
  vint 0x80000011 (fun w a b => if b = 0 then 2 ^ w - 1 else a / b) d a (.v b) c e g s

/-- VDIVN_VX. -/
def execVdivnVx (d a b : Reg) (c : Bit1) (g : Num3) (s : State) : Answer :=
  vint 0x84000011 (fun w a b => if b = 0 then 2 ^ w - 1 else a / b) d a (.x b) c 0 g s

/-- VREM. -/
def execVrem (d a b : Reg) (c e : Bit1) (g : Num3) (s : State) : Answer :=
  vint 0x80000012 (elRem) d a (.v b) c e g s

/-- VREM_VX. -/
def execVremVx (d a b : Reg) (c : Bit1) (g : Num3) (s : State) : Answer :=
  vint 0x84000012 (elRem) d a (.x b) c 0 g s

/-- VREMN. -/
def execVremn (d a b : Reg) (c e : Bit1) (g : Num3) (s : State) : Answer :=
  vint 0x80000013 (fun _ a b => if b = 0 then a else a % b) d a (.v b) c e g s

/-- VREMN_VX. -/
def execVremnVx (d a b : Reg) (c : Bit1) (g : Num3) (s : State) : Answer :=
  vint 0x84000013 (fun _ a b => if b = 0 then a else a % b) d a (.x b) c 0 g s

/-- VSADD. -/
def execVsadd (d a b : Reg) (c e : Bit1) (g : Num3) (s : State) : Answer :=
  vint 0x80000014 (fun w a b => elSat w (sextNat a w + sextNat b w)) d a (.v b) c e g s

/-- VSADD_VX. At w = 1 the scalar 1 is −1 by R210, and with an element −1 gives −1 by R214, where the example of R215 gives 0 (DESIGN
CHOICE: log 76). -/
def execVsaddVx (d a b : Reg) (c : Bit1) (g : Num3) (s : State) : Answer :=
  vint 0x84000014 (fun w a b => elSat w (sextNat a w + sextNat b w)) d a (.x b) c 0 g s

/-- VSADDN. -/
def execVsaddn (d a b : Reg) (c e : Bit1) (g : Num3) (s : State) : Answer :=
  vint 0x80000015 (fun w a b => min (a + b) (2 ^ w - 1)) d a (.v b) c e g s

/-- VSADDN_VX. -/
def execVsaddnVx (d a b : Reg) (c : Bit1) (g : Num3) (s : State) : Answer :=
  vint 0x84000015 (fun w a b => min (a + b) (2 ^ w - 1)) d a (.x b) c 0 g s

/-- VSSUB. -/
def execVssub (d a b : Reg) (c e : Bit1) (g : Num3) (s : State) : Answer :=
  vint 0x80000016 (fun w a b => elSat w (sextNat a w - sextNat b w)) d a (.v b) c e g s

/-- VSSUB_VX. -/
def execVssubVx (d a b : Reg) (c : Bit1) (g : Num3) (s : State) : Answer :=
  vint 0x84000016 (fun w a b => elSat w (sextNat a w - sextNat b w)) d a (.x b) c 0 g s

/-- VSSUBN. -/
def execVssubn (d a b : Reg) (c e : Bit1) (g : Num3) (s : State) : Answer :=
  vint 0x80000017 (fun _ a b => a - b) d a (.v b) c e g s

/-- VSSUBN_VX. -/
def execVssubnVx (d a b : Reg) (c : Bit1) (g : Num3) (s : State) : Answer :=
  vint 0x84000017 (fun _ a b => a - b) d a (.x b) c 0 g s

/-- VMULN. -/
def execVmuln (d a b : Reg) (c e : Bit1) (g : Num3) (s : State) : Answer :=
  vint 0x80000019 (fun w a b => wrapInt ((a : Int) * sextNat b w) w) d a (.v b) c e g s

/-- VMULN_VX. -/
def execVmulnVx (d a b : Reg) (c : Bit1) (g : Num3) (s : State) : Answer :=
  vint 0x84000019 (fun w a b => wrapInt ((a : Int) * sextNat b w) w) d a (.x b) c 0 g s

/-- VMV.vv. -/
def execVmv (d b : Reg) (e : Bit1) (g : Num3) (s : State) : Answer := vmove 0x80000018 d (.v b) e g s
/-- VMV.vx. -/
def execVmvVx (d b : Reg) (g : Num3) (s : State) : Answer := vmove 0x84000018 d (.x b) 0 g s

/-- VID (R214). -/
def execVid (d : Reg) (g : Num3) (s : State) : Answer :=
  let k := s.hart.cfg
  if !aligned k d then illegalWord (wordV 0x8000001A d 0 0 0 0 g) s
  else
    .next (s.vecRun g [] (dieOfGroup k d.toNat) (fun i => (i % 2 ^ k.w, 0)) (fun h i x => h.setElem k d.toNat i x))

end Sys2Proof.Machine
end

