-- ==== Sys2Proof/Machine/Narrow.lean ====
section
/-!
DEFINITION. Narrow formats and random bits: major 0x2C (R226 to R231), with the block formats of R157 to R160.
-/

namespace Sys2Proof.Machine

/-- Width of a format code FC (R226). -/
def fcWidth (c : Nat) : Nat :=
  match c with
  | 0 | 8 | 12 => 64
  | 1 | 9 | 13 => 32
  | 2 | 3 | 10 | 14 => 16
  | _ => 8

/-- The configuration check of R227 on two operands: VTYPE's row and width, alignment, and disjoint registers when the
widths differ. -/
def narrowOk (h : Hart) (d : Reg) (wd : Nat) (a : Reg) (wa : Nat) : Bool :=
  let ww := max wd wa
  let cd := h.narrow wd ww
  let ca := h.narrow wa ww
  h.ew ≤ 3 && h.cfg.w == ww && aligned cd d && aligned ca a
    && (wd == wa || !overlaps d.toNat cd.gm a.toNat ca.gm)

/-- Conversion of one element between format codes (R228). -/
def convert (src dst : Nat) (sat : Bool) (r : Rounding) (x : Nat) : Nat × Nat :=
  let wd := fcWidth dst
  let val : Int := if src < 12 then sextNat x (fcWidth src) else x
  if src < 8 then
    (if dst < 8 then fcvt1 (fmtOf dst) r (sat && 4 ≤ dst) ((fmtOf src).unpack x)
     else let y := fcvtInt r wd (dst < 12) ((fmtOf src).unpack x); (wrapInt y.1 wd, y.2))
  else if dst < 8 then fcvt1 (fmtOf dst) r (sat && 4 ≤ dst) (.fin (val < 0) val.natAbs 0)
  else if dst < 12 then (wrapInt (satInt val (-(2 ^ (wd - 1) : Int)) (2 ^ (wd - 1) - 1)) wd, 0)
  else (wrapInt (satInt val 0 (2 ^ wd - 1)) wd, 0)

/-- An element-wise conversion between two widths. -/
def vconvert (word : Nat) (ok : Bool) (f : Nat → Nat → Nat × Nat) (d : Reg) (wd : Nat) (a : Reg) (wa : Nat) (g : Num3)
    (s : State) : Answer :=
  let h := s.hart
  if !(ok && narrowOk h d wd a wa) then illegalWord word s
  else
    let cd := h.narrow wd (max wd wa)
    let ca := h.narrow wa (max wd wa)
    .next (s.vecRun g [.vec ca a.toNat] (dieOfGroup cd d.toNat) (fun i => f i (h.elem ca a.toNat i))
      (fun h i x => h.setElem cd d.toNat i x))

/-- VCVT. -/
def execVcvt (d a s0 : Reg) (c : Bit1) (g : Num3) (t : BitVec 4) (s : State) : Answer :=
  vconvert (0xB0000000 + put d 21 + put a 16 + put s0 11 + put c 10 + put g 6 + put t 0) true
    (fun i x => convert s0.toNat t.toNat true (s.hart.rounding i) x) d (fcWidth t.toNat) a (fcWidth s0.toNat) g s

/-- VCVT, non-saturating. -/
def execVcvtNs (d a s0 : Reg) (c : Bit1) (g : Num3) (t : Bit1) (s : State) : Answer :=
  vconvert (0xB0000014 + put d 21 + put a 16 + put s0 11 + put c 10 + put g 6 + put t 0) true
    (fun i x => convert s0.toNat (4 + t.toNat) false (s.hart.rounding i) x) d 8 a (fcWidth s0.toNat) g s

/-- The even register of a pair named by four bits, and the odd one (R226). -/
def pairLo (b : BitVec 4) : Reg := b.setWidth 5 <<< 1
/-- The odd register of a pair. -/
def pairHi (b : BitVec 4) : Reg := pairLo b + 1

/-- The riffle output for element i from a pair's base and stream, keyed by SEED (R229, R230). -/
def State.pairRiffle (s : State) (b : BitVec 4) (i : Nat) : Nat :=
  riffle s.hart.seed.toNat (((s.rx (pairLo b)).toNat + i) % 2 ^ 64) ((s.rx (pairHi b)).toNat % 2 ^ 32)

/-- VSCVT (R229). -/
def execVscvt (d a : Reg) (b : BitVec 4) (c : Bit1) (g : Num3) (p : Bit1) (t : Num3) (s : State) : Answer :=
  vconvert (0xB0000020 + put d 21 + put a 16 + put b 12 + put c 10 + put g 6 + put p 3 + put t 0) true
    (fun i x => convert p.toNat t.toNat true ⟨5, d24 (s.pairRiffle b i)⟩ x) d (fcWidth t.toNat) a (fcWidth p.toNat) g s

/-- VRNG (R230). -/
def execVrng (d : Reg) (b : BitVec 4) (g : Num3) (s : State) : Answer :=
  let k := s.hart.cfg
  if !aligned k d then illegalWord (0xB0000034 + put d 21 + put b 12 + put g 6) s
  else
    .next (s.vecRun g [] (dieOfGroup k d.toNat) (fun i => (s.pairRiffle b i / 2 ^ (64 - k.w), 0))
      (fun h i x => h.setElem k d.toNat i x))

/-- VDROP (R226, R230). -/
def execVdrop (d : Num3) (b : BitVec 4) (g : Num3) (s : State) : Answer :=
  let p := min (bitsAt (s.rx (pairHi b)).toNat 32 25) (2 ^ 24)
  s.whenFree [d.toNat]
    (.next (s.vecRun g [] (dieOfGroup s.hart.cfg 0) (fun i => (if d24 (s.pairRiffle b i) < p then 1 else 0, 0))
      (fun h i x => h.setMaskBit d.toNat i (x == 1))))

-- the block formats

/-- A B4 block: scale byte, a mantissa for each element, flags. -/
structure B4Block where
  scale : Nat
  mant : List Int
  flags : Nat
  deriving DecidableEq, Repr

/-- The magnitude of a finite value in units of 2^base, for a base not above its exponent. -/
def FVal.units (v : FVal) (base : Int) : Nat :=
  match v with
  | .fin _ m e => m * 2 ^ (e - base).toNat
  | _ => 0

/-- Every value is finite. -/
def allFinite (xs : List FVal) : Bool := xs.all fun v => match v with | .fin .. => true | _ => false

/-- One mantissa (R158): x / 2^e rounded under a mode and saturated; whether it is inexact and whether it saturated. -/
def b4Mantissa (r : Rounding) (e : Int) (v : FVal) : Int × Bool × Bool :=
  match v with
  | .fin neg m x =>
    let (q, inexact) := intMag r neg m (x - e)
    let y : Int := if neg then -(q : Int) else q
    let z := satInt y (-8) 7
    (z, inexact || z != y, z != y)
  | _ => (0, false, false)

/-- A block quantised (R158): elements with their rounding, no padding among them. -/
def b4Block (F : Fmt) (xs : List (Rounding × FVal)) : B4Block :=
  let vs := xs.map (·.2)
  if !allFinite vs then ⟨255, vs.map fun _ => 0, flagNV⟩
  else
    let big := (vs.map (·.units F.emin)).foldl max 0
    if big = 0 then ⟨127, vs.map fun _ => 0, 0⟩
    else
      let top := Nat.log2 big
      let e : Int := F.emin + top - (if 4 * big ≤ 7 * 2 ^ top then 2 else 1)
      let e' := satInt e (-127) 127
      let ms := xs.map fun p => b4Mantissa p.1 e' p.2
      ⟨(e' + 127).toNat, ms.map (·.1),
        (if ms.any (·.2.1) then flagNX else 0) + (if 127 < e && ms.any (·.2.2) then flagOF else 0)⟩

/-- The scale of an S1 block and its flags (R159): the mean magnitude in binary16, rounded once. VQNT raises no underflow
(R231). -/
def s1Scale (F : Fmt) (vs : List FVal) : Nat × Nat :=
  if vs.any (·.isNan) then (f16.nan, flagNV)
  else if !allFinite vs then (f16.infPat, 0)
  else
    let sum := (vs.map (·.units F.emin)).sum * 2 ^ 64
    let g := roundMag f16 rneMode false false (sum / vs.length) (F.emin - 64) (sum % vs.length != 0)
    (g.1, g.2 &&& (flagOF + flagNX))

/-- Elements below VL in blocks of n: for each block its number and its elements. -/
def blocksOf (vl n : Nat) : List (Nat × List Nat) :=
  (List.range (ceilDiv vl n)).map fun k => (k, (List.range (min n (vl - n * k))).map (· + n * k))

/-- Write a field of a vector register that is not one of its elements, clearing the poison of its word (R405). -/
def Hart.setField (h : Hart) (r lo n x : Nat) : Hart :=
  { h with
    v := h.v.setIfInBounds r (setBits (h.vreg r) lo n x)
    poison := h.poison.filter fun q => !(q.file == 0 && q.reg == r && q.idx == lo / 64) }

/-- The checked element of a quantisation may be any element below VL. -/
def State.wholeStop (s : State) (g : Num3) (srcs : List Src) (c : VCfg) (b : Nat) : Option StopAt :=
  firstStop ((s.hart.firstPoison g srcs).map fun p => (p.1, 7, p.2)) (s.gaugeStop (s.hart.actives g) (dieOfGroup c b))

/-- VQNT.b4 (R231). -/
def execVqntB4 (d a b : Reg) (c e : Bit1) (s : State) : Answer :=
  let h := s.hart
  let k := h.cfg
  let n := h.narrow 8 k.w
  if !(h.floatRow && h.vstart == 0 && narrowOk h d 8 a k.w && !overlaps b.toNat 1 d.toNat n.gm
      && !overlaps b.toNat 1 a.toNat k.gm) then illegalWord (wordV 0xB0000030 d a b c e 0) s
  else
    .next (s.vecWhole (s.wholeStop 0 [.vec k a.toNat] n d.toNat) (List.range h.vl) (dieOfGroup n d.toNat) fun s =>
      s.withHart fun h0 => (blocksOf h.vl 32).foldl (fun h' p =>
        let blk := b4Block h.ffmt (p.2.map fun i => (h.rounding i, h.ffmt.unpack (h.el a i)))
        let h' := (p.2.zip blk.mant).foldl (fun h' q => h'.setElem n d.toNat q.1 (wrapInt q.2 8)) h'
        (h'.setField b.toNat (8 * p.1) 8 blk.scale).raise blk.flags) h0)

/-- VQNT.s1 (R231). -/
def execVqntS1 (d : Num3) (a b : Reg) (c e : Bit1) (s : State) : Answer :=
  let h := s.hart
  let k := h.cfg
  if !(h.floatRow && h.vstart == 0 && aligned k a && !overlaps b.toNat 1 a.toNat k.gm) then
    illegalWord (wordV 0xB0000031 (d.setWidth 5) a b c e 0) s
  else
    s.whenFree [d.toNat]
      (.next (s.vecWhole (s.wholeStop 0 [.vec k a.toNat] k a.toNat) (List.range h.vl) (dieOfGroup k a.toNat) fun s =>
        s.withHart fun h0 => (blocksOf h.vl 64).foldl (fun h' p =>
          let vs := p.2.map fun i => h.ffmt.unpack (h.el a i)
          let g := s1Scale h.ffmt vs
          let h' := (p.2.zip vs).foldl (fun h' q => h'.setMaskBit d.toNat q.1 q.2.neg) h'
          (h'.setField b.toNat (16 * p.1) 16 g.1).raise g.2) h0))

/-- VDQNT.b4 (R231). -/
def execVdqntB4 (d a b : Reg) (c e : Bit1) (g : Num3) (s : State) : Answer :=
  let h := s.hart
  let k := h.cfg
  let n := h.narrow 8 k.w
  if !(h.floatRow && narrowOk h d k.w a 8 && !overlaps b.toNat 1 d.toNat k.gm && !overlaps b.toNat 1 a.toNat n.gm) then
    illegalWord (wordV 0xB0000032 d a b c e g) s
  else
    .next (s.vecRun g [.vec n a.toNat, .scale b.toNat 8 32] (dieOfGroup k d.toNat)
      (fun i =>
        let m := sextNat (h.elem n a.toNat i) 8
        let sc := bitsAt (h.vreg b.toNat) (i / 32 * 8) 8
        if sc = 255 then (h.ffmt.nan, 0) else roundInt h.ffmt (h.rounding i) m (sc - 127) false)
      (fun h i x => h.setElem k d.toNat i x))

/-- A NaN of binary16 with a sign, in another format: its fraction from the top bit down, which a format with fewer bits cuts (DESIGN
CHOICE: log 64). -/
def nanAs (F : Fmt) (neg : Bool) (g : Nat) : Nat :=
  let t := if 10 ≤ F.p then g % 1024 * 2 ^ (F.p - 10) else g % 1024 / 2 ^ (10 - F.p)
  F.signed neg (if F.hasInf then F.infPat + (if t = 0 then 2 ^ (F.p - 1) else t) else F.nan)

/-- An element of an S1 block: -g or +g (R159); a NaN keeps its pattern and raises no flag (R150). -/
def s1Elem (F : Fmt) (r : Rounding) (neg : Bool) (g : Nat) : Nat × Nat :=
  match f16.unpack g with
  | .nan _ => (nanAs F (neg != (bitsAt g 15 1 == 1)) g, 0)
  | v => fcvt1 F r false (v.flip neg)

/-- VDQNT.s1 (R231). -/
def execVdqntS1 (d : Reg) (a : Num3) (b : Reg) (e : Bit1) (g : Num3) (s : State) : Answer :=
  let h := s.hart
  let k := h.cfg
  if !(h.floatRow && aligned k d && !overlaps b.toNat 1 d.toNat k.gm) then
    illegalWord (wordV 0xB0000033 d (a.setWidth 5) b 0 e g) s
  else
    s.whenFree [a.toNat]
      (.next (s.vecRun g [.mask a.toNat, .scale b.toNat 16 64] (dieOfGroup k d.toNat)
        (fun i => s1Elem h.ffmt (h.rounding i) (h.maskBit a.toNat i) (bitsAt (h.vreg b.toNat) (i / 64 * 16) 16))
        (fun h i x => h.setElem k d.toNat i x)))

end Sys2Proof.Machine
end

