-- ==== Sys2Proof/Machine/Qsum.lean ====
section
/-!
DEFINITION. Quantised summation (R164, R165).
-/

namespace Sys2Proof.Machine

/-- floor(log2 |c|) of a finite nonzero value. -/
def FVal.ilog (v : FVal) : Option Int :=
  match v with
  | .fin _ m e => if m = 0 then none else some (e + Nat.log2 m)
  | _ => none

/-- The larger of two optional exponents. -/
def maxExp (a b : Option Int) : Option Int :=
  match a, b with
  | some x, some y => some (max x y)
  | some x, none => some x
  | none, y => y

/-- E of a block over its contributions; none when there is no finite nonzero one (R164). -/
def qExp (vs : List FVal) : Option Int := vs.foldl (fun e v => maxExp e v.ilog) none

/-- q of a contribution under E, and whether it is inexact (R164). -/
def qOf (E : Int) (v : FVal) : Int × Bool :=
  match v with
  | .fin neg m e =>
    let (q, inexact) := intMag rneMode neg m (e - E + 109)
    (if neg then -(q : Int) else q, inexact)
  | _ => (0, false)

/-- `qfinal(S, E, a, c)` of R164, RNE; a zero sum gives +0 (R165). -/
def qfinal (S E : Int) (a c : Nat) : Nat × Nat :=
  if S = 0 then (0, 0)
  else
    let k := Nat.log2 c + 160
    let n := S.natAbs * a * 2 ^ k
    roundMag f64 rneMode false (S < 0) (n / c) (E - 109 - k) (n % c != 0)

/-- The result at one position with its flags, from all its contributions, under the block's E and the weight a / c
(R164, R165). -/
def qsumAt (E : Option Int) (a c : Nat) (vs : List FVal) : Nat × Nat :=
  let inf (n : Bool) := vs.contains (.inf n)
  if vs.any (·.isNan) then (f64.nan, snanFlag vs)
  else if inf false && inf true then (f64.nan, flagNV)
  else if inf false || inf true then (f64.signed (inf true) f64.infPat, 0)
  else
    match E with
    | none => (0, 0)
    | some E =>
      let qs := vs.map (qOf E)
      let r := qfinal (qs.map (·.1)).sum E a c
      (r.1, r.2 ||| (if qs.any (·.2) then flagNX else 0))

end Sys2Proof.Machine
end

