-- ==== Sys2Proof/Machine/Coll.lean ====
section
/-!
DEFINITION. Collectives and the fabric's flits: COLL, CWAIT and CVIEW (R365 to R374), COLLECTIVE_MATCH and
COLLECTIVE_COMPLETE, FABRIC_FLIT_ARRIVAL (R358), and the remote side of copies, REMOTE_COPY_ACCESS and
REMOTE_COPY_REFUSED (R381).
-/

namespace Sys2Proof.Machine

-- the view (R359, R360, R366)

/-- This package belongs to a view. -/
def Fabric.inView (f : Fabric) : Bool := f.members.contains f.fid
/-- SIZE; 0 with no view (R359). -/
def Fabric.size (f : Fabric) : Nat := if f.inView then f.members.length else 0
/-- RANK. -/
def Fabric.rank (f : Fabric) : Nat := if f.inView then f.members.idxOf f.fid else 0

/-- CVIEW (R366). -/
def execCview (d : Reg) (s : State) : Answer := .next (s.done1 d s.viewSummary)

/-- CVIEW.fid (R366). -/
def execCviewFid (d : Reg) (s : State) : Answer := .next (s.done1 d (wordOfNat (s.fabric.fid % 2 ^ 13)))

/-- The member map as 1,024 bytes (R366). -/
def Fabric.map (f : Fabric) : List Byte :=
  (List.range 1024).map fun i =>
    BitVec.ofNat 8 (((List.range 8).map fun b => if f.members.contains (8 * i + b) then 2 ^ b else 0).sum)

/-- The stores of a map over a stretch: a device or a host sees aligned words of 8 bytes, in ascending address (R366). -/
def State.storeMap (s : State) : List Seg → List Byte → State
  | [], _ => s
  | g :: gs, bs =>
    let here := bs.take g.len
    let s :=
      if g.loc.outside then
        (List.range (g.len / 8)).foldl (fun s i => s.storeAt (g.loc.plus (8 * i)) ((here.drop (8 * i)).take 8)) s
      else s.storeAt g.loc here
    s.storeMap gs (bs.drop g.len)

/-- CVIEW.map (R366). -/
def execCviewMap (a : Reg) (s : State) : Answer :=
  let x := s.rx a
  Act.run false (do
    Act.check (x.toNat % 8 == 0) 3 x
    let gs ← Act.reachAll x.toNat 1024 .write
    Act.pushAll (gs.map (·.loc))
    Act.upd fun s => (s.storeMap gs s.fabric.map).countTraffic.advance) s

-- results (R370, R371)

/-- Bytes of an element of a TYPE. -/
def collBytes (type : Nat) : Nat := fcWidth type / 8

/-- TYPE is a floating format. -/
def collFloat (type : Nat) : Bool := type < 8

/-- One reduction step on patterns: result and flags (R371). -/
def collStep (type rop : Nat) (p q : Nat) : Nat × Nat :=
  let w := fcWidth type
  if collFloat type then
    let F := fmtOf type
    match rop with
    | 0 => fadd2 F rneMode (F.unpack p) (F.unpack q)
    | 1 => fminmax F false p q
    | _ => fminmax F true p q
  else
    let less : Bool := if type < 12 then sextNat p w < sextNat q w else p < q
    match rop with
    | 0 => ((p + q) % 2 ^ w, 0)
    | 1 => (if less then p else q, 0)
    | 2 => (if less then q else p, 0)
    | 3 => (p &&& q, 0)
    | 4 => (p ||| q, 0)
    | _ => (p ^^^ q, 0)

/-- Values of the members at a position, in rank order. -/
def Coll.column (c : Coll) (k : Nat) : List Nat :=
  (List.range c.nNew).map fun r => ((c.shares.find? fun q => q.rank = r).bind fun q => q.data[k]?).getD 0

/-- Positions that a reduction compares (R371). -/
def Coll.positions (c : Coll) : Nat := if c.hdr.kind = 1 then c.nNew * c.hdr.count else c.hdr.count

/-- E of each block of 256 positions over the members' values (R164); those kept from an old view take their place
(R377). -/
def Coll.exponents (c : Coll) : List (Option Int) :=
  match c.exps with
  | some es => es
  | none =>
    match c.shares.findSome? fun q => q.exps with
    | some es => es
    | none =>
      (List.range (ceilDiv c.positions 256)).map fun b =>
        qExp ((List.range (min 256 (c.positions - 256 * b))).flatMap fun i => (c.column (256 * b + i)).map f64.unpack)

/-- Result and flags at every compared position (R371, R377). -/
def Coll.reduced (c : Coll) : List (Nat × Nat) :=
  if c.hdr.mode = 1 then
    let es := c.exponents
    let (a, b) := if c.restarted ∧ c.hdr.policy = 2 then (c.nOld, c.nNew) else (1, 1)
    (List.range c.positions).map fun k => qsumAt ((es[k / 256]?).getD none) a b ((c.column k).map f64.unpack)
  else
    (List.range c.positions).map fun k =>
      let r := reduceTree (collStep c.hdr.type c.hdr.rop) none ((c.column k).map some)
      (r.1.getD 0, r.2)

/-- The elements that this member's destination receives, and FLAGS (R370, R371). -/
def Coll.result (c : Coll) : List Nat × Nat :=
  let m := c.hdr.count
  match c.hdr.kind with
  | 0 | 1 =>
    let rs := c.reduced
    let fl := rs.foldl (fun f r => f ||| r.2) 0
    let xs := rs.map (·.1)
    (if c.hdr.kind = 0 then xs else (xs.drop (c.rank * m)).take m, fl)
  | 2 => ((List.range c.nNew).flatMap fun r => ((c.shares.find? fun q => q.rank = r).map (·.data)).getD [], 0)
  | 3 => (((c.shares.find? fun q => q.rank = c.hdr.root).map (·.data)).getD [], 0)
  | _ => ([], 0)

-- dispatch (R367 to R369)

/-- Elements of the source range that a member of rank `r` reads, of `n` members (R370). -/
def sourceCount (h : CollHdr) (n r : Nat) : Nat :=
  match h.kind with
  | 0 | 2 => h.count
  | 1 => n * h.count
  | 3 => if r = h.root then h.count else 0
  | _ => 0

/-- Elements of the destination range. -/
def destCount (h : CollHdr) (n : Nat) : Nat :=
  match h.kind with
  | 2 => n * h.count
  | 4 => 0
  | _ => h.count

/-- The fields that members compare. -/
def recordHdr (x : Nat) : CollHdr :=
  let f := blockField x
  { kind := f 0 1, type := f 1 1, rop := f 2 1, mode := f 3 1, policy := f 4 1, root := f 6 2, count := f 8 8 }

/-- A record that R368 accepts, under the current SIZE; `inView` when the package belongs to a view. -/
def recordOk (x n r : Nat) (inView : Bool) : Bool :=
  let f := blockField x
  let h := recordHdr x
  let eb := collBytes h.type
  h.kind ≤ 4 && [0, 1, 2, 3, 8, 9, 12, 13].contains h.type && h.rop ≤ 5 && h.mode ≤ 1 && h.policy ≤ 2
    && f 5 1 < 8 && (h.kind = 3 || h.root == 0) && h.count < 2 ^ 32 && f 0x38 8 == 0 && (h.kind < 2 || h.rop == 0)
    && !(3 ≤ h.rop && collFloat h.type)
    && !(h.mode == 1 && (h.type != 0 || h.rop != 0 || 2 ≤ h.kind))
    && !(h.policy == 2 && !(h.mode == 1 && h.kind == 0))
    && !(h.kind == 3 && inView && n ≤ h.root)
    && !(h.kind == 4 && (h.count != 0 || f 0x10 8 != 0 || f 0x18 8 != 0 || h.type != 0))
    && f 0x10 8 % eb == 0 && f 0x18 8 % eb == 0 && f 0x28 8 % 8 == 0
    && !clash (f 0x10 8, eb * sourceCount h n r) (f 0x18 8, eb * destCount h n)

/-- How often a CID has been dispatched in this view. -/
def Fabric.count (f : Fabric) (cid : Nat) : Nat := ((f.counts.find? fun p => p.1 = cid).map (·.2)).getD 0

/-- One more dispatch of a CID. -/
def Fabric.countUp (f : Fabric) (cid : Nat) : Fabric :=
  { f with counts := (cid, f.count cid + 1) :: f.counts.filter fun p => p.1 ≠ cid }

/-- A status word of a collective (R373). -/
def collStatus (code flags detail : Nat) : Word := statusWord code flags detail

/-- Keep the 64 most recent completions (R374). -/
def pruneColls (cs : List Coll) : List Coll :=
  let fin := cs.filter fun c => c.status.isSome
  if fin.length ≤ 64 then cs
  else
    let old := (fin.take (fin.length - 64)).map (·.id)
    cs.filter fun c => !old.contains c.id

/-- Change a collective. -/
def State.updColl (s : State) (id : Nat) (f : Coll → Coll) : State :=
  { s with colls := s.colls.map fun c => if c.id = id then f c else c }

/-- Which collective it is to the members of its view. -/
def Coll.run (c : Coll) : CollId := ⟨c.etag, c.cid, c.n⟩

/-- What an acknowledgement says of a collective of the view that has ended here (R362, R375): with a result, every member held its
own; codes 0x05 and 0x06 it ended with at once. A duplicate, and what never ran in the view, is none of its collectives. -/
def Coll.report (c : Coll) (members : List Nat) (w : Word) : Option HeldBy :=
  let code := bitsAt w.toNat 56 8
  let detail := bitsAt w.toNat 0 32
  if code = 0 ∨ code = 3 ∨ code = 4 then some ⟨c.run, members, none⟩
  else if (code = 5 ∨ code = 6) ∧ detail ≠ 0xFFFFFFFF then some ⟨c.run, [], some (code, detail)⟩
  else none

/-- STATUS stands (R372): DONE follows; the collective moves behind the earlier completions, and the record of a final launch may now
be due (R411, R412). -/
def State.closeColl (s : State) (c : Coll) (w : Word) : State :=
  let s := s.bump c.done
  let ended : Coll := { c with sent := [], ending := none, status := some w }
  let f := s.fabric
  let s : State := { s with
    colls := pruneColls ((s.colls.filter fun (o : Coll) => o.id ≠ c.id) ++ [ended])
    fabric := { f with ended := if c.tag = f.tag then f.ended ++ (c.report f.members w).toList else f.ended } }
  match s.launch? c.lid with
  | some l => if isFinal l.state && !s.working c.lid then s.post [.completionRecordWrite c.lid] else s
  | none => s

/-- A collective ends (R372, R373): STATUS, and, once that has performed, DONE. -/
def State.endColl (s : State) (id : Nat) (w : Word) : State :=
  match s.colls.find? fun c => c.id = id with
  | none => s
  | some c =>
    let t := s.onBehalf c.lid (·.segWrite [⟨c.record.plus 0x30, 8⟩] (bytesOf w.toNat 8))
    if (t.tagsFrom s).isEmpty then t.closeColl c w
    else t.updColl id fun c => { c with sent := c.sent ++ t.tagsFrom s, ending := some w }

/-- Send a collective's flit, with n bytes of data, to every other member (R358). -/
def State.sendAll (s : State) (lid n : Nat) (body : FlitBody) : State :=
  ((List.range s.fabric.members.length).filter (· ≠ s.fabric.rank)).foldl (fun s r => s.sendFor lid n r body) s

/-- This member's share. -/
def Coll.ownShare (c : Coll) : Option Share := c.shares.find? fun q => q.rank = c.rank

/-- The source bytes of a collective, as they read now; in a run after a view change each aligned word of 8 bytes may read as it
did in the run before (R376). -/
def State.sourceBytes (s : State) (c : Coll) : List Byte :=
  let now := s.opBytes c.asks c.src
  match c.prior with
  | none => now
  | some q =>
    let before := q.data.flatMap fun x => bytesOf x c.esize
    let skip := (((c.src.head?).map (·.loc.within)).getD 0) % 8
    (List.range now.length).map fun i =>
      let b := now.getD i 0
      if Config.readsNew (s.draw + (skip + i) / 8) then b else before.getD i b

/-- The source elements of a collective, as this member's share (R370). -/
def State.readShare (s : State) (c : Coll) : Share :=
  ⟨c.rank, c.hdr, fieldsOf (natOfBytes (s.sourceBytes c)) c.esize
      (min ((c.src.map (·.len)).sum / c.esize) (sourceCount c.hdr c.nNew c.rank)),
    s.segsPoisoned c.src, c.exps⟩

/-- The source is read: each word of a run after a view change is a choice of its own. -/
def State.sourceRead (s : State) (c : Coll) : State :=
  if c.prior.isNone then s else { s with draw := s.draw + (c.src.map (·.len)).sum / 8 + 2 }

/-- This member's share goes to the others, when it has one yet. -/
def State.sendShare (s : State) (c : Coll) : State :=
  match c.ownShare with
  | some q =>
    s.sendAll c.lid (q.data.length * c.esize) (.share c.etag c.cid c.n c.hdr q.data q.poisoned q.exps)
  | none => s

/-- A share in an arrived flit, for a collective. -/
def shareFor (f : Flit) (c : Coll) : Option Share :=
  match f.body with
  | .share etag cid n hdr data bad exps =>
    if etag = c.etag ∧ cid = c.cid ∧ n = c.n ∧ f.tag = c.tag then some ⟨f.rank, hdr, data, bad, exps⟩ else none
  | _ => none

/-- Another member's share of the next dispatch of a pair is here: that collective has begun elsewhere. -/
def State.begunElsewhere (s : State) (etag cid : Nat) : Bool :=
  s.mail.any fun f => match f.body with
    | .share e c n .. => e == etag && c == cid && n == s.fabric.count cid + 1
    | _ => false

/-- A COLL is held back (R362, R363): while a proposal is acknowledged; for a pair outside the union of a hold; and, once this member
has acknowledged the hold, unless another member has begun that collective (DEDUCED: log 66). -/
def State.holdsColl (s : State) (etag cid : Nat) : Bool :=
  let f := s.fabric
  f.acked.isSome || match f.hold with
    | some h => (h.union.map fun u => !u.contains (etag, cid)).getD false
        || (h.acks.contains f.fid && !s.begunElsewhere etag cid)
    | none => false

/-- Start a collective that is to run: it takes the shares that had arrived, and its own goes to the other members. -/
def State.startColl (s : State) (c : Coll) : State :=
  let got := (s.mail.filterMap fun f => shareFor f c).filter fun q => q.rank ≠ c.rank
  let c := { c with shares := c.shares ++ got }
  let s : State := { s with
    mail := s.mail.filter fun f => (shareFor f c).isNone
    colls := s.colls ++ [c], nextOp := s.nextOp + 1, fabric := s.fabric.countUp c.cid }
  (got.foldl (fun s q => s.countFlits c.lid (q.data.length * c.esize)) s).sendShare c

/-- COLL (R368, R369). -/
def coll (a : Reg) : Act Unit := do
  let s ← get
  let x := s.rx a
  let fb := s.fabric
  let n := fb.size
  Act.drain
  Act.granule
  Act.check (x.toNat % 64 == 0) 2 x
  Act.waitUntil ((s.colls.filter fun c => c.status.isNone).length < 64)
  let rec ← Act.fetchRange x.toNat 64
  let f := blockField rec
  let etag := f 0x20 4
  let cid := f 0x24 4
  Act.waitUntil (!s.holdsColl etag cid)
  Act.check (recordOk rec n fb.rank fb.inView) 2 x
  let h := recordHdr rec
  let eb := collBytes h.type
  let done := f 0x28 8
  let gs ← Act.ranges [(x.toNat, 64, .write), (done, if done = 0 then 0 else 8, .write),
    (f 0x10 8, eb * sourceCount h n fb.rank, .read), (f 0x18 8, eb * destCount h n, .write)]
  let at_ (i : Nat) := (gs[i]?).getD []
  let doneAt := ((at_ 1).head?).map (·.loc)
  Act.check (!((doneAt.map Loc.outside).getD false)) accessFault (wordOfNat done)
  Act.grantReads (at_ 2)
  Act.pushAll ((at_ 3 ++ at_ 0).map (·.loc))
  Act.upd fun s =>
    let (t, asks) := s.askAll (outsideOf (at_ 2))
    let c : Coll := {
      id := s.nextOp, lid := s.hart.lid, j := s.hart.j, hid := s.hart.hid, etag := etag, tag := fb.tag, cid := cid,
      n := fb.count cid + 1, hdr := h, rootFid := (fb.members[h.root]?).getD 0, esize := eb,
      record := (((at_ 0).head?).map (·.loc)).getD (.cap 0), done := doneAt, src := at_ 2, dst := at_ 3, asks := asks, sent := [],
      nOld := n, nNew := n, rank := fb.rank, shares := [], held := [], exps := none, restarted := false, prior := none,
      ending := none, status := none }
    let now (w : Word) : State := ({ s with colls := s.colls ++ [c], nextOp := s.nextOp + 1 }).endColl c.id w
    let r :=
      if !fb.inView then now (collStatus 7 0 0)
      else if etag ≠ fb.tag then now (collStatus 1 0 fb.tag)
      else if s.colls.any fun o => o.status.isNone && o.etag == etag && o.cid == cid then now (collStatus 6 0 0xFFFFFFFF)
      else t.startColl (if asks.isEmpty then { c with shares := [t.readShare c] } else c)
    r.advance

/-- COLL. -/
def execColl (a : Reg) (s : State) : Answer := Act.run false (coll a) s

/-- CWAIT (R374). -/
def cwait (d a : Reg) : Act Unit := do
  let s ← get
  let x := s.rx a
  Act.check (x.toNat % 64 == 0) 3 x
  let loc ← Act.reach x.toNat .read
  let mine := s.colls.filter fun c => c.record = loc
  let latest := mine.foldl (fun (o : Option Coll) c => match o with
    | some b => if b.id < c.id then some c else o
    | none => some c) none
  match latest with
  | some c =>
    match c.status with
    | some w => Act.upd (·.done1 d w)
    | none => Act.wait
  | none => do
    let v ← Act.load (x.toNat + 0x30) (loc.plus 0x30) 8
    Act.upd (·.done1 d (wordOfNat v))

/-- CWAIT. -/
def execCwait (d a : Reg) (s : State) : Answer := Act.run false (cwait d a) s

/-- A word is CWAIT (R365). -/
def isCwait (w : BitVec 32) : Bool := wordMajor w == 0x38 && wordOp w == 2

/-- CWAIT_RETURN (R374). -/
def execCwaitReturn (hid : Nat) (s : State) : Answer :=
  wake hid (fun w => if isCwait w then some (Act.run false (cwait (wordD w) (wordA w))) else none) s

-- running and completing

/-- The unfinished collective of a pair. -/
def State.openColl (s : State) (etag cid : Nat) : Option Coll :=
  s.colls.find? fun c => c.etag = etag ∧ c.cid = cid ∧ c.status.isNone

/-- The lowest rank whose record differs from rank 0's (R369). -/
def Coll.differs (c : Coll) : Option Nat :=
  match c.shares.find? fun q => q.rank = 0 with
  | none => none
  | some z => ((c.shares.filter fun q => q.hdr ≠ z.hdr).map (·.rank)).min?

/-- Phase one of QSUM is over here (R377): this member's share names the agreed exponents, and goes out again with them. -/
def Coll.agree (c : Coll) : Coll :=
  let es := c.exponents
  { c with
    exps := some es
    shares := c.shares.map fun q => if q.rank = c.rank then { q with exps := some es } else q }

/-- COLLECTIVE_MATCH (R369, R373): a source that devices or hosts hold, or that a view change has this member read again, has arrived,
and this member's share goes out; or, with every member's record here, the collective ends with code 0x06 or 0x05, or, under QSUM,
this member agrees the exponents, or, once every member has, this member holds its result and says so. Nothing goes out once a
proposal is acknowledged (R362). -/
def execCollectiveMatch (tag cid : Nat) (s : State) : Answer :=
  match s.openColl tag cid with
  | none => .next s
  | some c =>
    if s.fabric.acked.isSome then .next s
    else if c.gathers then
      let c' : Coll := { c with shares := s.readShare c :: c.shares }
      .next (((s.sourceRead c).updColl c.id fun _ => c').sendShare c')
    else if !c.matched then .next s
    else
      match c.differs with
      | some r => .next (s.endColl c.id (collStatus 6 0 r))
      | none =>
        match ((c.shares.filter (·.poisoned)).map (·.rank)).min? with
        | some r => .next (s.endColl c.id (collStatus 5 0 r))
        | none =>
          if c.hdr.mode = 1 ∧ !c.agreed then .next ((s.updColl c.id Coll.agree).sendShare c.agree)
          else
            .next ((s.updColl c.id fun c => { c with held := c.rank :: c.held }).sendAll c.lid 0 (.held c.etag c.cid c.n))

/-- Write a collective's destination (R370). -/
def State.putResult (s : State) (c : Coll) : State :=
  let bs := c.result.1.flatMap fun x => bytesOf x c.esize
  s.onBehalf c.lid (·.segWrite (segsAt c.dst 0 bs.length) bs)

/-- CODE of a completion (R373). -/
def Coll.code (c : Coll) : Nat := if c.restarted then (if c.hdr.policy = 2 then 4 else 3) else 0

/-- The status word of a collective that has completed (R373). -/
def Coll.completed (c : Coll) : Word := collStatus c.code c.result.2 (if c.restarted then c.tag else c.etag)

/-- A collective whose results are held everywhere completes here (R372): its destination, and, once that has performed, STATUS. -/
def State.completeColl (s : State) (c : Coll) : State :=
  let t := s.putResult c
  if (t.tagsFrom s).isEmpty then t.endColl c.id c.completed
  else t.updColl c.id fun c => { c with sent := t.tagsFrom s }

/-- COLLECTIVE_COMPLETE (R372): the destination, then STATUS, then DONE, each once what went before it to devices and hosts has
performed. What a proposal's acknowledgement has reported stays as it is until the change (R375). -/
def execCollectiveComplete (tag cid : Nat) (s : State) : Answer :=
  match s.openColl tag cid with
  | none => .next s
  | some c =>
    if !s.performed c.sent then .next s
    else
      match c.ending with
      | some w => .next (s.closeColl c w)
      | none =>
        if !c.sent.isEmpty then .next (s.endColl c.id c.completed)
        else if c.everywhere && s.fabric.acked.isNone then .next (s.completeColl c)
        else .next s

-- remote copies (R381)

/-- The place of a control-area word of the slot of a saved hart (R394), with the state that its translation leaves. -/
def State.slotWord (s : State) (lid j n : Nat) : Option (List Seg × State) :=
  match s.launch? lid with
  | none => none
  | some l =>
    if (l.hs[j]?).any fun r => r.pos = .saved then (s.spanPair l.port l.pasid (l.slotOf j + 0x200 + 8 * n) 8 .write).toOption
    else none

/-- Change a control-area word of a saved hart's slot. -/
def State.inSlot (s : State) (lid j n : Nat) (f : Nat → Nat) : State :=
  match s.slotWord lid j n with
  | some (segs, t) => t.segWrite segs (bytesOf (f (t.segNat segs)) 8)
  | none => s

/-- The HELD word of a saved hart's slot (R394). -/
def State.slotHeld (s : State) (lid j : Nat) : Nat :=
  match s.slotWord lid j 30 with
  | some (segs, t) => t.segNat segs
  | none => 0

/-- A remote refusal for a hart, placed or saved (R381, R387): one that is held already keeps its address. -/
def State.refuseHart (s : State) (o : EngineOp) (x : Word) : State :=
  match s.placed.find? o.ofHart with
  | some h =>
    (s.updHart h.hid fun h => { h with heldRefusal := some (h.heldRefusal.getD x) }).post [.heldEventTake h.hid]
  | none =>
    if (s.slotHeld o.lid o.j).testBit 2 then s
    else (s.inSlot o.lid o.j 30 (· ||| 4)).inSlot o.lid o.j 31 (fun _ => x.toNat)

/-- REMOTE_COPY_REFUSED (R381): LOST in its weir, no completion, access fault for the hart. -/
def execRemoteCopyRefused (op : Nat) (s : State) : Answer :=
  match s.ops.find? fun o => o.id = op with
  | none => .next s
  | some o =>
    match o.kind with
    | .get sig x _ _ _ _ => .next (((s.weirLost sig).refuseHart o x).endOp op)
    | .put sig x _ _ _ => .next (((s.weirLost sig).refuseHart o x).endOp op)
    | _ => .next s

/-- A flit is used here (R358): under the current tag, from a member. -/
def State.accepts (s : State) (f : Flit) : Bool :=
  s.fabric.inView && f.tag == s.fabric.tag && s.fabric.members.contains f.sender

/-- The tag after another (R359). -/
def laterTag (t : Nat) : Nat := if t = 2 ^ 32 - 1 then 1 else t + 1

/-- A flit that is not used here is discarded. One of the view that this package is about to adopt is remembered, since its sender
resends it after the adoption (R383; DEDUCED: log 66). -/
def State.discard (s : State) (f : Flit) : State :=
  let b := s.fabric
  let soon := if b.inView then f.tag == laterTag b.tag else f.tag != 0 && b.requests.any fun r => !r.leave && r.result.isNone
  if soon then { s with fabric := { b with early := b.early ++ [f] } } else s

/-- A range that a remote copy may not reach (R381, R252). -/
def State.forbids (s : State) (pa len : Nat) : Bool :=
  pa < 2 ^ 30 || 2 ^ 39 < pa + len || (linesOf pa len).any fun line => s.noStack (128 * line) || s.pinned line

/-- The place of a remote copy's access, at its home (R381, R342). -/
def State.remotePlace (s : State) (pa n : Nat) : List Seg :=
  (piecesOf pa n).map fun p => ⟨.dev p.1 (s.syncLine (p.1 / 128)), p.2⟩

/-- REMOTE_COPY_ACCESS (R381): the remote side performs the accesses of a flit, or refuses the whole copy. Its answers are flits of
the view, so that it does nothing once a proposal is acknowledged (R362). -/
def execRemoteCopyAccess (f : Flit) (s : State) : Answer :=
  if !s.accepts f then .next (s.discard f)
  else if s.fabric.acked.isSome then .next s
  else
    match f.body with
    | .copyRead op pa len =>
      if s.forbids pa len then .next (s.sendFlit f.rank (.copyRefused op))
      else
        .next ((flitPieces len).foldl (fun s p =>
          let g := s.remotePlace (pa + p.1) p.2
          (s.segRead g).sendFlit f.rank (.copyData op p.1 (s.segBytes g) (s.badWords g p.2))) s)
    | .copyWrite op pa base len bytes bad =>
      if s.forbids base len then .next (s.sendFlit f.rank (.copyRefused op))
      else
        .next ((s.fill (s.remotePlace pa bytes.length) bytes bad).sendFlit f.rank (.copyDone op bytes.length))
    | _ => .next s

-- arrival (R358)

/-- A member's share: the collective that waits for it takes it, also when it comes again with the agreed exponents (R377), and one
not yet dispatched here finds it later. -/
def State.shareArrives (s : State) (f : Flit) (etag cid n : Nat) : State :=
  match s.colls.find? fun c => (shareFor f c).isSome with
  | some c =>
    match shareFor f c with
    | some q =>
      if c.status.isSome || c.shares.any fun o => o.rank == q.rank && (o.exps.isSome || q.exps.isNone) then s
      else
        (s.updColl c.id fun c => { c with shares := (c.shares.filter fun o => o.rank ≠ q.rank) ++ [q] }).countFlits c.lid
          (q.data.length * c.esize)
    | none => s
  | none => if etag = s.fabric.tag ∧ s.fabric.count cid < n then { s with mail := s.mail ++ [f] } else s

/-- Bytes of a remote source arrive; those that go on to a device or a host are counted once they have performed there (R299, R304). -/
def State.dataArrives (s : State) (f : Flit) (op off : Nat) (bytes : List Byte) (bad : List Nat) : State :=
  match s.ops.find? fun o => o.id = op with
  | some o =>
    match o.kind with
    | .get _ _ _ _ dst _ =>
      let s := if f.sender = s.fabric.fid then s else s.countFlits o.lid bytes.length
      let t := s.onBehalf o.lid (·.fill (segsAt dst off bytes.length) bytes bad)
      if (t.tagsFrom s).isEmpty then t.arrived op bytes.length
      else t.updOp op fun o => { o with sent := o.sent ++ t.tagsFrom s, late := o.late + bytes.length }
    | _ => s
  | none => s

/-- Bytes of a remote destination have been performed. -/
def State.doneArrives (s : State) (f : Flit) (op n : Nat) : State :=
  match s.ops.find? fun o => o.id = op with
  | some o =>
    match o.kind with
    | .put .. => (if f.sender = s.fabric.fid then s else s.countFlits o.lid 0).arrived op n
    | _ => s
  | none => s

/-- The remote side refuses a copy (R381); its flit counts for the launch as every other does (R358). -/
def State.refusalArrives (s : State) (f : Flit) (op : Nat) : State :=
  match s.ops.find? fun o => o.id = op with
  | some o =>
    if o.kind.remoteSignal.isNone then s
    else (if f.sender = s.fabric.fid then s else s.countFlits o.lid 0).post [.remoteCopyRefused op]
  | none => s

/-- A member says that it holds its result of a collective. -/
def State.heldArrives (s : State) (f : Flit) (etag cid n : Nat) : State :=
  match s.colls.find? fun c => c.etag = etag ∧ c.cid = cid ∧ c.n = n ∧ c.tag = f.tag ∧ c.status.isNone with
  | some c =>
    if c.held.contains f.rank then s
    else (s.updColl c.id fun c => { c with held := c.held ++ [f.rank] }).countFlits c.lid 0
  | none => s

/-- FABRIC_FLIT_ARRIVAL (R358): used, or discarded with no effect. -/
def execFabricFlitArrival (f : Flit) (s : State) : Answer :=
  if !s.accepts f then .next (s.discard f)
  else
    .next (match f.body with
      | .share etag cid n .. => s.shareArrives f etag cid n
      | .held etag cid n => s.heldArrives f etag cid n
      | .copyRead .. | .copyWrite .. => s.post [.remoteCopyAccess f]
      | .copyData op off bytes bad => s.dataArrives f op off bytes bad
      | .copyDone op n => s.doneArrives f op n
      | .copyRefused op => s.refusalArrives f op
      | .meshShare m => s.meshArrive f m)

end Sys2Proof.Machine
end

