-- ==== Sys2Proof/Machine/Gibbs.lean ====
section
/-!
DEFINITION. The GIBB major (0x37): GBIND, GTABLE, GSWEEP, GREAD and GREL (R328 to R336); GWAIT stands in Engines.
-/

namespace Sys2Proof.Machine

-- graphs

/-- Row of an entry. -/
def rowOf (rowptr : List Nat) (e : Nat) : Nat := (rowptr.filter (· ≤ e)).length - 1

/-- The arrays of a graph in the order of the record's fields (R330): address and bytes. -/
def GibbsHandle.arrays (g : GibbsHandle) : List (Nat × Nat) :=
  [(g.rowptr, 8 * (g.nvar + 1)), (g.colidx, 4 * g.ne), (g.weight, 2 * g.ne), (g.bias, 2 * g.nvar), (g.colour, g.nvar),
    (g.clampm, ceilDiv g.nvar 8)]

/-- ROWPTR obeys R330. -/
def rowsOk (rowptr : List Nat) : Bool :=
  rowptr.head? == some 0 && (rowptr.zip (rowptr.drop 1)).all fun p => p.1 ≤ p.2

/-- A graph from what its arrays hold, when it breaks nothing of R330 and R331. -/
def GibbsHandle.parse (g : GibbsHandle) (data : List Nat) : Option Graph :=
  let n := g.nvar
  let arr (i : Nat) : Nat := (data[i]?).getD 0
  let rowptr := fieldsOf (arr 0) 8 (n + 1)
  let colidx := fieldsOf (arr 1) 4 g.ne
  let colour := fieldsOf (arr 4) 1 n
  let col (v : Nat) := (colour[v]?).getD 0
  let ok := rowsOk rowptr && rowptr.getLastD 0 == g.ne && colidx.all (· < n) && colour.all (· < g.ncol)
    && (List.range n).all fun v => (List.range ((rowptr.getD (v + 1) 0) - rowptr.getD v 0)).all fun e =>
      let u := colidx.getD (rowptr.getD v 0 + e) 0
      u != v && col u != col v
  if ok then some ⟨rowptr, colidx, fieldsOf (arr 2) 2 g.ne, fieldsOf (arr 3) 2 n, colour, arr 5⟩ else none

/-- The least variable one of whose words reads poisoned, in arrays at some places. -/
def State.graphBad (s : State) (g : GibbsHandle) (gs : List (List Seg)) : Option Nat :=
  let at_ (i : Nat) : List Seg := (gs[i]?).getD []
  let rowptr := fieldsOf (s.segNat (at_ 0)) 8 (g.nvar + 1)
  (((s.badElem (at_ 0) 8 (g.nvar + 1)).map (· - 1)).toList ++ ((s.badElem (at_ 1) 4 g.ne).map (rowOf rowptr)).toList
    ++ ((s.badElem (at_ 2) 2 g.ne).map (rowOf rowptr)).toList ++ (s.badElem (at_ 3) 2 g.nvar).toList
    ++ (s.badElem (at_ 4) 1 g.nvar).toList ++ ((s.badElem (at_ 5) 1 (ceilDiv g.nvar 8)).map (8 * ·)).toList).min?

/-- An array that GBIND reads itself (R331): an unreadable page raises bad operand handle for `x`, and poison its trap. -/
def Act.bindArray (x : Word) (va n : Nat) : Act Nat := do
  let s ← get
  match spanWith readHere (piecesOf va n) s with
  | .error _ => Act.trap 2 x
  | .ok (gs, t) => do
    set t
    Act.waitUntil (!gs.any fun g => t.engineHolds g.loc)
    Act.noPoison va n gs
    let bs ← Act.pull gs
    pure (natOfBytes bs)

/-- The arrays of a record, read and checked (R331): ROWPTR gives the entries of the others. -/
def Act.bindGraph (x : Word) (g : GibbsHandle) : Act (GibbsHandle × Graph) := do
  let rb ← Act.bindArray x g.rowptr (8 * (g.nvar + 1))
  let rowptr := fieldsOf rb 8 (g.nvar + 1)
  Act.check (rowsOk rowptr) 2 x
  let g := { g with ne := rowptr.getLastD 0 }
  let rest ← (g.arrays.drop 1).mapM fun r => Act.bindArray x r.1 r.2
  match g.parse (rb :: rest) with
  | some q => pure ({ g with graph := q }, q)
  | none => Act.trap 2 x

-- binding

/-- The handle that a GBIND record describes, if its own fields break nothing of R330 and R331. -/
def parseGbind (x : Nat) : Option GibbsHandle :=
  let f := blockField x
  let g : GibbsHandle := {
    h := 0, nvar := f 0 4, ne := 0, ncol := f 4 1, rowptr := f 0x08 8, colidx := f 0x10 8, weight := f 0x18 8, bias := f 0x20 8,
    colour := f 0x28 8, clampm := f 0x30 8, done := f 0x48 8, beta := f 0x50 4, stream := f 0x54 4, sc := f 0x58 1,
    s := 0, marg := [], table := none, bad := [], badMarg := [],
    graph := ⟨[], [], [], [], [], 0⟩, last := 0 }
  let finite : Bool := match f32.unpack g.beta with
    | .fin .. => true
    | _ => false
  if 1 ≤ g.nvar && g.nvar ≤ 16777216 && 1 ≤ g.ncol && g.ncol ≤ 64 && f 5 3 == 0 && g.rowptr % 8 == 0
      && g.colidx % 4 == 0 && g.weight % 2 == 0 && g.bias % 2 == 0 && g.done % 8 == 0 && g.sc < 8 && f 0x59 39 == 0
      && finite then some g else none

/-- State cells of a handle on a lane die: variables v with v mod 4 = d (R331). -/
def GibbsHandle.cells (g : GibbsHandle) (d : Nat) : Nat := (g.nvar + 3 - d) / 4

/-- State cells that all bindings of the module take on a lane die. -/
def State.cellsTaken (s : State) (d : Nat) : Nat :=
  let of (hs : Handles) := (hs.gibbs.map (·.cells d)).sum
  of s.lu.ownHandles + (s.lu.launches.map fun l => of l.handles).sum

/-- State cells of a lane die's sampling array (R13). -/
def cellsPerDie : Nat := 4 * 2 ^ 20

/-- GBIND (R331). -/
def gbind (d a : Reg) : Act Unit := do
  let s ← get
  let x := s.rx a
  Act.drain
  Act.check (x.toNat % 128 == 0) 2 x
  let rec ← Act.bindArray x x.toNat 128
  match parseGbind rec with
  | none => Act.trap 2 x
  | some g =>
    let (g, q) ← Act.bindGraph x g
    let n := ceilDiv g.nvar 8
    let cv ← Act.bindArray x (blockField rec 0x38 8) n
    let init ← Act.bindArray x (blockField rec 0x40 8) (if blockField rec 0x40 8 = 0 then 0 else n)
    let t ← get
    -- DONE must be readable; its word is not read
    match spanWith readHere (piecesOf g.done (if g.done = 0 then 0 else 8)) t with
    | .error _ => Act.trap 2 x
    | .ok (_, t) => set t
    let s ← get
    let hs := s.myHandles
    let room := (List.range 4).all fun d => s.cellsTaken d + g.cells d ≤ cellsPerDie
    if 8 ≤ hs.gibbs.length || !room then Act.upd (·.done1 d 0)
    else
      let h := newHandle hs.serial (hs.gibbs.map (·.h))
      let bit (v : Nat) := if q.clampm.testBit v then cv.testBit v else init.testBit v
      let st := natOfBits ((List.range g.nvar).map bit)
      Act.upd fun s => (s.updHandles s.hart.lid fun hs => { hs with
        serial := hs.serial + 1,
        gibbs := hs.gibbs ++ [{ g with h := h, s := st, marg := List.replicate g.nvar 0 }] }).done1 d (wordOfNat h)

/-- GBIND. -/
def execGbind (d a : Reg) (s : State) : Answer := Act.run false (gbind d a) s

/-- Change an open sampling handle of the acting hart's launch. -/
def State.updGibbs (s : State) (h : Nat) (f : GibbsHandle → GibbsHandle) : State :=
  s.updHandles s.hart.lid fun hs => { hs with gibbs := hs.gibbs.map fun g => if g.h = h then f g else g }

/-- GTABLE (R332). -/
def execGtable (a b : Reg) (s : State) : Answer :=
  let x := s.rx b
  Act.run false (do
    let g ← Act.gibbsHandle (s.rx a)
    Act.idle g.h
    Act.drain
    Act.check (x.toNat % 8 == 0) 3 x
    let t ← Act.ownRange x.toNat 2048
    Act.upd fun s => (s.updGibbs g.h fun g => { g with table := some ((fieldsOf t 8 256).map wordOfNat) }).advance) s

-- sweeping

/-- p24 of a field (R333). -/
def sigmoid (table : List Word) (h : FVal) : Nat :=
  let entry (k : Nat) := ((table[k]?).getD 0).toNat
  let slope (k : Nat) : Int := sextNat (entry k / 2 ^ 32) 32
  let base (k : Nat) : Int := sextNat (entry k) 32
  let clip (x : Int) : Nat := (satInt x 0 (2 ^ 24)).toNat
  match h with
  | .nan _ => 0
  | .inf true => clip (base 0)
  | .inf false => clip (base 255 + slope 255)
  | .fin neg m e =>
    let low : Int := min e 0
    let one : Nat := 2 ^ (-low).toNat
    let v : Int := (if neg then -1 else 1) * (m * 2 ^ (e - low).toNat : Nat)
    if v < -16 * one then clip (base 0)
    else if 16 * one ≤ v then clip (base 255 + slope 255)
    else
      let x : Nat := ((v + 16 * one) * 8).toNat
      let k := x / one
      let q := (intMag rneMode (slope k < 0) ((slope k).natAbs * (x % one)) low).1
      clip (base k + if slope k < 0 then -(q : Int) else q)

/-- The field of variable v from a snapshot of the states (R334). -/
def Graph.field (q : Graph) (g : GibbsHandle) (snap v : Nat) : Nat :=
  let r (i : Nat) := (q.rowptr[i]?).getD 0
  let acc := (List.range (r (v + 1) - r v)).foldl (fun acc e =>
    let i := r v + e
    if snap.testBit ((q.colidx[i]?).getD 0) then
      (fadd2 f32 rneMode (f32.unpack acc) (f16.unpack ((q.weight[i]?).getD 0))).1
    else acc) (fcvt1 f32 rneMode false (f16.unpack ((q.bias[v]?).getD 0))).1
  (fmul2 f32 rneMode (f32.unpack g.beta) (f32.unpack acc)).1

/-- One class of a sweep: the states and the count of fields that were NaN. -/
def Graph.sweepClass (q : Graph) (g : GibbsHandle) (table : List Word) (key t c : Nat) (p : Nat × Nat) : Nat × Nat :=
  (List.range g.nvar).foldl (fun r v =>
    if (q.colour[v]?).getD 0 ≠ c ∨ q.clampm.testBit v then r
    else
      let h := f32.unpack (q.field g p.1 v)
      let one := d24 (riffle key ((t * 2 ^ 32 + v) % 2 ^ 64) g.stream) < sigmoid table h
      let bit := if one then 2 ^ v else 0
      let cur := if r.1.testBit v then 2 ^ v else 0
      (r.1 - cur + bit, r.2 + if h.isNan then 1 else 0)) p

/-- Sweep t: every class in turn, then the marginal counters. -/
def Graph.sweep (q : Graph) (g : GibbsHandle) (table : List Word) (key t : Nat) (p : Nat × Nat × List Nat) :
    Nat × Nat × List Nat :=
  let r := (List.range g.ncol).foldl (fun r c => q.sweepClass g table key t c r) (p.1, p.2.1)
  (r.1, r.2, (List.range p.2.2.length).map fun v =>
    min ((p.2.2[v]?).getD 0 + if r.1.testBit v then 1 else 0) 65535)

/-- Ranges of an operation on a binding and its DONE word, translated in ascending address (R308, R446). -/
def Act.gibbsRanges (g : GibbsHandle) (rs : List Range) : Act (List (List Seg) × Option Loc) := do
  let gs ← Act.ranges (rs ++ if g.done = 0 then [] else [(g.done, 8, .write)])
  let done := if g.done = 0 then none else ((gs[rs.length]?).bind (·.head?)).map (·.loc)
  Act.check (!((done.map Loc.outside).getD false)) accessFault (wordOfNat g.done)
  pure (gs.take rs.length, done)

/-- The binding that an operation is on, as it stands now. -/
def State.gibbsNow (s : State) (o : EngineOp) : Option GibbsHandle :=
  (s.handlesOf o.lid).gibbs.find? fun g => g.h = o.handle

/-- GSWEEP begins (R334): n sweeps over the graph at some places. Where the arrays no longer obey R331, software has written words
that belong to the device, and they read as their old values (R59, R331). Poison met among the states, the arrays or the
counters leaves everything as it was (DESIGN CHOICE: log 61). -/
def runSweep (n base : Nat) (seed : Word) (graph : List (List Seg)) (tail : Option Loc × Option Loc) (o : EngineOp) (s : State) :
    Starts :=
  match s.gibbsNow o with
  | none => o.results (statusWord 0 0 0) none true tail s
  | some g =>
    match g.table with
    | none => o.results (statusWord 7 0 0) none true tail s
    | some table =>
      match (g.bad.min?.or (s.graphBad g graph)).or g.badMarg.min? with
      | some v => o.results (statusWord 3 0 v) none true tail s
      | none =>
        let q := (g.parse (graph.map fun gs => natOfBytes (s.opBytes o.asks gs))).getD g.graph
        let r := (List.range n).foldl (fun p t => q.sweep g table seed.toNat (base + t) p) (g.s, 0, g.marg)
        o.results (statusWord 0 0 (min r.2.1 0xFFFFFFFF)) none true tail
          (s.updHandles o.lid fun hs => { hs with
            gibbs := hs.gibbs.map fun h => if h.h = g.h then { h with s := r.1, marg := r.2.2 } else h })

/-- An operation begins that only ends. -/
def runSettled (word : Word) (isGibbs : Bool) (tail : Option Loc × Option Loc) (o : EngineOp) (s : State) : Starts :=
  o.results word none isGibbs tail s

/-- GSWEEP at dispatch (R334). -/
def gsweep (a b : Reg) : Act Unit := do
  let s ← get
  let x := s.rx b
  let n := bitsAt x.toNat 0 32
  let base := bitsAt x.toNat 32 32
  let g ← Act.gibbsHandle (s.rx a)
  Act.drain
  Act.granule
  let ends (w : Word) : Act Unit := do
    let (_, done) ← Act.gibbsRanges g []
    Act.upd fun s =>
      (s.dispatchEngine g.h (scratchy [] (none, done)) [] [] (.settled w) (none, done) (runSettled w true (none, done))).advance
  match g.table with
  | none => ends (statusWord 7 0 0)
  | some _ =>
    Act.check (base + n ≤ 2 ^ 32) 2 x
    if n = 0 then ends (statusWord 0 0 0)
    else do
      let (gs, done) ← Act.gibbsRanges g (g.arrays.map fun r => (r.1, r.2, .read))
      let t ← get
      Act.check (!(outsideOf gs.flatten).isEmpty || (t.graphBad g gs).isSome || (g.parse (gs.map t.segNat)).isSome) 2 (s.rx a)
      Act.grantReads gs.flatten
      Act.upd fun s =>
        (s.dispatchEngine g.h (scratchy gs (none, done)) [] gs.flatten (.sweep n base s.hart.seed gs) (none, done)
          (runSweep n base s.hart.seed gs (none, done))).advance

/-- GSWEEP. -/
def execGsweep (a b : Reg) (s : State) : Answer := Act.run false (gsweep a b) s

/-- The state bitmap. -/
def GibbsHandle.stateBytes (g : GibbsHandle) : List Byte := bytesOf (g.s % 2 ^ g.nvar) (ceilDiv g.nvar 8)
/-- The marginal counters. -/
def GibbsHandle.margBytes (g : GibbsHandle) : List Byte := g.marg.flatMap fun m => bytesOf m 2

/-- GREAD begins (R335): the marginal counters, which `clr` sets to 0, or the states. -/
def runRead (marg clr : Bool) (dst : List Seg) (tail : Option Loc × Option Loc) (o : EngineOp) (s : State) : Starts :=
  match s.gibbsNow o with
  | none => o.results (statusWord 0 0 0) none true tail s
  | some g =>
    match (if marg then g.badMarg else g.bad).min? with
    | some v => o.results (statusWord 3 0 v) none true tail s
    | none =>
      let bs := if marg then g.margBytes else g.stateBytes
      let s := s.segWrite dst bs
      let s := if clr then s.updHandles o.lid fun hs => { hs with
        gibbs := hs.gibbs.map fun h => if h.h = g.h then { h with marg := h.marg.map fun _ => 0 } else h } else s
      o.results (statusWord 0 0 bs.length) none true tail s

/-- GREAD at dispatch (R335). -/
def gread (marg clr : Bool) (a b : Reg) : Act Unit := do
  let s ← get
  let x := s.rx b
  let g ← Act.gibbsHandle (s.rx a)
  Act.drain
  Act.granule
  Act.check (!marg || x.toNat % 2 == 0) 3 x
  let (gs, done) ← Act.gibbsRanges g [(x.toNat, if marg then 2 * g.nvar else ceilDiv g.nvar 8, .write)]
  let dst := gs.flatten
  Act.pushAll (dst.map (·.loc))
  Act.upd fun s =>
    (s.dispatchEngine g.h (scratchy [dst] (none, done)) dst [] (.read marg clr dst) (none, done)
      (runRead marg clr dst (none, done))).advance

/-- GREAD.state. -/
def execGreadState (a b : Reg) (s : State) : Answer := Act.run false (gread false false a b) s
/-- GREAD.marg. -/
def execGreadMarg (a b : Reg) (s : State) : Answer := Act.run false (gread true false a b) s
/-- GREAD.marg.clr. -/
def execGreadMargClr (a b : Reg) (s : State) : Answer := Act.run false (gread true true a b) s

/-- GREL (R336). -/
def execGrel (a : Reg) (s : State) : Answer :=
  Act.run false (do
    let g ← Act.gibbsHandle (s.rx a)
    Act.idle g.h
    Act.upd fun s => (s.updHandles s.hart.lid fun hs => { hs with gibbs := hs.gibbs.filter fun o => o.h ≠ g.h }).advance) s

end Sys2Proof.Machine
end

