-- ==== Sys2Proof/Machine/Mesh.lean ====
section
/-!
DEFINITION. The MESH major (0x36): MSOPEN, MSCLOSE, MSREFINE, MSBAL, MSGHOST, MSCOLOR, MSKEY, MSFIND, MSREMAP (R312 to
R327); MSWAIT stands in Engines.
-/

namespace Sys2Proof.Machine

-- opening and closing

/-- Every check of R58 on the record at an address, and its arrays (R313), with their places. An empty forest's address must be
that of a readable page all the same. -/
def State.openMesh (s : State) (x : Nat) : Except MeshFail (MeshData × List (List Seg) × State) :=
  if x % 256 ≠ 0 then .error .broken
  else
    match s.arraySegs readHere [(x, 256)] with
    | .error e => .error e
    | .ok (gs, t) =>
      match t.poisonIn x 256 gs.flatten with
      | some a => .error (.poison a)
      | none =>
        match parseMeshRec x (t.segNat gs.flatten) with
        | none => .error .broken
        | some r =>
          match t.arraySegs readHere ((r.forest, if r.fbits = 0 then 1 else 0) :: r.arrays) with
          | .error e => .error e
          | .ok (gs, u) =>
            match u.meshFrom r (gs.drop 1) with
            | .error e => .error e
            | .ok m => .ok (m, gs.drop 1, u)

/-- A mesh that cannot be read: poison consumed at its word, or bad operand handle for the operand (R58, R59, R313). -/
def Act.meshFail {α : Type} (x : Word) (e : MeshFail) : Act α :=
  match e with
  | .poison va => Act.trap 7 (wordOfNat va)
  | _ => Act.trap 2 x

/-- An older engine operation of the acting hart has still to write a page of some ranges (R298, R308). -/
def State.rangesHeld (s : State) (rs : List (Nat × Nat)) : Bool :=
  !s.ops.isEmpty && match s.arraySegs readHere rs with
  | .ok (gs, _) => gs.flatten.any fun g => s.engineHolds g.loc
  | .error _ => false

/-- MSOPEN (R313). -/
def execMsopen (d a : Reg) (s : State) : Answer :=
  let x := s.rx a
  Act.run false (do
    Act.drain
    let s ← get
    Act.waitUntil (!s.rangesHeld [(x.toNat, 256)])
    match s.openMesh x.toNat with
    | .error e => Act.meshFail x e
    | .ok (m, gs, t) => do
      Act.waitUntil (!s.rangesHeld m.head.arrays)
      let hs := t.myHandles
      if 16 ≤ hs.mesh.length then set (t.countTraffic.done1 d 0)
      else
        let h := newHandle hs.serial (hs.mesh.map (·.h))
        let t := t.countTraffic.updHandles t.hart.lid fun hs =>
          { hs with serial := hs.serial + 1, mesh := hs.mesh ++ [⟨h, m.head, t.mySpace, t.mySpace, gs, 0, 0, m⟩] }
        set (t.done1 d (wordOfNat h))) s

/-- MSCLOSE (R314). Shares of parts that waited for the handle are looked at again (R321). -/
def execMsclose (a : Reg) (s : State) : Answer :=
  Act.run false (do
    let h ← Act.meshHandle (s.rx a)
    Act.idle h.h
    Act.upd fun s =>
      let s := s.updHandles s.hart.lid fun hs => { hs with mesh := hs.mesh.filter fun o => o.h ≠ h.h }
      ({ s with mail := [], inbox := s.inbox ++ s.mail.map Instr.fabricFlitArrival }).advance) s

-- keys

/-- What MSKEY and MSFIND write: results, poisoned where the mesh reads poisoned (R316). -/
def Hart.meshElems (h : Hart) (d : Reg) (bad : Bool) (val : Nat → Nat) (is : List Nat) : Hart :=
  is.foldl (fun g i =>
    let g := g.setElem h.cfg d.toNat i (val i)
    if bad then g.poisonElem h.cfg d.toNat i else g) h

/-- MSKEY and MSFIND (R316): `f` gives an element's result. They raise no trap over the mesh's data: results from poisoned arrays
are poisoned (DESIGN CHOICE: log 61). -/
def mskeyfind (base : Nat) (d a b : Reg) (ca : Bit1) (kg : Num3) (f : MeshData → Nat → Nat) (s : State) : Answer :=
  let c := s.hart.cfg
  if !(s.hart.ew == 3 && aligned c d && aligned c a) then
    illegalWord (base + put d 21 + put a 16 + put b 11 + put ca 5 + put kg 0) s
  else
    Act.run true (do
      let h ← Act.meshHandle (s.rx b)
      Act.idle h.h
      let t ← get
      let stop := (t.hart.firstPoison kg [.vec c a.toNat]).map fun p => (p.1, 7, p.2)
      let is := commits (t.hart.actives kg) stop
      if is.isEmpty then set (t.plainEnd stop)
      else
        match t.readMesh h with
        | .error e => Act.meshFail (s.rx b) e
        | .ok (m, gs, t) =>
          let val (i : Nat) := f m (t.hart.el a i)
          set (t.upToCut (t.hart.actives kg) stop (fun is h => h.meshElems d (t.segsPoisoned gs.flatten) val is)
            (·.plainEnd stop))
          if (t.hart.cutAt stop).isSome then throw (.wait false true) else pure ()) s

/-- MSKEY. -/
def execMskey (d a b : Reg) (ca : Bit1) (kg : Num3) (s : State) : Answer :=
  mskeyfind 0xD8000180 d a b ca kg (fun m j => (m.locals[j]?).getD (2 ^ 64 - 1)) s

/-- MSFIND. -/
def execMsfind (d a b : Reg) (ca : Bit1) (kg : Num3) (s : State) : Answer :=
  mskeyfind 0xD80001C0 d a b ca kg (fun m k => (m.locals.idxOf? k).getD (2 ^ 64 - 1)) s

-- refining, balancing, ghosts

/-- A list that a block names, of `n` entries of `eb` bytes: its places and its number, or the first entry that reads poisoned. -/
def Act.blockList (eb n : Nat) (gs : List Seg) : Act (Except Nat Nat) := do
  Act.grantReads gs
  let s ← get
  match s.badElem gs eb n with
  | some i => pure (.error i)
  | none => do
    let bs ← Act.pull gs
    pure (.ok (natOfBytes bs))

/-- The field descriptors of a block (R322): CELLBYTES, OLD, NEW of each; `new` when NEW is used. -/
def Act.fields (x : Word) (b n : Nat) (new : Bool) : Act (List (Nat × Nat × Nat)) := do
  let fs := (List.range n).map fun i =>
    let f (off len : Nat) := blockField b (24 * i + off) len
    (f 0x10 4, f 0 8, f 8 8, f 0x14 4)
  Act.check (fs.all fun f => f.1 % 8 == 0 && 8 ≤ f.1 && f.1 ≤ 4096 && f.2.1 % 8 == 0
    && (!new || f.2.2.1 % 8 == 0) && f.2.2.2 == 0) 2 x
  pure (fs.map fun f => (f.1, f.2.1, f.2.2.1))

/-- The peer list (R321): rank and handle of each part. -/
def Act.peers (x : Word) (b n : Nat) : Act (List (Nat × Nat)) := do
  let es := fieldsOf b 8 n
  Act.check (es.all fun e => bitsAt e 52 12 == 0 && bitsAt e 32 7 == 0) 2 x
  pure (es.map fun e => (bitsAt e 39 13, bitsAt e 0 32))

/-- Reserved bytes of the block of MSREFINE, MSBAL and MSGHOST (R317, R322, R324). -/
def jobReserved (kind : Nat) : List (Nat × Nat) :=
  if kind = 0 then [(0x50, 0x90)] else if kind = 1 then [(0x5C, 4), (0x68, 0x78)] else [(1, 7), (0x5C, 4)]

/-- The cells that a part sends: keys with flags, weights and field bytes as read. -/
def shareCells (kind mode : Nat) (m : MeshData) (col : List Nat) (old : List (Nat × List Byte)) : List MeshCell :=
  (List.range m.owned.length).map fun i =>
    ⟨(m.owned[i]?).getD 0, if kind = 0 then (col[i]?).getD 0 else 0,
      if kind = 1 then (if col.isEmpty then 1 else (col[i]?).getD 0) else 0,
      if kind = 0 ∨ (kind = 2 ∧ mode = 1) then [] else old.map fun f => (f.2.drop (i * f.1)).take f.1⟩

/-- An operation over parts begins: this part's share goes to every other part, and shares that had arrived are taken (R321). A
peer entry of this part that does not name it ends the operation at once. -/
def startParts (j : MeshJob) (own : MeshShare) (tail : Option Loc × Option Loc) (o : EngineOp) (s : State) : Starts :=
  let part := j.mesh.head.part
  let me := (s.fabric.members.idxOf s.fabric.fid, o.handle)
  let named := s.fabric.members.contains s.fabric.fid && j.peers[part]? == some me
  let others := (List.range j.peers.length).filter (· ≠ part)
  let inView (q : Nat) : Bool := Nat.blt ((j.peers[q]?).getD (0, 0)).1 s.fabric.members.length
  let say := named && j.forced.isNone
  let s := (others.filter inView).foldl (fun s q =>
    let p := (j.peers[q]?).getD (0, 0)
    s.sendFor o.lid (if say then shareSize own else 0) p.1 (.meshShare { own with
      target := q, dst := p.2, open_ := say, cells := if say then own.cells else [] })) s
  if !named then o.results (statusWord 5 0 part) none false tail s
  else
    let gone := (others.filter fun q => !inView q).map fun q =>
      ({ own with part := q, open_ := false, cells := [] } : MeshShare)
    let j : MeshJob := { j with shares := own :: gone }
    let waiting (j : MeshJob) : EngineOp := { o with kind := .parts j tail.1 tail.2 }
    let got := s.mail.foldl (fun (p : MeshJob × List Flit) f => match f.body with
      | .meshShare m => if (waiting p.1).takes m then ({ p.1 with shares := p.1.shares ++ [m] }, p.2) else (p.1, p.2 ++ [f])
      | _ => (p.1, p.2 ++ [f])) (j, [])
    got.1.goesOn o tail { s with mail := got.2 }

/-- The mesh of a handle as an operation finds it when it begins: what its dispatch found, unless one before it has made a new one. -/
def State.meshNow (s : State) (o : EngineOp) (m : MeshAt) : MeshAt :=
  match (s.handlesOf o.lid).mesh.find? fun h => h.h = o.handle with
  | some h => if h.epoch = m.epoch then m else ⟨h.mesh, h.epoch, h.places, h.data⟩
  | none => m

/-- The mesh that an operation works on when it begins, none where it reads poisoned: what its arrays hold, when that passes R58
and fits what the operation has translated; otherwise software has written words that belong to the device, and they read as
their old values (R59). -/
def State.meshOf (s : State) (m : MeshAt) (fits : MeshData → Bool := fun _ => true) : Option MeshData :=
  match s.meshFrom m.mesh m.arrays with
  | .error (.poison _) => none
  | .ok d => some (if fits d then d else m.data)
  | .error _ => some m.data

/-- The mesh of a handle at the dispatch of an operation, which reads it: one that fails R58 raises bad operand handle for the
handle's operand, unless an operation before it has still to end (R59). -/
def Act.meshAt (x : Word) (h : MeshHandle) (arrays : List (List Seg)) (fits : MeshData → Bool := fun _ => true) : Act MeshAt := do
  let s ← get
  match s.meshFrom h.mesh arrays with
  | .ok d => pure ⟨h.mesh, h.epoch, arrays, if fits d then d else h.data⟩
  | .error .broken => do
    Act.check (s.handleBusy h.h) 2 x
    pure ⟨h.mesh, h.epoch, arrays, h.data⟩
  | .error _ => pure ⟨h.mesh, h.epoch, arrays, h.data⟩

/-- The first of some cells that a stretch translated at dispatch does not reach (R308), of `eb` bytes each. -/
def shortOf (gs : List Seg) (eb n : Nat) : Option Nat :=
  let have_ := (gs.map (·.len)).sum / eb
  if have_ < n then some have_ else none

/-- MSREFINE, MSBAL or MSGHOST begins (R308, R317 to R324). With the mesh changed by an operation before it, a cell beyond the ranges
that its dispatch translated ends it with code 0x06 (DESIGN CHOICE: log 61). -/
def runJob (p : JobPlan) (tail : Option Loc × Option Loc) (o : EngineOp) (s : State) : Starts :=
  let at_ := s.meshNow o p.mesh
  let r := at_.mesh
  let eb := if p.kind = 0 then 1 else 4
  let flagged := p.kind = 0 ∨ (p.kind = 1 ∧ !p.flags.isEmpty)
  let col := if flagged then fieldsOf (natOfBytes (s.opBytes o.asks p.flags)) eb r.nown else []
  let olds := p.fields.map fun f => (f.bytes, s.opBytes o.asks f.old)
  let ghosts (f : MeshField) : Option Nat :=
    if p.kind ≠ 2 ∨ p.mode ≠ 0 then none
    else if r.nown ≠ p.mesh.mesh.nown then some (min r.nown p.mesh.mesh.nown)
    else (shortOf f.new f.bytes r.nghost).map (r.nown + ·)
  let short : Option Nat :=
    ((if flagged then (shortOf p.flags eb r.nown).toList else [])
      ++ (if p.kind = 2 ∧ p.mode = 1 then [] else p.fields).flatMap fun f => (shortOf f.old f.bytes r.nown).toList ++ (ghosts f).toList).min?
  let bad : Option Nat :=
    ((s.badElem p.flags eb r.nown).toList ++ p.fields.filterMap fun f => s.badElem f.old f.bytes r.nown).min?
  let none_ : MeshData := ⟨r, [], [], [], [], []⟩
  let (m, forced) : MeshData × Option Word :=
    match p.forced, s.meshOf at_ with
    | some w, _ => (none_, some w)
    | none, none => (none_, some (statusWord 3 0 0))
    | none, some m => (m, ((short.map (statusWord 6 0)).or (bad.map (statusWord 3 0))))
  let own : MeshShare := ⟨r.part, r.npart, o.handle, r.part, o.handle, p.kind, p.mode, p.fields.map (·.bytes), true,
    shareCells p.kind p.mode m col olds⟩
  let j : MeshJob := {
    kind := p.kind, mode := p.mode, mesh := m, arrays := at_.arrays, space := p.space, newrec := p.newrec, forest := p.forest,
    ghosts := p.ghosts, gowner := p.gowner, remap := p.remap, ccap := p.ccap, fields := p.fields, peers := p.peers, shares := [own],
    forced := forced }
  if r.npart = 1 then
    let (w, nr, t) := s.finishMesh j
    o.results w nr false tail t
  else startParts j own tail o s

/-- MSREFINE (kind 0), MSBAL (1) and MSGHOST (2) at dispatch: R308, R317 to R324. OLD and NEW are translated once their descriptors
are read, every other range before, in ascending address. -/
def meshJob (kind : Nat) (a b : Reg) : Act Unit := do
  let s ← get
  let xa := s.rx a
  let xb := s.rx b
  let h ← Act.meshHandle xa
  let r := h.mesh
  Act.drain
  Act.waitUntil (r.npart = 1 || !s.fabric.holds)
  Act.granule
  let blk ← Act.block xb (jobReserved kind)
  let f := blockField blk
  let mode := if kind = 2 then f 0 1 else 0
  let makes := kind ≠ 2 || mode = 1
  let arr (off capOff eb : Nat) := (f off 8, eb * f capOff 8)
  let outs : List (Nat × Nat) :=
    if makes then [(f 0x08 8, 256), (f 0x10 8, 8 * ceilDiv (f 0x18 8) 64), arr 0x20 0x30 8, arr 0x28 0x30 4, arr 0x38 0x40 8]
    else []
  let nf := if kind = 0 then 0 else f 0x58 4
  Act.check (mode ≤ 1 && (kind = 0 || f 0x58 4 ≤ 16)
    && (kind = 0 || f 0x50 8 % 8 == 0)
    && (!makes || (f 0x08 8 % 256 == 0 && f 0x10 8 % 8 == 0 && f 0x20 8 % 8 == 0 && f 0x28 8 % 4 == 0 && f 0x38 8 % 8 == 0))
    && !anyClash outs && !(outs.any fun o => r.arrays.any (clash o))) 2 xb
  -- every range that the block and the handle fix
  let flagR : Range := if kind = 0 then (f 0 8, r.nown, .read)
    else if kind = 1 ∧ f 0 8 ≠ 0 then (f 0 8, 4 * r.nown, .read) else (0, 0, .read)
  let fieldR : Range := (f 0x50 8, 24 * nf, .read)
  let peerR : Range := (f 0x48 8, if r.npart = 1 then 0 else 8 * r.npart, .read)
  let tailR := blockRanges xb blk
  let mine : List Range := tailR ++ [flagR, fieldR, peerR] ++ outs.map fun o => (o.1, o.2, .write)
  let gs ← Act.rangesBy (fun i q =>
      if i < mine.length then Act.span q.1 q.2.1 q.2.2 else Act.spanIn (h.spaceOf (i - mine.length)) q.1 q.2.1)
    (mine ++ r.arrays.map fun q => (q.1, q.2, .read))
  let tail ← Act.tail blk gs
  let at_ (i : Nat) : List Seg := (gs[i]?).getD []
  let n := tailR.length
  let flagS := at_ n
  let outS := (gs.drop (n + 3)).take outs.length
  let arrS := gs.drop mine.length
  Act.check ((outS.take 4).all onlyDevice && arrS.all onlyDevice) 2 xb
  -- the lists that the block names
  let fl ← Act.blockList 24 nf (at_ (n + 1))
  let pl ← Act.blockList 8 (peerR.2.1 / 8) (at_ (n + 2))
  let fs ← match fl with
    | .ok w => Act.fields xb w nf (kind = 1)
    | .error _ => pure []
  let peers ← match pl with
    | .ok w => Act.peers xb w (peerR.2.1 / 8)
    | .error _ => pure []
  -- mode 1 of MSGHOST moves no field: its descriptors only have to agree with the other parts' (R321, R324)
  let cells (n : Nat) := if kind = 2 ∧ mode = 1 then 0 else n
  let oldR : List Range := fs.map fun q => (q.2.1, cells r.nown * q.1, .read)
  let newR : List Range := fs.map fun q =>
    if kind = 1 then (q.2.2, f 0x60 8 * q.1, .write) else (q.2.1 + r.nown * q.1, cells r.nghost * q.1, .write)
  let ds ← Act.ranges (oldR ++ newR)
  let oldS := ds.take fs.length
  let newS := ds.drop fs.length
  let forced : Option Word := match fl, pl with
    | .error i, _ => some (statusWord 3 0 i)
    | _, .error i => some (statusWord 3 0 i)
    | _, _ => none
  let array (i capOff : Nat) : MeshArray :=
    ⟨(outs.getD i (0, 0)).1, (outS[i]?).getD [], if i = 0 then 1 else f capOff 8⟩
  let mesh ← Act.meshAt xa h arrS
  let s ← get
  let plan : JobPlan := {
    kind := kind, mode := mode, mesh := mesh, space := s.mySpace, newrec := array 0 0, forest := array 1 0x18,
    ghosts := array 2 0x30, gowner := array 3 0x30, remap := array 4 0x40, ccap := f 0x60 8, flags := flagS,
    fields := (fs.zip (oldS.zip newS)).map fun q => ⟨q.1.1, q.2.1, q.2.2⟩, peers := peers, forced := forced }
  let reads := flagS ++ oldS.flatten
  let writes := (outS ++ newS).flatten
  Act.grantReads reads
  Act.pushAll (writes.map (·.loc))
  Act.upd fun s =>
    (s.dispatchEngine h.h (scratchy (flagS :: (outS ++ oldS ++ newS)) tail) writes reads (.job plan) tail (runJob plan tail)).advance

/-- MSREFINE. -/
def execMsrefine (a b : Reg) (s : State) : Answer := Act.run false (meshJob 0 a b) s
/-- MSBAL. -/
def execMsbal (a b : Reg) (s : State) : Answer := Act.run false (meshJob 1 a b) s
/-- MSGHOST. -/
def execMsghost (a b : Reg) (s : State) : Answer := Act.run false (meshJob 2 a b) s

-- remapping a field (R325)

/-- TYPE of R226 as MSREMAP takes it: bytes, the floating format, whether an integer is signed. -/
def remapType (t : Nat) : Option (Nat × Option Fmt × Bool) :=
  match t with
  | 0 => some (8, some f64, false)
  | 1 => some (4, some f32, false)
  | 8 => some (8, none, true)
  | 9 => some (4, none, true)
  | 12 => some (8, none, false)
  | 13 => some (4, none, false)
  | _ => none

/-- The mean of 2^D values of a type and its flags (R325): the tree of R163 and one division, each step RNE; integers by
floor of the exact mean. -/
def remapMean (ty : Nat × Option Fmt × Bool) (xs : List Nat) : Nat × Nat :=
  match ty.2.1 with
  | some fmt =>
    let r := reduceTree (fun p q => fadd2 fmt rneMode (fmt.unpack p) (fmt.unpack q)) none (xs.map some)
    match fmt.unpack (r.1.getD 0) with
    | .fin neg m e =>
      let q := roundMag fmt rneMode false neg m (e - (Nat.log2 xs.length : Int)) false
      (q.1, r.2 ||| q.2)
    | _ => (r.1.getD 0, r.2)
  | none =>
    let w := 8 * ty.1
    let sum : Int := (xs.map fun x => if ty.2.2 then sextNat x w else ((x % 2 ^ w : Nat) : Int)).sum
    (wrapInt (sum.fdiv xs.length) w, 0)

/-- One record of a remap. -/
inductive RemapStep where
  /-- The cell is left as it is. -/
  | skip
  /-- The cell's bytes, with their flags. -/
  | cell (bs : List Byte) (flags : Nat)
  /-- The operation ends with this code. -/
  | stop (code : Nat)
  deriving DecidableEq, Repr

/-- The effect of record `rec` (R325); the dispatch has found its bits [25:0] zero (R6, R65). -/
def remapStep (ty : Nat × Option Fmt × Bool) (kids ncomp nold : Nat) (old : List Byte) (bad : Nat → Nat → Bool) (rec : Nat) :
    RemapStep :=
  let src := rec / 2 ^ 32
  let rel := bitsAt rec 29 3
  let cb := ncomp * ty.1
  let n := if rel = 2 then kids else 1
  if src = 0xFFFFFFFF then .skip
  else if 2 < rel ∨ nold ≤ src ∨ (rel = 2 ∧ nold < src + kids) then .stop 6
  else if bad (src * cb) (n * cb) then .stop 3
  else if rel ≠ 2 then .cell ((old.drop (src * cb)).take cb) 0
  else
    let val (t c : Nat) := natOfBytes ((old.drop ((src + t) * cb + c * ty.1)).take ty.1)
    let ms := (List.range ncomp).map fun c => remapMean ty ((List.range kids).map fun t => val t c)
    .cell (ms.flatMap fun m => bytesOf m.1 ty.1) (ms.foldl (fun a m => a ||| m.2) 0)

/-- The records from `n` on; cells below a stop are written (R325). -/
def State.remapFrom (ty : Nat × Option Fmt × Bool) (kids ncomp nold : Nat) (old : List Byte) (bad : Nat → Nat → Bool)
    (badRec : Nat → Bool) (new : List Seg) : Nat → Nat → List Nat → State → Word × State
  | n, flags, [], s => (statusWord 0 flags n, s)
  | n, flags, rec :: rs, s =>
    let cb := ncomp * ty.1
    if badRec n then (statusWord 3 flags n, s)
    else
      match remapStep ty kids ncomp nold old bad rec with
      | .skip => State.remapFrom ty kids ncomp nold old bad badRec new (n + 1) flags rs s
      | .stop code => (statusWord code flags n, s)
      | .cell bs fl =>
        State.remapFrom ty kids ncomp nold old bad badRec new (n + 1) (flags ||| fl) rs (s.segWrite (segsAt new (n * cb) cb) bs)

/-- MSREMAP begins (R325). -/
def runRemap (ty : Nat × Option Fmt × Bool) (kids ncomp nold nnew : Nat) (rec old new : List Seg) (tail : Option Loc × Option Loc)
    (o : EngineOp) (s : State) : Starts :=
  let bad (off n : Nat) := s.segsPoisoned (segsAt old off n)
  let badRec (i : Nat) := s.segsPoisoned (segsAt rec (8 * i) 8)
  let (w, t) := State.remapFrom ty kids ncomp nold (s.opBytes o.asks old) bad badRec new 0 0
    (fieldsOf (natOfBytes (s.opBytes o.asks rec)) 8 nnew) s
  o.results w none false tail t

/-- The remap records that an instruction presents (R6, R65): one whose reserved bits are not all zero raises bad operand handle,
poisoned ones aside, once no operation of the launch has still to write them. -/
def Act.checkRecords (x : Word) (n : Nat) (gs : List Seg) : Act Unit := do
  let s ← get
  Act.waitUntil (!(s.ops.any fun o => o.lid == s.hart.lid && gs.any fun g => o.toWrite.any (·.onPage g.loc)))
  let bs ← Act.pull gs
  let s ← get
  let recs := fieldsOf (natOfBytes bs) 8 n
  Act.check ((List.range n).all fun i =>
    bitsAt ((recs[i]?).getD 0) 0 26 == 0 || s.segsPoisoned (segsAt gs (8 * i) 8)) 2 x

/-- MSREMAP at dispatch (R325). -/
def msremap (a b : Reg) : Act Unit := do
  let s ← get
  let xb := s.rx b
  let h ← Act.meshHandle (s.rx a)
  Act.drain
  Act.granule
  let blk ← Act.block xb [(0x29, 3), (0x30, 0xB0)]
  let f := blockField blk
  match remapType (f 0x28 1) with
  | none => Act.trap 2 xb
  | some ty =>
    let ncomp := f 0x2C 4
    let cb := ncomp * ty.1
    let oldB := (f 0x10 8, f 0x18 8 * cb)
    let newB := (f 0x20 8, f 0x08 8 * cb)
    Act.check (1 ≤ ncomp && ncomp ≤ 64 && f 0 8 % 8 == 0 && f 0x10 8 % ty.1 == 0 && f 0x20 8 % ty.1 == 0
      && !clash oldB newB) 2 xb
    let tailR := blockRanges xb blk
    let gs ← Act.ranges (tailR ++ [(f 0 8, 8 * f 0x08 8, .read), (oldB.1, oldB.2, .read), (newB.1, newB.2, .write)])
    let tail ← Act.tail blk gs
    let at_ (i : Nat) := (gs[tailR.length + i]?).getD []
    Act.grantReads (at_ 0 ++ at_ 1)
    Act.checkRecords xb (f 0x08 8) (at_ 0)
    Act.pushAll ((at_ 2).map (·.loc))
    let work : Work := .remap (f 0x28 1) h.mesh.nkids ncomp (f 0x18 8) (f 0x08 8) (at_ 0) (at_ 1) (at_ 2)
    Act.upd fun s =>
      (s.dispatchEngine h.h (scratchy gs tail) (at_ 2) (at_ 0 ++ at_ 1) work tail
        (runRemap ty h.mesh.nkids ncomp (f 0x18 8) (f 0x08 8) (at_ 0) (at_ 1) (at_ 2) tail)).advance

/-- MSREMAP. -/
def execMsremap (a b : Reg) (s : State) : Answer := Act.run false (msremap a b) s

-- colouring (R326, R327)

/-- The smallest colour that none of some colours is. -/
def leastFree (used : List Nat) : Nat := ((List.range (used.length + 1)).find? fun c => !used.contains c).getD 0

/-- Greedy colours of elements [0, n), ascending, below `maxc`; or the first element that needs `maxc` (R327). -/
def greedy (maxc : Nat) (conflict : Nat → Nat → Bool) : Nat → Except Nat (List Nat)
  | 0 => .ok []
  | i + 1 =>
    match greedy maxc conflict i with
    | .error e => .error e
    | .ok cs =>
      let c := leastFree ((List.range i).filterMap fun j => if conflict i j then cs[j]? else none)
      if maxc ≤ c then .error i else .ok (cs ++ [c])

/-- LISTS: elements by ascending colour, ascending within a colour. -/
def colourLists (cs : List Nat) : List Nat :=
  (List.range 64).flatMap fun c => (List.range cs.length).filter fun i => cs[i]? == some c

/-- OFFS: 65 offsets into LISTS. -/
def colourOffs (cs : List Nat) : List Nat :=
  (List.range 65).map fun c => (cs.filter (· < c)).length

/-- How many colours are used. -/
def colourCount (cs : List Nat) : Nat := (cs.map (· + 1)).foldl max 0

/-- Elements and conflicts, or the status with which the operation ends. -/
abbrev Conflicts := Except Word (Nat × (Nat → Nat → Bool))

/-- Conflicts of MODE 0 and MODE 1 (R326). -/
def meshConflicts (mode : Nat) (m : MeshData) : Nat × (Nat → Nat → Bool) :=
  if mode = 0 then
    (m.locals.length, fun i j => match m.locals[i]?, m.locals[j]? with
      | some a, some b => m.touch a b
      | _, _ => false)
  else
    let es := m.faceStream
    let ends (i : Nat) := let e := (es[2 * i]?).getD 0; [e / 2 ^ 32, e % 2 ^ 32]
    (es.length / 2, fun i j => (ends i).any fun x => (ends j).contains x)

/-- Row v of a graph, checked (R326): its entries, or the code with which the operation ends at v. -/
def graphRow (n ne : Nat) (rp : Nat → Nat) (badRp : Nat → Bool) (ci : Nat → Nat) (badCi : Nat → Bool) (v : Nat) :
    Except Word (List Nat) :=
  if badRp v ∨ badRp (v + 1) then .error (statusWord 3 0 v)
  else if rp (v + 1) < rp v ∨ ne < rp (v + 1) then .error (statusWord 6 0 v)
  else
    let es := (List.range (rp (v + 1) - rp v)).map (· + rp v)
    if es.any badCi then .error (statusWord 3 0 v)
    else if es.any fun e => n ≤ ci e then .error (statusWord 6 0 v)
    else .ok (es.map ci)

/-- Conflicts of MODE 2. -/
def graphConflicts (n ne : Nat) (rp : Nat → Nat) (badRp : Nat → Bool) (ci : Nat → Nat) (badCi : Nat → Bool) : Conflicts := do
  let rows ← (List.range n).mapM fun v => graphRow n ne rp badRp ci badCi v
  let lists (i j : Nat) := ((rows[i]?).getD []).contains j
  .ok (n, fun i j => i != j && (lists i j || lists j i))

/-- The open handle that MSCOLOR names: x[a] may be 0 in graph mode (R326). The mode is that of the block. -/
def Act.colourHandle (x : Word) : Act (Option MeshHandle) := do
  if x = 0 then pure none
  else do
    let h ← Act.meshHandle x
    pure (some h)

/-- The outputs of a colouring: COLOURS, LISTS and OFFS, and how it ends (R326, R327). `room` is how many elements they can hold. -/
def State.putColours (s : State) (maxc room : Nat) (out : List (List Seg)) (conf : Conflicts) : Word × State :=
  match conf with
  | .error w => (w, s)
  | .ok (n, c) =>
    if room < n then (statusWord 6 0 room, s)
    else
      match greedy maxc c n with
      | .error i => (statusWord 2 0 i, s)
      | .ok cs =>
        let put (s : State) (i : Nat) (bs : List Byte) : State := s.segWrite (segsAt ((out[i]?).getD []) 0 bs.length) bs
        let s := put s 0 (packed 1 cs)
        let s := put s 1 (packed 4 (colourLists cs))
        let s := put s 2 (packed 4 (colourOffs cs))
        (statusWord 0 0 (colourCount cs), s)

/-- MSCOLOR over a mesh begins. -/
def runColourMesh (mode maxc room : Nat) (mesh : MeshAt) (out : List (List Seg)) (tail : Option Loc × Option Loc)
    (o : EngineOp) (s : State) : Starts :=
  let conf : Conflicts := match s.meshOf (s.meshNow o mesh) (fun m => (meshConflicts mode m).1 ≤ room) with
    | some m => .ok (meshConflicts mode m)
    | none => .error (statusWord 3 0 0)
  let (w, t) := s.putColours maxc room out conf
  o.results w none false tail t

/-- MSCOLOR over a graph begins. -/
def runColourGraph (maxc n ne : Nat) (row col : List Seg) (out : List (List Seg)) (tail : Option Loc × Option Loc)
    (o : EngineOp) (s : State) : Starts :=
  let rows := fieldsOf (natOfBytes (s.opBytes o.asks row)) 8 (n + 1)
  let cols := fieldsOf (natOfBytes (s.opBytes o.asks col)) 4 ne
  let conf := graphConflicts n ne (fun i => (rows[i]?).getD 0) (fun i => s.segsPoisoned (segsAt row (8 * i) 8))
    (fun i => (cols[i]?).getD 0) (fun i => s.segsPoisoned (segsAt col (4 * i) 4))
  let (w, t) := s.putColours maxc n out conf
  o.results w none false tail t

/-- MSCOLOR at dispatch (R326, R327). -/
def mscolor (a b : Reg) : Act Unit := do
  let s ← get
  let xa := s.rx a
  let xb := s.rx b
  let h ← Act.colourHandle xa
  Act.drain
  Act.granule
  let blk ← Act.block xb [(1, 3), (5, 3), (0x38, 0xA8)]
  let f := blockField blk
  let mode := f 0 1
  Act.check (h.isSome || 2 ≤ mode) 2 xa
  Act.check (mode ≤ 2 && 1 ≤ f 4 1 && f 4 1 ≤ 64 && f 0x10 8 % 4 == 0 && f 0x18 8 % 4 == 0
    && (if mode = 2 then 1 ≤ f 0x20 8 && f 0x20 8 < 2 ^ 32 && f 0x28 8 % 8 == 0 && f 0x30 8 % 4 == 0
        else f 0x20 8 == 0)) 2 xb
  let n0 := f 0x20 8
  let maxc := f 4 1
  let handle := (h.map (·.h)).getD 0
  let tailR := blockRanges xb blk
  let outR (n : Nat) : List Range := [(f 0x08 8, n, .write), (f 0x10 8, 4 * n, .write), (f 0x18 8, 260, .write)]
  match mode, h with
  | 2, _ => do
    let ne ← Act.fetchRange ((f 0x28 8 + 8 * n0) % 2 ^ 64) 8
    let row ← Act.span (f 0x28 8) (8 * (n0 + 1)) .read
    let col ← Act.span (f 0x30 8) (4 * ne) .read
    let outS ← (outR n0).mapM fun r => Act.span r.1 r.2.1 r.2.2
    let gt ← Act.ranges tailR
    let tail ← Act.tail blk gt
    Act.grantReads (row ++ col)
    Act.pushAll (outS.flatten.map (·.loc))
    Act.upd fun s =>
      (s.dispatchEngine handle (scratchy (row :: col :: outS) tail) outS.flatten (row ++ col)
        (.colourGraph maxc n0 ne row col outS) tail (runColourGraph maxc n0 ne row col outS tail)).advance
  | _, none => Act.trap 2 xa
  | _, some h => do
    let n := (meshConflicts mode h.data).1
    let mine : List Range := tailR ++ outR n
    let gs ← Act.rangesBy (fun i q =>
        if i < mine.length then Act.span q.1 q.2.1 q.2.2 else Act.spanIn (h.spaceOf (i - mine.length)) q.1 q.2.1)
      (mine ++ h.mesh.arrays.map fun q => (q.1, q.2, .read))
    let tail ← Act.tail blk gs
    let outS := (gs.drop tailR.length).take 3
    let arrS := gs.drop mine.length
    Act.check (arrS.all onlyDevice) 2 xa
    let mesh ← Act.meshAt xa h arrS fun m => (meshConflicts mode m).1 ≤ n
    Act.pushAll (outS.flatten.map (·.loc))
    Act.upd fun s =>
      (s.dispatchEngine handle (scratchy (gs.take mine.length) tail) outS.flatten [] (.colourMesh mode maxc n mesh outS) tail
        (runColourMesh mode maxc n mesh outS tail)).advance

/-- MSCOLOR. -/
def execMscolor (a b : Reg) (s : State) : Answer := Act.run false (mscolor a b) s

end Sys2Proof.Machine
end

