-- ==== Sys2Proof/Machine/EngineRun.lean ====
section
/-!
DEFINITION. What an engine does after a dispatch: an operation whose turn has come begins, one whose results stand completes
(ENGINE_OPERATION_COMPLETE), and one that its launch does not outlive is stopped (ENGINE_OPERATION_STOP).
-/

namespace Sys2Proof.Machine

/-- The work of an operation as it begins. -/
def Work.run (w : Work) (o : EngineOp) (tail : Option Loc × Option Loc) (s : State) : Starts :=
  match w with
  | .settled word => runSettled word ((s.gibbsNow o).isSome) tail o s
  | .copy sig src dst => runCopy sig src dst o s
  | .repack sig mode w count sgn src old dst => runRepack sig mode w count sgn src old dst o s
  | .rows k n src dst => runRows k n src dst o s
  | .put sig addr node pa src => runPut sig addr node pa src o s
  | .job p => runJob p tail o s
  | .remap ty kids ncomp nold nnew rec old new =>
    match remapType ty with
    | some t => runRemap t kids ncomp nold nnew rec old new tail o s
    | none => o.results (statusWord 6 0 0) none false tail s
  | .colourMesh mode maxc room m out => runColourMesh mode maxc room m out tail o s
  | .colourGraph maxc n ne row col out => runColourGraph maxc n ne row col out tail o s
  | .sweep n base seed graph => runSweep n base seed graph tail o s
  | .read marg clr dst => runRead marg clr dst tail o s

/-- An operation that waits begins, on behalf of its launch (R309). -/
def State.beginOp (s : State) (o : EngineOp) (w : Work) (tail : Option Loc × Option Loc) : State :=
  let r := w.run o tail (s.withHart fun h => { h with lid := o.lid })
  { r.1 with
    hart := { r.1.hart with lid := s.hart.lid }
    ops := r.1.ops.map fun q =>
      if q.id = o.id then { q with kind := r.2.1, writes := r.2.2, sent := r.1.tagsFrom s } else q }

/-- ENGINE_OPERATION_COMPLETE (R309, R310, R311, R315, R319): an operation whose results stand completes; one that waits begins when
its turn has come. -/
def execEngineOperationComplete (op : Nat) (s : State) : Answer :=
  match s.ops.find? fun o => o.id = op with
  | none => .next s
  | some o =>
    match o.kind with
    | .engine word status done mesh isGibbs =>
      .next (if s.performed o.sent then s.completeOp o word status done mesh isGibbs else s)
    | .waits w status done => .next (if s.opTurn (s.opsBefore o) o then s.beginOp o w (status, done) else s)
    | _ => .next s

/-- ENGINE_OPERATION_STOP (R411): an operation that does not outlive its launch is stopped, with no completion; a remote
copy is abandoned (R381). -/
def execEngineOperationStop (op : Nat) (s : State) : Answer :=
  match s.ops.find? fun o => o.id = op with
  | none => .next s
  | some o =>
    match s.launch? o.lid with
    | none => .next s
    | some l =>
      if !isFinal l.state || (l.state == 8 && !o.scratch) then .next s
      else
        match o.kind.remoteSignal with
        | some sig => .next ((s.weirLost sig).endOp op)
        | none => .next (s.endOp op)

end Sys2Proof.Machine
end

