-- ==== Sys2Proof/Machine/Farms.lean ====
section
/-!
DEFINITION. Strip farms: FARM, STRIP and FARMRED (R97, R98, R201 to R204), and the events FARM_BARRIER_RELEASE and
FARMRED_RESULT.
-/

namespace Sys2Proof.Machine

/-- The farm of hart j of a launch: floor(j * FARMS / HARTS), or its own when FARMS is 0 (R31). -/
def Launch.farmOf (l : Launch) (j : Nat) : Nat := if l.farms = 0 then j else j * l.farms / l.harts

/-- Indices of the harts of a farm. -/
def Launch.farmHarts (l : Launch) (f : Nat) : List Nat := (List.range l.harts).filter fun j => l.farmOf j = f

/-- The dispenser of the acting hart's farm; harts 0 to 15 have one each. -/
def State.myFarm (s : State) : Farm :=
  match s.myLaunch with
  | some l => (l.farm[l.farmOf s.hart.j]?).getD Farm.empty
  | none => (s.lu.ownFarms[s.hart.hid]?).getD Farm.empty

/-- Change it. -/
def State.updFarm (s : State) (g : Farm → Farm) : State :=
  match s.myLaunch with
  | some l => s.updLaunch l.lid fun l => { l with farm := l.farm.modify (l.farmOf s.hart.j) g }
  | none =>
    let i := s.hart.hid
    { s with lu := { s.lu with ownFarms := s.lu.ownFarms.setIfInBounds i (g ((s.lu.ownFarms[i]?).getD Farm.empty)) } }

/-- Indices of the harts whose arrival the acting hart's farm needs. -/
def State.myFarmHarts (s : State) : List Nat :=
  match s.myLaunch with
  | some l => l.farmHarts (l.farmOf s.hart.j)
  | none => [s.hart.j]

/-- Strips of a loop (R97). -/
def stripsOf (n l : Nat) : Nat := ceilDiv n l

/-- Open the loop that every hart has arrived at: the previous loop's strips, deposits and result go (R201). -/
def Farm.opened (f : Farm) : Farm :=
  { f with gen := f.gen + 1, n := f.arrN, l := f.arrL, next := 0, arrived := [], op := none, deposits := [] }

/-- The operand of a FARM that breaks its checks, in their order (R201): true for x[a]. `first` holds N and L of the first arrival of
its generation. -/
def farmRefuses (first : Option (Nat × Nat)) (n l : Nat) : Option Bool :=
  if l = 0 then some false
  else if 2 ^ 24 < stripsOf n l then some true
  else if first.any fun p => n != p.1 then some true
  else if first.any fun p => l != p.2 then some false
  else none

/-- N and L of the first arrival of the generation that a hart's FARM is of. -/
def Farm.first (f : Farm) (gen : Nat) : Option (Nat × Nat) :=
  if gen < f.gen then some (f.n, f.l) else if f.arrived = [] then none else some (f.arrN, f.arrL)

/-- FARM completes for the acting hart. -/
def State.passFarm (s : State) : State :=
  s.advance.withHart fun h => { h with farmGen := h.farmGen + 1, run := .ready }

/-- Events that wake the harts which wait in a farm's barrier. -/
def State.releaseEvents (s : State) : List Instr :=
  match s.myLaunch with
  | some l => if (l.farmHarts (l.farmOf s.hart.j)).length ≤ 1 then [] else [.farmBarrierRelease l.lid (l.farmOf s.hart.j)]
  | none => []

/-- FARM on the acting hart (R201). -/
def farmArrive (a b : Reg) (s : State) : Answer :=
  let f := s.myFarm
  let n := (s.rx a).toNat
  let l := (s.rx b).toNat
  match farmRefuses (f.first s.hart.farmGen) n l with
  | some true => .next (takeTrap true 2 (s.rx a) 0 s)
  | some false => .next (takeTrap true 2 (s.rx b) 0 s)
  | none =>
    if s.hart.farmGen < f.gen then .next s.passFarm
    else if f.arrived.contains s.hart.j then .next (s.stall false)
    else
      let s := s.updFarm fun f => { f with arrived := f.arrived ++ [s.hart.j], arrN := n, arrL := l }
      if s.myFarmHarts.all s.myFarm.arrived.contains then
        .next (((s.updFarm Farm.opened).post s.releaseEvents).passFarm)
      else .next (s.stall false)

/-- FARM: older accesses of the hart have performed; it waits for stores to devices and hosts (R201). -/
def execFarm (a b : Reg) (s : State) : Answer :=
  if s.hart.unacked.isEmpty then farmArrive a b s else .next (s.stall false)

/-- STRIP (R97, R202): x[d] first, then x[a]. -/
def execStrip (d a : Reg) (s : State) : Answer :=
  let f := s.myFarm
  if f.gen = 0 then .next (((s.wx d 0).wx a 0).advance)
  else if f.next < stripsOf f.n f.l then
    let start := f.next * f.l
    let s := s.updFarm fun f => { f with next := f.next + 1 }
    .next (((s.wx d (wordOfNat start)).wx a (wordOfNat (min f.n (start + f.l) - start))).advance)
  else .next (((s.wx d (wordOfNat f.n)).wx a 0).advance)

/-- The identity results and the tree of FARMRED (R203): operation 0 addition, 1 minimum, 2 maximum, 3 integer
addition. -/
def farmResult (op : Nat) (xs : List Word) : Word × Nat :=
  let tree (f : Nat → Nat → Nat × Nat) (id_ : Nat) : Word × Nat :=
    let (r, fl) := reduceTree f none (xs.map fun x => some x.toNat)
    (wordOfNat (r.getD id_), fl)
  match op with
  | 0 => tree (fun x y => fadd2 f64 rneMode (f64.unpack x) (f64.unpack y)) 0
  | 1 => tree (fminmax f64 false) f64.infPat
  | 2 => tree (fminmax f64 true) (f64.signed true f64.infPat)
  | _ => (xs.foldl (· + ·) 0, 0)

/-- The partials in strip order, when all are deposited. -/
def Farm.partials (f : Farm) : Option (List Word) :=
  (List.range (stripsOf f.n f.l)).mapM fun k => (f.deposits.find? fun p => p.1 = k).map (·.2)

/-- FARMRED (R203). One that names another operation than the loop's first raises bad operand handle with TVAL x[b] (DESIGN CHOICE:
log 75). -/
def farmred (op : Nat) (d a b : Reg) (s : State) : Answer :=
  let f := s.myFarm
  let x := (s.rx b).toNat
  let bad : Answer := .next (takeTrap true 2 (s.rx b) 0 s)
  if f.gen = 0 then bad
  else if f.op.isSome ∧ f.op ≠ some op then bad
  else if x = f.n then
    let s := s.updFarm fun f => { f with op := some op }
    match f.partials with
    | none => .next (s.stall false)
    | some xs =>
      let (r, fl) := farmResult op xs
      .next (((s.raise fl).done1 d r).withHart fun h => { h with run := .ready })
  else if x < f.n ∧ x % f.l = 0 ∧ !(f.deposits.any fun p => p.1 = x / f.l) then
    .next ((s.updFarm fun f => { f with op := some op, deposits := f.deposits ++ [(x / f.l, s.rx a)] }).done1 d 0)
  else bad

/-- FARMRED.f64. -/
def execFarmredF64 (d a b : Reg) (s : State) : Answer := farmred 0 d a b s
/-- FARMRED.f64.min. -/
def execFarmredMin (d a b : Reg) (s : State) : Answer := farmred 1 d a b s
/-- FARMRED.f64.max. -/
def execFarmredMax (d a b : Reg) (s : State) : Answer := farmred 2 d a b s
/-- FARMRED.i64. -/
def execFarmredI64 (d a b : Reg) (s : State) : Answer := farmred 3 d a b s

/-- FARM and FARMRED as words that a waiting hart may stand at. -/
def farmWord (w : BitVec 32) : Option (State → Answer) :=
  if wordMajor w = 0x1D ∧ wordOp w = 3 then some (execFarm (wordA w) (wordB w)) else none

/-- FARMRED among the words that a waiting hart may stand at. -/
def farmredWord (w : BitVec 32) : Option (State → Answer) :=
  if wordMajor w = 0x1D ∧ wordOp w = 5 then
    some (farmred (w.extractLsb' 3 3).toNat (wordD w) (wordA w) (wordB w))
  else none

/-- Wake several harts one after another. -/
def wakeAll (sel : BitVec 32 → Option (State → Answer)) : List Nat → State → Answer
  | [], s => .next s
  | h :: hs, s =>
    match wake h sel s with
    | .next t => wakeAll sel hs t
    | r => r

/-- FARM_BARRIER_RELEASE (R201): the harts of the farm that wait in FARM complete it once its loop is open. -/
def execFarmBarrierRelease (lid farm : Nat) (s : State) : Answer :=
  match s.launch? lid with
  | none => .next s
  | some l =>
    wakeAll farmWord ((s.placed.filter fun h => h.lid = lid ∧ l.farmOf h.j = farm).map (·.hid)) s

/-- FARMRED_RESULT (R98, R203): a wait call returns once every partial is deposited. -/
def execFarmredResult (hid : Nat) (s : State) : Answer := wake hid farmredWord s

end Sys2Proof.Machine
end

