-- ==== Sys2Proof/Machine/Service.lean ====
section
/-!
DEFINITION. Management (R418 to R422): the commands of a port's management region as events, ATTEST, KEYSET_INSTALL,
KEYSET_CLEAR, JCLEAR, JREAD, LOGREAD, SPACE_BIND, SPACE_UNBIND and UNKNOWN_CODE (R397, R419).
-/

namespace Sys2Proof.Machine

/-- A field of a port's management region. -/
def State.mgmt (s : State) (port off n : Nat) : Nat := s.memNat (Config.mgmt port + off) n

/-- The device writes a field of a port's management region. -/
def State.putMgmt (s : State) (port off : Nat) (bs : List Byte) : State :=
  s.segWrite [⟨.dev (Config.mgmt port + off) false, bs.length⟩] bs

/-- A command waits for its answer (R418). -/
def State.asked (s : State) (port : Nat) : Bool :=
  port < 2 && s.svc.power != .off && s.mgmt port 0 8 != s.mgmt port 8 8

/-- A value that no MNONCE has had (R418): the first such one from a free value on. -/
def State.newNonce (s : State) : Nat :=
  let first := Config.freshNonce s.draw
  (((List.range (s.svc.nonces.length + 1)).map fun k => (first + k) % 2 ^ 64).find? fun n => !s.svc.nonces.contains n).getD 0

/-- A new MNONCE of a port (R418), which the device keeps beside the field that shows it. -/
def State.renewNonce (s : State) (port : Nat) : State :=
  let n := s.newNonce
  let s := s.putMgmt port 0x18 (bytesOf n 8)
  { s with
    svc := { s.svc with mnonce := s.svc.mnonce.setIfInBounds port n, nonces := n :: s.svc.nonces }
    draw := s.draw + 1 }

/-- The answer to a command (R418): DATA, RESULT, a new MNONCE, and RSPSEQ last. -/
def State.answer (s : State) (port result : Nat) (data : List Byte) : State :=
  let s := s.putMgmt port 0x140 data
  let s := (s.putMgmt port 0x14 (bytesOf result 4)).renewNonce port
  s.putMgmt port 8 (bytesOf (s.mgmt port 0 8) 8)

/-- IDKEY (R418): the field of each port's region reads as the public identity key, whatever was written there. -/
def idkeyByte (a : Nat) (b : Byte) : Byte :=
  match [0, 1].find? fun p => Config.mgmt p + 0x20 ≤ a && a < Config.mgmt p + 0x40 with
  | some p => (bytesOf (edPublic Config.identitySeed) 32).getD (a - (Config.mgmt p + 0x20)) 0
  | none => b

/-- Bytes of device memory as a host port reads them. -/
def State.hostBytes (s : State) (pa n : Nat) : List Byte :=
  (List.range n).map fun i => idkeyByte (pa + i) (cellAt s.mem (pa + i))

/-- Handle a command with a CODE: its result, its data and its effect. -/
def State.command (s : State) (port code : Nat) (f : State → Nat × List Byte × State) : Answer :=
  if s.asked port && s.mgmt port 0x10 4 == code then
    let (result, data, t) := f s
    .next (t.answer port result data)
  else .next s

/-- A signed command is accepted (R418): the signature by the key in slot 0 over the digest of CODE and ARGS, and the current
MNONCE. -/
def State.signed (s : State) (port : Nat) : Bool :=
  match s.lu.keys[0]?.join with
  | none => false
  | some k =>
    let msg := bytesOf (s.mgmt port 0x10 4) 4 ++ bytesOf (s.mgmt port 0x80 128) 128
    s.mgmt port 0xF8 8 == (s.svc.mnonce[port]?).getD 0 && edVerify k (sha512 msg) (bytesOf (s.mgmt port 0x100 64) 64)

/-- A journal entry's 16 bytes (R416). -/
def JEntry.bytes (e : JEntry) : List Byte :=
  bytesOf e.step 1 ++ bytesOf e.unit 1 ++ bytesOf e.outcome 1 ++ bytesOf e.alt 1 ++ bytesOf e.boot 4 ++ bytesOf e.detail 8

/-- A service-log entry's 32 bytes (R420). -/
def SEntry.bytes (e : SEntry) : List Byte :=
  bytesOf e.kind 1 ++ bytesOf 0 7 ++ bytesOf e.clock 8 ++ bytesOf e.place 8 ++ bytesOf e.detail 8

/-- The first 256 bytes of an attestation report (R422). -/
def State.reportHead (s : State) (nonce : Nat) : List Byte :=
  bytesOf 0x54545441 4 ++ bytesOf 1 2 ++ bytesOf 0 2 ++ bytesOf s.svc.bootCount 8
    ++ bytesOf nonce 32 ++ bytesOf Config.serial 16 ++ bytesOf Config.firmwareDigest 64
    ++ sha512 (s.lu.keys.toList.map fun k => bytesOf (k.getD 0) 32).flatten
    ++ sha512 (s.svc.journal.map JEntry.bytes).flatten

/-- ATTEST (R419, R422). -/
def execAttest (port : Nat) (s : State) : Answer :=
  s.command port 1 fun s =>
    let head := s.reportHead (s.mgmt port 0x80 32)
    (0, head ++ edSign Config.identitySeed (sha512 head), s)

/-- KEYSET on a slot with a key or none, after its checks (R419, R421). -/
def State.keyset (s : State) (port : Nat) (key : Option Nat) (inRange : Bool) : Nat × List Byte × State :=
  let slot := s.mgmt port 0x80 1
  if s.svc.bootStopped then (4, [], s)
  else if !s.signed port then (2, [], s)
  else if 7 < slot || !inRange then (3, [], s)
  else (0, [], { s with lu := { s.lu with keys := s.lu.keys.setIfInBounds slot key } })

/-- KEYSET_INSTALL (R419). -/
def execKeysetInstall (port : Nat) (s : State) : Answer :=
  if s.mgmt port 0x81 1 ≠ 1 then .next s
  else s.command port 2 fun s => s.keyset port (some (s.mgmt port 0x88 32)) true

/-- KEYSET_CLEAR (R419): slot 0 cannot be cleared; an operation that is neither 0 nor 1 is out of range. -/
def execKeysetClear (port : Nat) (s : State) : Answer :=
  if s.mgmt port 0x81 1 = 1 then .next s
  else s.command port 2 fun s => s.keyset port none (s.mgmt port 0x81 1 == 0 && s.mgmt port 0x80 1 != 0)

/-- JCLEAR (R419): it takes effect at the next boot. -/
def execJclear (port : Nat) (s : State) : Answer :=
  s.command port 3 fun s =>
    if !s.signed port then (2, [], s) else (0, [], { s with svc := { s.svc with clearJournal := true } })

/-- JREAD (R419). -/
def execJread (port : Nat) (s : State) : Answer :=
  s.command port 4 fun s =>
    let i := s.mgmt port 0x80 4
    let n := s.svc.journal.length
    if n < i then (3, [], s)
    else
      let es := (s.svc.journal.drop i).take 200
      (0, bytesOf es.length 4 ++ bytesOf n 4 ++ (es.map JEntry.bytes).flatten, s)

/-- LOGREAD (R419, R420). -/
def execLogread (port : Nat) (s : State) : Answer :=
  s.command port 5 fun s =>
    let i := s.mgmt port 0x80 8
    if s.svc.log.length < i then (3, [], s)
    else
      let es := (s.svc.log.drop i).take 100
      (0, bytesOf es.length 4 ++ bytesOf 0 4 ++ bytesOf s.svc.logged 8 ++ (es.map SEntry.bytes).flatten, s)

/-- The lowest ASID that no bound pair holds, above the firmware's own (R397). -/
def State.freeAsid (s : State) : Option Nat :=
  let used := s.lu.bindings.map (·.asid)
  ((List.range (used.length + 1)).map (Config.firstAsid + ·)).find? fun a => a < 65536 && !used.contains a

/-- SPACE_BIND (R397, R419). -/
def execSpaceBind (port : Nat) (s : State) : Answer :=
  if s.mgmt port 0x80 1 ≠ 0 then .next s
  else
    s.command port 6 fun s =>
      let pasid := s.mgmt port 0x84 4 % 2 ^ 20
      let root := s.mgmt port 0x88 8
      if s.svc.bootStopped then (4, [], s)
      else if root % 4096 ≠ 0 ∨ 2 ^ 39 ≤ root then (3, [], s)
      else if (s.bindingOf port pasid).isSome then (4, [], s)
      else
        match s.freeAsid with
        | none => (5, [], s)
        | some a => (0, bytesOf a 2, { s with lu := { s.lu with bindings := s.lu.bindings ++ [⟨port, pasid, a, root⟩] } })

/-- SPACE_UNBIND (R397, R419): refused while a launch of the pair is not final; the pair's translations go. An operation that is neither 0 nor 1 is out
of range. -/
def execSpaceUnbind (port : Nat) (s : State) : Answer :=
  if s.mgmt port 0x80 1 = 0 then .next s
  else
    s.command port 6 fun s =>
      let pasid := s.mgmt port 0x84 4 % 2 ^ 20
      if s.svc.bootStopped then (4, [], s)
      else if s.mgmt port 0x80 1 ≠ 1 then (3, [], s)
      else if (s.bindingOf port pasid).isNone || (s.live.any fun l => l.port == port && l.pasid == pasid) then (4, [], s)
      else (0, [], { s with
        ats := s.ats.filter fun e => !(e.port == port && e.pasid == pasid)
        tlb := s.tlb.filter fun c => !(bitsAt c.leaf 8 1 == 0 && (s.bindingOf port pasid).any (·.asid == c.asid))
        lu := { s.lu with bindings := s.lu.bindings.filter fun b => !(b.port == port && b.pasid == pasid) } })

/-- UNKNOWN_CODE (R419): RESULT 0x1. -/
def execUnknownCode (port : Nat) (s : State) : Answer :=
  let code := s.mgmt port 0x10 4
  if 1 ≤ code ∧ code ≤ 6 then .next s else s.command port code fun s => (1, [], s)

/-- What posted cards and commands call for (R68, R418): slots in ascending order, port 0 first. -/
def State.hostWork (s : State) : List Instr :=
  ([0, 1].flatMap fun p =>
    ((List.range 64).filter fun k => (s.postmap p).testBit k).map fun k => Instr.handlePostedSlot p k)
  ++ (([0, 1].filter s.asked).map fun p =>
    match s.mgmt p 0x10 4 with
    | 1 => Instr.attest p
    | 2 => if s.mgmt p 0x81 1 = 1 then .keysetInstall p else .keysetClear p
    | 3 => .jclear p
    | 4 => .jread p
    | 5 => .logread p
    | 6 => if s.mgmt p 0x80 1 = 0 then .spaceBind p else .spaceUnbind p
    | _ => .unknownCode p)

end Sys2Proof.Machine
end

