-- ==== Sys2Proof/Machine/Progress.lean ====
section
/-!
DEFINITION. Progress words and watermarks: major 0x33 (R287, R288, R290), and the events PUBLICATION_APPLY and
VWMWAIT_WAKE.
-/

namespace Sys2Proof.Machine

/-- The value of a progress word. -/
def State.progress (s : State) (word : Loc) : Nat := s.progressAt word

/-- Apply a publication at the word's home: the word only rises, and saturates (R288). -/
def State.applyPub (s : State) (p : Publication) : State :=
  let w := s.progress p.word
  let v := min (p.base + p.n) (2 ^ 64 - 1)
  if w < v then s.setWord p.word v else s.moves .atomic false p.word 8

/-- A publication of count n (R288): applied when the word has reached BASE, else held. -/
def State.publish (s : State) (word : Loc) (base n : Nat) : State :=
  let p : Publication := ⟨word, base, n⟩
  if base ≤ s.progress word then s.applyPub p
  else if s.pubs.contains p then s
  else { s with pubs := s.pubs ++ [p] }

/-- The last publication of the acting hart's instruction; one that is held is all that it waits for from then on. -/
def State.publishOwn (s : State) (word : Loc) (base n : Nat) : State :=
  let t := s.publish word base n
  if base ≤ s.progress word then t else t.withBegun fun b => { b with pub := some ⟨word, base, n⟩ }

/-- Wait until the instruction's publication has been applied (R288). -/
def Act.applied : Act Unit := do
  let s ← get
  Act.waitUntil (s.hart.begun.pub.all fun p => !s.pubs.contains p)

/-- PUBLICATION_APPLY (R288): a held publication whose word has reached BASE. -/
def execPublicationApply (idx : Nat) (s : State) : Answer :=
  match s.pubs[idx]? with
  | none => .next s
  | some p =>
    .next (if p.base ≤ s.progress p.word then ({ s with pubs := s.pubs.eraseIdx idx }).applyPub p else s)

/-- BASE of a watermark. -/
def Hart.wmBase (h : Hart) (k : Num3) : Nat := ((h.wm[k.toNat]?).getD 0).toNat

/-- The binding of a watermark. -/
def Hart.binding (h : Hart) (k : Num3) : WmBinding := (h.wmb[k.toNat]?).getD ⟨0, 0⟩

/-- A watermark that an instruction uses must be bound (R287). -/
def Act.bound (k : Num3) : Act Nat := do
  let s ← get
  let b := s.hart.binding k
  Act.check (b.addr ≠ 0) 2 (k.setWidth 64)
  pure b.addr.toNat

/-- Translate a watermark's progress word, which lies in memory of the package (R287, R289): a word of the scratchpad too, and one
of the capability window for a read (DESIGN CHOICE: log 35). -/
def Act.wordPlace (va : Nat) (acc : Access) : Act Loc := do
  let loc ← Act.reach va acc true
  Act.check (!loc.outside) accessFault (wordOfNat va)
  pure loc

/-- VWMBIND (R290). -/
def execVwmbind (d : Num3) (a : Reg) (s0 : Num3) (s : State) : Answer :=
  let x := s.rx a
  Act.run false (do
    Act.granule
    Act.check (x.toNat % 8 == 0) 3 x
    Act.upd fun s => (s.withHart fun h => { h with wmb := h.wmb.setIfInBounds d.toNat ⟨x, s0⟩ }).advance) s

/-- VWMADDR (R287, R290). -/
def execVwmaddr (d : Reg) (a : Num3) (s : State) : Answer :=
  Act.run false (do
    Act.granule
    let _ ← Act.bound a
    Act.upd fun s => s.done1 d ((s.hart.binding a).addr ||| (s.hart.binding a).sc.setWidth 64)) s

/-- VWMPUB (R288, R290): it completes when its publication is applied. -/
def execVwmpub (d : Num3) (a : Reg) (s : State) : Answer :=
  Act.run false (do
    if s.hart.begun.pub.isNone then
      Act.granule
      let va ← Act.bound d
      Act.drain
      let loc ← Act.wordPlace va .write
      let _ ← Act.load va loc 8 (some 0)
      Act.upd fun s => s.publishOwn loc (s.hart.wmBase d) (s.rx a).toNat
    else pure ()
    Act.applied
    Act.upd State.advance) s

/-- VWMWAIT (R290): the word once it has reached the count; it waits for the hart's older scalar stores (R255). -/
def vwmwait (d : Reg) (a : Num3) (b : Reg) : Act Unit := do
  Act.drain
  Act.granule
  let va ← Act.bound a
  let loc ← Act.wordPlace va .read
  let w ← Act.load va loc 8 (some 0)
  let s ← get
  Act.waitUntil (s.hart.wmBase a + (s.rx b).toNat ≤ w)
  Act.upd (·.done1 d (wordOfNat w))

/-- VWMWAIT. -/
def execVwmwait (d : Reg) (a : Num3) (b : Reg) (s : State) : Answer := Act.run false (vwmwait d a b) s

/-- VWMWAIT_WAKE (R290): a waiting VWMWAIT reads the word again. -/
def execVwmwaitWake (hid : Nat) (s : State) : Answer :=
  wake hid (fun w =>
    if wordMajor w = 0x33 ∧ wordOp w = 3 then
      some (Act.run false (vwmwait (wordD w) (w.extractLsb' 16 3) (wordB w)))
    else none) s

end Sys2Proof.Machine
end

