-- ==== Sys2Proof/Machine/VMem.lean ====
section
/-!
DEFINITION. Vector loads and stores: majors 0x2D to 0x30 without the combining scatters (R271 to R283, R287 to R289),
and the event GATED_ELEMENT_READ.
-/

namespace Sys2Proof.Machine

-- how an access goes through its elements

/-- What an element does when it performs. -/
abbrev Perform := State → State

/-- Mark a wait as one that keeps the elements before it (R280: elements of IO pages perform one at a time). -/
def Act.keep {α : Type} (m : Act α) : Act α := fun s =>
  match m s with
  | .error (.wait b _) t => .error (.wait b true) t
  | r => r

/-- Set VSTART. -/
def State.setVstart (s : State) (k : Nat) : State := s.withHart fun h => { h with vstart := k }

/-- The first element of the granule that holds element i at width w (R118). -/
def granuleStart (w i : Nat) : Nat := ceilDiv (i * w / 8192 * 8192) w

/-- A stop or a held event waits for the acting hart's next boundary (R389). -/
def Hart.pressed (h : Hart) : Bool := h.stop.isSome || (!h.active && h.anyHeld)

/-- The elements of a granule, checked, perform in order (R348). One that has to wait leaves VSTART at itself; the granule is then
performed in part, unless none of it has been or the element lies on an IO page, where a stop comes between two elements
(R280). -/
def Act.performGranule (ps : List Piece) : Act Unit := do
  let first := (ps.head?.map (·.elem)).getD 0
  Act.perform (fun p s =>
    (s.setVstart p.elem).withBegun fun b => { b with inside := !(p.loc.any (·.isIo)) && (b.inside || p.elem != first) }) ps
  Act.upd (·.withBegun fun b => { b with inside := false })

/-- The prefix [0, n) has performed, which `commit` is told. A publication waits until its stores to hosts have performed
(R288, R343). -/
def Act.committed (publishes : Bool) (commit : Nat → Perform) (n : Nat) : Act Unit := do
  let s ← get
  if publishes && !s.hart.unacked.isEmpty then throw (.wait false true) else Act.upd (commit n)

/-- What `prep` answers of an element: its place, where it lies outside the module and performs in its turn, and what it does. -/
abbrev Prepared := Option Loc × Perform

/-- Go through elements in order (R273, R390, R143, R144). `prep` makes an element's checks, and its read. The elements of a granule
perform when the next granule begins, and one of an IO page at once; `commit n` follows when the prefix [0, n) has performed.
A trap at element k leaves VSTART at k with the elements below performed; a wait leaves VSTART at the first element that has
not performed. A stop within the instruction leaves VSTART at its granule. An instruction that runs again after a wait takes
what has been requested meanwhile at its next boundary, or between two elements of IO pages (R389). -/
def elements (w : Nat) (publishes : Bool) (prep : Nat → Act Prepared) (commit : Nat → Perform) :
    List Nat → Option Nat → Nat → List Reply → List Piece → Act Unit
  | [], _, _, _, pend => Act.performGranule pend.reverse
  | i :: is, gran, start, rep, pend =>
    let go (start : Nat) (rep : List Reply) (pend : List Piece) : Act Unit := fun s =>
      match prep i s with
      | .ok (loc, f) t =>
        if loc.any (·.isIo) then
          (do
            Act.performGranule (pend.reverse ++ [⟨i, loc, f⟩])
            Act.upd (·.setVstart (i + 1))
            let t ← get
            if t.hart.pressed && !is.isEmpty then throw (.wait false true)
            else elements w publishes prep commit is (some (i * w / 8192)) (i + 1) t.hart.replies [] : Act Unit) t
        else elements w publishes prep commit is (some (i * w / 8192)) start rep (⟨i, loc, f⟩ :: pend) t
      | .error (.trap c v) t =>
        (do
          Act.performGranule pend.reverse
          Act.upd (·.setVstart i)
          Act.committed publishes commit i
          Act.trap c v : Act Unit) t
      | .error (.wait b true) t =>
        (do
          Act.performGranule pend.reverse
          Act.upd fun t => (t.setVstart i).withHart fun h => { h with replies := s.hart.replies }
          throw (.wait b true) : Act Unit) t
      | .error (.wait b false) t =>
        .error (.wait b true) ((t.setVstart start).withHart fun h => { h with replies := rep })
    if gran = some (i * w / 8192) then go start rep pend
    else do
      let first := granuleStart w i
      Act.performGranule pend.reverse
      let s ← get
      match s.hart.cut.filter (· ≤ first) with
      | some c => do
        Act.upd (·.setVstart c)
        Act.committed publishes commit c
        Act.stopAt c
      | none => do
        let st := max s.hart.vstart first
        Act.upd (·.setVstart st)
        Act.committed publishes commit first
        if gran.isSome && s.hart.begun.held.isSome && s.hart.pressed then throw (.wait false true)
        else do
          Act.granule (i * w / 8192)
          let t ← get
          go st t.hart.replies []

/-- The active elements before the first poisoned index or guard, and that element with its trap value. -/
def Hart.reachable (h : Hart) (g : Num3) (srcs : List Src) : List Nat × Option (Nat × Word) :=
  match h.firstPoison g srcs with
  | none => (h.actives g, none)
  | some (k, t) => ((h.actives g).filter fun i => i < k, some (k, t))

/-- Elements that lie in the granule at VSTART. -/
def Hart.inGranule (h : Hart) (i : Nat) : Bool := i * h.cfg.w / 8192 == h.vstart * h.cfg.w / 8192

/-- The active elements, of the granule at VSTART those that were active when it dispatched (R301). -/
def Hart.dispatched (h : Hart) (acts : List Nat) : List Nat :=
  match h.begun.acts with
  | none => acts
  | some l => l.filter (h.vstart ≤ ·) ++ acts.filter fun i => !h.inGranule i

/-- A wait keeps which elements of its granule are active (R301). -/
def Act.keepActives (acts : List Nat) (m : Act Unit) : Act Unit := fun s =>
  match m s with
  | .error (.wait b k) t => .error (.wait b k) (t.withBegun fun b => { b with acts := some (acts.filter t.hart.inGranule) })
  | r => r

/-- All elements of an access, and the end of the instruction with VSTART 0. `units` picks the elements that stand for
those that perform together. -/
def Act.access (g : Num3) (srcs : List Src) (units : List Nat → List Nat) (prep : Nat → Act Prepared)
    (commit : Nat → Perform) (last : Act Unit) (publishes : Bool := false) : Act Unit := do
  let s ← get
  let (now, bad) := s.hart.reachable g srcs
  let acts := s.hart.dispatched now
  Act.keepActives acts (elements s.hart.cfg.w publishes prep commit (units acts) none s.hart.vstart s.hart.replies [])
  match bad with
  | some (k, t) => do
    Act.upd (·.setVstart k)
    Act.committed publishes commit k
    Act.trap 7 t
  | none => pure ()
  last
  Act.upd fun s => (s.setVstart 0).advance

/-- A vector memory instruction dispatches once the hart's older stores to devices and hosts are acknowledged (R255), and translates
`vas` for its accesses (R402). -/
def Act.dispatch (acc : Access) (vas : List Nat) (m : Act Unit) : Act Unit := do
  Act.drain
  Act.holding acc vas m true

/-- No commit action. -/
def noCommit : Nat → Perform := fun _ s => s

-- addresses

/-- Element i's address (R273): unit stride when the stride register is x0, else a byte stride. -/
def State.strideAddr (s : State) (a si : Reg) (eb i : Nat) : Nat :=
  if si = 0 then ((s.rx a).toNat + i * eb) % 2 ^ 64 else wrapInt ((s.rx a).toNat + i * (s.rx si).toInt) 64

/-- Element i's address in an indexed form. -/
def State.indexAddr (s : State) (a vi : Reg) (eb i : Nat) : Nat := ((s.rx a).toNat + s.hart.el vi i * eb) % 2 ^ 64

/-- A word of format VM (R112, R271). -/
def wordVM (base : Nat) (d a si : Reg) (c : Bit1) (g w m : Num3) : Nat :=
  base + put d 21 + put a 16 + put si 11 + put c 10 + put g 6 + put w 3 + put m 0

/-- The element width of an access is the one that VTYPE names (R272). -/
def Hart.ewIs (h : Hart) (w : Num3) : Bool := h.ew == w.toNat

-- loads

/-- How a load element treats its place: plainly, as an acquire at a scope (R277), or behind a gate (R289), which names
the word's address, its place and BASE. -/
inductive LoadMode where
  | plain
  | acquire (die : Bool)
  | gated (va : Nat) (word : Loc) (base : Nat)
  deriving DecidableEq, Repr

/-- Element i's condition on the progress word holds from then on while its instruction waits for others (R289). -/
def Act.opens (lane : Option Nat) (wva : Nat) (word : Loc) (g i : Nat) : Act Unit := do
  let s ← get
  if i < s.hart.begun.gates then pure ()
  else do
    let w ← Act.load wva word 8 lane
    Act.waitUntil (g < w)
    Act.upd (·.withBegun fun b => { b with gates := i + 1 })

/-- One element of a load: its checks and its read (R273, R277, R280, R289). `idx` is its index for the gate. -/
def loadElem (c : VCfg) (d : Reg) (eb : Nat) (mode : LoadMode) (addr idx : Nat → Nat) (i : Nat) : Act Prepared := do
  let va := addr i
  let lane := some (dieOfGroup c d.toNat i)
  Act.check (va % eb == 0) 3 (wordOfNat va)
  let loc ← Act.reach va .read true
  Act.check (mode == .plain || !loc.isIo) accessFault (wordOfNat va)
  match mode with
  | .gated wva word base => Act.opens lane wva word (base + idx i) i
  | _ => pure ()
  let missed := match mode, loc with
    | .acquire true, .dev p true => p / 2 ^ 37 != dieOfGroup c d.toNat i
    | _, _ => false
  if missed then
    pure (none, fun s => s.withHart fun h => { h with smiss := setBits h.smiss i 1 1 })
  else do
    let read := Act.load va loc eb lane
    let x ← if loc.isIo then read.keep else read
    pure (if loc.isIo then some loc else none, fun s => s.withHart (·.setElem c d.toNat i x))

/-- The byte of plane j that holds a bit of element i (R276). -/
def State.planeAddr (s : State) (a : Reg) (p i j : Nat) : Nat := ((s.rx a).toNat + j * p + i / 8) % 2 ^ 64

/-- A bit-sliced load element (R276): bit j of element i from plane j. -/
def loadSliced (c : VCfg) (d a : Reg) (p i : Nat) : Act Prepared := do
  let lane := some (dieOfGroup c d.toNat i)
  let s ← get
  let planes ← (List.range c.w).mapM fun j => do
    let va := s.planeAddr a p i j
    let loc ← Act.reach va .read true
    let x ← if loc.isIo then (Act.load va loc 1 lane).keep else Act.load va loc 1 lane
    pure (loc, bitsAt x (i % 8) 1 * 2 ^ j)
  let x := (planes.map (·.2)).sum
  pure ((planes.map (·.1)).find? (·.isIo), fun s => s.withHart (·.setElem c d.toNat i x))

/-- The plane stride of a bit-sliced access (R276): a stride below ceil(VL / 8) is a bad operand. -/
def Act.planeStride (si : Reg) : Act Nat := do
  let s ← get
  let least := ceilDiv s.hart.vl 8
  if si = 0 then pure least
  else do
    Act.check (least ≤ (s.rx si).toNat) 2 (s.rx si)
    pure (s.rx si).toNat

/-- VLD, plain and acquire (R275 to R277). -/
def vld (word : Nat) (mode : LoadMode) (d a si : Reg) (g w : Num3) (s : State) : Answer :=
  let c := s.hart.cfg
  if !(s.hart.ewIs w && aligned c d) then illegalWord word s
  else
    let acts := (s.hart.reachable g []).1
    Act.run true (if w = 4 then do
      let p ← Act.planeStride si
      Act.dispatch .read (acts.flatMap fun i => (List.range c.w).map (s.planeAddr a p i))
        (Act.access g [] id (loadSliced c d a p) noCommit (pure ()))
    else
      let addr := s.strideAddr a si (2 ^ w.toNat)
      Act.dispatch .read (acts.map addr) (Act.access g [] id (loadElem c d (2 ^ w.toNat) mode addr id) noCommit (pure ()))) s

/-- VLD. -/
def execVld (d a s0 : Reg) (g w : Num3) (s : State) : Answer := vld (wordVM 0xB4000000 d a s0 0 g w 0) .plain d a s0 g w s
/-- VLD.acq.die. -/
def execVldAcqDie (d a s0 : Reg) (g w : Num3) (s : State) : Answer :=
  vld (wordVM 0xB4000000 d a s0 0 g w 1) (.acquire true) d a s0 g w s
/-- VLD.acq.pkg. -/
def execVldAcqPkg (d a s0 : Reg) (g w : Num3) (s : State) : Answer :=
  vld (wordVM 0xB4000000 d a s0 0 g w 2) (.acquire false) d a s0 g w s
/-- VLD.acq.sys. -/
def execVldAcqSys (d a s0 : Reg) (g w : Num3) (s : State) : Answer :=
  vld (wordVM 0xB4000000 d a s0 0 g w 3) (.acquire false) d a s0 g w s

/-- The gate of a load (R289): a translation of the word that fails traps at the first active element; with none active the word
is not reached (R274). -/
def Act.gate (k g : Num3) : Act LoadMode := do
  let va ← Act.bound k
  let s ← get
  match (s.hart.reachable g []).1 with
  | [] => pure .plain
  | i :: _ =>
    match Act.wordPlace va .read s with
    | .ok loc t => do
      set t
      pure (.gated va loc (s.hart.wmBase k))
    | .error e t => do
      set (t.setVstart i)
      throw e

/-- The addresses that a gated load translates: its progress word, then its elements (R289, R402). -/
def State.gatedVas (s : State) (k : Num3) (addrs : List Nat) : List Nat :=
  if addrs.isEmpty then [] else (s.hart.binding k).addr.toNat :: addrs

/-- VLD.wm (R275, R289). -/
def vldWm (d a : Reg) (g w m : Num3) (s : State) : Answer :=
  let c := s.hart.cfg
  if !(s.hart.ewIs w && aligned c d) then illegalWord (wordVM 0xB4000200 d a 0 0 g w m) s
  else
    let addr := s.strideAddr a 0 (2 ^ w.toNat)
    Act.run true (Act.dispatch .read (s.gatedVas m ((s.hart.reachable g []).1.map addr)) (do
      let mode ← Act.gate m g
      Act.access g [] id (loadElem c d (2 ^ w.toNat) mode addr id) noCommit (pure ()))) s

/-- VLD.wm. -/
def execVldWm (d a : Reg) (g w m : Num3) (s : State) : Answer := vldWm d a g w m s

/-- Bit i of k0 under VLDX.dup (R282): an earlier element that the guard admits has the same index. -/
def Hart.duplicate (h : Hart) (vi : Reg) (g : Num3) (i : Nat) : Bool :=
  (List.range i).any fun j => h.guardBit g j && h.el vi j == h.el vi i

/-- VLDX (R281, R282). -/
def vldx (word : Nat) (mode : LoadMode) (dup : Bool) (d a vi : Reg) (g w : Num3) (s : State) : Answer :=
  let c := s.hart.cfg
  let h := s.hart
  if !(h.ewIs w && aligned c d && aligned c vi && !(dup && d == vi)) then illegalWord word s
  else
    let addr := s.indexAddr a vi (2 ^ w.toNat)
    let m := Act.run true (Act.dispatch .read ((h.reachable g [.vec c vi.toNat]).1.map addr)
      (Act.access g [.vec c vi.toNat] id (fun i => do
        let (loc, f) ← loadElem c d (2 ^ w.toNat) mode addr (h.el vi) i
        pure (loc, fun s => if dup then (f s).withHart (·.setMaskBit 0 i (h.duplicate vi g i)) else f s)) noCommit (pure ()))) s
    if dup then s.whenFree [0] m else m

/-- VLDX. -/
def execVldx (d a s0 : Reg) (c : Bit1) (g w : Num3) (s : State) : Answer :=
  vldx (wordVM 0xBC000000 d a s0 c g w 0) .plain false d a s0 g w s
/-- VLDX.acq.die. -/
def execVldxAcqDie (d a s0 : Reg) (c : Bit1) (g w : Num3) (s : State) : Answer :=
  vldx (wordVM 0xBC000000 d a s0 c g w 1) (.acquire true) false d a s0 g w s
/-- VLDX.acq.pkg. -/
def execVldxAcqPkg (d a s0 : Reg) (c : Bit1) (g w : Num3) (s : State) : Answer :=
  vldx (wordVM 0xBC000000 d a s0 c g w 2) (.acquire false) false d a s0 g w s
/-- VLDX.acq.sys. -/
def execVldxAcqSys (d a s0 : Reg) (c : Bit1) (g w : Num3) (s : State) : Answer :=
  vldx (wordVM 0xBC000000 d a s0 c g w 3) (.acquire false) false d a s0 g w s
/-- VLDX.dup. -/
def execVldxDup (d a s0 : Reg) (c : Bit1) (g w : Num3) (s : State) : Answer :=
  vldx (wordVM 0xBC000000 d a s0 c g w 4) .plain true d a s0 g w s
/-- VLDX.dup.acq.die. -/
def execVldxDupAcqDie (d a s0 : Reg) (c : Bit1) (g w : Num3) (s : State) : Answer :=
  vldx (wordVM 0xBC000000 d a s0 c g w 5) (.acquire true) true d a s0 g w s
/-- VLDX.dup.acq.pkg. -/
def execVldxDupAcqPkg (d a s0 : Reg) (c : Bit1) (g w : Num3) (s : State) : Answer :=
  vldx (wordVM 0xBC000000 d a s0 c g w 6) (.acquire false) true d a s0 g w s
/-- VLDX.dup.acq.sys. -/
def execVldxDupAcqSys (d a s0 : Reg) (c : Bit1) (g w : Num3) (s : State) : Answer :=
  vldx (wordVM 0xBC000000 d a s0 c g w 7) (.acquire false) true d a s0 g w s

/-- VLDX.wm (R281, R289). -/
def vldxWm (d a vi : Reg) (ci : Bit1) (g w m : Num3) (s : State) : Answer :=
  let c := s.hart.cfg
  if !(s.hart.ewIs w && aligned c d && aligned c vi) then illegalWord (wordVM 0xBC000200 d a vi ci g w m) s
  else
    let addr := s.indexAddr a vi (2 ^ w.toNat)
    Act.run true (Act.dispatch .read (s.gatedVas m ((s.hart.reachable g [.vec c vi.toNat]).1.map addr)) (do
      let mode ← Act.gate m g
      Act.access g [.vec c vi.toNat] id (loadElem c d (2 ^ w.toNat) mode addr (s.hart.el vi)) noCommit (pure ()))) s

/-- VLDX.wm. -/
def execVldxWm (d a s0 : Reg) (c : Bit1) (g w m : Num3) (s : State) : Answer := vldxWm d a s0 c g w m s

/-- GATED_ELEMENT_READ (R289): a gated load that waits reads its word again. -/
def execGatedElementRead (hid : Nat) (s : State) : Answer :=
  wake hid (fun w =>
    let kg : Num3 := w.extractLsb' 6 3
    let ew : Num3 := w.extractLsb' 3 3
    let m : Num3 := w.extractLsb' 0 3
    if !w.getLsbD 9 then none
    else if wordMajor w = 0x2D then some (vldWm (wordD w) (wordA w) kg ew m)
    else if wordMajor w = 0x2F then some (vldxWm (wordD w) (wordA w) (wordB w) (w.extractLsb' 10 1) kg ew m)
    else none) s

-- stores

/-- The checks of a store's element, data poison last (R273, R390), and its place. -/
def storePlace (c : VCfg) (v : Reg) (eb : Nat) (ioOk : Bool) (addr : Nat → Nat) (i : Nat) : Act Loc := do
  let va := addr i
  Act.check (va % eb == 0) 3 (wordOfNat va)
  let loc ← Act.reach va .write true
  Act.check (ioOk || !loc.isIo) accessFault (wordOfNat va)
  Act.storePage loc
  let s ← get
  match s.hart.srcPoison (.vec c v.toNat) i with
  | some t => Act.trap 7 t
  | none => pure ()
  pure loc

/-- A store's place, where it lies outside the module and the store performs there in its turn. -/
def Loc.awayFrom (loc : Loc) : Option Loc := if loc.outside then some loc else none

/-- What the stores below element n wrote, each given by its element, address and length, taken as one write (R269). -/
def mendBelow (stores : List (Nat × Nat × Nat)) (n : Nat) : Perform := fun s =>
  s.mend ((stores.filter fun q => q.1 < n).filterMap fun q =>
    match s.xlateOnce q.2.1 .write true with
    | .ok (loc, _) => some ⟨loc, q.2.2⟩
    | .error _ => none)

/-- The elements of a store, each with its address and its length in bytes. -/
def storesOf (acts : List Nat) (addr : Nat → Nat) (eb : Nat) : List (Nat × Nat × Nat) := acts.map fun i => (i, addr i, eb)

/-- All elements of a store, which then counts as one write. -/
def Act.storing (g : Num3) (srcs : List Src) (units : List Nat → List Nat) (vas : List Nat) (prep : Nat → Act Prepared)
    (stores : List (Nat × Nat × Nat)) : Act Unit := do
  let s ← get
  Act.dispatch .write vas (Act.access g srcs units prep (mendBelow stores) (Act.upd (mendBelow stores s.hart.vl)))

/-- One element of a store in order. -/
def storeElem (c : VCfg) (v : Reg) (eb : Nat) (ioOk : Bool) (addr : Nat → Nat) (i : Nat) : Act Prepared := do
  let loc ← storePlace c v eb ioOk addr i
  let s ← get
  let bs := bytesOf (s.hart.el v i) eb
  pure (loc.awayFrom, fun s => s.storeAt loc bs (some (dieOfGroup c v.toNat i)))

/-- One element of a .u store (R279): where an earlier active element has the same place, a free value says whether the
later one stands; on an IO page the bit has no effect (R280). -/
def storeAny (c : VCfg) (v : Reg) (eb : Nat) (addr : Nat → Nat) (acts : List Nat) (i : Nat) : Act Prepared := do
  let loc ← storePlace c v eb true addr i
  let s ← get
  let bs := bytesOf (s.hart.el v i) eb
  let same (j : Nat) : Bool := match s.xlateOnce (addr j) .write true with
    | .ok (l, _) => l == loc
    | .error _ => false
  let lane := some (dieOfGroup c v.toNat i)
  let shared := !loc.isIo && acts.any fun j => j < i && same j
  pure (if loc.isIo then some loc else none, fun s =>
    if shared then
      let t := { s with draw := s.draw + 1 }
      if Config.laterStands s.draw then t.storeAt loc bs lane else t
    else s.storeAt loc bs lane)

/-- A byte with the bits of one group of eight merged: `m` says which of them the store writes (R276). -/
def mergeByte (old m x : Nat) : Nat := (x &&& m) ||| (old &&& (255 - m))

/-- A group of eight elements of a bit-sliced store (R276), named by its first active element. -/
def storeSliced (c : VCfg) (v a : Reg) (p : Nat) (acts : List Nat) (i0 : Nat) : Act Prepared := do
  let s ← get
  let h := s.hart
  let group := acts.filter fun i => i / 8 == i0 / 8
  let mask := (group.map fun i => 2 ^ (i % 8)).sum
  let places ← (List.range c.w).mapM fun j => do
    let loc ← Act.reach (s.planeAddr a p i0 j) .write true
    Act.storePage loc
    pure (loc, (group.map fun i => bitsAt (h.el v i) j 1 * 2 ^ (i % 8)).sum)
  match group.findSome? (h.srcPoison (.vec c v.toNat)) with
  | some t => Act.trap 7 t
  | none => pure ()
  let olds ← places.mapM fun q => do
    if q.1.outside && mask != 255 then natOfBytes <$> (if q.1.isIo then (Act.readAt q.1 1).keep else Act.readAt q.1 1)
    else pure 0
  let locs := places.map (·.1)
  pure ((locs.find? (·.isIo)).or (locs.find? (·.outside)), fun s => (places.zip olds).foldl (fun s q =>
    let old := if q.1.1.outside then q.2 else natOfBytes (s.bytesAt q.1.1 1)
    s.storeAt q.1.1 (bytesOf (mergeByte old mask q.1.2) 1) (some (dieOfGroup c v.toNat i0))) s)

/-- The first active element of each group of eight. -/
def groupHeads (acts : List Nat) : List Nat := acts.filter fun i => !acts.any fun j => j < i && j / 8 == i / 8

/-- The bytes that a bit-sliced store writes whole: those of groups of eight active elements, in each plane (R276). -/
def slicedStores (s : State) (a : Reg) (w p : Nat) (acts : List Nat) : List (Nat × Nat × Nat) :=
  ((groupHeads acts).filter fun i => i % 8 = 0 && (List.range 8).all fun b => acts.contains (i + b)).flatMap fun i =>
    (List.range w).map fun j => (i, s.planeAddr a p i j, 1)

/-- VST in order, plain or release (R276, R278, R279). -/
def vst (word : Nat) (v a si : Reg) (g w : Num3) (s : State) : Answer :=
  let c := s.hart.cfg
  if !(s.hart.ewIs w && aligned c v) then illegalWord word s
  else
    let acts := s.hart.dispatched (s.hart.reachable g []).1
    Act.run true (if w = 4 then do
      let p ← Act.planeStride si
      Act.storing g [] groupHeads ((groupHeads acts).flatMap fun i => (List.range c.w).map (s.planeAddr a p i))
        (storeSliced c v a p acts) (slicedStores s a c.w p acts)
    else
      let addr := s.strideAddr a si (2 ^ w.toNat)
      Act.storing g [] id (acts.map addr) (storeElem c v (2 ^ w.toNat) true addr) (storesOf acts addr (2 ^ w.toNat))) s

/-- VST. -/
def execVst (d a s0 : Reg) (c : Bit1) (g w : Num3) (s : State) : Answer := vst (wordVM 0xB8000000 d a s0 c g w 0) d a s0 g w s
/-- VST.rel.die. -/
def execVstRelDie (d a s0 : Reg) (c : Bit1) (g w : Num3) (s : State) : Answer :=
  vst (wordVM 0xB8000000 d a s0 c g w 1) d a s0 g w s
/-- VST.rel.pkg. -/
def execVstRelPkg (d a s0 : Reg) (c : Bit1) (g w : Num3) (s : State) : Answer :=
  vst (wordVM 0xB8000000 d a s0 c g w 2) d a s0 g w s
/-- VST.rel.sys. -/
def execVstRelSys (d a s0 : Reg) (c : Bit1) (g w : Num3) (s : State) : Answer :=
  vst (wordVM 0xB8000000 d a s0 c g w 3) d a s0 g w s

/-- VST.u (R279). -/
def execVstU (d a s0 : Reg) (c : Bit1) (g w : Num3) (s : State) : Answer :=
  let k := s.hart.cfg
  if !(s.hart.ewIs w && aligned k d) then illegalWord (wordVM 0xB8000200 d a s0 c g w 0) s
  else
    let acts := s.hart.dispatched (s.hart.reachable g []).1
    let addr := s.strideAddr a s0 (2 ^ w.toNat)
    Act.run true (Act.storing g [] id (acts.map addr) (storeAny k d (2 ^ w.toNat) addr acts)
      (storesOf acts addr (2 ^ w.toNat))) s

/-- VST.nt (R278, R288): prefixes are published as granules commit, and VL before it completes; it waits for that
publication with every element performed. Its word is translated, and read for poison, once. -/
def execVstNt (d a : Reg) (m : Num3) (c : Bit1) (g w : Num3) (s : State) : Answer :=
  let k := s.hart.cfg
  let h := s.hart
  if !(h.ewIs w && aligned k d) then illegalWord (wordVM 0xB8000004 d a (m.setWidth 5) c g w 0) s
  else
    Act.run true (match h.begun.pub with
    | some _ => do
      Act.applied
      Act.upd fun s => (s.setVstart 0).advance
    | none => do
      let va ← Act.bound m
      if h.vl = 0 then Act.upd fun s => (s.setVstart 0).advance
      else
        let acts := h.dispatched (h.reachable g []).1
        let addr := s.strideAddr a 0 (2 ^ w.toNat)
        Act.dispatch .write (va :: acts.map addr) (do
          let word ← Act.wordPlace va .write
          if h.begun.held.isNone then
            let _ ← Act.load va word 8 (some 0)
          else pure ()
          let stores := storesOf acts addr (2 ^ w.toNat)
          let publish (n : Nat) : Perform := fun s =>
            let s := mendBelow stores n s
            if h.vstart < n || h.begun.held.isSome && 0 < n then s.publish word (h.wmBase m) n else s
          Act.access g [] id (storeElem k d (2 ^ w.toNat) false addr) publish (do
            Act.upd (·.setVstart h.vl)
            Act.drain.keep
            Act.upd fun s => (mendBelow stores h.vl s).publishOwn word (h.wmBase m) h.vl
            Act.applied.keep) true)) s

/-- VSTX in order, plain or release (R279, R283). -/
def vstx (word : Nat) (v a vi : Reg) (g w : Num3) (s : State) : Answer :=
  let c := s.hart.cfg
  if !(s.hart.ewIs w && aligned c v && aligned c vi && v != vi) then illegalWord word s
  else
    let addr := s.indexAddr a vi (2 ^ w.toNat)
    let acts := s.hart.dispatched (s.hart.reachable g [.vec c vi.toNat]).1
    Act.run true (Act.storing g [.vec c vi.toNat] id (acts.map addr) (storeElem c v (2 ^ w.toNat) true addr)
      (storesOf acts addr (2 ^ w.toNat))) s

/-- VSTX. -/
def execVstx (d a s0 : Reg) (c : Bit1) (g w : Num3) (s : State) : Answer := vstx (wordVM 0xC0000000 d a s0 c g w 0) d a s0 g w s
/-- VSTX.rel.die. -/
def execVstxRelDie (d a s0 : Reg) (c : Bit1) (g w : Num3) (s : State) : Answer :=
  vstx (wordVM 0xC0000000 d a s0 c g w 1) d a s0 g w s
/-- VSTX.rel.pkg. -/
def execVstxRelPkg (d a s0 : Reg) (c : Bit1) (g w : Num3) (s : State) : Answer :=
  vstx (wordVM 0xC0000000 d a s0 c g w 2) d a s0 g w s
/-- VSTX.rel.sys. -/
def execVstxRelSys (d a s0 : Reg) (c : Bit1) (g w : Num3) (s : State) : Answer :=
  vstx (wordVM 0xC0000000 d a s0 c g w 3) d a s0 g w s

/-- VSTX.u (R279, R283). -/
def execVstxU (d a s0 : Reg) (c : Bit1) (g w : Num3) (s : State) : Answer :=
  let k := s.hart.cfg
  if !(s.hart.ewIs w && aligned k d && aligned k s0 && d != s0) then illegalWord (wordVM 0xC0000200 d a s0 c g w 0) s
  else
    let acts := s.hart.dispatched (s.hart.reachable g [.vec k s0.toNat]).1
    let addr := s.indexAddr a s0 (2 ^ w.toNat)
    Act.run true (Act.storing g [.vec k s0.toNat] id (acts.map addr) (storeAny k d (2 ^ w.toNat) addr acts)
      (storesOf acts addr (2 ^ w.toNat))) s

end Sys2Proof.Machine
end

