-- ==== Sys2Proof/Machine/VAtomic.lean ====
section
/-!
DEFINITION. Combining scatters of major 0x30 (R284, R285) and vector atomics: major 0x39 (R286).
-/

namespace Sys2Proof.Machine

/-- The place of an element of an atomic access: memory of the package only (R280, R285, R400). -/
def atomicPlace (eb va : Nat) : Act Loc := do
  Act.check (va % eb == 0) 3 (wordOfNat va)
  let loc ← Act.reach va .atomic true
  Act.check (!loc.outside) accessFault (wordOfNat va)
  pure loc

/-- Phase 1 of a combining scatter over elements in order: places and data poison. -/
def scatterPlaces (c : VCfg) (v : Reg) (eb : Nat) (addr : Nat → Nat) (acts : List Nat) : Act (List (Nat × Loc)) :=
  acts.mapM fun i => do
    let loc ← atomicPlace eb (addr i)
    let s ← get
    match s.hart.srcPoison (.vec c v.toNat) i with
    | some t => Act.trap 7 t
    | none => pure (i, loc)

/-- Phase 3: one update for each distinct address, in order of its first element, whose combined value `val` gives (R284). -/
def scatterUpdate (eb : Nat) (val : Nat → Nat) (comb : Nat → Nat → Nat × Nat) :
    List (Nat × Loc) → State → State
  | [], s => s
  | (i, loc) :: rest, s =>
    let m := natOfBytes (s.bytesAt loc eb)
    let r := comb m (val i)
    scatterUpdate eb val comb rest (((s.moves .atomic true loc eb).putAt loc (bytesOf r.1 eb)).raise r.2)

/-- The elements that are first at their address, each with its combined value and flags. -/
def combined (addr : Nat → Nat) (val : Nat → Nat) (comb : Nat → Nat → Nat × Nat) (acts : List Nat) : List (Nat × Nat × Nat) :=
  (acts.filter fun i => !acts.any fun j => j < i && addr j == addr i).map fun i =>
    let later := acts.filter fun j => i < j && addr j == addr i
    (i, later.foldl (fun c j => let r := comb c.1 (val j); (r.1, c.2 ||| r.2)) (val i, 0))

/-- A combining scatter (R283 to R285). -/
def scatter (word : Nat) (ok : Bool) (comb : Nat → Nat → Nat × Nat) (v a vi : Reg) (g w : Num3) (s : State) : Answer :=
  let c := s.hart.cfg
  let h := s.hart
  let eb := 2 ^ w.toNat
  let addr := s.indexAddr a vi eb
  if !(h.ewIs w && aligned c v && aligned c vi && v != vi && ok) then illegalWord word s
  else
    let (acts, bad) := h.reachable g [.vec c vi.toNat]
    Act.run true (Act.dispatch .atomic (acts.map addr) (do
      (acts.map (· * c.w / 8192)).dedup.forM fun n => Act.granule n
      let places ← scatterPlaces c v eb addr acts
      match bad with
      | some (_, t) => Act.trap 7 t
      | none => pure ()
      let s ← get
      match places.find? fun q => s.poisonedAt q.2 eb with
      | some q => Act.trap 7 (wordOfNat (addr q.1))
      | none => pure ()
      let sums := combined addr (h.el v) comb acts
      let firsts := places.filter fun q => sums.any fun r => r.1 == q.1
      let val (i : Nat) := ((sums.find? fun r => r.1 == i).map (·.2.1)).getD 0
      Act.upd fun s => (s.raise (sums.foldl (fun f r => f ||| r.2.2) 0))
      Act.upd (scatterUpdate eb val comb firsts)
      Act.upd fun s => (s.setVstart 0).advance)) s

/-- VSTX.add. -/
def execVstxAdd (d a s0 : Reg) (c : Bit1) (g w : Num3) (s : State) : Answer :=
  let k := s.hart.cfg.w
  scatter (wordVM 0xC0000000 d a s0 c g w 4) true (fun p q => ((p + q) % 2 ^ k, 0)) d a s0 g w s

/-- VSTX.fadd: rounds under FRM, RNE for SR. -/
def execVstxFadd (d a s0 : Reg) (c : Bit1) (g w : Num3) (s : State) : Answer :=
  let F := s.hart.ffmt
  let r := (s.hart.rounding 0).noSr
  scatter (wordVM 0xC0000000 d a s0 c g w 5) s.hart.floatRow (fun p q => fadd2 F r (F.unpack p) (F.unpack q)) d a s0 g w s

/-- One element of a vector atomic (R286). -/
def atomicElem (c : VCfg) (v : Reg) (eb : Nat) (ret : Bool) (op : Nat → Nat → Nat × Nat) (addr : Nat → Nat) (i : Nat) :
    Act Prepared := do
  let va := addr i
  let loc ← atomicPlace eb va
  let s ← get
  Act.check (!s.poisonedAt loc eb) 7 (wordOfNat va)
  match s.hart.srcPoison (.vec c v.toNat) i with
  | some t => Act.trap 7 t
  | none => pure ()
  let x := s.hart.el v i
  pure (none, fun s =>
    let m := natOfBytes (s.bytesAt loc eb)
    let r := op m x
    let s := ((s.moves .atomic true loc eb).putAt loc (bytesOf r.1 eb)).raise r.2
    if ret then s.withHart (·.setElem c v.toNat i m) else s)

/-- VAMO (R286): 32-bit elements when the width bit is 0, else 64-bit. -/
def vamo (base : Nat) (op : Nat → Nat → Nat → Nat × Nat) (d a vi : Reg) (c r : Bit1) (g : Num3) (w : Bit1) (s : State) :
    Answer :=
  let k := s.hart.cfg
  let eb := if w = 0 then 4 else 8
  if !(s.hart.ew == 2 + w.toNat && aligned k d && aligned k vi && d != vi) then
    illegalWord (base + put d 21 + put a 16 + put vi 11 + put c 10 + put r 9 + put g 6 + put w 3) s
  else
    let addr := s.indexAddr a vi eb
    Act.run true (Act.dispatch .atomic ((s.hart.reachable g [.vec k vi.toNat]).1.map addr)
      (Act.access g [.vec k vi.toNat] id (atomicElem k d eb (r = 1) (op (8 * eb)) addr) noCommit (pure ()))) s

/-- VATADD. -/
def execVatadd (d a s0 : Reg) (c r : Bit1) (g : Num3) (w : Bit1) (s : State) : Answer :=
  vamo 0xE4000010 (fun n m x => ((m + x) % 2 ^ n, 0)) d a s0 c r g w s
/-- VATSWAP. -/
def execVatswap (d a s0 : Reg) (c r : Bit1) (g : Num3) (w : Bit1) (s : State) : Answer :=
  vamo 0xE4000011 (fun _ _ x => (x, 0)) d a s0 c r g w s
/-- VATAND. -/
def execVatand (d a s0 : Reg) (c r : Bit1) (g : Num3) (w : Bit1) (s : State) : Answer :=
  vamo 0xE4000012 (fun _ m x => (m &&& x, 0)) d a s0 c r g w s
/-- VATOR. -/
def execVator (d a s0 : Reg) (c r : Bit1) (g : Num3) (w : Bit1) (s : State) : Answer :=
  vamo 0xE4000013 (fun _ m x => (m ||| x, 0)) d a s0 c r g w s
/-- VATXOR. -/
def execVatxor (d a s0 : Reg) (c r : Bit1) (g : Num3) (w : Bit1) (s : State) : Answer :=
  vamo 0xE4000014 (fun _ m x => (m ^^^ x, 0)) d a s0 c r g w s
/-- VATMIN, signed. -/
def execVatmin (d a s0 : Reg) (c r : Bit1) (g : Num3) (w : Bit1) (s : State) : Answer :=
  vamo 0xE4000015 (fun n m x => (pickBy true false n m x, 0)) d a s0 c r g w s
/-- VATMAX, signed. -/
def execVatmax (d a s0 : Reg) (c r : Bit1) (g : Num3) (w : Bit1) (s : State) : Answer :=
  vamo 0xE4000016 (fun n m x => (pickBy true true n m x, 0)) d a s0 c r g w s
/-- VATFADD: rounds RNE. -/
def execVatfadd (d a s0 : Reg) (c r : Bit1) (g : Num3) (w : Bit1) (s : State) : Answer :=
  let F := if w = 0 then f32 else f64
  vamo 0xE4000017 (fun _ m x => fadd2 F rneMode (F.unpack m) (F.unpack x)) d a s0 c r g w s

end Sys2Proof.Machine
end

