-- ==== Sys2Proof/Machine/HostPort.lean ====
section
/-!
DEFINITION. Host ports and targets: the events HOST_PORT_REQUEST (R29, R67, R263), TARGET_COMPLETION (R254, R263, R404),
PRI_RESPONSE, PRI_TIMEOUT, ATS_INVALIDATION (R403, R404), REMOTE_ATOMIC_ERROR (R180, R408) and HOME_ATOMIC (R261).
-/

namespace Sys2Proof.Machine

/-- A range lies in device memory that is present. -/
def State.hostRange (s : State) (pa n : Nat) : Bool := pa + n ≤ 2 ^ 39 && (linesOf pa n).all fun l => !s.noStack (128 * l)

/-- A host's access enters each home as a request of agent 4 that is not retained; it waits for those in progress (R259, R263). -/
def State.hostMoves (s : State) (write : Bool) (pa n : Nat) : State :=
  s.updCoh fun c => (linesOf pa n).foldl (fun c l => c.access .passing (s.syncLine l) write l) c

/-- A host's read: a copy is taken and dropped (R263). -/
def State.hostRead (s : State) (port pa n : Nat) : State :=
  (s.hostMoves false pa n).send [.hostData port (s.hostBytes pa n) ((linesOf pa n).any s.linePoisoned)]

/-- A host's write: the line is taken in M, the bytes are merged and the line is written back at once (R263); one that touches a
pinned image page is discarded with an AER error (R29). What it posts is then due (R67, R418). -/
def State.hostWrite (s : State) (port pa : Nat) (bs : List Byte) : State :=
  if (linesOf pa bs.length).any s.pinned then s.send [.aer port]
  else
    let t := (s.hostMoves true pa bs.length).memPut pa bs
    t.post t.hostWork

/-- HOST_PORT_REQUEST (R263): addresses are physical, homed as under HP 0b00. A port that is absent, or an address outside
the device memory present, does nothing. -/
def execHostPortRequest (port : Nat) (r : HostReq) (s : State) : Answer :=
  if s.svc.power = .off || !((s.svc.units.host[port]?).map (·.trained)).getD false then .next s
  else
    .next (match r with
      | .read pa n => if s.hostRange pa n then s.hostRead port pa n else s
      | .write pa bs => if s.hostRange pa bs.length then s.hostWrite port pa bs else s
      | .fetchAdd pa n =>
        if s.hostRange pa 8 && pa % 8 == 0 then
          (s.hostRead port pa 8).hostWrite port pa (bytesOf ((natOfBytes (s.hostBytes pa 8) + n) % 2 ^ 64) 8)
        else s)

/-- An access that a dropped translation of a host's pages served. -/
def TargetReq.covers (q : TargetReq) (i : Inval) : Bool :=
  match q.loc with
  | .hostb p va => !q.ats && p == i.port && q.pasid == i.pasid
      && (va / 4096 == i.page || i.dropped.any fun d => d.1 ≤ va / 4096 && va / 4096 < d.1 + d.2)
  | _ => false

/-- Invalidations whose accesses have all performed are complete (R404). -/
def State.finishInvals (s : State) : State :=
  let busy (i : Inval) : Bool := s.targets.any (·.covers i)
  ({ s with invals := s.invals.filter busy } : State).send
    ((s.invals.filter fun i => !busy i).map fun i => .atsDone i.port i.pasid i.page)

/-- ATS_INVALIDATION (R403, R404): the cached translations that hold the page go; the request completes after the accesses that
they served. -/
def execAtsInvalidation (port pasid va : Nat) (s : State) : Answer :=
  let page := va / 4096
  .next ({ s with
    ats := s.ats.filter fun e => !e.covers port pasid page false
    invals := s.invals ++ [⟨port, pasid, page, (s.ats.filter (·.covers port pasid page false)).map fun e => (e.page, e.pages)⟩] }
    : State).finishInvals

/-- The translation that a completion grants (R403): its data is the length of the translated range, which is naturally aligned;
none says 4 KiB. -/
def TargetReq.granted (q : TargetReq) (port va : Nat) (bytes : List Byte) : AtsEntry :=
  let n := max 1 (natOfBytes bytes / 4096)
  ⟨port, q.pasid, va / 4096 / n * n, n, q.write⟩

/-- A completion: a translation is cached, or a page request follows its denial (R404); data is kept for the hart that waits until
its instruction runs again. -/
def State.completed (s : State) (q : TargetReq) (bytes : List Byte) (ok : Bool) : State :=
  let waits := (s.hart? q.hid).any fun h => h.waitTag == some q.tag
  let end_ (f : Hart → Hart) : State := if waits then s.updHart q.hid fun h => f { h with waitTag := none } else s
  match q.ats, q.loc, ok with
  | true, .hostb p va, true =>
    let t := end_ id
    { t with ats := t.ats ++ [q.granted p va bytes] }
  | _, .hostb p va, false =>
    if waits then (end_ fun h => { h with pri := some (p, va, q.write) }).send [.pageReq p q.pasid va q.write] else s
  | _, _, _ => end_ fun h => { h with replies := h.replies ++ [⟨bytes, ok, q.whole⟩] }

/-- Data that an engine has asked for (R298, R368). -/
def Fetch.answered (tag : Nat) (bytes : List Byte) (a : Fetch) : Fetch :=
  if a.tag = tag then { a with bytes := some ((bytes ++ List.replicate a.seg.len 0).take a.seg.len) } else a

/-- An engine awaits the completion of a tag. -/
def State.awaited (s : State) (tag : Nat) : Bool :=
  (s.ops.any fun o => o.asks.any fun a => a.tag == tag) || s.colls.any fun c => c.asks.any fun a => a.tag == tag

/-- The data reach the operations and collectives that asked for them. -/
def State.answerAsks (s : State) (tag : Nat) (bytes : List Byte) : State :=
  { s with
    ops := s.ops.map fun o => { o with asks := o.asks.map (Fetch.answered tag bytes) }
    colls := s.colls.map fun c => { c with asks := c.asks.map (Fetch.answered tag bytes) } }

/-- TARGET_COMPLETION (R254, R263, R404). -/
def execTargetCompletion (tag : Nat) (bytes : List Byte) (ok : Bool) (s : State) : Answer :=
  match s.targets.find? fun q => q.tag = tag with
  | none => .next s
  | some q =>
    let s : State := { s with targets := s.targets.filter fun q => q.tag ≠ tag }
    let s :=
      if q.store then s.post [.scalarStoreAck q.hid]
      else if s.awaited tag then s.answerAsks tag bytes
      else s.completed q bytes ok
    .next s.finishInvals

/-- The host's last word on a page request (R404): the page fault of the denied access is due, or the request begins again. -/
def Hart.priEnds (h : Hart) (ok : Bool) : Hart :=
  if h.pri.isSome then { h with pri := none, priDone := if ok then none else h.pri } else h

/-- PRI_RESPONSE (R404): Success starts the request again; any other response raises the page fault. -/
def execPriResponse (hid : Nat) (ok : Bool) (s : State) : Answer := .next (s.updHart hid (·.priEnds ok))

/-- PRI_TIMEOUT (R404). -/
def execPriTimeout (hid : Nat) (s : State) : Answer := .next (s.updHart hid (·.priEnds false))

-- remote atomic errors

/-- The meaning of an AMO or CAS, by its word (R178, R179). -/
def scalarAtomic (w : BitVec 32) : Option (State → Answer) :=
  let d := wordD w
  let a := wordA w
  let b := wordB w
  let o : BitVec 2 := w.extractLsb' 4 2
  let z : Bit1 := w.extractLsb' 0 1
  if wordMajor w = 0x0F then some (execCas d a b (w.extractLsb' 6 5) o 0 z)
  else if wordMajor w ≠ 0x0E then none
  else
    match wordOp w with
    | 0 => some (execAtswap d a b o 0 z)
    | 1 => some (execAtadd d a b o 0 z)
    | 2 => some (execAtand d a b o 0 z)
    | 3 => some (execAtor d a b o 0 z)
    | 4 => some (execAtxor d a b o 0 z)
    | 5 => some (execAtmin d a b o 0 z)
    | 6 => some (execAtmax d a b o 0 z)
    | 7 => some (execAtminN d a b o 0 z)
    | 8 => some (execAtmaxN d a b o 0 z)
    | 9 => some (execAtfadd d a b o 0 z)
    | 10 => some (execLdo d a o 0 z)
    | 11 => some (execSto a b o 0 z)
    | _ => none

/-- The meaning of a VAMO, by its word (R286). -/
def vectorAtomic (w : BitVec 32) : Option (State → Answer) :=
  let d := wordD w
  let a := wordA w
  let v := wordB w
  let c : Bit1 := w.extractLsb' 10 1
  let r : Bit1 := w.extractLsb' 9 1
  let g : Num3 := w.extractLsb' 6 3
  let z : Bit1 := w.extractLsb' 3 1
  if wordMajor w ≠ 0x39 then none
  else
    match bitsAt w.toNat 0 3 with
    | 0 => some (execVatadd d a v c r g z)
    | 1 => some (execVatswap d a v c r g z)
    | 2 => some (execVatand d a v c r g z)
    | 3 => some (execVator d a v c r g z)
    | 4 => some (execVatxor d a v c r g z)
    | 5 => some (execVatmin d a v c r g z)
    | 6 => some (execVatmax d a v c r g z)
    | _ => some (execVatfadd d a v c r g z)

/-- The meaning of a combining scatter, by its word (R283). -/
def combiningScatter (w : BitVec 32) : Option (State → Answer) :=
  let c : Bit1 := w.extractLsb' 10 1
  let g : Num3 := w.extractLsb' 6 3
  let e : Num3 := w.extractLsb' 3 3
  if wordMajor w ≠ 0x30 then none
  else if bitsAt w.toNat 0 3 = 4 then some (execVstxAdd (wordD w) (wordA w) (wordB w) c g e)
  else if bitsAt w.toNat 0 3 = 5 then some (execVstxFadd (wordD w) (wordA w) (wordB w) c g e)
  else none

/-- The state after an instruction that completes; none when it traps or waits. -/
def completes (f : State → Answer) (s : State) : Option State :=
  match f s with
  | .next t => if t.hart.pc = s.hart.pc + 4 ∧ t.hart.run = .ready ∧ t.hart.hid = s.hart.hid then some t else none
  | _ => none

/-- TVAL of a remote atomic error (R408). -/
def atomicErrorValue (applied : Bool) (va : Nat) : Word := wordOfNat (va % 2 ^ 57 + if applied then 2 ^ 63 else 0)

/-- A scalar AMO or CAS (R408): x[d] is unchanged; an effect that is applied, or may be, stands (R180). -/
def scalarAtomicError (f : State → Answer) (va : Nat) (applied : Bool) (s : State) : State :=
  let raise (t : State) := takeTrap true 11 (atomicErrorValue applied va) 0 t
  match s.hart.waitTag, completes f s with
  | some tag, _ =>
    raise ({ s with targets := s.targets.filter fun q => q.tag ≠ tag }.withHart fun h =>
      { h.settled with waitTag := none, pri := none, run := .ready })
  | none, some t => raise (if applied then { t with hart := s.hart } else s)
  | none, none => s

/-- A VAMO at element k (R408): elements below k are applied and returned, element k's register is unchanged. -/
def vectorAtomicError (f : State → Answer) (va k : Nat) (applied : Bool) (s : State) : State :=
  let upTo (n : Nat) := completes f (s.withHart fun h => { h with vl := n })
  match upTo k, upTo (k + 1) with
  | some t, some u =>
    let h : Hart := { t.hart with pc := s.hart.pc, vl := s.hart.vl, vstart := k, fbuf := s.hart.fbuf }
    takeTrap true 11 (atomicErrorValue applied va) h.suffix { (if applied then u else t) with hart := h }
  | _, _ => s

/-- A combining scatter (R285, R408): it completes, and the trap names the next instruction. -/
def scatterError (f : State → Answer) (va eb : Nat) (applied : Bool) (s : State) : State :=
  match completes f s, s.xlate va .atomic with
  | some t, .ok (loc, _) =>
    let t := if applied then t else t.putAt loc (s.bytesAt loc eb)
    takeTrap true 11 (atomicErrorValue applied va) 0 t
  | _, _ => s

/-- REMOTE_ATOMIC_ERROR (R180, R408): the home's error reply to the atomic that a hart executes next; `elem` is the element
of a vector atomic, or the first failing one of a combining scatter. -/
def execRemoteAtomicError (hid : Nat) (applied : Bool) (elem : Nat) (s : State) : Answer :=
  asHart hid (fun s =>
    match s.nextWord with
    | none => .next s
    | some w =>
      let g : Num3 := w.extractLsb' 6 3
      let reached := s.hart.vstart ≤ elem && (s.hart.actives g).contains elem
      match scalarAtomic w, vectorAtomic w, combiningScatter w with
      | some f, _, _ => .next (scalarAtomicError f (s.rx (wordA w)).toNat applied s)
      | _, some f, _ =>
        let eb := if w.getLsbD 3 then 8 else 4
        .next (if reached then vectorAtomicError f (s.indexAddr (wordA w) (wordB w) eb elem) elem applied s else s)
      | _, _, some f =>
        let eb := 2 ^ bitsAt w.toNat 3 3
        .next (if reached then scatterError f (s.indexAddr (wordA w) (wordB w) eb elem) eb applied s else s)
      | _, _, _ => .next s) s

-- atomics at the home

/-- The atomic that the acting hart executes next, and the addresses that it touches (R261). -/
def State.atomicNext (s : State) : Option ((State → Answer) × List Nat) :=
  s.nextWord.bind fun w =>
    let g : Num3 := w.extractLsb' 6 3
    let eb := if w.getLsbD 3 then 8 else 4
    ((scalarAtomic w).map fun f => (f, [(s.rx (wordA w)).toNat])).or
      ((vectorAtomic w).map fun f => (f, ((s.hart.actives g).filter (s.hart.vstart ≤ ·)).map (s.indexAddr (wordA w) (wordB w) eb)))

/-- A place of device memory in a line. -/
def State.onLine (s : State) (line va : Nat) : Bool :=
  match s.xlate va .atomic with
  | .ok (.dev a _, _) => a / 128 == line
  | _ => false

/-- HOME_ATOMIC (R261): the home's own die cache takes the line in M, by the moves of an RdX, and then performs the atomic on it
that a hart which may issue executes next. -/
def execHomeAtomic (a : HomeAccess) (s : State) : Answer :=
  if !s.cohOk (homeOf a.line) a.line then .next s
  else
    let s := s.updCoh (·.hold (homeOf a.line) a.line true)
    match s.hart? a.hid with
    | none => .next s
    | some h =>
      if !s.able h then .next s
      else
        asHart a.hid (fun s =>
          match s.atomicNext with
          | some (f, vas) => if vas.any (s.onLine a.line) then f s else .next s
          | none => .next s) s

end Sys2Proof.Machine
end

