-- ==== Sys2Proof/Machine/Kops.lean ====
section
/-!
DEFINITION. Mask operations: major 0x29 (R220, R221).
-/

namespace Sys2Proof.Machine

/-- A mask operation whose result is a mask: poison of a source bit stops it, no gauge check covers it (R145, R208). -/
def kbits (f : Bool → Bool → Bool) (d a : Num3) (b : Option Num3) (g : Num3) (s : State) : Answer :=
  let masks := a.toNat :: (b.map (·.toNat)).toList
  s.whenFree (d.toNat :: masks)
    (let stop := (s.hart.firstPoison g (masks.map Src.mask)).map fun p => (p.1, 7, p.2)
     let bit (i : Nat) := f (s.hart.maskBit a.toNat i) ((b.map fun k => s.hart.maskBit k.toNat i).getD false)
     .next (s.upToCut (s.hart.actives g) stop
       (fun is h => h.commit (fun h i x => h.setMaskBit d.toNat i (x == 1)) (fun i => (if bit i then 1 else 0, 0)) is)
       (State.plainEnd · stop)))

/-- KAND. -/
def execKand (d a b g : Num3) (s : State) : Answer := kbits (fun x y => x && y) d a (some b) g s
/-- KOR. -/
def execKor (d a b g : Num3) (s : State) : Answer := kbits (fun x y => x || y) d a (some b) g s
/-- KXOR. -/
def execKxor (d a b g : Num3) (s : State) : Answer := kbits (fun x y => x != y) d a (some b) g s
/-- KANDN. -/
def execKandn (d a b g : Num3) (s : State) : Answer := kbits (fun x y => x && !y) d a (some b) g s
/-- KNOT. -/
def execKnot (d a g : Num3) (s : State) : Answer := kbits (fun x _ => !x) d a none g s
/-- KMOV. -/
def execKmov (d a g : Num3) (s : State) : Answer := kbits (fun x _ => x) d a none g s

/-- KPOP and KFIRST: a scalar register from the active elements whose bit is 1, written at completion (R220). -/
def kscalar (f : List Nat → Word) (d : Reg) (a g : Num3) (s : State) : Answer :=
  s.whenFree [a.toNat]
    (let stop := (s.hart.firstPoison g [.mask a.toNat]).map fun p => (p.1, 7, p.2)
     let ones := (s.hart.actives g).filter fun i => s.hart.maskBit a.toNat i
     .next ((if stop.isSome then s else s.wx d (f ones)).plainEnd stop))

/-- KPOP. -/
def execKpop (d : Reg) (a g : Num3) (s : State) : Answer := kscalar (fun l => wordOfNat l.length) d a g s
/-- KFIRST. -/
def execKfirst (d : Reg) (a g : Num3) (s : State) : Answer :=
  kscalar (fun l => (l.head?.map wordOfNat).getD (BitVec.allOnes 64)) d a g s

/-- KMOV from SMISS (R221): older instructions have completed, the model being in order. -/
def execKmovSmiss (d : Num3) (s : State) : Answer :=
  s.whenFree [d.toNat]
    (.next ((s.withHart fun h => { h.setMask d.toNat h.smiss with smiss := 0 }).plainEnd none))

end Sys2Proof.Machine
end

