-- ==== Sys2Proof/Machine/Matrix.lean ====
section
/-!
DEFINITION. Matrix outer products and tile moves: majors 0x34 and 0x35 (R233 to R248). Each commits as a whole (R244).
-/

namespace Sys2Proof.Machine

-- tiles and formats

/-- ROWS and COLS are in the hart; AW of the present MTYPE (R233). -/
def Hart.aw (h : Hart) : Nat := if h.ifmt = 0 then 64 else 32

/-- Depth D of an input format (R235). -/
def depthOf (ifmt : Nat) : Nat :=
  match ifmt with
  | 0 => 1
  | 1 => 4
  | 2 | 3 => 16
  | _ => 32

/-- Bits of an input value (R235). -/
def inputBits (ifmt : Nat) : Nat :=
  match ifmt with
  | 0 => 64
  | 1 => 32
  | 2 | 3 => 16
  | 8 => 4
  | _ => 8

/-- The floating input format of an MTYPE from 0 to 5. -/
def inputFmt (ifmt : Nat) : Fmt := fmtOf ifmt

/-- The accumulator format when it is floating. -/
def accFmt (ifmt : Nat) : Fmt := if ifmt = 0 then f64 else f32

/-- A tile. -/
def Hart.tile (h : Hart) (k : BitVec 2) : Nat := (h.acc[k.toNat]?).getD 0

/-- Element (i, j) of a tile value at width `aw` (R233). -/
def tileElem (t aw i j : Nat) : Nat := bitsAt t (64 * (32 * i + j)) aw

/-- A tile value with the cell of element (i, j) replaced, zeros above the element. -/
def setTileElem (t i j x : Nat) : Nat := setBits t (64 * (32 * i + j)) 64 x

/-- Replace a tile; poison of the cells written goes. -/
def Hart.setTile (h : Hart) (k : BitVec 2) (t : Nat) (cells : List Nat) : Hart :=
  { h with
    acc := h.acc.setIfInBounds k.toNat t
    poison := h.poison.filter fun q => !(q.file == 2 && q.reg == k.toNat && cells.contains q.idx) }

/-- Poison of a tile's cell. -/
def Hart.cellPoison (h : Hart) (k : BitVec 2) (i j : Nat) : Option Word :=
  if h.poison.any fun q => q.file == 2 && q.reg == k.toNat && q.idx == 32 * i + j then
    some (regPoisonTval 2 k.toNat (32 * i + j)) else none

/-- The active elements (i, j) of a tile in ascending order, over rows that act. -/
def cellsOf (rows : List Nat) (cols : Nat) : List (Nat × Nat) := rows.flatMap fun i => (List.range cols).map fun j => (i, j)

-- when a die has no array left

/-- The grant-lost value with MX set (R388). -/
def matrixLost (die grant : Nat) : Word := wordOfNat (2 ^ 63 + die * 2 ^ 56 + grant * 256 + grant)

/-- An MXOP or MXMV on a tile: grant lost when the die's arrays are out of service (R245), and the refit of R82. -/
def onTile (k : BitVec 2) (m : State → Answer) (s : State) : Answer :=
  if s.svc.units.arraysOn k.toNat = 0 then
    let t := takeTrap true 14 (matrixLost k.toNat s.hart.grant) 0 s
    .next { t with inbox := .refit :: t.inbox }
  else m s

/-- Clocks in which an outer product waits only on throttle gating are not charged (R24): a free number of the clocks gated since
the instruction before it was done. -/
def State.waive (s : State) : State :=
  let gated := s.svc.gated - s.hart.gatedAt
  if gated = 0 then s
  else
    { s with
      draw := s.draw + 1
      hart := { s.hart with since := s.hart.since + min (Config.uncharged s.draw) gated } }

-- operands

/-- The pattern of value t of row r of an operand register (R238). -/
def inputPat (ifmt v r t : Nat) : Nat :=
  if ifmt = 8 then bitsAt v (128 * r + 4 * t) 4 else bitsAt v ((r * depthOf ifmt + t) * inputBits ifmt) (inputBits ifmt)

/-- A floating input value; a B4 row with scale 255 is NaN (R157, R238). -/
def inputVal (ifmt v r t : Nat) : FVal :=
  if ifmt = 8 then
    let sc := bitsAt v (8 * (512 + r)) 8
    let m := sextNat (inputPat 8 v r t) 4
    if sc = 255 then .nan false else .fin (m < 0) m.natAbs ((sc : Int) - 127)
  else (inputFmt ifmt).unpack (inputPat ifmt v r t)

/-- An integer input value: i8 or n8. -/
def inputInt (ifmt v r t : Nat) : Int :=
  if ifmt = 6 then sextNat (inputPat ifmt v r t) 8 else inputPat ifmt v r t

/-- Words of 64 bits of an operand register that hold a row. -/
def rowWords (ifmt r : Nat) : List Nat :=
  if ifmt = 8 then [2 * r, 2 * r + 1, 64 + r / 8]
  else
    let bytes := depthOf ifmt * inputBits ifmt / 8
    (List.range (bytes / 8)).map (· + r * bytes / 8)

/-- Poison of a row of an operand register; the element is the first value of the row. -/
def Hart.rowPoison (h : Hart) (ifmt : Nat) (v : Reg) (r : Nat) : Option Word :=
  let ws := rowWords ifmt r
  if h.poison.any fun q => q.file == 0 && q.reg == v.toNat && ws.contains q.idx then
    some (regPoisonTval 0 v.toNat (r * depthOf ifmt)) else none

-- outer products

/-- A product of two values before any rounding. -/
def mulExact (a b : FVal) : FVal :=
  match a, b with
  | .nan q, _ | _, .nan q => .nan q
  | .inf n, .inf n' => .inf (n != n')
  | .inf n, .fin n' m _ | .fin n' m _, .inf n => if m = 0 then .nan false else .inf (n != n')
  | .fin n m e, .fin n' m' e' => .fin (n != n') (m * m') (e + e')

/-- The exact sum of finite terms as an integer times 2^base. -/
def sumExact (ts : List FVal) : Int × Int :=
  let es := ts.filterMap fun v => match v with
    | .fin _ m e => if m = 0 then none else some e
    | _ => none
  let base := es.foldl min (es.headD 0)
  ((ts.map fun v => match v with
    | .fin n m e => if m = 0 then 0 else scaled n m e base
    | _ => 0).sum, base)

/-- A floating accumulator element after its term (R240, R241). -/
def mxElement (F : Fmt) (r : Rounding) (minus : Bool) (x : FVal) (ps : List (FVal × FVal)) : Nat × Nat :=
  let vals := x :: ps.flatMap fun p => [p.1, p.2]
  if vals.any (·.isNan) then (F.nan, snanFlag vals)
  else
    let prods := ps.map fun p => (mulExact p.1 p.2).flip minus
    let terms := x :: prods
    if prods.any (·.isNan) then (F.nan, flagNV)
    else
      let inf (n : Bool) := terms.contains (.inf n)
      if inf true && inf false then (F.nan, flagNV)
      else if inf true || inf false then (F.signed (inf true) F.infPat, 0)
      else
        let (m, base) := sumExact terms
        let allNeg := terms.all (·.neg)
        let allPos := terms.all fun t => !t.neg
        roundInt F r m base (allNeg || (r.mode == 2 && !allPos))

/-- One accumulator element after an outer product: its bits and its flags. -/
def mxCell (ifmt : Nat) (r : Rounding) (minus : Bool) (x va vb i j : Nat) : Nat × Nat :=
  let ts := List.range (depthOf ifmt)
  if ifmt = 6 ∨ ifmt = 7 then
    let p := (ts.map fun t => inputInt ifmt va i t * inputInt ifmt vb j t).sum
    (wrapInt ((x : Int) + if minus then -p else p) 32, 0)
  else
    let F := accFmt ifmt
    mxElement F r minus (F.unpack x) (ts.map fun t => (inputVal ifmt va i t, inputVal ifmt vb j t))

/-- The array that runs granule q of a hart's outer product on a die: the next one in service (R242, R245). -/
def State.arrayFor (s : State) (die q : Nat) : Nat :=
  let first := 4 * (s.hart.hid % 16) + q
  (((List.range 64).map fun k => (first + k) % 64).find? fun a =>
    !(s.svc.units.arraysOut.any fun p => p.die == die && p.lgrp == a)).getD first

/-- The rows of an outer product that act (R240). -/
def Hart.mxRows (h : Hart) (g : Num3) : List Nat := (List.range h.mrows).filter (h.guardBit g)

/-- The first cell of an outer product that reads poison, with its trap value; a guard bit counts at the first cell of its row, whether
or not a row turns out active (R240, R405; DESIGN CHOICE: log 77). -/
def Hart.mxPoison (h : Hart) (k : BitVec 2) (a b : Reg) (g : Num3) (cells : List (Nat × Nat)) : Option (Nat × Word) :=
  if h.poison.isEmpty || h.mcols = 0 then none
  else
    let guard := if g = 0 then none
      else (List.range h.mrows).findSome? fun i => (h.srcPoison (.mask g.toNat) i).map fun t => (32 * i, t)
    let cell := cells.findSome? fun c =>
      (((h.rowPoison h.ifmt a c.1).or (h.rowPoison h.ifmt b c.2)).or (h.cellPoison k c.1 c.2)).map fun t => (32 * c.1 + c.2, t)
    match guard, cell with
    | some x, some y => some (if y.1 < x.1 then y else x)
    | x, y => x.or y

/-- What stops an outer product before any effect: a gauge mismatch at an active element (R244, R388, R445), or poison at an
element that comes no later (R405, R410). -/
def State.mxStop (s : State) (k : BitVec 2) (a b : Reg) (g : Num3) : Option (Nat × Word) :=
  let h := s.hart
  let cells := cellsOf (h.mxRows g) h.mcols
  let gauge := match h.gauge with
    | some (.mismatch e) =>
      if cells.contains (e / 32, e % 32) then
        some (e, 8, wordOfNat (k.toNat * 2 ^ 62 + s.arrayFor k.toNat (e / 32 / 8) % 64 * 2 ^ 56 + 2 ^ 47 + e))
      else none
    | _ => none
  (firstStop ((h.mxPoison k a b g cells).map fun p => (p.1, 7, p.2)) gauge).map (·.2)

/-- The check of an outer product that had an element to check: a strike on an array that ran it (R146). -/
def State.settleArray (s : State) (k : BitVec 2) (rows : List Nat) : State :=
  match s.hart.gauge with
  | none => s
  | some r =>
    let s := s.withHart fun h => { h with gauge := none }
    match r with
    | .strikeArray d a =>
      if d = k.toNat ∧ rows.any fun i => s.arrayFor d (i / 8) = a then s.strike ⟨d, a, 0, 255⟩ else s
    | _ => s

/-- MXOPA and MXOPS (R240). -/
def mxop (minus : Bool) (k : BitVec 2) (a b : Reg) (g : Num3) (s : State) : Answer :=
  onTile k (fun s =>
    let h := s.hart
    let rows := h.mxRows g
    match s.mxStop k a b g with
    | some (code, t) =>
      .next (takeTrap true code t 0 (s.withHart fun h => { h with gauge := if code = 8 then none else h.gauge }))
    | none =>
      let r : Rounding := ⟨if h.frm = 5 then 0 else h.frm, 0⟩
      let t0 := h.tile k
      let cells := cellsOf rows h.mcols
      let outs := cells.map fun c =>
        (c, mxCell h.ifmt r minus (tileElem t0 h.aw c.1 c.2) (h.vreg a.toNat) (h.vreg b.toNat) c.1 c.2)
      let t := outs.foldl (fun t o => setTileElem t o.1.1 o.1.2 o.2.1) t0
      let fl := outs.foldl (fun f o => f ||| o.2.2) 0
      let s := s.waive.withHart fun h => { (h.setTile k t []).raise fl with vstart := 0 }
      .next (if cells.isEmpty then s.advance else (s.settleArray k rows).advance)) s

/-- MXOPA. -/
def execMxopa (d : BitVec 2) (a b : Reg) (_c _e : Bit1) (g : Num3) (s : State) : Answer := mxop false d a b g s
/-- MXOPS. -/
def execMxops (d : BitVec 2) (a b : Reg) (_c _e : Bit1) (g : Num3) (s : State) : Answer := mxop true d a b g s

-- moves

/-- MXZERO (R247). -/
def execMxzero (d : BitVec 2) (s : State) : Answer :=
  onTile d (fun s =>
    .next (s.withHart fun h => { h.setTile d 0 (List.range 1024) with vstart := 0 }).advance) s

/-- MXROW and MXCOL (R247): the listed tile elements go to elements 0, 1, … of a vector register. -/
def mxmove (d : Reg) (k : BitVec 2) (cells : List (Nat × Nat)) (s : State) : Answer :=
  let h := s.hart
  let c : VCfg := ⟨h.aw, false, 1, h.grant * 8192 / h.aw⟩
  match (if h.poison.isEmpty then none else cells.findSome? fun p => h.cellPoison k p.1 p.2) with
  | some t => .next (takeTrap true 7 t 0 s)
  | none =>
    let t := h.tile k
    .next (s.withHart fun h =>
      { ((List.range cells.length).zip cells).foldl
          (fun h q => h.setElem c d.toNat q.1 (tileElem t c.w q.2.1 q.2.2)) h with vstart := 0 }).advance

/-- How many rows or columns of `len` elements a move takes from `first` on: those that exist and that fit. -/
def moved (total first len : Nat) (h : Hart) : Nat :=
  if len = 0 then 0 else min (total - first) (h.grant * 8192 / h.aw / len)

/-- MXROW. -/
def execMxrow (d : Reg) (a : BitVec 2) (b : Reg) (s : State) : Answer :=
  onTile a (fun s =>
    let h := s.hart
    let fr := (s.rx b).toNat
    let n := moved h.mrows fr h.mcols h
    mxmove d a ((List.range (n * h.mcols)).map fun k => (fr + k / h.mcols, k % h.mcols)) s) s

/-- MXCOL. -/
def execMxcol (d : Reg) (a : BitVec 2) (b : Reg) (s : State) : Answer :=
  onTile a (fun s =>
    let h := s.hart
    let fc := (s.rx b).toNat
    let n := moved h.mcols fc h.mrows h
    mxmove d a ((List.range (n * h.mrows)).map fun k => (k % h.mrows, fc + k / h.mrows)) s) s

-- loads and stores

/-- The address of element (i, j) (R248). -/
def tileAddr (cm : Bool) (base : Nat) (stride : Int) (eb i j : Nat) : Nat :=
  if cm then wrapInt (base + j * stride + i * eb) 64 else wrapInt (base + i * stride + j * eb) 64

/-- The addresses of a tile's active elements. -/
def State.tileVas (s : State) (cm : Bool) (a b : Reg) (cells : List (Nat × Nat)) : List Nat :=
  cells.map fun c => tileAddr cm (s.rx a).toNat (s.rx b).toInt (s.hart.aw / 8) c.1 c.2

/-- Steps 2 and 3 of R248 for every active element: alignment, then places in ascending (i, j). A and D bits that the translation of an
element has set stay set when a later one traps (R400; DESIGN CHOICE: log 78). -/
def tilePlaces (cm : Bool) (a b : Reg) (acc : Access) (cells : List (Nat × Nat)) : Act (List (Nat × Nat × Nat × Loc)) := do
  let s ← get
  let eb := s.hart.aw / 8
  let x := s.rx a
  Act.check (x.toNat % eb == 0 && (s.rx b).toNat % eb == 0) 3 x
  cells.mapM fun c => do
    let va := tileAddr cm x.toNat (s.rx b).toInt eb c.1 c.2
    let loc ← Act.reach va acc true
    Act.check (!loc.isIo) accessFault (wordOfNat va)
    pure (c.1, c.2, va, loc)

/-- MXLD (R248). A host denies an element's page only once every element is translated, in the order in which step 4 reads them (DESIGN
CHOICE: log 78). -/
def mxld (cm : Bool) (k : BitVec 2) (a b : Reg) (s : State) : Answer :=
  onTile k (fun s =>
    let h := s.hart
    let cells := cellsOf (List.range h.mrows) h.mcols
    if cells.isEmpty then .next (s.withHart fun h => { h with vstart := 0 }).advance
    else
      Act.run false (do
        Act.drain
        let (places, xs) ← Act.holding .read (s.tileVas cm a b cells) (do
          Act.granule
          let places ← tilePlaces cm a b .read cells
          let xs ← places.mapM fun p => Act.load p.2.2.1 p.2.2.2 (h.aw / 8) (some k.toNat)
          pure (places, xs)) true
        Act.upd fun s => (s.withHart fun h =>
          { h.setTile k ((places.zip xs).foldl (fun t q => setTileElem t q.1.1 q.1.2.1 q.2) (h.tile k))
              (cells.map fun c => 32 * c.1 + c.2) with vstart := 0 }).advance) s) s

/-- What MXST writes, in order (R248, R348). -/
def Hart.tilePieces (h : Hart) (k : BitVec 2) (places : List (Nat × Nat × Nat × Loc)) : List Piece :=
  (List.range places.length).zipWith (fun n p =>
    ⟨n, if p.2.2.2.outside then some p.2.2.2 else none,
      fun s => s.storeAt p.2.2.2 (bytesOf (tileElem (h.tile k) h.aw p.1 p.2.1) (h.aw / 8)) (some k.toNat)⟩) places

/-- MXST (R248): the tile elements are stored in ascending (i, j), once all of them may be. -/
def mxst (cm : Bool) (k : BitVec 2) (a b : Reg) (s : State) : Answer :=
  onTile k (fun s =>
    let h := s.hart
    let cells := cellsOf (List.range h.mrows) h.mcols
    if cells.isEmpty then .next (s.withHart fun h => { h with vstart := 0 }).advance
    else
      Act.run false (do
        Act.drain
        let places ← Act.holding .write (s.tileVas cm a b cells) (do
          Act.granule
          let places ← tilePlaces cm a b .write cells
          if h.begun.stored = 0 then do
            match (if h.poison.isEmpty then none else cells.findSome? fun c => h.cellPoison k c.1 c.2) with
            | some t => Act.trap 7 t
            | none => pure ()
            Act.pushAll (places.map (·.2.2.2))
          else pure ()
          Act.perform markStored ((h.tilePieces k places).drop h.begun.stored)
          pure places) true
        Act.upd fun s =>
          ((s.mend (places.map fun p => ⟨p.2.2.2, h.aw / 8⟩)).withHart fun h => { h with vstart := 0 }).advance) s) s

/-- MXLD.rm. -/
def execMxldRm (d : BitVec 2) (a b : Reg) (s : State) : Answer := mxld false d a b s
/-- MXLD.cm. -/
def execMxldCm (d : BitVec 2) (a b : Reg) (s : State) : Answer := mxld true d a b s
/-- MXST.rm. -/
def execMxstRm (d : BitVec 2) (a b : Reg) (s : State) : Answer := mxst false d a b s
/-- MXST.cm. -/
def execMxstCm (d : BitVec 2) (a b : Reg) (s : State) : Answer := mxst true d a b s

end Sys2Proof.Machine
end

