-- ==== Sys2Proof/Machine/Perm.lean ====
section
/-!
DEFINITION. Permutations: major 0x2A (R222, R223). Each commits as a whole and reads its sources whole (R142, R209).
-/

namespace Sys2Proof.Machine

/-- Poison of a source read whole, where some element is active (R208, R391): the first poisoned element below VL of the first such
source. -/
def Hart.wholePoison (h : Hart) (g : Num3) (srcs : List Src) : Option StopAt :=
  if h.poison.isEmpty then none
  else
    let guard := if g = 0 then none
      else ((List.range h.vl).drop h.vstart).findSome? fun i => (h.srcPoison (.mask g.toNat) i).map fun t => (i, 7, t)
    let all := if (h.actives g).isEmpty then none
      else (List.range h.vl).findSome? fun i => srcs.findSome? fun x => (h.srcPoison x i).map fun t => (i, 7, t)
    firstStop guard all

/-- How many of the bits [0, i) of a number are 1. -/
def popBelow (x i : Nat) : Nat := ((List.range i).filter x.testBit).length

/-- A permutation: `val` gives the new value of a destination element, or none when it keeps its value. `ok` is its
configuration check and `masks` are the mask registers that it reads as sources. -/
def vperm (ok : VCfg → Bool) (word : Nat) (srcs : VCfg → List Src) (masks : List Nat) (guard : Num3) (elems : List Nat)
    (d : Reg) (val : VCfg → Nat → Option Nat) (s : State) : Answer :=
  let k := s.hart.cfg
  if !(aligned k d && ok k) then illegalWord word s
  else
    s.whenFree masks
      (.next (s.vecWhole (s.hart.wholePoison guard (srcs k ++ masks.map Src.mask)) [] (fun _ => 0) fun s =>
        s.withHart fun h => elems.foldl (fun h i => match val k i with
          | some x => h.setElem k d.toNat i x
          | none => h) h))

/-- The groups of two operands do not overlap. -/
def disjointFrom (k : VCfg) (d a : Reg) : Bool := aligned k a && !overlaps d.toNat k.gm a.toNat k.gm

/-- A permutation of one group under a guard, with a scalar. -/
def vperm1 (base : Nat) (d a b : Reg) (c : Bit1) (g : Num3) (val : VCfg → Nat → Option Nat) (s : State) : Answer :=
  vperm (fun k => disjointFrom k d a) (wordV base d a b c 0 g) (fun k => [.vec k a.toNat]) [] g (s.hart.actives g) d val s

/-- VSLIDEUP. -/
def execVslideup (d a b : Reg) (c : Bit1) (g : Num3) (s : State) : Answer :=
  vperm1 0xA8000000 d a b c g (fun _ i => if (s.rx b).toNat ≤ i then some (s.hart.el a (i - (s.rx b).toNat)) else none) s

/-- VSLIDEDN. -/
def execVslidedn (d a b : Reg) (c : Bit1) (g : Num3) (s : State) : Answer :=
  vperm1 0xA8000001 d a b c g (fun _ i => some (if i + (s.rx b).toNat < s.hart.vl then s.hart.el a (i + (s.rx b).toNat) else 0)) s

/-- VINSLO. -/
def execVinslo (d a b : Reg) (c : Bit1) (g : Num3) (s : State) : Answer :=
  vperm1 0xA8000002 d a b c g (fun k i => some (if i = 0 then (s.rx b).toNat % 2 ^ k.w else s.hart.el a (i - 1))) s

/-- VINSHI. -/
def execVinshi (d a b : Reg) (c : Bit1) (g : Num3) (s : State) : Answer :=
  vperm1 0xA8000003 d a b c g (fun k i => some (if i + 1 = s.hart.vl then (s.rx b).toNat % 2 ^ k.w else s.hart.el a (i + 1))) s

/-- VBCAST. -/
def execVbcast (d a b : Reg) (c : Bit1) (g : Num3) (s : State) : Answer :=
  vperm1 0xA8000005 d a b c g (fun _ _ => some (if (s.rx b).toNat < s.hart.vl then s.hart.el a (s.rx b).toNat else 0)) s

/-- VREV. -/
def execVrev (d a : Reg) (c : Bit1) (g : Num3) (s : State) : Answer :=
  vperm1 0xA8000009 d a 0 c g (fun _ i => some (s.hart.el a (s.hart.vl - 1 - i))) s

/-- VSHUF. -/
def execVshuf (d a b : Reg) (c e : Bit1) (g : Num3) (s : State) : Answer :=
  vperm (fun k => disjointFrom k d a && disjointFrom k d b) (wordV 0xA8000004 d a b c e g)
    (fun k => [.vec k a.toNat, .vec k b.toNat]) [] g (s.hart.actives g) d
    (fun _ i => let j := s.hart.el b i; some (if j < s.hart.vl then s.hart.el a j else 0)) s

/-- The positions below VL whose bit of a mask is 1, ascending. -/
def State.onesOf (s : State) (b : Num3) : List Nat := (List.range s.hart.vl).filter fun i => s.hart.maskBit b.toNat i

/-- VCOMPRESS. -/
def execVcompress (d a : Reg) (b : Num3) (c : Bit1) (s : State) : Answer :=
  let ones := s.onesOf b
  vperm (fun k => disjointFrom k d a && s.hart.vstart == 0) (wordV 0xA8000006 d a (b.setWidth 5) c 0 0)
    (fun k => [.vec k a.toNat]) [b.toNat] 0 (List.range ones.length) d
    (fun _ m => ones[m]?.map (s.hart.el a)) s

/-- VEXPAND. -/
def execVexpand (d a : Reg) (b : Num3) (c : Bit1) (s : State) : Answer :=
  let ones := s.onesOf b
  let low := s.hart.maskLow b.toNat
  vperm (fun k => disjointFrom k d a && s.hart.vstart == 0) (wordV 0xA8000007 d a (b.setWidth 5) c 0 0)
    (fun k => [.vec k a.toNat]) [b.toNat] 0 ones d
    (fun _ i => some (s.hart.el a (popBelow low i))) s

/-- VIOTA. -/
def execViota (d : Reg) (b g : Num3) (s : State) : Answer :=
  let low := s.hart.maskLow b.toNat
  vperm (fun _ => true) (wordV 0xA8000008 d 0 (b.setWidth 5) 0 0 g) (fun _ => []) [b.toNat] g (s.hart.actives g) d
    (fun k i => some (popBelow low i % 2 ^ k.w)) s

end Sys2Proof.Machine
end

