-- ==== Sys2Proof/Machine/Power.lean ====
section
/-!
DEFINITION. Power states, throttling and heat (R20 to R25), boot and its journal (R415, R416), and the link service
routine (R409, R417): the events POWER_READING, STANDBY_ENTRY, STANDBY_EXIT_DONE, POWER_REMOVED, BOOT and LINK_SERVICE.
-/

namespace Sys2Proof.Machine

-- readings

/-- Clocks that are not charged to the budgets of the placed harts, at most `bound` each: which ones waited on a paused link is
open (R409). -/
def State.uncharge (s : State) (bound : Nat) : State :=
  let hs := s.placed.filter fun h => h.lid ≠ 0
  let give (s : State) (p : Nat × Hart) : State :=
    s.updHart p.2.hid fun h => { h with since := min s.clock (h.since + Config.uncharged (s.draw + p.1) % (bound + 1)) }
  let t := ((List.range hs.length).zip hs).foldl give s
  { t with draw := t.draw + hs.length }

/-- The throttle level and the count of low readings after a reading (R23). -/
def throttleNext (readings : List Nat) (level low : Nat) : Nat × Nat :=
  let sum := readings.sum
  let n := readings.length
  let low := if sum < 2700000 * n then low + 1 else 0
  if 2800000 * n < sum then (min 8 (level + 1), low)
  else if low = 10 then (level - 1, 0)
  else (level, low)

/-- The end of a launch at a thermal trip (R25): a delivery failure, or the one that it was on its way to already, whose CAUSE and
HART it keeps (R413). -/
def State.endByTrip (s : State) (l : Launch) : State :=
  if l.ending = some 13 then (s.removeHarts l.lid).finalize l.lid 13 else s.deliveryFail l.lid 4

/-- A launch whose record is due gets it at a thermal trip, as a delivery failure (R25, R413, R423); one that was final before
keeps its state (R83), and its report is entered into the log (R420). -/
def State.reportTrip (s : State) (lid : Nat) : State :=
  match s.launch? lid with
  | none => s
  | some l =>
    if l.recordDone then s
    else if l.state = 13 || l.compl = 0 then s.writeRecord l
    else (s.logEvent 7 lid 4).writeRecord { l with state := 13, cause := 4, causeHart := 0xFFFF, causeValue := 0 }

/-- THERMAL_TRIP (R25): admission stops, every report is written, the journal keeps the trip, and power goes. -/
def State.trip (s : State) : State :=
  let lids := s.lu.launches.map (·.lid)
  let s : State := { s with lu := { s.lu with thermal := true } }
  let s := s.live.foldl State.endByTrip s
  let s := lids.foldl State.reportTrip s
  (s.journal ⟨1, 0, 1, 0, s.svc.bootCount, 0⟩).post [.powerRemoved]

/-- POWER_READING (R23, R25): the draw in mW, the hottest junction in tenths of a degree. -/
def execPowerReading (mw decic : Nat) (s : State) : Answer :=
  if s.svc.power = .off then .next s
  else
    let readings := (mw :: s.svc.readings).take 10
    let (level, low) := throttleNext readings s.svc.throttle s.svc.low
    let level := if 1000 ≤ decic then 8 else level
    let s : State := { s with svc := { s.svc with readings := readings, throttle := level, low := low } }
    .next (if 1100 ≤ decic && !s.lu.thermal then s.trip else s)

-- power states

/-- STANDBY_ENTRY (R21): only when no launch is admitted or queued. -/
def execStandbyEntry (s : State) : Answer :=
  .next (if s.svc.power = .run ∧ s.live = [] ∧ !s.lu.thermal then { s with svc := { s.svc with power := .standby } } else s)

/-- Idle (R21): in Run, a lane group whose storage no placed hart has is clock-gated; a hart of grant g has the lane groups of
its granules, which are those below g (R94, R445), and none for the arrays that hold its tiles (R242; DESIGN CHOICE: log 69). -/
def State.idleGroup (s : State) (lgrp : Nat) : Bool := s.svc.power == .run && s.placed.all fun h => h.grant ≤ lgrp

/-- STANDBY_EXIT_DONE (R21, R22): in Standby the supervisor starts the exit; once it is done, the launches that are ready may
start. -/
def execStandbyExitDone (s : State) : Answer :=
  .next (match s.svc.power with
    | .standby => s.wakeUp
    | .waking =>
      ({ s with svc := { s.svc with power := .run } } : State).post
        ((s.live.filter fun l => l.state = 1).map fun l => .launchStart l.lid)
    | _ => s)

/-- What stays of the module without power: the journal and a request to clear it, the key table, the boot count, the FID
(R357), and what has left the module. -/
def State.kept (s : State) : State :=
  let r := State.reset
  { r with
    lu := { r.lu with keys := s.lu.keys }
    svc := { r.svc with
      power := .off, bootCount := s.svc.bootCount, journal := s.svc.journal, clearJournal := s.svc.clearJournal
      nonces := s.svc.nonces }
    fabric := { r.fabric with fid := s.fabric.fid }
    outbox := s.outbox
    draw := s.draw }

/-- POWER_REMOVED (R21): everything volatile is lost. -/
def execPowerRemoved (s : State) : Answer := .next s.kept

-- boot

/-- How many alternatives a step has beside the full form (R415). -/
def bootAlts : Nat → Nat
  | 2 | 3 | 4 | 6 | 8 | 9 | 10 => 1
  | 5 => 2
  | _ => 0

/-- Boot as far as it has come. -/
structure BootRun where
  units : Units
  journal : List JEntry
  stopped : Bool
  deriving DecidableEq, Repr

/-- A place from the journal's DETAIL. -/
def placeOf (d : Nat) : Place := ⟨bitsAt d 24 8, bitsAt d 16 8, bitsAt d 8 8, bitsAt d 0 8⟩

/-- A place taken out of service, as its alternative says: 1 for a lane retired to the spare or an array, 2 for a fenced
unit (R406). -/
def Units.without (u : Units) (alt : Nat) (p : Place) : Units :=
  if p.lane = 255 then { u with arraysOut := u.arraysOut ++ [p] }
  else if alt = 1 then { u with retired := u.retired ++ [p] }
  else { u with fenced := u.fenced ++ [{ p with lane := 0 }] }

/-- Step 7 on a die: the places lost before stay out of service, and those that fail now are retired or fenced. -/
def BootRun.lanes (b : BootRun) (old : List JEntry) (count die : Nat) (fails : List BootFail) : BootRun :=
  let before := (old.filter fun e => e.step = 7 ∧ e.unit = die ∧ e.outcome ≠ 0).map fun e => (e.alt, placeOf e.detail)
  let now := (fails.filter fun f => f.step = 7 ∧ f.unit = die ∧ 0 < f.count).map fun f => { placeOf f.detail with die := die }
  let u := before.foldl (fun u q => u.without q.1 q.2) b.units
  let add (b : BootRun) (p : Place) : BootRun :=
    let out := b.units.arraysOut.contains p || b.units.retired.contains p || b.units.isFenced p.die p.lgrp p.unit
    if out && (p.lane != 255 || b.units.arraysOut.contains p) then b
    else
      let alt := if p.lane = 255 || b.units.retiredIn p.die p.lgrp p.unit = 0 then 1 else 2
      { b with units := b.units.without alt p, journal := journalPut ⟨7, die, 2, alt, count, placeDetail p⟩ b.journal }
  let b := { b with
    units := u
    journal := if before.isEmpty then journalPut ⟨7, die, 0, 0, count, 0⟩ b.journal else b.journal }
  now.foldl add b

/-- The alternative of a unit, in service as far as it goes. -/
def Units.withAlt (u : Units) (step unit alt : Nat) : Units :=
  if alt = 0 then u
  else
    match step with
    | 2 | 8 => { u with coresOut := if u.coresOut.contains unit then u.coresOut else u.coresOut ++ [unit] }
    | 4 | 5 => { u with links := u.links.setIfInBounds unit alt }
    | 6 => { u with stacksOut := u.stacksOut ++ [unit] }
    | 9 => { u with portsOut := u.portsOut ++ [unit] }
    | 10 => { u with host := u.host.setIfInBounds unit ⟨false, 0, 0⟩ }
    | _ => u

/-- One step of boot on one unit (R415, R416): it begins at the alternative that the journal names, and goes to the next
one at each failure. `trip` says that the previous shutdown was a thermal trip. -/
def BootRun.step (old : List JEntry) (count : Nat) (trip : Bool) (fails : List BootFail) (b : BootRun) (su : Nat × Nat) :
    BootRun :=
  let (step, unit) := su
  if b.stopped then b
  else if step = 7 then b.lanes old count unit fails
  else if step = 1 then
    if trip then b else { b with journal := journalPut ⟨1, 0, 0, 0, count, 0⟩ b.journal }
  else
    let first := ((old.find? fun e => e.step = step ∧ e.unit = unit ∧ e.outcome ≠ 0).map (·.alt)).getD 0
    let fail := fails.find? fun f => f.step = step ∧ f.unit = unit
    let alt := first + (fail.map (·.count)).getD 0
    let last := bootAlts step
    let ends := ((step = 2 ∨ step = 8) ∧ unit = 0 ∧ 0 < alt) ∨ ((step = 3 ∨ step = 4 ∨ step = 11) ∧ last < alt)
    let alt := min alt last
    let outcome := if ends then 1 else if alt = 0 then 0 else 2
    { units := b.units.withAlt step unit alt
      journal := journalPut ⟨step, unit, outcome, alt, count, (fail.map (·.detail)).getD 0⟩ b.journal
      stopped := decide ends }

/-- BOOT (R415, R416): power returns, and the steps run with the failures that are named; the reserved minima, the boot records
and each MNONCE take their values (R43, R74, R418). -/
def execBoot (fails : List BootFail) (s : State) : Answer :=
  if s.svc.power ≠ .off then .next s
  else
    let count := s.svc.bootCount + 1
    let old := if s.svc.clearJournal then [] else s.svc.journal
    let trip := old.any fun e => e.step == 1 && e.outcome == 1 && e.boot == s.svc.bootCount
    let b := bootUnits.foldl (BootRun.step old count trip fails) ⟨Units.full, old, false⟩
    let k := s.kept
    let owned := b.units.numSlots - b.units.numFloor
    let k : State := { k with
      lu := { k.lu with rmin0 := 16 * owned, rmin1 := 8 * owned, bootKeys := k.lu.keys }
      svc := { k.svc with
        power := .run, bootCount := count, journal := b.journal, clearJournal := false, bootStopped := b.stopped
        units := { b.units with bootCoresOut := b.units.coresOut } } }
    let k : State := { k with svc := { k.svc with units := { k.svc.units with largest := k.largestNow } } }
    .next ((k.renewNonce 0).renewNonce 1)

-- die links

/-- LINK_SERVICE (R409, R417): `outcome` is 0 full width, 1 half width, 2 routed through a third die, which only a
lane-to-lane link can be, 3 failed, which only a die S link can be. A link does not return from an alternative: only JCLEAR
restores it (R416). -/
def execLinkService (link outcome : Nat) (s : State) : Answer :=
  let fits := if link < 4 then outcome = 0 ∨ outcome = 1 ∨ outcome = 3 else link < 10 ∧ outcome < 3
  if s.svc.power = .off ∨ ¬ fits then .next s
  else
    let outcome := max outcome ((s.svc.units.links[link]?).getD 0)
    let s := s.uncharge 380000
    let s := s.updUnits fun u => { u with links := u.links.setIfInBounds link outcome, seqLinks := u.seqLinks + 2 }
    let s := s.logEvent 8 link outcome
    let s := s.journal ⟨if link < 4 then 4 else 5, link, if outcome = 0 then 0 else if outcome = 3 then 1 else 2,
      if outcome = 3 then 1 else outcome, s.svc.bootCount, 0⟩
    .next (if outcome = 3 then (s.live.map (·.lid)).foldl (fun s lid => s.deliveryFail lid 5) s else s)

end Sys2Proof.Machine
end

