-- ==== Sys2Proof/Machine/Red.lean ====
section
/-!
DEFINITION. Reductions: major 0x2B (R224, R225). Each commits as a whole.
-/

namespace Sys2Proof.Machine

/-- Elements that the gauge check of a reduction may choose: those of the first halving step that combine an active element
(R145, R445); a single element is its own. -/
def Hart.firstHalves (h : Hart) (g : Num3) : List Nat :=
  let half := 2 ^ log2Up h.vl / 2
  let acts := h.actives g
  if half = 0 then acts else (List.range half).filter fun i => acts.contains i || acts.contains (i + half)

/-- A reduction: `f` maps the active operands in order, with padding, to the scalar and the flags. -/
def vreduce (ok : Bool) (word : Nat) (f : List (Option Nat) → Word × Nat) (d a : Reg) (g : Num3) (s : State) : Answer :=
  let k := s.hart.cfg
  if !(aligned k a && ok) then illegalWord word s
  else
    let checked := s.hart.firstHalves g
    let stop := firstStop ((s.hart.firstPoison g [.vec k a.toNat]).map fun p => (p.1, 7, p.2))
      (s.gaugeStop checked (dieOfGroup k a.toNat))
    .next (s.vecWhole stop checked (dieOfGroup k a.toNat) fun s =>
      let xs := (List.range s.hart.vl).map fun i => if s.hart.vstart ≤ i ∧ s.hart.guardBit g i then some (s.hart.el a i) else none
      let r := f xs
      (s.wx d r.1).raise r.2)

/-- An integer reduction by the tree of R163 with its initial operand, extended as R224 states. -/
def vredInt (base : Nat) (sgn : Bool) (op : Nat → Nat → Nat → Nat) (d a b : Reg) (c : Bit1) (g : Num3) (s : State) : Answer :=
  let w := s.hart.cfg.w
  vreduce true (wordV base d a b c 0 g) (fun xs =>
    let r := ((reduceTree (fun p q => (op w p q, 0)) (some ((s.rx b).toNat % 2 ^ w)) xs).1).getD 0
    (if sgn then wordOfInt (sextNat r w) else wordOfNat r, 0)) d a g s

/-- A floating reduction. -/
def vredFloat (base : Nat) (op : Fmt → Rounding → Nat → Nat → Nat × Nat) (d a b : Reg) (c : Bit1) (g : Num3) (s : State) :
    Answer :=
  let F := s.hart.ffmt
  vreduce s.hart.floatRow (wordV base d a b c 0 g) (fun xs =>
    let r := reduceTree (op F (s.hart.rounding 0).noSr) (some ((s.rx b).toNat % 2 ^ s.hart.cfg.w)) xs
    (wordOfNat (r.1.getD 0), r.2)) d a g s

/-- VREDSUM. -/
def execVredsum (d a b : Reg) (c : Bit1) (g : Num3) (s : State) : Answer :=
  vredInt 0xAC000000 true (fun w p q => (p + q) % 2 ^ w) d a b c g s

/-- VREDAND. -/
def execVredand (d a b : Reg) (c : Bit1) (g : Num3) (s : State) : Answer :=
  vredInt 0xAC000001 true (fun _ p q => p &&& q) d a b c g s

/-- VREDOR. -/
def execVredor (d a b : Reg) (c : Bit1) (g : Num3) (s : State) : Answer :=
  vredInt 0xAC000002 true (fun _ p q => p ||| q) d a b c g s

/-- VREDXOR. -/
def execVredxor (d a b : Reg) (c : Bit1) (g : Num3) (s : State) : Answer :=
  vredInt 0xAC000003 true (fun _ p q => p ^^^ q) d a b c g s

/-- VREDMIN. -/
def execVredmin (d a b : Reg) (c : Bit1) (g : Num3) (s : State) : Answer :=
  vredInt 0xAC000004 true (pickBy true false) d a b c g s

/-- VREDMAX. -/
def execVredmax (d a b : Reg) (c : Bit1) (g : Num3) (s : State) : Answer :=
  vredInt 0xAC000005 true (pickBy true true) d a b c g s

/-- VREDMINN. -/
def execVredminn (d a b : Reg) (c : Bit1) (g : Num3) (s : State) : Answer :=
  vredInt 0xAC000006 false (pickBy false false) d a b c g s

/-- VREDMAXN. -/
def execVredmaxn (d a b : Reg) (c : Bit1) (g : Num3) (s : State) : Answer :=
  vredInt 0xAC000007 false (pickBy false true) d a b c g s

/-- VFREDSUM. -/
def execVfredsum (d a b : Reg) (c : Bit1) (g : Num3) (s : State) : Answer :=
  vredFloat 0xAC000008 (fun F r p q => fadd2 F r (F.unpack p) (F.unpack q)) d a b c g s

/-- VFREDMIN. -/
def execVfredmin (d a b : Reg) (c : Bit1) (g : Num3) (s : State) : Answer :=
  vredFloat 0xAC000009 (fun F _ p q => fminmax F false p q) d a b c g s

/-- VFREDMAX. -/
def execVfredmax (d a b : Reg) (c : Bit1) (g : Num3) (s : State) : Answer :=
  vredFloat 0xAC00000A (fun F _ p q => fminmax F true p q) d a b c g s

/-- VQSUM: 64-bit elements only (R224, R225). -/
def execVqsum (d a : Reg) (c : Bit1) (g : Num3) (s : State) : Answer :=
  vreduce (s.hart.ew == 3) (wordV 0xAC00000B d a 0 c 0 g) (fun xs =>
    let vs := (xs.filterMap id).map f64.unpack
    let r := qsumAt (qExp vs) 1 1 vs
    (wordOfNat r.1, r.2)) d a g s

end Sys2Proof.Machine
end

