-- ==== Sys2Proof/Machine/ScalarFloat.lean ====
section
/-!
DEFINITION. SFPU and SFMA: majors 0x0A and 0x0B (R174 to R176).
-/

namespace Sys2Proof.Machine

/-- A scalar register read in a floating format (R103). -/
def State.fx (s : State) (f : Fmt) (r : Reg) : FVal := f.unpack (s.rx r).toNat

/-- Write a floating result with zeros above it, raise its flags, go on (R103, R151). -/
def State.fdone (s : State) (d : Reg) (r : Nat × Nat) : State := (s.raise r.2).done1 d (wordOfNat r.1)

/-- FADD. -/
def execFadd (d a b : Reg) (f m : Num3) (s : State) : Answer :=
  let F := fmtOf f.toNat
  .next (s.fdone d (fadd2 F (s.hart.roundingRm m) (s.fx F a) (s.fx F b)))
/-- FSUB. -/
def execFsub (d a b : Reg) (f m : Num3) (s : State) : Answer :=
  let F := fmtOf f.toNat
  .next (s.fdone d (fadd2 F (s.hart.roundingRm m) (s.fx F a) ((s.fx F b).flip true)))
/-- FMUL. -/
def execFmul (d a b : Reg) (f m : Num3) (s : State) : Answer :=
  let F := fmtOf f.toNat
  .next (s.fdone d (fmul2 F (s.hart.roundingRm m) (s.fx F a) (s.fx F b)))
/-- FDIV. -/
def execFdiv (d a b : Reg) (f m : Num3) (s : State) : Answer :=
  let F := fmtOf f.toNat
  .next (s.fdone d (fdiv2 F (s.hart.roundingRm m) (s.fx F a) (s.fx F b)))
/-- FSQRT. -/
def execFsqrt (d a : Reg) (f m : Num3) (s : State) : Answer :=
  let F := fmtOf f.toNat
  .next (s.fdone d (fsqrt1 F (s.hart.roundingRm m) (s.fx F a)))
/-- FMIN. -/
def execFmin (d a b : Reg) (f : Num3) (s : State) : Answer :=
  .next (s.fdone d (fminmax (fmtOf f.toNat) false (s.rx a).toNat (s.rx b).toNat))
/-- FMAX. -/
def execFmax (d a b : Reg) (f : Num3) (s : State) : Answer :=
  .next (s.fdone d (fminmax (fmtOf f.toNat) true (s.rx a).toNat (s.rx b).toNat))

/-- FEQ, FLT and FLE write 1 when the relation holds (R174, R175). -/
def State.frelDone (s : State) (rel : FRel) (d a b : Reg) (f : Num3) : State :=
  let F := fmtOf f.toNat
  let r := frel rel (s.fx F a) (s.fx F b)
  s.fdone d (if r.1 then 1 else 0, r.2)

/-- FEQ. -/
def execFeq (d a b : Reg) (f : Num3) (s : State) : Answer := .next (s.frelDone .eq d a b f)
/-- FLT. -/
def execFlt (d a b : Reg) (f : Num3) (s : State) : Answer := .next (s.frelDone .lt d a b f)
/-- FLE. -/
def execFle (d a b : Reg) (f : Num3) (s : State) : Answer := .next (s.frelDone .le d a b f)

/-- FCVT: from the source format in b[2:0] to FMT. -/
def execFcvt (d a : Reg) (src f m : Num3) (s : State) : Answer :=
  .next (s.fdone d (fcvt1 (fmtOf f.toNat) (s.hart.roundingRm m) false (s.fx (fmtOf src.toNat) a)))

/-- FCVTI: to an integer of type b[1:0]: i32, i64, n32, n64; i32 is sign-extended, n32 zero-extended (R175). -/
def execFcvti (d a : Reg) (t : BitVec 2) (f m : Num3) (s : State) : Answer :=
  let bits := if t.toNat % 2 = 0 then 32 else 64
  let r := fcvtInt (s.hart.roundingRm m) bits (t.toNat < 2) (s.fx (fmtOf f.toNat) a)
  .next ((s.raise r.2).done1 d (wordOfInt r.1))

/-- FCVTF: from an integer of type b[1:0]. -/
def execFcvtf (d a : Reg) (t : BitVec 2) (f m : Num3) (s : State) : Answer :=
  let bits := if t.toNat % 2 = 0 then 32 else 64
  let x := (s.rx a).toNat % 2 ^ bits
  let v : Int := if t.toNat < 2 then sextNat x bits else x
  .next (s.fdone d (fcvtFrom (fmtOf f.toNat) (s.hart.roundingRm m) v))

/-- The four fused forms, under STATUS.FRM (R176). -/
def State.fmaDone (s : State) (negP negC : Bool) (d a b c : Reg) (f : BitVec 2) : State :=
  let F := fmtOf f.toNat
  s.fdone d (fma3 F (s.hart.rounding 0) negP negC (s.fx F a) (s.fx F b) (s.fx F c))

/-- FMA. -/
def execFma (d a b c : Reg) (f : BitVec 2) (s : State) : Answer := .next (s.fmaDone false false d a b c f)
/-- FMS. -/
def execFms (d a b c : Reg) (f : BitVec 2) (s : State) : Answer := .next (s.fmaDone false true d a b c f)
/-- FNMA. -/
def execFnma (d a b c : Reg) (f : BitVec 2) (s : State) : Answer := .next (s.fmaDone true false d a b c f)
/-- FNMS. -/
def execFnms (d a b c : Reg) (f : BitVec 2) (s : State) : Answer := .next (s.fmaDone true true d a b c f)

end Sys2Proof.Machine
end

