-- ==== Sys2Proof/Machine/ScalarInt.lean ====
section
/-!
DEFINITION. SALU and the immediate forms: majors 0x01 to 0x09 (R171, R172, R173).
-/

namespace Sys2Proof.Machine

-- results that are more than one operation of the word type

/-- A shift amount: a register modulo 64 (R171). -/
def shiftOf (x : Word) : Nat := x.toNat % 64

/-- 1 when a condition holds, else 0. -/
def boolWord (b : Bool) : Word := if b then 1 else 0

/-- Signed quotient, truncated; all ones for a zero divisor (R156, R171). -/
def sdivWord (x y : Word) : Word := if y = 0 then BitVec.allOnes 64 else wordOfInt (x.toInt.tdiv y.toInt)

/-- Natural quotient; all ones for a zero divisor. -/
def ndivWord (x y : Word) : Word := if y = 0 then BitVec.allOnes 64 else wordOfNat (x.toNat / y.toNat)

/-- Signed remainder with the sign of the dividend; the dividend for a zero divisor. -/
def sremWord (x y : Word) : Word := if y = 0 then x else wordOfInt (x.toInt.tmod y.toInt)

/-- Natural remainder. -/
def nremWord (x y : Word) : Word := if y = 0 then x else wordOfNat (x.toNat % y.toNat)

/-- Bits [127:64] of the exact signed product. -/
def mulhWord (x y : Word) : Word := wordOfInt (x.toInt * y.toInt / 2 ^ 64)

/-- Bits [127:64] of the exact natural product. -/
def mulhnWord (x y : Word) : Word := wordOfNat (x.toNat * y.toNat / 2 ^ 64)

/-- Leading zero bits. -/
def clzWord (x : Word) : Word := if x = 0 then 64 else wordOfNat (63 - Nat.log2 x.toNat)

/-- Set bits. -/
def popcWord (x : Word) : Word := wordOfNat ((List.range 64).countP fun i => x.getLsbD i)

-- SALU with two registers (R171)

/-- ADD (R171). -/
def execAdd (d a b : Reg) (s : State) : Answer :=
  .next (s.done1 d (s.rx a + s.rx b))

/-- SUB (R171). -/
def execSub (d a b : Reg) (s : State) : Answer :=
  .next (s.done1 d (s.rx a - s.rx b))

/-- AND (R171). -/
def execAnd (d a b : Reg) (s : State) : Answer :=
  .next (s.done1 d (s.rx a &&& s.rx b))

/-- OR (R171). -/
def execOr (d a b : Reg) (s : State) : Answer :=
  .next (s.done1 d (s.rx a ||| s.rx b))

/-- XOR (R171). -/
def execXor (d a b : Reg) (s : State) : Answer :=
  .next (s.done1 d (s.rx a ^^^ s.rx b))

/-- ANDN (R171). -/
def execAndn (d a b : Reg) (s : State) : Answer :=
  .next (s.done1 d (s.rx a &&& ~~~(s.rx b)))

/-- SLL (R171). -/
def execSll (d a b : Reg) (s : State) : Answer :=
  .next (s.done1 d (s.rx a <<< shiftOf (s.rx b)))

/-- SRL (R171). -/
def execSrl (d a b : Reg) (s : State) : Answer :=
  .next (s.done1 d (s.rx a >>> shiftOf (s.rx b)))

/-- SRA (R171). -/
def execSra (d a b : Reg) (s : State) : Answer :=
  .next (s.done1 d ((s.rx a).sshiftRight (shiftOf (s.rx b))))

/-- ROR (R171). -/
def execRor (d a b : Reg) (s : State) : Answer :=
  .next (s.done1 d ((s.rx a).rotateRight (shiftOf (s.rx b))))

/-- SLT (R171). -/
def execSlt (d a b : Reg) (s : State) : Answer :=
  .next (s.done1 d (boolWord ((s.rx a).slt (s.rx b))))

/-- SLTN (R171). -/
def execSltn (d a b : Reg) (s : State) : Answer :=
  .next (s.done1 d (boolWord ((s.rx a).ult (s.rx b))))

/-- MIN (R171). -/
def execMin (d a b : Reg) (s : State) : Answer :=
  .next (s.done1 d (if (s.rx a).slt (s.rx b) then s.rx a else s.rx b))

/-- MAX (R171). -/
def execMax (d a b : Reg) (s : State) : Answer :=
  .next (s.done1 d (if (s.rx a).slt (s.rx b) then s.rx b else s.rx a))

/-- MUL (R171). -/
def execMul (d a b : Reg) (s : State) : Answer :=
  .next (s.done1 d (s.rx a * s.rx b))

/-- MULH (R171). -/
def execMulh (d a b : Reg) (s : State) : Answer :=
  .next (s.done1 d (mulhWord (s.rx a) (s.rx b)))

/-- MULHN (R171). -/
def execMulhn (d a b : Reg) (s : State) : Answer :=
  .next (s.done1 d (mulhnWord (s.rx a) (s.rx b)))

/-- DIV (R171). -/
def execDiv (d a b : Reg) (s : State) : Answer :=
  .next (s.done1 d (sdivWord (s.rx a) (s.rx b)))

/-- DIVN (R171). -/
def execDivn (d a b : Reg) (s : State) : Answer :=
  .next (s.done1 d (ndivWord (s.rx a) (s.rx b)))

/-- REM (R171). -/
def execRem (d a b : Reg) (s : State) : Answer :=
  .next (s.done1 d (sremWord (s.rx a) (s.rx b)))

/-- REMN (R171). -/
def execRemn (d a b : Reg) (s : State) : Answer :=
  .next (s.done1 d (nremWord (s.rx a) (s.rx b)))

/-- CLZ (R171). -/
def execClz (d a : Reg) (s : State) : Answer :=
  .next (s.done1 d (clzWord (s.rx a)))

/-- POPC (R171). -/
def execPopc (d a : Reg) (s : State) : Answer :=
  .next (s.done1 d (popcWord (s.rx a)))

-- immediate shifts (R171)

/-- SLLI (R171). -/
def execSlli (d a : Reg) (h : BitVec 6) (s : State) : Answer :=
  .next (s.done1 d (s.rx a <<< h.toNat))

/-- SRLI (R171). -/
def execSrli (d a : Reg) (h : BitVec 6) (s : State) : Answer :=
  .next (s.done1 d (s.rx a >>> h.toNat))

/-- SRAI (R171). -/
def execSrai (d a : Reg) (h : BitVec 6) (s : State) : Answer :=
  .next (s.done1 d ((s.rx a).sshiftRight h.toNat))

/-- RORI (R171). -/
def execRori (d a : Reg) (h : BitVec 6) (s : State) : Answer :=
  .next (s.done1 d ((s.rx a).rotateRight h.toNat))

-- immediate forms (R172)

/-- ADDI (R172). -/
def execAddi (d a : Reg) (i : BitVec 16) (s : State) : Answer :=
  .next (s.done1 d (s.rx a + imm16 i))

/-- ANDI (R172). -/
def execAndi (d a : Reg) (i : BitVec 16) (s : State) : Answer :=
  .next (s.done1 d (s.rx a &&& imm16 i))

/-- ORI (R172). -/
def execOri (d a : Reg) (i : BitVec 16) (s : State) : Answer :=
  .next (s.done1 d (s.rx a ||| imm16 i))

/-- XORI (R172). -/
def execXori (d a : Reg) (i : BitVec 16) (s : State) : Answer :=
  .next (s.done1 d (s.rx a ^^^ imm16 i))

/-- SLTI (R172). -/
def execSlti (d a : Reg) (i : BitVec 16) (s : State) : Answer :=
  .next (s.done1 d (boolWord ((s.rx a).slt (imm16 i))))

/-- SLTNI (R172). -/
def execSltni (d a : Reg) (i : BitVec 16) (s : State) : Answer :=
  .next (s.done1 d (boolWord ((s.rx a).ult (imm16 i))))

-- high immediates (R173)

/-- LHI (R173). -/
def execLhi (d : Reg) (i : BitVec 21) (s : State) : Answer :=
  .next (s.done1 d (immHigh i))

/-- PCHI (R173). -/
def execPchi (d : Reg) (i : BitVec 21) (s : State) : Answer :=
  .next (s.done1 d (s.hart.pc + immHigh i))

end Sys2Proof.Machine
end

