-- ==== Sys2Proof/Machine/System.lean ====
section
/-!
DEFINITION. Supervisor instructions: major 0x1B (R191 to R195).
-/

namespace Sys2Proof.Machine

/-- TRET (R192, R387): it runs in both modes. -/
def execTret (s : State) : Answer := .next (trapReturn s)

/-- CTXSV (R193): the calling hart's context at x[a], its header last, once the rest has performed; the context resumes after the
CTXSV. It reads every mask (R301). -/
def execCtxsv (a : Reg) (s : State) : Answer :=
  if !s.hart.super then illegal (.ctxsv a) s
  else
    s.whenFree (List.range 8) (Act.run false (do
      Act.drain
      let va := s.rx a
      Act.check (va.toNat % 4096 == 0) 3 va
      let h := s.hart
      let n := slotSize h.grant
      let img := h.image (h.pc + 4)
      Act.holding .write ((piecesOf va.toNat n).map (·.1)) (do
        let segs ← Act.reachAll va.toNat n .write
        if h.begun.stored = 0 then do
          Act.pushAll (segs.map (·.loc))
          Act.upd fun t => (t.storeSegs (segsAt segs headerSize n) (img.drop headerSize)).poisonWords segs n h.imagePoison
        else pure ()
        let head := segsAt segs 0 headerSize
        Act.perform markStored
          [⟨1, (head.map (·.loc)).find? (·.outside), fun t => t.storeSegs head (img.take headerSize)⟩])
      Act.upd State.advance) s)

/-- CTXLD (R193): the header is checked before anything is loaded. It writes every mask (R301). -/
def execCtxld (a : Reg) (s : State) : Answer :=
  if !s.hart.super then illegal (.ctxld a) s
  else
    s.whenFree (List.range 8) (Act.run false (do
      Act.drain
      let va := s.rx a
      Act.check (va.toNat % 4096 == 0) 3 va
      let read (off n : Nat) : Act Nat := do
        let at_ := va.toNat + off
        let segs ← Act.reachAll at_ n .read
        let t ← get
        match (t.badWords segs n).head? with
        | some o => Act.trap 7 (wordOfNat (at_ + o))
        | none => natOfBytes <$> Act.pull segs
      let n := slotSize s.hart.grant
      let x ← Act.holding .read ((piecesOf va.toNat 64 ++ piecesOf (va.toNat + 64) (n - 64)).map (·.1)) (do
        let head ← read 0 64
        Act.check (headerValid head s.hart.grant) 2 va
        let rest ← read 64 (n - 64)
        pure (head + rest * 2 ^ 512))
      Act.upd fun t => (t.withHart (·.loadFrom x)).advance) s)

/-- The pair is bound to an ASID. -/
def State.pairHas (s : State) (port pasid asid : Nat) : Bool :=
  s.lu.bindings.any fun b => b.port == port && b.pasid == pasid && b.asid == asid

/-- A place of a device or a host that a cached leaf maps. -/
def Cached.covers (c : Cached) (loc : Loc) : Bool :=
  let size := 2 ^ (12 + 9 * c.level)
  match loc with
  | .io pa => bitsAt c.leaf 54 1 == 1 && pa / size == bitsAt c.leaf 12 40 * 4096 / size
  | .hostb port va => bitsAt c.leaf 55 1 == 1 && bitsAt c.leaf 52 1 == port && va / size == c.page
  | _ => false

/-- An access of a hart that a cached translation served has not been performed yet (R194): its request is out, or its instruction
has translated it at its dispatch and waits (R402). What engine operations, collectives and completion writes hold is no such
access (R446). -/
def State.awaits (s : State) (c : Cached) : Bool :=
  s.placed.any fun h =>
    (h.begun.held.getD []).any (fun q => c.serves h.asid q.va)
      || s.targets.any fun q => !q.ats && c.covers q.loc && (h.waitTag == some q.tag || h.unacked.contains q.tag)

/-- TLBINV (R194): it waits for the accesses that the dropped translations served, and drops the translations of the
module and the cached ones of the hosts. -/
def State.invalidate (s : State) (drop : Cached → Bool) (host : AtsEntry → Bool) : Answer :=
  Act.run false (do
    Act.waitUntil (!s.tlb.any fun c => drop c && s.awaits c)
    Act.upd fun s => ({ s with
      ats := s.ats.filter fun e => !host e
      tlb := s.tlb.filter fun c => !drop c } : State).advance) s

/-- TLBINV.page (R194, R401): the page under one ASID, G entries too. -/
def execTlbinvPage (a b : Reg) (s : State) : Answer :=
  if !s.hart.super then illegal (.tlbinvPage a b) s
  else
    let va := (s.rx a).toNat
    let asid := (s.rx b).toNat % 65536
    s.invalidate (fun c => c.serves asid va) (fun e => e.covers e.port e.pasid (va / 4096) false && s.pairHas e.port e.pasid asid)

/-- TLBINV.asid (R194, R401): every page of one ASID; G entries stay. -/
def execTlbinvAsid (b : Reg) (s : State) : Answer :=
  if !s.hart.super then illegal (.tlbinvAsid b) s
  else
    let asid := (s.rx b).toNat % 65536
    s.invalidate (fun c => bitsAt c.leaf 8 1 == 0 && c.asid == asid) (fun e => s.pairHas e.port e.pasid asid)

/-- TLBINV.all (R194, R401). -/
def execTlbinvAll (s : State) : Answer :=
  if !s.hart.super then illegal .tlbinvAll s else s.invalidate (fun _ => true) (fun _ => true)

/-- ASW (R195): once the hart's vector accesses have performed, ASID and PTROOT, each as CRW would write it. -/
def execAsw (a b : Reg) (s : State) : Answer :=
  if !s.hart.super then illegal (.asw a b) s
  else
    Act.run false (do
      Act.drain
      Act.upd fun s => (s.withHart fun h => (h.writePlain 0x030 (s.rx a)).writePlain 0x031 (s.rx b)).advance) s

end Sys2Proof.Machine
end

