-- ==== Sys2Proof/Machine/VCmp.lean ====
section
/-!
DEFINITION. Vector compares: major 0x28 (R219).
-/

namespace Sys2Proof.Machine

/-- A compare, whose `f` answers the bit and the flags (R207, R219). -/
def vcompare (base : Nat) (floating : Bool) (f : State → Nat → Nat → Nat × Nat) (d : Num3) (a : Reg) (o : Opnd)
    (c e : Bit1) (g : Num3) (s : State) : Answer :=
  let k := s.hart.cfg
  if !(aligned k a && o.ok k && (!floating || s.hart.floatRow)) then
    illegalWord (wordV base (d.setWidth 5) a o.reg c e g) s
  else
    s.whenFree [d.toNat]
      (.next (s.vecRun g (.vec k a.toNat :: o.srcs k) (dieOfGroup k a.toNat)
        (fun i => f s (s.hart.el a i) (s.opnd o i)) (fun h i x => h.setMaskBit d.toNat i (x == 1))))

/-- An integer relation on signed or natural values; it raises no flag. -/
def relInt (signed : Bool) (r : Int → Int → Bool) (s : State) (a b : Nat) : Nat × Nat :=
  let w := s.hart.cfg.w
  let v (x : Nat) : Int := if signed then sextNat x w else x
  (if r (v a) (v b) then 1 else 0, 0)

/-- A floating relation. -/
def relFloat (r : FRel) (s : State) (a b : Nat) : Nat × Nat :=
  let F := s.hart.ffmt
  let x := frel r (F.unpack a) (F.unpack b)
  (if x.1 then 1 else 0, x.2)

/-- VCMPEQ. -/
def execVcmpeq (d : Num3) (a b : Reg) (c e : Bit1) (g : Num3) (s : State) : Answer :=
  vcompare 0xA0000000 false (relInt true fun a b => a == b) d a (.v b) c e g s

/-- VCMPEQ_VX. -/
def execVcmpeqVx (d : Num3) (a b : Reg) (c : Bit1) (g : Num3) (s : State) : Answer :=
  vcompare 0xA0000020 false (relInt true fun a b => a == b) d a (.x b) c 0 g s

/-- VCMPNE. -/
def execVcmpne (d : Num3) (a b : Reg) (c e : Bit1) (g : Num3) (s : State) : Answer :=
  vcompare 0xA0000001 false (relInt true fun a b => a != b) d a (.v b) c e g s

/-- VCMPNE_VX. -/
def execVcmpneVx (d : Num3) (a b : Reg) (c : Bit1) (g : Num3) (s : State) : Answer :=
  vcompare 0xA0000021 false (relInt true fun a b => a != b) d a (.x b) c 0 g s

/-- VCMPLT. -/
def execVcmplt (d : Num3) (a b : Reg) (c e : Bit1) (g : Num3) (s : State) : Answer :=
  vcompare 0xA0000002 false (relInt true fun a b => a < b) d a (.v b) c e g s

/-- VCMPLT_VX. -/
def execVcmpltVx (d : Num3) (a b : Reg) (c : Bit1) (g : Num3) (s : State) : Answer :=
  vcompare 0xA0000022 false (relInt true fun a b => a < b) d a (.x b) c 0 g s

/-- VCMPLE. -/
def execVcmple (d : Num3) (a b : Reg) (c e : Bit1) (g : Num3) (s : State) : Answer :=
  vcompare 0xA0000003 false (relInt true fun a b => a ≤ b) d a (.v b) c e g s

/-- VCMPLE_VX. -/
def execVcmpleVx (d : Num3) (a b : Reg) (c : Bit1) (g : Num3) (s : State) : Answer :=
  vcompare 0xA0000023 false (relInt true fun a b => a ≤ b) d a (.x b) c 0 g s

/-- VCMPGT. -/
def execVcmpgt (d : Num3) (a b : Reg) (c e : Bit1) (g : Num3) (s : State) : Answer :=
  vcompare 0xA0000004 false (relInt true fun a b => a > b) d a (.v b) c e g s

/-- VCMPGT_VX. -/
def execVcmpgtVx (d : Num3) (a b : Reg) (c : Bit1) (g : Num3) (s : State) : Answer :=
  vcompare 0xA0000024 false (relInt true fun a b => a > b) d a (.x b) c 0 g s

/-- VCMPGE. -/
def execVcmpge (d : Num3) (a b : Reg) (c e : Bit1) (g : Num3) (s : State) : Answer :=
  vcompare 0xA0000005 false (relInt true fun a b => a ≥ b) d a (.v b) c e g s

/-- VCMPGE_VX. -/
def execVcmpgeVx (d : Num3) (a b : Reg) (c : Bit1) (g : Num3) (s : State) : Answer :=
  vcompare 0xA0000025 false (relInt true fun a b => a ≥ b) d a (.x b) c 0 g s

/-- VCMPLTN. -/
def execVcmpltn (d : Num3) (a b : Reg) (c e : Bit1) (g : Num3) (s : State) : Answer :=
  vcompare 0xA0000006 false (relInt false fun a b => a < b) d a (.v b) c e g s

/-- VCMPLTN_VX. -/
def execVcmpltnVx (d : Num3) (a b : Reg) (c : Bit1) (g : Num3) (s : State) : Answer :=
  vcompare 0xA0000026 false (relInt false fun a b => a < b) d a (.x b) c 0 g s

/-- VCMPLEN. -/
def execVcmplen (d : Num3) (a b : Reg) (c e : Bit1) (g : Num3) (s : State) : Answer :=
  vcompare 0xA0000007 false (relInt false fun a b => a ≤ b) d a (.v b) c e g s

/-- VCMPLEN_VX. -/
def execVcmplenVx (d : Num3) (a b : Reg) (c : Bit1) (g : Num3) (s : State) : Answer :=
  vcompare 0xA0000027 false (relInt false fun a b => a ≤ b) d a (.x b) c 0 g s

/-- VCMPGTN. -/
def execVcmpgtn (d : Num3) (a b : Reg) (c e : Bit1) (g : Num3) (s : State) : Answer :=
  vcompare 0xA0000008 false (relInt false fun a b => a > b) d a (.v b) c e g s

/-- VCMPGTN_VX. -/
def execVcmpgtnVx (d : Num3) (a b : Reg) (c : Bit1) (g : Num3) (s : State) : Answer :=
  vcompare 0xA0000028 false (relInt false fun a b => a > b) d a (.x b) c 0 g s

/-- VCMPGEN. -/
def execVcmpgen (d : Num3) (a b : Reg) (c e : Bit1) (g : Num3) (s : State) : Answer :=
  vcompare 0xA0000009 false (relInt false fun a b => a ≥ b) d a (.v b) c e g s

/-- VCMPGEN_VX. -/
def execVcmpgenVx (d : Num3) (a b : Reg) (c : Bit1) (g : Num3) (s : State) : Answer :=
  vcompare 0xA0000029 false (relInt false fun a b => a ≥ b) d a (.x b) c 0 g s

/-- VFCMPEQ. -/
def execVfcmpeq (d : Num3) (a b : Reg) (c e : Bit1) (g : Num3) (s : State) : Answer :=
  vcompare 0xA0000010 true (relFloat .eq) d a (.v b) c e g s

/-- VFCMPEQ_VX. -/
def execVfcmpeqVx (d : Num3) (a b : Reg) (c : Bit1) (g : Num3) (s : State) : Answer :=
  vcompare 0xA0000030 true (relFloat .eq) d a (.x b) c 0 g s

/-- VFCMPNE. -/
def execVfcmpne (d : Num3) (a b : Reg) (c e : Bit1) (g : Num3) (s : State) : Answer :=
  vcompare 0xA0000011 true (relFloat .ne) d a (.v b) c e g s

/-- VFCMPNE_VX. -/
def execVfcmpneVx (d : Num3) (a b : Reg) (c : Bit1) (g : Num3) (s : State) : Answer :=
  vcompare 0xA0000031 true (relFloat .ne) d a (.x b) c 0 g s

/-- VFCMPLT. -/
def execVfcmplt (d : Num3) (a b : Reg) (c e : Bit1) (g : Num3) (s : State) : Answer :=
  vcompare 0xA0000012 true (relFloat .lt) d a (.v b) c e g s

/-- VFCMPLT_VX. -/
def execVfcmpltVx (d : Num3) (a b : Reg) (c : Bit1) (g : Num3) (s : State) : Answer :=
  vcompare 0xA0000032 true (relFloat .lt) d a (.x b) c 0 g s

/-- VFCMPLE. -/
def execVfcmple (d : Num3) (a b : Reg) (c e : Bit1) (g : Num3) (s : State) : Answer :=
  vcompare 0xA0000013 true (relFloat .le) d a (.v b) c e g s

/-- VFCMPLE_VX. -/
def execVfcmpleVx (d : Num3) (a b : Reg) (c : Bit1) (g : Num3) (s : State) : Answer :=
  vcompare 0xA0000033 true (relFloat .le) d a (.x b) c 0 g s

/-- VFCMPGT. -/
def execVfcmpgt (d : Num3) (a b : Reg) (c e : Bit1) (g : Num3) (s : State) : Answer :=
  vcompare 0xA0000014 true (relFloat .gt) d a (.v b) c e g s

/-- VFCMPGT_VX. -/
def execVfcmpgtVx (d : Num3) (a b : Reg) (c : Bit1) (g : Num3) (s : State) : Answer :=
  vcompare 0xA0000034 true (relFloat .gt) d a (.x b) c 0 g s

/-- VFCMPGE. -/
def execVfcmpge (d : Num3) (a b : Reg) (c e : Bit1) (g : Num3) (s : State) : Answer :=
  vcompare 0xA0000015 true (relFloat .ge) d a (.v b) c e g s

/-- VFCMPGE_VX. -/
def execVfcmpgeVx (d : Num3) (a b : Reg) (c : Bit1) (g : Num3) (s : State) : Answer :=
  vcompare 0xA0000035 true (relFloat .ge) d a (.x b) c 0 g s

/-- VFCMPUN. -/
def execVfcmpun (d : Num3) (a b : Reg) (c e : Bit1) (g : Num3) (s : State) : Answer :=
  vcompare 0xA0000016 true (relFloat .un) d a (.v b) c e g s

/-- VFCMPUN_VX. -/
def execVfcmpunVx (d : Num3) (a b : Reg) (c : Bit1) (g : Num3) (s : State) : Answer :=
  vcompare 0xA0000036 true (relFloat .un) d a (.x b) c 0 g s

end Sys2Proof.Machine
end

