-- ==== Sys2Proof/Machine/VFloat.lean ====
section
/-!
DEFINITION. Vector floating arithmetic: majors 0x22 to 0x27 (R216 to R218).
-/

namespace Sys2Proof.Machine

/-- A vector floating instruction on a group and a second operand (R207, R216): `f` has the format, the rounding of the
element and two patterns. -/
def vfloat (base : Nat) (f : Fmt → Rounding → Nat → Nat → Nat × Nat) (d a : Reg) (o : Opnd) (c e : Bit1) (g : Num3)
    (s : State) : Answer :=
  let k := s.hart.cfg
  if !(aligned k d && aligned k a && o.ok k && s.hart.floatRow) then illegalWord (wordV base d a o.reg c e g) s
  else
    .next (s.vecRun g (.vec k a.toNat :: o.srcs k) (dieOfGroup k d.toNat)
      (fun i => f s.hart.ffmt (s.hart.rounding i) (s.hart.el a i) (s.opnd o i)) (fun h i x => h.setElem k d.toNat i x))

/-- A vector floating instruction on one group. -/
def vfloat1 (base : Nat) (f : Fmt → Rounding → Nat → Nat × Nat) (d a : Reg) (c : Bit1) (g : Num3) (s : State) : Answer :=
  let k := s.hart.cfg
  if !(aligned k d && aligned k a && s.hart.floatRow) then illegalWord (wordV base d a 0 c 0 g) s
  else
    .next (s.vecRun g [.vec k a.toNat] (dieOfGroup k d.toNat)
      (fun i => f s.hart.ffmt (s.hart.rounding i) (s.hart.el a i)) (fun h i x => h.setElem k d.toNat i x))

/-- Magnitude of a pattern with a sign (R216): NaN patterns keep their payload and no flag is raised (R217). -/
def withSign (F : Fmt) (x : Nat) (neg : Bool) : Nat × Nat := (F.signed neg (x % 2 ^ (F.bits - 1)), 0)

/-- The sign bit of a pattern. -/
def signBit (F : Fmt) (x : Nat) : Bool := x.testBit (F.bits - 1)

/-- a + b. -/
def elFadd (F : Fmt) (r : Rounding) (a b : Nat) : Nat × Nat := fadd2 F r (F.unpack a) (F.unpack b)
/-- a - b. -/
def elFsub (F : Fmt) (r : Rounding) (a b : Nat) : Nat × Nat := fadd2 F r (F.unpack a) ((F.unpack b).flip true)
/-- a * b. -/
def elFmul (F : Fmt) (r : Rounding) (a b : Nat) : Nat × Nat := fmul2 F r (F.unpack a) (F.unpack b)
/-- a / b. -/
def elFdiv (F : Fmt) (r : Rounding) (a b : Nat) : Nat × Nat := fdiv2 F r (F.unpack a) (F.unpack b)

/-- VFADD. -/
def execVfadd (d a b : Reg) (c e : Bit1) (g : Num3) (s : State) : Answer :=
  vfloat 0x88000000 elFadd d a (.v b) c e g s

/-- VFADD_VX. -/
def execVfaddVx (d a b : Reg) (c : Bit1) (g : Num3) (s : State) : Answer :=
  vfloat 0x8C000000 elFadd d a (.x b) c 0 g s

/-- VFSUB. -/
def execVfsub (d a b : Reg) (c e : Bit1) (g : Num3) (s : State) : Answer :=
  vfloat 0x88000001 elFsub d a (.v b) c e g s

/-- VFSUB_VX. -/
def execVfsubVx (d a b : Reg) (c : Bit1) (g : Num3) (s : State) : Answer :=
  vfloat 0x8C000001 elFsub d a (.x b) c 0 g s

/-- VFMUL. -/
def execVfmul (d a b : Reg) (c e : Bit1) (g : Num3) (s : State) : Answer :=
  vfloat 0x88000002 elFmul d a (.v b) c e g s

/-- VFMUL_VX. -/
def execVfmulVx (d a b : Reg) (c : Bit1) (g : Num3) (s : State) : Answer :=
  vfloat 0x8C000002 elFmul d a (.x b) c 0 g s

/-- VFDIV. -/
def execVfdiv (d a b : Reg) (c e : Bit1) (g : Num3) (s : State) : Answer :=
  vfloat 0x88000003 elFdiv d a (.v b) c e g s

/-- VFDIV_VX. -/
def execVfdivVx (d a b : Reg) (c : Bit1) (g : Num3) (s : State) : Answer :=
  vfloat 0x8C000003 elFdiv d a (.x b) c 0 g s

/-- VFMIN. -/
def execVfmin (d a b : Reg) (c e : Bit1) (g : Num3) (s : State) : Answer :=
  vfloat 0x88000005 (fun F _ a b => fminmax F false a b) d a (.v b) c e g s

/-- VFMIN_VX. -/
def execVfminVx (d a b : Reg) (c : Bit1) (g : Num3) (s : State) : Answer :=
  vfloat 0x8C000005 (fun F _ a b => fminmax F false a b) d a (.x b) c 0 g s

/-- VFMAX. -/
def execVfmax (d a b : Reg) (c e : Bit1) (g : Num3) (s : State) : Answer :=
  vfloat 0x88000006 (fun F _ a b => fminmax F true a b) d a (.v b) c e g s

/-- VFMAX_VX. -/
def execVfmaxVx (d a b : Reg) (c : Bit1) (g : Num3) (s : State) : Answer :=
  vfloat 0x8C000006 (fun F _ a b => fminmax F true a b) d a (.x b) c 0 g s

/-- VFSIGNCP. -/
def execVfsigncp (d a b : Reg) (c e : Bit1) (g : Num3) (s : State) : Answer :=
  vfloat 0x88000007 (fun F _ a b => withSign F a (signBit F b)) d a (.v b) c e g s

/-- VFSIGNCP_VX. -/
def execVfsigncpVx (d a b : Reg) (c : Bit1) (g : Num3) (s : State) : Answer :=
  vfloat 0x8C000007 (fun F _ a b => withSign F a (signBit F b)) d a (.x b) c 0 g s

/-- VFSIGNNEG. -/
def execVfsignneg (d a b : Reg) (c e : Bit1) (g : Num3) (s : State) : Answer :=
  vfloat 0x88000008 (fun F _ a b => withSign F a (!signBit F b)) d a (.v b) c e g s

/-- VFSIGNNEG_VX. -/
def execVfsignnegVx (d a b : Reg) (c : Bit1) (g : Num3) (s : State) : Answer :=
  vfloat 0x8C000008 (fun F _ a b => withSign F a (!signBit F b)) d a (.x b) c 0 g s

/-- VFSIGNXOR. -/
def execVfsignxor (d a b : Reg) (c e : Bit1) (g : Num3) (s : State) : Answer :=
  vfloat 0x88000009 (fun F _ a b => withSign F a (signBit F a != signBit F b)) d a (.v b) c e g s

/-- VFSIGNXOR_VX. -/
def execVfsignxorVx (d a b : Reg) (c : Bit1) (g : Num3) (s : State) : Answer :=
  vfloat 0x8C000009 (fun F _ a b => withSign F a (signBit F a != signBit F b)) d a (.x b) c 0 g s

/-- VFSQRT. -/
def execVfsqrt (d a : Reg) (c : Bit1) (g : Num3) (s : State) : Answer :=
  vfloat1 0x88000004 (fun F r a => fsqrt1 F r (F.unpack a)) d a c g s

/-- VFCVTI. -/
def execVfcvti (d a : Reg) (c : Bit1) (g : Num3) (s : State) : Answer :=
  vfloat1 0x8800000A (fun F r a => let x := fcvtInt r F.bits true (F.unpack a); (wrapInt x.1 F.bits, x.2)) d a c g s

/-- VFCVTIN. -/
def execVfcvtin (d a : Reg) (c : Bit1) (g : Num3) (s : State) : Answer :=
  vfloat1 0x8800000B (fun F r a => let x := fcvtInt r F.bits false (F.unpack a); (wrapInt x.1 F.bits, x.2)) d a c g s

/-- VFCVTF. -/
def execVfcvtf (d a : Reg) (c : Bit1) (g : Num3) (s : State) : Answer :=
  vfloat1 0x8800000C (fun F r a => fcvtFrom F r (sextNat a F.bits)) d a c g s

/-- VFCVTFN. -/
def execVfcvtfn (d a : Reg) (c : Bit1) (g : Num3) (s : State) : Answer :=
  vfloat1 0x8800000D (fun F r a => fcvtFrom F r a) d a c g s

/-- A vector fused multiply-add (R218). -/
def vfma (base : Nat) (negP negC : Bool) (d a b c : Reg) (x y z : Bit1) (g : Num3) (s : State) : Answer :=
  let k := s.hart.cfg
  if !(aligned k d && aligned k a && aligned k b && aligned k c && s.hart.floatRow) then
    illegalWord (base + put d 21 + put a 16 + put b 11 + put c 6 + put x 5 + put y 4 + put z 3 + put g 0) s
  else
    let F := s.hart.ffmt
    .next (s.vecRun g [.vec k a.toNat, .vec k b.toNat, .vec k c.toNat] (dieOfGroup k d.toNat)
      (fun i => fma3 F (s.hart.rounding i) negP negC (F.unpack (s.hart.el a i)) (F.unpack (s.hart.el b i))
        (F.unpack (s.hart.el c i)))
      (fun h i v => h.setElem k d.toNat i v))

/-- VFMA. -/
def execVfma (d a b c : Reg) (x y z : Bit1) (g : Num3) (s : State) : Answer :=
  vfma 0x90000000 false false d a b c x y z g s

/-- VFMS. -/
def execVfms (d a b c : Reg) (x y z : Bit1) (g : Num3) (s : State) : Answer :=
  vfma 0x94000000 false true d a b c x y z g s

/-- VFNMA. -/
def execVfnma (d a b c : Reg) (x y z : Bit1) (g : Num3) (s : State) : Answer :=
  vfma 0x98000000 true false d a b c x y z g s

/-- VFNMS. -/
def execVfnms (d a b c : Reg) (x y z : Bit1) (g : Num3) (s : State) : Answer :=
  vfma 0x9C000000 true true d a b c x y z g s

end Sys2Proof.Machine
end

