-- ==== Sys2Proof/Machine/View.lean ====
section
/-!
DEFINITION. Membership views: heartbeats and suspicion (R361), view changes (R362 to R364), what a change does to
collectives, copies and harts (R375 to R378, R381, R321), and joining and leaving with CASTON and CLEAVE (R379, R380).
-/

namespace Sys2Proof.Machine

-- suspicion (R361)

/-- Add a FID to a list once. -/
def addFid (fs : List Nat) (fid : Nat) : List Nat := if fs.contains fid then fs else fs ++ [fid]

/-- Neighbours: the members of ranks RANK - 1 and RANK + 1 modulo SIZE. -/
def Fabric.neighbours (f : Fabric) : List Nat :=
  if !f.inView then []
  else
    let n := f.members.length
    let at_ (r : Nat) := (f.members[r % n]?).getD f.fid
    ([at_ (f.rank + n - 1), at_ (f.rank + 1)].dedup).filter (· ≠ f.fid)

/-- The lowest-ranked member that this package does not suspect. -/
def Fabric.leader (f : Fabric) : Nat := ((f.members.find? fun m => !f.suspects.contains m)).getD f.fid

/-- Change the view controller. -/
def State.updFabric (s : State) (f : Fabric → Fabric) : State := { s with fabric := f s.fabric }

/-- HEARTBEAT_SEND. -/
def execHeartbeatSend (s : State) : Answer := .next (s.send (s.fabric.neighbours.map OutMsg.heartbeat))

/-- HEARTBEAT_RECEIVE. -/
def execHeartbeatReceive (fid : Nat) (s : State) : Answer :=
  if s.fabric.neighbours.contains fid then
    .next (s.updFabric fun f => { f with heard := (fid, s.clock) :: f.heard.filter fun p => p.1 ≠ fid })
  else .next s

/-- A suspicion goes to the leader, which may be this package. -/
def State.suspect (s : State) (fid : Nat) : State :=
  if s.fabric.suspects.contains fid then s
  else
    let s := s.updFabric fun f => { f with suspects := f.suspects ++ [fid] }
    let l := s.fabric.leader
    if l = s.fabric.fid then s.post [.suspicionReport s.fabric.fid fid] else s.send [.suspect l fid]

/-- HEARTBEAT_TIMEOUT: 380,000 clocks without a heartbeat from a neighbour. -/
def execHeartbeatTimeout (fid : Nat) (s : State) : Answer :=
  let last := ((s.fabric.heard.find? fun p => p.1 = fid).map (·.2)).getD 0
  if s.fabric.neighbours.contains fid && last + 380000 ≤ s.clock then .next (s.suspect fid) else .next s

/-- NEIGHBOUR_UNREACHABLE: no trained port reaches a neighbour. -/
def execNeighbourUnreachable (fid : Nat) (s : State) : Answer :=
  if s.fabric.neighbours.contains fid then .next (s.suspect fid) else .next s

-- proposals (R362)

/-- Members in ascending FID. -/
def sortFids (fs : List Nat) : List Nat := fs.dedup.insertionSort (· ≤ ·)

/-- The member set that this package would propose: with suspects a failure change, which adds no joiner (R363). -/
def Fabric.nextMembers (f : Fabric) : List Nat :=
  let stay := f.members.filter fun m => !f.suspects.contains m && !f.leavers.contains m
  if f.suspects.isEmpty then
    sortFids (stay ++ (f.joiners.filter fun j => !f.members.contains j).take (8192 - stay.length))
  else stay

/-- The requests that travel with proposals and acknowledgements (R379). -/
def Fabric.pending (f : Fabric) : Pending := ⟨f.joiners, f.leavers⟩

/-- Requests that have travelled here. -/
def Fabric.takePending (f : Fabric) (p : Pending) : Fabric :=
  { f with joiners := p.joiners.foldl addFid f.joiners, leavers := p.leavers.foldl addFid f.leavers }

/-- Propose a member set (R362 step 1); the leader treats its own proposal as any member does. -/
def State.propose (s : State) : State :=
  let p := s.fabric.nextMembers
  if (s.fabric.leading.map (·.members)) = some p then s
  else
    let me := s.fabric.fid
    let s := s.updFabric fun f => { f with leading := some ⟨me, p, [], [], s.clock⟩ }
    let pend := s.fabric.pending
    (s.send ((p.filter (· ≠ me)).map fun m => .proposal m ⟨p, pend⟩)).post [.viewProposal me ⟨p, pend⟩]

/-- SUSPICION_REPORT at the leader: a failure change begins at once, also in place of a planned one (R361, R363). -/
def execSuspicionReport (reporter suspect : Nat) (s : State) : Answer :=
  let f := s.fabric
  if !f.inView || !f.members.contains reporter || !f.members.contains suspect || suspect == f.fid then .next s
  else
    .next ((s.updFabric fun f =>
      { f with suspects := addFid f.suspects suspect }).propose)

/-- What an acknowledgement says of this package's collectives of the view (R362, R375): of one that has ended, how; of one that is
being written, how it ends; of one still in flight, which members are known to hold their results. -/
def State.heldReport (s : State) : List HeldBy :=
  let f := s.fabric
  f.ended ++ (s.colls.filter fun c => c.tag = f.tag ∧ c.status.isNone).filterMap fun c =>
    if c.writing then c.report f.members (c.ending.getD c.completed)
    else some ⟨c.run, c.held.filterMap fun r => f.members[r]?, none⟩

/-- VIEW_PROPOSAL: a member of P stops sending under the old tag and acknowledges, with its pending requests (R362 step 2, R379). -/
def execViewProposal (leader : Nat) (p : Proposed) (s : State) : Answer :=
  let f := s.fabric
  let joining := !f.inView && f.requests.any fun r => !r.leave
  if !p.members.contains f.fid || !(joining || (f.inView && f.members.contains leader)) then .next s
  else
    let held := s.heldReport
    let s := s.updFabric fun f => { f.takePending p.pend with acked := some ⟨leader, p.members, [], [], s.clock⟩ }
    let mine := s.fabric.pending
    .next (if leader = f.fid then s.post [.proposalAck f.fid ⟨held, mine⟩] else s.send [.proposalAck leader ⟨held, mine⟩])

/-- P holds more than half of the old members, or exactly half with the old rank 0 (R362 step 4). -/
def Fabric.quorum (f : Fabric) (p : List Nat) : Bool :=
  let k := (f.members.filter p.contains).length
  f.members.length < 2 * k || (2 * k == f.members.length && (f.members.head?.map p.contains).getD false)

/-- What the members' acknowledgements settle (R375, R383): a collective that some member has ended with no result ends so at every
survivor, and one whose results every old member is known to hold completes. -/
def settledRuns (old : List Nat) (hs : List HeldBy) : List Settled :=
  ((hs.map (·.run)).dedup).filterMap fun q =>
    match hs.find? fun h => h.run == q && h.ending.isSome with
    | some h => some ⟨q, h.ending⟩
    | none => if old.all fun m => hs.any fun h => h.run == q && h.fids.contains m then some ⟨q, none⟩ else none

/-- PROPOSAL_ACK at the leader; with every acknowledgement and a quorum it commits (R362 step 4). -/
def execProposalAck (fid : Nat) (a : Acknowledged) (s : State) : Answer :=
  let s := s.updFabric (·.takePending a.pend)
  let f := s.fabric
  match f.leading with
  | none => .next s
  | some p =>
    if !p.members.contains fid || p.acks.contains fid then .next s
    else
      let p := { p with acks := p.acks ++ [fid], heldBy := p.heldBy ++ a.heldBy }
      if (p.members.all p.acks.contains) && f.quorum p.members then
        let tag := laterTag f.tag
        let settled := settledRuns f.members p.heldBy
        let failure := !f.suspects.isEmpty
        let all := sortFids (f.members ++ p.members)
        .next (((s.updFabric fun f => { f with leading := none }).send
          ((all.filter (· ≠ f.fid)).map fun m => .commit m tag p.members settled failure)).post
          [.viewCommit tag p.members settled failure])
      else .next (s.updFabric fun f => { f with leading := some p })

/-- PROPOSAL_ACK_TIMEOUT: a member of P without an acknowledgement for 1,900,000 clocks becomes a suspect, and the leader proposes
again (R362 step 3). -/
def execProposalAckTimeout (fid : Nat) (s : State) : Answer :=
  let f := s.fabric
  match f.leading with
  | none => .next s
  | some p =>
    if !p.members.contains fid || p.acks.contains fid || fid == f.fid || s.clock < p.since + 1900000 then .next s
    else
      .next ((s.updFabric fun f => { f with suspects := addFid f.suspects fid }).propose)

-- what a change does to the work in flight

/-- A hart of a change: its launch and index, or its slot for harts 0 to 15. -/
abbrev HartName := Nat × Nat × Nat

/-- The word at which a placed hart stands. -/
def State.wordOf (s : State) (hid : Nat) : Option (BitVec 32) := (giveTurn hid (s.parked.length + 1) s).nextWord

/-- Harts that a failure change or the loss of the view affects (R378). -/
def State.affected (s : State) : List HartName :=
  let cs := (s.colls.filter fun c => c.status.isNone).map fun c => (c.lid, c.j, c.hid)
  let os := (s.ops.filter EngineOp.remote).map fun o => (o.lid, o.j, o.hid)
  let ws := (s.placed.filter fun h => h.run == .stalled && ((s.wordOf h.hid).map isCwait).getD false).map fun h =>
    (h.lid, h.j, h.hid)
  let name (n : HartName) : HartName := if n.1 = 0 then n else (n.1, n.2.1, 0)
  ((cs ++ os ++ ws).map name).dedup

/-- A placed hart has this name. -/
def Hart.named (h : Hart) (n : HartName) : Bool := h.lid == n.1 && h.j == n.2.1 && (n.1 != 0 || h.hid == n.2.2)

/-- Membership change becomes pending for a hart, placed or saved (R378, R394). -/
def State.holdMember (s : State) (w : Word) (n : HartName) : State :=
  match s.placed.find? (·.named n) with
  | some h =>
    (s.updHart h.hid fun h => { h with heldMember := some w }).post [.membershipChangeTrap h.hid]
  | none => s.inSlot n.1 n.2.1 30 fun x => (x % 2 ^ 32 ||| 2) + w.toNat * 2 ^ 32

/-- A further change updates a trap that is pending, and VIEWNOTE of a hart in its handler (R378). -/
def Hart.renote (h : Hart) (w note : Word) : Hart :=
  if h.heldMember.isNone then h else { h with heldMember := some w, viewnote := if h.active then note else h.viewnote }

/-- The same in the slot of a saved hart: words 30, 13 and, for ACTIVE, 10 (R394). -/
def State.renoteSlot (s : State) (w note : Word) (lid j : Nat) : State :=
  if !(s.slotHeld lid j).testBit 1 then s
  else
    let t := s.inSlot lid j 30 fun x => x % 2 ^ 32 + w.toNat * 2 ^ 32
    match t.slotWord lid j 10 with
    | some (segs, u) => if (u.segNat segs).testBit 63 then t.inSlot lid j 13 fun _ => note.toNat else t
    | none => t

/-- A change has been made: the pending traps of every hart name it. -/
def State.renote (s : State) (w : Word) : State :=
  let note := s.viewSummary
  let s : State := { s with hart := s.hart.renote w note, parked := s.parked.map fun h => h.renote w note }
  s.lu.launches.foldl (fun s l => (List.range l.hs.length).foldl (fun s j => s.renoteSlot w note l.lid j) s) s

/-- MEMBERSHIP_CHANGE_TRAP (R378): taken in the order of R389. -/
def execMembershipChangeTrap (hid : Nat) (s : State) : Answer :=
  match s.hart? hid with
  | none => .next s
  | some h =>
    if h.heldMember.isNone || h.run = .swap || h.stop.isSome || s.midway h then .next s
    else asHart hid (fun s => .next (takeHeld s)) s

/-- Every remote copy in flight is abandoned (R381). -/
def State.dropCopies (s : State) : State :=
  s.ops.foldl (fun s o => match o.kind.remoteSignal with
    | some sig => (s.weirLost sig).endOp o.id
    | none => s) s

/-- A mesh operation over parts that has not committed ends with code 0x04 (R321). -/
def State.dropParts (s : State) : State :=
  { s with
    mail := []
    ops := s.ops.map fun o => match o.kind with
      | .parts _ status done => { o with kind := .engine (statusWord 4 0 0) status done none false }
      | .waits (.job p) status done =>
        if p.mesh.mesh.npart = 1 then o
        else { o with kind := .waits (.job { p with forced := some (p.forced.getD (statusWord 4 0 0)) }) status done }
      | _ => o }

/-- The destination of an aborted collective (R376): each block of 256 elements, or each aligned piece of 256 bytes, holds its old
values or, where this package has the old-view result, may hold that. -/
def State.abortDest (s : State) (c : Coll) : State :=
  if !c.held.contains c.rank then s
  else
    let bs := c.result.1.flatMap fun x => bytesOf x c.esize
    let b := if c.hdr.kind < 2 then 256 * c.esize else 256
    let skip := if c.hdr.kind < 2 then 0 else (((c.dst.head?).map (·.loc.within)).getD 0) % 256
    let n := ceilDiv (skip + bs.length) b
    (List.range n).foldl (fun t i =>
      let t := { t with draw := t.draw + 1 }
      if Config.abortWrites (s.draw + i) then
        let lo := b * i - skip
        let piece := (bs.drop lo).take (b * (i + 1) - skip - lo)
        t.onBehalf c.lid (·.segWrite (segsAt c.dst lo piece.length) piece)
      else t) s

/-- The collective as it runs again in the view that this package has adopted (R376, R377): with the exponents it keeps, and its own
source still to be read anew. -/
def Coll.again (c : Coll) (f : Fabric) : Coll :=
  { c with
    tag := f.tag, nNew := f.size, rank := f.rank, held := [], shares := [], restarted := true, prior := c.ownShare.or c.prior
    hdr := { c.hdr with root := if c.hdr.kind = 3 then f.members.idxOf c.rootFid else c.hdr.root }
    exps := if c.hdr.policy = 2 then c.exps.or (c.shares.findSome? (·.exps)) else none }

/-- A collective of the old view follows its policy (R376). -/
def State.policy (s : State) (c : Coll) : State :=
  let f := s.fabric
  if c.hdr.policy = 0 then (s.abortDest c).endColl c.id (collStatus 2 0 f.tag)
  else if c.hdr.kind = 3 ∧ !f.members.contains c.rootFid then (s.abortDest c).endColl c.id (collStatus 8 0 f.tag)
  else
    let t := s.onBehalf c.lid fun s => (s.askAll (outsideOf c.src)).1
    let asks := (s.askAll (outsideOf c.src)).2
    t.updColl c.id fun _ => { c.again f with asks := asks }

/-- Settle the collectives of the old view whose outcome is open (R375, R383): those that every old member held complete, those that
some member has ended with no result end so, the others follow their policy in the new view. -/
def State.settleColls (s : State) (settled : CollId → Option (Option (Nat × Nat))) : State :=
  (s.colls.filter Coll.isOpen).foldl (fun s c =>
    match settled c.run with
    | some (some (code, detail)) => s.endColl c.id (collStatus code 0 detail)
    | some none => if c.held.contains c.rank then s.completeColl c else s.policy c
    | none => s.policy c) s

/-- The requests of CASTON and CLEAVE that a view settles (R379, R380). -/
def State.settleRequests (s : State) : State :=
  let w := s.viewSummary
  s.updFabric fun f => { f with requests := f.requests.map fun r =>
    if r.result.isSome then r
    else if r.leave then (if f.inView && f.members.contains r.fid then r else { r with result := some w })
    else if f.inView then { r with result := some w } else r }

/-- Flits of the adopted view that came too early arrive again: their senders resend them (R383). -/
def State.resent (s : State) : State :=
  let f := s.fabric
  (s.updFabric fun f => { f with early := [] }).post
    ((f.early.filter fun x => x.tag = f.tag ∧ f.members.contains x.sender).map .fabricFlitArrival)

/-- The package leaves its view (R364). -/
def State.leaveView (s : State) : State :=
  let hit := s.affected
  let s := s.updFabric fun f => { f with
    tag := 0, members := [], suspects := [], heard := [], joiners := [], leavers := [], acked := none, leading := none,
    hold := none, counts := [], ended := [], early := [] }
  let s := (s.colls.filter Coll.isOpen).foldl (fun s c => s.endColl c.id (collStatus 7 0 0)) s
  hit.foldl (fun s n => s.holdMember 0 n) ((s.dropCopies.dropParts.settleRequests).renote 0)

/-- Adopt a committed view (R362 step 5). A planned change ends no collective: one still in flight here is complete everywhere
else (R363). -/
def State.adopt (s : State) (tag : Nat) (members : List Nat) (settled : List Settled) (failure : Bool) : State :=
  let hit := if failure then s.affected else []
  let s := s.updFabric fun f =>
    let g := { f with
      tag := tag, members := sortFids members, suspects := [], joiners := f.joiners.filter fun j => !members.contains j,
      leavers := f.leavers.filter members.contains, acked := none, leading := none, hold := none, counts := [], ended := [] }
    { g with heard := g.neighbours.map fun n => (n, s.clock) }
  let s := s.dropParts
  let s := s.settleColls fun r =>
    if failure then (settled.find? fun q => q.run == r).map (·.ending) else some none
  let s := if failure then s.dropCopies else s
  (hit.foldl (fun s n => s.holdMember (wordOfNat tag) n) (s.settleRequests.renote (wordOfNat tag))).resent

/-- VIEW_COMMIT (R362 to R364, R375): adopted by a member under the next tag, or of the proposal that it acknowledged, or by a joiner
that asked; a member that the map omits leaves its view. -/
def execViewCommit (tag : Nat) (members : List Nat) (settled : List Settled) (failure : Bool) (s : State) : Answer :=
  let f := s.fabric
  if f.inView then
    if !members.contains f.fid then .next s.leaveView
    else if tag == laterTag f.tag || (f.acked.map (fun p => sortFids p.members)) == some (sortFids members) then
      .next (s.adopt tag members settled failure)
    else .next s
  else if members.contains f.fid && tag ≠ 0 && f.requests.any (fun r => !r.leave && r.result.isNone) then
    .next (s.adopt tag members [] false)
  else .next s

/-- COMMIT_TIMEOUT: no commit within 7,600,000 clocks of an acknowledgement (R362). -/
def execCommitTimeout (s : State) : Answer :=
  match s.fabric.acked with
  | none => .next s
  | some p =>
    if s.clock < p.since + 7600000 then .next s
    else if s.fabric.inView then .next s.leaveView
    else .next (s.updFabric fun f => { f with acked := none })

-- quiescence (R363)

/-- The pairs of this package's collectives that have not ended. -/
def State.openPairs (s : State) : List (Nat × Nat) :=
  (s.colls.filter fun c => c.status.isNone).map fun c => (c.etag, c.cid)

/-- QUIESCENCE_HOLD: a member answers with its pairs; the leader begins with itself. -/
def execQuiescenceHold (leader : Nat) (s : State) : Answer :=
  let f := s.fabric
  if !f.inView || !f.members.contains leader || f.acked.isSome || (leader == f.fid && f.hold.isSome) then .next s
  else
    let ps := s.openPairs
    let s := s.updFabric fun f => { f with hold := some ⟨leader, [], none, []⟩ }
    if leader = f.fid then
      .next ((s.send ((f.members.filter (· ≠ f.fid)).map OutMsg.holdReq)).post [.holdAck f.fid (some ps)])
    else .next (s.send [.holdAnswer leader ps])

/-- HOLD_UNION: from here on only the COLLs of the union are dispatched. -/
def execHoldUnion (pairs : List (Nat × Nat)) (s : State) : Answer :=
  .next (s.updFabric fun f => { f with hold := f.hold.map fun h => { h with union := some pairs } })

/-- A member's answer reaches the leader; with all of them it sends the union. -/
def State.holdAnswered (s : State) (h : Hold) (fid : Nat) (ps : List (Nat × Nat)) : State :=
  let f := s.fabric
  let h := { h with answers := (fid, ps) :: h.answers.filter fun a => a.1 ≠ fid }
  let s := s.updFabric fun f => { f with hold := some h }
  if h.leader = f.fid ∧ h.union = none ∧ (f.members.all fun m => h.answers.any fun a => a.1 == m) then
    let u := (h.answers.flatMap (·.2)).dedup
    (s.send ((f.members.filter (· ≠ f.fid)).map fun m => .holdUnion m u)).post [.holdUnion u]
  else s

/-- A hold's acknowledgement; with all of them the leader proposes the planned change. -/
def State.holdAcked (s : State) (h : Hold) (fid : Nat) : State :=
  let f := s.fabric
  let h := { h with acks := if h.acks.contains fid then h.acks else h.acks ++ [fid] }
  let s := s.updFabric fun f => { f with hold := some h }
  if h.leader ≠ f.fid then s
  else if f.members.all h.acks.contains then s.propose else s

/-- HOLD_ACK (R363): an answer or an acknowledgement at the leader, or this member's own acknowledgement. -/
def execHoldAck (fid : Nat) (pairs : Option (List (Nat × Nat))) (s : State) : Answer :=
  match s.fabric.hold with
  | none => .next s
  | some h =>
    if !s.fabric.members.contains fid then .next s
    else
      match pairs with
      | some ps => .next (s.holdAnswered h fid ps)
      | none =>
        if fid ≠ s.fabric.fid then .next (s.holdAcked h fid)
        else if h.acks.contains fid || !s.quiet h then .next s
        else
          let t := s.holdAcked h fid
          .next (if h.leader = s.fabric.fid then t else t.send [.holdAck h.leader])

-- joining and leaving (R379, R380)

/-- A request to join or to remove a member, kept here and forwarded to the leader. -/
def State.takeRequest (s : State) (fid : Nat) (leave : Bool) : State :=
  let f := s.fabric
  let s := s.updFabric fun f =>
    if leave then { f with leavers := addFid f.leavers fid } else { f with joiners := addFid f.joiners fid }
  if f.leader = f.fid then s else s.send [.joinReq f.leader fid leave]

/-- JOIN_REQUEST (R379): the contact answers and forwards the request to its leader. -/
def execJoinRequest (fid : Nat) (leave : Bool) (s : State) : Answer :=
  let f := s.fabric
  if leave then (if f.inView && f.members.contains fid then .next (s.takeRequest fid true) else .next s)
  else if !f.inView then .next (s.send [.joinAnswer fid false])
  else if f.members.contains fid then .next (s.send [.joinAnswer fid true])
  else if 8192 ≤ f.members.length then .next (s.send [.joinAnswer fid false])
  else .next ((s.takeRequest fid false).send [.joinAnswer fid true])

/-- Change a request. -/
def State.updRequest (s : State) (id : Nat) (f : Request → Request) : State :=
  s.updFabric fun g => { g with requests := g.requests.map fun r => if r.id = id then f r else r }

/-- An unsettled request of a CASTON. -/
def State.joining (s : State) (id : Nat) : Option Request :=
  s.fabric.requests.find? fun r => r.id = id ∧ !r.leave ∧ r.result.isNone

/-- JOIN_REQUEST_RETRY (R379): the contact's answer as it stands, and the request repeated until it is settled. -/
def execJoinRequestRetry (req : Nat) (answer : Option Bool) (s : State) : Answer :=
  match s.joining req with
  | none => .next s
  | some r =>
    match answer with
    | some false => .next (s.updRequest req fun r => { r with result := some 0 })
    | some true => .next ((s.updRequest req fun r => { r with answered := true }).send [.joinReq r.fid s.fabric.fid false])
    | none => .next (s.send [.joinReq r.fid s.fabric.fid false])

/-- JOIN_TIMEOUT (R379): 7,600,000 clocks without an answer. -/
def execJoinTimeout (req : Nat) (s : State) : Answer :=
  match s.joining req with
  | none => .next s
  | some r =>
    if r.answered || s.clock < r.since + 7600000 then .next s
    else .next (s.updRequest req fun r => { r with result := some 0 })

/-- A request of a hart, wherever it is placed (R379): CASTON or CLEAVE with one operand. -/
def Request.isOf (r : Request) (h : Hart) (fid : Nat) (leave : Bool) : Bool :=
  r.lid == h.lid && r.j == h.j && (h.lid != 0 || r.hid == h.hid) && r.fid == fid && r.leave == leave

/-- The end of a CASTON or CLEAVE: its result, and the request forgotten. -/
def State.settle1 (s : State) (fid : Nat) (leave : Bool) (d : Reg) (w : Word) : State :=
  ((s.updFabric fun f => { f with requests := f.requests.filter fun r => !r.isOf s.hart fid leave }).done1 d w).withHart fun h =>
    { h with run := .ready }

/-- A new request of the acting hart, which waits. -/
def State.request (s : State) (fid : Nat) (leave : Bool) : State :=
  ({ s.updFabric fun f => { f with
      requests := f.requests ++ [⟨s.nextOp, s.hart.lid, s.hart.j, s.hart.hid, fid, leave, false, none, s.clock⟩] } with
    nextOp := s.nextOp + 1 } : State).stall false

/-- The request of the acting hart. -/
def State.myRequest (s : State) (fid : Nat) (leave : Bool) : Option Request :=
  s.fabric.requests.find? (·.isOf s.hart fid leave)

/-- Found a view of one member (R379). -/
def State.found (s : State) : State := s.updFabric fun f => { f with tag := 1, members := [f.fid], counts := [], ended := [], heard := [] }

/-- CASTON (R365, R379): supervisor-only. -/
def execCaston (d a : Reg) (s : State) : Answer :=
  let x := (s.rx a).toNat
  let f := s.fabric
  if !s.hart.super then .next (takeTrap true 1 (wordOfNat (0xE00000C0 + put d 21 + put a 16)) 0 s)
  else if f.inView then .next (s.settle1 x false d s.viewSummary)
  else if x = f.fid then let t := s.found; .next (t.settle1 x false d t.viewSummary)
  else if 8192 ≤ x then .next (s.settle1 x false d 0)
  else
    match s.myRequest x false with
    | some r =>
      match r.result with
      | some w => .next (s.settle1 x false d w)
      | none => .next (s.stall false)
    | none => .next ((s.request x false).send [.joinReq x f.fid false])

/-- CLEAVE (R365, R380): supervisor-only. -/
def execCleave (d a : Reg) (s : State) : Answer :=
  let x := (s.rx a).toNat
  let f := s.fabric
  if !s.hart.super then .next (takeTrap true 1 (wordOfNat (0xE0000100 + put d 21 + put a 16)) 0 s)
  else
    match s.myRequest x true with
    | some r =>
      match r.result with
      | some w => .next (s.settle1 x true d w)
      | none => .next (s.stall false)
    | none =>
      if !f.inView || !f.members.contains x then .next (s.done1 d 0)
      else .next ((s.request x true).takeRequest x true)

end Sys2Proof.Machine
end

