-- ==== Sys2Proof/Machine/Yarn.lean ====
section
/-!
DEFINITION. Yarns: major 0x31 (R291 to R296): YBIND, VYLD, VYST, YREL, YSTAT and YBYTE.
-/

namespace Sys2Proof.Machine

-- fields of a bound record (R291)

/-- A field of a yarn record. -/
def YarnSlot.f (y : YarnSlot) (off len : Nat) : Nat := bitsAt y.record (8 * off) (8 * len)
/-- BASE. -/
def YarnSlot.base (y : YarnSlot) : Nat := y.f 0 8
/-- FMT. -/
def YarnSlot.fmt (y : YarnSlot) : Nat := y.f 8 1
/-- EW. -/
def YarnSlot.ew (y : YarnSlot) : Nat := y.f 9 1
/-- FLAGS.WRITE. -/
def YarnSlot.writes (y : YarnSlot) : Bool := bitsAt (y.f 0x0B 1) 0 1 == 1
/-- MESH. -/
def YarnSlot.mesh (y : YarnSlot) : Nat := y.f 0x0C 4
/-- STRIDE. -/
def YarnSlot.stride (y : YarnSlot) : Nat := y.f 0x10 8
/-- SCALE. -/
def YarnSlot.scale (y : YarnSlot) : Nat := y.f 0x18 8
/-- BOUND. -/
def YarnSlot.limit (y : YarnSlot) : Nat := y.f 0x20 8
/-- AVAIL. -/
def YarnSlot.avail (y : YarnSlot) : Nat := y.f 0x28 8
/-- STREAM. -/
def YarnSlot.stream (y : YarnSlot) : Nat := y.f 0x30 4
/-- Bytes of an element. -/
def YarnSlot.eb (y : YarnSlot) : Nat := 2 ^ y.ew
/-- A topology mode. -/
def YarnSlot.topology (y : YarnSlot) : Bool := 5 ≤ y.fmt

/-- A yarn slot of a hart. -/
def Hart.yarn (h : Hart) (k : Num3) : YarnSlot := (h.y[k.toNat]?).getD YarnSlot.empty

/-- Replace a yarn slot. -/
def Hart.setYarn (h : Hart) (k : Num3) (y : YarnSlot) : Hart := { h with y := h.y.setIfInBounds k.toNat y }

/-- The address of element p in PLAIN (R293). -/
def YarnSlot.plainAt (y : YarnSlot) (p : Nat) : Nat :=
  let st : Int := if y.stride = 0 then y.eb else sextNat y.stride 64
  wrapInt (y.base + p * st) 64

/-- The byte offset in the BASE stream after p elements, in the modes where the position fixes it. -/
def YarnSlot.offsetAt (y : YarnSlot) (p : Nat) : Nat :=
  match y.fmt with
  | 0 => p * y.eb
  | 1 => y.byteOff
  | 3 => ceilDiv p 2
  | 2 | 4 => ceilDiv p 8
  | _ => 8 * p

-- YBIND

/-- A record that R292 refuses, the handle of a topology mode aside. -/
def YarnSlot.refused (y : YarnSlot) : Bool :=
  7 < y.fmt || 3 < y.ew || 7 < y.f 0x0A 1 || 1 < y.f 0x0B 1 || y.f 0x34 12 != 0
    || (!y.topology && y.mesh != 0) || (y.fmt ≠ 0 && y.fmt ≠ 1 && y.stride != 0)
    || (y.fmt ≠ 2 && y.fmt ≠ 3 && y.fmt ≠ 4 && y.scale != 0)
    || ((y.fmt = 3 || y.fmt = 4) && y.ew == 0)
    || (y.topology && (y.ew ≠ 3 || y.writes || y.base != 0 || y.avail != 0))
    || (y.fmt = 0 && y.base % y.eb != 0)

/-- YBIND (R292, R315); it waits for the hart's older scalar stores (R255). -/
def execYbind (d : Num3) (a : Reg) (s : State) : Answer :=
  let x := s.rx a
  Act.run false (do
    Act.drain
    Act.granule
    Act.check (x.toNat % 64 == 0) 3 x
    let rec ← Act.ownRange x.toNat 64 (some 0)
    let y : YarnSlot := { YarnSlot.empty with bound := true, record := rec }
    Act.check (!y.refused) 2 x
    Act.check (s.hart.yarn d).held.isEmpty 2 (wordOfNat d.toNat)
    let t ← get
    let epoch ← (if y.topology then
        match t.myHandles.mesh.find? fun h => h.h = y.mesh with
        | some h => pure h.epoch
        | none => Act.trap 2 x
      else pure 0)
    Act.upd fun s => (s.withHart (·.setYarn d { y with prev := y.stride, epoch := epoch })).advance) s

-- VYLD

/-- What a meaning does, with a trap caught. -/
def Act.attempt {α : Type} (m : Act α) : Act (Except (Nat × Word) α) := fun s =>
  match m s with
  | .ok a t => .ok (.ok a) t
  | .error (.trap c v) t => .ok (.error (c, v)) t
  | .error e t => .error e t

/-- The pieces of a load, the lowest first. -/
def Act.loadPieces (lane : Option Nat) : List ((Nat × Nat) × Seg) → Act (List Byte)
  | [] => pure []
  | (p, g) :: ps => do
    let x ← Act.load p.1 g.loc g.len lane
    let rest ← Act.loadPieces lane ps
    pure (bytesOf x g.len ++ rest)

/-- Translate what an element touches, as its addresses become known; the instruction keeps the translations (R402). -/
def Act.reachKept (va n : Nat) (acc : Access) : Act (List Seg) := do
  let gs ← Act.reachAll va n acc true
  let new := ((piecesOf va n).zip gs).map fun p => (⟨p.1.1, acc.writes, p.2.loc⟩ : Held)
  Act.upd (·.withBegun fun b => { b with held := some (new ++ b.held.getD []) })
  pure gs

/-- A plain load of n bytes at an address by a lane die, all of it translated before any of it is read. -/
def Act.loadVa (lane : Option Nat) (va n : Nat) : Act Nat := do
  match ← Act.reachKept va n .read with
  | [g] => Act.load va g.loc n lane
  | gs => do
    let bs ← Act.loadPieces lane ((piecesOf va n).zip gs)
    pure (natOfBytes bs)

/-- The LEB128 code at byte `off` of the BASE stream (R293): its value and length; none when a byte lies beyond BOUND. -/
def YarnSlot.leb (y : YarnSlot) (lane : Option Nat) (slot : Word) (off : Nat) : Nat → Nat → Nat → Act (Option (Nat × Nat))
  | 0, _, _ => Act.trap 2 slot
  | n + 1, k, u => do
    if y.limit ≤ off + k then pure none
    else do
      let b ← Act.loadVa lane ((y.base + off + k) % 2 ^ 64) 1
      let u := u + b % 128 * 2 ^ (7 * k)
      if b < 128 then pure (some (u, k + 1)) else y.leb lane slot off n (k + 1) u

/-- Zigzag (R293). -/
def unzig (u : Nat) : Int := if u % 2 = 0 then (u / 2 : Nat) else -(((u + 1) / 2 : Nat) : Int)

/-- The element at position p, decoded by a lane die (R293): its pattern, flags and the slot after it; none when p is not decodable. -/
def YarnSlot.decode (y : YarnSlot) (lane : Option Nat) (slot : Word) (F : Fmt) (r : Rounding) (p : Nat) : Act (Option (Nat × Nat × YarnSlot)) := do
  let after (y : YarnSlot) : YarnSlot := { y with pos := p + 1, byteOff := y.offsetAt (p + 1) }
  let w := 8 * y.eb
  match y.fmt with
  | 0 =>
    if y.limit < (p + 1) * y.eb then pure none
    else do
      let va := y.plainAt p
      Act.check (va % y.eb == 0) 3 (wordOfNat va)
      let x ← Act.loadVa lane va y.eb
      pure (some (x, 0, after y))
  | 1 => do
    match ← y.leb lane slot y.byteOff 10 0 0 with
    | none => pure none
    | some (u, n) =>
      let x := wrapInt (y.prev + unzig u) w
      pure (some (x, 0, after { y with prev := x, byteOff := y.byteOff + n }))
  | 2 =>
    if y.limit ≤ p / 8 then pure none
    else do
      let b ← Act.loadVa lane ((y.base + p / 8) % 2 ^ 64) 1
      if b.testBit (p % 8) then do
        let x ← Act.loadVa lane ((y.scale + y.valOff) % 2 ^ 64) y.eb
        pure (some (x, 0, after { y with valOff := y.valOff + y.eb }))
      else pure (some (0, 0, after y))
  | 3 =>
    if y.limit ≤ p / 2 then pure none
    else do
      let b ← Act.loadVa lane ((y.base + p / 2) % 2 ^ 64) 1
      let sc ← Act.loadVa lane ((y.scale + p / 32) % 2 ^ 64) 1
      let m := sextNat (bitsAt b (4 * (p % 2)) 4) 4
      let v := if sc = 255 then (F.nan, 0) else roundInt F r m (sc - 127) false
      pure (some (v.1, v.2, after y))
  | _ =>
    if y.limit ≤ p / 8 then pure none
    else do
      let b ← Act.loadVa lane ((y.base + p / 8) % 2 ^ 64) 1
      let g ← Act.loadVa lane ((y.scale + 2 * (p / 64)) % 2 ^ 64) 2
      let v := fcvt1 F r false ((f16.unpack g).flip (b.testBit (p % 8)))
      pure (some (v.1, v.2, after y))

/-- Decode up to n elements from element i on; a stop at a later element ends the load without a trap (R294). -/
def yarnLoad (lane : Nat → Option Nat) (slot : Word) (F : Fmt) (r : Nat → Rounding) : Nat → Nat → Bool → YarnSlot → Act (List (Nat × Nat) × YarnSlot)
  | 0, _, _, y => pure ([], y)
  | n + 1, i, first, y => do
    match ← Act.attempt (y.decode (lane i) slot F (r i) y.pos) with
    | .error (c, v) => if first then Act.trap c v else pure ([], y)
    | .ok none => pure ([], y)
    | .ok (some (x, fl, y')) => do
      let (xs, z) ← yarnLoad lane slot F r n (i + 1) false y'
      pure ((x, fl) :: xs, z)

/-- The checks of VYLD and VYST on a slot (R294). -/
def Act.yarn (k : Num3) (write : Bool) : Act YarnSlot := do
  let s ← get
  let y := s.hart.yarn k
  Act.check (y.bound && s.hart.ew == y.ew && !(y.fmt = 1 && s.hart.alt) && y.writes == write) 2 (wordOfNat k.toNat)
  pure y

/-- The elements that AVAIL, as the instruction read it at its start, makes available beyond the position (R294, R306). -/
def Act.available (y : YarnSlot) : Act (Option Nat) := do
  if y.avail = 0 then pure none
  else do
    Act.check (y.avail % 8 == 0) 3 (wordOfNat y.avail)
    let now ← Act.loadVa (some 0) y.avail 8
    let s ← get
    let v := s.hart.begun.avail.getD now
    Act.upd (·.withBegun fun b => { b with avail := some v })
    pure (some (v - y.pos))

/-- Where a requested stop ends the instruction (R144), if it does so before its last element; a face record is never split (R294). -/
def YarnSlot.cutAt (y : YarnSlot) (h : Hart) : Option Nat :=
  (h.cutAt none).filter fun c => y.fmt ≠ 6 || (y.pos + (c - h.vstart)) % 2 == 0

/-- The address of a poisoned word that element p of a mesh's stream needs: a key of CELLS its forest or its own ghost key, a record
of NBR or FACE every array (DESIGN CHOICE: log 61). -/
def State.streamPoison (s : State) (r : MeshRec) (gs : List (List Seg)) (fmt p : Nat) : Option Nat :=
  let arr (i : Nat) : Option Nat := match r.arrays[i]?, gs[i]? with
    | some (va, n), some g => s.poisonIn va n g
    | _, _ => none
  if fmt ≠ 7 then (List.range 5).findSome? arr
  else if p < r.nown then (arr 1).or (arr 2)
  else
    let off := 8 * (p - r.nown)
    if s.segsPoisoned (segsAt ((gs[3]?).getD []) off 8) then some (r.ghosts + off) else none

/-- VYLD in a topology mode (R294, R315): the elements of the mesh's stream from the position on, before the first that needs a
poisoned word. -/
def Act.topologyLoad (k : Num3) (y : YarnSlot) (n : Nat) : Act (List (Nat × Nat) × YarnSlot) := do
  let slot := wordOfNat k.toNat
  let s ← get
  match s.myHandles.mesh.find? fun h => h.h = y.mesh with
  | none => Act.trap 2 slot
  | some h =>
    Act.idle h.h
    Act.check (h.epoch == y.epoch) 2 slot
    if n = 0 then pure ([], y)
    else
      Act.granule
      let s ← get
      match s.readMesh h with
      | .error _ => Act.trap 2 slot
      | .ok (m, gs, t) => do
        set t
        let xs := m.stream y.fmt
        let l := min n (min xs.length (y.limit / 8) - y.pos)
        let l := if y.fmt = 6 ∧ (y.pos + l) % 2 = 1 then l - 1 else l
        let bad := (List.range l).find? fun i => (t.streamPoison h.mesh gs y.fmt (y.pos + i)).isSome
        match bad, t.streamPoison h.mesh gs y.fmt y.pos with
        | some 0, some va => Act.trap 7 (wordOfNat va)
        | _, _ => pure ()
        let l := bad.getD l
        pure (((xs.drop y.pos).take l).map fun x => (x, 0),
          { y with pos := y.pos + l, byteOff := y.offsetAt (y.pos + l) })

/-- VYLD after its configuration check (R294); it waits for the hart's older scalar stores (R255). -/
def vyld (d : Reg) (k : Num3) : Act Unit := do
  let s ← get
  let h := s.hart
  let y ← Act.yarn k false
  Act.drain
  let n := (y.cutAt h).getD h.vl - h.vstart
  if y.topology then
    let (xs, z) ← Act.topologyLoad k y n
    finish h y n xs z
  else if n = 0 then finish h y n [] y
  else
    Act.granule
    let avail ← Act.available y
    let (xs, z) ← yarnLoad (fun i => some (dieOfGroup h.cfg d.toNat i)) (wordOfNat k.toNat) h.ffmt h.rounding
      (min n (avail.getD n)) h.vstart true y
    finish h y n xs z
where
  /-- Write the elements, the slot, VL and VSTART; with VSTART at or beyond VL only VSTART changes, and a stop within the instruction
  leaves VL (R144). -/
  finish (h : Hart) (y : YarnSlot) (n : Nat) (xs : List (Nat × Nat)) (z : YarnSlot) : Act Unit :=
    if n = 0 then Act.upd fun s => (s.withHart fun g => { g with vstart := 0 }).advance
    else do
      Act.upd fun s => s.withHart fun g => ((List.range xs.length).foldl (fun g i =>
        let x := xs.getD i (0, 0)
        (g.setElem h.cfg d.toNat (h.vstart + i) x.1).raise x.2) g).setYarn k z
      if xs.length = n && (y.cutAt h).isSome then Act.stopAt (h.vstart + n)
      else Act.upd fun s => (s.withHart fun g => { g with vl := h.vstart + xs.length, vstart := 0 }).advance

/-- VYLD. -/
def execVyld (d : Reg) (a : Num3) (s : State) : Answer :=
  if !aligned s.hart.cfg d then illegalWord (0xC4000001 + put d 21 + put a 16) s
  else Act.run true (vyld d a) s

-- VYST (R295)

/-- What encoding an element writes: addresses with bytes, in order. -/
abbrev Writes := List (Nat × List Byte)

/-- LEB128 of a natural, at most n bytes. -/
def lebBytes : Nat → Nat → List Byte
  | 0, _ => []
  | n + 1, u => if u < 128 then [BitVec.ofNat 8 u] else BitVec.ofNat 8 (128 + u % 128) :: lebBytes n (u / 128)

/-- Zigzag of a signed number. -/
def zig (d : Int) : Nat := if 0 ≤ d then 2 * d.toNat else 2 * (-d).toNat - 1

/-- Rounding of a B4 block's element at a stream position (R295). -/
def YarnSlot.rounding (y : YarnSlot) (h : Hart) (p : Nat) : Rounding :=
  ⟨h.frm, if h.frm = 5 then d24 (riffle h.seed.toNat p y.stream) else 0⟩

/-- A block of held elements, the first at position `p`, encoded with padding (R158 to R160): writes and flags. -/
def YarnSlot.block (y : YarnSlot) (h : Hart) (F : Fmt) (p : Nat) (xs : List Nat) : Writes × Nat :=
  if y.fmt = 3 then
    let b := b4Block F ((List.range xs.length).map fun i => (y.rounding h (p + i), F.unpack (xs.getD i 0)))
    let nib (i : Nat) := wrapInt (b.mant.getD i 0) 4
    let bytes := (List.range 16).map fun i => BitVec.ofNat 8 (nib (2 * i) + 16 * nib (2 * i + 1))
    ([((y.base + p / 2) % 2 ^ 64, bytes), ((y.scale + p / 32) % 2 ^ 64, bytesOf b.scale 1)], b.flags)
  else
    let vs := xs.map F.unpack
    let g := s1Scale F vs
    let sign := ((List.range vs.length).map fun i =>
      if ((vs[i]?).map fun v => !v.isNan && v.neg).getD false then 2 ^ i else 0).sum
    ([((y.base + p / 8) % 2 ^ 64, bytesOf sign 8), ((y.scale + 2 * (p / 64)) % 2 ^ 64, bytesOf g.1 2)], g.2)

/-- Elements of a block of the mode. -/
def YarnSlot.blockLen (y : YarnSlot) : Nat := if y.fmt = 3 then 32 else 64

/-- What appending one element does. -/
inductive Appended where
  /-- It would pass BOUND. -/
  | full
  /-- Its address is misaligned (PLAIN). -/
  | misaligned (va : Nat)
  | ok (ws : Writes) (flags : Nat) (y : YarnSlot)
  deriving DecidableEq, Repr

/-- Append a pattern at the slot's position (R293, R295); `cur` is the bitmap byte of the position as it stands. -/
def YarnSlot.append (y : YarnSlot) (h : Hart) (F : Fmt) (cur x : Nat) : Appended :=
  let p := y.pos
  let w := 8 * y.eb
  let after (y : YarnSlot) : YarnSlot := { y with pos := p + 1, byteOff := y.offsetAt (p + 1) }
  match y.fmt with
  | 0 =>
    if y.limit < (p + 1) * y.eb then .full
    else if y.plainAt p % y.eb ≠ 0 then .misaligned (y.plainAt p)
    else .ok [(y.plainAt p, bytesOf x y.eb)] 0 (after y)
  | 1 =>
    let bs := lebBytes 10 (zig (sextNat (wrapInt ((x : Int) - y.prev) w) w))
    if y.limit < y.byteOff + bs.length then .full
    else .ok [((y.base + y.byteOff) % 2 ^ 64, bs)] 0 (after { y with prev := x, byteOff := y.byteOff + bs.length })
  | 2 =>
    if y.limit ≤ p / 8 then .full
    else
      let bit : Writes := [((y.base + p / 8) % 2 ^ 64, bytesOf (cur + if x = 0 then 0 else 2 ^ (p % 8)) 1)]
      if x = 0 then .ok bit 0 (after y)
      else .ok (bit ++ [((y.scale + y.valOff) % 2 ^ 64, bytesOf x y.eb)]) 0 (after { y with valOff := y.valOff + y.eb })
  | _ =>
    let n := y.blockLen
    let bb := if y.fmt = 3 then 16 else 8
    if y.limit < bb * (p / n + 1) then .full
    else
      let held := y.held ++ [x]
      if held.length < n then .ok [] 0 { y with pos := p + 1, held := held }
      else
        let (ws, fl) := y.block h F (p + 1 - n) held
        .ok ws fl (after { y with held := [] })

/-- A placed write: where, what, and the lane die that makes it. -/
abbrev Placed := Seg × List Byte × Nat

/-- Bytes of the writes that reach a place, translated for a write; a failure traps. -/
def Act.places (die : Nat) : Writes → Act (List Placed)
  | [] => pure []
  | (va, bs) :: ws => do
    let segs ← Act.reachKept va bs.length .write
    let rest ← Act.places die ws
    let cut := (List.range segs.length).map fun i =>
      let off := ((segs.take i).map (·.len)).sum
      ((segs[i]?).getD ⟨.cap 0, 0⟩, (bs.drop off).take (((segs[i]?).map (·.len)).getD 0), die)
    pure (cut ++ rest)

/-- Append the patterns in order, with their writes placed: what is done before the first that does not go. `bad` holds a
trap for an element whose register word is poisoned. The answer: places, flags, elements appended, the slot, and the trap
at the element after them. -/
def yarnStore (h : Hart) (F : Fmt) : List (Nat × Nat × Option Word) → Nat → Bool → YarnSlot →
    Act (List Placed × Nat × Nat × YarnSlot × Option (Nat × Word))
  | [], _, _, y => pure ([], 0, 0, y, none)
  | (x, die, bad) :: xs, cur, first, y => do
    match bad with
    | some v => pure ([], 0, 0, y, some (7, v))
    | none =>
      let cur := if y.pos % 8 = 0 then 0 else cur
      match y.append h F cur x with
      | .full => pure ([], 0, 0, y, none)
      | .misaligned va => if first then Act.trap 3 (wordOfNat va) else pure ([], 0, 0, y, none)
      | .ok ws fl y' => do
        match ← Act.attempt (Act.places die ws) with
        | .error (c, v) => if first then Act.trap c v else pure ([], 0, 0, y, none)
        | .ok gs => do
          let cur' := cur + if x = 0 then 0 else 2 ^ (y.pos % 8)
          let (gs', fl', n, z, e) ← yarnStore h F xs cur' false y'
          pure (gs ++ gs', fl ||| fl', n + 1, z, e)

/-- Perform placed writes in order (R279, R348), the stream's bytes as one write (R269), and the AVAIL word after them (R295, R343);
the pages of hosts are granted before the first (R404). -/
def Act.yarnPut (gs av : List Placed) : Act Unit := do
  let s ← get
  let all := gs ++ av
  if s.hart.begun.stored = 0 then Act.pushAll (all.map (·.1.loc)) else pure ()
  let pieces := (List.range all.length).zipWith (fun n g =>
    (⟨n, if g.1.loc.outside then some g.1.loc else none, fun s => s.storeAt g.1.loc g.2.1 (some g.2.2)⟩ : Piece)) all
  Act.perform markStored (pieces.drop s.hart.begun.stored)
  Act.upd fun s => s.mend (gs.map fun g => ⟨g.1.loc, g.2.1.length⟩)

/-- The place of the AVAIL word for its publication, if there is one (R295), by die 0 (DESIGN CHOICE: log 39). -/
def Act.availAt (y : YarnSlot) : Act (List Placed) := do
  if y.avail = 0 then pure []
  else do
    Act.check (y.avail % 8 == 0) 3 (wordOfNat y.avail)
    Act.places 0 [(y.avail, bytesOf 0 8)]

/-- AVAIL becomes the count of encoded elements (R295). -/
def availWrite (gs : List Placed) (count : Nat) : List Placed := gs.map fun g => (g.1, bytesOf count 8, g.2.2)

/-- VYST after its configuration check (R294, R295); it waits for the hart's older scalar stores (R255). Its release of AVAIL comes
after its own bytes, and not at a stop within it (R144, R343). -/
def vyst (k : Num3) (a : Reg) : Act Unit := do
  let s ← get
  let h := s.hart
  let c := h.cfg
  let y ← Act.yarn k true
  Act.drain
  if h.vl ≤ h.vstart then Act.upd fun s => (s.withHart fun g => { g with vstart := 0 }).advance
  else
    Act.granule
    let av ← Act.availAt y
    let cur ← (if y.fmt = 2 ∧ y.pos % 8 ≠ 0 then do
        let loc ← Act.reach ((y.base + y.pos / 8) % 2 ^ 64) .write true
        let bs ← Act.readAt loc 1 (some (dieOfGroup c a.toNat h.vstart))
        pure (natOfBytes bs % 2 ^ (y.pos % 8))
      else pure 0)
    let stop := (h.cutAt none).getD h.vl
    let xs := ((List.range stop).drop h.vstart).map fun i =>
      (h.elem c a.toNat i, dieOfGroup c a.toNat i, h.srcPoison (.vec c a.toNat) i)
    let (gs, fl, n, z, e) ← yarnStore h h.ffmt xs cur true y
    let cut := stop < h.vl && n == xs.length && e.isNone
    Act.yarnPut gs (if cut then [] else availWrite av (z.pos - z.held.length))
    Act.upd fun s =>
      let s := s.withHart fun g => g.setYarn k z
      if y.fmt = 3 ∨ y.fmt = 4 then s.raise fl else s
    match e with
    | some (code, v) => do
      Act.upd fun s => s.withHart fun g => { g with vstart := h.vstart + n }
      Act.trap code v
    | none =>
      if cut then Act.stopAt stop
      else Act.upd fun s => (s.withHart fun g => { g with vl := h.vstart + n, vstart := 0 }).advance

/-- VYST. -/
def execVyst (d : Num3) (a : Reg) (c : Bit1) (s : State) : Answer :=
  if !aligned s.hart.cfg a then illegalWord (0xC4000002 + put d 21 + put a 16 + put c 10) s
  else Act.run true (vyst d a) s

-- YREL, YSTAT, YBYTE

/-- YREL (R296): held elements as a partial block, the final AVAIL write, and the slot unbound. -/
def execYrel (d : Num3) (s : State) : Answer :=
  let h := s.hart
  let y := h.yarn d
  if !y.bound then .next s.advance
  else
    Act.run false (do
      Act.drain
      Act.granule
      let F := { h with vtype := wordOfNat (y.ew + 8 * bitsAt h.vtype.toNat 3 1) }.ffmt
      let (ws, fl) := if y.held.isEmpty then ([], 0) else y.block h F (y.pos - y.held.length) y.held
      let gs ← Act.places 0 ws
      let av ← if y.writes then Act.availAt y else pure []
      Act.yarnPut gs (availWrite av y.pos)
      Act.upd fun s => ((s.raise fl).withHart (·.setYarn d YarnSlot.empty)).advance) s

/-- A scalar result about a bound slot (R294). -/
def yarnFact (f : YarnSlot → Nat) (d : Reg) (a : Num3) : Act Unit := do
  let s ← get
  let y := s.hart.yarn a
  Act.check y.bound 2 (wordOfNat a.toNat)
  Act.granule
  Act.upd (·.done1 d (wordOfNat (f y)))

/-- YSTAT (R294). -/
def execYstat (d : Reg) (a : Num3) (s : State) : Answer := Act.run false (yarnFact (·.pos) d a) s

/-- YBYTE (R294). -/
def execYbyte (d : Reg) (a : Num3) (s : State) : Answer := Act.run false (yarnFact (·.byteOff) d a) s

end Sys2Proof.Machine
end

