-- ==== Sys2Proof/Machine/Dispatch.lean ====
section
/-!
DEFINITION. One arm for each constructor of Instr: a direct call of its meaning.
-/

namespace Sys2Proof.Machine

/-- The meaning of an instruction or event. -/
def exec (i : Instr) (s : State) : Host.Outcome State Fault Refusal :=
  match i with
  | .statusAccess v => Sys2Proof.Machine.execStatusAccess v s
  | .vtypeWrite v => Sys2Proof.Machine.execVtypeWrite v s
  | .vlWrite v => Sys2Proof.Machine.execVlWrite v s
  | .slipWrite v => Sys2Proof.Machine.execSlipWrite v s
  | .seedWrite v => Sys2Proof.Machine.execSeedWrite v s
  | .dseedWrite v => Sys2Proof.Machine.execDseedWrite v s
  | .rminWrite cls v => Sys2Proof.Machine.execRminWrite cls v s
  | .mtypeWrite v => Sys2Proof.Machine.execMtypeWrite v s
  | .mvlWrite v => Sys2Proof.Machine.execMvlWrite v s
  | .spbaseWrite v => Sys2Proof.Machine.execSpbaseWrite v s
  | .controlRegisterWrite creg v => Sys2Proof.Machine.execControlRegisterWrite creg v s
  | .instructionFetch core part => Sys2Proof.Machine.execInstructionFetch core part s
  | .slotPick core part => Sys2Proof.Machine.execSlotPick core part s
  | .vectorQueueDispatch hid => Sys2Proof.Machine.execVectorQueueDispatch hid s
  | .granuleCommit hid r => Sys2Proof.Machine.execGranuleCommit hid r s
  | .scalarStoreAck hid => Sys2Proof.Machine.execScalarStoreAck hid s
  | .hartStop hid => Sys2Proof.Machine.execHartStop hid s
  | .hartSaveDone hid => Sys2Proof.Machine.execHartSaveDone hid s
  | .hartRestore lid j => Sys2Proof.Machine.execHartRestore lid j s
  | .heldEventTake hid => Sys2Proof.Machine.execHeldEventTake hid s
  | .stretchPreemption hid => Sys2Proof.Machine.execStretchPreemption hid s
  | .issueBudgetExhausted hid => Sys2Proof.Machine.execIssueBudgetExhausted hid s
  | .budgetGraceExpiry hid => Sys2Proof.Machine.execBudgetGraceExpiry hid s
  | .grantApply hid => Sys2Proof.Machine.execGrantApply hid s
  | .mtypeChange hid v => Sys2Proof.Machine.execMtypeChange hid v s
  | .hartEnd hid => Sys2Proof.Machine.execHartEnd hid s
  | .waitwWake hid => Sys2Proof.Machine.execWaitwWake hid s
  | .farmBarrierRelease lid farm => Sys2Proof.Machine.execFarmBarrierRelease lid farm s
  | .farmredResult hid => Sys2Proof.Machine.execFarmredResult hid s
  | .weirwtWake hid => Sys2Proof.Machine.execWeirwtWake hid s
  | .vwmwaitWake hid => Sys2Proof.Machine.execVwmwaitWake hid s
  | .gatedElementRead hid => Sys2Proof.Machine.execGatedElementRead hid s
  | .publicationApply idx => Sys2Proof.Machine.execPublicationApply idx s
  | .cwaitReturn hid => Sys2Proof.Machine.execCwaitReturn hid s
  | .handleWaitReturn hid => Sys2Proof.Machine.execHandleWaitReturn hid s
  | .copyComplete op => Sys2Proof.Machine.execCopyComplete op s
  | .weirArrival op n => Sys2Proof.Machine.execWeirArrival op n s
  | .cpygsRowLanded op row => Sys2Proof.Machine.execCpygsRowLanded op row s
  | .engineOperationComplete op => Sys2Proof.Machine.execEngineOperationComplete op s
  | .engineOperationStop op => Sys2Proof.Machine.execEngineOperationStop op s
  | .imageVerificationDone v => Sys2Proof.Machine.execImageVerificationDone v s
  | .handlePostedSlot port slot => Sys2Proof.Machine.execHandlePostedSlot port slot s
  | .prereqWordMet lid j => Sys2Proof.Machine.execPrereqWordMet lid j s
  | .prereqUnreadable lid j => Sys2Proof.Machine.execPrereqUnreadable lid j s
  | .launchStart lid => Sys2Proof.Machine.execLaunchStart lid s
  | .promiseExpiry e => Sys2Proof.Machine.execPromiseExpiry e s
  | .refit => Sys2Proof.Machine.execRefit s
  | .completionRecordWrite lid => Sys2Proof.Machine.execCompletionRecordWrite lid s
  | .hostNotice lid => Sys2Proof.Machine.execHostNotice lid s
  | .powerReading mw decic => Sys2Proof.Machine.execPowerReading mw decic s
  | .standbyEntry => Sys2Proof.Machine.execStandbyEntry s
  | .standbyExitDone => Sys2Proof.Machine.execStandbyExitDone s
  | .boot fails => Sys2Proof.Machine.execBoot fails s
  | .linkService link outcome => Sys2Proof.Machine.execLinkService link outcome s
  | .patrolScrub stack error fixable => Sys2Proof.Machine.execPatrolScrub stack error fixable s
  | .rds agent line => Sys2Proof.Machine.execRds agent line s
  | .rdx agent line => Sys2Proof.Machine.execRdx agent line s
  | .upg agent line => Sys2Proof.Machine.execUpg agent line s
  | .evc agent line => Sys2Proof.Machine.execEvc agent line s
  | .wbd agent line => Sys2Proof.Machine.execWbd agent line s
  | .snps agent line => Sys2Proof.Machine.execSnps agent line s
  | .snpx agent line => Sys2Proof.Machine.execSnpx agent line s
  | .inv agent line => Sys2Proof.Machine.execInv agent line s
  | .binv agent line => Sys2Proof.Machine.execBinv agent line s
  | .fwd agent line => Sys2Proof.Machine.execFwd agent line s
  | .data agent line => Sys2Proof.Machine.execData agent line s
  | .rsp agent line => Sys2Proof.Machine.execRsp agent line s
  | .cmp agent line => Sys2Proof.Machine.execCmp agent line s
  | .homeAtomic a => Sys2Proof.Machine.execHomeAtomic a s
  | .remoteAtomicError hid applied elem => Sys2Proof.Machine.execRemoteAtomicError hid applied elem s
  | .hostPortRequest port r => Sys2Proof.Machine.execHostPortRequest port r s
  | .priResponse hid ok => Sys2Proof.Machine.execPriResponse hid ok s
  | .priTimeout hid => Sys2Proof.Machine.execPriTimeout hid s
  | .atsInvalidation port pasid va => Sys2Proof.Machine.execAtsInvalidation port pasid va s
  | .attest port => Sys2Proof.Machine.execAttest port s
  | .keysetInstall port => Sys2Proof.Machine.execKeysetInstall port s
  | .keysetClear port => Sys2Proof.Machine.execKeysetClear port s
  | .jclear port => Sys2Proof.Machine.execJclear port s
  | .jread port => Sys2Proof.Machine.execJread port s
  | .logread port => Sys2Proof.Machine.execLogread port s
  | .spaceBind port => Sys2Proof.Machine.execSpaceBind port s
  | .spaceUnbind port => Sys2Proof.Machine.execSpaceUnbind port s
  | .heartbeatSend => Sys2Proof.Machine.execHeartbeatSend s
  | .heartbeatReceive fid => Sys2Proof.Machine.execHeartbeatReceive fid s
  | .heartbeatTimeout fid => Sys2Proof.Machine.execHeartbeatTimeout fid s
  | .neighbourUnreachable fid => Sys2Proof.Machine.execNeighbourUnreachable fid s
  | .suspicionReport reporter suspect => Sys2Proof.Machine.execSuspicionReport reporter suspect s
  | .viewProposal leader p => Sys2Proof.Machine.execViewProposal leader p s
  | .proposalAck fid a => Sys2Proof.Machine.execProposalAck fid a s
  | .proposalAckTimeout fid => Sys2Proof.Machine.execProposalAckTimeout fid s
  | .viewCommit tag members settled failure => Sys2Proof.Machine.execViewCommit tag members settled failure s
  | .commitTimeout => Sys2Proof.Machine.execCommitTimeout s
  | .quiescenceHold leader => Sys2Proof.Machine.execQuiescenceHold leader s
  | .holdUnion pairs => Sys2Proof.Machine.execHoldUnion pairs s
  | .holdAck fid pairs => Sys2Proof.Machine.execHoldAck fid pairs s
  | .joinRequest fid leave => Sys2Proof.Machine.execJoinRequest fid leave s
  | .joinRequestRetry req answer => Sys2Proof.Machine.execJoinRequestRetry req answer s
  | .joinTimeout req => Sys2Proof.Machine.execJoinTimeout req s
  | .membershipChangeTrap hid => Sys2Proof.Machine.execMembershipChangeTrap hid s
  | .fabricFlitArrival f => Sys2Proof.Machine.execFabricFlitArrival f s
  | .remoteCopyAccess f => Sys2Proof.Machine.execRemoteCopyAccess f s
  | .remoteCopyRefused op => Sys2Proof.Machine.execRemoteCopyRefused op s
  | .collectiveMatch tag cid => Sys2Proof.Machine.execCollectiveMatch tag cid s
  | .collectiveComplete tag cid => Sys2Proof.Machine.execCollectiveComplete tag cid s
  | .powerRemoved => Sys2Proof.Machine.execPowerRemoved s
  | .illegalInstruction w => Sys2Proof.Machine.execIllegalInstruction w s
  | .targetCompletion tag bytes ok => Sys2Proof.Machine.execTargetCompletion tag bytes ok s
  | .unknownCode port => Sys2Proof.Machine.execUnknownCode port s
  | .add d a b => Sys2Proof.Machine.execAdd d a b s
  | .sub d a b => Sys2Proof.Machine.execSub d a b s
  | .and d a b => Sys2Proof.Machine.execAnd d a b s
  | .or d a b => Sys2Proof.Machine.execOr d a b s
  | .xor d a b => Sys2Proof.Machine.execXor d a b s
  | .andn d a b => Sys2Proof.Machine.execAndn d a b s
  | .sll d a b => Sys2Proof.Machine.execSll d a b s
  | .srl d a b => Sys2Proof.Machine.execSrl d a b s
  | .sra d a b => Sys2Proof.Machine.execSra d a b s
  | .ror d a b => Sys2Proof.Machine.execRor d a b s
  | .slt d a b => Sys2Proof.Machine.execSlt d a b s
  | .sltn d a b => Sys2Proof.Machine.execSltn d a b s
  | .min d a b => Sys2Proof.Machine.execMin d a b s
  | .max d a b => Sys2Proof.Machine.execMax d a b s
  | .mul d a b => Sys2Proof.Machine.execMul d a b s
  | .mulh d a b => Sys2Proof.Machine.execMulh d a b s
  | .mulhn d a b => Sys2Proof.Machine.execMulhn d a b s
  | .div d a b => Sys2Proof.Machine.execDiv d a b s
  | .divn d a b => Sys2Proof.Machine.execDivn d a b s
  | .rem d a b => Sys2Proof.Machine.execRem d a b s
  | .remn d a b => Sys2Proof.Machine.execRemn d a b s
  | .clz d a => Sys2Proof.Machine.execClz d a s
  | .popc d a => Sys2Proof.Machine.execPopc d a s
  | .slli d a h => Sys2Proof.Machine.execSlli d a h s
  | .srli d a h => Sys2Proof.Machine.execSrli d a h s
  | .srai d a h => Sys2Proof.Machine.execSrai d a h s
  | .rori d a h => Sys2Proof.Machine.execRori d a h s
  | .addi d a i0 => Sys2Proof.Machine.execAddi d a i0 s
  | .andi d a i0 => Sys2Proof.Machine.execAndi d a i0 s
  | .ori d a i0 => Sys2Proof.Machine.execOri d a i0 s
  | .xori d a i0 => Sys2Proof.Machine.execXori d a i0 s
  | .slti d a i0 => Sys2Proof.Machine.execSlti d a i0 s
  | .sltni d a i0 => Sys2Proof.Machine.execSltni d a i0 s
  | .lhi d i0 => Sys2Proof.Machine.execLhi d i0 s
  | .pchi d i0 => Sys2Proof.Machine.execPchi d i0 s
  | .fadd d a b f m => Sys2Proof.Machine.execFadd d a b f m s
  | .fsub d a b f m => Sys2Proof.Machine.execFsub d a b f m s
  | .fmul d a b f m => Sys2Proof.Machine.execFmul d a b f m s
  | .fdiv d a b f m => Sys2Proof.Machine.execFdiv d a b f m s
  | .fsqrt d a f m => Sys2Proof.Machine.execFsqrt d a f m s
  | .fmin d a b f => Sys2Proof.Machine.execFmin d a b f s
  | .fmax d a b f => Sys2Proof.Machine.execFmax d a b f s
  | .feq d a b f => Sys2Proof.Machine.execFeq d a b f s
  | .flt d a b f => Sys2Proof.Machine.execFlt d a b f s
  | .fle d a b f => Sys2Proof.Machine.execFle d a b f s
  | .fcvt d a s0 f m => Sys2Proof.Machine.execFcvt d a s0 f m s
  | .fcvti d a t f m => Sys2Proof.Machine.execFcvti d a t f m s
  | .fcvtf d a t f m => Sys2Proof.Machine.execFcvtf d a t f m s
  | .fma d a b c f => Sys2Proof.Machine.execFma d a b c f s
  | .fms d a b c f => Sys2Proof.Machine.execFms d a b c f s
  | .fnma d a b c f => Sys2Proof.Machine.execFnma d a b c f s
  | .fnms d a b c f => Sys2Proof.Machine.execFnms d a b c f s
  | .ldI8 d a o => Sys2Proof.Machine.execLdI8 d a o s
  | .ldI16 d a o => Sys2Proof.Machine.execLdI16 d a o s
  | .ldI32 d a o => Sys2Proof.Machine.execLdI32 d a o s
  | .ldI64 d a o => Sys2Proof.Machine.execLdI64 d a o s
  | .ldN8 d a o => Sys2Proof.Machine.execLdN8 d a o s
  | .ldN16 d a o => Sys2Proof.Machine.execLdN16 d a o s
  | .ldN32 d a o => Sys2Proof.Machine.execLdN32 d a o s
  | .stI8 s0 a o => Sys2Proof.Machine.execStI8 s0 a o s
  | .stI16 s0 a o => Sys2Proof.Machine.execStI16 s0 a o s
  | .stI32 s0 a o => Sys2Proof.Machine.execStI32 s0 a o s
  | .stI64 s0 a o => Sys2Proof.Machine.execStI64 s0 a o s
  | .atswap d a b o s0 z => Sys2Proof.Machine.execAtswap d a b o s0 z s
  | .atadd d a b o s0 z => Sys2Proof.Machine.execAtadd d a b o s0 z s
  | .atand d a b o s0 z => Sys2Proof.Machine.execAtand d a b o s0 z s
  | .ator d a b o s0 z => Sys2Proof.Machine.execAtor d a b o s0 z s
  | .atxor d a b o s0 z => Sys2Proof.Machine.execAtxor d a b o s0 z s
  | .atmin d a b o s0 z => Sys2Proof.Machine.execAtmin d a b o s0 z s
  | .atmax d a b o s0 z => Sys2Proof.Machine.execAtmax d a b o s0 z s
  | .atminN d a b o s0 z => Sys2Proof.Machine.execAtminN d a b o s0 z s
  | .atmaxN d a b o s0 z => Sys2Proof.Machine.execAtmaxN d a b o s0 z s
  | .atfadd d a b o s0 z => Sys2Proof.Machine.execAtfadd d a b o s0 z s
  | .ldo d a o s0 z => Sys2Proof.Machine.execLdo d a o s0 z s
  | .sto a b o s0 z => Sys2Proof.Machine.execSto a b o s0 z s
  | .cas d a b c o s0 z => Sys2Proof.Machine.execCas d a b c o s0 z s
  | .beq a b o => Sys2Proof.Machine.execBeq a b o s
  | .bne a b o => Sys2Proof.Machine.execBne a b o s
  | .blt a b o => Sys2Proof.Machine.execBlt a b o s
  | .bge a b o => Sys2Proof.Machine.execBge a b o s
  | .bltn a b o => Sys2Proof.Machine.execBltn a b o s
  | .bgen a b o => Sys2Proof.Machine.execBgen a b o s
  | .jal o => Sys2Proof.Machine.execJal o s
  | .jalr d a i0 => Sys2Proof.Machine.execJalr d a i0 s
  | .kbrAny k o => Sys2Proof.Machine.execKbrAny k o s
  | .kbrNone k o => Sys2Proof.Machine.execKbrNone k o s
  | .kbrAll k o => Sys2Proof.Machine.execKbrAll k o s
  | .kbrNall k o => Sys2Proof.Machine.execKbrNall k o s
  | .vwhile k v b o => Sys2Proof.Machine.execVwhile k v b o s
  | .fence o s0 => Sys2Proof.Machine.execFence o s0 s
  | .waitw d a b o s0 => Sys2Proof.Machine.execWaitw d a b o s0 s
  | .yield => Sys2Proof.Machine.execYield s
  | .exit => Sys2Proof.Machine.execExit s
  | .brk n => Sys2Proof.Machine.execBrk n s
  | .syscall n => Sys2Proof.Machine.execSyscall n s
  | .tret => Sys2Proof.Machine.execTret s
  | .ctxsv a => Sys2Proof.Machine.execCtxsv a s
  | .ctxld a => Sys2Proof.Machine.execCtxld a s
  | .tlbinvPage a b => Sys2Proof.Machine.execTlbinvPage a b s
  | .tlbinvAsid b => Sys2Proof.Machine.execTlbinvAsid b s
  | .tlbinvAll => Sys2Proof.Machine.execTlbinvAll s
  | .asw a b => Sys2Proof.Machine.execAsw a b s
  | .crr d c => Sys2Proof.Machine.execCrr d c s
  | .crw d a c => Sys2Proof.Machine.execCrw d a c s
  | .crs d a c => Sys2Proof.Machine.execCrs d a c s
  | .crc d a c => Sys2Proof.Machine.execCrc d a c s
  | .launch d a => Sys2Proof.Machine.execLaunch d a s
  | .lstat d a => Sys2Proof.Machine.execLstat d a s
  | .lcancel d a => Sys2Proof.Machine.execLcancel d a s
  | .farm a b => Sys2Proof.Machine.execFarm a b s
  | .strip d a => Sys2Proof.Machine.execStrip d a s
  | .farmredF64 d a b => Sys2Proof.Machine.execFarmredF64 d a b s
  | .farmredMin d a b => Sys2Proof.Machine.execFarmredMin d a b s
  | .farmredMax d a b => Sys2Proof.Machine.execFarmredMax d a b s
  | .farmredI64 d a b => Sys2Proof.Machine.execFarmredI64 d a b s
  | .vsetvl d a => Sys2Proof.Machine.execVsetvl d a s
  | .vsetvlB d a b => Sys2Proof.Machine.execVsetvlB d a b s
  | .vsettype d a => Sys2Proof.Machine.execVsettype d a s
  | .mxmode d a b => Sys2Proof.Machine.execMxmode d a b s
  | .vadd d a b c e g => Sys2Proof.Machine.execVadd d a b c e g s
  | .vsub d a b c e g => Sys2Proof.Machine.execVsub d a b c e g s
  | .vrsub d a b c e g => Sys2Proof.Machine.execVrsub d a b c e g s
  | .vand d a b c e g => Sys2Proof.Machine.execVand d a b c e g s
  | .vor d a b c e g => Sys2Proof.Machine.execVor d a b c e g s
  | .vxor d a b c e g => Sys2Proof.Machine.execVxor d a b c e g s
  | .vsll d a b c e g => Sys2Proof.Machine.execVsll d a b c e g s
  | .vsrl d a b c e g => Sys2Proof.Machine.execVsrl d a b c e g s
  | .vsra d a b c e g => Sys2Proof.Machine.execVsra d a b c e g s
  | .vmin d a b c e g => Sys2Proof.Machine.execVmin d a b c e g s
  | .vmax d a b c e g => Sys2Proof.Machine.execVmax d a b c e g s
  | .vminn d a b c e g => Sys2Proof.Machine.execVminn d a b c e g s
  | .vmaxn d a b c e g => Sys2Proof.Machine.execVmaxn d a b c e g s
  | .vmul d a b c e g => Sys2Proof.Machine.execVmul d a b c e g s
  | .vmulh d a b c e g => Sys2Proof.Machine.execVmulh d a b c e g s
  | .vmulhn d a b c e g => Sys2Proof.Machine.execVmulhn d a b c e g s
  | .vdiv d a b c e g => Sys2Proof.Machine.execVdiv d a b c e g s
  | .vdivn d a b c e g => Sys2Proof.Machine.execVdivn d a b c e g s
  | .vrem d a b c e g => Sys2Proof.Machine.execVrem d a b c e g s
  | .vremn d a b c e g => Sys2Proof.Machine.execVremn d a b c e g s
  | .vsadd d a b c e g => Sys2Proof.Machine.execVsadd d a b c e g s
  | .vsaddn d a b c e g => Sys2Proof.Machine.execVsaddn d a b c e g s
  | .vssub d a b c e g => Sys2Proof.Machine.execVssub d a b c e g s
  | .vssubn d a b c e g => Sys2Proof.Machine.execVssubn d a b c e g s
  | .vmv d b e g => Sys2Proof.Machine.execVmv d b e g s
  | .vmuln d a b c e g => Sys2Proof.Machine.execVmuln d a b c e g s
  | .vid d g => Sys2Proof.Machine.execVid d g s
  | .vaddVx d a b c g => Sys2Proof.Machine.execVaddVx d a b c g s
  | .vsubVx d a b c g => Sys2Proof.Machine.execVsubVx d a b c g s
  | .vrsubVx d a b c g => Sys2Proof.Machine.execVrsubVx d a b c g s
  | .vandVx d a b c g => Sys2Proof.Machine.execVandVx d a b c g s
  | .vorVx d a b c g => Sys2Proof.Machine.execVorVx d a b c g s
  | .vxorVx d a b c g => Sys2Proof.Machine.execVxorVx d a b c g s
  | .vsllVx d a b c g => Sys2Proof.Machine.execVsllVx d a b c g s
  | .vsrlVx d a b c g => Sys2Proof.Machine.execVsrlVx d a b c g s
  | .vsraVx d a b c g => Sys2Proof.Machine.execVsraVx d a b c g s
  | .vminVx d a b c g => Sys2Proof.Machine.execVminVx d a b c g s
  | .vmaxVx d a b c g => Sys2Proof.Machine.execVmaxVx d a b c g s
  | .vminnVx d a b c g => Sys2Proof.Machine.execVminnVx d a b c g s
  | .vmaxnVx d a b c g => Sys2Proof.Machine.execVmaxnVx d a b c g s
  | .vmulVx d a b c g => Sys2Proof.Machine.execVmulVx d a b c g s
  | .vmulhVx d a b c g => Sys2Proof.Machine.execVmulhVx d a b c g s
  | .vmulhnVx d a b c g => Sys2Proof.Machine.execVmulhnVx d a b c g s
  | .vdivVx d a b c g => Sys2Proof.Machine.execVdivVx d a b c g s
  | .vdivnVx d a b c g => Sys2Proof.Machine.execVdivnVx d a b c g s
  | .vremVx d a b c g => Sys2Proof.Machine.execVremVx d a b c g s
  | .vremnVx d a b c g => Sys2Proof.Machine.execVremnVx d a b c g s
  | .vsaddVx d a b c g => Sys2Proof.Machine.execVsaddVx d a b c g s
  | .vsaddnVx d a b c g => Sys2Proof.Machine.execVsaddnVx d a b c g s
  | .vssubVx d a b c g => Sys2Proof.Machine.execVssubVx d a b c g s
  | .vssubnVx d a b c g => Sys2Proof.Machine.execVssubnVx d a b c g s
  | .vmvVx d b g => Sys2Proof.Machine.execVmvVx d b g s
  | .vmulnVx d a b c g => Sys2Proof.Machine.execVmulnVx d a b c g s
  | .vfadd d a b c e g => Sys2Proof.Machine.execVfadd d a b c e g s
  | .vfsub d a b c e g => Sys2Proof.Machine.execVfsub d a b c e g s
  | .vfmul d a b c e g => Sys2Proof.Machine.execVfmul d a b c e g s
  | .vfdiv d a b c e g => Sys2Proof.Machine.execVfdiv d a b c e g s
  | .vfsqrt d a c g => Sys2Proof.Machine.execVfsqrt d a c g s
  | .vfmin d a b c e g => Sys2Proof.Machine.execVfmin d a b c e g s
  | .vfmax d a b c e g => Sys2Proof.Machine.execVfmax d a b c e g s
  | .vfsigncp d a b c e g => Sys2Proof.Machine.execVfsigncp d a b c e g s
  | .vfsignneg d a b c e g => Sys2Proof.Machine.execVfsignneg d a b c e g s
  | .vfsignxor d a b c e g => Sys2Proof.Machine.execVfsignxor d a b c e g s
  | .vfcvti d a c g => Sys2Proof.Machine.execVfcvti d a c g s
  | .vfcvtin d a c g => Sys2Proof.Machine.execVfcvtin d a c g s
  | .vfcvtf d a c g => Sys2Proof.Machine.execVfcvtf d a c g s
  | .vfcvtfn d a c g => Sys2Proof.Machine.execVfcvtfn d a c g s
  | .vfaddVx d a b c g => Sys2Proof.Machine.execVfaddVx d a b c g s
  | .vfsubVx d a b c g => Sys2Proof.Machine.execVfsubVx d a b c g s
  | .vfmulVx d a b c g => Sys2Proof.Machine.execVfmulVx d a b c g s
  | .vfdivVx d a b c g => Sys2Proof.Machine.execVfdivVx d a b c g s
  | .vfminVx d a b c g => Sys2Proof.Machine.execVfminVx d a b c g s
  | .vfmaxVx d a b c g => Sys2Proof.Machine.execVfmaxVx d a b c g s
  | .vfsigncpVx d a b c g => Sys2Proof.Machine.execVfsigncpVx d a b c g s
  | .vfsignnegVx d a b c g => Sys2Proof.Machine.execVfsignnegVx d a b c g s
  | .vfsignxorVx d a b c g => Sys2Proof.Machine.execVfsignxorVx d a b c g s
  | .vfma d a b c x y z g => Sys2Proof.Machine.execVfma d a b c x y z g s
  | .vfms d a b c x y z g => Sys2Proof.Machine.execVfms d a b c x y z g s
  | .vfnma d a b c x y z g => Sys2Proof.Machine.execVfnma d a b c x y z g s
  | .vfnms d a b c x y z g => Sys2Proof.Machine.execVfnms d a b c x y z g s
  | .vcmpeq d a b c e g => Sys2Proof.Machine.execVcmpeq d a b c e g s
  | .vcmpne d a b c e g => Sys2Proof.Machine.execVcmpne d a b c e g s
  | .vcmplt d a b c e g => Sys2Proof.Machine.execVcmplt d a b c e g s
  | .vcmple d a b c e g => Sys2Proof.Machine.execVcmple d a b c e g s
  | .vcmpgt d a b c e g => Sys2Proof.Machine.execVcmpgt d a b c e g s
  | .vcmpge d a b c e g => Sys2Proof.Machine.execVcmpge d a b c e g s
  | .vcmpltn d a b c e g => Sys2Proof.Machine.execVcmpltn d a b c e g s
  | .vcmplen d a b c e g => Sys2Proof.Machine.execVcmplen d a b c e g s
  | .vcmpgtn d a b c e g => Sys2Proof.Machine.execVcmpgtn d a b c e g s
  | .vcmpgen d a b c e g => Sys2Proof.Machine.execVcmpgen d a b c e g s
  | .vfcmpeq d a b c e g => Sys2Proof.Machine.execVfcmpeq d a b c e g s
  | .vfcmpne d a b c e g => Sys2Proof.Machine.execVfcmpne d a b c e g s
  | .vfcmplt d a b c e g => Sys2Proof.Machine.execVfcmplt d a b c e g s
  | .vfcmple d a b c e g => Sys2Proof.Machine.execVfcmple d a b c e g s
  | .vfcmpgt d a b c e g => Sys2Proof.Machine.execVfcmpgt d a b c e g s
  | .vfcmpge d a b c e g => Sys2Proof.Machine.execVfcmpge d a b c e g s
  | .vfcmpun d a b c e g => Sys2Proof.Machine.execVfcmpun d a b c e g s
  | .vcmpeqVx d a b c g => Sys2Proof.Machine.execVcmpeqVx d a b c g s
  | .vcmpneVx d a b c g => Sys2Proof.Machine.execVcmpneVx d a b c g s
  | .vcmpltVx d a b c g => Sys2Proof.Machine.execVcmpltVx d a b c g s
  | .vcmpleVx d a b c g => Sys2Proof.Machine.execVcmpleVx d a b c g s
  | .vcmpgtVx d a b c g => Sys2Proof.Machine.execVcmpgtVx d a b c g s
  | .vcmpgeVx d a b c g => Sys2Proof.Machine.execVcmpgeVx d a b c g s
  | .vcmpltnVx d a b c g => Sys2Proof.Machine.execVcmpltnVx d a b c g s
  | .vcmplenVx d a b c g => Sys2Proof.Machine.execVcmplenVx d a b c g s
  | .vcmpgtnVx d a b c g => Sys2Proof.Machine.execVcmpgtnVx d a b c g s
  | .vcmpgenVx d a b c g => Sys2Proof.Machine.execVcmpgenVx d a b c g s
  | .vfcmpeqVx d a b c g => Sys2Proof.Machine.execVfcmpeqVx d a b c g s
  | .vfcmpneVx d a b c g => Sys2Proof.Machine.execVfcmpneVx d a b c g s
  | .vfcmpltVx d a b c g => Sys2Proof.Machine.execVfcmpltVx d a b c g s
  | .vfcmpleVx d a b c g => Sys2Proof.Machine.execVfcmpleVx d a b c g s
  | .vfcmpgtVx d a b c g => Sys2Proof.Machine.execVfcmpgtVx d a b c g s
  | .vfcmpgeVx d a b c g => Sys2Proof.Machine.execVfcmpgeVx d a b c g s
  | .vfcmpunVx d a b c g => Sys2Proof.Machine.execVfcmpunVx d a b c g s
  | .kand d a b g => Sys2Proof.Machine.execKand d a b g s
  | .kor d a b g => Sys2Proof.Machine.execKor d a b g s
  | .kxor d a b g => Sys2Proof.Machine.execKxor d a b g s
  | .kandn d a b g => Sys2Proof.Machine.execKandn d a b g s
  | .knot d a g => Sys2Proof.Machine.execKnot d a g s
  | .kmov d a g => Sys2Proof.Machine.execKmov d a g s
  | .kpop d a g => Sys2Proof.Machine.execKpop d a g s
  | .kfirst d a g => Sys2Proof.Machine.execKfirst d a g s
  | .kmovSmiss d => Sys2Proof.Machine.execKmovSmiss d s
  | .vslideup d a b c g => Sys2Proof.Machine.execVslideup d a b c g s
  | .vslidedn d a b c g => Sys2Proof.Machine.execVslidedn d a b c g s
  | .vinslo d a b c g => Sys2Proof.Machine.execVinslo d a b c g s
  | .vinshi d a b c g => Sys2Proof.Machine.execVinshi d a b c g s
  | .vshuf d a b c e g => Sys2Proof.Machine.execVshuf d a b c e g s
  | .vbcast d a b c g => Sys2Proof.Machine.execVbcast d a b c g s
  | .vcompress d a b c => Sys2Proof.Machine.execVcompress d a b c s
  | .vexpand d a b c => Sys2Proof.Machine.execVexpand d a b c s
  | .viota d b g => Sys2Proof.Machine.execViota d b g s
  | .vrev d a c g => Sys2Proof.Machine.execVrev d a c g s
  | .vredsum d a b c g => Sys2Proof.Machine.execVredsum d a b c g s
  | .vredand d a b c g => Sys2Proof.Machine.execVredand d a b c g s
  | .vredor d a b c g => Sys2Proof.Machine.execVredor d a b c g s
  | .vredxor d a b c g => Sys2Proof.Machine.execVredxor d a b c g s
  | .vredmin d a b c g => Sys2Proof.Machine.execVredmin d a b c g s
  | .vredmax d a b c g => Sys2Proof.Machine.execVredmax d a b c g s
  | .vredminn d a b c g => Sys2Proof.Machine.execVredminn d a b c g s
  | .vredmaxn d a b c g => Sys2Proof.Machine.execVredmaxn d a b c g s
  | .vfredsum d a b c g => Sys2Proof.Machine.execVfredsum d a b c g s
  | .vfredmin d a b c g => Sys2Proof.Machine.execVfredmin d a b c g s
  | .vfredmax d a b c g => Sys2Proof.Machine.execVfredmax d a b c g s
  | .vqsum d a c g => Sys2Proof.Machine.execVqsum d a c g s
  | .vcvt d a s0 c g t => Sys2Proof.Machine.execVcvt d a s0 c g t s
  | .vcvtNs d a s0 c g t => Sys2Proof.Machine.execVcvtNs d a s0 c g t s
  | .vscvt d a b c g p t => Sys2Proof.Machine.execVscvt d a b c g p t s
  | .vqntB4 d a b c e => Sys2Proof.Machine.execVqntB4 d a b c e s
  | .vqntS1 d a b c e => Sys2Proof.Machine.execVqntS1 d a b c e s
  | .vdqntB4 d a b c e g => Sys2Proof.Machine.execVdqntB4 d a b c e g s
  | .vdqntS1 d a b e g => Sys2Proof.Machine.execVdqntS1 d a b e g s
  | .vrng d b g => Sys2Proof.Machine.execVrng d b g s
  | .vdrop d b g => Sys2Proof.Machine.execVdrop d b g s
  | .vld d a s0 g w => Sys2Proof.Machine.execVld d a s0 g w s
  | .vldAcqDie d a s0 g w => Sys2Proof.Machine.execVldAcqDie d a s0 g w s
  | .vldAcqPkg d a s0 g w => Sys2Proof.Machine.execVldAcqPkg d a s0 g w s
  | .vldAcqSys d a s0 g w => Sys2Proof.Machine.execVldAcqSys d a s0 g w s
  | .vldWm d a g w m => Sys2Proof.Machine.execVldWm d a g w m s
  | .vst d a s0 c g w => Sys2Proof.Machine.execVst d a s0 c g w s
  | .vstU d a s0 c g w => Sys2Proof.Machine.execVstU d a s0 c g w s
  | .vstRelDie d a s0 c g w => Sys2Proof.Machine.execVstRelDie d a s0 c g w s
  | .vstRelPkg d a s0 c g w => Sys2Proof.Machine.execVstRelPkg d a s0 c g w s
  | .vstRelSys d a s0 c g w => Sys2Proof.Machine.execVstRelSys d a s0 c g w s
  | .vstNt d a m c g w => Sys2Proof.Machine.execVstNt d a m c g w s
  | .vldx d a s0 c g w => Sys2Proof.Machine.execVldx d a s0 c g w s
  | .vldxAcqDie d a s0 c g w => Sys2Proof.Machine.execVldxAcqDie d a s0 c g w s
  | .vldxAcqPkg d a s0 c g w => Sys2Proof.Machine.execVldxAcqPkg d a s0 c g w s
  | .vldxAcqSys d a s0 c g w => Sys2Proof.Machine.execVldxAcqSys d a s0 c g w s
  | .vldxDup d a s0 c g w => Sys2Proof.Machine.execVldxDup d a s0 c g w s
  | .vldxDupAcqDie d a s0 c g w => Sys2Proof.Machine.execVldxDupAcqDie d a s0 c g w s
  | .vldxDupAcqPkg d a s0 c g w => Sys2Proof.Machine.execVldxDupAcqPkg d a s0 c g w s
  | .vldxDupAcqSys d a s0 c g w => Sys2Proof.Machine.execVldxDupAcqSys d a s0 c g w s
  | .vldxWm d a s0 c g w m => Sys2Proof.Machine.execVldxWm d a s0 c g w m s
  | .vstx d a s0 c g w => Sys2Proof.Machine.execVstx d a s0 c g w s
  | .vstxU d a s0 c g w => Sys2Proof.Machine.execVstxU d a s0 c g w s
  | .vstxRelDie d a s0 c g w => Sys2Proof.Machine.execVstxRelDie d a s0 c g w s
  | .vstxRelPkg d a s0 c g w => Sys2Proof.Machine.execVstxRelPkg d a s0 c g w s
  | .vstxRelSys d a s0 c g w => Sys2Proof.Machine.execVstxRelSys d a s0 c g w s
  | .vstxAdd d a s0 c g w => Sys2Proof.Machine.execVstxAdd d a s0 c g w s
  | .vstxFadd d a s0 c g w => Sys2Proof.Machine.execVstxFadd d a s0 c g w s
  | .vatadd d a s0 c r g w => Sys2Proof.Machine.execVatadd d a s0 c r g w s
  | .vatswap d a s0 c r g w => Sys2Proof.Machine.execVatswap d a s0 c r g w s
  | .vatand d a s0 c r g w => Sys2Proof.Machine.execVatand d a s0 c r g w s
  | .vator d a s0 c r g w => Sys2Proof.Machine.execVator d a s0 c r g w s
  | .vatxor d a s0 c r g w => Sys2Proof.Machine.execVatxor d a s0 c r g w s
  | .vatmin d a s0 c r g w => Sys2Proof.Machine.execVatmin d a s0 c r g w s
  | .vatmax d a s0 c r g w => Sys2Proof.Machine.execVatmax d a s0 c r g w s
  | .vatfadd d a s0 c r g w => Sys2Proof.Machine.execVatfadd d a s0 c r g w s
  | .ybind d a => Sys2Proof.Machine.execYbind d a s
  | .vyld d a => Sys2Proof.Machine.execVyld d a s
  | .vyst d a c => Sys2Proof.Machine.execVyst d a c s
  | .yrel d => Sys2Proof.Machine.execYrel d s
  | .ystat d a => Sys2Proof.Machine.execYstat d a s
  | .ybyte d a => Sys2Proof.Machine.execYbyte d a s
  | .cpy d a b k s0 => Sys2Proof.Machine.execCpy d a b k s0 s
  | .cpyrg d a b k s0 => Sys2Proof.Machine.execCpyrg d a b k s0 s
  | .cpyrp d a b k s0 => Sys2Proof.Machine.execCpyrp d a b k s0 s
  | .cpygs d a b m => Sys2Proof.Machine.execCpygs d a b m s
  | .cpyrk d a b k s0 => Sys2Proof.Machine.execCpyrk d a b k s0 s
  | .weirarm a b => Sys2Proof.Machine.execWeirarm a b s
  | .weirwt d a b => Sys2Proof.Machine.execWeirwt d a b s
  | .vwmbind d a s0 => Sys2Proof.Machine.execVwmbind d a s0 s
  | .vwmaddr d a => Sys2Proof.Machine.execVwmaddr d a s
  | .vwmpub d a => Sys2Proof.Machine.execVwmpub d a s
  | .vwmwait d a b => Sys2Proof.Machine.execVwmwait d a b s
  | .mxopa d a b c e g => Sys2Proof.Machine.execMxopa d a b c e g s
  | .mxops d a b c e g => Sys2Proof.Machine.execMxops d a b c e g s
  | .mxzero d => Sys2Proof.Machine.execMxzero d s
  | .mxrow d a b => Sys2Proof.Machine.execMxrow d a b s
  | .mxcol d a b => Sys2Proof.Machine.execMxcol d a b s
  | .mxldRm d a b => Sys2Proof.Machine.execMxldRm d a b s
  | .mxldCm d a b => Sys2Proof.Machine.execMxldCm d a b s
  | .mxstRm d a b => Sys2Proof.Machine.execMxstRm d a b s
  | .mxstCm d a b => Sys2Proof.Machine.execMxstCm d a b s
  | .msopen d a => Sys2Proof.Machine.execMsopen d a s
  | .msclose a => Sys2Proof.Machine.execMsclose a s
  | .msrefine a b => Sys2Proof.Machine.execMsrefine a b s
  | .msbal a b => Sys2Proof.Machine.execMsbal a b s
  | .msghost a b => Sys2Proof.Machine.execMsghost a b s
  | .mscolor a b => Sys2Proof.Machine.execMscolor a b s
  | .mskey d a b c g => Sys2Proof.Machine.execMskey d a b c g s
  | .msfind d a b c g => Sys2Proof.Machine.execMsfind d a b c g s
  | .msremap a b => Sys2Proof.Machine.execMsremap a b s
  | .mswait d a => Sys2Proof.Machine.execMswait d a s
  | .gbind d a => Sys2Proof.Machine.execGbind d a s
  | .gtable a b => Sys2Proof.Machine.execGtable a b s
  | .gsweep a b => Sys2Proof.Machine.execGsweep a b s
  | .greadState a b => Sys2Proof.Machine.execGreadState a b s
  | .greadMarg a b => Sys2Proof.Machine.execGreadMarg a b s
  | .greadMargClr a b => Sys2Proof.Machine.execGreadMargClr a b s
  | .gwait d a => Sys2Proof.Machine.execGwait d a s
  | .grel a => Sys2Proof.Machine.execGrel a s
  | .cview d => Sys2Proof.Machine.execCview d s
  | .cviewMap a => Sys2Proof.Machine.execCviewMap a s
  | .cviewFid d => Sys2Proof.Machine.execCviewFid d s
  | .coll a => Sys2Proof.Machine.execColl a s
  | .cwait d a => Sys2Proof.Machine.execCwait d a s
  | .caston d a => Sys2Proof.Machine.execCaston d a s
  | .cleave d a => Sys2Proof.Machine.execCleave d a s

end Sys2Proof.Machine
end

