-- ==== Sys2Proof/Machine/Turn.lean ====
section
/-!
DEFINITION. A hart's turn: fetch, decode and execute its next word, whether that word only waits (R133), and what a picked hart
does (R134). `noncomputable` stands here for the reason that Decode.lean gives.
-/

namespace Sys2Proof.Machine

/-- What a step does to the hart's next instruction: fetch (R117), decode, execute. -/
noncomputable def runHart (s : State) : Answer :=
  match fetch s with
  | .error (code, tval) => .next (takeTrap true code tval 0 s)
  | .ok (w, s') =>
    match decode w with
    | .ok i => exec i s'.countTraffic
    | .error _ => exec (.illegalInstruction w) s'.countTraffic

/-- Power returns. -/
def isBoot : Instr → Bool
  | .boot _ => true
  | _ => false

/-- A pending event: in Off nothing is powered, and only the return of power acts (R21). -/
noncomputable def handle (e : Instr) (s : State) : Answer := if s.svc.power = .off ∧ !isBoot e then .next s else exec e s

/-- With no event pending, the units that work by themselves go on. -/
def State.goOn (s : State) : State := if s.inbox.isEmpty then s.post (pendingWork s ++ s.slotWork) else s

/-- The next instruction of the acting hart only waits, and does nothing: a wait that its entry names holds (R133). -/
noncomputable def waits (s : State) : Bool :=
  match fetch s with
  | .error _ => false
  | .ok (w, s') =>
    match decode w with
    | .ok i =>
      match exec i s' with
      | .next t => t == s'.stall (s.hart.run == .sleep)
      | _ => false
    | .error _ => false

/-- A picked hart issues (R134); one that may issue no more does not. A stop within the instruction has had its chance (R144). -/
noncomputable def issue (hid : Nat) (s : State) : Answer :=
  let after (t : State) : Answer := .next (t.updHart hid fun h => { h with age := 0, cut := none, gatedAt := t.svc.gated })
  match s.hart? hid with
  | none => .next s
  | some h =>
    if s.able h then
      match runHart (giveTurn hid (s.parked.length + 1) s) with
      | .next t => after t
      | r => r
    else after s

end Sys2Proof.Machine
end

