-- ==== Sys2Proof/Machine/Step.lean ====
section
/-!
DEFINITION. One step of the module: the oldest pending event, or, with none pending, the next instruction of a hart that a
picker chose, or a clock in which the pickers choose. `noncomputable` stands here for the reason that Decode.lean gives.
-/

namespace Sys2Proof.Machine

/-- One step. A pending event comes first; then a hart that has been picked issues; with none picked, a clock of the cores
picks. A module that is Off and has no event pending stops (R21); in Standby its harts run as in Run (DESIGN CHOICE: log 62). -/
noncomputable def step (s : State) : Host.Outcome State Fault Refusal :=
  match s.inbox with
  | e :: rest => handle e (tick { s with inbox := rest })
  | [] =>
    if s.svc.power = .off then .fault .poweredOff
    else
      match s.picked with
      | hid :: rest =>
        match issue hid (tick { s with picked := rest }) with
        | .next t => .next t.goOn
        | r => r
      | [] => .next ((tick s).round waits).goOn

/-- `s` with one instruction placed where `step` fetches next: a chain of page tables from the acting hart's root that
maps the 1 GiB page of its pc to device memory, the word at that place, no event pending, the hart picked to issue in
a powered module. The word is laid out as R3 and R112 state. -/
def State.withFetchWord (s : State) (nbits w : Nat) : State :=
  let va := s.hart.pc.toNat
  let root := bitsAt s.hart.ptroot.toNat 12 40 * 4096
  let tables := if root / 2 ^ 30 = 1 then 0xC0000000 else 0x40000000
  let page := if root / 2 ^ 30 = 2 then 0x100000000 else 0x80000000
  let entry (t l e : Nat) (m : List Host.Cell) := cellsPut m (t + 8 * bitsAt va (12 + 9 * l) 9) (bytesOf e 8)
  let m := entry root 4 (tables + 1) s.mem
  let m := entry tables 3 (tables + 0x1000 + 1) m
  let m := entry (tables + 0x1000) 2 (page + 0x77) m
  let m := cellsPut m (page + bitsAt va 0 30) (bytesOf (w % 2 ^ nbits) 4)
  { s with
    mem := m, tlb := [], inbox := [], picked := [s.hart.hid]
    hart := { s.hart with run := .ready, quiet := 0, fbuf := max 1 s.hart.fbuf, stop := none, cut := none }
    svc := { s.svc with power := .run } }

end Sys2Proof.Machine
end

