-- ==== Sys2Proof/Safety.lean ====
section
/-!
DEFINITION. What a safe run is: a powered module never stops, and the state keeps the form that its operations rely on.
-/

namespace Sys2Proof

open Machine

/-- The form that every step keeps: device memory and every scratchpad region list their bytes in canonical form. -/
def Inv (s : State) : Prop := s.memWf ∧ ∀ r ∈ s.regions, cellsWf r.cells = true

/-- A step does not stop. -/
def Safe (s : State) : Prop := ∃ t, step s = .next t

end Sys2Proof
end

