-- ==== Sys2Proof/Safety/Terms.lean ====
section
/-!
DEFINITION. The terms in which statements are made: what may differ between the state before an instruction and the one
after it, the value of a register, the byte at a place of memory, and the conditions under which an access is made.
-/

namespace Sys2Proof.Claims

open Machine

-- what may differ; every field that is not named is as before

/-- Only the pc may differ. `fbuf`, which goes with it, is the model's count of buffered words (R127). -/
def OnlyPc (s t : State) : Prop := t = { s with hart := { s.hart with pc := t.hart.pc, fbuf := t.hart.fbuf } }

/-- Only scalar registers and the pc may differ. -/
def OnlyX (s t : State) : Prop :=
  t = { s with hart := { s.hart with x := t.hart.x, pc := t.hart.pc, fbuf := t.hart.fbuf } }

/-- Only scalar registers, STATUS and the pc may differ. -/
def OnlyXStatus (s t : State) : Prop :=
  t = { s with hart := { s.hart with
    x := t.hart.x, status := t.hart.status, pc := t.hart.pc, fbuf := t.hart.fbuf } }

/-- Only scalar registers, the pc, and what the model keeps about a waiting instruction may differ. -/
def OnlyXWait (s t : State) : Prop :=
  t = { s with hart := { s.hart with
    x := t.hart.x, pc := t.hart.pc, fbuf := t.hart.fbuf, run := t.hart.run, replies := t.hart.replies,
    priDone := t.hart.priDone, begun := t.hart.begun } }

/-- Only scalar registers, the pc, what the model keeps about a waiting instruction, and where the caches hold lines may differ. -/
def OnlyXLines (s t : State) : Prop :=
  t = { s with
    coh := t.coh
    hart := { s.hart with
      x := t.hart.x, pc := t.hart.pc, fbuf := t.hart.fbuf, run := t.hart.run, replies := t.hart.replies,
      priDone := t.hart.priDone, begun := t.hart.begun } }

/-- Only memory and the caches that hold its lines, scalar registers, STATUS, the pc and what the model keeps about a waiting instruction may differ. -/
def OnlyMemX (s t : State) : Prop :=
  t = { s with
    mem := t.mem, regions := t.regions, coh := t.coh
    hart := { s.hart with
      x := t.hart.x, status := t.hart.status, pc := t.hart.pc, fbuf := t.hart.fbuf, run := t.hart.run,
      replies := t.hart.replies, priDone := t.hart.priDone, begun := t.hart.begun } }

/-- The pc is that of the next word. -/
def Onward (s t : State) : Prop := t.hart.pc = s.hart.pc + 4

/-- x[d] is `w`, unless d names x0, and every other scalar register is as before (R102, R103). -/
def Wrote (s t : State) (d : Reg) (w : Word) : Prop := ∀ r : Reg, t.rx r = if r = d ∧ r ≠ 0 then w else s.rx r

/-- Every scalar register is as before. -/
def SameX (s t : State) : Prop := ∀ r : Reg, t.rx r = s.rx r

/-- The flags `fl`, as bits [4:0], have been added to STATUS; all its other bits are as before (R107). -/
def Raised (s t : State) (fl : Nat) : Prop := t.hart.status = s.hart.status ||| BitVec.ofNat 64 (fl % 32)

-- bytes of memory

/-- The byte `i` places after a place of device memory, a scratchpad or the capability window. -/
def byteAt (s : State) (loc : Loc) (i : Nat) : Byte :=
  match loc with
  | .dev a _ => cellAt s.mem (a + i)
  | .scr c l off => ((s.region? c l).map fun r => cellAt r.cells (off + i)).getD 0
  | .cap off => s.capByte (off + i)
  | _ => 0

/-- The little-endian number of `n` bytes at a place. -/
def numAt (s : State) (loc : Loc) (n : Nat) : Nat := natOfBytes ((List.range n).map (byteAt s loc))

/-- A place lies in the stretch of `n` bytes from `loc` on. -/
def within (loc : Loc) (n : Nat) (p : Loc) : Bool :=
  match loc, p with
  | .dev a _, .dev b _ => a ≤ b && b < a + n
  | .scr c l o, .scr c' l' o' => c == c' && l == l' && o ≤ o' && o' < o + n
  | _, _ => false

/-- A byte of device memory or of a scratchpad. -/
def stored (p : Loc) : Bool :=
  match p with
  | .dev .. | .scr .. => true
  | _ => false

/-- Every byte of memory that the stretch does not hold reads as before. -/
def SameOutside (s t : State) (loc : Loc) (n : Nat) : Prop :=
  ∀ p, stored p = true → within loc n p = false → byteAt t p 0 = byteAt s p 0

/-- Every byte of memory reads as before. -/
def SameMemory (s t : State) : Prop := ∀ p, stored p = true → byteAt t p 0 = byteAt s p 0

/-- The scratchpad region that a place names exists, as it does from a launch's placement to its end (R88). -/
def Backed (s : State) (loc : Loc) : Prop :=
  match loc with
  | .scr c l _ => (s.region? c l).isSome = true
  | _ => True

-- conditions on an access

/-- The memory budget of the hart's launch is not spent, or its trap has been raised (R38). -/
def InBudget (s : State) : Prop := ∀ l, s.myLaunch = some l → l.overBudget = false

/-- No older engine operation of the hart has still to write a page of some stretches (R298, R308). -/
def Unheld (s : State) (gs : List Seg) : Prop := ∀ g ∈ gs, s.engineHolds g.loc = false

/-- The state with the traffic of an instruction's first memory granule counted (R38). -/
def counted (s : State) : State :=
  match s.myLaunch with
  | none => s
  | some _ => s.countGranule 0

/-- An access of `n` bytes at `va` is aligned and translated to `loc`, now or, when it has waited since, at its dispatch (R402);
`u` is the state with its bytes counted and A and D set (R169, R400). -/
def Arrives (s : State) (va n : Nat) (acc : Access) (loc : Loc) (u : State) : Prop :=
  InBudget s ∧ va % n = 0 ∧ (counted s).xlateOnce va acc = .ok (loc, u)

/-- The state in which an access to some addresses waits: at the first wait each of them has been translated (R402). -/
def dispatchedAll (u : State) (acc : Access) (vas : List Nat) (lanes : Bool := false) : State :=
  if u.hart.begun.held.isSome then u else (u.xlateAll acc lanes vas).2

/-- No copy engine has a bit of a mask still to land (R301). -/
def MasksFree (s : State) : Prop := ∀ k, k < 8 → s.maskBusy k = false

/-- Nothing older of the hart holds the page of a place: no engine operation has still to write it (R298, R308), and no vector
store to it is outstanding (R256). -/
def PageFree (u : State) (loc : Loc) : Prop := u.engineHolds loc = false ∧ u.storeHolds loc = false

/-- The access arrives, and nothing older of the hart holds its page. -/
def Reaches (s : State) (va n : Nat) (acc : Access) (loc : Loc) (u : State) : Prop :=
  Arrives s va n acc loc u ∧ PageFree u loc

/-- The bytes are in memory of the module and none is poisoned. -/
def Readable (u : State) (loc : Loc) (n : Nat) : Prop := loc.outside = false ∧ u.poisonedAt loc n = false

/-- The hart executes in supervisor mode, or in task mode. -/
def SuperMode (s : State) : Prop := s.hart.super = true

/-- The hart executes in task mode. -/
def TaskMode (s : State) : Prop := s.hart.super = false

end Sys2Proof.Claims
end

