-- ==== Sys2Proof/Safety/Scalar.lean ====
section
/-!
DEFINITION. What the manual's tables give for the scalar instructions (R171 to R182), in terms of the integers that
registers hold.
-/

namespace Sys2Proof.Claims

open Machine

/-- 1 if, else 0. -/
def oneIf (p : Prop) [Decidable p] : Word := if p then 1 else 0

/-- Right rotation of 64 bits by n < 64. -/
def rotated (x : Word) (n : Nat) : Word := BitVec.ofNat 64 (x.toNat / 2 ^ n + x.toNat % 2 ^ n * 2 ^ (64 - n))

/-- Leading zero bits of a word. -/
def leadingZeros (x : Word) : Nat := ((List.range 64).takeWhile fun i => !x.getMsbD i).length

/-- Set bits of a word. -/
def setBitsOf (x : Word) : Nat := ((List.range 64).map fun i => x.toNat / 2 ^ i % 2).sum

/-- Quotients and remainders with a zero divisor (R156): all ones, and the dividend. -/
def unlessZero (y : Word) (z w : Word) : Word := if y.toNat = 0 then z else w

/-- R171: the destination and its new value. -/
def saluResult (s : State) : Instr → Option (Reg × Word)
  | .add d a b => some (d, BitVec.ofNat 64 ((s.rx a).toNat + (s.rx b).toNat))
  | .sub d a b => some (d, BitVec.ofInt 64 ((s.rx a).toInt - (s.rx b).toInt))
  | .and d a b => some (d, s.rx a &&& s.rx b)
  | .or d a b => some (d, s.rx a ||| s.rx b)
  | .xor d a b => some (d, s.rx a ^^^ s.rx b)
  | .andn d a b => some (d, s.rx a &&& ~~~ s.rx b)
  | .sll d a b => some (d, BitVec.ofNat 64 ((s.rx a).toNat * 2 ^ ((s.rx b).toNat % 64)))
  | .srl d a b => some (d, BitVec.ofNat 64 ((s.rx a).toNat / 2 ^ ((s.rx b).toNat % 64)))
  | .sra d a b => some (d, BitVec.ofInt 64 ((s.rx a).toInt / 2 ^ ((s.rx b).toNat % 64)))
  | .ror d a b => some (d, rotated (s.rx a) ((s.rx b).toNat % 64))
  | .slt d a b => some (d, oneIf ((s.rx a).toInt < (s.rx b).toInt))
  | .sltn d a b => some (d, oneIf ((s.rx a).toNat < (s.rx b).toNat))
  | .min d a b => some (d, BitVec.ofInt 64 (min (s.rx a).toInt (s.rx b).toInt))
  | .max d a b => some (d, BitVec.ofInt 64 (max (s.rx a).toInt (s.rx b).toInt))
  | .mul d a b => some (d, BitVec.ofInt 64 ((s.rx a).toInt * (s.rx b).toInt))
  | .mulh d a b => some (d, BitVec.ofInt 64 ((s.rx a).toInt * (s.rx b).toInt / 2 ^ 64))
  | .mulhn d a b => some (d, BitVec.ofNat 64 ((s.rx a).toNat * (s.rx b).toNat / 2 ^ 64))
  | .div d a b =>
    some (d, unlessZero (s.rx b) (BitVec.allOnes 64) (BitVec.ofInt 64 ((s.rx a).toInt.tdiv (s.rx b).toInt)))
  | .divn d a b =>
    some (d, unlessZero (s.rx b) (BitVec.allOnes 64) (BitVec.ofNat 64 ((s.rx a).toNat / (s.rx b).toNat)))
  | .rem d a b => some (d, unlessZero (s.rx b) (s.rx a) (BitVec.ofInt 64 ((s.rx a).toInt.tmod (s.rx b).toInt)))
  | .remn d a b => some (d, unlessZero (s.rx b) (s.rx a) (BitVec.ofNat 64 ((s.rx a).toNat % (s.rx b).toNat)))
  | .clz d a => some (d, BitVec.ofNat 64 (leadingZeros (s.rx a)))
  | .popc d a => some (d, BitVec.ofNat 64 (setBitsOf (s.rx a)))
  | .slli d a h => some (d, BitVec.ofNat 64 ((s.rx a).toNat * 2 ^ h.toNat))
  | .srli d a h => some (d, BitVec.ofNat 64 ((s.rx a).toNat / 2 ^ h.toNat))
  | .srai d a h => some (d, BitVec.ofInt 64 ((s.rx a).toInt / 2 ^ h.toNat))
  | .rori d a h => some (d, rotated (s.rx a) h.toNat)
  | _ => none

/-- R172: the destination and its new value. -/
def immediateResult (s : State) : Instr → Option (Reg × Word)
  | .addi d a i => some (d, BitVec.ofInt 64 ((s.rx a).toInt + i.toInt))
  | .andi d a i => some (d, s.rx a &&& BitVec.ofInt 64 i.toInt)
  | .ori d a i => some (d, s.rx a ||| BitVec.ofInt 64 i.toInt)
  | .xori d a i => some (d, s.rx a ^^^ BitVec.ofInt 64 i.toInt)
  | .slti d a i => some (d, oneIf ((s.rx a).toInt < i.toInt))
  | .sltni d a i => some (d, oneIf ((s.rx a).toNat < (BitVec.ofInt 64 i.toInt).toNat))
  | _ => none

/-- R173: the destination and its new value. -/
def highResult (s : State) : Instr → Option (Reg × Word)
  | .lhi d i => some (d, BitVec.ofInt 64 (i.toInt * 2 ^ 16))
  | .pchi d i => some (d, BitVec.ofInt 64 (s.hart.pc.toInt + i.toInt * 2 ^ 16))
  | _ => none

/-- R174 to R176: the destination, its format, and the pattern with its flags, for the instructions that write a floating
value. Operands are read in the format; SFMA rounds under STATUS.FRM. -/
def floatResult (s : State) : Instr → Option (Reg × Fmt × Nat × Nat)
  | .fadd d a b f m =>
    let F := fmtOf f.toNat
    some (d, F, fadd2 F (s.hart.roundingRm m) (s.fx F a) (s.fx F b))
  | .fsub d a b f m =>
    let F := fmtOf f.toNat
    some (d, F, fadd2 F (s.hart.roundingRm m) (s.fx F a) ((s.fx F b).flip true))
  | .fmul d a b f m =>
    let F := fmtOf f.toNat
    some (d, F, fmul2 F (s.hart.roundingRm m) (s.fx F a) (s.fx F b))
  | .fdiv d a b f m =>
    let F := fmtOf f.toNat
    some (d, F, fdiv2 F (s.hart.roundingRm m) (s.fx F a) (s.fx F b))
  | .fsqrt d a f m =>
    let F := fmtOf f.toNat
    some (d, F, fsqrt1 F (s.hart.roundingRm m) (s.fx F a))
  | .fmin d a b f => some (d, fmtOf f.toNat, fminmax (fmtOf f.toNat) false (s.rx a).toNat (s.rx b).toNat)
  | .fmax d a b f => some (d, fmtOf f.toNat, fminmax (fmtOf f.toNat) true (s.rx a).toNat (s.rx b).toNat)
  | .fcvt d a g f m =>
    let F := fmtOf f.toNat
    some (d, F, fcvt1 F (s.hart.roundingRm m) false (s.fx (fmtOf g.toNat) a))
  | .fcvtf d a t f m =>
    let F := fmtOf f.toNat
    let x : Int :=
      match t.toNat with
      | 0 => ((s.rx a).setWidth 32).toInt
      | 1 => (s.rx a).toInt
      | 2 => ((s.rx a).setWidth 32).toNat
      | _ => (s.rx a).toNat
    some (d, F, fcvtFrom F (s.hart.roundingRm m) x)
  | .fma d a b c f => some (d, fmtOf f.toNat, fma3 (fmtOf f.toNat) (s.hart.rounding 0) false false
      (s.fx (fmtOf f.toNat) a) (s.fx (fmtOf f.toNat) b) (s.fx (fmtOf f.toNat) c))
  | .fms d a b c f => some (d, fmtOf f.toNat, fma3 (fmtOf f.toNat) (s.hart.rounding 0) false true
      (s.fx (fmtOf f.toNat) a) (s.fx (fmtOf f.toNat) b) (s.fx (fmtOf f.toNat) c))
  | .fnma d a b c f => some (d, fmtOf f.toNat, fma3 (fmtOf f.toNat) (s.hart.rounding 0) true false
      (s.fx (fmtOf f.toNat) a) (s.fx (fmtOf f.toNat) b) (s.fx (fmtOf f.toNat) c))
  | .fnms d a b c f => some (d, fmtOf f.toNat, fma3 (fmtOf f.toNat) (s.hart.rounding 0) true true
      (s.fx (fmtOf f.toNat) a) (s.fx (fmtOf f.toNat) b) (s.fx (fmtOf f.toNat) c))
  | _ => none

/-- A finite value as an exact rational. -/
def valueOf : FVal → Option ℚ
  | .fin neg m e => some ((if neg then -1 else 1) * (m : ℚ) * (2 : ℚ) ^ e)
  | _ => none

/-- A format of the scalar floating instructions (R174). -/
def Scalar4 (F : Fmt) : Prop := F = f64 ∨ F = f32 ∨ F = f16 ∨ F = bf16

/-- The relation of FEQ, FLT and FLE on two operands with neither a NaN, infinities aside. -/
def relHolds (r : FRel) (x y : ℚ) : Prop :=
  match r with
  | .eq => x = y
  | .lt => x < y
  | .le => x ≤ y
  | _ => False

/-- FEQ, FLT and FLE: destination, relation, operands, format. -/
def compareOf : Instr → Option (Reg × FRel × Reg × Reg × Fmt)
  | .feq d a b f => some (d, .eq, a, b, fmtOf f.toNat)
  | .flt d a b f => some (d, .lt, a, b, fmtOf f.toNat)
  | .fle d a b f => some (d, .le, a, b, fmtOf f.toNat)
  | _ => none

-- memory

/-- R177, LD: bytes, sign extension, destination, address. -/
def loadForm (s : State) : Instr → Option (Nat × Bool × Reg × Nat)
  | .ldI8 d a o => some (1, true, d, (BitVec.ofInt 64 ((s.rx a).toInt + o.toInt)).toNat)
  | .ldI16 d a o => some (2, true, d, (BitVec.ofInt 64 ((s.rx a).toInt + o.toInt)).toNat)
  | .ldI32 d a o => some (4, true, d, (BitVec.ofInt 64 ((s.rx a).toInt + o.toInt)).toNat)
  | .ldI64 d a o => some (8, true, d, (BitVec.ofInt 64 ((s.rx a).toInt + o.toInt)).toNat)
  | .ldN8 d a o => some (1, false, d, (BitVec.ofInt 64 ((s.rx a).toInt + o.toInt)).toNat)
  | .ldN16 d a o => some (2, false, d, (BitVec.ofInt 64 ((s.rx a).toInt + o.toInt)).toNat)
  | .ldN32 d a o => some (4, false, d, (BitVec.ofInt 64 ((s.rx a).toInt + o.toInt)).toNat)
  | _ => none

/-- R177, ST: bytes, source value, address. -/
def storeForm (s : State) : Instr → Option (Nat × Word × Nat)
  | .stI8 r a o => some (1, s.rx r, (BitVec.ofInt 64 ((s.rx a).toInt + o.toInt)).toNat)
  | .stI16 r a o => some (2, s.rx r, (BitVec.ofInt 64 ((s.rx a).toInt + o.toInt)).toNat)
  | .stI32 r a o => some (4, s.rx r, (BitVec.ofInt 64 ((s.rx a).toInt + o.toInt)).toNat)
  | .stI64 r a o => some (8, s.rx r, (BitVec.ofInt 64 ((s.rx a).toInt + o.toInt)).toNat)
  | _ => none

/-- A word holds the bytes `b 0, …, b (n - 1)`, and above them their sign or zeros. -/
def Extends (w : Word) (n : Nat) (sgn : Bool) (b : Nat → Byte) : Prop :=
  (∀ i, i < n → w.extractLsb' (8 * i) 8 = b i) ∧
    ∀ j, j < 64 → 8 * n ≤ j → w.getLsbD j = (sgn && w.getLsbD (8 * n - 1))

/-- What an atomic does: its ordering, bytes, kind of access, address register, what becomes of an old value m, the flags, and the
destination with its extension. -/
structure Atomic where
  order : BitVec 2
  n : Nat
  acc : Access
  addr : Reg
  new : Nat → Option Nat
  flags : Nat → Nat
  dest : Option (Reg × Bool)

/-- The size bit of an atomic (R178). -/
def sizeOf (z : Bit1) : Nat := if z = 0 then 4 else 8

/-- A value of `8 * n` bits read as signed. -/
def signed (n x : Nat) : Int := if x < 2 ^ (8 * n - 1) then x else x - 2 ^ (8 * n)

/-- An AMO that needs R and W and raises no flag. -/
def amoOf (o : BitVec 2) (z : Bit1) (sgn : Bool) (d a : Reg) (new : Nat → Nat) : Atomic :=
  ⟨o, sizeOf z, .atomic, a, fun m => some (new m), fun _ => 0, some (d, sgn)⟩

/-- R178, R179: the atomics. x[b] and x[c] count by their low bits. -/
def atomicForm (s : State) : Instr → Option Atomic
  | .atswap d a b o _ z => some (amoOf o z true d a fun _ => (s.rx b).toNat % 2 ^ (8 * sizeOf z))
  | .atadd d a b o _ z => some (amoOf o z true d a fun m => (m + (s.rx b).toNat) % 2 ^ (8 * sizeOf z))
  | .atand d a b o _ z => some (amoOf o z true d a fun m => m &&& ((s.rx b).toNat % 2 ^ (8 * sizeOf z)))
  | .ator d a b o _ z => some (amoOf o z true d a fun m => m ||| ((s.rx b).toNat % 2 ^ (8 * sizeOf z)))
  | .atxor d a b o _ z => some (amoOf o z true d a fun m => m ^^^ ((s.rx b).toNat % 2 ^ (8 * sizeOf z)))
  | .atmin d a b o _ z =>
    let x := (s.rx b).toNat % 2 ^ (8 * sizeOf z)
    some (amoOf o z true d a fun m => if signed (sizeOf z) m ≤ signed (sizeOf z) x then m else x)
  | .atmax d a b o _ z =>
    let x := (s.rx b).toNat % 2 ^ (8 * sizeOf z)
    some (amoOf o z true d a fun m => if signed (sizeOf z) m ≤ signed (sizeOf z) x then x else m)
  | .atminN d a b o _ z => some (amoOf o z false d a fun m => min m ((s.rx b).toNat % 2 ^ (8 * sizeOf z)))
  | .atmaxN d a b o _ z => some (amoOf o z false d a fun m => max m ((s.rx b).toNat % 2 ^ (8 * sizeOf z)))
  | .atfadd d a b o _ z =>
    let F := if z = 0 then f32 else f64
    let sum (m : Nat) := fadd2 F rneMode (F.unpack m) (F.unpack (s.rx b).toNat)
    some ⟨o, sizeOf z, .atomic, a, fun m => some (sum m).1, fun m => (sum m).2, some (d, false)⟩
  | .ldo d a o _ z => some ⟨o, sizeOf z, .read, a, fun _ => none, fun _ => 0, some (d, true)⟩
  | .sto a b o _ z =>
    some ⟨o, sizeOf z, .write, a, fun _ => some ((s.rx b).toNat % 2 ^ (8 * sizeOf z)), fun _ => 0, none⟩
  | .cas d a b c o _ z =>
    some ⟨o, sizeOf z, .atomic, a,
      fun m => if m = (s.rx b).toNat % 2 ^ (8 * sizeOf z) then some ((s.rx c).toNat % 2 ^ (8 * sizeOf z)) else none,
      fun _ => 0, some (d, true)⟩
  | _ => none

/-- A release of the hart has nothing to wait for: its stores to devices and hosts are acknowledged (R343, R356). -/
def Ordered (s : State) (order : BitVec 2) : Prop := order.getLsbD 1 = true → s.hart.unacked = []

-- control flow

/-- R181: whether a branch is taken, and its offset. -/
def branchForm (s : State) : Instr → Option (Prop × BitVec 16)
  | .beq a b o => some ((s.rx a).toNat = (s.rx b).toNat, o)
  | .bne a b o => some ((s.rx a).toNat ≠ (s.rx b).toNat, o)
  | .blt a b o => some ((s.rx a).toInt < (s.rx b).toInt, o)
  | .bge a b o => some ((s.rx b).toInt ≤ (s.rx a).toInt, o)
  | .bltn a b o => some ((s.rx a).toNat < (s.rx b).toNat, o)
  | .bgen a b o => some ((s.rx b).toNat ≤ (s.rx a).toNat, o)
  | _ => none

/-- R183: whether a KBR is taken, its mask, and its offset. -/
def maskBranch (s : State) : Instr → Option (Prop × Num3 × BitVec 21)
  | .kbrAny k o => some (∃ i, i < s.hart.vl ∧ s.hart.maskBit k.toNat i = true, k, o)
  | .kbrNone k o => some (∀ i, i < s.hart.vl → s.hart.maskBit k.toNat i = false, k, o)
  | .kbrAll k o => some (∀ i, i < s.hart.vl → s.hart.maskBit k.toNat i = true, k, o)
  | .kbrNall k o => some (∃ i, i < s.hart.vl ∧ s.hart.maskBit k.toNat i = false, k, o)
  | _ => none

/-- PC + 4 * sext(off, n). -/
def goal {n : Nat} (s : State) (o : BitVec n) : Word := BitVec.ofInt 64 (s.hart.pc.toInt + 4 * o.toInt)

end Sys2Proof.Claims
end

