-- ==== Sys2Proof/Safety/Control.lean ====
section
/-!
DEFINITION. What the manual gives for trap entry, the supervisor instructions, the control registers and the configuration
of vectors and tiles (R106 to R109, R191 to R196, R211 to R213, R384 to R387).
-/

namespace Sys2Proof.Claims

open Machine

/-- What trap entry may change (R387): TPC, TCAUSE, TVAL, MODE and PMODE in STATUS, and the pc; `grace`, `run`, `fbuf` and what is
kept about the instruction that has ended so are the model's. -/
def OnlyTrap (s t : State) : Prop :=
  t = { s with hart := { s.hart with
    tpc := t.hart.tpc, tcause := t.hart.tcause, tval := t.hart.tval, status := t.hart.status, pc := t.hart.pc,
    grace := t.hart.grace, run := t.hart.run, fbuf := t.hart.fbuf, exiting := t.hart.exiting, begun := t.hart.begun,
    replies := t.hart.replies, waitTag := t.hart.waitTag, pri := t.hart.pri, priDone := t.hart.priDone } }

/-- STATUS.PMODE. -/
def pmode (s : State) : Bool := s.hart.status.getLsbD 17

/-- Every bit of STATUS but MODE and PMODE is as before. -/
def SameStatusButModes (s t : State) : Prop :=
  ∀ k, k ≠ 16 → k ≠ 17 → t.hart.status.getLsbD k = s.hart.status.getLsbD k

/-- The registers that name a trap (R385, R387). -/
def NamesTrap (s t : State) (code : Nat) (tval : Word) (suffix : Nat) : Prop :=
  t.hart.tpc = BitVec.ofNat 64 (suffix % 128 * 2 ^ 57 + s.hart.pc.toNat % 2 ^ 57) ∧
  t.hart.tcause = BitVec.ofNat 64 (2 ^ 63 + code) ∧ t.hart.tval = tval

/-- The supervisor instructions that are illegal in task mode (R191), with their words. -/
def supervisorOnly : Instr → Bool
  | .ctxsv _ | .ctxld _ | .tlbinvPage .. | .tlbinvAsid _ | .tlbinvAll | .asw .. => true
  | _ => false

-- control registers (R106)

/-- TLBINV in supervisor mode: it waits while an access that a dropped translation served is not performed, and then drops the
translations that the form names (R194, R401). -/
def Invalidates (s : State) (i : Instr) (drop : Cached → Prop) (host : AtsEntry → Prop) : Prop :=
  ((∃ c ∈ s.tlb, drop c ∧ s.awaits c = true) →
    ∃ t, exec i s = .next t ∧ OnlyXWait s t ∧ SameX s t ∧ t.hart.pc = s.hart.pc ∧ t.hart.run = .stalled) ∧
  ((∀ c ∈ s.tlb, drop c → s.awaits c = false) →
    ∃ t, exec i s = .next t ∧ Onward s t ∧
      t = { s with
        ats := t.ats, tlb := t.tlb
        hart := { s.hart with
          pc := t.hart.pc, fbuf := t.hart.fbuf, run := t.hart.run, replies := t.hart.replies, priDone := t.hart.priDone,
          begun := t.hart.begun } } ∧
      (∀ e, e ∈ t.ats ↔ e ∈ s.ats ∧ ¬ host e) ∧ ∀ c, c ∈ t.tlb ↔ c ∈ s.tlb ∧ ¬ drop c)

/-- The rights of R106: read in task mode, written in task mode, read in supervisor mode, written in supervisor mode. -/
def rights (n : Nat) : Bool × Bool × Bool × Bool :=
  match n with
  | 0x002 | 0x006 | 0x010 | 0x020 | 0x022 | 0x025 => (true, true, true, true)
  | 0x060 | 0x061 | 0x062 | 0x063 | 0x064 | 0x065 | 0x066 | 0x067 => (true, true, true, true)
  | 0x000 | 0x001 | 0x004 | 0x005 | 0x023 | 0x024 | 0x032 | 0x080 => (true, false, true, true)
  | 0x011 | 0x021 | 0x030 | 0x031 | 0x052 | 0x053 => (false, false, true, true)
  | 0x003 | 0x040 | 0x041 | 0x042 | 0x050 | 0x051 | 0x0F0 => (true, false, true, false)
  | 0x070 | 0x071 | 0x072 | 0x073 => (true, false, true, false)
  | _ => (false, false, false, false)

/-- The hart may read the register. -/
def MayRead (s : State) (n : Nat) : Prop := (if s.hart.super then (rights n).2.2.1 else (rights n).1) = true

/-- The hart may write the register. -/
def MayWrite (s : State) (n : Nat) : Prop := (if s.hart.super then (rights n).2.2.2 else (rights n).2.1) = true

/-- What a written register then holds (R6, R107 to R109, R234, R236, R384, R385, R396, R88, R74). -/
def afterWrite (s : State) (n : Nat) (v : Word) : Word :=
  match n with
  | 0x000 => BitVec.ofNat 64 (min (v.toNat % 2 ^ 17) (maxVl s.hart.vtype s.hart.grant))
  | 0x001 => if admitted (v &&& 0x3FF) then v &&& 0x3FF else s.hart.vtype
  | 0x002 => BitVec.ofNat 64 (v.toNat % 2 ^ 17)
  | 0x004 => BitVec.ofNat 64 (min (v.toNat % 256) 32 + min (v.toNat / 256 % 256) 32 * 256)
  | 0x005 => if v.toNat % 16 ≤ 8 then BitVec.ofNat 64 (v.toNat % 16) else cregRead s 0x005
  | 0x006 => BitVec.ofNat 64 (max 1 (min (v.toNat % 32) 16))
  | 0x020 =>
    let fields : Word := 0x1F ||| (if v.toNat / 32 % 8 < 6 then 0xE0 else 0) ||| (if s.hart.super then 0x20000 else 0)
    (s.hart.status &&& ~~~ fields) ||| (v &&& fields)
  | 0x021 => v &&& ~~~ 3
  | 0x023 => v &&& 0x80000000000000FF
  | 0x030 => BitVec.ofNat 64 (v.toNat % 65536)
  | 0x031 => v &&& 0x000FFFFFFFFFF000
  | 0x032 => v &&& ~~~ 0x3FFFFF
  | 0x052 | 0x053 =>
    if s.live.any (fun l => l.cls = n - 0x052) then cregRead s n else BitVec.ofNat 64 (min v.toNat s.svc.units.shareUnits)
  | 0x080 => v &&& 0x0FFFFFFFFFFFFFFF
  | _ => v

/-- A write of VTYPE clamps VL to the new capacity (R108); no other write changes another register. -/
def clampedVl (s : State) (v : Word) : Word :=
  BitVec.ofNat 64 (if admitted (v &&& 0x3FF) then min s.hart.vl (maxVl (v &&& 0x3FF) s.hart.grant) else s.hart.vl)

/-- What a write of a control register may change: the registers of R106, DSEED, RMIN0 and RMIN1 among them. -/
def OnlyControl (s t : State) : Prop :=
  t = { s with
    lu := { s.lu with dseed := t.lu.dseed, rmin0 := t.lu.rmin0, rmin1 := t.lu.rmin1 }
    hart := { s.hart with
      x := t.hart.x, pc := t.hart.pc, fbuf := t.hart.fbuf, vl := t.hart.vl, vtype := t.hart.vtype,
      vstart := t.hart.vstart, mrows := t.hart.mrows, mcols := t.hart.mcols, ifmt := t.hart.ifmt, slip := t.hart.slip,
      seed := t.hart.seed, status := t.hart.status, tvec := t.hart.tvec, tpc := t.hart.tpc, tcause := t.hart.tcause,
      tval := t.hart.tval, tscratch := t.hart.tscratch, asid := t.hart.asid, ptroot := t.hart.ptroot,
      spbase := t.hart.spbase, wm := t.hart.wm, viewnote := t.hart.viewnote } }

/-- After a write of `v` to register `n`, that register holds what its map stores, and every other one is as before. -/
def ControlWritten (s t : State) (n : Nat) (v : Word) : Prop :=
  cregRead t n = afterWrite s n v ∧
    ∀ m, m ≠ n → cregRead t m = if n = 0x001 ∧ m = 0x000 then clampedVl s v else cregRead s m

/-- The events that are writes of a control register: the register and the value. -/
def writeEvent : Instr → Option (Nat × Word)
  | .statusAccess (some v) => some (0x020, v)
  | .vtypeWrite v => some (0x001, v)
  | .vlWrite v => some (0x000, v)
  | .slipWrite v => some (0x006, v)
  | .seedWrite v => some (0x010, v)
  | .dseedWrite v => some (0x011, v)
  | .rminWrite c v => some (0x052 + c.toNat, v)
  | .mtypeWrite v => some (0x005, v)
  | .mvlWrite v => some (0x004, v)
  | .spbaseWrite v => some (0x032, v)
  | .controlRegisterWrite c v =>
    if c.toNat ∈ [0x002, 0x021, 0x022, 0x023, 0x024, 0x025, 0x030, 0x031, 0x060, 0x061, 0x062, 0x063, 0x064, 0x065, 0x066,
      0x067, 0x080] then some (c.toNat, v) else none
  | _ => none

-- the save slot (R35, R393, R394)

/-- The places of a stretch are in memory of the module. -/
def Inside (gs : List Seg) : Prop := ∀ g ∈ gs, stored g.loc = true

/-- No byte of memory has two places in a stretch. -/
def Apart (gs : List Seg) : Prop :=
  gs.Pairwise fun g h => ∀ p, stored p = true → within g.loc g.len p = true → within h.loc h.len p = false

/-- A stretch of `n` bytes from `va` on, translated for an access: its places, and the state with A and D set. -/
def Spans (s : State) (va n : Nat) (acc : Access) (gs : List Seg) (u : State) : Prop :=
  spanWith (fun s va => s.xlateOnce va acc) (piecesOf va n) s = .ok (gs, u)

/-- A yarn slot holds what its image at `off` in the slot `x` says (R395). -/
def SlotLoaded (y : YarnSlot) (x off : Nat) : Prop :=
  let word (k : Nat) := x / 2 ^ (8 * (off + k)) % 2 ^ 64
  (y.bound = true ↔ word 0x070 % 2 = 1) ∧ y.record = x / 2 ^ (8 * off) % 2 ^ 512 ∧ y.pos = word 0x040 ∧
  y.byteOff = word 0x048 ∧ y.prev = word 0x050 ∧ y.valOff = word 0x058 ∧ y.epoch = word 0x060 ∧
  y.held.length = min (word 0x068) 63 ∧ ∀ i, i < y.held.length → y.held.getD i 0 = word (0x080 + 8 * i)

/-- An admitted VTYPE (R211): EW at most 4, GM any, BSW zero unless EW is 4, ALT only with EW 0 or 1, nothing above. -/
def AdmittedType (v : Word) : Prop :=
  v.toNat < 1024 ∧ v.toNat % 8 ≤ 4 ∧ (v.toNat % 8 ≠ 4 → v.toNat / 64 = 0) ∧ (1 < v.toNat % 8 → v.toNat / 8 % 2 = 0)

/-- What CTXLD loads of an image `x` of the slot (R193, R393 to R395): every register from its word, as a CRW would write it, but
those that the rule excepts. That the capacity of the loaded VTYPE bounds the loaded VL is the model's order of the two (log 21). -/
def Loaded (s t : State) (x : Nat) : Prop :=
  let w (off : Nat) : Word := BitVec.ofNat 64 (x / 2 ^ (8 * off) % 2 ^ 64)
  t.hart.hid = s.hart.hid ∧ t.hart.lid = s.hart.lid ∧ t.hart.j = s.hart.j ∧ t.hart.grant = s.hart.grant ∧
  t.hart.spbase = s.hart.spbase ∧
  (∀ r : Reg, r ≠ 0 → t.rx r = w (0x100 + 8 * r.toNat)) ∧ t.hart.tpc = w 0x200 ∧
  t.hart.super = true ∧ pmode t = (w 0x240).getLsbD 16 ∧ t.hart.active = s.hart.active ∧
  t.hart.tcause.toNat % 256 = (w 0x250).toNat % 256 ∧ t.hart.tval = w 0x258 ∧ t.hart.tscratch = w 0x260 ∧
  t.hart.seed = w 0x238 ∧
  (AdmittedType (w 0x210 &&& 0x3FF) → t.hart.vtype = w 0x210 &&& 0x3FF ∧
    t.hart.vl = min ((w 0x208).toNat % 2 ^ 17) (maxVl (w 0x210 &&& 0x3FF) s.hart.grant)) ∧
  (¬ AdmittedType (w 0x210 &&& 0x3FF) → t.hart.vtype = 3 ∧ t.hart.vl = 0) ∧
  t.hart.vstart = (w 0x218).toNat % 2 ^ 17 ∧
  t.hart.mrows = min ((w 0x220).toNat % 256) 32 ∧ t.hart.mcols = min ((w 0x220).toNat / 256 % 256) 32 ∧
  t.hart.ifmt = (if (w 0x228).toNat % 16 ≤ 8 then (w 0x228).toNat % 16 else s.hart.ifmt) ∧
  t.hart.slip = max 1 (min ((w 0x230).toNat % 32) 16) ∧
  (∀ b, b < 5 → t.hart.status.getLsbD b = (w 0x240).getLsbD b) ∧
  t.hart.frm = (if (w 0x240).toNat / 32 % 8 < 6 then (w 0x240).toNat / 32 % 8 else s.hart.frm) ∧
  t.hart.viewnote = w 0x268 &&& 0x0FFFFFFFFFFFFFFF ∧
  (∀ k : Fin 8, t.hart.wm[k] = w (0x270 + 8 * k.val) ∧ t.hart.wmb[k].addr = w (0x2B0 + 8 * k.val) &&& ~~~ 7 ∧
    t.hart.wmb[k].sc = (w (0x2B0 + 8 * k.val)).setWidth 3) ∧
  t.hart.heldBudget = (if (w 0x2F0).getLsbD 0 then some (if (w 0x2F0).getLsbD 3 then 1 else 0) else none) ∧
  t.hart.heldMember = (if (w 0x2F0).getLsbD 1 then some (BitVec.ofNat 64 ((w 0x2F0).toNat / 2 ^ 32)) else none) ∧
  t.hart.heldRefusal = (if (w 0x2F0).getLsbD 2 then some (w 0x2F8) else none) ∧
  (∀ i, i < 65536 → t.hart.smiss.testBit i = x.testBit (8 * 0x4000 + i)) ∧
  (∀ (k : BitVec 2) i, i < 65536 → (t.hart.tile k).testBit i = x.testBit (8 * (0x8000 + 8192 * k.toNat) + i)) ∧
  (∀ k : Fin 8, SlotLoaded t.hart.y[k] x (0x400 + 0x400 * k.val)) ∧ t.hart.poison = [] ∧
  (∀ r i, r < 32 → i < 8192 * s.hart.grant →
    (t.hart.vreg r).testBit i = x.testBit (8 * (0x20000 + 1024 * s.hart.grant * r) + i)) ∧
  (∀ r i, r < 8 → i < 65536 → (t.hart.kreg r).testBit i = x.testBit (8 * (0x10000 + 8192 * r) + i))

-- configuration of vectors and tiles (R211 to R213, R237)

/-- What VSETVL, VSETTYPE and MXMODE may change when no grant is pending. -/
def OnlyConfig (s t : State) : Prop :=
  t = { s with hart := { s.hart with
    x := t.hart.x, pc := t.hart.pc, fbuf := t.hart.fbuf, vl := t.hart.vl, vtype := t.hart.vtype,
    vstart := t.hart.vstart } }

end Sys2Proof.Claims
end

