-- ==== Sys2Proof/Safety/Launches.lean ====
section
/-!
DEFINITION. The terms of the statements about launches, farms and placed harts (R36, R37, R69, R80, R97, R199 to R203,
R392 to R394).
-/

namespace Sys2Proof.Claims

open Machine

/-- A launch id names this launch. -/
def IsLaunch (s : State) (lid : Nat) (l : Launch) : Prop := s.launch? lid = some l

/-- Whatever record the id has says so. -/
def Ended (t : State) (lid state cause : Nat) : Prop :=
  ∀ l, t.launch? lid = some l → l.state = state ∧ l.cause = cause

/-- A launch is being stopped towards a final state, or is in it. -/
def Ending (t : State) (lid code : Nat) : Prop :=
  ∀ l, t.launch? lid = some l → l.state = 3 ∧ l.ending = some code ∨ l.state = code

/-- A launch that the hart may see (R199): in supervisor mode any, in task mode one of its own pair. -/
def Sees (s : State) (l : Launch) : Prop :=
  SuperMode s ∨ ∃ m, s.myLaunch = some m ∧ m.port = l.port ∧ m.pasid = l.pasid

/-- The hart may cancel a launch that it sees (R200). -/
def MayCancel (s : State) (lid : Nat) : Prop :=
  SuperMode s ∨ lid = s.hart.lid ∨ ∃ m, s.myLaunch = some m ∧ m.lright = true

/-- The hart may execute LAUNCH (R32, R198). -/
def MayLaunch (s : State) : Prop := SuperMode s ∨ ∃ m, s.myLaunch = some m ∧ m.lright = true

/-- Only x registers and the pc of the acting hart, and the launch unit with what a launch brings about, may differ. -/
def OnlyLaunchUnit (s t : State) : Prop :=
  t.mem = s.mem ∧ t.parked = s.parked ∧
    t.hart = { s.hart with x := t.hart.x, pc := t.hart.pc, fbuf := t.hart.fbuf, run := t.hart.run, begun := t.hart.begun }

-- farms

/-- The farm of the acting hart exists: every launch has its farms, and harts 0 to 15 have one each (R31). -/
def FarmExists (s : State) : Prop :=
  match s.myLaunch with
  | some l => (l.farm[l.farmOf s.hart.j]?).isSome = true
  | none => s.hart.hid < 16

/-- The other harts of the farm have arrived at the FARM, and this one has not. -/
def LastToArrive (s : State) : Prop :=
  s.hart.j ∉ s.myFarm.arrived ∧ ∀ j ∈ s.myFarmHarts, j ≠ s.hart.j → j ∈ s.myFarm.arrived

/-- Operands that agree with the first arrival of their generation (R201). -/
def Agree (f : Farm) (n l : Nat) : Prop := f.arrived = [] ∨ n = f.arrN ∧ l = f.arrL

/-- A FARM with these operands breaks none of the checks that need no other arrival (R201). -/
def Farmable (n l : Nat) : Prop := 1 ≤ l ∧ (n + l - 1) / l ≤ 2 ^ 24

/-- The step of the tree of a floating FARMRED (R203): binary64 addition under RNE, minimum, maximum. -/
def farmStep (op : Nat) : Nat → Nat → Nat × Nat :=
  if op = 0 then fun x y => fadd2 f64 rneMode (f64.unpack x) (f64.unpack y) else fminmax f64 (op = 2)

/-- What the wait call of a floating FARMRED returns over the partials of the strips, in strip order, with the flags (R98, R163,
R203): the tree of R163, and the identity of the operation over no strip. -/
def FarmFold (op : Nat) (xs : List Word) (w : Word) (fl : Nat) : Prop :=
  match xs with
  | [] => fl = 0 ∧ w = if op = 0 then 0 else if op = 1 then 0x7FF0000000000000 else 0xFFF0000000000000
  | [x] => fl = 0 ∧ w = x
  | [x, y] => (w.toNat, fl) = farmStep op x.toNat y.toNat
  | [x, y, z, v] =>
    let p := farmStep op x.toNat z.toNat
    let q := farmStep op y.toNat v.toNat
    let r := farmStep op p.1 q.1
    w.toNat = r.1 ∧ fl = p.2 ||| q.2 ||| r.2
  | xs => reduceTree (farmStep op) none (xs.map fun x => some x.toNat) = (some w.toNat, fl)

/-- Only the farm, scalar registers, STATUS and the pc may differ, and what the model keeps about a waiting hart. -/
def OnlyFarm (s t : State) : Prop :=
  t = { s with
    inbox := t.inbox
    lu := { s.lu with launches := t.lu.launches, ownFarms := t.lu.ownFarms }
    hart := { s.hart with
      x := t.hart.x, status := t.hart.status, pc := t.hart.pc, fbuf := t.hart.fbuf, run := t.hart.run,
      farmGen := t.hart.farmGen } }

/-- FARMRED: its operation (R203), destination, partial and strip start. -/
def farmredForm : Instr → Option (Nat × Reg × Reg × Reg)
  | .farmredF64 d a b => some (0, d, a, b)
  | .farmredMin d a b => some (1, d, a, b)
  | .farmredMax d a b => some (2, d, a, b)
  | .farmredI64 d a b => some (3, d, a, b)
  | _ => none

/-- The partials of all strips are deposited, in strip order `xs` (R203). -/
def AllDeposited (f : Farm) (xs : List Word) : Prop :=
  xs.length = (f.n + f.l - 1) / f.l ∧
    ∀ k, k < xs.length → (f.deposits.find? fun p => p.1 = k).map (·.2) = xs[k]?

-- placed harts

/-- The slot has no hart, or, when the module has no other hart, keeps one that never executes. -/
def LeftSlot (s t : State) (hid : Nat) : Prop :=
  (∃ h ∈ s.placed, h.hid ≠ hid) → ∀ h ∈ t.placed, h.hid ≠ hid

/-- What the launch unit keeps about hart j of a launch has this position. -/
def HasPos (t : State) (lid j : Nat) (p : HPos) : Prop :=
  ∀ l r, t.launch? lid = some l → l.hs[j]? = some r → r.pos = p

/-- A requested stop takes effect before the hart's next instruction: it has already cut that instruction short, or falls within
none of its granules (R144). -/
def StopsNow (s : State) (h : Hart) : Prop := h.cut.isSome = true ∨ s.cutOf h = none

/-- A requested stop that falls within the hart's next instruction has it issue, up to there (R144). -/
def CutShort (s t : State) (h : Hart) : Prop :=
  ∀ c, h.cut = none → s.cutOf h = some c →
    t.inbox = s.inbox ∧ t.hart? h.hid = some { h with cut := some c } ∧ t.picked.head? = some h.hid

/-- An 8-byte word of a save slot's image. -/
def slotWord (x off : Nat) : Word := BitVec.ofNat 64 (x / 2 ^ (8 * off) % 2 ^ 64)

end Sys2Proof.Claims
end

