-- ==== Sys2Proof/Safety/Vectors.lean ====
section
/-!
DEFINITION. What the manual's tables give for the vector arithmetic instructions (R205 to R231): the destination, the
elements that act, and the value of each, in terms of the integers that elements hold.
-/

namespace Sys2Proof.Claims

open Machine

/-- Element i acts (R9). -/
def Active (s : State) (g : Num3) (i : Nat) : Prop :=
  s.hart.vstart ≤ i ∧ i < s.hart.vl ∧ (g = 0 ∨ s.hart.maskBit g.toNat i = true)

/-- The active elements in order. -/
def activeList (s : State) (g : Num3) : List Nat :=
  (List.range s.hart.vl).filter fun i => s.hart.vstart ≤ i && (g = 0 || s.hart.maskBit g.toNat i)

/-- A granule begins at element c (R118, R144): c is the first element whose bits start at or after a multiple of 8,192, a later one
than that of VSTART's granule. -/
def GranuleStart (s : State) (c : Nat) : Prop :=
  let w := widthOf s.hart.vtype
  ∃ n, 0 < n ∧ (s.hart.vstart * w / 8192 + n) * 8192 ≤ c * w ∧ ∀ e, e < c → e * w < (s.hart.vstart * w / 8192 + n) * 8192

/-- No register word is poisoned, no gauge report is due and no stop falls within the instruction, so that no element ends it
(R144, R145, R405). -/
def Undisturbed (s : State) : Prop := s.hart.poison = [] ∧ s.hart.gauge = none ∧ s.hart.cut = none

/-- What a vector instruction that completes may change: vector and mask registers, a scalar register, STATUS, VSTART,
the pc. -/
def OnlyVector (s t : State) : Prop :=
  t = { s with hart := { s.hart with
    v := t.hart.v, k := t.hart.k, x := t.hart.x, status := t.hart.status, vstart := t.hart.vstart, pc := t.hart.pc,
    fbuf := t.hart.fbuf } }

/-- The end that every vector instruction has (R208): the next word, and VSTART 0. -/
def Completes (s t : State) : Prop := OnlyVector s t ∧ Onward s t ∧ t.hart.vstart = 0

/-- The elements of a group: those that `val` names have its value, the others are as before; so is every register
outside the group. -/
def GroupWritten (s t : State) (c : VCfg) (d : Reg) (val : Nat → Option Nat) : Prop :=
  (∀ i, i < c.gm * c.per → t.hart.elem c d.toNat i =
    match val i with
    | some x => x % 2 ^ c.w
    | none => s.hart.elem c d.toNat i) ∧
  ∀ r, r < d.toNat ∨ d.toNat + c.gm ≤ r → t.hart.vreg r = s.hart.vreg r

/-- No vector register differs. -/
def SameVectors (s t : State) : Prop := ∀ r, t.hart.vreg r = s.hart.vreg r

/-- The bits of a mask register: those that `val` names have its value, the others are as before; so is every other
mask. -/
def MaskWritten (s t : State) (d : Num3) (val : Nat → Option Bool) : Prop :=
  (∀ i, i < 65536 → t.hart.maskBit d.toNat i = (val i).getD (s.hart.maskBit d.toNat i)) ∧
  ∀ k i, k ≠ d.toNat → t.hart.maskBit k i = s.hart.maskBit k i

/-- No mask register differs. -/
def SameMasks (s t : State) : Prop := ∀ k i, t.hart.maskBit k i = s.hart.maskBit k i

/-- STATUS has gained the flags that active elements raise, and no bit else differs (R107, R208). -/
def FlagsOf (s t : State) (g : Num3) (fl : Nat → Nat) : Prop :=
  ∀ k, k < 64 → (t.hart.status.getLsbD k = true ↔
    s.hart.status.getLsbD k = true ∨ k < 5 ∧ ∃ i, Active s g i ∧ (fl i).testBit k = true)

/-- VL is within a group (R108); VL writes, configurations and restores keep it so. -/
def VlFits (s : State) (c : VCfg) : Prop := s.hart.vl ≤ c.gm * c.per ∧ s.hart.vl ≤ 65536

/-- A vector or a scalar as second operand is aligned (R207). -/
def operandOk (s : State) : Opnd → Prop
  | .v r => r.toNat % s.hart.cfg.gm = 0
  | .x _ => True

/-- Signed value of a pattern of w bits. -/
def sval (w x : Nat) : Int := if x < 2 ^ (w - 1) then x else x - 2 ^ w

/-- The nearest value of the signed range of w bits. -/
def clamp (w : Nat) (x : Int) : Int := max (-(2 ^ (w - 1))) (min x (2 ^ (w - 1) - 1))

/-- Nearest value 0 or above. -/
def atLeast0 (x : Int) : Int := max 0 x

/-- An integer operation on two groups or on a group and a scalar: destination, source, second operand, guard, and the
result, which is taken modulo 2^w. -/
structure IntLane where
  d : Reg
  a : Reg
  o : Opnd
  g : Num3
  f : Nat → Nat → Nat → Int

/-- R214, R215. -/
def intLane : Instr → Option IntLane
  | .vadd d a b _ _ g => some ⟨d, a, .v b, g, fun _ x y => x + y⟩
  | .vaddVx d a b _ g => some ⟨d, a, .x b, g, fun _ x y => x + y⟩
  | .vsub d a b _ _ g => some ⟨d, a, .v b, g, fun _ x y => (x : Int) - y⟩
  | .vsubVx d a b _ g => some ⟨d, a, .x b, g, fun _ x y => (x : Int) - y⟩
  | .vrsub d a b _ _ g => some ⟨d, a, .v b, g, fun _ x y => (y : Int) - x⟩
  | .vrsubVx d a b _ g => some ⟨d, a, .x b, g, fun _ x y => (y : Int) - x⟩
  | .vand d a b _ _ g => some ⟨d, a, .v b, g, fun _ x y => (x &&& y : Nat)⟩
  | .vandVx d a b _ g => some ⟨d, a, .x b, g, fun _ x y => (x &&& y : Nat)⟩
  | .vor d a b _ _ g => some ⟨d, a, .v b, g, fun _ x y => (x ||| y : Nat)⟩
  | .vorVx d a b _ g => some ⟨d, a, .x b, g, fun _ x y => (x ||| y : Nat)⟩
  | .vxor d a b _ _ g => some ⟨d, a, .v b, g, fun _ x y => (x ^^^ y : Nat)⟩
  | .vxorVx d a b _ g => some ⟨d, a, .x b, g, fun _ x y => (x ^^^ y : Nat)⟩
  | .vsll d a b _ _ g => some ⟨d, a, .v b, g, fun w x y => x * 2 ^ (y % w)⟩
  | .vsllVx d a b _ g => some ⟨d, a, .x b, g, fun w x y => x * 2 ^ (y % w)⟩
  | .vsrl d a b _ _ g => some ⟨d, a, .v b, g, fun w x y => (x : Int) / 2 ^ (y % w)⟩
  | .vsrlVx d a b _ g => some ⟨d, a, .x b, g, fun w x y => (x : Int) / 2 ^ (y % w)⟩
  | .vsra d a b _ _ g => some ⟨d, a, .v b, g, fun w x y => sval w x / 2 ^ (y % w)⟩
  | .vsraVx d a b _ g => some ⟨d, a, .x b, g, fun w x y => sval w x / 2 ^ (y % w)⟩
  | .vmin d a b _ _ g => some ⟨d, a, .v b, g, fun w x y => min (sval w x) (sval w y)⟩
  | .vminVx d a b _ g => some ⟨d, a, .x b, g, fun w x y => min (sval w x) (sval w y)⟩
  | .vmax d a b _ _ g => some ⟨d, a, .v b, g, fun w x y => max (sval w x) (sval w y)⟩
  | .vmaxVx d a b _ g => some ⟨d, a, .x b, g, fun w x y => max (sval w x) (sval w y)⟩
  | .vminn d a b _ _ g => some ⟨d, a, .v b, g, fun _ x y => min (x : Int) y⟩
  | .vminnVx d a b _ g => some ⟨d, a, .x b, g, fun _ x y => min (x : Int) y⟩
  | .vmaxn d a b _ _ g => some ⟨d, a, .v b, g, fun _ x y => max (x : Int) y⟩
  | .vmaxnVx d a b _ g => some ⟨d, a, .x b, g, fun _ x y => max (x : Int) y⟩
  | .vmul d a b _ _ g => some ⟨d, a, .v b, g, fun _ x y => x * y⟩
  | .vmulVx d a b _ g => some ⟨d, a, .x b, g, fun _ x y => x * y⟩
  | .vmulh d a b _ _ g => some ⟨d, a, .v b, g, fun w x y => sval w x * sval w y / 2 ^ w⟩
  | .vmulhVx d a b _ g => some ⟨d, a, .x b, g, fun w x y => sval w x * sval w y / 2 ^ w⟩
  | .vmulhn d a b _ _ g => some ⟨d, a, .v b, g, fun w x y => (x : Int) * y / 2 ^ w⟩
  | .vmulhnVx d a b _ g => some ⟨d, a, .x b, g, fun w x y => (x : Int) * y / 2 ^ w⟩
  | .vdiv d a b _ _ g => some ⟨d, a, .v b, g, fun w x y => if y = 0 then -1 else (sval w x).tdiv (sval w y)⟩
  | .vdivVx d a b _ g => some ⟨d, a, .x b, g, fun w x y => if y = 0 then -1 else (sval w x).tdiv (sval w y)⟩
  | .vdivn d a b _ _ g => some ⟨d, a, .v b, g, fun _ x y => if y = 0 then -1 else (x : Int) / y⟩
  | .vdivnVx d a b _ g => some ⟨d, a, .x b, g, fun _ x y => if y = 0 then -1 else (x : Int) / y⟩
  | .vrem d a b _ _ g => some ⟨d, a, .v b, g, fun w x y => if y = 0 then (x : Int) else (sval w x).tmod (sval w y)⟩
  | .vremVx d a b _ g => some ⟨d, a, .x b, g, fun w x y => if y = 0 then (x : Int) else (sval w x).tmod (sval w y)⟩
  | .vremn d a b _ _ g => some ⟨d, a, .v b, g, fun _ x y => if y = 0 then (x : Int) else (x : Int) % y⟩
  | .vremnVx d a b _ g => some ⟨d, a, .x b, g, fun _ x y => if y = 0 then (x : Int) else (x : Int) % y⟩
  | .vsadd d a b _ _ g => some ⟨d, a, .v b, g, fun w x y => clamp w (sval w x + sval w y)⟩
  | .vsaddVx d a b _ g => some ⟨d, a, .x b, g, fun w x y => clamp w (sval w x + sval w y)⟩
  | .vsaddn d a b _ _ g => some ⟨d, a, .v b, g, fun w x y => min ((x : Int) + y) (2 ^ w - 1)⟩
  | .vsaddnVx d a b _ g => some ⟨d, a, .x b, g, fun w x y => min ((x : Int) + y) (2 ^ w - 1)⟩
  | .vssub d a b _ _ g => some ⟨d, a, .v b, g, fun w x y => clamp w (sval w x - sval w y)⟩
  | .vssubVx d a b _ g => some ⟨d, a, .x b, g, fun w x y => clamp w (sval w x - sval w y)⟩
  | .vssubn d a b _ _ g => some ⟨d, a, .v b, g, fun _ x y => atLeast0 ((x : Int) - y)⟩
  | .vssubnVx d a b _ g => some ⟨d, a, .x b, g, fun _ x y => atLeast0 ((x : Int) - y)⟩
  | .vmuln d a b _ _ g => some ⟨d, a, .v b, g, fun w x y => x * sval w y⟩
  | .vmulnVx d a b _ g => some ⟨d, a, .x b, g, fun w x y => x * sval w y⟩
  | _ => none

/-- An operation whose elements are patterns of a given width, with flags: the configuration of its destination group,
its guard, the masks it reads, its configuration check, and each element's result. -/
structure Lane where
  d : Reg
  c : VCfg
  g : Num3
  masks : List Num3
  ok : Prop
  val : Nat → Nat × Nat

/-- R216 to R218: the float operations. Operands are read in the format that VTYPE names; each element rounds under
STATUS.FRM with its own draw (R154). -/
def floatLane (s : State) (i : Instr) : Option Lane :=
  let h := s.hart
  let c := h.cfg
  let F := h.ffmt
  let al (r : Reg) : Prop := r.toNat % c.gm = 0
  let two (f : Rounding → Nat → Nat → Nat × Nat) (d a : Reg) (o : Opnd) (g : Num3) : Option Lane :=
    some ⟨d, c, g, [], al d ∧ al a ∧ operandOk s o ∧ h.floatRow = true,
      fun i => f (h.rounding i) (h.el a i) (s.opnd o i)⟩
  let one (f : Rounding → Nat → Nat × Nat) (d a : Reg) (g : Num3) : Option Lane :=
    some ⟨d, c, g, [], al d ∧ al a ∧ h.floatRow = true, fun i => f (h.rounding i) (h.el a i)⟩
  let fused (negP negC : Bool) (d a b c' : Reg) (g : Num3) : Option Lane :=
    some ⟨d, c, g, [], al d ∧ al a ∧ al b ∧ al c' ∧ h.floatRow = true, fun i =>
      fma3 F (h.rounding i) negP negC (F.unpack (h.el a i)) (F.unpack (h.el b i)) (F.unpack (h.el c' i))⟩
  -- sign operations keep the magnitude, and raise no flag
  let sgn (f : Bool → Bool → Bool) (_ : Rounding) (x y : Nat) : Nat × Nat :=
    let top := F.bits - 1
    (x % 2 ^ top + if f (x.testBit top) (y.testBit top) then 2 ^ top else 0, 0)
  let add (r : Rounding) (x y : Nat) := fadd2 F r (F.unpack x) (F.unpack y)
  let sub (r : Rounding) (x y : Nat) := fadd2 F r (F.unpack x) ((F.unpack y).flip true)
  let mul (r : Rounding) (x y : Nat) := fmul2 F r (F.unpack x) (F.unpack y)
  let div (r : Rounding) (x y : Nat) := fdiv2 F r (F.unpack x) (F.unpack y)
  match i with
  | .vfadd d a b _ _ g => two add d a (.v b) g
  | .vfaddVx d a b _ g => two add d a (.x b) g
  | .vfsub d a b _ _ g => two sub d a (.v b) g
  | .vfsubVx d a b _ g => two sub d a (.x b) g
  | .vfmul d a b _ _ g => two mul d a (.v b) g
  | .vfmulVx d a b _ g => two mul d a (.x b) g
  | .vfdiv d a b _ _ g => two div d a (.v b) g
  | .vfdivVx d a b _ g => two div d a (.x b) g
  | .vfmin d a b _ _ g => two (fun _ x y => fminmax F false x y) d a (.v b) g
  | .vfminVx d a b _ g => two (fun _ x y => fminmax F false x y) d a (.x b) g
  | .vfmax d a b _ _ g => two (fun _ x y => fminmax F true x y) d a (.v b) g
  | .vfmaxVx d a b _ g => two (fun _ x y => fminmax F true x y) d a (.x b) g
  | .vfsigncp d a b _ _ g => two (sgn fun _ y => y) d a (.v b) g
  | .vfsigncpVx d a b _ g => two (sgn fun _ y => y) d a (.x b) g
  | .vfsignneg d a b _ _ g => two (sgn fun _ y => !y) d a (.v b) g
  | .vfsignnegVx d a b _ g => two (sgn fun _ y => !y) d a (.x b) g
  | .vfsignxor d a b _ _ g => two (sgn fun x y => x != y) d a (.v b) g
  | .vfsignxorVx d a b _ g => two (sgn fun x y => x != y) d a (.x b) g
  | .vfsqrt d a _ g => one (fun r x => fsqrt1 F r (F.unpack x)) d a g
  | .vfcvti d a _ g => one (fun r x =>
      let y := fcvtInt r F.bits true (F.unpack x)
      ((y.1 % (2 ^ F.bits : Int)).toNat, y.2)) d a g
  | .vfcvtin d a _ g => one (fun r x =>
      let y := fcvtInt r F.bits false (F.unpack x)
      ((y.1 % (2 ^ F.bits : Int)).toNat, y.2)) d a g
  | .vfcvtf d a _ g => one (fun r x => fcvtFrom F r (sval F.bits x)) d a g
  | .vfcvtfn d a _ g => one (fun r x => fcvtFrom F r x) d a g
  | .vfma d a b c _ _ _ g => fused false false d a b c g
  | .vfms d a b c _ _ _ g => fused false true d a b c g
  | .vfnma d a b c _ _ _ g => fused true false d a b c g
  | .vfnms d a b c _ _ _ g => fused true true d a b c g
  | _ => none

/-- R214, R226 to R231: moves, indices, narrow conversions, random bits, and the expansion of block formats. -/
def narrowLane (s : State) (i : Instr) : Option Lane :=
  let h := s.hart
  let c := h.cfg
  let conv (src dst : Nat) (ok : Bool) (sat : Bool) (r : Nat → Rounding) (d a : Reg) (g : Num3) : Option Lane :=
    let wd := fcWidth dst
    let wa := fcWidth src
    some ⟨d, h.narrow wd (max wd wa), g, [], ok = true ∧ narrowOk h d wd a wa = true,
      fun i => convert src dst sat (r i) (h.elem (h.narrow wa (max wd wa)) a.toNat i)⟩
  match i with
  | .vmv d b _ g => some ⟨d, c, g, [], d.toNat % c.gm = 0 ∧ b.toNat % c.gm = 0, fun i => (h.el b i, 0)⟩
  | .vmvVx d b g => some ⟨d, c, g, [], d.toNat % c.gm = 0, fun _ => ((s.rx b).toNat % 2 ^ c.w, 0)⟩
  | .vid d g => some ⟨d, c, g, [], d.toNat % c.gm = 0, fun i => (i % 2 ^ c.w, 0)⟩
  | .vcvt d a k _ g t => conv k.toNat t.toNat true true h.rounding d a g
  | .vcvtNs d a k _ g t => conv k.toNat (4 + t.toNat) true false h.rounding d a g
  | .vscvt d a b _ g p t =>
    conv p.toNat t.toNat true true (fun i => ⟨5, d24 (s.pairRiffle b i)⟩) d a g
  | .vrng d b g => some ⟨d, c, g, [], d.toNat % c.gm = 0, fun i => (s.pairRiffle b i / 2 ^ (64 - c.w), 0)⟩
  | .vdqntB4 d a b _ _ g =>
    let n := h.narrow 8 c.w
    some ⟨d, c, g, [], h.floatRow = true ∧ narrowOk h d c.w a 8 = true ∧ overlaps b.toNat 1 d.toNat c.gm = false ∧
        overlaps b.toNat 1 a.toNat n.gm = false,
      fun i =>
        let scale := h.vreg b.toNat / 2 ^ (8 * (i / 32)) % 256
        if scale = 255 then (h.ffmt.nan, 0)
        else roundInt h.ffmt (h.rounding i) (sval 8 (h.elem n a.toNat i)) (scale - 127) false⟩
  | .vdqntS1 d a b _ g =>
    some ⟨d, c, g, [a], h.floatRow = true ∧ d.toNat % c.gm = 0 ∧ overlaps b.toNat 1 d.toNat c.gm = false,
      fun i =>
        let x := h.vreg b.toNat / 2 ^ (16 * (i / 64)) % 65536
        let neg := h.maskBit a.toNat i
        match f16.unpack x with
        | .nan _ => (nanAs h.ffmt (neg != x.testBit 15) x, 0)
        | y => fcvt1 h.ffmt (h.rounding i) false (y.flip neg)⟩
  | _ => none

/-- An operation that writes a bit for each active element: destination mask, guard, the masks it uses, its
configuration check, the bit and the flags. -/
structure BitLane where
  d : Num3
  g : Num3
  masks : List Num3
  ok : Prop
  val : Nat → Bool × Nat

/-- An integer relation on values read as signed or as natural. -/
def intRel (s : State) (sgn : Bool) (r : Int → Int → Bool) (x y : Nat) : Bool :=
  let w := s.hart.cfg.w
  if sgn then r (sval w x) (sval w y) else r x y

/-- R219 to R221, R230: compares, mask operations and VDROP. -/
def bitLane (s : State) (i : Instr) : Option BitLane :=
  let h := s.hart
  let c := h.cfg
  let F := h.ffmt
  let int (sgn : Bool) (r : Int → Int → Bool) (d : Num3) (a : Reg) (o : Opnd) (g : Num3) : Option BitLane :=
    some ⟨d, g, [d], a.toNat % c.gm = 0 ∧ operandOk s o, fun i => (intRel s sgn r (h.el a i) (s.opnd o i), 0)⟩
  let flt (r : FRel) (d : Num3) (a : Reg) (o : Opnd) (g : Num3) : Option BitLane :=
    some ⟨d, g, [d], a.toNat % c.gm = 0 ∧ operandOk s o ∧ h.floatRow = true,
      fun i => frel r (F.unpack (h.el a i)) (F.unpack (s.opnd o i))⟩
  let logic (f : Bool → Bool → Bool) (d a b : Num3) (g : Num3) : Option BitLane :=
    some ⟨d, g, [d, a, b], True, fun i => (f (h.maskBit a.toNat i) (h.maskBit b.toNat i), 0)⟩
  match i with
  | .vcmpeq d a b _ _ g => int true (fun x y => x == y) d a (.v b) g
  | .vcmpeqVx d a b _ g => int true (fun x y => x == y) d a (.x b) g
  | .vcmpne d a b _ _ g => int true (fun x y => x != y) d a (.v b) g
  | .vcmpneVx d a b _ g => int true (fun x y => x != y) d a (.x b) g
  | .vcmplt d a b _ _ g => int true (fun x y => x < y) d a (.v b) g
  | .vcmpltVx d a b _ g => int true (fun x y => x < y) d a (.x b) g
  | .vcmple d a b _ _ g => int true (fun x y => x ≤ y) d a (.v b) g
  | .vcmpleVx d a b _ g => int true (fun x y => x ≤ y) d a (.x b) g
  | .vcmpgt d a b _ _ g => int true (fun x y => y < x) d a (.v b) g
  | .vcmpgtVx d a b _ g => int true (fun x y => y < x) d a (.x b) g
  | .vcmpge d a b _ _ g => int true (fun x y => y ≤ x) d a (.v b) g
  | .vcmpgeVx d a b _ g => int true (fun x y => y ≤ x) d a (.x b) g
  | .vcmpltn d a b _ _ g => int false (fun x y => x < y) d a (.v b) g
  | .vcmpltnVx d a b _ g => int false (fun x y => x < y) d a (.x b) g
  | .vcmplen d a b _ _ g => int false (fun x y => x ≤ y) d a (.v b) g
  | .vcmplenVx d a b _ g => int false (fun x y => x ≤ y) d a (.x b) g
  | .vcmpgtn d a b _ _ g => int false (fun x y => y < x) d a (.v b) g
  | .vcmpgtnVx d a b _ g => int false (fun x y => y < x) d a (.x b) g
  | .vcmpgen d a b _ _ g => int false (fun x y => y ≤ x) d a (.v b) g
  | .vcmpgenVx d a b _ g => int false (fun x y => y ≤ x) d a (.x b) g
  | .vfcmpeq d a b _ _ g => flt .eq d a (.v b) g
  | .vfcmpeqVx d a b _ g => flt .eq d a (.x b) g
  | .vfcmpne d a b _ _ g => flt .ne d a (.v b) g
  | .vfcmpneVx d a b _ g => flt .ne d a (.x b) g
  | .vfcmplt d a b _ _ g => flt .lt d a (.v b) g
  | .vfcmpltVx d a b _ g => flt .lt d a (.x b) g
  | .vfcmple d a b _ _ g => flt .le d a (.v b) g
  | .vfcmpleVx d a b _ g => flt .le d a (.x b) g
  | .vfcmpgt d a b _ _ g => flt .gt d a (.v b) g
  | .vfcmpgtVx d a b _ g => flt .gt d a (.x b) g
  | .vfcmpge d a b _ _ g => flt .ge d a (.v b) g
  | .vfcmpgeVx d a b _ g => flt .ge d a (.x b) g
  | .vfcmpun d a b _ _ g => flt .un d a (.v b) g
  | .vfcmpunVx d a b _ g => flt .un d a (.x b) g
  | .kand d a b g => logic (fun x y => x && y) d a b g
  | .kor d a b g => logic (fun x y => x || y) d a b g
  | .kxor d a b g => logic (fun x y => x != y) d a b g
  | .kandn d a b g => logic (fun x y => x && !y) d a b g
  | .knot d a g => logic (fun x _ => !x) d a a g
  | .kmov d a g => logic (fun x _ => x) d a a g
  | .vdrop d b g =>
    let p := min ((s.rx (pairHi b)).toNat / 2 ^ 32 % 2 ^ 25) (2 ^ 24)
    some ⟨d, g, [d], True, fun i => (decide (d24 (s.pairRiffle b i) < p), 0)⟩
  | _ => none

/-- A permutation: destination, the masks it reads, its configuration check, and the new value of each element that it
writes (R223). -/
structure Perm where
  d : Reg
  masks : List Num3
  ok : Prop
  val : Nat → Option Nat

/-- The bits of a mask below i that are 1. -/
def onesBelow (s : State) (b : Num3) (i : Nat) : List Nat := (List.range i).filter fun j => s.hart.maskBit b.toNat j

/-- R222, R223. -/
def permOf (s : State) (i : Instr) : Option Perm :=
  let h := s.hart
  let c := h.cfg
  let vl := h.vl
  let ok (d : Reg) (srcs : List Reg) : Prop :=
    d.toNat % c.gm = 0 ∧ ∀ a ∈ srcs, a.toNat % c.gm = 0 ∧ (d.toNat + c.gm ≤ a.toNat ∨ a.toNat + c.gm ≤ d.toNat)
  let act (g : Num3) (i : Nat) (x : Option Nat) : Option Nat := if i ∈ activeList s g then x else none
  match i with
  | .vslideup d a b _ g =>
    let n := (s.rx b).toNat
    some ⟨d, [], ok d [a], fun i => act g i (if n ≤ i then some (h.el a (i - n)) else none)⟩
  | .vslidedn d a b _ g =>
    let n := (s.rx b).toNat
    some ⟨d, [], ok d [a], fun i => act g i (some (if i + n < vl then h.el a (i + n) else 0))⟩
  | .vinslo d a b _ g =>
    some ⟨d, [], ok d [a], fun i => act g i (some (if i = 0 then (s.rx b).toNat else h.el a (i - 1)))⟩
  | .vinshi d a b _ g =>
    some ⟨d, [], ok d [a], fun i => act g i (some (if i = vl - 1 then (s.rx b).toNat else h.el a (i + 1)))⟩
  | .vshuf d a b _ _ g =>
    some ⟨d, [], ok d [a, b], fun i => act g i (some (if h.el b i < vl then h.el a (h.el b i) else 0))⟩
  | .vbcast d a b _ g =>
    let n := (s.rx b).toNat
    some ⟨d, [], ok d [a], fun i => act g i (some (if n < vl then h.el a n else 0))⟩
  | .vcompress d a b _ =>
    some ⟨d, [b], ok d [a] ∧ h.vstart = 0, fun m => ((onesBelow s b vl)[m]?).map (h.el a)⟩
  | .vexpand d a b _ =>
    some ⟨d, [b], ok d [a] ∧ h.vstart = 0, fun i =>
      if i < vl ∧ h.maskBit b.toNat i = true then some (h.el a (onesBelow s b i).length) else none⟩
  | .viota d b g => some ⟨d, [b], ok d [], fun i => act g i (some (onesBelow s b i).length)⟩
  | .vrev d a _ g => some ⟨d, [], ok d [a], fun i => act g i (some (h.el a (vl - 1 - i)))⟩
  | _ => none

/-- A reduction to a natural of w bits: its signed extension, its operation and its operands. -/
structure Fold where
  d : Reg
  a : Reg
  b : Reg
  g : Num3
  sgn : Bool
  op : Nat → Nat → Nat → Nat

/-- R224: the integer reductions. -/
def foldOf : Instr → Option Fold
  | .vredsum d a b _ g => some ⟨d, a, b, g, true, fun w x y => (x + y) % 2 ^ w⟩
  | .vredand d a b _ g => some ⟨d, a, b, g, true, fun _ x y => x &&& y⟩
  | .vredor d a b _ g => some ⟨d, a, b, g, true, fun _ x y => x ||| y⟩
  | .vredxor d a b _ g => some ⟨d, a, b, g, true, fun _ x y => x ^^^ y⟩
  | .vredmin d a b _ g => some ⟨d, a, b, g, true, fun w x y => if sval w x ≤ sval w y then x else y⟩
  | .vredmax d a b _ g => some ⟨d, a, b, g, true, fun w x y => if sval w x ≤ sval w y then y else x⟩
  | .vredminn d a b _ g => some ⟨d, a, b, g, false, fun _ x y => min x y⟩
  | .vredmaxn d a b _ g => some ⟨d, a, b, g, false, fun _ x y => max x y⟩
  | _ => none

/-- R224, R225: the floating reductions: destination, source, initial operand, guard, and the step of the tree. -/
def floatFold (s : State) : Instr → Option (Reg × Reg × Reg × Num3 × (Nat → Nat → Nat × Nat))
  | .vfredsum d a b _ g =>
    let F := s.hart.ffmt
    some (d, a, b, g, fun x y => fadd2 F (s.hart.rounding 0).noSr (F.unpack x) (F.unpack y))
  | .vfredmin d a b _ g => some (d, a, b, g, fun x y => fminmax s.hart.ffmt false x y)
  | .vfredmax d a b _ g => some (d, a, b, g, fun x y => fminmax s.hart.ffmt true x y)
  | _ => none

/-- Each active element below VL, and padding at the others (R163). -/
def padded (s : State) (a : Reg) (g : Num3) : List (Option Nat) :=
  (List.range s.hart.vl).map fun i => if i ∈ activeList s g then some (s.hart.el a i) else none

end Sys2Proof.Claims
end

