-- ==== Sys2Proof/Safety/Accesses.lean ====
section
/-!
DEFINITION. The terms of the statements about matrix tiles (R233 to R248), vector memory accesses (R271 to R286) and progress
words (R287 to R290).
-/

namespace Sys2Proof.Claims

open Machine

-- tiles

/-- An element of a tile (R233). -/
def tileAt (s : State) (k : BitVec 2) (i j : Nat) : Nat := (s.hart.tile k) / 2 ^ (64 * (32 * i + j)) % 2 ^ s.hart.aw

/-- Every tile but `k` is as before. -/
def OtherTilesSame (s t : State) (k : BitVec 2) : Prop := ∀ m, m ≠ k → t.hart.tile m = s.hart.tile m

/-- Row i acts (R240). -/
def RowActs (s : State) (g : Num3) (i : Nat) : Prop := i < s.hart.mrows ∧ (g = 0 ∨ s.hart.maskBit g.toNat i = true)

/-- The die of a tile has an array in service (R245). -/
def HasArray (s : State) (k : BitVec 2) : Prop := s.svc.units.arraysOn k.toNat ≠ 0

/-- What an outer product may change: a tile, STATUS, VSTART, the pc; `since` and `draw` are the model's account of
clocks that are not charged (R24). -/
def OnlyTile (s t : State) : Prop :=
  t = { s with
    draw := t.draw
    hart := { s.hart with
      acc := t.hart.acc, status := t.hart.status, vstart := t.hart.vstart, pc := t.hart.pc, fbuf := t.hart.fbuf,
      since := t.hart.since } }

/-- The shape of a tile is at most 32 by 32 (R236). -/
def ShapeFits (s : State) : Prop := s.hart.mrows ≤ 32 ∧ s.hart.mcols ≤ 32

/-- The outer products: whether they subtract, the tile, the operands, the guard. -/
def outerOf : Instr → Option (Bool × BitVec 2 × Reg × Reg × Num3)
  | .mxopa k a b _ _ g => some (false, k, a, b, g)
  | .mxops k a b _ _ g => some (true, k, a, b, g)
  | _ => none

/-- Value t of row r of an integer operand register (R235, R238): i8 or n8, 32 to a row. -/
def byteValue (ifmt v r t : Nat) : Int :=
  let x := v / 2 ^ (8 * (32 * r + t)) % 256
  if ifmt = 6 then sval 8 x else x

/-- The inner product of row i of one integer operand and row j of another (R240). -/
def innerProduct (ifmt va vb i j : Nat) : Int :=
  ((List.range 32).map fun t => byteValue ifmt va i t * byteValue ifmt vb j t).sum

/-- The active elements of a tile in the order of its accesses (R248). -/
def tileCells (s : State) : List (Nat × Nat) :=
  (List.range s.hart.mrows).flatMap fun i => (List.range s.hart.mcols).map fun j => (i, j)

-- vector accesses

/-- No translation cache holds a leaf for an address of an address space that the tables do not hold any more (R401). -/
def CurrentIn (s : State) (asid root va : Nat) (acc : Access) : Prop :=
  ∀ caches, s.stale caches asid va (s.walkFrom va acc 4 (bitsAt root 12 40 * 4096)) = []

/-- So for an address of the hart; the windows have no leaves. -/
def Current (s : State) (va : Nat) (acc : Access) : Prop :=
  inWindow s.hart va = true ∨ inCap va = true ∨ CurrentIn s s.hart.asid s.hart.ptroot.toNat va acc

/-- The page of an address allows the access, its A and D are set already (R400), and the translation caches hold the page's leaf
and no older one, the core's as well as the lane dies' (R250, R401); the instruction has not translated it before (R402). -/
def Translated (s : State) (va : Nat) (acc : Access) (loc : Loc) : Prop :=
  (∀ lanes, s.xlate va acc lanes = .ok (loc, s)) ∧ Current s va acc ∧ s.heldPlace va acc = none

/-- The hart itself can access the place: no older engine operation of it has still to write the page (R298, R308). -/
def Mapped (s : State) (va : Nat) (acc : Access) (loc : Loc) : Prop := Translated s va acc loc ∧ s.engineHolds loc = false

/-- No memory granule of the hart can raise budget exhausted (R38): it has no launch, its launch is unmetered, or the trap
has been raised. -/
def Unmetered (s : State) : Prop :=
  ∀ l, s.myLaunch = some l → l.mbRaised = true ∨ l.cls = 3 ∧ l.mbudget = 0

/-- All elements lie in one granule (R118). -/
def OneGranule (s : State) : Prop := s.hart.vl * s.hart.cfg.w ≤ 8192

/-- The memory budget does not stop the access. -/
def BudgetAllows (s : State) : Prop := Unmetered s ∨ InBudget s ∧ OneGranule s

/-- Launches are as before but for the bytes counted (R38). -/
def SameLaunches (s t : State) : Prop :=
  t.lu.launches.map (fun l => { l with mbytes := 0 }) = s.lu.launches.map fun l => { l with mbytes := 0 }

/-- What a vector access may change; memory only when it stores. -/
def OnlyAccess (s t : State) : Prop :=
  t = { s with
    mem := t.mem, regions := t.regions, coh := t.coh, pubs := t.pubs
    lu := { s.lu with launches := t.lu.launches }, draw := t.draw
    hart := { s.hart with
      v := t.hart.v, k := t.hart.k, smiss := t.hart.smiss, acc := t.hart.acc, status := t.hart.status,
      vstart := t.hart.vstart, pc := t.hart.pc, fbuf := t.hart.fbuf, run := t.hart.run, replies := t.hart.replies,
      priDone := t.hart.priDone, begun := t.hart.begun } } ∧ SameLaunches s t

/-- The end of a vector access. -/
def AccessDone (s t : State) : Prop := OnlyAccess s t ∧ Onward s t ∧ t.hart.vstart = 0

/-- A vector access of elements of 1, 2, 4 or 8 bytes: the group, the guard, the width field, each element's address, and
the index group of an indexed form. -/
structure VAcc where
  d : Reg
  g : Num3
  w : Num3
  addr : Nat → Nat
  idx : Option Reg

/-- Bytes of an element. -/
def VAcc.eb (A : VAcc) : Nat := 2 ^ A.w.toNat

/-- Configuration checks of an access (R95, R272). -/
def VAcc.ok (A : VAcc) (s : State) : Prop :=
  A.w.toNat < 4 ∧ s.hart.ew = A.w.toNat ∧ A.d.toNat % s.hart.cfg.gm = 0 ∧
    ∀ v, A.idx = some v → v.toNat % s.hart.cfg.gm = 0

/-- Element addresses (R273): unit stride for x0, a byte stride else. -/
def strided (s : State) (d a si : Reg) (g w : Num3) : VAcc :=
  ⟨d, g, w, fun i =>
    if si = 0 then ((s.rx a).toNat + i * 2 ^ w.toNat) % 2 ^ 64
    else (((s.rx a).toNat + i * (s.rx si).toInt) % 2 ^ 64).toNat, none⟩

/-- Element addresses of an indexed form (R281). -/
def indexed (s : State) (d a vi : Reg) (g w : Num3) : VAcc :=
  ⟨d, g, w, fun i => ((s.rx a).toNat + s.hart.el vi i * 2 ^ w.toNat) % 2 ^ 64, some vi⟩

/-- The loads (R275, R277, R281, R282): the access, whether it is an acquire at die scope, whether it records
duplicates. -/
def loadOf (s : State) : Instr → Option (VAcc × Bool × Bool)
  | .vld d a k g w => some (strided s d a k g w, false, false)
  | .vldAcqDie d a k g w => some (strided s d a k g w, true, false)
  | .vldAcqPkg d a k g w => some (strided s d a k g w, false, false)
  | .vldAcqSys d a k g w => some (strided s d a k g w, false, false)
  | .vldx d a k _ g w => some (indexed s d a k g w, false, false)
  | .vldxAcqDie d a k _ g w => some (indexed s d a k g w, true, false)
  | .vldxAcqPkg d a k _ g w => some (indexed s d a k g w, false, false)
  | .vldxAcqSys d a k _ g w => some (indexed s d a k g w, false, false)
  | .vldxDup d a k _ g w => some (indexed s d a k g w, false, true)
  | .vldxDupAcqDie d a k _ g w => some (indexed s d a k g w, true, true)
  | .vldxDupAcqPkg d a k _ g w => some (indexed s d a k g w, false, true)
  | .vldxDupAcqSys d a k _ g w => some (indexed s d a k g w, false, true)
  | _ => none

/-- The gated loads (R289): the access, the watermark, and what each element adds to BASE. -/
def gatedOf (s : State) : Instr → Option (VAcc × Num3 × (Nat → Nat))
  | .vldWm d a g w m => some (strided s d a 0 g w, m, id)
  | .vldxWm d a v _ g w m => some (indexed s d a v g w, m, s.hart.el v)
  | _ => none

/-- An acquire at die scope misses an element whose SYNC page's home is another die than the element's (R277). -/
def Misses (s : State) (d : Reg) (loc : Loc) (i : Nat) : Prop :=
  match loc with
  | .dev p true => p / 2 ^ 37 ≠ (d.toNat + i / s.hart.cfg.per) % 4
  | _ => False

/-- The stores in element order (R276, R279, R283). -/
def storeOf (s : State) : Instr → Option VAcc
  | .vst d a k _ g w => some (strided s d a k g w)
  | .vstRelDie d a k _ g w => some (strided s d a k g w)
  | .vstRelPkg d a k _ g w => some (strided s d a k g w)
  | .vstRelSys d a k _ g w => some (strided s d a k g w)
  | .vstx d a k _ g w => some (indexed s d a k g w)
  | .vstxRelDie d a k _ g w => some (indexed s d a k g w)
  | .vstxRelPkg d a k _ g w => some (indexed s d a k g w)
  | .vstxRelSys d a k _ g w => some (indexed s d a k g w)
  | _ => none

/-- The stores that leave the order of equal places open (R279). -/
def looseStoreOf (s : State) : Instr → Option VAcc
  | .vstU d a k _ g w => some (strided s d a k g w)
  | .vstxU d a k _ g w => some (indexed s d a k g w)
  | _ => none

/-- Byte k of an element. -/
def elemByte (s : State) (d : Reg) (i k : Nat) : Byte := BitVec.ofNat 8 (s.hart.el d i / 2 ^ (8 * k))

/-- Every byte of memory that no active element reaches reads as before. -/
def SameElsewhere (s t : State) (A : VAcc) (loc : Nat → Loc) : Prop :=
  ∀ p, stored p = true → (∀ i, Active s A.g i → within (loc i) A.eb p = false) → byteAt t p 0 = byteAt s p 0

/-- The places of active elements are memory of the module. -/
def InMemory (s : State) (A : VAcc) (loc : Nat → Loc) : Prop :=
  ∀ i, Active s A.g i → stored (loc i) = true ∧ Backed s (loc i)

/-- Each active element's address is aligned and mapped. -/
def AllMapped (s : State) (A : VAcc) (acc : Access) (loc : Nat → Loc) : Prop :=
  ∀ i, Active s A.g i → A.addr i % A.eb = 0 ∧ Mapped s (A.addr i) acc (loc i)

/-- Two elements have one place. -/
def SamePlace (A : VAcc) (loc : Nat → Loc) (i j : Nat) : Prop := within (loc i) A.eb (loc j) = true

/-- The vector atomics (R286): the access, whether it returns, and the operation on an old value and an element. -/
def vectorAtomicOf (s : State) : Instr → Option (VAcc × Bool × (Nat → Nat → Nat × Nat))
  | .vatadd d a v _ r g w => some (atomic d a v g w, r = 1, fun m x => ((m + x) % 2 ^ (8 * bytes w), 0))
  | .vatswap d a v _ r g w => some (atomic d a v g w, r = 1, fun _ x => (x, 0))
  | .vatand d a v _ r g w => some (atomic d a v g w, r = 1, fun m x => (m &&& x, 0))
  | .vator d a v _ r g w => some (atomic d a v g w, r = 1, fun m x => (m ||| x, 0))
  | .vatxor d a v _ r g w => some (atomic d a v g w, r = 1, fun m x => (m ^^^ x, 0))
  | .vatmin d a v _ r g w =>
    some (atomic d a v g w, r = 1, fun m x => (if signed (bytes w) m ≤ signed (bytes w) x then m else x, 0))
  | .vatmax d a v _ r g w =>
    some (atomic d a v g w, r = 1, fun m x => (if signed (bytes w) m ≤ signed (bytes w) x then x else m, 0))
  | .vatfadd d a v _ r g w =>
    let F := if w = 0 then f32 else f64
    some (atomic d a v g w, r = 1, fun m x => fadd2 F rneMode (F.unpack m) (F.unpack x))
  | _ => none
where
  bytes (w : Bit1) : Nat := if w = 0 then 4 else 8
  atomic (d a v : Reg) (g : Num3) (w : Bit1) : VAcc :=
    let w3 : Num3 := if w = 0 then 2 else 3
    ⟨d, g, w3, fun i => ((s.rx a).toNat + s.hart.el v i * bytes w) % 2 ^ 64, some v⟩

-- progress words

/-- The watermark is bound to an aligned word at `va` whose place is in memory of the module and readable (R287). -/
def BoundTo (s : State) (k : Num3) (va : Nat) (acc : Access) (loc : Loc) : Prop :=
  (s.hart.binding k).addr.toNat = va ∧ va ≠ 0 ∧ va % 8 = 0 ∧ Mapped s va acc loc ∧ Readable s loc 8 ∧ Backed s loc

-- more on tiles

/-- MXROW and MXCOL: destination, tile, the first row or column, and whether columns move (R247). -/
def tileMove : Instr → Option (Reg × BitVec 2 × Reg × Bool)
  | .mxrow d k b => some (d, k, b, false)
  | .mxcol d k b => some (d, k, b, true)
  | _ => none

/-- Elements in a row, or in a column, of the shape. -/
def lineLength (s : State) (col : Bool) : Nat := if col then s.hart.mrows else s.hart.mcols

/-- Rows, or columns, that the shape has from `first` on and that fit in one vector register (R247). -/
def linesMoved (s : State) (col : Bool) (first : Nat) : Nat :=
  let total := if col then s.hart.mcols else s.hart.mrows
  if lineLength s col = 0 then 0 else min (total - first) (s.hart.grant * 8192 / s.hart.aw / lineLength s col)

/-- The tile element that element q of the register takes. -/
def movedElement (s : State) (k : BitVec 2) (col : Bool) (first q : Nat) : Nat :=
  let n := lineLength s col
  if col then tileAt s k (q % n) (first + q / n) else tileAt s k (first + q / n) (q % n)

/-- MXLD and MXST: whether they load, column-major or not, the tile, base and stride. -/
def tileAccess : Instr → Option (Bool × Bool × BitVec 2 × Reg × Reg)
  | .mxldRm k a b => some (true, false, k, a, b)
  | .mxldCm k a b => some (true, true, k, a, b)
  | .mxstRm k a b => some (false, false, k, a, b)
  | .mxstCm k a b => some (false, true, k, a, b)
  | _ => none

/-- The tile that an instruction of major 0x34 or 0x35 works on. -/
def tileUsed (i : Instr) : Option (BitVec 2) :=
  ((outerOf i).map (·.2.1)).or (((tileMove i).map (·.2.1)).or ((tileAccess i).map (·.2.2.1)))

/-- Element (i, j) of a tile in memory (R248): x[a] + i * x[b] + j * eb, or x[a] + j * x[b] + i * eb. -/
def tilePlaceAddr (s : State) (cm : Bool) (a b : Reg) (i j : Nat) : Nat :=
  let eb : Int := s.hart.aw / 8
  let p : Int := if cm then j else i
  let q : Int := if cm then i else j
  (BitVec.ofInt 64 ((s.rx a).toNat + p * (s.rx b).toInt + q * eb)).toNat

/-- The tile's elements have aligned addresses, each mapped to a place. -/
def TileMapped (s : State) (cm : Bool) (a b : Reg) (acc : Access) (loc : Nat → Nat → Loc) : Prop :=
  let eb := s.hart.aw / 8
  (s.rx a).toNat % eb = 0 ∧ (s.rx b).toNat % eb = 0 ∧
    ∀ i j, i < s.hart.mrows → j < s.hart.mcols → Mapped s (tilePlaceAddr s cm a b i j) acc (loc i j)

-- more on accesses

/-- Bit j of bit-sliced element i stands in plane j: the byte's address (R276). -/
def planeAddr (s : State) (a si : Reg) (i j : Nat) : Nat :=
  let p := if si = 0 then (s.hart.vl + 7) / 8 else (s.rx si).toNat
  ((s.rx a).toNat + j * p + i / 8) % 2 ^ 64

/-- VLD and VST, bit-sliced when the last part is 4: whether they load, the group, base, plane stride, guard and width. -/
def slicedOf : Instr → Option (Bool × Reg × Reg × Reg × Num3 × Num3)
  | .vld d a k g w => some (true, d, a, k, g, w)
  | .vst d a k _ g w => some (false, d, a, k, g, w)
  | _ => none

/-- No line of device memory is poisoned (R269, R405). -/
def NoLinePoisoned (s : State) : Prop := s.coh.poison = [] ∧ s.coh.taint = []

/-- Nothing holds a vector access up, and none of it is done: older stores are acknowledged, no register word and no line of memory
is poisoned, VL fits, and no stop falls within it. -/
def Unhindered (s : State) : Prop :=
  s.hart.unacked = [] ∧ s.hart.poison = [] ∧ VlFits s s.hart.cfg ∧ s.hart.cut = none ∧ NoLinePoisoned s ∧
    s.hart.begun = Begun.fresh

/-- Whatever the touched bytes hold, an address maps to its place: no page table that its translation reads is among them. -/
def StaysMapped (s : State) (touched : Loc → Prop) (va : Nat) (acc : Access) (loc : Loc) : Prop :=
  ∀ m r c, let u : State := { s with mem := m, regions := r, coh := c }
    (∀ p, stored p = true → ¬ touched p → byteAt u p 0 = byteAt s p 0) → NoLinePoisoned u →
    r.map (fun q => { q with cells := [], bad := [] }) = s.regions.map (fun q => { q with cells := [], bad := [] }) →
    Mapped u va acc loc

/-- A byte that some active element reaches. -/
def Reached (s : State) (A : VAcc) (loc : Nat → Loc) (p : Loc) : Prop := ∃ i, Active s A.g i ∧ within (loc i) A.eb p = true

/-- An access that stores is one granule, or none of its stores changes how its addresses map (R118, R402). -/
def Steady (s : State) (A : VAcc) (acc : Access) (loc : Nat → Loc) : Prop :=
  OneGranule s ∨ ∀ i, Active s A.g i → StaysMapped s (Reached s A loc) (A.addr i) acc (loc i)

/-- The hart's instruction has done nothing that it does not do again. -/
def NotBegun (s : State) : Prop := s.hart.begun = Begun.fresh

/-- Bytes of an element of an access at its place. -/
def HasElement (t s : State) (A : VAcc) (loc : Loc) (j : Nat) : Prop := ∀ k, k < A.eb → byteAt t loc k = elemByte s A.d j k

/-- No other active element has the place of an active element. -/
def PlacesApart (s : State) (A : VAcc) (loc : Nat → Loc) : Prop :=
  ∀ i j, Active s A.g i → Active s A.g j → i ≠ j → ¬ SamePlace A loc i j

end Sys2Proof.Claims
end

