-- ==== Sys2Proof/Safety/Engines.lean ====
section
/-!
DEFINITION. The terms of the statements about yarns (R291 to R296), copies and weirs (R297 to R305), and the instructions
that wait.
-/

namespace Sys2Proof.Claims

open Machine

-- stretches

/-- Every place of a stretch is in memory of the module. -/
def Backs (s : State) (gs : List Seg) : Prop := ∀ g ∈ gs, stored g.loc = true ∧ Backed s g.loc

/-- Every byte of memory outside a stretch reads as before. -/
def SameBeyond (s t : State) (gs : List Seg) : Prop :=
  ∀ p, stored p = true → (∀ g ∈ gs, within g.loc g.len p = false) → byteAt t p 0 = byteAt s p 0

/-- A stretch that is mapped for an access with A and D set already, and of whose leaves the translation caches hold the present
ones only (R400, R401). -/
def SpansAt (s : State) (va n : Nat) (acc : Access) (gs : List Seg) : Prop :=
  Spans s va n acc gs s ∧ ∀ p ∈ piecesOf va n, Current s p.1 acc

/-- What the dispatch of an engine operation may change. -/
def OnlyDispatch (s t : State) : Prop :=
  t = { s with
    mem := t.mem, regions := t.regions, coh := t.coh, draw := t.draw
    lu := { s.lu with launches := t.lu.launches }, ops := t.ops, nextOp := t.nextOp, outbox := t.outbox
    inbox := t.inbox
    hart := { s.hart with
      k := t.hart.k, vstart := t.hart.vstart, pc := t.hart.pc, fbuf := t.hart.fbuf, run := t.hart.run,
      replies := t.hart.replies, priDone := t.hart.priDone, begun := t.hart.begun } } ∧ SameLaunches s t

/-- The operation that an instruction of the acting hart starts, with no data in devices and hosts. -/
def startedOp (s : State) (handle : Nat) (scratch : Bool) (writes : List Seg) (kind : OpKind) : EngineOp :=
  ⟨s.nextOp, s.hart.hid, s.hart.lid, s.hart.j, handle, scratch, writes, [], [], 0, kind⟩

/-- The operation stands behind the earlier ones, with the next number; it writes these stretches until it completes. -/
def Started (s t : State) (handle : Nat) (writes : List Seg) (kind : OpKind) : Prop :=
  ∃ sc, t.ops = s.ops ++ [startedOp s handle sc writes kind] ∧ t.nextOp = s.nextOp + 1

/-- A weir's 16 bytes in the scratchpad window (R303). -/
def WeirAt (s : State) (x : Word) (loc : Loc) : Prop :=
  x.toNat % 16 = 0 ∧ s.scratchPlace x.toNat 16 = some loc ∧ stored loc = true ∧ Backed s loc

/-- How an operation with completion kind `k` and completion address `x` signals (R297, R298). -/
def Signals (s : State) (k : BitVec 2) (x : Word) (sig : Signal) : Prop :=
  (k = 0 → sig = .none) ∧
  (k = 1 → ∃ c l o, sig = .weir c l o ∧ WeirAt s x (.scr c l o)) ∧
  (k = 2 → ∃ w, sig = .word w ∧ x.toNat % 8 = 0 ∧ Translated s x.toNat .write w ∧ stored w = true) ∧ k ≠ 3

/-- A remote address (R299): rank `node` of the view and `n` bytes from `pa` on. -/
def RemoteAt (s : State) (x : Word) (n node pa : Nat) : Prop :=
  x.toNat = node * 2 ^ 39 + pa ∧ node < 2 ^ 13 ∧ pa < 2 ^ 39 ∧ pa + n ≤ 2 ^ 39 ∧ node < s.fabric.members.length ∧
    s.fabric.fid ∈ s.fabric.members

/-- The flit with this body that the package sends in its view. -/
def myFlit (s : State) (body : FlitBody) : Flit :=
  ⟨s.fabric.tag, s.fabric.fid, s.fabric.members.idxOf s.fabric.fid, body⟩

/-- Remote-copy flits have gone to a rank: out of the module, or, to this package itself, to be performed. -/
def SentTo (s t : State) (node : Nat) (bodies : List FlitBody) : Prop :=
  let fid := (s.fabric.members[node]?).getD 0
  if fid = s.fabric.fid then
    t.inbox = s.inbox ++ bodies.map (fun b => .remoteCopyAccess (myFlit s b)) ∧ t.outbox = s.outbox
  else t.outbox = s.outbox ++ bodies.map (fun b => .flit fid (myFlit s b)) ∧ t.inbox = s.inbox

/-- The operation with this number is the first of its number. -/
def IsOp (s : State) (id : Nat) (o : EngineOp) : Prop := s.ops.find? (fun o => o.id = id) = some o

/-- No operation of that number is left, and the others are as before. -/
def OpEnded (s t : State) (id : Nat) : Prop := t.ops = s.ops.filter fun o => o.id ≠ id

/-- What an operation has written to devices and hosts has performed there (R254). -/
def HasPerformed (s : State) (o : EngineOp) : Prop := s.performed o.sent = true

-- yarns

/-- A field of a bound record (R291). -/
def yarnField (y : YarnSlot) (off len : Nat) : Nat := y.record / 2 ^ (8 * off) % 2 ^ (8 * len)

/-- The records that YBIND accepts (R292), topology handles aside. -/
def AdmittedRecord (y : YarnSlot) : Prop :=
  let fmt := yarnField y 8 1
  let ew := yarnField y 9 1
  fmt ≤ 7 ∧ ew ≤ 3 ∧ yarnField y 0x0A 1 ≤ 7 ∧ yarnField y 0x0B 1 ≤ 1 ∧ yarnField y 0x34 12 = 0 ∧
  (fmt < 5 → yarnField y 0x0C 4 = 0) ∧ (2 ≤ fmt → yarnField y 0x10 8 = 0) ∧
  (fmt < 2 ∨ 5 ≤ fmt → yarnField y 0x18 8 = 0) ∧ (fmt = 3 ∨ fmt = 4 → ew ≠ 0) ∧
  (5 ≤ fmt → ew = 3 ∧ yarnField y 0x0B 1 = 0 ∧ yarnField y 0 8 = 0 ∧ yarnField y 0x28 8 = 0) ∧
  (fmt = 0 → yarnField y 0 8 % 2 ^ ew = 0)

/-- The slot reads or writes a PLAIN stream of elements of the width that VTYPE names, with nothing held (R293, R294). -/
def PlainSlot (s : State) (y : YarnSlot) (writing : Bool) : Prop :=
  y.bound = true ∧ yarnField y 8 1 = 0 ∧ yarnField y 9 1 = s.hart.ew ∧ s.hart.ew ≤ 3 ∧
    (yarnField y 0x0B 1 % 2 = 1 ↔ writing = true) ∧ y.held = []

/-- The address of element p of a PLAIN stream (R293). -/
def plainAddr (y : YarnSlot) (p : Nat) : Nat :=
  let stride := yarnField y 0x10 8
  let step : Int := if stride = 0 then 2 ^ yarnField y 9 1 else sval 64 stride
  ((yarnField y 0 8 + p * step) % 2 ^ 64).toNat

/-- Elements that lie below BOUND from the position on, at most `n` (R294). -/
def plainCount (y : YarnSlot) (n : Nat) : Nat := min n (yarnField y 0x20 8 / 2 ^ yarnField y 9 1 - y.pos)

/-- What a yarn instruction may change. -/
def OnlyYarn (s t : State) : Prop :=
  t = { s with
    mem := t.mem, regions := t.regions, coh := t.coh, draw := t.draw
    lu := { s.lu with launches := t.lu.launches }
    hart := { s.hart with
      v := t.hart.v, y := t.hart.y, vl := t.hart.vl, vstart := t.hart.vstart, status := t.hart.status, pc := t.hart.pc,
      fbuf := t.hart.fbuf, run := t.hart.run, replies := t.hart.replies, priDone := t.hart.priDone,
      begun := t.hart.begun } } ∧ SameLaunches s t

/-- The state in which an instruction that has counted its traffic traps. -/
def atTrap (s : State) : State := (counted s).withHart Hart.settled

/-- Every yarn slot but one is as before. -/
def OtherYarnsSame (s t : State) (k : Num3) : Prop := ∀ m, m ≠ k → t.hart.yarn m = s.hart.yarn m

-- waiting

/-- The acting hart waits, with nothing done: its pc and its scalar registers are as before. -/
def WaitsIn (s t : State) : Prop := OnlyXWait s t ∧ SameX s t ∧ t.hart.pc = s.hart.pc ∧ t.hart.run = .stalled

/-- The state in which a waiting hart's instruction runs again, `s'` being the state after its fetch (R24). -/
def resumed (s' : State) : State := s'.withHart fun h => { h with gatedAt := s'.svc.gated }

/-- The event that has a waiting instruction of a hart run again. -/
def wakeEvent (hid : Nat) : Instr → Option Instr
  | .waitw .. => some (.waitwWake hid)
  | .farmredF64 .. | .farmredMin .. | .farmredMax .. | .farmredI64 .. => some (.farmredResult hid)
  | .weirwt .. => some (.weirwtWake hid)
  | .vwmwait .. => some (.vwmwaitWake hid)
  | .vldWm .. | .vldxWm .. => some (.gatedElementRead hid)
  | .cwait .. => some (.cwaitReturn hid)
  | .mswait .. | .gwait .. => some (.handleWaitReturn hid)
  | _ => none

end Sys2Proof.Claims
end

