-- ==== Sys2Proof/Safety/Meshes.lean ====
section
/-!
DEFINITION. The terms of the statements about meshes (R307 to R327), sampling (R328 to R336) and the operations of their
engines.
-/

namespace Sys2Proof.Claims

open Machine

/-- The open mesh handle that x[a] names. -/
def OpenMesh (s : State) (a : Reg) (h : MeshHandle) : Prop :=
  s.myHandles.mesh.find? (fun o => o.h = (s.rx a).toNat) = some h

/-- The open sampling handle that x[a] names. -/
def OpenGibbs (s : State) (a : Reg) (g : GibbsHandle) : Prop :=
  s.myHandles.gibbs.find? (fun o => o.h = (s.rx a).toNat) = some g

/-- No operation on the handle is in flight, and no store of the hart is unacknowledged (R308, R309). -/
def Free (s : State) (handle : Nat) : Prop := s.handleBusy handle = false ∧ s.hart.unacked = []

/-- The 256 bytes of a command block, as a number, with a tail that R310 accepts. -/
def BlockAt (s : State) (x : Word) (blk : Nat) : Prop :=
  x.toNat % 256 = 0 ∧ (∃ gs, SpansAt s x.toNat 256 .read gs ∧ Backs s gs ∧ s.segsPoisoned gs = false ∧ s.segNat gs = blk) ∧
    blockField blk 0xE0 8 % 8 = 0 ∧ blockField blk 0xE8 1 < 8 ∧ blockField blk 0xE9 7 = 0 ∧ blockField blk 0xF8 8 = 0

/-- Stretches for ranges, one for each, all mapped. -/
def AllSpan (s : State) (rs : List Range) (gs : List (List Seg)) : Prop :=
  gs.length = rs.length ∧
    ∀ (i : Nat) (r : Range) (g : List Seg), rs[i]? = some r → gs[i]? = some g → SpansAt s r.1 r.2.1 r.2.2 g

/-- Stretches for the arrays of an open mesh, each read in the address space that it is of (R47). -/
def ArraysSpan (s : State) (h : MeshHandle) (gs : List (List Seg)) : Prop :=
  gs.length = h.mesh.arrays.length ∧
    ∀ (i : Nat) (r : Nat × Nat) (g : List Seg), h.mesh.arrays[i]? = some r → gs[i]? = some g →
      spanWith (h.spaceOf i).readIn (piecesOf r.1 r.2) s = .ok (g, s) ∧
      ∀ p ∈ piecesOf r.1 r.2, CurrentIn s (h.spaceOf i).asid (h.spaceOf i).root p.1 .read

/-- Every place of some stretches is in memory of the module. -/
def AllBack (s : State) (gs : List (List Seg)) : Prop := Backs s gs.flatten

/-- The ranges of STATUS and DONE (R310, R311). -/
def tailRanges (x : Word) (blk : Nat) : List Range :=
  (x.toNat + 0xF0, 8, .write) :: if blockField blk 0xE0 8 = 0 then [] else [(blockField blk 0xE0 8, 8, .write)]

/-- Capacities and addresses of the five output arrays of an operation that makes a new mesh (R317). -/
def outputs (blk : Nat) : List (Nat × Nat) :=
  let f := blockField blk
  [(f 0x08 8, 256), (f 0x10 8, 8 * ((f 0x18 8 + 63) / 64)), (f 0x20 8, 8 * f 0x30 8), (f 0x28 8, 4 * f 0x30 8),
    (f 0x38 8, 8 * f 0x40 8)]

/-- A block of MSREFINE (kind 0), MSBAL (1) or MSGHOST (2) without fields that its checks accept (R317, R322 to R324). -/
def JobBlock (kind mode : Nat) (r : MeshRec) (blk : Nat) : Prop :=
  let f := blockField blk
  (kind = 0 → mode = 0 ∧ f 0x50 0x90 = 0) ∧ (kind = 1 → mode = 0 ∧ f 0x58 4 = 0 ∧ f 0x5C 4 = 0 ∧ f 0x68 0x78 = 0 ∧ f 0 8 = 0) ∧
  (kind = 2 → f 0 1 = mode ∧ mode ≤ 1 ∧ f 1 7 = 0 ∧ f 0x58 4 = 0 ∧ f 0x5C 4 = 0) ∧ kind ≤ 2 ∧ f 0x50 8 % 8 = 0 ∧
  (kind ≠ 2 ∨ mode = 1 →
    f 0x08 8 % 256 = 0 ∧ f 0x10 8 % 8 = 0 ∧ f 0x20 8 % 8 = 0 ∧ f 0x28 8 % 4 = 0 ∧ f 0x38 8 % 8 = 0 ∧
    anyClash (outputs blk) = false ∧ ∀ o ∈ outputs blk, ∀ q ∈ r.arrays, clash o q = false)

/-- A mesh operation over one part that is ready to be dispatched: the handle, its block, the stretches of the tail, of the
flags, of the outputs and of the mesh's arrays, and the mesh as it reads. -/
structure JobReady (s : State) (kind mode : Nat) (a b : Reg) (h : MeshHandle) (blk : Nat) (tails : List (List Seg))
    (flags : List Seg) (outs arrs : List (List Seg)) (m : MeshData) : Prop where
  isOpen : OpenMesh s a h
  budget : InBudget s
  free : Free s h.h
  clean : NoLinePoisoned s
  alone : h.mesh.npart = 1 ∧ h.mesh.part = 0
  block : BlockAt s (s.rx b) blk
  fits : JobBlock kind mode h.mesh blk
  tail : AllSpan s (tailRanges (s.rx b) blk) tails ∧ ∀ gs ∈ tails, onlyDevice gs = true
  flag : SpansAt s (blockField blk 0 8) (if kind = 0 then h.mesh.nown else 0) .read flags ∨ kind ≠ 0 ∧ flags = []
  flagIn : Backs s flags ∧ s.segsPoisoned flags = false
  out : if kind = 2 ∧ mode = 0 then outs = [] else AllSpan s ((outputs blk).map fun o => (o.1, o.2, .write)) outs
  outIn : (∀ gs ∈ outs, onlyDevice gs = true) ∧ Apart outs.flatten
  arr : ArraysSpan s h arrs ∧ ∀ gs ∈ arrs, onlyDevice gs = true
  reads : s.meshFrom h.mesh arrs = .ok m

/-- The places of STATUS and of DONE, if the block names one, by the stretches of the tail (R310). -/
def tailPlaces (blk : Nat) (tails : List (List Seg)) : Option Loc × Option Loc :=
  let at_ (i : Nat) : Option Loc := ((tails[i]?).bind (·.head?)).map (·.loc)
  (at_ 0, if blockField blk 0xE0 8 = 0 then none else at_ 1)

/-- An operation of the topology engine is in flight on the handle, with this status word to come and, when it made one, this
new mesh; it writes `ws` and its tail until it completes. -/
def InFlight (s t : State) (handle : Nat) (blk : Nat) (tails : List (List Seg)) (ws : List Seg) (w : Word)
    (mesh : Option NewMesh) : Prop :=
  let p := tailPlaces blk tails
  Started s t handle (ws ++ (p.1.toList ++ p.2.toList).map fun l => ⟨l, 8⟩) (.engine w p.1 p.2 mesh false)

/-- STATUS with a code, flags and a detail (R311). -/
def statusWith (code flags detail : Nat) : Word := BitVec.ofNat 64 (code * 2 ^ 56 + flags % 32 * 2 ^ 32 + detail % 2 ^ 32)

/-- STATUS with a code, no flags and a detail (R311). -/
def statusOf (code detail : Nat) : Word := statusWith code 0 detail

/-- A mesh operation over one part without fields, with everything it has read: the flags of its cells, if it has any (R317). -/
def soleJob (s : State) (kind mode : Nat) (h : MeshHandle) (blk : Nat) (flags : List Seg) (m : MeshData) : MeshJob :=
  let f := blockField blk
  let col := if kind = 0 then (List.range h.mesh.nown).map fun k => s.segNat flags / 2 ^ (8 * k) % 2 ^ 8 else []
  { kind := kind, mode := mode, mesh := m, arrays := [], space := s.mySpace, newrec := ⟨f 0x08 8, [], 1⟩
    forest := ⟨f 0x10 8, [], f 0x18 8⟩, ghosts := ⟨f 0x20 8, [], f 0x30 8⟩, gowner := ⟨f 0x28 8, [], f 0x30 8⟩
    remap := ⟨f 0x38 8, [], f 0x40 8⟩, ccap := f 0x60 8, fields := [], peers := []
    shares := [⟨0, 1, h.h, 0, h.h, kind, mode, [], true, shareCells kind mode m col []⟩], forced := none }

/-- The record that the operation writes, when its capacities suffice (R318, R319). -/
def newRecord (s : State) (kind mode : Nat) (h : MeshHandle) (blk : Nat) (flags : List Seg) (m : MeshData) : MeshRec :=
  (soleJob s kind mode h blk flags m).out.head

/-- What the dispatch of an engine's operation may change; the handles of a sampling array among it. -/
def OnlyEngine (s t : State) : Prop :=
  t = { s with
    mem := t.mem, regions := t.regions, coh := t.coh, draw := t.draw
    lu := { s.lu with launches := t.lu.launches, ownHandles := t.lu.ownHandles }, ops := t.ops, nextOp := t.nextOp
    hart := { s.hart with
      pc := t.hart.pc, fbuf := t.hart.fbuf, run := t.hart.run, replies := t.hart.replies,
      priDone := t.hart.priDone, begun := t.hart.begun } }

/-- The bytes of an element type of MSREMAP (R325). -/
def remapBytes (ty : Nat) : Option Nat :=
  match ty with
  | 0 | 8 | 12 => some 8
  | 1 | 9 | 13 => some 4
  | _ => none

/-- The mean of the values of 2^D cells (R325): for integer types the floor of the exact mean, for floating types that of the tree of
R163, with its flags. -/
def IsMean (ty : Nat) (xs : List Nat) (x fl : Nat) : Prop :=
  match ty with
  | 8 => fl = 0 ∧ (x : Int) = ((xs.map (sval 64)).sum / xs.length) % 2 ^ 64
  | 9 => fl = 0 ∧ (x : Int) = ((xs.map (sval 32)).sum / xs.length) % 2 ^ 32
  | 12 | 13 => fl = 0 ∧ x = xs.sum / xs.length
  | 0 => (x, fl) = remapMean (8, some f64, false) xs
  | _ => (x, fl) = remapMean (4, some f32, false) xs

/-- No operation of the launch has still to write a page of some stretches (R309, R325). -/
def NoneWrites (s : State) (gs : List Seg) : Prop :=
  ∀ o ∈ s.ops, o.lid = s.hart.lid → ∀ g ∈ gs, o.toWrite.any (·.onPage g.loc) = false

/-- Field `i` of `n` bytes of a number. -/
def nth (x n i : Nat) : Nat := x / 2 ^ (8 * n * i) % 2 ^ (8 * n)

/-- Two elements of a graph conflict: a row of one lists the other (R326). -/
def graphEdge (rp ci : Nat → Nat) (i j : Nat) : Prop :=
  i ≠ j ∧ ((∃ e, rp i ≤ e ∧ e < rp (i + 1) ∧ ci e = j) ∨ ∃ e, rp j ≤ e ∧ e < rp (j + 1) ∧ ci e = i)

/-- The greedy colours of n elements (R327): no conflict within a colour, and no smaller colour was free. -/
def GreedyColours (edge : Nat → Nat → Prop) (n : Nat) (cs : List Nat) : Prop :=
  cs.length = n ∧ ∀ (i c : Nat), cs[i]? = some c →
    (∀ (j : Nat), j < i → edge i j → cs[j]? ≠ some c) ∧ ∀ b, b < c → ∃ j : Nat, j < i ∧ edge i j ∧ cs[j]? = some b

/-- Local cells i and j share a face part of positive area (R56, R326). -/
def cellEdge (m : MeshData) (i j : Nat) : Prop :=
  ∃ a b, m.locals[i]? = some a ∧ m.locals[j]? = some b ∧ m.touch a b = true

/-- Faces i and j of the FACE stream name a common cell (R63, R326). -/
def faceEdge (m : MeshData) (i j : Nat) : Prop :=
  let names (i x : Nat) := let e := m.faceStream.getD (2 * i) 0; x = e / 2 ^ 32 ∨ x = e % 2 ^ 32
  ∃ x, names i x ∧ names j x

/-- Little-endian fields of n bytes. -/
def fieldBytes (n : Nat) (xs : List Nat) : List Byte := xs.flatMap fun x => bytesOf x n

/-- What a colouring of n elements leaves (R327): code 2, and nothing written, at the first element that no colour below `maxc` is free
for; or the colours, the elements in colour order and the 65 offsets, with the number of colours as detail. -/
def ColoursTo (s t : State) (edge : Nat → Nat → Prop) (n maxc : Nat) (outs : List (List Seg)) (w : Word) : Prop :=
  (∃ i cs, i < n ∧ w = statusOf 2 i ∧ SameMemory s t ∧ GreedyColours edge i cs ∧ (∀ c ∈ cs, c < maxc) ∧
    ∀ b, b < maxc → ∃ j, j < i ∧ edge i j ∧ cs[j]? = some b) ∨
  ∃ cs ls : List Nat, GreedyColours edge n cs ∧ (∀ c ∈ cs, c < maxc) ∧
    w = statusOf 0 ((cs.map (· + 1)).foldl max 0) ∧ ls.Perm (List.range n) ∧
    (ls.Pairwise fun i j => cs.getD i 0 < cs.getD j 0 ∨ cs.getD i 0 = cs.getD j 0 ∧ i < j) ∧
    t.segBytes (outs.getD 0 []) = fieldBytes 1 cs ∧ t.segBytes (outs.getD 1 []) = fieldBytes 4 ls ∧
    t.segBytes (outs.getD 2 []) = fieldBytes 4 ((List.range 65).map fun c => (cs.filter (· < c)).length)

/-- A colouring that is ready to be dispatched: its block, without what its mode alone has, the stretches of its tail and of its
outputs over n elements (R326). -/
structure ColourReady (s : State) (mode : Nat) (b : Reg) (blk n : Nat) (tails outs : List (List Seg)) : Prop where
  budget : InBudget s
  drained : s.hart.unacked = []
  clean : NoLinePoisoned s
  inv : Inv s
  block : BlockAt s (s.rx b) blk
  fits : blockField blk 0 1 = mode ∧ blockField blk 1 3 = 0 ∧ blockField blk 5 3 = 0 ∧ blockField blk 0x38 0xA8 = 0 ∧
    1 ≤ blockField blk 4 1 ∧ blockField blk 4 1 ≤ 64 ∧ blockField blk 0x10 8 % 4 = 0 ∧ blockField blk 0x18 8 % 4 = 0
  tail : AllSpan s (tailRanges (s.rx b) blk) tails ∧ ∀ gs ∈ tails, onlyDevice gs = true
  out : AllSpan s [(blockField blk 0x08 8, n, .write), (blockField blk 0x10 8, 4 * n, .write), (blockField blk 0x18 8, 260, .write)]
    outs
  outIn : AllBack s outs ∧ Apart outs.flatten

/-- The arrays of a graph in memory of the module, unpoisoned, with what they hold (R330, R331). -/
def GraphAt (s : State) (g : GibbsHandle) (gs : List (List Seg)) (q : Graph) : Prop :=
  AllSpan s (g.arrays.map fun r => (r.1, r.2, .read)) gs ∧ AllBack s gs ∧ s.segsPoisoned gs.flatten = false ∧
    g.parse (gs.map s.segNat) = some q

/-- r is the nearest integer to a / b, of two the even one. -/
def Nearest (a b r : Int) : Prop := 2 * |a - r * b| ≤ b ∧ (2 * |a - r * b| = b → r % 2 = 0)

/-- p24 of a field h (R333), by the table's 256 words: SLOPE in bits [63:32] and BASE in [31:0], both signed (R332). -/
def IsP24 (table : List Word) (h : FVal) (p : Nat) : Prop :=
  let slope (k : Nat) := sval 32 ((table.getD k 0).toNat / 2 ^ 32)
  let base (k : Nat) := sval 32 ((table.getD k 0).toNat % 2 ^ 32)
  let clip (x : Int) : Prop := (p : Int) = min (max x 0) (2 ^ 24)
  match h with
  | .nan _ => p = 0
  | .inf neg => if neg then clip (base 0) else clip (base 255 + slope 255)
  | .fin neg m e =>
    -- h is x / 8 - 16 where x = y / d
    let d : Int := 2 ^ (-e).toNat
    let y : Int := ((if neg then -1 else 1) * m * 2 ^ e.toNat + 16 * d) * 8
    if y < 0 then clip (base 0)
    else if 256 * d ≤ y then clip (base 255 + slope 255)
    else ∃ r, Nearest (slope (y / d).toNat * (y % d)) d r ∧ clip (base (y / d).toNat + r)

/-- The field of variable v from states (R334). -/
def fieldOf (q : Graph) (g : GibbsHandle) (snap v : Nat) : FVal :=
  let row (i : Nat) := q.rowptr.getD i 0
  let start := (fcvt1 f32 rneMode false (f16.unpack (q.bias.getD v 0))).1
  let acc := (List.range' (row v) (row (v + 1) - row v)).foldl (fun acc e =>
    if snap.testBit (q.colidx.getD e 0) then
      (fadd2 f32 rneMode (f32.unpack acc) (f16.unpack (q.weight.getD e 0))).1 else acc) start
  f32.unpack (fmul2 f32 rneMode (f32.unpack g.beta) (f32.unpack acc)).1

/-- Variable v is of class c and free. -/
def InClass (q : Graph) (g : GibbsHandle) (c v : Nat) : Prop :=
  v < g.nvar ∧ q.colour.getD v 0 = c ∧ q.clampm.testBit v = false

/-- Class c of sweep t takes states `u` to states `u'` (R334). -/
def ClassStep (q : Graph) (g : GibbsHandle) (table : List Word) (seed : Word) (t c u u' : Nat) : Prop :=
  ∀ v, (InClass q g c v → ∃ p, IsP24 table (fieldOf q g u v) p ∧
      (u'.testBit v = true ↔ d24 (riffle seed.toNat ((t * 2 ^ 32 + v) % 2 ^ 64) g.stream) < p)) ∧
    (¬ InClass q g c v → u'.testBit v = u.testBit v)

/-- n sweeps from `base` on take the states of a handle to `st`, its counters to `mg`, and find `k` fields that are NaN (R334). -/
def Swept (q : Graph) (g : GibbsHandle) (table : List Word) (seed : Word) (n base st : Nat) (mg : List Nat) (k : Nat) : Prop :=
  ∃ at_ : Nat → Nat → Nat, at_ 0 0 = g.s ∧ st = at_ n 0 ∧
    (∀ t, t < n → at_ (t + 1) 0 = at_ t g.ncol ∧
      ∀ c, c < g.ncol → ClassStep q g table seed (base + t) c (at_ t c) (at_ t (c + 1))) ∧
    mg.length = g.marg.length ∧
    (∀ v, v < g.marg.length → mg.getD v 0 =
      min (g.marg.getD v 0 + ((List.range n).filter fun t => (at_ (t + 1) 0).testBit v).length) 65535) ∧
    ∃ bad : List (Nat × Nat × Nat), bad.Nodup ∧ k = min bad.length (2 ^ 32 - 1) ∧
      ∀ t c v, (t, c, v) ∈ bad ↔ t < n ∧ c < g.ncol ∧ InClass q g c v ∧ (fieldOf q g (at_ t c) v).isNan = true

/-- DONE of a binding, if it has one (R330, R446). -/
def DoneAt (s : State) (g : GibbsHandle) (dn : Option Loc) : Prop :=
  g.done = 0 ∧ dn = none ∨ g.done ≠ 0 ∧ ∃ w, Translated s g.done .write w ∧ stored w = true ∧ dn = some w

/-- Lane dies have room for the state cells of a binding (R13, R331). -/
def RoomFor (s : State) (g : GibbsHandle) : Prop :=
  s.myHandles.gibbs.length < 8 ∧ ∀ d, d < 4 → s.cellsTaken d + g.cells d ≤ 4 * 2 ^ 20

end Sys2Proof.Claims
end

