-- ==== Sys2Proof/Safety/Views.lean ====
section
/-!
DEFINITION. The terms of the statements about views, collectives and the fabric (R357 to R381).
-/

namespace Sys2Proof.Claims

open Machine

/-- This package belongs to a view. -/
def InView (s : State) : Prop := s.fabric.fid ∈ s.fabric.members

/-- The place of a member in its view, counted from 0. -/
def rankIn (ms : List Nat) (m : Nat) : Nat := ms.idxOf m

/-- The members of ranks RANK - 1 and RANK + 1 modulo SIZE, this package aside (R361). -/
def Neighbour (s : State) (m : Nat) : Prop :=
  let ms := s.fabric.members
  let n := ms.length
  let r := rankIn ms s.fabric.fid
  InView s ∧ m ≠ s.fabric.fid ∧ (ms[(r + 1) % n]? = some m ∨ ms[(r + n - 1) % n]? = some m)

/-- The lowest-ranked member that is not suspected; this package when there is none (R361). -/
def leaderOf (f : Fabric) : Nat := (f.members.filter fun m => !f.suspects.contains m).headD f.fid

/-- Nothing but the view controller and what it sends may differ. -/
def OnlyFabric (s t : State) : Prop := t = { s with fabric := t.fabric, outbox := t.outbox, inbox := t.inbox }

/-- The view of a package. -/
def HasView (t : State) (tag : Nat) (members : List Nat) : Prop := t.fabric.tag = tag ∧ t.fabric.members = members

/-- The tag that follows (R359). -/
def tagAfter (t : Nat) : Nat := if t + 1 = 2 ^ 32 then 1 else t + 1

/-- A flit that R358 lets this package use. -/
def Usable (s : State) (f : Flit) : Prop := InView s ∧ f.tag = s.fabric.tag ∧ f.sender ∈ s.fabric.members

/-- What differs after a flit that is not used: the model's list of flits of the next view, which their senders resend (log 66). -/
def Discarded (s t : State) (f : Flit) : Prop :=
  t = { s with fabric := { s.fabric with early := t.fabric.early } } ∧
    (t.fabric.early = s.fabric.early ∨ t.fabric.early = s.fabric.early ++ [f]) ∧
    (InView s → f.tag ≠ tagAfter s.fabric.tag → t = s)

/-- Two lists have the same members. -/
def SameMembers (xs ys : List Nat) : Prop := ∀ m, m ∈ xs ↔ m ∈ ys

/-- A member has done all that a hold waits for: it has the union, has dispatched each pair of it under the current tag, and none of
its collectives and remote copies is left (R363). -/
def Quiet (s : State) (h : Hold) : Prop :=
  ∃ u, h.union = some u ∧ (∀ p ∈ u, p.1 = s.fabric.tag → ∃ q ∈ s.fabric.counts, q.1 = p.2 ∧ q.2 ≠ 0) ∧
    (∀ c ∈ s.colls, c.status ≠ none) ∧ ∀ o ∈ s.ops, o.remote = false

/-- The members that a package would keep: those that it neither suspects nor has to remove (R362). -/
def Stays (f : Fabric) (n : Nat) : Prop := n ∈ f.members ∧ n ∉ f.suspects ∧ n ∉ f.leavers

/-- The joiners that a planned change adds, as far as the view has room (R359, R363). -/
def newJoiners (f : Fabric) : List Nat :=
  let stay := f.members.filter fun m => !f.suspects.contains m && !f.leavers.contains m
  (f.joiners.filter fun j => !f.members.contains j).take (8192 - stay.length)

/-- The joins and departures that wait at a package: an earlier list, with those of a message added (R379). -/
def Joined (now old more : List Nat) : Prop := ∀ m, m ∈ now ↔ m ∈ old ∨ m ∈ more

/-- A range that a remote copy may reach (R381, R252). -/
def Reachable (s : State) (pa len : Nat) : Prop := s.forbids pa len = false

/-- The collective is the first unfinished one of its pair. -/
def IsColl (s : State) (etag cid : Nat) (c : Coll) : Prop :=
  s.colls.find? (fun c => c.etag = etag ∧ c.cid = cid ∧ c.status.isNone) = some c

/-- The collective of that number, the only one, has ended with this status word. -/
def CollEnded (t : State) (c : Coll) (w : Word) : Prop :=
  ∀ d ∈ t.colls, d.id = c.id → d.status = some w

/-- The record's STATUS word is in memory of the module, without a DONE word, and no other collective has this one's number. -/
def StatusStored (s : State) (c : Coll) : Prop :=
  stored (c.record.plus 0x30) = true ∧ Backed s (c.record.plus 0x30) ∧ c.done = none ∧ ∀ d ∈ s.colls, d.id = c.id → d = c

/-- No two shares of a collective are of one rank. -/
def RanksDiffer (c : Coll) : Prop := (c.shares.map (·.rank)).Nodup

/-- The record of rank q's share is not that of rank 0 (R369). -/
def DiffersAt (c : Coll) (q : Share) : Prop := q ∈ c.shares ∧ ∃ z ∈ c.shares, z.rank = 0 ∧ q.hdr ≠ z.hdr

/-- Element k of the source of the member of rank r. -/
def valueAt (c : Coll) (r k : Nat) : Nat := ((c.shares.find? fun q => q.rank = r).bind fun q => q.data[k]?).getD 0

/-- The members' elements k, in rank order. -/
def valuesAt (c : Coll) (k : Nat) : List Nat := (List.range c.nNew).map fun r => valueAt c r k

/-- One step of an integer reduction (R367, R371). -/
def intStep (type rop p q : Nat) : Nat :=
  let w := 8 * collBytes type
  let less : Prop := if type < 12 then sval w p < sval w q else p < q
  match rop with
  | 0 => (p + q) % 2 ^ w
  | 1 => if less then p else q
  | 2 => if less then q else p
  | 3 => p &&& q
  | 4 => p ||| q
  | _ => p ^^^ q

/-- One step of a floating reduction, with its flags. -/
def floatStep (type rop p q : Nat) : Nat × Nat :=
  let F := fmtOf type
  match rop with
  | 0 => fadd2 F rneMode (F.unpack p) (F.unpack q)
  | 1 => fminmax F false p q
  | _ => fminmax F true p q

/-- The tree of R163 over values in order, and its flags. -/
def TreeOf (step : Nat → Nat → Nat × Nat) (xs : List Nat) (x fl : Nat) : Prop :=
  match xs with
  | [a] => x = a ∧ fl = 0
  | [a, b] => (x, fl) = step a b
  | [a, b, c, d] =>
    let p := step a c
    let q := step b d
    let r := step p.1 q.1
    x = r.1 ∧ fl = p.2 ||| q.2 ||| r.2
  | xs => reduceTree step none (xs.map some) = (some x, fl)

/-- The exponents that the members agree over their values, one for each block of 256 positions (R164, R371). -/
def BlockExponents (c : Coll) (es : List (Option Int)) : Prop :=
  es.length = (c.positions + 255) / 256 ∧ ∀ b, b < es.length → es[b]? =
    some (qExp ((List.range (min 256 (c.positions - 256 * b))).flatMap fun i => (valuesAt c (256 * b + i)).map f64.unpack))

/-- The reduction of the members' elements k, and its flags (R371, R377). -/
def Reduces (c : Coll) (k x fl : Nat) : Prop :=
  let h := c.hdr
  if h.mode = 1 then
    let w := if c.restarted = true ∧ h.policy = 2 then (c.nOld, c.nNew) else (1, 1)
    ∃ es, c.exps = some es ∧ (x, fl) = qsumAt ((es[k / 256]?).getD none) w.1 w.2 ((valuesAt c k).map f64.unpack)
  else if 8 ≤ h.type then fl = 0 ∧ ∃ z zs, valuesAt c k = z :: zs ∧ x = zs.foldl (intStep h.type h.rop) z
  else TreeOf (floatStep h.type h.rop) (valuesAt c k) x fl

/-- What this member's destination receives, by kind, and FLAGS (R370, R371). -/
def CollResult (c : Coll) (xs : List Nat) (fl : Nat) : Prop :=
  let m := c.hdr.count
  let reduced (n : Nat) (ys : List Nat) : Prop := ys.length = n ∧ ∃ fs : List Nat, fs.length = n ∧
    (∀ k, k < n → Reduces c k (ys.getD k 0) (fs.getD k 0)) ∧ fl = fs.foldl (· ||| ·) 0
  match c.hdr.kind with
  | 0 => reduced m xs
  | 1 => ∃ ys, reduced (c.nNew * m) ys ∧ xs = (ys.drop (c.rank * m)).take m
  | 2 => fl = 0 ∧ xs.length = c.nNew * m ∧ ∀ j k, j < c.nNew → k < m → xs[j * m + k]? = some (valueAt c j k)
  | 3 => fl = 0 ∧ xs = (List.range m).map (valueAt c c.hdr.root)
  | _ => fl = 0 ∧ xs = []

/-- A collective whose members have all sent a source of the length that R370 gives, of elements of TYPE, and whose destination has
room; under QSUM the exponents are agreed. -/
structure CollWhole (s : State) (c : Coll) : Prop where
  kind : c.hdr.kind ≤ 4 ∧ c.rank < c.nNew ∧ (c.hdr.kind = 3 → c.hdr.root < c.nNew)
  mode : c.hdr.mode = 1 → c.exps ≠ none
  rop : c.hdr.rop ≤ 5 ∧ (c.hdr.type < 8 → c.hdr.rop ≤ 2)
  type : c.hdr.type ∈ [0, 1, 2, 3, 8, 9, 12, 13] ∧ c.esize = collBytes c.hdr.type
  shares : ∀ r, r < c.nNew → ∃ q, c.shares.find? (fun q => q.rank = r) = some q ∧
    q.data.length = sourceCount c.hdr c.nNew r ∧ ∀ x ∈ q.data, x < 2 ^ (8 * c.esize)
  room : Backs s c.dst ∧ Apart c.dst ∧ c.esize * destCount c.hdr c.nNew ≤ (c.dst.map (·.len)).sum
  beside : ∀ g ∈ c.dst, ∀ p, within g.loc g.len p = true → within (c.record.plus 0x30) 8 p = false

/-- COLL of a pair may be dispatched (R362, R363): no proposal is acknowledged, the pair is in the union of a hold, and this member has
not acknowledged the hold, but for a collective that another has begun. -/
def MayDispatch (s : State) (etag cid : Nat) : Prop :=
  s.fabric.acked = none ∧ ∀ h, s.fabric.hold = some h →
    (∀ u, h.union = some u → (etag, cid) ∈ u) ∧ (s.fabric.fid ∈ h.acks → s.begunElsewhere etag cid = true)

/-- The record that x[a] names can be read, by a hart that may dispatch (R368). -/
structure RecordAt (s : State) (a : Reg) (x : Nat) (loc : Loc) : Prop where
  aligned : (s.rx a).toNat % 64 = 0
  budget : InBudget s
  acked : s.hart.unacked = []
  clean : NoLinePoisoned s
  few : (s.colls.filter fun c => c.status.isNone).length < 64
  reads : SpansAt s (s.rx a).toNat 64 .read [⟨loc, 64⟩]
  inMem : stored loc = true ∧ Backed s loc ∧ s.poisonedAt loc 64 = false
  value : x = numAt s loc 64

/-- The record that x[a] names, mapped for its read and its write, with its ranges (R368, R369). -/
structure RecordReady (s : State) (a : Reg) (x : Nat) (loc : Loc) (src dst : List Seg) : Prop where
  record : RecordAt s a x loc
  writes : SpansAt s (s.rx a).toNat 64 .write [⟨loc, 64⟩]
  unheld : MayDispatch s (nth x 4 8) (nth x 4 9)
  ok : recordOk x s.fabric.size s.fabric.rank s.fabric.inView = true
  noDone : nth x 8 5 = 0
  source : SpansAt s (nth x 8 2) (collBytes (recordHdr x).type * sourceCount (recordHdr x) s.fabric.size s.fabric.rank)
    .read src ∧ Backs s src ∧ s.segsPoisoned src = false
  dest : SpansAt s (nth x 8 3) (collBytes (recordHdr x).type * destCount (recordHdr x) s.fabric.size) .write dst ∧
    Backs s dst

end Sys2Proof.Claims
end

