-- ==== Sys2Proof/Safety/Services.lean ====
section
/-!
DEFINITION. The terms of the statements about fetch and issue (R127 to R145), power and boot (R20 to R25, R415, R416),
coherence (R257 to R263), targets and hosts (R254, R263, R404, R408) and management (R418 to R422).
-/

namespace Sys2Proof.Claims

open Machine

-- fetch and issue

/-- The module has power. -/
def Powered (s : State) : Prop := s.svc.power ≠ .off

/-- A hart of a partition (R12). -/
def InPartition (h : Hart) (core part : Nat) : Prop := h.hid / 4 = core * 4 + part

/-- Words that the aligned block of eight at a hart's next word to be fetched gives it (R127). -/
def nextBlock (h : Hart) : Nat := 8 - (h.pc.toNat / 4 + h.fbuf) % 8

/-- A hart of the partition whose fetch buffer of 16 words has room for its next block. -/
def TakesBlock (h : Hart) (core part : Nat) : Prop :=
  InPartition h core part ∧ h.run ≠ .swap ∧ h.fbuf + nextBlock h ≤ 16

/-- A hart may issue (R133, R188): it is ready, its buffer holds a word, it is not quiet, and no stop holds it, but one that falls
within its instruction or comes after it (R144, R170). -/
def MayIssue (s : State) (h : Hart) : Prop :=
  h.run = .ready ∧ 0 < h.fbuf ∧ h.quiet ≤ s.clock ∧ (h.stop = none ∨ h.cut ≠ none ∨ s.midway h = true)

/-- It may issue, and no picker has chosen it yet. -/
def ReadyToIssue (s : State) (h : Hart) : Prop := MayIssue s h ∧ h.hid ∉ s.picked

/-- The report names data that reads uncorrectable or a failing core, and is no finding of the gauge checker (R86, R405). -/
def OtherLoss (r : GaugeReport) : Prop :=
  (∃ f g x, r = .badRegister f g x) ∨ (∃ c l w, r = .badScratch c l w) ∨ (∃ l, r = .badLine l) ∨ (∃ c, r = .badCore c) ∨
    ∃ g v b, r = .badSampler g v b

/-- What a picked hart's turn leaves beside its instruction: its age is 0 again, and the units that work by themselves go on when no
event is pending (R134). -/
def issued (hid : Nat) (t : State) : State :=
  (t.updHart hid fun h => { h with age := 0, cut := none, gatedAt := t.svc.gated }).goOn

/-- Slots from a round-robin pointer on to the slot of a hart. -/
def slotsFrom (rr : Nat) (h : Hart) : Nat := (h.hid % 4 + 4 - rr % 4) % 4

/-- The round-robin pointer of slot class `c` of a partition. -/
def rrOf (s : State) (core part c : Nat) : Nat := (s.rr[3 * (core * 4 + part) + c]?).getD 0

/-- Slot class `c` of a partition picks this hart (R134): of those ready for it the one with the largest AGE, and of equals the
first at or after RR. -/
def Picks (s : State) (core part c : Nat) (h : Hart) : Prop :=
  h ∈ s.placed ∧ InPartition h core part ∧ ReadyToIssue s h ∧ s.classOf h = c ∧
    ∀ g ∈ s.placed, InPartition g core part → ReadyToIssue s g → s.classOf g = c →
      g.age < h.age ∨ g.age = h.age ∧ slotsFrom (rrOf s core part c) h ≤ slotsFrom (rrOf s core part c) g

-- power

/-- Nothing but the service state and the clocks charged to harts may differ. -/
def OnlyService (s t : State) : Prop :=
  t = { s with svc := t.svc, draw := t.draw, hart := { s.hart with since := t.hart.since }, parked := t.parked } ∧
    t.parked.map (fun h => { h with since := 0 }) = s.parked.map fun h => { h with since := 0 }

/-- What stays of the module when power goes (R21, R357, R416, R419). -/
def Survives (s t : State) : Prop :=
  t.svc.journal = s.svc.journal ∧ t.svc.bootCount = s.svc.bootCount ∧ t.svc.clearJournal = s.svc.clearJournal ∧
    t.lu.keys = s.lu.keys ∧ t.fabric.fid = s.fabric.fid ∧ t.outbox = s.outbox

-- coherence

/-- A message of the home to an agent about a line. -/
def FromHome (agent line : Nat) (m : CohMsg) : Bool :=
  m.agent = agent ∧ m.line = line ∧ (m.kind = .snps ∨ m.kind = .snpx ∨ m.kind = .inv ∨ m.kind = .binv ∨ m.kind = .data ∨
    m.kind = .cmp)

/-- The home's oldest message to an agent about a line is this one. -/
def NextFromHome (s : State) (kind : CohKind) (agent line : Nat) (m : CohMsg) : Prop :=
  s.coh.msgs.find? (FromHome agent line) = some m ∧ m.kind = kind

/-- The oldest message of a kind that an agent sends or another agent sends it. -/
def NextOf (s : State) (kind : CohKind) (agent line : Nat) (m : CohMsg) : Prop :=
  s.coh.msgs.find? (fun m => m.agent = agent ∧ m.line = line ∧ m.kind = kind) = some m

/-- Nothing but the coherence state may differ: a move of a line changes where its data is held, never its value (R262), nor what is
poisoned, where the copy in HBM is of the same data (R269). -/
def OnlyCoherence (s t : State) : Prop :=
  t = { s with coh := t.coh } ∧ t.coh.poison = s.coh.poison ∧
    ∀ m, s.coh.entry? m = none ∨ (m ∈ s.coh.poison ↔ m ∈ s.coh.taint) → t.linePoisoned m = s.linePoisoned m

/-- An agent of a powered module and a line. -/
def AgentLine (s : State) (agent line : Nat) : Prop := Powered s ∧ agent < 5 ∧ line < 2 ^ 32

/-- The agent may ask for the line: it is the home's own die cache, or the line is known for one of a page that is not SYNC
(R253, R342). -/
def AsksFor (s : State) (agent line : Nat) : Prop :=
  agent = line / 2 ^ 30 ∨ (∃ e ∈ s.tlb, e.maps false line = true) ∧ s.syncLine line = false

/-- Another line that an agent holds in the set of its cache which a line goes to (R250). -/
def sharesSet (agent line : Nat) (p : Copy) : Bool :=
  p.agent = agent ∧ p.line % cacheSets agent = line % cacheSets agent ∧ p.st ≠ .i ∧ p.line ≠ line

/-- The set of an agent's cache has room for one more line (R250). -/
def HasRoom (s : State) (agent line : Nat) : Prop := (s.coh.copies.filter (sharesSet agent line)).length < 16

/-- No message of a kind about a line is on its link to or from an agent. -/
def NoMessage (s : State) (kind : CohKind) (agent line : Nat) : Prop :=
  ∀ m ∈ s.coh.msgs, m.agent = agent → m.line = line → m.kind ≠ kind

/-- The state of an agent's copy, and whether it has asked for the line. -/
def Holds (s : State) (agent line : Nat) (st : Moesi) (asked : Option CohKind) : Prop :=
  (s.coh.copy agent line).st = st ∧ (s.coh.copy agent line).asked = asked

/-- The home's record of a line: its owner with the owner's state, and its sharers; no request is being served. -/
def Records (s : State) (line : Nat) (owner : Option (Nat × Moesi)) (sharers : List Nat) : Prop :=
  ∃ e, s.coh.entry? line = some e ∧ e.owner = owner ∧ e.sharers = sharers ∧ e.busy = none ∧ e.queue = []

/-- The home has no record of the line, no request for it waits, and its set has room (R262). -/
def Unrecorded (s : State) (line : Nat) : Prop :=
  s.coh.entry? line = none ∧ (∀ e ∈ s.coh.dir, ∀ q ∈ e.queue, q.line ≠ line) ∧
    (s.coh.dir.filter fun e => filterSet e.line = filterSet line).length < 16

/-- The home serves a request of `agent` for the line and waits for answers of `wait`. -/
def Serves (s : State) (line : Nat) (kind : CohKind) (agent : Nat) (wait : List Nat) : Prop :=
  ∃ e t, s.coh.entry? line = some e ∧ e.busy = some t ∧ t.kind = kind ∧ t.agent = agent ∧ t.wait = wait

/-- This message, and no other, has been sent. -/
def Sends (s t : State) (ms : List CohMsg) : Prop := t.coh.msgs = s.coh.msgs ++ ms

/-- What the set of an agent's cache that took a line in state `st` has given up: nothing, when it had room, and else the first other
line in the order of their moves that its agent has not asked for (R250). -/
def MakesRoom (s t : State) (agent line : Nat) (st : Moesi) : Prop :=
  (st = .i ∨ HasRoom s agent line → OnlyCoherence s t) ∧
    ∀ v, st ≠ .i → ¬ HasRoom s agent line → s.coh.copies.find? (fun p => sharesSet agent line p ∧ p.asked = none) = some v →
      s.coh.copy agent v.line = v → Holds t agent v.line .i none

-- targets and hosts

/-- The lines of a range of at least one byte are device memory that is present. -/
def Present (s : State) (pa n : Nat) : Prop :=
  0 < n ∧ pa + n ≤ 2 ^ 39 ∧ ∀ i, i < n → s.noStack ((pa + i) / 128 * 128) = false

/-- A range meets a page of a verified image, which is pinned (R29). -/
def MeetsPin (s : State) (pa n : Nat) : Prop := ∃ e ∈ s.lu.images, ∃ i, i < n ∧ (pa + i) / 128 ∈ e.pins

/-- No byte of a range lies in the IDKEY field of a port's management region (R418). -/
def NoKeyBytes (pa n : Nat) : Prop :=
  ∀ i p, i < n → p < 2 → ¬ (Config.mgmt p + 0x20 ≤ pa + i ∧ pa + i < Config.mgmt p + 0x40)

/-- An access to a host that a translation which an invalidation drops has served, and that has not performed yet (R404). -/
def ServedBy (q : TargetReq) (i : Inval) : Prop :=
  q.ats = false ∧ q.pasid = i.pasid ∧ ∃ va, q.loc = .hostb i.port va ∧
    (va / 4096 = i.page ∨ ∃ d ∈ i.dropped, d.1 ≤ va / 4096 ∧ va / 4096 < d.1 + d.2)

/-- No engine operation and no collective waits for data under a tag. -/
def NoneAsks (s : State) (tag : Nat) : Prop :=
  (∀ o ∈ s.ops, ∀ a ∈ o.asks, a.tag ≠ tag) ∧ ∀ c ∈ s.colls, ∀ a ∈ c.asks, a.tag ≠ tag

/-- The port is there (R46). -/
def PortUp (s : State) (port : Nat) : Prop := ∃ p, s.svc.units.host[port]? = some p ∧ p.trained = true

-- management

/-- A field of a port's management region (R418). -/
def mgmtField (s : State) (port off n : Nat) : Nat := numAt s (.dev (Config.mgmt port + off) false) n

/-- A command with this code waits at a port (R418). -/
def Commanded (s : State) (port code : Nat) : Prop :=
  port < 2 ∧ Powered s ∧ mgmtField s port 0 8 ≠ mgmtField s port 8 8 ∧ mgmtField s port 0x10 4 = code

/-- The answer to a port's command, on the state `u` that its effect has left: DATA, RESULT, a new MNONCE, which the device keeps and
which no answer had before, and RSPSEQ; no other place of memory changes than the management region (R418), and the lines of that move. -/
def Answered (s u t : State) (port result : Nat) (data : List Byte) : Prop :=
  t = { u with
    mem := t.mem, coh := t.coh, draw := u.draw + 1
    svc := { u.svc with mnonce := t.svc.mnonce, nonces := u.newNonce :: u.svc.nonces } } ∧ t.svc.mnonce[port]? = some u.newNonce ∧
    mgmtField t port 0x14 4 = result ∧ mgmtField t port 8 8 = mgmtField s port 0 8 ∧
    mgmtField t port 0x18 8 = u.newNonce ∧ (u.svc.nonces.length < 2 ^ 64 → u.newNonce ∉ u.svc.nonces) ∧
    (∀ i b, data[i]? = some b → byteAt t (.dev (Config.mgmt port + 0x140) false) i = b) ∧
    SameOutside u t (.dev (Config.mgmt port) false) 0x1000

/-- A command ends with this result, this data and no other effect. -/
def Ends (e : Instr) (s : State) (port result : Nat) (data : List Byte) : Prop :=
  ∃ t, exec e s = .next t ∧ Answered s s t port result data

end Sys2Proof.Claims
end

