-- ==== Sys2Proof/Certificates/Slice0/Obligations.lean ====
section
/-!
DEFINITION. The statements about the model, for the provers. Each names the rules of the manual that it rests on.
-/

open Sys2Proof Sys2Proof.Machine Sys2Proof.Claims

-- scalar arithmetic

/-- R171: each of the 27 SALU operations completes with its result in x[d], and nothing else changes. -/
def Obligations.IntegerOperationsWriteTheirResult : Prop :=
  ∀ (i : Instr) (s : State) (d : Reg) (w : Word), saluResult s i = some (d, w) →
    ∃ t, exec i s = .next t ∧ OnlyX s t ∧ Onward s t ∧ Wrote s t d w

/-- R172: the immediate forms, over every immediate from -32,768 to 32,767, and the major opcode of each in format AI. -/
def Sys2Proof.Claims.ImmediateFormsWriteTheirResult : Prop :=
  (∀ (i : Instr) (s : State) (d : Reg) (w : Word), immediateResult s i = some (d, w) →
    ∃ t, exec i s = .next t ∧ OnlyX s t ∧ Onward s t ∧ Wrote s t d w) ∧
  ∀ (d a : Reg) (k : BitVec 16), let word (op : Nat) := some (op * 2 ^ 26 + d.toNat * 2 ^ 21 + a.toNat * 2 ^ 16 + k.toNat)
    encode (.addi d a k) = word 0x02 ∧ encode (.andi d a k) = word 0x03 ∧ encode (.ori d a k) = word 0x04 ∧
    encode (.xori d a k) = word 0x05 ∧ encode (.slti d a k) = word 0x06 ∧ encode (.sltni d a k) = word 0x07

/-- R173: LHI and PCHI, over every immediate, and their words in format AL; the two instructions of the rule's example
give its constant. -/
def Sys2Proof.Claims.HighImmediatesWriteTheirResult : Prop :=
  (∀ (i : Instr) (s : State) (d : Reg) (w : Word), highResult s i = some (d, w) →
    ∃ t, exec i s = .next t ∧ OnlyX s t ∧ Onward s t ∧ Wrote s t d w) ∧
  (∀ (d : Reg) (k : BitVec 21), let word (op : Nat) := some (op * 2 ^ 26 + d.toNat * 2 ^ 21 + k.toNat)
    encode (.lhi d k) = word 0x08 ∧ encode (.pchi d k) = word 0x09) ∧
  ∀ s : State, ∃ i j t u, decode 0x20A12346 = .ok i ∧ decode 0x08A5ABCD = .ok j ∧ exec i s = .next t ∧ exec j t = .next u ∧
    t.rx 5 = 0x0000000123460000 ∧ u.rx 5 = 0x000000012345ABCD

/-- R172, R173: ADDI, ANDI, ORI, XORI, SLTI, SLTNI, LHI and PCHI. -/
def Obligations.ImmediateOperationsWriteTheirResult : Prop :=
  ImmediateFormsWriteTheirResult ∧ HighImmediatesWriteTheirResult


-- scalar floating point

/-- R174 to R176, R103, R151: an SFPU or SFMA operation with a floating result completes; x[d] holds the result's pattern
with zeros above its format's width, STATUS gains the flags, and nothing else changes. -/
def Sys2Proof.Claims.FloatOperationsWriteResultAndFlags : Prop :=
  ∀ (i : Instr) (s : State) (d : Reg) (F : Fmt) (r : Nat × Nat), floatResult s i = some (d, F, r) →
    r.1 < 2 ^ F.bits ∧ r.2 < 32 ∧
    ∃ t, exec i s = .next t ∧ OnlyXStatus s t ∧ Onward s t ∧ Wrote s t d (BitVec.ofNat 64 r.1) ∧ Raised s t r.2

/-- R174, R175: FEQ, FLT and FLE. On numbers they compare exact values; with a NaN they are false; NV is raised by a
signalling NaN, and by any NaN for FLT and FLE. -/
def Sys2Proof.Claims.FloatComparesFollowExactOrder : Prop :=
  ∀ (i : Instr) (s : State) (d : Reg) (r : FRel) (a b : Reg) (F : Fmt), compareOf i = some (d, r, a, b, F) →
    ∃ (w : Word) (fl : Nat) (t : State),
      exec i s = .next t ∧ OnlyXStatus s t ∧ Onward s t ∧ Wrote s t d w ∧ Raised s t fl ∧ (w = 0 ∨ w = 1) ∧
      ((s.fx F a).isNan = true ∨ (s.fx F b).isNan = true → w = 0 ∧
        (fl = flagNV ↔ r ≠ .eq ∨ s.fx F a = .nan true ∨ s.fx F b = .nan true) ∧ (fl = 0 ∨ fl = flagNV)) ∧
      (∀ x y, valueOf (s.fx F a) = some x → valueOf (s.fx F b) = some y → (w = 1 ↔ relHolds r x y) ∧ fl = 0)

/-- R175, R150: a NaN operand of FADD, FSUB, FMUL, FDIV, FSQRT or FCVT gives the canonical NaN of the result's format,
and NV exactly when an operand is signalling; FMIN and FMAX of one NaN give the other operand. -/
def Sys2Proof.Claims.NanOperandsGiveTheCanonicalNan : Prop :=
  ∀ (F : Fmt) (r : Rounding) (x y : FVal) (q : Bool) (p : Nat), Scalar4 F →
    fadd2 F r (.nan q) y = (F.nan, if q = true ∨ y = .nan true then flagNV else 0) ∧
    fadd2 F r x (.nan q) = (F.nan, if q = true ∨ x = .nan true then flagNV else 0) ∧
    fmul2 F r (.nan q) y = (F.nan, if q = true ∨ y = .nan true then flagNV else 0) ∧
    fmul2 F r x (.nan q) = (F.nan, if q = true ∨ x = .nan true then flagNV else 0) ∧
    fdiv2 F r (.nan q) y = (F.nan, if q = true ∨ y = .nan true then flagNV else 0) ∧
    fdiv2 F r x (.nan q) = (F.nan, if q = true ∨ x = .nan true then flagNV else 0) ∧
    fsqrt1 F r (.nan q) = (F.nan, if q = true then flagNV else 0) ∧
    fcvt1 F r false (.nan q) = (F.nan, if q = true then flagNV else 0) ∧
    F.unpack F.nan = .nan false ∧
    ∀ m, (F.unpack p).isNan = true → (F.unpack m).isNan = false → ∀ big,
      (fminmax F big p m).1 = m % 2 ^ F.bits ∧ (fminmax F big m p).1 = m % 2 ^ F.bits

/-- R151, R152: a sum, difference or product of finite operands that a finite pattern of the format stands for exactly is
that value, in every rounding mode, and raises no flag. -/
def Sys2Proof.Claims.ExactSumsAndProductsAreNotRounded : Prop :=
  ∀ (F : Fmt) (r : Rounding) (a b c : Nat) (x y z : ℚ), Scalar4 F →
    valueOf (F.unpack a) = some x → valueOf (F.unpack b) = some y → valueOf (F.unpack c) = some z →
    (x + y = z → valueOf (F.unpack (fadd2 F r (F.unpack a) (F.unpack b)).1) = some z ∧
      (fadd2 F r (F.unpack a) (F.unpack b)).2 = 0) ∧
    (x * y = z → valueOf (F.unpack (fmul2 F r (F.unpack a) (F.unpack b)).1) = some z ∧
      (fmul2 F r (F.unpack a) (F.unpack b)).2 = 0)

/-- R148 to R152, R175: NaN operands, and results that need no rounding. -/
def Obligations.FloatResultsAreExactOrCanonical : Prop :=
  NanOperandsGiveTheCanonicalNan ∧ ExactSumsAndProductsAreNotRounded

/-- R156, R175: FCVTI completes; x[d] holds the exact value where it is an integer in the range of the type, extended as
the type says, and NV is not raised. -/
def Sys2Proof.Claims.FloatToIntegerKeepsExactIntegers : Prop :=
  ∀ (d a : Reg) (k : BitVec 2) (f m : Num3) (s : State),
    let F := fmtOf f.toNat
    let bits := if k.toNat % 2 = 0 then 32 else 64
    ∃ (w : Word) (fl : Nat) (t : State),
      exec (.fcvti d a k f m) s = .next t ∧ OnlyXStatus s t ∧ Onward s t ∧ Wrote s t d w ∧ Raised s t fl ∧
      ∀ n : Int, valueOf (s.fx F a) = some (n : ℚ) →
        (if k.toNat < 2 then -(2 ^ (bits - 1) : Int) ≤ n ∧ n < 2 ^ (bits - 1) else 0 ≤ n ∧ n < 2 ^ bits) →
        w = BitVec.ofInt 64 n ∧ fl = 0

/-- R103, R151, R156, R174 to R176: every SFPU and SFMA instruction. -/
def Obligations.ScalarFloatInstructionsComplete : Prop :=
  FloatOperationsWriteResultAndFlags ∧ FloatComparesFollowExactOrder ∧ FloatToIntegerKeepsExactIntegers


-- scalar memory

/-- R177, R169: a load whose address is aligned, translated and in memory of the module completes: x[d] holds its bytes, with
their sign or zeros above, and no byte of memory and nothing else of the hart changes. The state before it is `u`, which is
`s` with the bytes counted (R38) and A set (R400); the caches may hold the lines elsewhere after it. The model's choice, not
a rule's: the count of bytes is a free value (log 65), and the choice of translation while one is stale is too (log 14). -/
def Obligations.LoadsExtendTheBytesAtTheirAddress : Prop :=
  ∀ (i : Instr) (s u : State) (n : Nat) (sgn : Bool) (d : Reg) (va : Nat) (loc : Loc),
    loadForm s i = some (n, sgn, d, va) → Reaches s va n .read loc u → Readable u loc n →
    ∃ (w : Word) (t : State), exec i s = .next t ∧ OnlyXLines u t ∧ Onward s t ∧ Wrote s t d w ∧
      Extends w n sgn (byteAt u loc) ∧ SameMemory u t

/-- R177, R169: a store whose address is aligned, translated and in memory of the module completes: the bytes at its place
are the low bytes of x[s], and every other byte of memory and every register reads as before. The model's choice, not a
rule's: the count of bytes is a free value (log 65). -/
def Obligations.StoresWriteOnlyTheirBytes : Prop :=
  ∀ (i : Instr) (s u : State) (n : Nat) (w : Word) (va : Nat) (loc : Loc),
    storeForm s i = some (n, w, va) → Inv s → Reaches s va n .write loc u → loc.outside = false → Backed u loc →
    ∃ t, exec i s = .next t ∧ OnlyMemX u t ∧ Onward s t ∧ SameX s t ∧ t.hart.status = s.hart.status ∧
      (∀ k, k < n → byteAt t loc k = w.extractLsb' (8 * k) 8) ∧ SameOutside u t loc n

/-- R169, R388: a load, a store or an atomic with a misaligned address traps as misaligned with the address as trap value,
and has no other effect. -/
def Sys2Proof.Claims.MisalignedAccessesTrap : Prop :=
  ∀ (i : Instr) (s : State) (n va : Nat), InBudget s →
    ((∃ sgn d, loadForm s i = some (n, sgn, d, va)) ∨ (∃ w, storeForm s i = some (n, w, va)) ∨
      (∃ a, atomicForm s i = some a ∧ Ordered s a.order ∧ a.n = n ∧ va = (s.rx a.addr).toNat)) →
    va % n ≠ 0 →
    exec i s = .next (takeTrap true 3 (BitVec.ofNat 64 va) 0 ((counted s).withHart Hart.settled))

/-- R178, R179, R400: an atomic whose address is aligned, translated and in memory of the module, or for LDO in the
capability window, completes as one step: with m the old value, x[d] is m, extended as its type says, memory holds the new
value, ATFADD's flags are in STATUS, and every other byte of memory and every other register reads as before. The model's
choice, not a rule's: an atomic that lacks R or W faults as a store (log 13), and LDO may read the capability window (log
73). -/
def Obligations.AtomicsReadAndWriteInOneStep : Prop :=
  ∀ (i : Instr) (s u : State) (a : Atomic) (loc : Loc), atomicForm s i = some a → Inv s → Ordered s a.order →
    Reaches s (s.rx a.addr).toNat a.n a.acc loc u → Readable u loc a.n → Backed u loc →
    ∃ t, exec i s = .next t ∧ OnlyMemX u t ∧ Onward s t ∧ Raised s t (a.flags (numAt u loc a.n)) ∧
      (match a.new (numAt u loc a.n) with
       | some x => numAt t loc a.n = x
       | none => numAt t loc a.n = numAt u loc a.n) ∧
      SameOutside u t loc a.n ∧
      (match a.dest with
       | some (d, sgn) => ∃ w : Word, Wrote s t d w ∧ Extends w a.n sgn (byteAt u loc)
       | none => SameX s t)

/-- R180: on an IO page every atomic raises access fault before the access. -/
def Sys2Proof.Claims.AtomicsOnIoPagesRaiseAccessFault : Prop :=
  ∀ (i : Instr) (s u : State) (a : Atomic) (pa : Nat), atomicForm s i = some a → Ordered s a.order →
    Reaches s (s.rx a.addr).toNat a.n a.acc (.io pa) u →
    exec i s = .next (takeTrap true 6 (s.rx a.addr) 0 (u.withHart Hart.settled))

/-- R256, R298, R308, R343, R402: a load, a store or an atomic to a page that an older engine operation of its hart has still to write, or
that an older vector store of its hart to a device or a host is outstanding for, waits with nothing done but its translation, whose
place it keeps (R402); a release atomic waits with nothing done while a store of its hart to a device or a host is unacknowledged. -/
def Sys2Proof.Claims.AccessesWaitForOwnEngines : Prop :=
  (∀ (i : Instr) (s u : State) (n va : Nat) (acc : Access) (loc : Loc),
    ((∃ sgn d, loadForm s i = some (n, sgn, d, va)) ∧ acc = .read ∨ (∃ w, storeForm s i = some (n, w, va)) ∧ acc = .write ∨
      ∃ a, atomicForm s i = some a ∧ Ordered s a.order ∧ a.n = n ∧ va = (s.rx a.addr).toNat ∧ acc = a.acc) →
    Arrives s va n acc loc u → u.engineHolds loc = true ∨ u.storeHolds loc = true →
    ∃ t, exec i s = .next t ∧ OnlyXWait (dispatchedAll u acc [va]) t ∧ SameX s t ∧ t.hart.pc = s.hart.pc ∧
      t.hart.run = .stalled ∧ t.hart.begun.held.isSome = true) ∧
  ∀ (i : Instr) (s : State) (a : Atomic), atomicForm s i = some a → ¬ Ordered s a.order →
    ∃ t, exec i s = .next t ∧ OnlyXWait s t ∧ SameX s t ∧ t.hart.pc = s.hart.pc ∧ t.hart.run = .stalled

/-- R169, R180, R298, R308, R388: misaligned scalar accesses and atomics on IO pages trap; an access to a page that an older
engine operation of the hart has still to write waits. The model's choice, not a rule's: a hart that waits is stalled at the
same pc (log 10), and that an access waits by page of storage is log 15. -/
def Obligations.ScalarAccessesAreHeldBackOrTrap : Prop :=
  MisalignedAccessesTrap ∧ AtomicsOnIoPagesRaiseAccessFault ∧ AccessesWaitForOwnEngines


-- control flow

/-- R181: the six branches, and the major opcode of each in format AB. -/
def Sys2Proof.Claims.BranchesGoWhereTheirConditionSays : Prop :=
  (∀ (i : Instr) (s : State) (c : Prop) (o : BitVec 16), branchForm s i = some (c, o) →
    ∃ t, exec i s = .next t ∧ OnlyPc s t ∧ (c → t.hart.pc = goal s o) ∧ (¬ c → Onward s t)) ∧
  ∀ (a b : Reg) (o : BitVec 16), let word (op : Nat) := some (op * 2 ^ 26 + a.toNat * 2 ^ 21 + b.toNat * 2 ^ 16 + o.toNat)
    encode (.beq a b o) = word 0x10 ∧ encode (.bne a b o) = word 0x11 ∧ encode (.blt a b o) = word 0x12 ∧
    encode (.bge a b o) = word 0x13 ∧ encode (.bltn a b o) = word 0x14 ∧ encode (.bgen a b o) = word 0x15

/-- R182: JAL, and JALR with an aligned and with a misaligned target; x[a] is read before the link is written; a target
outside the text section raises access fault at its fetch. -/
def Sys2Proof.Claims.JumpsLinkAndGo : Prop :=
  (∀ (o : BitVec 26) (s : State), ∃ t, exec (.jal o) s = .next t ∧ OnlyX s t ∧ t.hart.pc = goal s o ∧
    Wrote s t 1 (s.hart.pc + 4) ∧
    (s.hart.pc.toNat % 4 = 0 → t.inText (goal s o).toNat = false → fetch t = .error (6, goal s o))) ∧
  (∀ (d a : Reg) (k : BitVec 16) (o : BitVec 26), encode (.jal o) = some (0x16 * 2 ^ 26 + o.toNat) ∧
    encode (.jalr d a k) = some (0x17 * 2 ^ 26 + d.toNat * 2 ^ 21 + a.toNat * 2 ^ 16 + k.toNat)) ∧
  ∀ (d a : Reg) (k : BitVec 16) (s : State), let g := BitVec.ofInt 64 ((s.rx a).toInt + k.toInt)
    (g.toNat % 4 = 0 → ∃ t, exec (.jalr d a k) s = .next t ∧ OnlyX s t ∧ t.hart.pc = g ∧
      Wrote s t d (s.hart.pc + 4) ∧ (t.inText g.toNat = false → fetch t = .error (6, g))) ∧
    (g.toNat % 4 ≠ 0 → exec (.jalr d a k) s = .next (takeTrap true 3 g 0 s))

/-- R181, R182: branches and jumps. -/
def Obligations.BranchesAndJumpsSetThePc : Prop :=
  BranchesGoWhereTheirConditionSays ∧ JumpsLinkAndGo

/-- R183: KBR with no CPYGS writing its mask and no poisoned mask word reads bits [0, VL), whatever VSTART is, and branches
or goes on. -/
def Sys2Proof.Claims.MaskBranchesReadTheBitsBelowVl : Prop :=
  ∀ (i : Instr) (s : State) (c : Prop) (k : Num3) (o : BitVec 21), maskBranch s i = some (c, k, o) →
    s.maskBusy k.toNat = false → s.hart.poison = [] →
    ∃ t, exec i s = .next t ∧ OnlyPc s t ∧ (c → t.hart.pc = goal s o) ∧ (¬ c → Onward s t)

/-- R184: VWHILE writes each mask bit below VL from the comparison, clears the bits above, and branches back when a bit is
1; at VL = 0 it clears the mask and goes on. -/
def Sys2Proof.Claims.VwhileComparesAndLoops : Prop :=
  ∀ (k : Num3) (v b : Reg) (o : BitVec 13) (s : State),
    v.toNat % s.hart.cfg.gm = 0 → s.maskBusy k.toNat = false → s.hart.poison = [] → s.hart.vl ≤ 65536 →
    ∃ t, exec (.vwhile k v b o) s = .next t ∧
      t = { s with hart := { s.hart with k := t.hart.k, pc := t.hart.pc, fbuf := t.hart.fbuf } } ∧
      (∀ i, t.hart.maskBit k.toNat i = true ↔ i < s.hart.vl ∧ s.hart.elem s.hart.cfg v.toNat i < (s.rx b).toNat) ∧
      (∀ m i, m ≠ k.toNat → t.hart.maskBit m i = s.hart.maskBit m i) ∧
      ((∃ i, t.hart.maskBit k.toNat i = true) → t.hart.pc = BitVec.ofInt 64 (s.hart.pc.toInt - 4 * o.toNat)) ∧
      ((∀ i, t.hart.maskBit k.toNat i = false) → Onward s t)

/-- R183, R184: the branches on masks. -/
def Obligations.MaskBranchesAndVwhileLoop : Prop :=
  MaskBranchesReadTheBitsBelowVl ∧ VwhileComparesAndLoops


-- synchronisation and traps

/-- R186, R188, R356: FENCE with release completes once no store to a device or a host is unacknowledged, at sys scope once none to a
device is, and else at once; YIELD completes and keeps the hart from its turn
in each of the 16 clocks that follow. -/
def Sys2Proof.Claims.FenceAndYieldComplete : Prop :=
  let device (s : State) := ∃ q ∈ s.targets, q.tag ∈ s.hart.unacked ∧ q.loc.isIo = true
  (∀ (o : BitVec 2) (c : Num3) (s : State), Ordered s o → (c = 7 → ¬ device s) →
    ∃ t, exec (.fence o c) s = .next t ∧ OnlyXWait s t ∧ Onward s t ∧ SameX s t) ∧
  (∀ (o : BitVec 2) (c : Num3) (s : State), ¬ Ordered s o ∨ c = 7 ∧ device s →
    ∃ t, exec (.fence o c) s = .next t ∧ t.hart.pc = s.hart.pc ∧ t.hart.run = .stalled ∧ OnlyXWait s t) ∧
  ∀ s : State, ∃ t, exec .yield s = .next t ∧ Onward s t ∧ t.hart.quiet = s.clock + 17 ∧
    t = { s with hart := { s.hart with pc := t.hart.pc, fbuf := t.hart.fbuf, quiet := t.hart.quiet } }

/-- R187: WAITW completes with a value that differs from x[b] in x[d], and sleeps at its own address while the word equals
x[b]. -/
def Sys2Proof.Claims.WaitwCompletesOnADifferentValue : Prop :=
  ∀ (d a b : Reg) (o : BitVec 2) (c : Num3) (s u : State) (loc : Loc),
    (s.rx a).toNat % 8 = 0 → s.xlateOnce (s.rx a).toNat .read = .ok (loc, u) → u.engineHolds loc = false → Readable u loc 8 →
    let v : Word := BitVec.ofNat 64 (numAt u loc 8)
    (v ≠ s.rx b → ∃ t, exec (.waitw d a b o c) s = .next t ∧ OnlyXLines u t ∧ Onward s t ∧ Wrote s t d v) ∧
    (v = s.rx b → ∃ t, exec (.waitw d a b o c) s = .next t ∧ OnlyXLines u t ∧ t.hart.pc = s.hart.pc ∧
      t.hart.run = .sleep ∧ SameX s t)

/-- R189: EXIT of a hart of a launch whose queues are empty ends the hart: no placed hart has its slot, the other harts
are as before, and its launch counts it as exited; on harts 0 to 15 it is illegal. -/
def Sys2Proof.Claims.ExitEndsTheHart : Prop :=
  (∀ s : State, 16 ≤ s.hart.hid → s.hart.unacked = [] →
    (∃ h ∈ s.parked, h.hid ≠ s.hart.hid) →
    ∃ t, exec .exit s = .next t ∧ t.placed = s.parked.filter (fun h => h.hid ≠ s.hart.hid) ∧ t.mem = s.mem ∧
      ∀ l, t.launch? s.hart.lid = some l → ∀ r, l.hs[s.hart.j]? = some r → r.pos = .exited) ∧
  ∀ s : State, s.hart.hid < 16 → exec .exit s = .next (takeTrap true 1 0x680000C0 0 s)

/-- R186 to R189: FENCE, YIELD, WAITW and EXIT. The model's choice, not a rule's: a hart that waits is stalled or asleep at
the same pc (log 10), and how the pickers go on is log 8. -/
def Obligations.SynchronisationInstructionsComplete : Prop :=
  FenceAndYieldComplete ∧ WaitwCompletesOnADifferentValue ∧ ExitEndsTheHart

/-- R190: BRK raises breakpoint and SYSCALL raises syscall, with code n as the trap value. Where the trap is delivered
(R386), TPC is the address of the instruction, TCAUSE its cause and TVAL its code. -/
def Obligations.SoftwareTrapsCarryTheirCode : Prop :=
  ∀ (n : BitVec 6) (s : State), let code : Word := BitVec.ofNat 64 n.toNat
    let names (t : State) (cause : Nat) : Prop := t.hart.tpc = BitVec.ofNat 64 (s.hart.pc.toNat % 2 ^ 57) ∧
      t.hart.tcause = BitVec.ofNat 64 (2 ^ 63 + cause) ∧ t.hart.tval = code
    exec (.brk n) s = .next (takeTrap true 0x0D code 0 s) ∧ exec (.syscall n) s = .next (takeTrap true 0x0C code 0 s) ∧
    (SuperMode s → names (takeTrap true 0x0D code 0 s) 0x0D ∧ names (takeTrap true 0x0C code 0 s) 0x0C) ∧
    ∀ l, TaskMode s → s.launch? s.hart.lid = some l → s.hart.active = false →
      names (takeTrap true 0x0C code 0 s) 0x0C ∧ (l.handler ≠ 0 → names (takeTrap true 0x0D code 0 s) 0x0D)

-- traps

/-- R386, R387, R385: where a trap goes and what its entry leaves, for a hart of supervisor mode and for a hart of a launch in
task mode; entry changes nothing but the registers that it names. -/
def Sys2Proof.Claims.TrapEntryFollowsTheDeliveryTable : Prop :=
  ∀ (sync : Bool) (code : Nat) (tval : Word) (suffix : Nat) (s : State),
    let t := takeTrap sync code tval suffix s
    (SuperMode s → OnlyTrap s t ∧ NamesTrap s t code tval suffix ∧ pmode t = true ∧ t.hart.super = true ∧
      SameStatusButModes s t ∧ t.hart.pc = s.hart.tvec) ∧
    ∀ l, TaskMode s → s.launch? s.hart.lid = some l → (s.hart.active && sync) = false →
      (code ∈ [0x04, 0x05, 0x08, 0x0C] → OnlyTrap s t ∧ NamesTrap s t code tval suffix ∧ pmode t = false ∧
        t.hart.super = true ∧ SameStatusButModes s t ∧ t.hart.pc = s.hart.tvec) ∧
      (code ∉ [0x04, 0x05, 0x08, 0x0C] → l.handler ≠ 0 → OnlyTrap s t ∧ NamesTrap s t code tval suffix ∧
        pmode t = false ∧ t.hart.super = false ∧ SameStatusButModes s t ∧ t.hart.pc = l.handler) ∧
      (code ∈ [0x01, 0x02, 0x03, 0x06, 0x07, 0x0A, 0x0B, 0x0D] → l.handler = 0 →
        t = s.endLaunch s.hart.lid 11 code s.hart.j tval.toNat)

/-- R387, R80: a synchronous trap of task mode while ACTIVE is 1 is not delivered; the launch ends as FAULTED (state 11) with
the nested cause, and no register of the hart that names a trap changes. -/
def Sys2Proof.Claims.NestedTrapsEndTheLaunch : Prop :=
  ∀ (code : Nat) (tval : Word) (suffix : Nat) (s : State) (l : Launch),
    TaskMode s → s.launch? s.hart.lid = some l → s.hart.active = true → isFinal l.state = false → l.ending = none →
    let t := takeTrap true code tval suffix s
    t.hart.tpc = s.hart.tpc ∧ t.hart.tcause = s.hart.tcause ∧ t.hart.tval = s.hart.tval ∧ t.hart.pc = s.hart.pc ∧
    ∀ m, t.launch? s.hart.lid = some m → (m.state = 3 ∧ m.ending = some 11 ∨ m.state = 11) ∧
      m.cause = code + 128 ∧ m.causeHart = s.hart.j ∧ m.causeValue = tval.toNat

/-- R386, R387: delivery, entry, and the nested trap. The model's choice, not a rule's: harts 0 to 15 take traps of task mode
at TVEC (log 17). -/
def Obligations.TrapsAreDeliveredAndEntered : Prop :=
  TrapEntryFollowsTheDeliveryTable ∧ NestedTrapsEndTheLaunch

/-- R192, R387: TRET in both modes, with what R387 adds; a TPC whose low bits are not zero raises misaligned at the
fetch of the target. -/
def Obligations.TretRestoresPcAndMode : Prop :=
  ∀ s : State, ∃ t, exec .tret s = .next t ∧
    t = { s with
      inbox := t.inbox
      hart := { s.hart with pc := t.hart.pc, fbuf := t.hart.fbuf, status := t.hart.status, tcause := t.hart.tcause } } ∧
    (∀ k, k < 64 → t.hart.pc.getLsbD k = s.hart.tpc.getLsbD (min k 56)) ∧
    (SuperMode s → t.hart.super = pmode s ∧ ∀ k, k ≠ 16 → t.hart.status.getLsbD k = s.hart.status.getLsbD k) ∧
    (TaskMode s → t.hart.status = s.hart.status) ∧
    t.hart.active = false ∧ (∀ k, k < 63 → t.hart.tcause.getLsbD k = s.hart.tcause.getLsbD k) ∧
    (s.hart.anyHeld = false → t.inbox = s.inbox) ∧
    (s.hart.tpc.toNat % 4 ≠ 0 → fetch t = .error (3, t.hart.pc))

/-- R191: every SYS operation but TRET raises Illegal Instruction in task mode, with its word as the trap value. -/
def Sys2Proof.Claims.SupervisorInstructionsTrapInTaskMode : Prop :=
  ∀ (i : Instr) (s : State), supervisorOnly i = true → TaskMode s →
    exec i s = .next (takeTrap true 1 ((encodeWord i).setWidth 64) 0 s)

/-- R194, R195, R401: TLBINV and ASW in supervisor mode. TLBINV waits while an access that a translation it drops has served is
not performed; then it leaves no translation that it names, of the module or of a host, and keeps the others: TLBINV.asid keeps G
entries. ASW waits while a store of the hart to a device or a host is unacknowledged, and sets ASID and PTROOT from the fields that
they store. -/
def Sys2Proof.Claims.TranslationControlCompletes : Prop :=
  ∀ s : State, SuperMode s →
    (∀ a b : Reg, Invalidates s (.tlbinvPage a b) (fun c => c.serves ((s.rx b).toNat % 65536) (s.rx a).toNat = true)
      fun e => (e.page ≤ (s.rx a).toNat / 4096 ∧ (s.rx a).toNat / 4096 < e.page + e.pages) ∧
        s.pairHas e.port e.pasid ((s.rx b).toNat % 65536) = true) ∧
    (∀ b : Reg, Invalidates s (.tlbinvAsid b) (fun c => c.leaf.testBit 8 = false ∧ c.asid = (s.rx b).toNat % 65536)
      fun e => s.pairHas e.port e.pasid ((s.rx b).toNat % 65536) = true) ∧
    Invalidates s .tlbinvAll (fun _ => True) (fun _ => True) ∧
    ∀ a b : Reg,
      (s.hart.unacked = [] → ∃ t, exec (.asw a b) s = .next t ∧ Onward s t ∧
        t = { s with hart := { s.hart with
          pc := t.hart.pc, fbuf := t.hart.fbuf, asid := t.hart.asid, ptroot := t.hart.ptroot, run := t.hart.run,
          replies := t.hart.replies, priDone := t.hart.priDone, begun := t.hart.begun } } ∧
        t.hart.asid = (s.rx a).toNat % 65536 ∧ t.hart.ptroot = s.rx b &&& 0x000FFFFFFFFFF000) ∧
      (s.hart.unacked ≠ [] → ∃ t, exec (.asw a b) s = .next t ∧ OnlyXWait s t ∧ SameX s t ∧ t.hart.pc = s.hart.pc ∧
        t.hart.run = .stalled)

/-- R193, R393: CTXSV in supervisor mode writes the hart's image, which resumes at the next word, to an aligned slot in
memory, and changes no other byte and no register; a misaligned slot raises misaligned. -/
def Sys2Proof.Claims.CtxsvWritesTheImage : Prop :=
  ∀ (a : Reg) (s : State), SuperMode s → s.hart.unacked = [] → MasksFree s → s.hart.begun.stored = 0 →
    ((s.rx a).toNat % 4096 ≠ 0 → exec (.ctxsv a) s = .next (takeTrap true 3 (s.rx a) 0 (s.withHart Hart.settled))) ∧
    ∀ gs u, Inv s → (s.rx a).toNat % 4096 = 0 → Spans s (s.rx a).toNat (slotSize s.hart.grant) .write gs u →
      Inside gs → Apart gs → Unheld s gs → (∀ g ∈ gs, Backed u g.loc) → s.hart.poison = [] →
      ∃ t, exec (.ctxsv a) s = .next t ∧ OnlyMemX u t ∧ Onward s t ∧ SameX s t ∧ t.hart.status = s.hart.status ∧
        t.segBytes gs = s.hart.image (s.hart.pc + 4) ∧
        ∀ p, stored p = true → (∀ g ∈ gs, within g.loc g.len p = false) → byteAt t p 0 = byteAt u p 0

/-- R193, R394: CTXLD in supervisor mode of a readable slot with a valid header loads its words, with the exceptions of the
rule, and writes no memory; a wrong header raises bad operand handle with x[a] before anything is loaded. `v` is the state once the
header has been read, which may have moved its lines. -/
def Sys2Proof.Claims.CtxldLoadsTheImage : Prop :=
  ∀ (a : Reg) (s u u' : State) (gs gs' : List Seg), SuperMode s → s.hart.unacked = [] → MasksFree s → (s.rx a).toNat % 4096 = 0 →
    Spans s (s.rx a).toNat 64 .read gs u → Inside gs → Unheld s gs → u.segsPoisoned gs = false →
    let head := u.segNat gs
    ∀ bs v, Act.pull gs none u = .ok bs v →
    (headerValid head s.hart.grant = false →
      exec (.ctxld a) s = .next (takeTrap true 2 (s.rx a) 0 (v.withHart Hart.settled))) ∧
    (headerValid head s.hart.grant = true →
      Spans v ((s.rx a).toNat + 64) (slotSize s.hart.grant - 64) .read gs' u' → Inside gs' →
      Unheld s gs' → u'.segsPoisoned gs' = false →
      ∃ t, exec (.ctxld a) s = .next t ∧ Onward s t ∧ t = { u' with hart := t.hart, coh := t.coh } ∧
        Loaded s t (head + u'.segNat gs' * 2 ^ 512))

/-- R191, R193 to R195: the supervisor instructions in supervisor mode, and their trap in task mode. The model's choice, not
a rule's: the address that CTXSV saves and the order in which CTXLD loads registers, VTYPE before VL (log 21), and that
translation caches hold used leaves until a TLBINV covers them and TLBINV waits stalled (log 10, log 14). -/
def Obligations.SupervisorInstructionsComplete : Prop :=
  SupervisorInstructionsTrapInTaskMode ∧ TranslationControlCompletes ∧ CtxsvWritesTheImage ∧ CtxldLoadsTheImage


-- control registers

/-- R196, R106: CRR, CRW, CRS and CRC complete where the mode has the right, with the old value in x[d]; a write stores
the fields of the register's map and changes no other register; CRS and CRC with a = 0 write nothing. -/
def Sys2Proof.Claims.ControlRegisterAccessesComplete : Prop :=
  ∀ (d a : Reg) (c : BitVec 12) (s : State),
    let n := c.toNat
    let old := cregRead s n
    (MayRead s n → ∃ t, exec (.crr d c) s = .next t ∧ OnlyX s t ∧ Onward s t ∧ Wrote s t d old) ∧
    (MayWrite s n → ∃ t, exec (.crw d a c) s = .next t ∧ OnlyControl s t ∧ Onward s t ∧ Wrote s t d old ∧
      ControlWritten s t n (s.rx a)) ∧
    (MayRead s n → ∃ t, exec (.crs d 0 c) s = .next t ∧ OnlyX s t ∧ Onward s t ∧ Wrote s t d old) ∧
    (MayRead s n → ∃ t, exec (.crc d 0 c) s = .next t ∧ OnlyX s t ∧ Onward s t ∧ Wrote s t d old) ∧
    (MayWrite s n → a ≠ 0 → ∃ t, exec (.crs d a c) s = .next t ∧ OnlyControl s t ∧ Onward s t ∧ Wrote s t d old ∧
      ControlWritten s t n (old ||| s.rx a)) ∧
    (MayWrite s n → a ≠ 0 → ∃ t, exec (.crc d a c) s = .next t ∧ OnlyControl s t ∧ Onward s t ∧ Wrote s t d old ∧
      ControlWritten s t n (old &&& ~~~ s.rx a))

/-- R106, R196, R388: an access that the mode has no right to raises Illegal Instruction with the word as trap value. -/
def Sys2Proof.Claims.ControlRegisterRightsAreChecked : Prop :=
  ∀ (d a : Reg) (c : BitVec 12) (s : State),
    (¬ MayRead s c.toNat →
      exec (.crr d c) s = .next (takeTrap true 1 ((encodeWord (.crr d c)).setWidth 64) 0 s) ∧
      exec (.crs d 0 c) s = .next (takeTrap true 1 ((encodeWord (.crs d 0 c)).setWidth 64) 0 s) ∧
      exec (.crc d 0 c) s = .next (takeTrap true 1 ((encodeWord (.crc d 0 c)).setWidth 64) 0 s)) ∧
    (¬ MayWrite s c.toNat →
      exec (.crw d a c) s = .next (takeTrap true 1 ((encodeWord (.crw d a c)).setWidth 64) 0 s) ∧
      (a ≠ 0 → exec (.crs d a c) s = .next (takeTrap true 1 ((encodeWord (.crs d a c)).setWidth 64) 0 s) ∧
        exec (.crc d a c) s = .next (takeTrap true 1 ((encodeWord (.crc d a c)).setWidth 64) 0 s)))

/-- R107 to R110, R74, R88, R234, R236: the events that are writes of a control register store its fields where the mode
has the right, and have no effect elsewhere; a read of STATUS has none. -/
def Sys2Proof.Claims.ControlRegisterEventsStoreFields : Prop :=
  (∀ (i : Instr) (n : Nat) (v : Word) (s : State), writeEvent i = some (n, v) →
    (MayWrite s n → ∃ t, exec i s = .next t ∧ OnlyControl s t ∧ SameX s t ∧ t.hart.pc = s.hart.pc ∧
      ControlWritten s t n v) ∧
    (¬ MayWrite s n → exec i s = .next s)) ∧
  ∀ s : State, exec (.statusAccess none) s = .next s

/-- R106 to R110, R196: CRR, CRW, CRS and CRC complete or trap by their rights, and the events that are writes of a register
complete: STATUS_ACCESS, VTYPE_WRITE, VL_WRITE, SLIP_WRITE, SEED_WRITE, DSEED_WRITE, RMIN_WRITE, MTYPE_WRITE, MVL_WRITE,
SPBASE_WRITE and CONTROL_REGISTER_WRITE. The model's choice, not a rule's: a write of VL or SLIP takes the bits of its field
before the limit, and one of SPBASE clears bits 21 to 0 (log 21), and the events that are writes act for the acting hart and
leave the pc (log 59). -/
def Obligations.ControlRegistersFollowTheirMaps : Prop :=
  ControlRegisterAccessesComplete ∧ ControlRegisterRightsAreChecked ∧ ControlRegisterEventsStoreFields


-- configuration

/-- R212, R213: VSETVL and VSETTYPE with no grant pending complete: VL and x[d] become the request within the capacity of the
new VTYPE, VSTART becomes 0, and a VTYPE that is not admitted is illegal. -/
def Sys2Proof.Claims.VectorConfigurationSetsVl : Prop :=
  ∀ (d a b : Reg) (s : State), s.hart.target = none →
    (∃ t, exec (.vsetvl d a) s = .next t ∧ OnlyConfig s t ∧ Onward s t ∧ t.hart.vstart = 0 ∧
      t.hart.vtype = s.hart.vtype ∧ t.hart.vl = min (s.rx a).toNat (maxVl s.hart.vtype s.hart.grant) ∧
      Wrote s t d (BitVec.ofNat 64 t.hart.vl)) ∧
    (AdmittedType (s.rx b) → ∃ t, exec (.vsetvlB d a b) s = .next t ∧ OnlyConfig s t ∧ Onward s t ∧
      t.hart.vstart = 0 ∧ t.hart.vtype = s.rx b ∧ t.hart.vl = min (s.rx a).toNat (maxVl (s.rx b) s.hart.grant) ∧
      Wrote s t d (BitVec.ofNat 64 t.hart.vl)) ∧
    (AdmittedType (s.rx a) → ∃ t, exec (.vsettype d a) s = .next t ∧ OnlyConfig s t ∧ Onward s t ∧
      t.hart.vstart = 0 ∧ t.hart.vtype = s.rx a ∧ t.hart.vl = min s.hart.vl (maxVl (s.rx a) s.hart.grant) ∧
      Wrote s t d (BitVec.ofNat 64 t.hart.vl)) ∧
    (¬ AdmittedType (s.rx b) →
      exec (.vsetvlB d a b) s = .next (takeTrap true 1 ((encodeWord (.vsetvlB d a b)).setWidth 64) 0 s)) ∧
    (¬ AdmittedType (s.rx a) →
      exec (.vsettype d a) s = .next (takeTrap true 1 ((encodeWord (.vsettype d a)).setWidth 64) 0 s))

/-- R92: VSETVL, and the event GRANT_APPLY of a hart about to execute one, make a pending grant the hart's own: elements
below both capacities keep their values under the width in force, the rest of a larger register is zero, and VL stays within the
capacity. -/
def Sys2Proof.Claims.GrantApplicationKeepsTheCommonElements : Prop :=
  ∀ (s : State) (g : Nat), s.hart.target = some g → s.hart.poison = [] → s.hart.ew ≤ 4 →
    ((∃ w s' d a, fetch s = .ok (w, s') ∧
      (w = encodeWord (.vsetvl d a) ∨ ∃ b, w = encodeWord (.vsetvlB d a b) ∧ AdmittedType (s.rx b))) →
    ∃ t, exec (.grantApply s.hart.hid) s = .next t ∧
      t.hart.grant = g ∧ t.hart.target = none ∧ t.hart.pc = s.hart.pc ∧ SameX s t ∧ t.mem = s.mem ∧
      t.hart.vl = min s.hart.vl (maxVl s.hart.vtype g) ∧ t.hart.k = s.hart.k ∧
      ∀ r p, r < 32 → p < t.hart.cfg.per →
        regElem t.hart.cfg (t.hart.vreg r) p =
          if p < s.hart.cfg.per then regElem s.hart.cfg (s.hart.vreg r) p else 0) ∧
    ∀ d a : Reg, ∃ t, exec (.vsetvl d a) s = .next t ∧ t.hart.grant = g ∧ Onward s t ∧
      t.hart.vl = min (s.rx a).toNat (maxVl s.hart.vtype g) ∧ Wrote s t d (BitVec.ofNat 64 t.hart.vl)

/-- R237, R236: MXMODE completes: it stores rows and columns within 32, writes MVL to x[d], and changes MTYPE with every tile
cleared when the type differs; a type above 8 is illegal. MTYPE_CHANGE does the last for a hart about to execute it. -/
def Sys2Proof.Claims.MxmodeSetsShapeAndType : Prop :=
  ∀ (d a b : Reg) (s : State),
    ((s.rx b).toNat ≤ 8 → ∃ t, exec (.mxmode d a b) s = .next t ∧ Onward s t ∧
      t = { s with hart := { s.hart with
        x := t.hart.x, pc := t.hart.pc, fbuf := t.hart.fbuf, mrows := t.hart.mrows, mcols := t.hart.mcols,
        ifmt := t.hart.ifmt, acc := t.hart.acc, poison := t.hart.poison } } ∧
      t.hart.mrows = min ((s.rx a).toNat % 65536) 32 ∧ t.hart.mcols = min ((s.rx a).toNat / 65536 % 65536) 32 ∧
      t.hart.ifmt = (s.rx b).toNat ∧ Wrote s t d (BitVec.ofNat 64 (t.hart.mrows + 256 * t.hart.mcols)) ∧
      (s.hart.ifmt = (s.rx b).toNat → t.hart.acc = s.hart.acc) ∧
      (s.hart.ifmt ≠ (s.rx b).toNat → t.hart.acc = Vector.replicate 4 0)) ∧
    (8 < (s.rx b).toNat →
      exec (.mxmode d a b) s = .next (takeTrap true 1 ((encodeWord (.mxmode d a b)).setWidth 64) 0 s)) ∧
    ∀ s', fetch s = .ok (encodeWord (.mxmode d a b), s') → (s.rx b).toNat ≤ 8 →
      ∃ t, exec (.mtypeChange s.hart.hid (s.rx b)) s = .next t ∧ t.hart.pc = s.hart.pc ∧ SameX s t ∧
        t.hart.ifmt = (s.rx b).toNat ∧ (s.hart.ifmt ≠ (s.rx b).toNat → t.hart.acc = Vector.replicate 4 0)

/-- R92, R211 to R213, R236, R237: VSETVL, VSETTYPE and MXMODE complete; the events GRANT_APPLY and MTYPE_CHANGE of a hart
that is about to execute VSETVL or MXMODE complete, each with its own effect. The model's choice, not a rule's: GRANT_APPLY
and MTYPE_CHANGE as events of their own leave the pc (log 59). -/
def Obligations.ConfigurationInstructionsComplete : Prop :=
  VectorConfigurationSetsVl ∧ GrantApplicationKeepsTheCommonElements ∧ MxmodeSetsShapeAndType


-- the launch unit

/-- R198, R32, R69, R415: LAUNCH with the right and with no verification begun answers in x[d]: REASON 1 with DETAIL 0 for a
misaligned card, the refusal that the checks give, or the id of the launch, which is then entered; without the right it
raises access fault. After boot has stopped it refuses every card with REASON 0x0A and DETAIL 1. -/
def Sys2Proof.Claims.LaunchAnswersWithItsStatusWord : Prop :=
  ∀ (d a : Reg) (s : State),
    (¬ MayLaunch s → exec (.launch d a) s = .next (takeTrap true 6 0 0 s)) ∧
    (MayLaunch s → s.myVerif = none → (s.rx a).toNat % 256 ≠ 0 → s.svc.bootStopped = false →
      ∃ t, exec (.launch d a) s = .next t ∧ OnlyX s t ∧ Onward s t ∧ Wrote s t d 0x8000000000010000) ∧
    (MayLaunch s → s.myVerif = none → s.svc.bootStopped = true →
      ∃ t, exec (.launch d a) s = .next t ∧ OnlyLaunchUnit { s with mem := t.mem } t ∧ Onward s t ∧
        t.lu.launches = s.lu.launches ∧ Wrote s t d 0x80000000000A0001) ∧
    ∀ c u, MayLaunch s → s.myVerif = none → s.readCard (s.rx a).toNat = .ok (c, u) →
      (∀ r x, u.consider u.caller c none = .refused r x →
        ∃ t, exec (.launch d a) s = .next t ∧ OnlyLaunchUnit u t ∧ Onward s t ∧ t.lu.launches = u.lu.launches ∧
          Wrote s t d (BitVec.ofNat 64 (2 ^ 63 + r % 256 * 2 ^ 16 + x % 2 ^ 16))) ∧
      ∀ l, u.consider u.caller c none = .accepted l →
        ∃ t, exec (.launch d a) s = .next t ∧ OnlyLaunchUnit (u.placeRecord l).2 t ∧ Onward s t ∧
          Wrote s t d (BitVec.ofNat 64 (2 ^ 62 + l.lid * 2 ^ 32 + l.bound % 2 ^ 32)) ∧
          t.lu.nextLid = u.lu.nextLid + 1

/-- R199, R200: LSTAT and LCANCEL complete. LSTAT writes KNOWN with the state of a launch that the hart sees, else 0; LCANCEL
writes 2, 1 or 0, and with 0 the launch ends as CANCELLED unless another stop came first. -/
def Sys2Proof.Claims.LstatAndLcancelWriteTheirResult : Prop :=
  ∀ (d a : Reg) (s : State) (l : Launch),
    (IsLaunch s (s.rx a).toNat l → Sees s l →
      ∃ t, exec (.lstat d a) s = .next t ∧ OnlyX s t ∧ Onward s t ∧ Wrote s t d (BitVec.ofNat 64 (256 + l.state))) ∧
    (s.launch? (s.rx a).toNat = none ∨ IsLaunch s (s.rx a).toNat l ∧ ¬ Sees s l →
      ∃ t, exec (.lstat d a) s = .next t ∧ OnlyX s t ∧ Onward s t ∧ Wrote s t d 0) ∧
    (s.launch? (s.rx a).toNat = none ∨ IsLaunch s (s.rx a).toNat l ∧ ¬ (Sees s l ∧ MayCancel s (s.rx a).toNat) →
      ∃ t, exec (.lcancel d a) s = .next t ∧ OnlyX s t ∧ Onward s t ∧ Wrote s t d 2) ∧
    (IsLaunch s (s.rx a).toNat l → Sees s l → MayCancel s (s.rx a).toNat → isFinal l.state = true →
      ∃ t, exec (.lcancel d a) s = .next t ∧ OnlyX s t ∧ Onward s t ∧ Wrote s t d 1) ∧
    (IsLaunch s (s.rx a).toNat l → Sees s l → MayCancel s (s.rx a).toNat → isFinal l.state = false →
      ∃ t, exec (.lcancel d a) s = .next t ∧ Onward s t ∧ Wrote s t d 0 ∧ t.mem = s.mem ∧
        (l.ending = none → Ending t (s.rx a).toNat 10))

/-- R198 to R200: LAUNCH, LSTAT and LCANCEL. The model's choice, not a rule's: after boot has stopped every card is refused
first with 0x0A (log 24), and other corners of the checks are log 25 and log 68. -/
def Obligations.LaunchUnitInstructionsAnswer : Prop :=
  LaunchAnswersWithItsStatusWord ∧ LstatAndLcancelWriteTheirResult

/-- R97, R201, R202: a FARM by the last hart to arrive opens the loop and goes on; one with others still to arrive is
recorded and waits; one of a generation whose loop is open completes at once; operands that break a check, or differ from those of
the first arrival, trap with the value of the operand and are not recorded. STRIP hands out the strips in order, and
writes its start before its length. -/
def Sys2Proof.Claims.FarmsHandOutStripsInOrder : Prop :=
  (∀ (a b : Reg) (s : State), FarmExists s → s.hart.unacked = [] → s.myFarm.gen ≤ s.hart.farmGen →
    s.hart.j ∉ s.myFarm.arrived →
    let n := (s.rx a).toNat
    let l := (s.rx b).toNat
    (Farmable n l → Agree s.myFarm n l →
      (LastToArrive s → ∃ t, exec (.farm a b) s = .next t ∧ OnlyFarm s t ∧ Onward s t ∧ SameX s t ∧
        t.hart.farmGen = s.hart.farmGen + 1 ∧ t.myFarm.gen = s.myFarm.gen + 1 ∧ t.myFarm.n = n ∧ t.myFarm.l = l ∧
        t.myFarm.next = 0 ∧ t.myFarm.deposits = []) ∧
      (¬ LastToArrive s → ∃ t, exec (.farm a b) s = .next t ∧ OnlyFarm s t ∧ t.hart.pc = s.hart.pc ∧ SameX s t ∧
        t.hart.run = .stalled ∧ s.hart.j ∈ t.myFarm.arrived)) ∧
    (l = 0 → exec (.farm a b) s = .next (takeTrap true 2 (s.rx b) 0 s)) ∧
    (1 ≤ l → 2 ^ 24 < (n + l - 1) / l → exec (.farm a b) s = .next (takeTrap true 2 (s.rx a) 0 s)) ∧
    (Farmable n l → s.myFarm.arrived ≠ [] → n ≠ s.myFarm.arrN → exec (.farm a b) s = .next (takeTrap true 2 (s.rx a) 0 s)) ∧
    (Farmable n l → s.myFarm.arrived ≠ [] → n = s.myFarm.arrN → l ≠ s.myFarm.arrL →
      exec (.farm a b) s = .next (takeTrap true 2 (s.rx b) 0 s))) ∧
  (∀ (a b : Reg) (s : State), FarmExists s → s.hart.unacked = [] → s.hart.farmGen < s.myFarm.gen →
    Farmable (s.rx a).toNat (s.rx b).toNat → (s.rx a).toNat = s.myFarm.n → (s.rx b).toNat = s.myFarm.l →
    ∃ t, exec (.farm a b) s = .next t ∧ OnlyFarm s t ∧ Onward s t ∧ SameX s t ∧ t.hart.farmGen = s.hart.farmGen + 1 ∧
      t.myFarm = s.myFarm) ∧
  ∀ (d a : Reg) (s : State), FarmExists s →
    let f := s.myFarm
    (f.gen = 0 → ∃ t, exec (.strip d a) s = .next t ∧ OnlyFarm s t ∧ Onward s t ∧
      ∀ r : Reg, t.rx r = if r = a ∨ r = d then 0 else s.rx r) ∧
    (f.gen ≠ 0 → f.next < (f.n + f.l - 1) / f.l → ∃ t, exec (.strip d a) s = .next t ∧ OnlyFarm s t ∧ Onward s t ∧
      t.myFarm.next = f.next + 1 ∧
      ∀ r : Reg, t.rx r = if r = 0 then 0 else if r = a then BitVec.ofNat 64 (min f.n (f.next * f.l + f.l) - f.next * f.l)
        else if r = d then BitVec.ofNat 64 (f.next * f.l) else s.rx r) ∧
    (f.gen ≠ 0 → (f.n + f.l - 1) / f.l ≤ f.next → ∃ t, exec (.strip d a) s = .next t ∧ OnlyFarm s t ∧ Onward s t ∧
      t.myFarm.next = f.next ∧
      ∀ r : Reg, t.rx r = if r = 0 then 0 else if r = a then 0 else if r = d then BitVec.ofNat 64 f.n else s.rx r)

/-- R98, R163, R203: the four FARMRED operations. A call for a strip deposits its partial and writes 0; the call with x[b] = N
completes once every partial is deposited, with the sum, minimum or maximum over the strips in order, by the tree of R163, and waits
before that. Every other call traps as a bad operand handle and deposits nothing. -/
def Sys2Proof.Claims.FarmReductionsCombineEveryStrip : Prop :=
  ∀ (i : Instr) (s : State) (op : Nat) (d a b : Reg), farmredForm i = some (op, d, a, b) → FarmExists s →
    let f := s.myFarm
    let x := (s.rx b).toNat
    (f.gen = 0 ∨ (∃ o, f.op = some o ∧ o ≠ op) ∨ f.n < x ∨ x < f.n ∧ (x % f.l ≠ 0 ∨ ∃ p ∈ f.deposits, p.1 = x / f.l) →
      exec i s = .next (takeTrap true 2 (s.rx b) 0 s)) ∧
    (f.gen ≠ 0 → f.op = none ∨ f.op = some op →
    (x < f.n → x % f.l = 0 → (∀ p ∈ f.deposits, p.1 ≠ x / f.l) →
      ∃ t, exec i s = .next t ∧ OnlyFarm s t ∧ Onward s t ∧ Wrote s t d 0 ∧ t.hart.status = s.hart.status ∧
        t.myFarm.deposits = f.deposits ++ [(x / f.l, s.rx a)]) ∧
    (∀ xs, x = f.n → AllDeposited f xs → ∃ t fl w, exec i s = .next t ∧ OnlyFarm s t ∧ Onward s t ∧ Wrote s t d w ∧
      Raised s t fl ∧ (op = 3 → fl = 0 ∧ w = xs.foldl (· + ·) 0) ∧ (op ≠ 3 → FarmFold op xs w fl)) ∧
    (x = f.n → (¬ ∃ xs, AllDeposited f xs) → ∃ t, exec i s = .next t ∧ OnlyFarm s t ∧ t.hart.pc = s.hart.pc ∧ SameX s t ∧
      t.hart.run = .stalled))

/-- R97, R98, R201 to R203: FARM, STRIP and FARMRED. The model's choice, not a rule's: a hart that waits is stalled at the
same pc (log 10), harts 0 to 15 have farms of one (log 17), and the trap value of a FARMRED of another operation is x[b] (log
75). -/
def Obligations.StripFarmsServeEveryStripOnce : Prop :=
  FarmsHandOutStripsInOrder ∧ FarmReductionsCombineEveryStrip

/-- R36, R37, R79, R85, R90, R106: LAUNCH_START of the first ready launch, with its data copied and a slot free, makes it
running; its hart 0 is placed at the entry with the argument, its index, the number of harts and the data area in x10 to
x13, and VL 0. A launch that is not ready stays as it is. -/
def Sys2Proof.Claims.LaunchStartPlacesItsHarts : Prop :=
  ∀ (lid : Nat) (s u : State) (l : Launch), IsLaunch s lid l → l.lid = lid →
    (l.state ≠ 1 → exec (.launchStart lid) s = .next s) ∧
    (l.state = 1 → s.svc.power = .run → s.isNext l = true → (s.slotOf l 0).isSome = true → 1 ≤ l.harts → s.copyData l = .ok u →
      ∃ t, exec (.launchStart lid) s = .next t ∧ t.mem = u.mem ∧ t.hart = s.hart ∧
        (∀ m, t.launch? lid = some m → m.state = 2) ∧ HasPos t lid 0 .placed ∧
        ∃ h ∈ t.parked, h.lid = lid ∧ h.j = 0 ∧ h.pc = BitVec.ofNat 64 (l.image + l.entry) ∧ h.vl = 0 ∧
          h.x[10] = l.arg ∧ h.x[11] = 0 ∧ h.x[12] = BitVec.ofNat 64 l.harts ∧ h.x[13] = BitVec.ofNat 64 l.data ∧
          h.seed = l.seed ∧ h.super = false ∧ l.gmin ≤ h.grant)

/-- R29, R30, R40, R41: IMAGE_VERIFICATION_DONE, which first releases the image entries that the supervisor names and no launch
refers to, records the outcome for the LAUNCH that waits, and forgets a verification that none waits for; PREREQ_WORD_MET
marks an entry whose word has reached its value; PREREQ_UNREADABLE ends the launch as PREFAIL with the entry's number and word. -/
def Sys2Proof.Claims.PrerequisitesAndVerificationSettle : Prop :=
  (∀ (hid : Nat) (releases : List Nat) (s : State) (v : Verification),
    (s.lu.verifs.find? fun v => v.hid = hid ∧ v.outcome.isNone) = some v →
    ∃ t, exec (.imageVerificationDone ⟨hid, releases⟩) s = .next t ∧ t.hart = s.hart ∧
      ((∃ h ∈ s.placed, h.begun.verif = some v.id) → (∃ w ∈ t.lu.verifs, w.id = v.id) ∧ ∀ w ∈ t.lu.verifs, w.id = v.id →
        w.outcome = some ((s.releaseImages releases).verifyImage v.port v.pasid v.addr).1) ∧
      ((∀ h ∈ s.placed, h.begun.verif ≠ some v.id) → ∀ w ∈ t.lu.verifs, w.id ≠ v.id)) ∧
  (∀ (lid j : Nat) (s u : State) (l : Launch) (p : Prereq) (x : Nat), s.openPre lid j = some (l, p) →
    s.preWord l p = some (x, u) → p.value ≤ x →
    ∃ t, exec (.prereqWordMet lid j) s = .next t ∧ t.hart = s.hart ∧ t.mem = u.mem ∧
      ∀ m q, t.launch? lid = some m → m.pre[j]? = some q → q.met = true) ∧
  ∀ (lid j : Nat) (s : State) (l : Launch) (p : Prereq), s.openPre lid j = some (l, p) → s.preWord l p = none →
    ∃ t, exec (.prereqUnreadable lid j) s = .next t ∧ t.hart = s.hart ∧ t.mem = s.mem ∧ Ended t lid 12 j ∧
      ∀ m, t.launch? lid = some m → m.causeValue = p.word

/-- R81, R82, R86, R386, R413: PROMISE_EXPIRY of a launch that is not on its way to that end ends it as DELIVFAIL with cause 3 when its
time has passed and 2 when the retries and migrations of a hart of it have used up its allowance, and as FAULTED with the cause of a trap that its hart's
supervisor handler cannot resolve; REFIT ends with cause 1 a launch whose reservation no pool of a die can hold any more. -/
def Sys2Proof.Claims.BrokenPromisesEndAsDeliveryFailures : Prop :=
  (∀ s : State, ∃ t, exec .refit s = .next t ∧ t.mem = s.mem) ∧
  ∀ (lid : Nat) (s : State) (l : Launch), IsLaunch s lid l → isFinal l.state = false → l.ending ≠ some 13 →
    (∀ m, l.tmet = some m → m + l.bound * 4096 ≤ s.clock →
      ∃ t, exec (.promiseExpiry ⟨lid, .expired⟩) s = .next t ∧ t.mem = s.mem ∧ (l.lid = lid → Ended t lid 13 3)) ∧
    (l.state = 2 → s.pastAllowance l = true → ∃ t, exec (.promiseExpiry ⟨lid, .allowance⟩) s = .next t ∧ t.mem = s.mem ∧ (l.lid = lid → Ended t lid 13 2)) ∧
    (∀ hid h, s.hart? hid = some h → h.lid = l.lid → l.lid = lid → l.ending = none → h.super = true → h.active = true →
      h.tcause.toNat % 256 ∈ [0x04, 0x05, 0x0C] →
      ∃ t, exec (.promiseExpiry ⟨lid, .unresolved hid⟩) s = .next t ∧ t.mem = s.mem ∧ Ending t lid 11) ∧
    (l.lid = lid → l.cls < 4 → l.state ≠ 0 → (∃ d, d < 4 ∧ s.svc.units.pool d < 8 * l.gmin * l.harts) →
      ∃ t, exec .refit s = .next t ∧ t.mem = s.mem ∧ Ended t lid 13 1)

/-- R412 to R414: the completion record of a final launch none of whose operations runs is written once, MAGIC and state
where the card asks for it; the notice then sends the card's vector on its port. -/
def Sys2Proof.Claims.CompletionRecordAndNotice : Prop :=
  (∀ (lid a : Nat) (sy : Bool) (s : State) (l : Launch), Inv s → IsLaunch s lid l → isFinal l.state = true →
    l.recordDone = false → s.working lid = false → l.complAt = [⟨.dev a sy, 64⟩] → l.state < 256 →
    ∃ t, exec (.completionRecordWrite lid) s = .next t ∧ t.hart = s.hart ∧ SameOutside s t (.dev a sy) 64 ∧
      numAt t (.dev a sy) 4 = 0x504D4F43 ∧ byteAt t (.dev a sy) 4 = BitVec.ofNat 8 l.state ∧
      numAt t (.dev (a + 8) sy) 8 = l.lid % 2 ^ 64 ∧
      (l.lid = lid → ∀ m, t.launch? lid = some m → m.recordDone = true)) ∧
  ∀ (lid : Nat) (s : State) (l : Launch), IsLaunch s lid l → l.recordDone = true → l.noticed = false → l.note ≠ 0xFFFF →
    ∃ t, exec (.hostNotice lid) s = .next t ∧ t.outbox = s.outbox ++ [.msix l.port l.note] ∧ t.hart = s.hart ∧
      t.mem = s.mem ∧ ∀ m, t.launch? lid = some m → m.noticed = true

/-- R80 to R82, R412 to R414: PROMISE_EXPIRY, REFIT, COMPLETION_RECORD_WRITE and HOST_NOTICE complete. The model's choice,
not a rule's: HART and VALUE of delivery failures (log 28), the clock of PROMISE_EXPIRY (log 9), that each hart has the
allowance of R75 for itself (log 67), and that the ends which the firmware decides come with it (log 1). -/
def Obligations.LaunchesEndWithTheirRecord : Prop :=
  BrokenPromisesEndAsDeliveryFailures ∧ CompletionRecordAndNotice

/-- R66, R68: HANDLE_POSTED_SLOT of the lowest posted slot clears its bit, writes its cookie beside the status word, and
sends the port's vector; a slot that is not the lowest posted one is left alone. -/
def Sys2Proof.Claims.PostedSlotsAreAnsweredInOrder : Prop :=
  ∀ (port slot : Nat) (s : State), Inv s → port < 2 → slot < 64 → (s.postmap port).testBit slot = true →
    (s.postmap port % 2 ^ slot ≠ 0 → exec (.handlePostedSlot port slot) s = .next s) ∧
    (s.postmap port % 2 ^ slot = 0 → port = 0 ∨ s.postmap 0 = 0 →
      let b := Config.bar0 port
      let s1 := s.setWord (.dev (b + 0x4600) false) (s.postmap port - 2 ^ slot)
      (∀ k, s1.linePoisoned k = false) → ∀ w u, postedStatus port (s1.memNat (b + 256 * slot) 256) s1 = (w, u) →
        (∀ k, b + 0x4000 ≤ k → k < b + 0x460A → cellAt u.mem k = cellAt s1.mem k) →
        ∃ t, exec (.handlePostedSlot port slot) s = .next t ∧ t.hart = s.hart ∧
          t.postmap port = s.postmap port - 2 ^ slot ∧ t.memNat (b + 0x4200 + 16 * slot) 8 = w.toNat ∧
          t.memNat (b + 0x4200 + 16 * slot + 8) 8 = s.memNat (b + 0x4000 + 8 * slot) 8 ∧
          (s.memNat (b + 0x4608) 2 ≠ 0xFFFF → .msix port (s.memNat (b + 0x4608) 2) ∈ t.outbox))

/-- R29, R36, R37, R40, R41, R66, R68: LAUNCH_START, IMAGE_VERIFICATION_DONE, PREREQ_WORD_MET, PREREQ_UNREADABLE and
HANDLE_POSTED_SLOT complete. The model's choice, not a rule's: BAR0 of a port lies where Config places it (log 5), slots for
class 3 are chosen as log 27 says, which fault a copy of the data section reports is log 60, and releases of image entries
come with the event (log 1). -/
def Obligations.LaunchesStartFromTheirCards : Prop :=
  LaunchStartPlacesItsHarts ∧ PrerequisitesAndVerificationSettle ∧ PostedSlotsAreAnsweredInOrder


-- placed harts

/-- R144, R170, R389, R392: HART_STOP of a hart with a stop requested completes: a pre-emption or a migration holds the hart for
saving, its registers as they are, and with its launch ending the hart leaves its slot as ended; a stop that falls within its next
instruction has the granules before it issue first. An instruction that is under way at a device or a host comes before any stop. -/
def Sys2Proof.Claims.HartStopHoldsOrEndsTheHart : Prop :=
  ∀ (hid : Nat) (s : State) (h : Hart), s.hart? hid = some h →
    (h.stop = some .preempt ∨ h.stop = some .migrate → h.run ≠ .swap → s.midway h = false →
      ∃ t, exec (.hartStop hid) s = .next t ∧ t.mem = s.mem ∧ CutShort s t h ∧
        (StopsNow s h → t.inbox = s.inbox ++ [.hartSaveDone hid] ∧
          t.hart? hid = some { h with
            replies := [], waitTag := none, pri := none, priDone := none, exiting := false, cut := none, begun := Begun.fresh,
            run := .swap, target := none, budget := s.budgetLeft h })) ∧
    (h.stop = some .ended → h.run = .swap ∨ s.midway h = false →
      ∃ t, exec (.hartStop hid) s = .next t ∧ t.mem = s.mem ∧ CutShort s t h ∧
        (StopsNow s h → LeftSlot s t hid ∧ HasPos t h.lid h.j .exited)) ∧
    (h.stop = none ∨ h.run ≠ .swap ∧ s.midway h = true → exec (.hartStop hid) s = .next s)

/-- R392, R393: HART_SAVE_DONE of a hart held for saving writes its image to its save slot, and the hart leaves its slot
as saved; a slot that cannot be written ends the launch as FAULTED. -/
def Sys2Proof.Claims.HartSaveWritesTheImage : Prop :=
  ∀ (hid : Nat) (s : State) (h : Hart) (l : Launch), s.hart? hid = some h → IsLaunch s h.lid l → h.run = .swap →
    h.arriving = false → h.stop ≠ some .ended → s.performed h.unacked = true → h.begun.stored = 0 →
    (∀ gs u, Inv s → s.spanPair l.port l.pasid (l.slotOf h.j) (slotSize h.grant) .write = .ok (gs, u) → Inside gs →
      Apart gs → h.poison = [] →
      ∃ t, exec (.hartSaveDone hid) s = .next t ∧ t.segBytes gs = h.image h.pc ∧ LeftSlot s t hid ∧
        HasPos t h.lid h.j .saved ∧
        ∀ p, stored p = true → (∀ g ∈ gs, within g.loc g.len p = false) → byteAt t p 0 = byteAt u p 0) ∧
    (∀ code va, s.spanPair l.port l.pasid (l.slotOf h.j) (slotSize h.grant) .write = .error (code, va) →
      isFinal l.state = false → l.ending = none →
      ∃ t, exec (.hartSaveDone hid) s = .next t ∧ t.mem = s.mem ∧ Ending t h.lid 11)

/-- R91, R393, R394: HART_RESTORE of a saved hart whose slot is valid and names it places it, for a launch in Run with a
slot free, with the registers that the slot holds; a slot that fails a check ends the launch as FAULTED. -/
def Sys2Proof.Claims.HartRestoreReadsTheImage : Prop :=
  ∀ (lid j hid : Nat) (s u u' : State) (l : Launch) (r : LHart) (gs hdr : List Seg), IsLaunch s lid l → l.lid = lid →
    l.hs[j]? = some r → l.state = 2 → l.ending = none → s.svc.power = .run → r.pos = .saved →
    s.slotOf l j = some hid → r.lostGrant = false →
    s.spanPair l.port l.pasid (l.slotOf j) (slotSize r.grant) .read = .ok (gs, u') →
    u'.spanPair l.port l.pasid (l.slotOf j) 32 .write = .ok (hdr, u) →
    let x := u.segNat gs
    let good := !u.segsPoisoned gs && headerValid x r.grant && headerNames x lid j
    (good = true → ∃ t, exec (.hartRestore lid j) s = .next t ∧ t.hart = s.hart ∧ HasPos t lid j .placed ∧
      ∃ h ∈ t.parked, h.hid = hid ∧ h.lid = lid ∧ h.j = j ∧ h.grant = r.grant ∧ h.pc = slotWord x 0x200 ∧
        h.tpc = slotWord x 0x248 ∧ h.seed = slotWord x 0x238 ∧ h.tval = slotWord x 0x258 ∧
        (h.status.getLsbD 16 = (slotWord x 0x240).getLsbD 16) ∧ (h.status.getLsbD 17 = (slotWord x 0x240).getLsbD 17) ∧
        (∀ k : Fin 32, k ≠ 0 → h.x[k] = slotWord x (0x100 + 8 * k)) ∧ h.budget = r.budget) ∧
    (good = false → ∃ t, exec (.hartRestore lid j) s = .next t ∧ Ending t lid 11)

/-- R91, R144, R392 to R394: the events HART_STOP, HART_SAVE_DONE and HART_RESTORE complete: a hart is stopped, saved, and
placed again with what its slot holds. The model's choice, not a rule's: after how many granules a stop falls is a free value
(log 2), and HART of a failed save is 0xFFFF (log 28). -/
def Obligations.HartsStopSaveAndResume : Prop :=
  HartStopHoldsOrEndsTheHart ∧ HartSaveWritesTheImage ∧ HartRestoreReadsTheImage

/-- R387, R389: HELD_EVENT_TAKE at a boundary of the acting hart takes one held event, the refusal first, then the budget, then
the membership change; while ACTIVE is 1, and while an instruction is under way at a device or a host, none is taken. -/
def Sys2Proof.Claims.HeldEventsAreTakenInOrder : Prop :=
  (∀ s : State, s.midway s.hart = true → exec (.heldEventTake s.hart.hid) s = .next s) ∧
  ∀ s : State, s.hart.run ≠ .swap → s.hart.stop = none → s.midway s.hart = false →
    let e := exec (.heldEventTake s.hart.hid) s
    (s.hart.active = true → e = .next s) ∧
    (s.hart.active = false → ∀ w, s.hart.heldRefusal = some w →
      e = .next (takeTrap false 6 w s.boundarySuffix { s with hart := { s.hart with heldRefusal := none } })) ∧
    (s.hart.active = false → s.hart.heldRefusal = none → ∀ v, s.hart.heldBudget = some v →
      e = .next (takeTrap false 9 (BitVec.ofNat 64 v) s.boundarySuffix
        { s with hart := { s.hart with heldBudget := none } })) ∧
    (s.hart.active = false → s.hart.heldRefusal = none → s.hart.heldBudget = none → ∀ w, s.hart.heldMember = some w →
      ∃ n, e = .next (takeTrap false 10 w s.boundarySuffix
        { s with hart := { s.hart with heldMember := none, viewnote := n } })) ∧
    (s.hart.active = false → s.hart.heldRefusal = none → s.hart.heldBudget = none → s.hart.heldMember = none →
      e = .next s)

/-- R38, R73, R74, R76: STRETCH_PREEMPTION requests a stop of a hart that need not keep its slot, and of no other; ISSUE_BUDGET_EXHAUSTED of a hart with no clocks left holds a
budget event for it, with the grace where the launch has a handler; BUDGET_GRACE_EXPIRY at the end of the grace stops the
launch as a budget stop. -/
def Sys2Proof.Claims.BudgetEventsStopTheHart : Prop :=
  ∀ (hid : Nat) (s : State) (h : Hart) (l : Launch), s.hart? hid = some h → IsLaunch s h.lid l → h.stop = none →
    (s.mayPreempt h = false → exec (.stretchPreemption hid) s = .next s) ∧
    (s.mayPreempt h = true → ∃ t, exec (.stretchPreemption hid) s = .next t ∧ t.hart? hid = some { h with stop := some .preempt } ∧
      t.inbox = s.inbox ++ [.hartStop hid] ∧ t.mem = s.mem) ∧
    (s.budgetLeft h = 0 → h.spent = false → h.arriving = false →
      ∃ t, exec (.issueBudgetExhausted hid) s = .next t ∧ t.mem = s.mem ∧ t.inbox = s.inbox ++ [.heldEventTake hid] ∧
        t.hart? hid = some { h with
          spent := true
          heldBudget := some (h.heldBudget.getD 0)
          grace := if l.handler = 0 then h.grace else some (h.grace.getD (s.clock + max 1900 (l.budget / 64))) }) ∧
    (∀ g, h.grace = some g → g ≤ s.clock → isFinal l.state = false → l.ending = none →
      ∃ t, exec (.budgetGraceExpiry hid) s = .next t ∧ t.mem = s.mem ∧ Ending t h.lid 9)

/-- R38, R73, R387, R389: HELD_EVENT_TAKE, STRETCH_PREEMPTION, ISSUE_BUDGET_EXHAUSTED and BUDGET_GRACE_EXPIRY complete. The
model's choice, not a rule's: the events may come at any step (log 9, log 58). -/
def Obligations.HeldAndBudgetEventsFollowTheirOrder : Prop :=
  HeldEventsAreTakenInOrder ∧ BudgetEventsStopTheHart


-- vector arithmetic

/-- R207 to R210, R214, R215, R118: each of the 50 integer operations completes when its groups are aligned and nothing
disturbs it: every active element is the operation's result modulo 2^w, and every other element, register and flag is as
before. The model's choice, not a rule's: the instruction is one step up to a stop within it (log 2), and VSADD.vx at w = 1
follows R210 and R214, not the example of R215 (log 76). -/
def Obligations.VectorIntegerLanesCompute : Prop :=
  ∀ (i : Instr) (s : State) (L : IntLane), intLane i = some L →
    L.d.toNat % s.hart.cfg.gm = 0 → L.a.toNat % s.hart.cfg.gm = 0 → operandOk s L.o → Undisturbed s →
    VlFits s s.hart.cfg →
    ∃ t, exec i s = .next t ∧ Completes s t ∧ SameX s t ∧ SameMasks s t ∧ t.hart.status = s.hart.status ∧
      ∃ val : Nat → Option Nat, GroupWritten s t s.hart.cfg L.d val ∧
        ∀ i, (Active s L.g i → val i =
            some (L.f s.hart.cfg.w (s.hart.el L.a i) (s.opnd L.o i) % 2 ^ s.hart.cfg.w).toNat) ∧
          (¬ Active s L.g i → val i = none)

/-- R207 to R210, R216 to R218: the floating vector operations complete element by element, each with its own rounding draw,
and STATUS gains exactly the flags that active elements raise. The model's choice, not a rule's: the instruction is one step
up to a stop within it (log 2). -/
def Obligations.VectorFloatLanesCompute : Prop :=
  ∀ (i : Instr) (s : State) (L : Lane), floatLane s i = some L → L.ok → Undisturbed s → VlFits s L.c →
    ∃ t, exec i s = .next t ∧ Completes s t ∧ SameX s t ∧ SameMasks s t ∧ FlagsOf s t L.g (fun i => (L.val i).2) ∧
      ∃ val : Nat → Option Nat, GroupWritten s t L.c L.d val ∧
        ∀ i, (Active s L.g i → val i = some (L.val i).1) ∧ (¬ Active s L.g i → val i = none)

/-- R214, R226 to R231: moves, VID, the narrow conversions, VRNG and the expansions of block formats complete element by
element. -/
def Sys2Proof.Claims.NarrowLanesConvert : Prop :=
  ∀ (i : Instr) (s : State) (L : Lane), narrowLane s i = some L → L.ok → Undisturbed s → VlFits s L.c →
    (∀ m ∈ L.masks, s.maskBusy m.toNat = false) →
    ∃ t, exec i s = .next t ∧ Completes s t ∧ SameX s t ∧ SameMasks s t ∧ FlagsOf s t L.g (fun i => (L.val i).2) ∧
      ∃ val : Nat → Option Nat, GroupWritten s t L.c L.d val ∧
        ∀ i, (Active s L.g i → val i = some (L.val i).1) ∧ (¬ Active s L.g i → val i = none)

/-- R219, R220, R230: the compares, the mask operations and VDROP complete: each active bit of the destination is
the result, every other bit of it and every other mask and register is as before. -/
def Sys2Proof.Claims.MaskResultsAreWrittenBitByBit : Prop :=
  ∀ (i : Instr) (s : State) (L : BitLane), bitLane s i = some L → L.ok → Undisturbed s → s.hart.vl ≤ 65536 →
    (∀ m ∈ L.masks, s.maskBusy m.toNat = false) →
    ∃ t, exec i s = .next t ∧ Completes s t ∧ SameX s t ∧ SameVectors s t ∧ FlagsOf s t L.g (fun i => (L.val i).2) ∧
      ∃ val : Nat → Option Bool, MaskWritten s t L.d val ∧
        ∀ i, (Active s L.g i → val i = some (L.val i).1) ∧ (¬ Active s L.g i → val i = none)

/-- R220, R221: KPOP counts and KFIRST finds the active elements whose bit is 1; KMOV from SMISS copies all 65,536 bits
and clears SMISS, whatever VL and VSTART are. -/
def Sys2Proof.Claims.MasksAreCountedSearchedAndTaken : Prop :=
  (∀ (d : Reg) (a g : Num3) (s : State), s.maskBusy a.toNat = false → Undisturbed s →
    (∃ t, exec (.kpop d a g) s = .next t ∧ Completes s t ∧ SameVectors s t ∧ SameMasks s t ∧
      t.hart.status = s.hart.status ∧
      Wrote s t d (BitVec.ofNat 64 ((activeList s g).filter fun i => s.hart.maskBit a.toNat i).length)) ∧
    ∃ w t, exec (.kfirst d a g) s = .next t ∧ Completes s t ∧ SameVectors s t ∧ SameMasks s t ∧
      t.hart.status = s.hart.status ∧ Wrote s t d w ∧
      ((∀ i, Active s g i → s.hart.maskBit a.toNat i = false) → w = BitVec.allOnes 64) ∧
      ∀ i, Active s g i → s.hart.maskBit a.toNat i = true →
        (∀ j, j < i → Active s g j → s.hart.maskBit a.toNat j = false) → w = BitVec.ofNat 64 i) ∧
  ∀ (d : Num3) (s : State), s.maskBusy d.toNat = false → s.hart.smiss < 2 ^ 65536 → s.hart.poison = [] →
    ∃ t, exec (.kmovSmiss d) s = .next t ∧ Onward s t ∧ t.hart.vstart = 0 ∧ t.hart.smiss = 0 ∧
      t = { s with hart := { s.hart with
        k := t.hart.k, smiss := t.hart.smiss, vstart := t.hart.vstart, pc := t.hart.pc, fbuf := t.hart.fbuf } } ∧
      (∀ i, i < 65536 → t.hart.maskBit d.toNat i = s.hart.smiss.testBit i) ∧
      ∀ k i, k ≠ d.toNat → t.hart.maskBit k i = s.hart.maskBit k i

/-- R219 to R221, R230: compares, mask operations, KPOP, KFIRST and SMISS. -/
def Obligations.MaskOperationsComplete : Prop :=
  MaskResultsAreWrittenBitByBit ∧ MasksAreCountedSearchedAndTaken

/-- R222, R223, R142: the ten permutations complete: every element that the rule names has its value from the sources as they
were, and every other element is as before; no flag is raised. -/
def Obligations.PermutationsMoveElements : Prop :=
  ∀ (i : Instr) (s : State) (P : Perm), permOf s i = some P → P.ok → s.hart.poison = [] → VlFits s s.hart.cfg →
    (∀ m ∈ P.masks, s.maskBusy m.toNat = false) →
    ∃ t, exec i s = .next t ∧ Completes s t ∧ SameX s t ∧ SameMasks s t ∧ t.hart.status = s.hart.status ∧
      GroupWritten s t s.hart.cfg P.d P.val

/-- R224, R225: an integer reduction completes with the fold of the active elements and x[b] modulo 2^w, extended as the table gives,
whatever the shape of the tree; no flag is raised and no vector register changes. -/
def Obligations.IntegerReductionsFoldTheActiveElements : Prop :=
  ∀ (i : Instr) (s : State) (R : Fold), foldOf i = some R → R.a.toNat % s.hart.cfg.gm = 0 → Undisturbed s →
    let w := s.hart.cfg.w
    let r := ((activeList s R.g).map (s.hart.el R.a)).foldl (R.op w) ((s.rx R.b).toNat % 2 ^ w)
    ∃ t, exec i s = .next t ∧ Completes s t ∧ SameVectors s t ∧ SameMasks s t ∧ t.hart.status = s.hart.status ∧
      Wrote s t R.d (if R.sgn then BitVec.ofInt 64 (sval w r) else BitVec.ofNat 64 r)

/-- R163, R224, R225: a floating reduction completes with the tree's result over the active elements, after x[b]; with no active
element it is x[b]'s low w bits and raises nothing. -/
def Sys2Proof.Claims.FloatReductionsFollowTheTree : Prop :=
  ∀ (i : Instr) (s : State) (d a b : Reg) (g : Num3) (op : Nat → Nat → Nat × Nat),
    floatFold s i = some (d, a, b, g, op) → a.toNat % s.hart.cfg.gm = 0 → s.hart.floatRow = true → Undisturbed s →
    let start := (s.rx b).toNat % 2 ^ s.hart.cfg.w
    ∃ t w fl, exec i s = .next t ∧ Completes s t ∧ SameVectors s t ∧ SameMasks s t ∧ Wrote s t d w ∧ Raised s t fl ∧
      (activeList s g = [] → w = BitVec.ofNat 64 start ∧ fl = 0) ∧
      (∀ i, activeList s g = [i] → w = BitVec.ofNat 64 (op start (s.hart.el a i)).1 ∧
        fl = (op start (s.hart.el a i)).2) ∧
      reduceTree op (some start) (padded s a g) = (some w.toNat, fl)

/-- R164, R165, R224, R225: VQSUM completes with the quantised sum of its active elements, and that sum does not depend on
their order. -/
def Sys2Proof.Claims.VqsumIsIndependentOfOrder : Prop :=
  (∀ (d a : Reg) (c : Bit1) (g : Num3) (s : State), s.hart.ew = 3 → a.toNat % s.hart.cfg.gm = 0 → Undisturbed s →
    let xs := (activeList s g).map fun i => f64.unpack (s.hart.el a i)
    ∃ t, exec (.vqsum d a c g) s = .next t ∧ Completes s t ∧ SameVectors s t ∧ SameMasks s t ∧
      Wrote s t d (BitVec.ofNat 64 (qsumAt (qExp xs) 1 1 xs).1) ∧ Raised s t (qsumAt (qExp xs) 1 1 xs).2) ∧
  ∀ (xs ys : List FVal) (a c : Nat), xs.Perm ys → qsumAt (qExp xs) a c xs = qsumAt (qExp ys) a c ys

/-- R163 to R165, R224, R225: the floating reductions and VQSUM. -/
def Obligations.FloatAndQuantisedReductions : Prop :=
  FloatReductionsFollowTheTree ∧ VqsumIsIndependentOfOrder

/-- R158, R159, R231: VQNT completes: it writes only its destination elements or mask bits below VL, the scales of its blocks, and
flags; a B4 block that is all zeros has scale 127 and zero mantissas, and an S1 bit is the sign of its element. -/
def Sys2Proof.Claims.BlockQuantisationCompletes : Prop :=
  ∀ (a b : Reg) (c : Bit1) (s : State), s.hart.floatRow = true → s.hart.vstart = 0 → Undisturbed s →
    VlFits s s.hart.cfg →
    let F := s.hart.ffmt
    let n := s.hart.narrow 8 s.hart.cfg.w
    (∀ d : Reg, narrowOk s.hart d 8 a s.hart.cfg.w = true → overlaps b.toNat 1 d.toNat n.gm = false →
      overlaps b.toNat 1 a.toNat s.hart.cfg.gm = false → 1 ≤ s.hart.grant →
      ∃ t, exec (.vqntB4 d a b c 0) s = .next t ∧ Completes s t ∧ SameX s t ∧ SameMasks s t ∧
        (∀ k, 5 ≤ k → t.hart.status.getLsbD k = s.hart.status.getLsbD k) ∧
        (∀ r, r ≠ b.toNat → r < d.toNat ∨ d.toNat + n.gm ≤ r → t.hart.vreg r = s.hart.vreg r) ∧
        (∀ i, s.hart.vl ≤ i → i < n.gm * n.per → t.hart.elem n d.toNat i = s.hart.elem n d.toNat i) ∧
        ∀ k, 32 * k < s.hart.vl →
          (∀ i, 32 * k ≤ i → i < 32 * k + 32 → i < s.hart.vl → ∃ g, F.unpack (s.hart.el a i) = .fin g 0 F.emin) →
          t.hart.vreg b.toNat / 2 ^ (8 * k) % 256 = 127 ∧
          ∀ i, 32 * k ≤ i → i < 32 * k + 32 → i < s.hart.vl → t.hart.elem n d.toNat i = 0) ∧
    ∀ d : Num3, a.toNat % s.hart.cfg.gm = 0 → overlaps b.toNat 1 a.toNat s.hart.cfg.gm = false →
      s.maskBusy d.toNat = false →
      ∃ t, exec (.vqntS1 d a b c 0) s = .next t ∧ Completes s t ∧ SameX s t ∧
        (∀ k, 5 ≤ k → t.hart.status.getLsbD k = s.hart.status.getLsbD k) ∧
        (∀ r, r ≠ b.toNat → t.hart.vreg r = s.hart.vreg r) ∧
        (∀ i, i < s.hart.vl → (F.unpack (s.hart.el a i)).isNan = false →
          t.hart.maskBit d.toNat i = (F.unpack (s.hart.el a i)).neg) ∧
        (∀ i, s.hart.vl ≤ i → i < 65536 → t.hart.maskBit d.toNat i = s.hart.maskBit d.toNat i) ∧
        ∀ k i, k ≠ d.toNat → t.hart.maskBit k i = s.hart.maskBit k i

/-- R158, R159, R214, R226 to R231: narrow formats, random bits, moves and block formats. The model's choice, not a rule's:
flags and draws of block formats are by inference (log 30), and the pattern of a NaN that VDQNT.s1 gives (nanAs) is log 64.
-/
def Obligations.NarrowAndBlockFormatsConvert : Prop :=
  NarrowLanesConvert ∧ BlockQuantisationCompletes

/-- R208, R390, R405: an integer operation that meets a poisoned source word traps as poison consumed: the elements before
the first active element that reads one are written, no later element is, and VSTART names that element. -/
def Sys2Proof.Claims.PoisonStopsAVectorInstruction : Prop :=
  ∀ (i : Instr) (s : State) (L : IntLane) (k : Nat) (tv : Word), intLane i = some L →
    L.d.toNat % s.hart.cfg.gm = 0 → L.a.toNat % s.hart.cfg.gm = 0 → operandOk s L.o → s.hart.gauge = none → s.hart.cut = none →
    VlFits s s.hart.cfg → SuperMode s →
    s.hart.firstPoison L.g (.vec s.hart.cfg L.a.toNat :: L.o.srcs s.hart.cfg) = some (k, tv) →
    ∃ t, exec i s = .next t ∧ t.hart.vstart = k ∧ t.hart.tcause = 0x8000000000000007 ∧ t.hart.tval = tv ∧
      t.hart.pc = s.hart.tvec ∧ t.hart.tpc.toNat % 2 ^ 57 = s.hart.pc.toNat % 2 ^ 57 ∧ SameX s t ∧ t.mem = s.mem ∧
      ∃ val : Nat → Option Nat, GroupWritten s t s.hart.cfg L.d val ∧
        ∀ i, (Active s L.g i ∧ i < k → val i =
            some (L.f s.hart.cfg.w (s.hart.el L.a i) (s.opnd L.o i) % 2 ^ s.hart.cfg.w).toNat) ∧
          (¬ (Active s L.g i ∧ i < k) → val i = none)

/-- R145, R146, R390, R445: with a mismatch reported at an active element, an integer operation raises gauge mismatch there, with the
elements before it written with their results, no later one written, and the report used up. -/
def Sys2Proof.Claims.GaugeMismatchStopsAVectorInstruction : Prop :=
  ∀ (i : Instr) (s : State) (L : IntLane) (k : Nat), intLane i = some L →
    L.d.toNat % s.hart.cfg.gm = 0 → L.a.toNat % s.hart.cfg.gm = 0 → operandOk s L.o → s.hart.poison = [] → s.hart.cut = none →
    s.hart.gauge = some (.mismatch k) → Active s L.g k → VlFits s s.hart.cfg → SuperMode s →
    ∃ t, exec i s = .next t ∧ t.hart.vstart = k ∧ t.hart.tcause = 0x8000000000000008 ∧
      t.hart.tval.toNat % 2 ^ 17 = k % 2 ^ 17 ∧ t.hart.gauge = none ∧ t.hart.pc = s.hart.tvec ∧ SameX s t ∧
      SameMasks s t ∧ t.mem = s.mem ∧
      ∃ val : Nat → Option Nat, GroupWritten s t s.hart.cfg L.d val ∧
        ∀ i, (Active s L.g i ∧ i < k → val i =
            some (L.f s.hart.cfg.w (s.hart.el L.a i) (s.opnd L.o i) % 2 ^ s.hart.cfg.w).toNat) ∧
          (¬ (Active s L.g i ∧ i < k) → val i = none)

/-- R118, R144: a requested stop that falls within the next instruction, an integer operation, cuts it at `s.cutOf`, which is the
beginning of a granule after that of VSTART: the active elements before it are written, no later one is, VSTART names it, and the pc
stays at the instruction. -/
def Sys2Proof.Claims.StopsFallAtGranuleBoundaries : Prop :=
  ∀ (i : Instr) (s : State) (L : IntLane) (c : Nat), intLane i = some L →
    L.d.toNat % s.hart.cfg.gm = 0 → L.a.toNat % s.hart.cfg.gm = 0 → operandOk s L.o → s.hart.poison = [] →
    s.hart.gauge = none → s.hart.cut = none → s.hart.stop ≠ none → s.midway s.hart = false → s.cutOf s.hart = some c →
    VlFits s s.hart.cfg → s.hart.vstart < c ∧ c < s.hart.vl ∧ GranuleStart s c ∧
    ∃ u t, exec (.hartStop s.hart.hid) s = .next u ∧ u.hart = { s.hart with cut := some c } ∧ u.inbox = s.inbox ∧
      u.picked.head? = some s.hart.hid ∧ exec i u = .next t ∧ t.hart.vstart = c ∧ t.hart.cut = none ∧ t.hart.pc = s.hart.pc ∧ SameX s t ∧ SameMasks s t ∧
      t.hart.status = s.hart.status ∧ t.mem = s.mem ∧
      ∃ val : Nat → Option Nat, GroupWritten s t s.hart.cfg L.d val ∧
        ∀ i, (Active s L.g i ∧ i < c → val i =
            some (L.f s.hart.cfg.w (s.hart.el L.a i) (s.opnd L.o i) % 2 ^ s.hart.cfg.w).toNat) ∧
          (¬ (Active s L.g i ∧ i < c) → val i = none)

/-- R144 to R146, R208, R390, R405, R445: poison consumed, gauge mismatch, and a stop that falls within a vector instruction.
The model's choice, not a rule's: poison is kept by words of 64 bits (log 22), the report of the gauge checker is held as log
19 says, and after how many granules a stop falls is a free value (log 2). -/
def Obligations.ElementsBeforeAStopAreWritten : Prop :=
  PoisonStopsAVectorInstruction ∧ GaugeMismatchStopsAVectorInstruction ∧ StopsFallAtGranuleBoundaries


-- tiles

/-- R235 to R241, R244: MXOPA and MXOPS complete when the die has an array: each element of an acting row becomes its old
value plus or minus the inner product, modulo 2^32 for the integer types and rounded once for the others; every other
element is as before. -/
def Sys2Proof.Claims.OuterProductsAccumulate : Prop :=
  ∀ (i : Instr) (s : State) (minus : Bool) (k : BitVec 2) (a b : Reg) (g : Num3),
    outerOf i = some (minus, k, a, b, g) → HasArray s k → Undisturbed s → ShapeFits s → s.hart.ifmt ≤ 8 →
    let va := s.hart.vreg a.toNat
    let vb := s.hart.vreg b.toNat
    let f := s.hart.ifmt
    let fl (i j : Nat) := (mxCell f ⟨if s.hart.frm = 5 then 0 else s.hart.frm, 0⟩ minus (tileAt s k i j) va vb i j)
    ∃ t, exec i s = .next t ∧ OnlyTile s t ∧ Onward s t ∧ t.hart.vstart = 0 ∧ OtherTilesSame s t k ∧
      (∀ r c, r < 32 → c < 32 → ¬ (RowActs s g r ∧ c < s.hart.mcols) → tileAt t k r c = tileAt s k r c) ∧
      (∀ r c, RowActs s g r → c < s.hart.mcols →
        (f = 6 ∨ f = 7 → (tileAt t k r c : Int) =
          ((tileAt s k r c : Int) + (if minus then -1 else 1) * innerProduct f va vb r c) % 2 ^ 32) ∧
        (f ≠ 6 → f ≠ 7 → tileAt t k r c = (fl r c).1 % 2 ^ s.hart.aw)) ∧
      ∀ n, n < 64 → (t.hart.status.getLsbD n = true ↔ s.hart.status.getLsbD n = true ∨
        n < 5 ∧ f ≠ 6 ∧ f ≠ 7 ∧ ∃ r c, RowActs s g r ∧ c < s.hart.mcols ∧ (fl r c).2.testBit n = true)

/-- R247: MXZERO, MXROW and MXCOL complete: MXZERO makes every element of its tile 0, and the moves put whole rows or columns
that exist and fit into elements 0, 1, … of a vector register. -/
def Sys2Proof.Claims.TileMovesCopyElements : Prop :=
  (∀ (k : BitVec 2) (s : State), HasArray s k → Undisturbed s →
    ∃ t, exec (.mxzero k) s = .next t ∧ OnlyTile s t ∧ Onward s t ∧ t.hart.vstart = 0 ∧ OtherTilesSame s t k ∧
      t.hart.status = s.hart.status ∧ ∀ i j, tileAt t k i j = 0) ∧
  ∀ (i : Instr) (s : State) (d : Reg) (k : BitVec 2) (b : Reg) (col : Bool), tileMove i = some (d, k, b, col) →
    HasArray s k → Undisturbed s → ShapeFits s →
    let first := (s.rx b).toNat
    let n := linesMoved s col first * lineLength s col
    ∃ t, exec i s = .next t ∧ Completes s t ∧ SameX s t ∧ SameMasks s t ∧ t.hart.status = s.hart.status ∧
      GroupWritten s t ⟨s.hart.aw, false, 1, s.hart.grant * 8192 / s.hart.aw⟩ d
        fun q => if q < n then some (movedElement s k col first q) else none

/-- R248: MXLD sets every element of the shape to the memory element at its address, and MXST stores every element of the shape
there and nothing else; with an empty shape both complete with nothing done. -/
def Sys2Proof.Claims.TileLoadsAndStoresFollowTheirAddresses : Prop :=
  ∀ (i : Instr) (s : State) (ld cm : Bool) (k : BitVec 2) (a b : Reg) (loc : Nat → Nat → Loc),
    tileAccess i = some (ld, cm, k, a, b) → HasArray s k → Unhindered s → ShapeFits s → InBudget s →
    let eb := s.hart.aw / 8
    let acts (r c : Nat) := r < s.hart.mrows ∧ c < s.hart.mcols
    (ld = true → TileMapped s cm a b .read loc ∨ tileCells s = [] → (∀ r c, acts r c → Readable s (loc r c) eb) →
      ∃ t, exec i s = .next t ∧ AccessDone s t ∧ t.mem = s.mem ∧ SameVectors s t ∧ SameMasks s t ∧
        t.hart.status = s.hart.status ∧ OtherTilesSame s t k ∧
        ∀ r c, r < 32 → c < 32 → (acts r c → tileAt t k r c = numAt s (loc r c) eb) ∧
          (¬ acts r c → tileAt t k r c = tileAt s k r c)) ∧
    (ld = false → Inv s → TileMapped s cm a b .write loc ∨ tileCells s = [] →
      (∀ r c, acts r c → stored (loc r c) = true ∧ Backed s (loc r c)) →
      (∀ r c r' c', acts r c → acts r' c' → (r, c) ≠ (r', c') →
        ∀ p, within (loc r c) eb p = true → within (loc r' c') eb p = false) →
      ∃ t, exec i s = .next t ∧ AccessDone s t ∧ SameVectors s t ∧ SameMasks s t ∧ t.hart.status = s.hart.status ∧
        t.hart.acc = s.hart.acc ∧ (∀ r c, acts r c → numAt t (loc r c) eb = tileAt s k r c) ∧
        ∀ p, stored p = true → (∀ r c, acts r c → within (loc r c) eb p = false) → byteAt t p 0 = byteAt s p 0)

/-- R82, R245, R388: with no array of the tile's die in service, every instruction of majors 0x34 and 0x35 raises grant lost, MX and
the die in its value, and the launch unit looks at every launch again before any other event. -/
def Sys2Proof.Claims.TilesWithoutAnArrayAreLost : Prop :=
  ∀ (i : Instr) (s : State) (k : BitVec 2), tileUsed i = some k ∨ i = .mxzero k → ¬ HasArray s k →
    let t := takeTrap true 14 (BitVec.ofNat 64 (2 ^ 63 + k.toNat * 2 ^ 56 + s.hart.grant * 256 + s.hart.grant)) 0 s
    exec i s = .next { t with inbox := .refit :: t.inbox }

/-- R235 to R248, R388: every instruction of majors 0x34 and 0x35, and their trap on a die without arrays. The model's
choice, not a rule's: trap values of tiles without an array (log 56), poison of the guard of an outer product (log 77), and A
and D bits of the elements before one that traps (log 78). -/
def Obligations.MatrixInstructionsComplete : Prop :=
  OuterProductsAccumulate ∧ TileMovesCopyElements ∧ TileLoadsAndStoresFollowTheirAddresses ∧ TilesWithoutAnArrayAreLost


-- vector memory

/-- R273, R275, R277, R281, R282: the vector loads complete when every active element is aligned, mapped and readable: it takes
the bytes at its address, but an acquire at die scope marks in SMISS an element of a SYNC page homed elsewhere; VLDX.dup also
records in k0 which indices repeat. -/
def Sys2Proof.Claims.VectorLoadsReadTheirElements : Prop :=
  ∀ (i : Instr) (s : State) (A : VAcc) (die dup : Bool) (loc : Nat → Loc), loadOf s i = some (A, die, dup) → A.ok s →
    Unhindered s → BudgetAllows s → AllMapped s A .read loc →
    let missed (i : Nat) : Prop := die = true ∧ Misses s A.d (loc i) i
    (∀ i, Active s A.g i → ¬ missed i → Readable s (loc i) A.eb) →
    (dup = true → s.maskBusy 0 = false ∧ A.idx ≠ some A.d) →
    ∃ t, exec i s = .next t ∧ AccessDone s t ∧ t.mem = s.mem ∧ t.regions = s.regions ∧ t.hart.acc = s.hart.acc ∧
      t.hart.status = s.hart.status ∧
      (∀ i, t.hart.smiss.testBit i = true ↔ s.hart.smiss.testBit i = true ∨ Active s A.g i ∧ missed i) ∧
      (∃ val : Nat → Option Nat, GroupWritten s t s.hart.cfg A.d val ∧
        ∀ i, (Active s A.g i ∧ ¬ missed i → val i = some (numAt s (loc i) A.eb)) ∧
          (¬ (Active s A.g i ∧ ¬ missed i) → val i = none)) ∧
      (dup = false → SameMasks s t) ∧
      (dup = true → ∀ v, A.idx = some v → ∃ bit : Nat → Option Bool, MaskWritten s t 0 bit ∧ ∀ i,
        (Active s A.g i → ∃ x, bit i = some x ∧ (x = true ↔
          ∃ j, j < i ∧ (A.g = 0 ∨ s.hart.maskBit A.g.toNat j = true) ∧ s.hart.el v j = s.hart.el v i)) ∧
        (¬ Active s A.g i → bit i = none))

/-- R9, R273, R388, R390: a load whose first bad element is misaligned traps there: the elements before it are loaded, VSTART
names it, and the value is its address. -/
def Sys2Proof.Claims.VectorLoadsStopAtTheFirstBadElement : Prop :=
  ∀ (i : Instr) (s : State) (A : VAcc) (loc : Nat → Loc) (k : Nat), loadOf s i = some (A, false, false) → A.ok s →
    Unhindered s → BudgetAllows s → SuperMode s → Active s A.g k → A.addr k % A.eb ≠ 0 →
    (∀ i, Active s A.g i → i < k →
      A.addr i % A.eb = 0 ∧ Mapped s (A.addr i) .read (loc i) ∧ Readable s (loc i) A.eb) →
    ∃ t, exec i s = .next t ∧ t.hart.vstart = k ∧ t.hart.tcause = 0x8000000000000003 ∧
      t.hart.tval = BitVec.ofNat 64 (A.addr k) ∧ t.hart.pc = s.hart.tvec ∧ t.mem = s.mem ∧ SameX s t ∧
      ∃ val : Nat → Option Nat, GroupWritten s t s.hart.cfg A.d val ∧
        ∀ i, (Active s A.g i ∧ i < k → val i = some (numAt s (loc i) A.eb)) ∧
          (¬ (Active s A.g i ∧ i < k) → val i = none)

/-- R289: a gated load completes when its word lies above BASE plus the index of every active element, and waits, with no
element written, while the first active element's gate is closed. -/
def Sys2Proof.Claims.GatedLoadsWaitForTheirWatermark : Prop :=
  ∀ (i : Instr) (s : State) (A : VAcc) (k : Num3) (x : Nat → Nat) (word : Loc) (va : Nat) (loc : Nat → Loc),
    gatedOf s i = some (A, k, x) → A.ok s → Unhindered s → BudgetAllows s → BoundTo s k va .read word →
    AllMapped s A .read loc → (∀ i, Active s A.g i → Readable s (loc i) A.eb) →
    ((∀ i, Active s A.g i → s.hart.wmBase k + x i < numAt s word 8) →
      ∃ t, exec i s = .next t ∧ AccessDone s t ∧ t.mem = s.mem ∧ SameMasks s t ∧
        ∃ val : Nat → Option Nat, GroupWritten s t s.hart.cfg A.d val ∧
          ∀ i, (Active s A.g i → val i = some (numAt s (loc i) A.eb)) ∧ (¬ Active s A.g i → val i = none)) ∧
    ∀ i0, Active s A.g i0 → (∀ i, Active s A.g i → i0 ≤ i) → numAt s word 8 ≤ s.hart.wmBase k + x i0 →
      ∃ t, exec i s = .next t ∧ OnlyAccess s t ∧ t.hart.pc = s.hart.pc ∧ t.hart.run = .stalled ∧ t.mem = s.mem ∧
        SameVectors s t ∧ SameMasks s t ∧ t.hart.vstart ≤ i0

/-- R273 to R282, R289, R390: the vector loads, gated ones too. The model's choice, not a rule's: a load that waits is
stalled with VSTART at the first element not performed (log 10), and duplicates are compared by virtual address (log 36). -/
def Obligations.VectorLoadsComplete : Prop :=
  VectorLoadsReadTheirElements ∧ VectorLoadsStopAtTheFirstBadElement ∧ GatedLoadsWaitForTheirWatermark

/-- R273, R278, R279, R283: the vector stores in element order complete: each byte that active elements reach holds the last
one's byte, and no other byte changes. -/
def Sys2Proof.Claims.VectorStoresWriteInElementOrder : Prop :=
  ∀ (i : Instr) (s : State) (A : VAcc) (loc : Nat → Loc), storeOf s i = some A → A.ok s → A.idx ≠ some A.d → Inv s →
    Unhindered s → BudgetAllows s → Steady s A .write loc → AllMapped s A .write loc → InMemory s A loc →
    ∃ t, exec i s = .next t ∧ AccessDone s t ∧ SameVectors s t ∧ SameMasks s t ∧ t.hart.acc = s.hart.acc ∧
      t.hart.status = s.hart.status ∧ SameElsewhere s t A loc ∧
      ∀ i k, Active s A.g i → k < A.eb →
        (∀ j, i < j → Active s A.g j → within (loc j) A.eb ((loc i).plus k) = false) →
        byteAt t (loc i) k = elemByte s A.d i k

/-- R279, R283: the .u stores complete: where several active elements have one place, some one of them stands. -/
def Sys2Proof.Claims.LooseStoresLetOneElementStand : Prop :=
  ∀ (i : Instr) (s : State) (A : VAcc) (loc : Nat → Loc), looseStoreOf s i = some A → A.ok s → A.idx ≠ some A.d →
    Inv s → Unhindered s → BudgetAllows s → Steady s A .write loc → AllMapped s A .write loc → InMemory s A loc →
    ∃ t, exec i s = .next t ∧ AccessDone s t ∧ SameVectors s t ∧ SameMasks s t ∧ t.hart.acc = s.hart.acc ∧
      t.hart.status = s.hart.status ∧ SameElsewhere s t A loc ∧
      ∀ i, Active s A.g i → ∃ j, Active s A.g j ∧ SamePlace A loc i j ∧ HasElement t s A (loc i) j

/-- R278, R288: VST.nt stores its elements and publishes VL: a word that has reached BASE rises to BASE + VL, saturated, and
never falls; with VL 0 it completes with nothing done, and while the word is below BASE it waits with every element stored, until
its publication has been applied. -/
def Sys2Proof.Claims.StreamingStoresPublishTheirLength : Prop :=
  (∀ (d a : Reg) (m : Num3) (c : Bit1) (g w : Num3) (s : State) (word : Loc) (va : Nat) (loc : Nat → Loc),
    let A := strided s d a 0 g w
    let base := s.hart.wmBase m
    let touched (p : Loc) : Prop := Reached s A loc p ∨ within word 8 p = true
    A.ok s → Inv s → Unhindered s → BudgetAllows s → BoundTo s m va .write word →
    AllMapped s A .write loc → InMemory s A loc → stored word = true → StaysMapped s touched va .write word →
    (∀ i, Active s A.g i → StaysMapped s touched (A.addr i) .write (loc i)) →
    (∀ i p, Active s A.g i → within (loc i) A.eb p = true → within word 8 p = false) →
    (s.hart.vl = 0 → ∃ t, exec (.vstNt d a m c g w) s = .next t ∧ AccessDone s t ∧ t.mem = s.mem ∧ t.pubs = s.pubs) ∧
    (s.hart.vl ≠ 0 →
      (∀ i j, Active s A.g i → Active s A.g j → i ≠ j → ∀ p, within (loc i) A.eb p = true → within (loc j) A.eb p = false) →
      ∃ t, exec (.vstNt d a m c g w) s = .next t ∧ OnlyAccess s t ∧ SameVectors s t ∧ SameMasks s t ∧
        (∀ i, Active s A.g i → HasElement t s A (loc i) i) ∧
        (∀ p, stored p = true → within word 8 p = false → (∀ i, Active s A.g i → within (loc i) A.eb p = false) →
          byteAt t p 0 = byteAt s p 0) ∧
        (base ≤ numAt s word 8 → Onward s t ∧ t.hart.vstart = 0 ∧ t.pubs = s.pubs ∧
          numAt t word 8 = max (numAt s word 8) (min (base + s.hart.vl) (2 ^ 64 - 1))) ∧
        (numAt s word 8 < base → t.hart.pc = s.hart.pc ∧ t.hart.run = .stalled ∧ t.hart.vstart = s.hart.vl ∧
          numAt t word 8 = numAt s word 8 ∧ ⟨word, base, s.hart.vl⟩ ∈ t.pubs))) ∧
  ∀ (d a : Reg) (m : Num3) (c : Bit1) (g w : Num3) (s : State) (p : Publication),
    (strided s d a 0 g w).ok s → s.hart.begun.pub = some p →
    ∃ t, exec (.vstNt d a m c g w) s = .next t ∧ t.mem = s.mem ∧ SameVectors s t ∧
      (p ∉ s.pubs → OnlyAccess s t ∧ Onward s t ∧ t.hart.vstart = 0) ∧
      (p ∈ s.pubs → OnlyXWait s t ∧ t.hart.pc = s.hart.pc ∧ t.hart.run = .stalled)

/-- R283 to R285: the combining scatters complete: with VSTX.add each place gains the sum of its active elements modulo its
width, and with VSTX.fadd the elements that share an address are summed in ascending order, each sum rounded, and their place gains
that sum by one more rounded sum; no other byte changes. -/
def Sys2Proof.Claims.CombiningScattersAddIntoMemory : Prop :=
  ∀ (d a v : Reg) (c : Bit1) (g w : Num3) (s : State) (loc : Nat → Loc),
    let A := indexed s d a v g w
    A.ok s → v ≠ d → Inv s → Unhindered s → BudgetAllows s → AllMapped s A .atomic loc → InMemory s A loc →
    (∀ i, Active s A.g i → s.poisonedAt (loc i) A.eb = false) →
    (∃ t, exec (.vstxAdd d a v c g w) s = .next t ∧ AccessDone s t ∧ SameVectors s t ∧ SameMasks s t ∧
      t.hart.status = s.hart.status ∧ SameElsewhere s t A loc ∧
      ∀ i (js : List Nat), Active s A.g i → js.Nodup → (∀ j, j ∈ js ↔ Active s A.g j ∧ SamePlace A loc i j) →
        numAt t (loc i) A.eb = (numAt s (loc i) A.eb + (js.map (s.hart.el A.d)).sum) % 2 ^ (8 * A.eb)) ∧
    (s.hart.floatRow = true → ∃ t, exec (.vstxFadd d a v c g w) s = .next t ∧ AccessDone s t ∧ SameVectors s t ∧
      SameMasks s t ∧ (∀ k, 5 ≤ k → t.hart.status.getLsbD k = s.hart.status.getLsbD k) ∧ SameElsewhere s t A loc ∧
      let plus (p q : Nat) := (fadd2 s.hart.ffmt (s.hart.rounding 0).noSr (s.hart.ffmt.unpack p) (s.hart.ffmt.unpack q)).1
      ∀ i js, i :: js = (activeList s A.g).filter (fun j => A.addr j = A.addr i) →
        (∀ j, Active s A.g j → SamePlace A loc i j → A.addr j = A.addr i) →
        numAt t (loc i) A.eb = plus (numAt s (loc i) A.eb) (js.foldl (fun c j => plus c (s.hart.el A.d j)) (s.hart.el A.d i))
          % 2 ^ (8 * A.eb))

/-- R286: each of the eight vector atomics completes: at places that differ, memory takes the operation's result on its old value
and the element, and the element takes the old value where the instruction returns it. -/
def Sys2Proof.Claims.VectorAtomicsUpdateEachPlace : Prop :=
  ∀ (i : Instr) (s : State) (A : VAcc) (ret : Bool) (op : Nat → Nat → Nat × Nat) (loc : Nat → Loc),
    vectorAtomicOf s i = some (A, ret, op) → A.ok s → A.idx ≠ some A.d → Inv s → Unhindered s → BudgetAllows s →
    Steady s A .atomic loc → AllMapped s A .atomic loc → InMemory s A loc → PlacesApart s A loc →
    (∀ i, Active s A.g i → s.poisonedAt (loc i) A.eb = false) →
    let old (i : Nat) := numAt s (loc i) A.eb
    ∃ t, exec i s = .next t ∧ AccessDone s t ∧ SameMasks s t ∧ FlagsOf s t A.g (fun i => (op (old i) (s.hart.el A.d i)).2) ∧
      SameElsewhere s t A loc ∧
      (∀ i, Active s A.g i → numAt t (loc i) A.eb = (op (old i) (s.hart.el A.d i)).1 % 2 ^ (8 * A.eb)) ∧
      (ret = false → SameVectors s t) ∧
      (ret = true → ∃ val : Nat → Option Nat, GroupWritten s t s.hart.cfg A.d val ∧
        ∀ i, (Active s A.g i → val i = some (old i)) ∧ (¬ Active s A.g i → val i = none))

/-- R276: bit-sliced loads and stores complete: bit j of element i goes with bit i mod 8 of byte i div 8 of plane j, and every
other bit and byte is as before. -/
def Sys2Proof.Claims.BitSlicedAccessesUseTheirPlanes : Prop :=
  ∀ (i : Instr) (s : State) (ld : Bool) (d a si : Reg) (g w : Num3) (loc : Nat → Nat → Loc),
    slicedOf i = some (ld, d, a, si, g, w) → w = 4 → s.hart.ew = 4 → d.toNat % s.hart.cfg.gm = 0 → Unhindered s →
    BudgetAllows s → (si ≠ 0 → (s.hart.vl + 7) / 8 ≤ (s.rx si).toNat) →
    let n := s.hart.cfg.w
    (ld = true → (∀ i j, Active s g i → j < n → Mapped s (planeAddr s a si i j) .read (loc i j) ∧ Readable s (loc i j) 1) →
      ∃ t, exec i s = .next t ∧ AccessDone s t ∧ t.mem = s.mem ∧ SameMasks s t ∧
        ∃ val : Nat → Option Nat, GroupWritten s t s.hart.cfg d val ∧
          ∀ i, (Active s g i → ∃ x, val i = some x ∧ ∀ j, j < n →
              x.testBit j = (byteAt s (loc i j) 0).getLsbD (i % 8)) ∧ (¬ Active s g i → val i = none)) ∧
    (ld = false → Inv s →
      (∀ i j, Active s g i → j < n → Mapped s (planeAddr s a si i j) .write (loc i j) ∧ stored (loc i j) = true ∧
        Backed s (loc i j)) →
      (OneGranule s ∨ ∀ i j, Active s g i → j < n → StaysMapped s
        (fun p => ∃ i j, Active s g i ∧ j < n ∧ within (loc i j) 1 p = true) (planeAddr s a si i j) .write (loc i j)) →
      (∀ i j i' j', Active s g i → Active s g i' → j < n → j' < n → (i / 8, j) ≠ (i' / 8, j') →
        within (loc i j) 1 (loc i' j') = false) →
      ∃ t, exec i s = .next t ∧ AccessDone s t ∧ SameVectors s t ∧ SameMasks s t ∧
        (∀ i j, Active s g i → j < n →
          (byteAt t (loc i j) 0).getLsbD (i % 8) = (s.hart.el d i).testBit j ∧
          ∀ b, b < 8 → ¬ Active s g (i / 8 * 8 + b) → (byteAt t (loc i j) 0).getLsbD b = (byteAt s (loc i j) 0).getLsbD b) ∧
        ∀ p, stored p = true → (∀ i j, Active s g i → j < n → within (loc i j) 1 p = false) → byteAt t p 0 = byteAt s p 0)

/-- R276, R278, R279, R283 to R286: the vector stores, combining scatters and vector atomics, and the bit-sliced accesses.
The model's choice, not a rule's: which element of a .u store stands is a free value (log 31), scatters combine by virtual
address (log 37), and publication waits stalled (log 10). -/
def Obligations.VectorStoresComplete : Prop :=
  VectorStoresWriteInElementOrder ∧ LooseStoresLetOneElementStand ∧ StreamingStoresPublishTheirLength ∧ CombiningScattersAddIntoMemory ∧ VectorAtomicsUpdateEachPlace ∧ BitSlicedAccessesUseTheirPlanes


-- progress words

/-- R287, R290: VWMBIND binds an aligned address and its scope, and traps on a misaligned one; VWMADDR reads a binding. -/
def Sys2Proof.Claims.WatermarksAreBoundAndRead : Prop :=
  (∀ (d : Num3) (a : Reg) (c : Num3) (s : State), InBudget s →
    ((s.rx a).toNat % 8 = 0 → ∃ t, exec (.vwmbind d a c) s = .next t ∧ Onward s t ∧ t.hart.binding d = ⟨s.rx a, c⟩ ∧
      (∀ k, k ≠ d → t.hart.binding k = s.hart.binding k) ∧ SameX s t ∧
      OnlyXWait (counted s) { t with hart := { t.hart with wmb := s.hart.wmb } }) ∧
    ((s.rx a).toNat % 8 ≠ 0 →
      exec (.vwmbind d a c) s = .next (takeTrap true 3 (s.rx a) 0 ((counted s).withHart Hart.settled)))) ∧
  ∀ (d : Reg) (a : Num3) (s : State), InBudget s →
    ((s.hart.binding a).addr ≠ 0 → ∃ t, exec (.vwmaddr d a) s = .next t ∧ OnlyXWait (counted s) t ∧ Onward s t ∧
      Wrote s t d ((s.hart.binding a).addr ||| (s.hart.binding a).sc.setWidth 64)) ∧
    ((s.hart.binding a).addr = 0 →
      exec (.vwmaddr d a) s = .next (takeTrap true 2 (a.setWidth 64) 0 ((counted s).withHart Hart.settled)))

/-- R287, R288, R290: VWMPUB raises a word that has reached BASE to BASE plus its count, saturated, and waits with the count held
while the word is below BASE, until that publication has been applied; PUBLICATION_APPLY applies a held count once the word has
reached BASE. -/
def Sys2Proof.Claims.PublicationsRaiseTheirWord : Prop :=
  (∀ (d : Num3) (a : Reg) (s : State) (word : Loc) (va : Nat), Inv s → InBudget s → NotBegun s → s.hart.unacked = [] →
    stored word = true → BoundTo s d va .write word →
    let base := s.hart.wmBase d
    let n := (s.rx a).toNat
    (base ≤ numAt s word 8 → ∃ t, exec (.vwmpub d a) s = .next t ∧ OnlyMemX (counted s) t ∧ Onward s t ∧ SameX s t ∧
      t.hart.status = s.hart.status ∧ SameOutside s t word 8 ∧
      numAt t word 8 = max (numAt s word 8) (min (base + n) (2 ^ 64 - 1))) ∧
    (numAt s word 8 < base → ∃ t, exec (.vwmpub d a) s = .next t ∧ t.hart.pc = s.hart.pc ∧ t.hart.run = .stalled ∧
      t.mem = s.mem ∧ SameX s t ∧ ⟨word, base, n⟩ ∈ t.pubs)) ∧
  (∀ (d : Num3) (a : Reg) (s : State) (p : Publication), s.hart.begun.pub = some p → ∃ t, exec (.vwmpub d a) s = .next t ∧
    OnlyXWait s t ∧ SameX s t ∧ (p ∉ s.pubs → Onward s t) ∧ (p ∈ s.pubs → t.hart.pc = s.hart.pc ∧ t.hart.run = .stalled)) ∧
  ∀ (idx : Nat) (s : State) (p : Publication), Inv s → s.pubs[idx]? = some p → stored p.word = true → Backed s p.word →
    (p.base ≤ numAt s p.word 8 → ∃ t, exec (.publicationApply idx) s = .next t ∧ t.hart = s.hart ∧
      t.pubs = s.pubs.eraseIdx idx ∧ SameOutside s t p.word 8 ∧
      numAt t p.word 8 = max (numAt s p.word 8) (min (p.base + p.n) (2 ^ 64 - 1))) ∧
    (numAt s p.word 8 < p.base → exec (.publicationApply idx) s = .next s)

/-- R255, R290: VWMWAIT writes the word once it has reached BASE plus x[b], and waits before, and while a store of its hart to a
device or a host is unacknowledged. -/
def Sys2Proof.Claims.VwmwaitWaitsForItsCount : Prop :=
  ∀ (d : Reg) (a : Num3) (b : Reg) (s : State) (word : Loc) (va : Nat), BoundTo s a va .read word → InBudget s → NotBegun s →
    let goal := s.hart.wmBase a + (s.rx b).toNat
    (s.hart.unacked ≠ [] → ∃ t, exec (.vwmwait d a b) s = .next t ∧ OnlyXWait s t ∧ SameX s t ∧ t.hart.pc = s.hart.pc ∧
      t.hart.run = .stalled) ∧
    (s.hart.unacked = [] → goal ≤ numAt s word 8 → ∃ t, exec (.vwmwait d a b) s = .next t ∧ OnlyXLines (counted s) t ∧ Onward s t ∧
      Wrote s t d (BitVec.ofNat 64 (numAt s word 8))) ∧
    (s.hart.unacked = [] → numAt s word 8 < goal → ∃ t, exec (.vwmwait d a b) s = .next t ∧ OnlyXLines (counted s) t ∧ SameX s t ∧
      t.hart.pc = s.hart.pc ∧ t.hart.run = .stalled)

/-- R287, R288, R290: watermarks and progress words. The model's choice, not a rule's: VWMADDR of an unbound watermark traps
(log 35), and a publication that waits is stalled (log 10). -/
def Obligations.ProgressWordsOnlyRise : Prop :=
  WatermarksAreBoundAndRead ∧ PublicationsRaiseTheirWord ∧ VwmwaitWaitsForItsCount


-- copies and weirs

/-- R297, R298: CPY completes when its ranges are mapped and its bytes are whole: the destination holds the source's bytes, no
other byte changes, and one operation is in flight that has all its bytes still to count. -/
def Sys2Proof.Claims.LocalCopiesMoveTheirBytes : Prop :=
  ∀ (d a : Reg) (b : BitVec 4) (k : BitVec 2) (c : Num3) (s : State) (src dst : List Seg) (sig : Signal),
    let n := (s.rx (pairLo b)).toNat
    Inv s → InBudget s → s.hart.unacked = [] → Signals s k (s.rx (pairHi b)) sig →
    SpansAt s (s.rx a).toNat n .read src → SpansAt s (s.rx d).toNat n .write dst → Backs s src → Backs s dst →
    Apart dst → s.segsPoisoned src = false →
    ∃ t, exec (.cpy d a b k c) s = .next t ∧ OnlyDispatch s t ∧ Onward s t ∧ SameMasks s t ∧
      t.hart.vstart = s.hart.vstart ∧ t.segBytes dst = s.segBytes src ∧ SameBeyond s t dst ∧
      Started s t 0 [] (.copy sig n n) ∧ t.outbox = s.outbox ∧ t.inbox = s.inbox

/-- R299, R358: CPYRG and CPYRP complete at issue when the remote address is in the view: CPYRG sends one request and moves
nothing yet, CPYRP sends its bytes in flits of up to 256; a remote address that is not in range raises bad operand
handle. -/
def Sys2Proof.Claims.RemoteCopiesSendTheirFlits : Prop :=
  ∀ (d a : Reg) (b : BitVec 4) (k : BitVec 2) (c : Num3) (s : State) (sig : Signal) (node pa : Nat),
    let n := (s.rx (pairLo b)).toNat
    InBudget s → s.hart.unacked = [] → s.fabric.holds = false → Signals s k (s.rx (pairHi b)) sig →
    (∀ dst, RemoteAt s (s.rx a) n node pa → SpansAt s (s.rx d).toNat n .write dst → Backs s dst →
      ∃ t, exec (.cpyrg d a b k c) s = .next t ∧ OnlyDispatch s t ∧ Onward s t ∧ t.mem = s.mem ∧ t.regions = s.regions ∧
        SameMasks s t ∧ Started s t 0 dst (.get sig (s.rx a) node n dst n) ∧
        SentTo s t node (if n = 0 then [] else [.copyRead s.nextOp pa n])) ∧
    (∀ src, RemoteAt s (s.rx d) n node pa → SpansAt s (s.rx a).toNat n .read src → Backs s src →
      s.segsPoisoned src = false →
      ∃ t, exec (.cpyrp d a b k c) s = .next t ∧ OnlyDispatch s t ∧ Onward s t ∧ t.mem = s.mem ∧ t.regions = s.regions ∧
        SameMasks s t ∧ Started s t 0 [] (.put sig (s.rx d) node n n) ∧
        SentTo s t node ((List.range ((n + 255) / 256)).map fun i =>
          .copyWrite s.nextOp (pa + 256 * i) pa n (((s.segBytes src).drop (256 * i)).take 256) [])) ∧
    ((∀ m p, ¬ RemoteAt s (s.rx a) n m p) → exec (.cpyrg d a b k c) s = .next (takeTrap true 2 (s.rx a) 0 (atTrap s))) ∧
    ((∀ m p, ¬ RemoteAt s (s.rx d) n m p) → exec (.cpyrp d a b k c) s = .next (takeTrap true 2 (s.rx d) 0 (atTrap s)))

/-- R300, R301: CPYGS completes its dispatch: the rows' bytes stand in the scratchpad, the mask's bits below VL are 0 and the
others as before, and a gather of VL rows is in flight; CPYGS_ROW_LANDED then sets one row's bit, and the last row ends it. -/
def Sys2Proof.Claims.RowGathersLandRowByRow : Prop :=
  (∀ (d a : Reg) (b : BitVec 4) (m : Num3) (s : State) (rows : List (List Seg)) (dst : List Seg),
    let base := (s.rx (pairLo b)).toNat
    let n := (s.rx (pairHi b)).toNat
    let vl := s.hart.vl
    Inv s → InBudget s → s.hart.unacked = [] → s.hart.vstart = 0 → a.toNat % s.hart.cfg.gm = 0 → s.maskBusy m.toNat = false →
    s.hart.poison = [] → n % 8 = 0 → 8 ≤ n → n ≤ 65536 → (s.rx d).toNat % 8 = 0 → 1 ≤ vl → vl ≤ 65536 →
    (∀ p ∈ piecesOf (s.rx d).toNat (vl * n), (s.scratchPlace p.1 p.2).isSome = true) →
    SpansAt s (s.rx d).toNat (vl * n) .write dst → Backs s dst → Apart dst → rows.length = vl →
    (∀ i r, rows[i]? = some r →
      SpansAt s ((base + s.hart.el a i * n) % 2 ^ 64) n .read r ∧ Backs s r ∧ s.segsPoisoned r = false) →
    ∃ t, exec (.cpygs d a b m) s = .next t ∧ OnlyDispatch s t ∧ Onward s t ∧
      t.segBytes dst = (rows.map s.segBytes).flatten ∧ SameBeyond s t dst ∧
      Started s t 0 [] (.gather m.toNat (List.range vl)) ∧
      MaskWritten s t m fun i => if i < vl then some false else none) ∧
  ∀ (id row k : Nat) (left : List Nat) (s : State) (o : EngineOp), IsOp s id o → o.kind = .gather k left → row ∈ left →
    o.ofHart s.hart = true → s.parked.all (fun h => h.hid ≠ s.hart.hid) = true → k < 8 → row < 65536 →
    ∃ t, exec (.cpygsRowLanded id row) s = .next t ∧ t.mem = s.mem ∧ t.parked = s.parked ∧ SameX s t ∧
      t.hart.maskBit k row = true ∧ (∀ i, i ≠ row → t.hart.maskBit k i = s.hart.maskBit k i) ∧
      (∀ j i, j ≠ k → t.hart.maskBit j i = s.hart.maskBit j i) ∧
      ((∀ r ∈ left, r = row) → OpEnded s t id) ∧
      ((∃ r ∈ left, r ≠ row) → IsOp t id { o with kind := .gather k (left.filter (· ≠ row)) })

/-- R276, R302: CPYRK completes and writes what its mode gives of the source's bytes. Mode 0 turns bit planes into packed
elements, mode 1 is its inverse on elements of w bits, and mode 3 undoes mode 2. -/
def Sys2Proof.Claims.RepacksRearrangeTheirBits : Prop :=
  (∀ (d a : Reg) (b : Num3) (k : BitVec 2) (c : Num3) (s : State) (sig : Signal) (src dst : List (List Seg)),
    let rb : Reg := BitVec.ofNat 5 (4 * b.toNat)
    let count := (s.rx rb).toNat
    let par := (s.rx (rb + 2)).toNat
    let mode := par % 4
    let w := par / 4 % 16 + 1
    let p := par / 2 ^ 32
    let rs := repackRanges mode w p count (s.rx d).toNat (s.rx a).toNat (s.rx (rb + 3)).toNat
    Inv s → InBudget s → s.hart.unacked = [] → Signals s k (s.rx (rb + 1)) sig → par / 2 ^ 7 % 2 ^ 25 = 0 →
    (mode < 2 → (count + 7) / 8 ≤ p) → src.length = rs.1.length → dst.length = rs.2.length →
    (∀ (i : Nat) (r : Nat × Nat) (g : List Seg), rs.1[i]? = some r → src[i]? = some g → SpansAt s r.1 r.2 .read g) →
    (∀ (i : Nat) (r : Nat × Nat) (g : List Seg), rs.2[i]? = some r → dst[i]? = some g → SpansAt s r.1 r.2 .write g) →
    Backs s src.flatten → Backs s dst.flatten → Apart dst.flatten → s.segsPoisoned src.flatten = false →
    s.segsPoisoned dst.flatten = false →
    let tag (gs : List Seg) : Tagged := (s.segBytes gs).map fun x => (x.toNat, false)
    let out := (repacked mode w count (par.testBit 6) (tag src.flatten) (tag dst.flatten)).map fun q => BitVec.ofNat 8 q.1
    ∃ t, exec (.cpyrk d a b k c) s = .next t ∧ OnlyDispatch s t ∧ Onward s t ∧ SameMasks s t ∧
      t.segBytes dst.flatten = out ∧ SameBeyond s t dst.flatten ∧ Started s t 0 [] (.copy sig out.length out.length)) ∧
  (∀ (xs : Tagged) (w count i j : Nat), 1 ≤ w → w ≤ 16 → i < count → j < w → (∀ x ∈ xs, x.1 < 256) →
    let eb := if w ≤ 8 then 1 else 2
    let q := (count + 7) / 8
    (tagAt (unpackPlanes xs w q eb count false) (eb * i + j / 8)).1.testBit (j % 8) =
      (tagAt xs (j * q + i / 8)).1.testBit (i % 8) ∧
    ∀ old, (tagAt (packPlanes (unpackPlanes xs w q eb count false) old w q eb count) (j * q + i / 8)).1.testBit (i % 8) =
      (tagAt xs (j * q + i / 8)).1.testBit (i % 8)) ∧
  ∀ (mant scale : Tagged) (count : Nat), mant.length = 16 * count → scale.length = count →
    unpackMatrix (packMatrix mant scale count) count = (mant, scale)

/-- R276, R297 to R302: CPY, CPYRG, CPYRP, CPYGS with its landing, and CPYRK. The model's choice, not a rule's: when an
operation begins it moves its data (log 16), flits are records (log 47), and a copy goes through the die cache of each line's
home (log 70). -/
def Obligations.CopyInstructionsComplete : Prop :=
  LocalCopiesMoveTheirBytes ∧ RemoteCopiesSendTheirFlits ∧ RowGathersLandRowByRow ∧ RepacksRearrangeTheirBits

/-- R303 to R305, R352: WEIRARM sets TARGET, clears COUNT and LOST and keeps GEN; WEIRWT writes a generation that differs from x[b] and
waits at one that does not; both wait for the hart's older stores to devices and hosts. -/
def Sys2Proof.Claims.WeirsAreArmedAndAwaited : Prop :=
  (∀ (a b : Reg) (s : State) (w : Loc), Inv s → InBudget s → s.hart.unacked = [] → WeirAt s (s.rx a) w →
    ∃ t, exec (.weirarm a b) s = .next t ∧ OnlyMemX (counted s) t ∧ Onward s t ∧ SameX s t ∧ t.hart.status = s.hart.status ∧
      t.mem = s.mem ∧ SameOutside s t w 16 ∧ numAt t w 4 = (s.rx b).toNat % 2 ^ 32 ∧ numAt t (w.plus 4) 4 = 0 ∧
      numAt t (w.plus 8) 4 = numAt s (w.plus 8) 4 ∧ numAt t (w.plus 12) 4 = numAt s (w.plus 12) 4 / 2 * 2) ∧
  (∀ (d a b : Reg) (s : State), s.hart.unacked ≠ [] →
    (∃ t, exec (.weirarm a b) s = .next t ∧ WaitsIn s t) ∧ ∃ t, exec (.weirwt d a b) s = .next t ∧ WaitsIn s t) ∧
  ∀ (d a b : Reg) (s : State) (w : Loc), InBudget s → s.hart.unacked = [] → WeirAt s (s.rx a) w →
    s.poisonedAt (w.plus 8) 4 = false →
    let g := numAt s (w.plus 8) 4
    (g ≠ (s.rx b).toNat % 2 ^ 32 → ∃ t, exec (.weirwt d a b) s = .next t ∧ OnlyXWait (counted s) t ∧ Onward s t ∧
      Wrote s t d (BitVec.ofNat 64 g)) ∧
    (g = (s.rx b).toNat % 2 ^ 32 → ∃ t, exec (.weirwt d a b) s = .next t ∧ WaitsIn (counted s) t)

/-- R304, R298, R411: WEIR_ARRIVAL counts bytes and turns full counts into generations; COPY_COMPLETE ends an operation whose bytes
have all arrived and raises its progress word by its length; neither acts before what the operation has written to devices and
hosts has performed there; ENGINE_OPERATION_STOP ends what a launch that did not retire left in flight, and marks the weir of a
remote copy LOST. -/
def Sys2Proof.Claims.CopyEventsCountAndComplete : Prop :=
  (∀ (id n : Nat) (s : State) (o : EngineOp), IsOp s id o → ¬ HasPerformed s o →
    exec (.weirArrival id n) s = .next s ∧ exec (.copyComplete id) s = .next s) ∧
  (∀ (id n : Nat) (s : State) (o : EngineOp) (c l off len left : Nat), Inv s → IsOp s id o → HasPerformed s o →
    o.kind = .copy (.weir c l off) len left → n ≤ left → Backed s (.scr c l off) →
    let at_ (t : State) (k : Nat) := numAt t (.scr c l (off + k)) 4
    ∃ t, exec (.weirArrival id n) s = .next t ∧ t.hart = s.hart ∧ t.mem = s.mem ∧
      IsOp t id { o with kind := .copy (.weir c l off) len (left - n) } ∧ at_ t 0 = at_ s 0 ∧ at_ t 12 = at_ s 12 ∧
      let count := min (at_ s 4 + n) (2 ^ 32 - 1)
      (at_ s 0 = 0 → at_ t 4 = count ∧ at_ t 8 = at_ s 8) ∧
      (at_ s 0 ≠ 0 → at_ t 4 = count % at_ s 0 ∧ at_ t 8 = (at_ s 8 + count / at_ s 0) % 2 ^ 32)) ∧
  (∀ (id : Nat) (s : State) (o : EngineOp) (sig : Signal) (len left : Nat), Inv s → IsOp s id o → HasPerformed s o →
    o.kind = .copy sig len left →
    (left ≠ 0 → exec (.copyComplete id) s = .next s) ∧
    (left = 0 → ∃ t, exec (.copyComplete id) s = .next t ∧ t.hart = s.hart ∧ OpEnded s t id ∧
      ((∀ w, sig ≠ .word w) → t.mem = s.mem) ∧
      ∀ w, sig = .word w → stored w = true → Backed s w → SameOutside s t w 8 ∧
        numAt t w 8 = min (numAt s w 8 + len) (2 ^ 64 - 1))) ∧
  ∀ (id : Nat) (s : State) (o : EngineOp) (q : Launch), Inv s → IsOp s id o → IsLaunch s o.lid q →
    (isFinal q.state = false → exec (.engineOperationStop id) s = .next s) ∧
    (q.state = 8 → o.scratch = false → exec (.engineOperationStop id) s = .next s) ∧
    (isFinal q.state = true → q.state ≠ 8 ∨ o.scratch = true →
      ∃ t, exec (.engineOperationStop id) s = .next t ∧ t.hart = s.hart ∧ t.mem = s.mem ∧ OpEnded s t id ∧
        (o.remote = false → t.regions = s.regions) ∧
        ∀ c l off, (∃ ad node len left, o.kind = .put (.weir c l off) ad node len left) ∨
            (∃ ad node len dst left, o.kind = .get (.weir c l off) ad node len dst left) → Backed s (.scr c l off) →
          (byteAt t (.scr c l off) 12).getLsbD 0 = true)

/-- R298, R303 to R305, R411: WEIRARM, WEIRWT and the events WEIR_ARRIVAL, ENGINE_OPERATION_STOP and COPY_COMPLETE complete.
The model's choice, not a rule's: a weir is checked first for its window (log 38), and WEIRWT waits stalled (log 10). -/
def Obligations.WeirsCountGenerations : Prop :=
  WeirsAreArmedAndAwaited ∧ CopyEventsCountAndComplete


-- yarns

/-- R291, R292: YBIND of an admitted record binds the slot at position 0 and leaves the others alone; a misaligned address, a refused
record, a mesh that is not open and a slot that holds elements trap; it waits for the hart's older stores to devices and
hosts. -/
def Sys2Proof.Claims.YarnSlotsBindAdmittedRecords : Prop :=
  ∀ (d : Num3) (a : Reg) (s : State) (gs : List Seg), InBudget s → SpansAt s (s.rx a).toNat 64 .read gs → Backs s gs →
    Unheld s gs → s.segsPoisoned gs = false →
    let y : YarnSlot := { YarnSlot.empty with bound := true, record := s.segNat gs }
    (s.hart.unacked ≠ [] → ∃ t, exec (.ybind d a) s = .next t ∧ WaitsIn s t) ∧
    (s.hart.unacked = [] →
      ((s.rx a).toNat % 64 = 0 → AdmittedRecord y → (s.hart.yarn d).held = [] → yarnField y 8 1 < 5 →
        ∃ t, exec (.ybind d a) s = .next t ∧ OnlyYarn s t ∧ Onward s t ∧ t.mem = s.mem ∧ OtherYarnsSame s t d ∧
          t.hart.yarn d = { y with prev := yarnField y 0x10 8 }) ∧
      ((s.rx a).toNat % 64 = 0 → AdmittedRecord y → (s.hart.yarn d).held = [] → 5 ≤ yarnField y 8 1 →
        ∀ h, s.myHandles.mesh.find? (fun h => h.h = yarnField y 0x0C 4) = some h →
        ∃ t, exec (.ybind d a) s = .next t ∧ OnlyYarn s t ∧ Onward s t ∧ t.mem = s.mem ∧ OtherYarnsSame s t d ∧
          t.hart.yarn d = { y with epoch := h.epoch }) ∧
      ((s.rx a).toNat % 64 ≠ 0 → exec (.ybind d a) s = .next (takeTrap true 3 (s.rx a) 0 (atTrap s))) ∧
      ((s.rx a).toNat % 64 = 0 → AdmittedRecord y → yarnField y 8 1 < 5 → (s.hart.yarn d).held ≠ [] →
        ∃ u, exec (.ybind d a) s = .next (takeTrap true 2 (BitVec.ofNat 64 d.toNat) 0 u) ∧ OnlyXLines (counted s) u) ∧
      ((s.rx a).toNat % 64 = 0 → AdmittedRecord y → (s.hart.yarn d).held = [] → 5 ≤ yarnField y 8 1 →
        (∀ h ∈ s.myHandles.mesh, h.h ≠ yarnField y 0x0C 4) →
        ∃ u, exec (.ybind d a) s = .next (takeTrap true 2 (s.rx a) 0 u) ∧ OnlyXLines (counted s) u) ∧
      ((s.rx a).toNat % 64 = 0 → ¬ AdmittedRecord y →
        ∃ u, exec (.ybind d a) s = .next (takeTrap true 2 (s.rx a) 0 u) ∧ OnlyXLines (counted s) u))

/-- R293, R294: VYLD of a PLAIN stream reads the elements from the slot's position on, up to BOUND, into the group from VSTART
on, and sets VL to the end of what it read; with VSTART at or beyond VL only VSTART changes. -/
def Sys2Proof.Claims.YarnLoadsAdvanceTheirStream : Prop :=
  ∀ (d : Reg) (k : Num3) (s : State) (loc : Nat → Loc), d.toNat % s.hart.cfg.gm = 0 → PlainSlot s (s.hart.yarn k) false →
    Unhindered s →
    let y := s.hart.yarn k
    (s.hart.vl ≤ s.hart.vstart → ∃ t, exec (.vyld d k) s = .next t ∧ OnlyYarn s t ∧ Onward s t ∧ t.hart.vstart = 0 ∧
      t.hart.vl = s.hart.vl ∧ t.mem = s.mem ∧ SameVectors s t ∧ ∀ m, t.hart.yarn m = s.hart.yarn m) ∧
    (s.hart.vstart < s.hart.vl → yarnField y 0x28 8 = 0 → InBudget s →
      let n := plainCount y (s.hart.vl - s.hart.vstart)
      let eb := 2 ^ s.hart.ew
      (∀ i, i < n → plainAddr y (y.pos + i) % eb = 0 ∧ Mapped s (plainAddr y (y.pos + i)) .read (loc i) ∧
        Readable s (loc i) eb) →
      ∃ t, exec (.vyld d k) s = .next t ∧ OnlyYarn s t ∧ Onward s t ∧ t.hart.vstart = 0 ∧
        t.hart.vl = s.hart.vstart + n ∧ t.mem = s.mem ∧ OtherYarnsSame s t k ∧ (t.hart.yarn k).pos = y.pos + n ∧
        (t.hart.yarn k).record = y.record ∧ t.hart.status = s.hart.status ∧
        GroupWritten s t s.hart.cfg d fun i =>
          if s.hart.vstart ≤ i ∧ i < s.hart.vstart + n then some (numAt s (loc (i - s.hart.vstart)) eb) else none)

/-- R293 to R295: VYST of a PLAIN stream stores the elements from VSTART on at the slot's position, up to BOUND, publishes the count in
AVAIL where the record names one, and sets VL to the end of what it stored. -/
def Sys2Proof.Claims.YarnStoresAdvanceTheirStream : Prop :=
  ∀ (k : Num3) (a : Reg) (c : Bit1) (s : State) (loc : Nat → Loc) (w : Loc), a.toNat % s.hart.cfg.gm = 0 →
    PlainSlot s (s.hart.yarn k) true →
    let y := s.hart.yarn k
    let n := plainCount y (s.hart.vl - s.hart.vstart)
    let eb := 2 ^ s.hart.ew
    let av := yarnField y 0x28 8
    Inv s → Unhindered s → s.hart.vstart < s.hart.vl → InBudget s →
    (∀ i, i < n → plainAddr y (y.pos + i) % eb = 0 ∧ Mapped s (plainAddr y (y.pos + i)) .write (loc i) ∧
      stored (loc i) = true ∧ Backed s (loc i)) →
    (∀ i j p, i < n → j < n → i ≠ j → within (loc i) eb p = true → within (loc j) eb p = false) →
    (av ≠ 0 → av % 8 = 0 ∧ Mapped s av .write w ∧ stored w = true ∧ Backed s w ∧
      ∀ i p, i < n → within (loc i) eb p = true → within w 8 p = false) →
    ∃ t, exec (.vyst k a c) s = .next t ∧ OnlyYarn s t ∧ Onward s t ∧ t.hart.vstart = 0 ∧
      t.hart.vl = s.hart.vstart + n ∧ SameVectors s t ∧ OtherYarnsSame s t k ∧ (t.hart.yarn k).pos = y.pos + n ∧
      t.hart.status = s.hart.status ∧ (av ≠ 0 → numAt t w 8 = (y.pos + n) % 2 ^ 64) ∧
      (∀ i, i < n → numAt t (loc i) eb = s.hart.el a (s.hart.vstart + i)) ∧
      ∀ p, stored p = true → (∀ i, i < n → within (loc i) eb p = false) → (av ≠ 0 → within w 8 p = false) →
        byteAt t p 0 = byteAt s p 0

/-- R294, R296: YSTAT and YBYTE read the position and the byte offset of a bound slot and trap on an unbound one; YREL unbinds its
slot. -/
def Sys2Proof.Claims.YarnSlotsAreReadAndReleased : Prop :=
  ∀ (d : Reg) (k : Num3) (s : State),
    let y := s.hart.yarn k
    (y.bound = true → InBudget s →
      (∃ t, exec (.ystat d k) s = .next t ∧ OnlyXWait (counted s) t ∧ Onward s t ∧ Wrote s t d (BitVec.ofNat 64 y.pos)) ∧
      ∃ t, exec (.ybyte d k) s = .next t ∧ OnlyXWait (counted s) t ∧ Onward s t ∧ Wrote s t d (BitVec.ofNat 64 y.byteOff)) ∧
    (y.bound = false →
      exec (.ystat d k) s = .next (takeTrap true 2 (BitVec.ofNat 64 k.toNat) 0 (s.withHart Hart.settled)) ∧
      exec (.ybyte d k) s = .next (takeTrap true 2 (BitVec.ofNat 64 k.toNat) 0 (s.withHart Hart.settled)) ∧
      ∃ t, exec (.yrel k) s = .next t ∧ OnlyPc s t ∧ Onward s t) ∧
    (y.bound = true → InBudget s → s.hart.unacked = [] → y.held = [] → yarnField y 0x0B 1 % 2 = 0 ∨ yarnField y 0x28 8 = 0 →
      ∃ t, exec (.yrel k) s = .next t ∧ OnlyYarn s t ∧ Onward s t ∧ t.mem = s.mem ∧ SameVectors s t ∧
        (t.hart.yarn k).bound = false ∧ OtherYarnsSame s t k ∧ t.hart.status = s.hart.status)

/-- R291 to R296: the yarn instructions. The model's choice, not a rule's: corners of yarns, the die of AVAIL among them, are
log 39. -/
def Obligations.YarnInstructionsComplete : Prop :=
  YarnSlotsBindAdmittedRecords ∧ YarnLoadsAdvanceTheirStream ∧ YarnStoresAdvanceTheirStream ∧ YarnSlotsAreReadAndReleased


-- waiting

/-- R187, R201, R203, R289, R290, R305, R329, R374: WAITW_WAKE, FARMRED_RESULT, WEIRWT_WAKE, VWMWAIT_WAKE,
GATED_ELEMENT_READ, CWAIT_RETURN and HANDLE_WAIT_RETURN complete: the wake event of a waiting hart whose next word is such an
instruction runs that instruction again, and leaves alone a hart that does not wait or that a YIELD still holds back (R188).
FARM_BARRIER_RELEASE completes: it completes the FARM of a hart whose loop is open. The model's choice, not a rule's: that a
wait is a second execution of the same word is the model's (log 10). -/
def Obligations.WaitingInstructionsRunAgain : Prop :=
  (∀ (s s' : State) (w : BitVec 32) (i e : Instr), fetch s = .ok (w, s') → decode w = .ok i →
    wakeEvent s.hart.hid i = some e →
    (s.hart.run = .stalled ∨ s.hart.run = .sleep → s.hart.quiet ≤ s.clock → ∃ t, exec i (resumed s') = .next t ∧
      exec e s = .next (giveTurn s.hart.hid (t.parked.length + 1) t) ∧ (t.hart.hid = s.hart.hid → exec e s = .next t)) ∧
    (s.hart.run = .ready ∨ s.hart.run = .swap ∨ s.clock < s.hart.quiet → exec e s = .next s)) ∧
  ∀ (lid : Nat) (a b : Reg) (s s' : State) (w : BitVec 32) (l : Launch), fetch s = .ok (w, s') →
    decode w = .ok (.farm a b) → IsLaunch s lid l → s.hart.lid = lid → l.lid = lid →
    (∀ h ∈ s.parked, h.lid ≠ lid ∧ h.hid ≠ s.hart.hid) →
    (s.hart.run = .stalled → s.hart.quiet ≤ s.clock → s.hart.unacked = [] → s.hart.farmGen < s.myFarm.gen →
      (s.rx a).toNat = s.myFarm.n → (s.rx b).toNat = s.myFarm.l → s.myFarm.l ≠ 0 →
      (s.myFarm.n + s.myFarm.l - 1) / s.myFarm.l ≤ 2 ^ 24 →
      ∃ t, exec (.farmBarrierRelease lid (l.farmOf s.hart.j)) s = .next t ∧ Onward s t ∧
        t.hart.farmGen = s.hart.farmGen + 1 ∧ t.hart.run = .ready ∧ SameX s t) ∧
    (s.hart.run = .ready → exec (.farmBarrierRelease lid (l.farmOf s.hart.j)) s = .next s)

-- meshes

/-- R307, R309, R313, R314, R329: MSOPEN of a record that passes its checks opens a handle in a free slot, or answers 0 with 16 open; one
that fails them raises bad operand handle; MSCLOSE closes a handle, and MSWAIT reads the status of its latest operation; both
wait while one runs. -/
def Sys2Proof.Claims.MeshHandlesOpenCloseAndWait : Prop :=
  (∀ (d a : Reg) (s u : State) (m : MeshData) (gs : List (List Seg)), s.hart.unacked = [] →
    s.openMesh (s.rx a).toNat = .ok (m, gs, u) →
    s.rangesHeld [((s.rx a).toNat, 256)] = false → s.rangesHeld m.head.arrays = false →
    let hs := s.myHandles
    (16 ≤ hs.mesh.length → ∃ t, exec (.msopen d a) s = .next t ∧ Onward s t ∧ Wrote s t d 0 ∧ t.mem = u.mem ∧
      t.myHandles.mesh = hs.mesh) ∧
    (hs.mesh.length < 16 → (hs.mesh.map (·.h % 16)).Nodup →
      ∃ t h, exec (.msopen d a) s = .next t ∧ Onward s t ∧ Wrote s t d (BitVec.ofNat 64 h) ∧ t.mem = u.mem ∧
        t.myHandles.mesh = hs.mesh ++ [⟨h, m.head, s.mySpace, s.mySpace, gs, 0, 0, m⟩] ∧ t.myHandles.serial = hs.serial + 1 ∧
        h / 16 = hs.serial % 2 ^ 28 ∧ (∀ o ∈ hs.mesh, o.h % 16 ≠ h % 16) ∧ ∀ k, k < h % 16 → ∃ o ∈ hs.mesh, o.h % 16 = k)) ∧
  (∀ (d a : Reg) (s : State), s.hart.unacked = [] → s.openMesh (s.rx a).toNat = .error .broken →
    s.rangesHeld [((s.rx a).toNat, 256)] = false →
    exec (.msopen d a) s = .next (takeTrap true 2 (s.rx a) 0 (s.withHart Hart.settled))) ∧
  ∀ (d a : Reg) (s : State) (h : MeshHandle), OpenMesh s a h →
    (s.handleBusy h.h = false →
      (∃ t, exec (.mswait d a) s = .next t ∧ OnlyXWait s t ∧ Onward s t ∧ Wrote s t d h.last) ∧
      ∃ t, exec (.msclose a) s = .next t ∧ Onward s t ∧ SameX s t ∧ t.mem = s.mem ∧
        t.myHandles.mesh = s.myHandles.mesh.filter fun o => o.h ≠ h.h) ∧
    (s.handleBusy h.h = true →
      (∃ t, exec (.mswait d a) s = .next t ∧ WaitsIn s t) ∧ ∃ t, exec (.msclose a) s = .next t ∧ WaitsIn s t)

/-- R57, R316: MSKEY and MSFIND complete: an active element becomes the key of the local cell that it indexes, or the index of the
local cell with its key, and all ones where there is none. -/
def Sys2Proof.Claims.KeysAndIndicesAreFound : Prop :=
  ∀ (d a b : Reg) (c : Bit1) (g : Num3) (s : State) (h : MeshHandle) (m : MeshData) (gs : List (List Seg)), OpenMesh s b h →
    s.handleBusy h.h = false → s.hart.ew = 3 → d.toNat % s.hart.cfg.gm = 0 → a.toNat % s.hart.cfg.gm = 0 →
    s.hart.poison = [] → s.hart.cut = none → VlFits s s.hart.cfg → s.readMesh h = .ok (m, gs, s) →
    s.segsPoisoned gs.flatten = false →
    let none64 := 2 ^ 64 - 1
    (∃ t, exec (.mskey d a b c g) s = .next t ∧ OnlyAccess s t ∧ Onward s t ∧ t.hart.vstart = 0 ∧ t.mem = s.mem ∧
      SameMasks s t ∧ t.hart.status = s.hart.status ∧ ∃ val : Nat → Option Nat, GroupWritten s t s.hart.cfg d val ∧
        ∀ i, (Active s g i → val i = some ((m.locals[s.hart.el a i]?).getD none64)) ∧ (¬ Active s g i → val i = none)) ∧
    ∃ t, exec (.msfind d a b c g) s = .next t ∧ OnlyAccess s t ∧ Onward s t ∧ t.hart.vstart = 0 ∧ t.mem = s.mem ∧
      SameMasks s t ∧ t.hart.status = s.hart.status ∧ ∃ val : Nat → Option Nat, GroupWritten s t s.hart.cfg d val ∧
        ∀ i, (Active s g i → ∃ x, val i = some x ∧
          ((s.hart.el a i ∈ m.locals ∧ m.locals[x]? = some (s.hart.el a i) ∧
              ∀ j, j < x → m.locals[j]? ≠ some (s.hart.el a i)) ∨
            s.hart.el a i ∉ m.locals ∧ x = none64)) ∧ (¬ Active s g i → val i = none)

/-- R308, R317 to R319, R323, R324: MSREFINE, MSBAL and MSGHOST over one part complete and leave one operation in flight on the
handle, with its STATUS and DONE at the block's places. One that makes a new mesh writes only its output arrays: it ends with code 1
and nothing written exactly where the new forest has more bits than FCAP or the new mesh more cells than RCAP, and else with code
0, the new record and the number of its owned cells as detail; no flag set keeps that number, every flag set to refine
multiplies it by the children of a cell. -/
def Sys2Proof.Claims.MeshOperationsMakeTheirMesh : Prop :=
  ∀ (i : Instr) (s : State) (kind mode : Nat) (a b : Reg) (h : MeshHandle) (blk : Nat) (tails : List (List Seg))
    (flags : List Seg) (outs arrs : List (List Seg)) (m : MeshData),
    (i = .msrefine a b ∧ kind = 0 ∨ i = .msbal a b ∧ kind = 1 ∨ i = .msghost a b ∧ kind = 2) → Inv s →
    JobReady s kind mode a b h blk tails flags outs arrs m →
    let r := newRecord s kind mode h blk flags m
    let f := blockField blk
    ∃ t w nr, exec i s = .next t ∧ OnlyDispatch s t ∧ Onward s t ∧ SameMasks s t ∧ InFlight s t h.h blk tails outs.flatten w nr ∧
      (kind = 2 ∧ mode = 0 → w.toNat / 2 ^ 56 = 0 ∧ nr = none ∧ SameMemory s t) ∧
      (kind ≠ 2 ∨ mode = 1 → SameBeyond s t outs.flatten ∧
        r.addr = f 0x08 8 ∧ r.dim2 = h.mesh.dim2 ∧ r.nbase = h.mesh.nbase ∧ r.maxlev = h.mesh.maxlev ∧ r.nghost = 0 ∧
        (kind ≠ 0 → r.nown = h.mesh.nown) ∧
        (kind = 0 → (∀ k, k < h.mesh.nown → nth (s.segNat flags) 1 k = 0) → r.nown = h.mesh.nown) ∧
        (kind = 0 → (∀ k, k < h.mesh.nown → nth (s.segNat flags) 1 k = 1) →
          (∀ k ∈ m.owned, keyLevel k < h.mesh.maxlev) → r.nown = h.mesh.nkids * h.mesh.nown) ∧
        (f 0x18 8 < r.fbits → w = statusOf 1 0 ∧ nr = none ∧ SameMemory s t) ∧
        (r.fbits ≤ f 0x18 8 → f 0x40 8 < r.nown → w = statusOf 1 2 ∧ nr = none ∧ SameMemory s t) ∧
        (r.fbits ≤ f 0x18 8 → r.nown ≤ f 0x40 8 → w = statusOf 0 r.nown ∧ t.segBytes (outs.headD []) = meshRecBytes r ∧
          ∃ q, nr = some q ∧ q.mesh = r ∧ q.made = s.mySpace))

/-- R6, R65, R325: MSREMAP completes with every cell of the new array whose record names a source of the same or a coarser cell holding
that source's bytes, every cell whose record names a family holding the means of its components, the others as before, and code 0 to
come with the flags of the means and the number of records as detail; a record with a reserved bit set raises bad operand handle
with nothing changed. -/
def Sys2Proof.Claims.RemapsCopyTheirSources : Prop :=
  ∀ (a b : Reg) (s : State) (h : MeshHandle) (blk tb : Nat) (tails : List (List Seg)) (recs old new : List Seg),
    let f := blockField blk
    let n := f 0x08 8
    let cb := f 0x2C 4 * tb
    OpenMesh s a h → InBudget s → Free s h.h → BlockAt s (s.rx b) blk → f 0x29 3 = 0 → f 0x30 0xB0 = 0 →
    remapBytes (f 0x28 1) = some tb → 1 ≤ f 0x2C 4 → f 0x2C 4 ≤ 64 → f 0 8 % 8 = 0 → f 0x10 8 % tb = 0 → f 0x20 8 % tb = 0 →
    clash (f 0x10 8, f 0x18 8 * cb) (f 0x20 8, n * cb) = false → Inv s →
    NoLinePoisoned s → AllSpan s (tailRanges (s.rx b) blk) tails → (∀ gs ∈ tails, onlyDevice gs = true) →
    SpansAt s (f 0 8) (8 * n) .read recs → SpansAt s (f 0x10 8) (f 0x18 8 * cb) .read old →
    SpansAt s (f 0x20 8) (n * cb) .write new → AllBack s [recs, old, new] → Apart new →
    NoneWrites s recs → s.segsPoisoned recs = false → s.segsPoisoned old = false →
    let rec_ (i : Nat) := nth (s.segNat recs) 8 i
    let src (i : Nat) := rec_ i / 2 ^ 32
    let rel (i : Nat) := rec_ i / 2 ^ 29 % 8
    let kids := h.mesh.nkids
    ((∃ i, i < n ∧ rec_ i % 2 ^ 26 ≠ 0) →
      ∃ u, exec (.msremap a b) s = .next (takeTrap true 2 (s.rx b) 0 u) ∧ OnlyXLines (counted s) u) ∧
    ((∀ i, i < n → rec_ i % 2 ^ 26 = 0) → (∀ i, i < n → src i ≠ 2 ^ 32 - 1 →
        rel i ≤ 2 ∧ src i < f 0x18 8 ∧ (rel i = 2 → src i + kids ≤ f 0x18 8)) →
      ∃ t fl, exec (.msremap a b) s = .next t ∧ OnlyDispatch s t ∧ Onward s t ∧ SameMasks s t ∧
        InFlight s t h.h blk tails new (statusWith 0 fl n) none ∧ SameBeyond s t new ∧
        (∀ i, i < n →
          let cell (u : State) := ((u.segBytes new).drop (i * cb)).take cb
          (src i = 2 ^ 32 - 1 → cell t = cell s) ∧
          (src i ≠ 2 ^ 32 - 1 → rel i ≠ 2 → cell t = ((s.segBytes old).drop (src i * cb)).take cb)) ∧
        ∃ flags : Nat → Nat → Nat,
          (∀ i c, i < n → src i ≠ 2 ^ 32 - 1 → rel i = 2 → c < f 0x2C 4 →
            IsMean (f 0x28 1) ((List.range kids).map fun k => nth (s.segNat old) tb ((src i + k) * f 0x2C 4 + c))
              (nth (t.segNat new) tb (i * f 0x2C 4 + c)) (flags i c)) ∧
          ∀ k, k < 5 → (fl.testBit k = true ↔
            ∃ i c, i < n ∧ c < f 0x2C 4 ∧ src i ≠ 2 ^ 32 - 1 ∧ rel i = 2 ∧ (flags i c).testBit k = true))

/-- R63, R326, R327: MSCOLOR completes in its three modes, over the cells of a mesh, the faces of its FACE stream and the elements of a
graph: with the colours that the greedy rule gives below MAXC it writes them, the elements in colour order and the 65 offsets,
and code 0 is to come with the number of colours; code 2 is to come, and nothing is written, exactly where an element
finds every colour below MAXC held by a conflicting element before it. -/
def Sys2Proof.Claims.ElementsAreColouredGreedily : Prop :=
  (∀ (a b : Reg) (s : State) (mode blk : Nat) (h : MeshHandle) (tails outs arrs : List (List Seg)) (m : MeshData),
    let n := if mode = 0 then m.locals.length else m.faceStream.length / 2
    mode < 2 → blockField blk 0x20 8 = 0 → s.rx a ≠ 0 → OpenMesh s a h → Free s h.h → ArraysSpan s h arrs →
    (∀ gs ∈ arrs, onlyDevice gs = true) → s.meshFrom h.mesh arrs = .ok m → h.data = m →
    ColourReady s mode b blk n tails outs →
    ∃ t w, exec (.mscolor a b) s = .next t ∧ OnlyDispatch s t ∧ Onward s t ∧ SameMasks s t ∧
      InFlight s t h.h blk tails outs.flatten w none ∧ SameBeyond s t outs.flatten ∧
      ColoursTo s t (if mode = 0 then cellEdge m else faceEdge m) n (blockField blk 4 1) outs w) ∧
  ∀ (a b : Reg) (s : State) (blk : Nat) (tails outs : List (List Seg)) (last rows cols : List Seg),
    let f := blockField blk
    let n := f 0x20 8
    let rp (i : Nat) := nth (s.segNat rows) 8 i
    let ci (e : Nat) := nth (s.segNat cols) 4 e
    s.rx a = 0 → 1 ≤ n → n < 2 ^ 32 → f 0x28 8 % 8 = 0 → f 0x30 8 % 4 = 0 → ColourReady s 2 b blk n tails outs →
    SpansAt s ((f 0x28 8 + 8 * n) % 2 ^ 64) 8 .read last → SpansAt s (f 0x28 8) (8 * (n + 1)) .read rows →
    SpansAt s (f 0x30 8) (4 * s.segNat last) .read cols → AllBack s [last, rows, cols] →
    s.segsPoisoned (last ++ rows ++ cols) = false →
    (∀ i, i < n → rp i ≤ rp (i + 1) ∧ rp (i + 1) ≤ s.segNat last) →
    (∀ i e, i < n → rp i ≤ e → e < rp (i + 1) → ci e < n) →
    ∃ t w, exec (.mscolor a b) s = .next t ∧ OnlyDispatch s t ∧ Onward s t ∧ SameMasks s t ∧
      InFlight s t 0 blk tails outs.flatten w none ∧ SameBeyond s t outs.flatten ∧
      ColoursTo s t (graphEdge rp ci) n (f 4 1) outs w

/-- R310, R311, R315, R319, R351: ENGINE_OPERATION_COMPLETE ends an operation of a launch that goes on: STATUS holds its word, DONE has
grown by 1 but for its largest value, the handle reads that word as its latest status and, when the operation made one, holds the
new mesh in a new epoch; nothing happens before what the operation has written to devices and hosts has performed there. -/
def Sys2Proof.Claims.EngineCompletionWritesStatusAndDone : Prop :=
  (∀ (id : Nat) (s : State) (o : EngineOp) (w : Word) (st dn : Option Loc) (mesh : Option NewMesh) (gibbs : Bool), IsOp s id o →
    o.kind = .engine w st dn mesh gibbs → ¬ HasPerformed s o → exec (.engineOperationComplete id) s = .next s) ∧
  ∀ (id : Nat) (s : State) (o : EngineOp) (w : Word) (st dn : Loc) (mesh : Option NewMesh), Inv s → IsOp s id o →
    (∀ l, IsLaunch s o.lid l → isFinal l.state = false) → HasPerformed s o →
    o.kind = .engine w (some st) (some dn) mesh false → stored st = true → Backed s st → stored dn = true → Backed s dn →
    (∀ p, within st 8 p = true → within dn 8 p = false) →
    ∃ t, exec (.engineOperationComplete id) s = .next t ∧ t.hart = s.hart ∧ OpEnded s t id ∧ numAt t st 8 = w.toNat ∧
      numAt t dn 8 = min (numAt s dn 8 + 1) (2 ^ 64 - 1) ∧
      (∀ p, stored p = true → within st 8 p = false → within dn 8 p = false → byteAt t p 0 = byteAt s p 0) ∧
      (t.handlesOf o.lid).mesh = (s.handlesOf o.lid).mesh.map fun h =>
        if h.h ≠ o.handle then h
        else match mesh with
          | some q =>
            { h with last := w, mesh := q.mesh, made := q.made, places := q.places, data := q.data, epoch := h.epoch + 1 }
          | none => { h with last := w }

/-- R307 to R327, R329: the instructions of major 0x36, and the completion of an engine's operation. The model's choice, not
a rule's: MSWAIT, MSCLOSE and what finds its handle busy wait stalled at the same pc (log 10), an operation moves its data
when it begins (log 16), the order of MSOPEN's checks is log 40, that of command blocks log 41, parts are log 42, and poison
for MSKEY, MSFIND and in lists is log 61. -/
def Obligations.MeshInstructionsComplete : Prop :=
  MeshHandlesOpenCloseAndWait ∧ KeysAndIndicesAreFound ∧ MeshOperationsMakeTheirMesh ∧ RemapsCopyTheirSources ∧ ElementsAreColouredGreedily ∧ EngineCompletionWritesStatusAndDone


-- sampling

/-- R307, R309, R329, R331, R332, R336: GBIND of a record and a graph that pass their checks opens a handle whose clamped variables take their
clamp values, and answers 0 where 8 handles are open or no room is left; GTABLE loads the 256 entries of the table; GREL
closes a handle, and GWAIT reads the status of its latest operation; both wait while one runs. -/
def Sys2Proof.Claims.SamplingHandlesBindAndRelease : Prop :=
  (∀ (d a : Reg) (s : State) (rec cv iv dn : List Seg) (g0 : GibbsHandle) (ne : Nat) (gs : List (List Seg)) (q : Graph),
    let g : GibbsHandle := { g0 with ne := ne, graph := q }
    let init := blockField (s.segNat rec) 0x40 8
    let n := (g.nvar + 7) / 8
    s.hart.unacked = [] → NoLinePoisoned s → NotBegun s →
    (s.rx a).toNat % 128 = 0 → SpansAt s (s.rx a).toNat 128 .read rec → Backs s rec → Unheld s rec → s.segsPoisoned rec = false →
    parseGbind (s.segNat rec) = some g0 → GraphAt s g gs q → (∀ r ∈ gs, Unheld s r) →
    SpansAt s (blockField (s.segNat rec) 0x38 8) n .read cv → Backs s cv → Unheld s cv → s.segsPoisoned cv = false →
    SpansAt s init (if init = 0 then 0 else n) .read iv → Backs s iv → Unheld s iv → s.segsPoisoned iv = false →
    SpansAt s g.done (if g.done = 0 then 0 else 8) .read dn →
    (RoomFor s g → ∃ t h st, exec (.gbind d a) s = .next t ∧ OnlyEngine { s with hart := { s.hart with x := t.hart.x } } t ∧
      Onward s t ∧ Wrote s t d (BitVec.ofNat 64 h) ∧ t.mem = s.mem ∧
      t.myHandles.gibbs = s.myHandles.gibbs ++ [{ g with h := h, s := st, marg := List.replicate g.nvar 0 }] ∧
      h / 16 = s.myHandles.serial % 2 ^ 28 ∧
      ∀ v, v < g.nvar → st.testBit v = if q.clampm.testBit v then (s.segNat cv).testBit v else (s.segNat iv).testBit v) ∧
    (¬ RoomFor s g → ∃ t, exec (.gbind d a) s = .next t ∧ OnlyXLines s t ∧ Onward s t ∧ Wrote s t d 0)) ∧
  (∀ (a b : Reg) (s : State) (g : GibbsHandle) (tab : List Seg), OpenGibbs s a g → Free s g.h →
    SpansAt s (s.rx b).toNat 2048 .read tab → Backs s tab → Unheld s tab → s.segsPoisoned tab = false →
    ((s.rx b).toNat % 8 = 0 → ∃ t, exec (.gtable a b) s = .next t ∧ OnlyEngine s t ∧ Onward s t ∧ t.mem = s.mem ∧
      t.ops = s.ops ∧ t.myHandles.gibbs = s.myHandles.gibbs.map fun o => if o.h = g.h then
        { o with table := some ((List.range 256).map fun k => BitVec.ofNat 64 (nth (s.segNat tab) 8 k)) } else o) ∧
    ((s.rx b).toNat % 8 ≠ 0 → exec (.gtable a b) s = .next (takeTrap true 3 (s.rx b) 0 (s.withHart Hart.settled)))) ∧
  ∀ (d a : Reg) (s : State) (g : GibbsHandle), OpenGibbs s a g →
    (s.handleBusy g.h = false →
      (∃ t, exec (.grel a) s = .next t ∧ OnlyEngine s t ∧ Onward s t ∧ t.mem = s.mem ∧ t.ops = s.ops ∧
        t.myHandles.gibbs = s.myHandles.gibbs.filter fun o => o.h ≠ g.h) ∧
      ∃ t, exec (.gwait d a) s = .next t ∧ OnlyXWait s t ∧ Onward s t ∧ Wrote s t d g.last) ∧
    (s.handleBusy g.h = true →
      (∃ t, exec (.grel a) s = .next t ∧ WaitsIn s t) ∧ ∃ t, exec (.gwait d a) s = .next t ∧ WaitsIn s t)

/-- R333 to R335: GSWEEP completes: with no table code 7 is to come and nothing changes, with no sweep code 0; sweeps update the free
variables class by class from the states that the class finds, by the draw of R166 below p24 of the variable's field, count every
variable that is 1 after a sweep, and have as detail how many fields were NaN. GREAD writes the states or the counters, and
GREAD.marg.clr clears the counters. -/
def Sys2Proof.Claims.SweepsAndReadsComplete : Prop :=
  ∀ (a b : Reg) (s : State) (g : GibbsHandle) (dn : Option Loc), OpenGibbs s a g → Free s g.h → InBudget s → DoneAt s g dn →
    let n := (s.rx b).toNat % 2 ^ 32
    let base := (s.rx b).toNat / 2 ^ 32
    let flying (t : State) (ws : List Seg) (w : Word) :=
      Started s t g.h (ws ++ dn.toList.map fun l => ⟨l, 8⟩) (.engine w none dn none true)
    (g.table = none → ∃ t, exec (.gsweep a b) s = .next t ∧ OnlyEngine s t ∧ Onward s t ∧ t.mem = s.mem ∧
      flying t [] (statusOf 7 0) ∧ t.myHandles = s.myHandles) ∧
    (g.table ≠ none → n = 0 → base + n ≤ 2 ^ 32 → ∃ t, exec (.gsweep a b) s = .next t ∧ OnlyEngine s t ∧ Onward s t ∧
      t.mem = s.mem ∧ flying t [] (statusOf 0 0) ∧ t.myHandles = s.myHandles) ∧
    (g.table ≠ none → 2 ^ 32 < base + n → exec (.gsweep a b) s = .next (takeTrap true 2 (s.rx b) 0 (atTrap s))) ∧
    (∀ tab gs q, g.table = some tab → 1 ≤ n → base + n ≤ 2 ^ 32 → GraphAt s g gs q → g.bad = [] → g.badMarg = [] →
      ∃ t st mg k, exec (.gsweep a b) s = .next t ∧ OnlyEngine s t ∧ Onward s t ∧ t.mem = s.mem ∧
        flying t [] (statusOf 0 k) ∧ Swept q g tab s.hart.seed n base st mg k ∧
        t.myHandles.gibbs = s.myHandles.gibbs.map (fun o => if o.h = g.h then { o with s := st, marg := mg } else o)) ∧
    ∀ dst, Inv s → g.bad = [] → g.badMarg = [] → g.marg.length = g.nvar → Backs s dst → Apart dst →
      let bits := bytesOf (g.s % 2 ^ g.nvar) ((g.nvar + 7) / 8)
      (SpansAt s (s.rx b).toNat ((g.nvar + 7) / 8) .write dst →
        ∃ t, exec (.greadState a b) s = .next t ∧ OnlyEngine s t ∧ Onward s t ∧ t.segBytes dst = bits ∧
          SameBeyond s t dst ∧ flying t dst (statusOf 0 ((g.nvar + 7) / 8))) ∧
      ((s.rx b).toNat % 2 = 0 → SpansAt s (s.rx b).toNat (2 * g.nvar) .write dst →
        (∃ t, exec (.greadMarg a b) s = .next t ∧ OnlyEngine s t ∧ Onward s t ∧ t.segBytes dst = fieldBytes 2 g.marg ∧
          SameBeyond s t dst ∧ flying t dst (statusOf 0 (2 * g.nvar)) ∧ t.myHandles = s.myHandles) ∧
        ∃ t, exec (.greadMargClr a b) s = .next t ∧ OnlyEngine s t ∧ Onward s t ∧ t.segBytes dst = fieldBytes 2 g.marg ∧
          SameBeyond s t dst ∧ flying t dst (statusOf 0 (2 * g.nvar)) ∧
          t.myHandles.gibbs = s.myHandles.gibbs.map fun o => if o.h = g.h then { o with marg := o.marg.map fun _ => 0 } else o)

/-- R307, R329 to R336: the instructions of major 0x37. The model's choice, not a rule's: GWAIT and GREL wait stalled at the
same pc (log 10), an operation moves its data when it begins (log 16), the order of GBIND's checks is log 43, and a graph
that changed is log 61. -/
def Obligations.SamplingInstructionsComplete : Prop :=
  SamplingHandlesBindAndRelease ∧ SweepsAndReadsComplete


-- collectives

/-- R359, R360, R366: CVIEW writes the view summary, zero with no view, CVIEW.fid the fabric id, and CVIEW.map stores the member
map. -/
def Sys2Proof.Claims.ViewsAreRead : Prop :=
  ∀ (d a : Reg) (s : State),
    let f := s.fabric
    (∃ t w, exec (.cview d) s = .next t ∧ OnlyX s t ∧ Onward s t ∧ Wrote s t d w ∧ (¬ InView s → w = 0) ∧
      (InView s → w = BitVec.ofNat 64 (f.members.length * 2 ^ 46 + 2 ^ 45 + rankIn f.members f.fid * 2 ^ 32 + f.tag))) ∧
    (∃ t, exec (.cviewFid d) s = .next t ∧ OnlyX s t ∧ Onward s t ∧ Wrote s t d (BitVec.ofNat 64 (f.fid % 8192))) ∧
    (∀ gs, Inv s → (s.rx a).toNat % 8 = 0 → SpansAt s (s.rx a).toNat 1024 .write gs → Backs s gs → Apart gs → Unheld s gs →
      ∃ t, exec (.cviewMap a) s = .next t ∧ OnlyDispatch s t ∧ Onward s t ∧ SameBeyond s t gs ∧ t.ops = s.ops ∧
        ∀ m, m < 8192 → ((t.segBytes gs).getD (m / 8) 0).getLsbD (m % 8) = decide (m ∈ f.members)) ∧
    ((s.rx a).toNat % 8 ≠ 0 → exec (.cviewMap a) s = .next (takeTrap true 3 (s.rx a) 0 (s.withHart Hart.settled)))

/-- R367 to R369, R373: COLL of an accepted record completes: with no view its STATUS becomes code 7, under a stale ETAG code 1 with
the current tag, for a pair that is unfinished here code 6, and else the collective is in flight with the member's own elements
and its record. -/
def Sys2Proof.Claims.CollectivesAreDispatched : Prop :=
  ∀ (a : Reg) (s : State) (x : Nat) (loc : Loc) (src dst : List Seg), RecordReady s a x loc src dst → Inv s →
    (∀ c ∈ s.colls, c.id < s.nextOp) → (s.colls.filter fun c => c.status.isSome).length < 64 →
    let etag := nth x 4 8
    let cid := nth x 4 9
    let ends (w : Word) := ∃ t, exec (.coll a) s = .next t ∧ Onward s t ∧ SameX s t ∧ SameOutside s t (loc.plus 0x30) 8 ∧
      numAt t (loc.plus 0x30) 8 = w.toNat
    (¬ InView s → ends (statusOf 7 0)) ∧
    (InView s → etag ≠ s.fabric.tag → ends (statusOf 1 s.fabric.tag)) ∧
    (InView s → etag = s.fabric.tag → (∃ c, IsColl s etag cid c) → ends (statusOf 6 (2 ^ 32 - 1))) ∧
    (InView s → etag = s.fabric.tag → (¬ ∃ c, IsColl s etag cid c) →
      ∃ t c, exec (.coll a) s = .next t ∧ Onward s t ∧ SameX s t ∧ SameMemory s t ∧ t.colls = s.colls ++ [c] ∧
        c.etag = etag ∧ c.cid = cid ∧ c.hdr = recordHdr x ∧ c.status = none ∧ c.dst = dst ∧ c.record = loc ∧
        c.rank = rankIn s.fabric.members s.fabric.fid ∧
        ∃ q ∈ c.shares, q.rank = c.rank ∧ q.poisoned = false ∧
          q.data.length = sourceCount (recordHdr x) s.fabric.size s.fabric.rank ∧
          ∀ i, i < q.data.length → q.data[i]? = some (nth (s.segNat src) c.esize i))

/-- R372, R374: CWAIT returns the status word of the latest collective of the record, waits while it is unfinished, and reads the record's
STATUS where the package keeps none. -/
def Sys2Proof.Claims.CwaitReturnsTheLatestStatus : Prop :=
  ∀ (d a : Reg) (s : State) (loc : Loc), (s.rx a).toNat % 64 = 0 → Mapped s (s.rx a).toNat .read loc → stored loc = true →
    (∀ c w, c ∈ s.colls → c.record = loc → (∀ o ∈ s.colls, o.record = loc → o ≠ c → o.id < c.id) → c.status = some w →
      ∃ t, exec (.cwait d a) s = .next t ∧ OnlyXWait s t ∧ Onward s t ∧ Wrote s t d w) ∧
    (∀ c, c ∈ s.colls → c.record = loc → (∀ o ∈ s.colls, o.record = loc → o ≠ c → o.id < c.id) → c.status = none →
      ∃ t, exec (.cwait d a) s = .next t ∧ WaitsIn s t) ∧
    ((∀ c ∈ s.colls, c.record ≠ loc) → s.poisonedAt (loc.plus 0x30) 8 = false →
      ∃ t, exec (.cwait d a) s = .next t ∧ OnlyXLines s t ∧ Onward s t ∧
        Wrote s t d (BitVec.ofNat 64 (numAt s (loc.plus 0x30) 8)))

/-- R362, R369 to R371, R373, R377: COLLECTIVE_MATCH does nothing once a proposal is acknowledged. Else it makes this member's share once
its source has arrived, or, with every member's record here, ends the collective with code 6 and the lowest rank whose record
differs from rank 0's, or code 5 and the lowest rank whose source was poisoned, or, under QSUM, agrees the exponents of the
blocks, or marks this member as holding its result. -/
def Sys2Proof.Claims.CollectivesMatchTheirRecords : Prop :=
  ∀ (etag cid : Nat) (s : State) (c : Coll), Inv s → IsColl s etag cid c → StatusStored s c → RanksDiffer c →
    let e := exec (.collectiveMatch etag cid) s
    let same := ∀ q, ¬ DiffersAt c q
    let clean := ∀ q ∈ c.shares, q.poisoned = false
    let ends (w : Word) := ∃ t, e = .next t ∧ t.hart = s.hart ∧ SameOutside s t (c.record.plus 0x30) 8 ∧
      numAt t (c.record.plus 0x30) 8 = w.toNat
    (s.fabric.acked ≠ none ∨ c.matched = false ∧ c.gathers = false → e = .next s) ∧
    (s.fabric.acked = none → c.gathers = true →
      ∃ t, e = .next t ∧ t.hart = s.hart ∧ t.mem = s.mem ∧
        ∀ d ∈ t.colls, d.id = c.id → ∃ q ∈ d.shares, q.rank = c.rank ∧ q.hdr = c.hdr ∧ q.poisoned = s.segsPoisoned c.src ∧
          q.data.length = min ((c.src.map (·.len)).sum / c.esize) (sourceCount c.hdr c.nNew c.rank) ∧
          (c.prior = none → Backs s c.src → ∀ i, i < q.data.length → q.data[i]? = some (nth (s.segNat c.src) c.esize i))) ∧
    (s.fabric.acked = none → c.gathers = false → c.matched = true →
      (∀ q, DiffersAt c q → (∀ o, DiffersAt c o → q.rank ≤ o.rank) → ends (statusOf 6 q.rank)) ∧
      (same → ∀ q ∈ c.shares, q.poisoned = true → (∀ o ∈ c.shares, o.poisoned = true → q.rank ≤ o.rank) →
        ends (statusOf 5 q.rank)) ∧
      (same → clean → c.hdr.mode = 1 → c.agreed = false →
        ∃ t es, e = .next t ∧ t.hart = s.hart ∧ t.mem = s.mem ∧ (∀ es', c.exps = some es' → es = es') ∧
          (c.exps = none → (∀ q ∈ c.shares, q.exps = none) → BlockExponents c es) ∧
          ∀ d ∈ t.colls, d.id = c.id → d.exps = some es ∧ d.held = c.held ∧ ∀ q ∈ d.shares, q.rank = c.rank → q.exps = some es) ∧
      (same → clean → c.hdr.mode ≠ 1 ∨ c.agreed = true →
        ∃ t, e = .next t ∧ t.hart = s.hart ∧ t.mem = s.mem ∧ ∀ d ∈ t.colls, d.id = c.id → c.rank ∈ d.held))

/-- R362, R370 to R373, R377: COLLECTIVE_COMPLETE of a collective whose results every member holds writes its destination and STATUS: code 0
with ETAG as detail, or, where it ran again, code 3 or under REWEIGHT code 4 with the tag of the view in which it ran. The
destination holds the reduction of every member's elements, the member's part of it, every member's elements in rank order, or the
root's, by kind, and FLAGS those of every step. Once a proposal is acknowledged, nothing begins to complete before the
change; STATUS and the end wait for what has gone to devices and hosts before them. -/
def Sys2Proof.Claims.CollectivesWriteTheirResults : Prop :=
  ∀ (etag cid : Nat) (s : State) (c : Coll), Inv s → IsColl s etag cid c → StatusStored s c →
    let e := exec (.collectiveComplete etag cid) s
    (c.isOpen = true → c.everywhere = false ∨ s.fabric.acked ≠ none → e = .next s) ∧
    (s.performed c.sent = false → e = .next s) ∧
    (∀ w, s.performed c.sent = true → c.ending = some w →
      ∃ t, e = .next t ∧ t.hart = s.hart ∧ t.mem = s.mem ∧ ∀ d ∈ t.colls, d.id = c.id → d.status = some w) ∧
    (s.fabric.acked = none → c.everywhere = true → CollWhole s c →
      ∃ t xs fl, e = .next t ∧ t.hart = s.hart ∧ CollResult c xs fl ∧
        let dst := segsAt c.dst 0 (c.esize * xs.length)
        t.segBytes dst = fieldBytes c.esize xs ∧ SameBeyond s t (dst ++ [⟨c.record.plus 0x30, 8⟩]) ∧
        numAt t (c.record.plus 0x30) 8 = (if c.restarted then statusWith (if c.hdr.policy = 2 then 4 else 3) fl c.tag
          else statusWith 0 fl c.etag).toNat)

/-- R359, R360, R366 to R374: CVIEW, COLL and CWAIT, and the events COLLECTIVE_MATCH and COLLECTIVE_COMPLETE of a collective,
complete. The model's choice, not a rule's: when sources are read is log 16 and log 44, holds and changes of a view are log
66, and CWAIT, and COLL under a hold or a proposal, wait stalled (log 10). -/
def Obligations.CollectivesComplete : Prop :=
  ViewsAreRead ∧ CollectivesAreDispatched ∧ CwaitReturnsTheLatestStatus ∧ CollectivesMatchTheirRecords ∧ CollectivesWriteTheirResults


-- flits

/-- R358, R369, R372, R381: a flit whose tag is not the current one or whose sender is no member has no effect (the model remembers one
of the next view for its resending, log 66); a usable one brings a member's share, a holder, the bytes of a remote source, or the end of a remote write. -/
def Sys2Proof.Claims.FlitsAreUsedOrDiscarded : Prop :=
  ∀ (f : Flit) (s : State),
    (¬ Usable s f → (∃ t, exec (.fabricFlitArrival f) s = .next t ∧ Discarded s t f) ∧
      ∃ t, exec (.remoteCopyAccess f) s = .next t ∧ Discarded s t f) ∧
    (Usable s f →
      (∀ etag cid n, f.body = .held etag cid n → ∀ c, c ∈ s.colls → c.etag = etag → c.cid = cid → c.n = n → c.tag = f.tag →
        c.status = none → (∀ d ∈ s.colls, d = c ∨ d.id ≠ c.id ∧ ¬ (d.etag = etag ∧ d.cid = cid)) →
        ∃ t, exec (.fabricFlitArrival f) s = .next t ∧ t.hart = s.hart ∧ t.mem = s.mem ∧
          ∀ d ∈ t.colls, d.id = c.id → f.rank ∈ d.held) ∧
      (∀ etag cid n hdr data bad ex, f.body = .share etag cid n hdr data bad ex → ∀ c, c ∈ s.colls → c.etag = etag →
        c.cid = cid → c.n = n → c.tag = f.tag → c.status = none → (∀ q ∈ c.shares, q.rank ≠ f.rank) →
        (∀ d ∈ s.colls, d = c ∨ d.id ≠ c.id ∧ ¬ (d.etag = etag ∧ d.cid = cid)) →
        ∃ t, exec (.fabricFlitArrival f) s = .next t ∧ t.hart = s.hart ∧ t.mem = s.mem ∧
          ∀ d ∈ t.colls, d.id = c.id → ⟨f.rank, hdr, data, bad, ex⟩ ∈ d.shares) ∧
      (∀ op off bytes, f.body = .copyData op off bytes [] → ∀ o sig x node len dst left, Inv s → IsOp s op o →
        o.kind = .get sig x node len dst left → (∀ c l w, sig ≠ .weir c l w) → Backs s (segsAt dst off bytes.length) →
        Apart (segsAt dst off bytes.length) → ((segsAt dst off bytes.length).map (·.len)).sum = bytes.length →
        bytes.length ≤ left →
        ∃ t, exec (.fabricFlitArrival f) s = .next t ∧ t.hart = s.hart ∧
          t.segBytes (segsAt dst off bytes.length) = bytes ∧ SameBeyond s t (segsAt dst off bytes.length) ∧
          IsOp t op { o with kind := .get sig x node len dst (left - bytes.length) }) ∧
      (∀ op n, f.body = .copyDone op n → ∀ o sig x node len left, IsOp s op o → o.kind = .put sig x node len left →
        (∀ c l w, sig ≠ .weir c l w) → n ≤ left →
        ∃ t, exec (.fabricFlitArrival f) s = .next t ∧ t.hart = s.hart ∧ t.mem = s.mem ∧
          IsOp t op { o with kind := .put sig x node len (left - n) }))

/-- R297, R299, R362, R381: the remote side of a copy performs the access of a usable flit and answers, or refuses a range that it does
not give out; once a proposal is acknowledged it does nothing. The refusal ends the operation and is held for the hart that issued
it, unless an earlier one is held. -/
def Sys2Proof.Claims.RemoteAccessesArePerformedOrRefused : Prop :=
  (∀ (f : Flit) (s : State), Usable s f → s.fabric.acked ≠ none → exec (.remoteCopyAccess f) s = .next s) ∧
  (∀ (f : Flit) (s : State) (op pa len : Nat), Usable s f → s.fabric.acked = none → f.body = .copyRead op pa len →
    NoLinePoisoned s →
    (Reachable s pa len →
      ∃ t, exec (.remoteCopyAccess f) s = .next t ∧ t.hart = s.hart ∧ t.mem = s.mem ∧
        (s.fabric.members[f.rank]? ≠ none → (s.fabric.members[f.rank]?).getD 0 ≠ s.fabric.fid →
          t.outbox = s.outbox ++ (List.range ((len + 255) / 256)).map fun i =>
            .flit ((s.fabric.members[f.rank]?).getD 0) (myFlit s (.copyData op (256 * i)
              ((cellsGet s.mem (pa + 256 * i) (min 256 (len - 256 * i)))) [])))) ∧
    (¬ Reachable s pa len → ∃ t, exec (.remoteCopyAccess f) s = .next t ∧ t.hart = s.hart ∧ t.mem = s.mem ∧
      ((s.fabric.members[f.rank]?).getD 0 ≠ s.fabric.fid →
        t.outbox = s.outbox ++ [.flit ((s.fabric.members[f.rank]?).getD 0) (myFlit s (.copyRefused op))]))) ∧
  (∀ (f : Flit) (s : State) (op pa base len : Nat) (bytes : List Byte), Inv s → Usable s f →
    s.fabric.acked = none → f.body = .copyWrite op pa base len bytes [] →
    (Reachable s base len → base ≤ pa → pa + bytes.length ≤ base + len → ∃ t, exec (.remoteCopyAccess f) s = .next t ∧ t.hart = s.hart ∧
      cellsGet t.mem pa bytes.length = bytes ∧ SameOutside s t (.dev pa false) bytes.length ∧
      ((s.fabric.members[f.rank]?).getD 0 ≠ s.fabric.fid →
        t.outbox = s.outbox ++ [.flit ((s.fabric.members[f.rank]?).getD 0) (myFlit s (.copyDone op bytes.length))])) ∧
    (¬ Reachable s base len → ∃ t, exec (.remoteCopyAccess f) s = .next t ∧ t.hart = s.hart ∧ t.mem = s.mem)) ∧
  ∀ (id node len left : Nat) (x : Word) (s : State) (o : EngineOp) (dst : List Seg), IsOp s id o →
    o.kind = .get .none x node len dst left ∨ o.kind = .put .none x node len left → o.ofHart s.hart = true →
    (∀ h ∈ s.parked, h.hid ≠ s.hart.hid) →
    ∃ t, exec (.remoteCopyRefused id) s = .next t ∧ t.mem = s.mem ∧ OpEnded s t id ∧
      t.hart = { s.hart with heldRefusal := some (s.hart.heldRefusal.getD x) } ∧ .heldEventTake s.hart.hid ∈ t.inbox

/-- R297, R299, R358, R369, R372, R381: the events FABRIC_FLIT_ARRIVAL, REMOTE_COPY_ACCESS and REMOTE_COPY_REFUSED complete:
flits, and the remote side of copies. The model's choice, not a rule's: flits are records of what they carry (log 47), flits
of the next view are kept for their resending (log 66), and their bytes count in whole flits (log 65). -/
def Obligations.FlitsFollowTheirTag : Prop :=
  FlitsAreUsedOrDiscarded ∧ RemoteAccessesArePerformedOrRefused


-- views

/-- R361: heartbeats go to the neighbours and are recorded from them; a neighbour that is silent for 380,000 clocks, or that no port
reaches, is suspected, and the suspicion goes to the leader. -/
def Sys2Proof.Claims.SilentNeighboursAreSuspected : Prop :=
  ∀ (m : Nat) (s : State),
    (∃ t, exec .heartbeatSend s = .next t ∧ t = { s with outbox := t.outbox } ∧
      ∀ o, o ∈ t.outbox ↔ o ∈ s.outbox ∨ ∃ n, Neighbour s n ∧ o = .heartbeat n) ∧
    (Neighbour s m → ∃ t, exec (.heartbeatReceive m) s = .next t ∧ OnlyFabric s t ∧
      t.fabric = { s.fabric with heard := (m, s.clock) :: s.fabric.heard.filter fun p => p.1 ≠ m }) ∧
    (¬ Neighbour s m → exec (.heartbeatReceive m) s = .next s ∧ exec (.heartbeatTimeout m) s = .next s ∧
      exec (.neighbourUnreachable m) s = .next s) ∧
    let last := ((s.fabric.heard.find? fun p => p.1 = m).map (·.2)).getD 0
    let suspected (e : Instr) := ∃ t, exec e s = .next t ∧ OnlyFabric s t ∧
      t.fabric = { s.fabric with suspects := s.fabric.suspects ++ [m] } ∧
      (leaderOf t.fabric = s.fabric.fid → t.inbox = s.inbox ++ [.suspicionReport s.fabric.fid m] ∧ t.outbox = s.outbox) ∧
      (leaderOf t.fabric ≠ s.fabric.fid → t.outbox = s.outbox ++ [.suspect (leaderOf t.fabric) m] ∧ t.inbox = s.inbox)
    (Neighbour s m → s.clock < last + 380000 → exec (.heartbeatTimeout m) s = .next s) ∧
    (Neighbour s m → m ∉ s.fabric.suspects → last + 380000 ≤ s.clock → suspected (.heartbeatTimeout m)) ∧
    (Neighbour s m → m ∉ s.fabric.suspects → suspected (.neighbourUnreachable m))

/-- R362, R375, R379: a reported suspicion makes the leader propose the members that are left; a member acknowledges a proposal of its
view that holds it, with its collectives; with every acknowledgement and more than half of the old members, or half with the old
rank 0, the leader commits under the next tag, to the old members and the new; a member that does not acknowledge in 1,900,000
clocks is a suspect and left out of a new proposal. Requests to join and to leave travel with the messages (R379). -/
def Sys2Proof.Claims.ProposalsAreAcknowledgedAndCommitted : Prop :=
  (∀ (r m : Nat) (s : State), InView s → r ∈ s.fabric.members → m ∈ s.fabric.members → m ≠ s.fabric.fid →
    s.fabric.leading = none →
    let pend : Pending := ⟨s.fabric.joiners, s.fabric.leavers⟩
    ∃ t p, exec (.suspicionReport r m) s = .next t ∧ OnlyFabric s t ∧ m ∈ t.fabric.suspects ∧
      t.fabric.leading = some p ∧ p.leader = s.fabric.fid ∧ p.acks = [] ∧ p.since = s.clock ∧
      (∀ n, n ∈ p.members ↔ Stays s.fabric n ∧ n ≠ m) ∧
      t.outbox = s.outbox ++ (p.members.filter (· ≠ s.fabric.fid)).map (fun n => .proposal n ⟨p.members, pend⟩) ∧
      t.inbox = s.inbox ++ [.viewProposal s.fabric.fid ⟨p.members, pend⟩]) ∧
  (∀ (l : Nat) (p : List Nat) (pend : Pending) (s : State), InView s → l ∈ s.fabric.members → s.fabric.fid ∈ p →
    ∃ t hs, exec (.viewProposal l ⟨p, pend⟩) s = .next t ∧ OnlyFabric s t ∧
      t.fabric = { s.fabric with
        acked := some ⟨l, p, [], [], s.clock⟩, joiners := t.fabric.joiners, leavers := t.fabric.leavers } ∧
      Joined t.fabric.joiners s.fabric.joiners pend.joiners ∧ Joined t.fabric.leavers s.fabric.leavers pend.leavers ∧
      (∀ h ∈ s.fabric.ended, h ∈ hs) ∧
      (∀ c ∈ s.colls, c.tag = s.fabric.tag → c.isOpen = true →
        ∃ h ∈ hs, h.run = ⟨c.etag, c.cid, c.n⟩ ∧ ∀ r m, r ∈ c.held → s.fabric.members[r]? = some m → m ∈ h.fids) ∧
      (l = s.fabric.fid → t.outbox = s.outbox ∧
        t.inbox = s.inbox ++ [.proposalAck l ⟨hs, t.fabric.joiners, t.fabric.leavers⟩]) ∧
      (l ≠ s.fabric.fid → t.inbox = s.inbox ∧
        t.outbox = s.outbox ++ [.proposalAck l ⟨hs, t.fabric.joiners, t.fabric.leavers⟩])) ∧
  (∀ (m : Nat) (hs : List HeldBy) (pend : Pending) (s : State) (p : Proposal), s.fabric.leading = some p → m ∈ p.members → m ∉ p.acks →
    let old := s.fabric.members
    let both := (old.filter p.members.contains).length
    let quorum := old.length < 2 * both ∨ 2 * both = old.length ∧ ∃ z, old.head? = some z ∧ z ∈ p.members
    let all := ∀ n ∈ p.members, n = m ∨ n ∈ p.acks
    let joined (t : State) := Joined t.fabric.joiners s.fabric.joiners pend.joiners ∧
      Joined t.fabric.leavers s.fabric.leavers pend.leavers
    (¬ (all ∧ quorum) → ∃ t, exec (.proposalAck m ⟨hs, pend⟩) s = .next t ∧ OnlyFabric s t ∧ t.outbox = s.outbox ∧
      t.inbox = s.inbox ∧ joined t ∧ t.fabric = { s.fabric with
        leading := some { p with acks := p.acks ++ [m], heldBy := p.heldBy ++ hs }
        joiners := t.fabric.joiners, leavers := t.fabric.leavers }) ∧
    (all → quorum → ∃ t settled failure, exec (.proposalAck m ⟨hs, pend⟩) s = .next t ∧ OnlyFabric s t ∧ joined t ∧
      t.fabric = { s.fabric with leading := none, joiners := t.fabric.joiners, leavers := t.fabric.leavers } ∧
      t.inbox = s.inbox ++ [.viewCommit (tagAfter s.fabric.tag) p.members settled failure] ∧
      (failure = true ↔ s.fabric.suspects ≠ []) ∧
      (∀ q, ⟨q, none⟩ ∈ settled ↔ (∃ h ∈ p.heldBy ++ hs, h.run = q) ∧
        (∀ h ∈ p.heldBy ++ hs, h.run = q → h.ending = none) ∧ ∀ o ∈ old, ∃ h ∈ p.heldBy ++ hs, h.run = q ∧ o ∈ h.fids) ∧
      (∀ q x, ⟨q, some x⟩ ∈ settled → ∃ h ∈ p.heldBy ++ hs, h.run = q ∧ h.ending = some x) ∧
      (∀ h ∈ p.heldBy ++ hs, h.ending ≠ none → ∃ x, ⟨h.run, some x⟩ ∈ settled) ∧
      ∀ n, n ≠ s.fabric.fid → n ∈ old ∨ n ∈ p.members →
        .commit n (tagAfter s.fabric.tag) p.members settled failure ∈ t.outbox)) ∧
  ∀ (m : Nat) (s : State) (p : Proposal), s.fabric.leading = some p → m ∈ p.members → m ∉ p.acks → m ≠ s.fabric.fid →
    (s.clock < p.since + 1900000 → exec (.proposalAckTimeout m) s = .next s) ∧
    (p.since + 1900000 ≤ s.clock → ∃ t q, exec (.proposalAckTimeout m) s = .next t ∧ OnlyFabric s t ∧
      m ∈ t.fabric.suspects ∧ t.fabric.leading = some q ∧ q.since = s.clock ∧ q.acks = [] ∧
      ∀ n, n ∈ q.members ↔ Stays s.fabric n ∧ n ≠ m)

/-- R362 to R364, R378: a commit under the next tag, or of the acknowledged proposal, gives a member the new view and ends the
proposal; a package that the new view leaves out, under whatever tag, and one without a commit 7,600,000 clocks after its
acknowledgement, has no view; any other commit changes nothing. A failure change holds a membership change for the hart of an
unfinished collective, which MEMBERSHIP_CHANGE_TRAP then takes at a boundary, with VIEWNOTE. -/
def Sys2Proof.Claims.ViewsAreAdoptedOrLeft : Prop :=
  (∀ (tag : Nat) (ms : List Nat) (settled : List Settled) (failure : Bool) (s : State), InView s →
    let e := exec (.viewCommit tag ms settled failure) s
    let mine := ∃ p, s.fabric.acked = some p ∧ SameMembers p.members ms
    (tag ≠ tagAfter s.fabric.tag → s.fabric.fid ∈ ms → ¬ mine → e = .next s) ∧
    (tag = tagAfter s.fabric.tag ∨ mine → s.fabric.fid ∈ ms → ms.Pairwise (· < ·) → ∃ t, e = .next t ∧ HasView t tag ms ∧
      t.fabric.acked = none ∧ t.fabric.leading = none ∧ t.fabric.hold = none ∧ t.fabric.suspects = [] ∧
      t.hart.x = s.hart.x ∧ t.hart.pc = s.hart.pc ∧
      (failure = false → (∀ c ∈ s.colls, c.status ≠ none) → s.hart.heldMember = none →
        (∀ l ∈ s.lu.launches, ∀ r ∈ l.hs, r.pos ≠ .saved) → t.mem = s.mem ∧ t.hart = s.hart) ∧
      (failure = true → ∀ c ∈ s.colls, c.status = none → s.hart.lid ≠ 0 → c.lid = s.hart.lid → c.j = s.hart.j →
        t.hart.heldMember = some (BitVec.ofNat 64 tag))) ∧
    (s.fabric.fid ∉ ms → ∃ t, e = .next t ∧ HasView t 0 [])) ∧
  (∀ (s : State) (p : Proposal), s.fabric.acked = some p →
    (s.clock < p.since + 7600000 → exec .commitTimeout s = .next s) ∧
    (p.since + 7600000 ≤ s.clock → InView s → ∃ t, exec .commitTimeout s = .next t ∧ HasView t 0 []) ∧
    (p.since + 7600000 ≤ s.clock → ¬ InView s → ∃ t, exec .commitTimeout s = .next t ∧
      t = { s with fabric := { s.fabric with acked := none } })) ∧
  ∀ (s : State) (w : Word), s.hart.heldMember = some w → s.hart.run ≠ .swap → s.hart.stop = none → s.hart.active = false →
    s.hart.heldRefusal = none → s.hart.heldBudget = none → s.midway s.hart = false →
    ∃ n : Word, (InView s → n = BitVec.ofNat 64 (s.fabric.members.length * 2 ^ 46 + 2 ^ 45 +
        rankIn s.fabric.members s.fabric.fid * 2 ^ 32 + s.fabric.tag)) ∧ (¬ InView s → n = 0) ∧
      exec (.membershipChangeTrap s.hart.hid) s = .next (takeTrap false 10 w s.boundarySuffix
      { s with hart := { s.hart with heldMember := none, viewnote := n } })

/-- R362, R363: a member answers a hold with the pairs of its unfinished collectives and, once it has the union, keeps every other COLL and
every remote copy waiting; it acknowledges when its collectives and remote copies have ended; the leader sends the union once
every member has answered, and proposes the change once every member has acknowledged: the members that stay and the joiners. -/
def Sys2Proof.Claims.PlannedChangesHoldAndRelease : Prop :=
  (∀ (l : Nat) (s : State), InView s → l ∈ s.fabric.members → s.fabric.acked = none →
    let ps := (s.colls.filter fun c => c.status.isNone).map fun c => (c.etag, c.cid)
    (l ≠ s.fabric.fid → ∃ t, exec (.quiescenceHold l) s = .next t ∧ OnlyFabric s t ∧
      t.fabric = { s.fabric with hold := some ⟨l, [], none, []⟩ } ∧ t.outbox = s.outbox ++ [.holdAnswer l ps] ∧
      t.inbox = s.inbox) ∧
    (l = s.fabric.fid → s.fabric.hold = none → ∃ t, exec (.quiescenceHold l) s = .next t ∧ OnlyFabric s t ∧
      t.fabric = { s.fabric with hold := some ⟨l, [], none, []⟩ } ∧
      t.outbox = s.outbox ++ (s.fabric.members.filter (· ≠ l)).map (fun m => .holdReq m) ∧
      t.inbox = s.inbox ++ [.holdAck l (some ps)])) ∧
  (∀ (u : List (Nat × Nat)) (h : Hold) (s : State), s.fabric.hold = some h →
    ∃ t, exec (.holdUnion u) s = .next t ∧ OnlyFabric s t ∧
      t.fabric = { s.fabric with hold := some { h with union := some u } } ∧ t.outbox = s.outbox ∧ t.inbox = s.inbox) ∧
  (∀ (m : Nat) (h : Hold) (s : State), s.fabric.hold = some h → m ∈ s.fabric.members → h.leader = s.fabric.fid →
    (∀ ps, h.union = none →
      let answers := (m, ps) :: h.answers.filter fun a => a.1 ≠ m
      ((∀ n ∈ s.fabric.members, ∃ a ∈ answers, a.1 = n) → ∃ t u, exec (.holdAck m (some ps)) s = .next t ∧ OnlyFabric s t ∧
        t.fabric = { s.fabric with hold := some { h with answers := answers } } ∧
        t.outbox = s.outbox ++ (s.fabric.members.filter (· ≠ s.fabric.fid)).map (fun n => .holdUnion n u) ∧
        t.inbox = s.inbox ++ [.holdUnion u] ∧ ∀ p, p ∈ u ↔ ∃ a ∈ answers, p ∈ a.2) ∧
      ((∃ n ∈ s.fabric.members, ∀ a ∈ answers, a.1 ≠ n) → ∃ t, exec (.holdAck m (some ps)) s = .next t ∧ OnlyFabric s t ∧
        t.fabric = { s.fabric with hold := some { h with answers := answers } } ∧ t.outbox = s.outbox ∧
        t.inbox = s.inbox)) ∧
    (m ≠ s.fabric.fid → m ∉ h.acks →
      ((∃ n ∈ s.fabric.members, n ≠ m ∧ n ∉ h.acks) → ∃ t, exec (.holdAck m none) s = .next t ∧ OnlyFabric s t ∧
        t.fabric = { s.fabric with hold := some { h with acks := h.acks ++ [m] } } ∧ t.outbox = s.outbox ∧
        t.inbox = s.inbox) ∧
      ((∀ n ∈ s.fabric.members, n = m ∨ n ∈ h.acks) → s.fabric.leading = none →
        ∃ t p, exec (.holdAck m none) s = .next t ∧ OnlyFabric s t ∧ t.fabric.leading = some p ∧ p.leader = s.fabric.fid ∧
          p.acks = [] ∧ p.since = s.clock ∧
          (∀ n, n ∈ p.members ↔ Stays s.fabric n ∨ s.fabric.suspects = [] ∧ n ∈ newJoiners s.fabric) ∧
          let q : Proposed := ⟨p.members, s.fabric.joiners, s.fabric.leavers⟩
          t.outbox = s.outbox ++ (p.members.filter (· ≠ s.fabric.fid)).map (fun n => .proposal n q) ∧
          t.inbox = s.inbox ++ [.viewProposal s.fabric.fid q])) ∧
    (m = s.fabric.fid → ¬ Quiet s h → exec (.holdAck m none) s = .next s) ∧
    (m = s.fabric.fid → m ∉ h.acks → Quiet s h → ∃ t, exec (.holdAck m none) s = .next t ∧ OnlyFabric s t ∧
      t.fabric.hold = some { h with acks := h.acks ++ [m] })) ∧
  (∀ (a : Reg) (s : State) (x : Nat) (loc : Loc) (h : Hold) (u : List (Nat × Nat)), RecordAt s a x loc → s.fabric.hold = some h →
    h.union = some u → (nth x 4 8, nth x 4 9) ∉ u →
    ∃ t, exec (.coll a) s = .next t ∧ OnlyXLines (counted s) t ∧ SameX s t ∧ t.hart.pc = s.hart.pc ∧ t.hart.run = .stalled) ∧
  (∀ (d a : Reg) (b : BitVec 4) (k : BitVec 2) (c : Num3) (s : State) (h : Hold), s.fabric.hold = some h → h.union ≠ none →
    (∃ t, exec (.cpyrg d a b k c) s = .next t ∧ WaitsIn s t) ∧ ∃ t, exec (.cpyrp d a b k c) s = .next t ∧ WaitsIn s t) ∧
  ∀ (h : Hold) (s : State), s.fabric.hold = some h → InView s → h.leader ≠ s.fabric.fid → s.fabric.fid ∉ h.acks → Quiet s h →
    ∃ t, exec (.holdAck s.fabric.fid none) s = .next t ∧ OnlyFabric s t ∧ t.inbox = s.inbox ∧
      t.fabric = { s.fabric with hold := some { h with acks := h.acks ++ [s.fabric.fid] } } ∧
      t.outbox = s.outbox ++ [.holdAck h.leader]

/-- R361 to R364, R378: the events of suspicion, proposals, commits and planned changes complete: HEARTBEAT_SEND,
HEARTBEAT_RECEIVE, HEARTBEAT_TIMEOUT, NEIGHBOUR_UNREACHABLE, SUSPICION_REPORT, VIEW_PROPOSAL, PROPOSAL_ACK,
PROPOSAL_ACK_TIMEOUT, VIEW_COMMIT, COMMIT_TIMEOUT, MEMBERSHIP_CHANGE_TRAP, QUIESCENCE_HOLD, HOLD_UNION and HOLD_ACK. The
model's choice, not a rule's: messages are events, timeouts come when their clocks have passed (log 46), and corners of holds
and reports are log 66. -/
def Obligations.ViewChangesFollowTheirSteps : Prop :=
  SilentNeighboursAreSuspected ∧ ProposalsAreAcknowledgedAndCommitted ∧ ViewsAreAdoptedOrLeft ∧ PlannedChangesHoldAndRelease

/-- R379: a contact answers a request to join: no without a view or with 8,192 members, else yes, and it keeps a new joiner for its
leader; a waiting CASTON takes a refusal as result 0, notes an acceptance, repeats its request, and gives up after 7,600,000
clocks without an answer. -/
def Sys2Proof.Claims.JoinRequestsAreAnswered : Prop :=
  (∀ (m : Nat) (s : State),
    (¬ InView s → ∃ t, exec (.joinRequest m false) s = .next t ∧ t = { s with outbox := s.outbox ++ [.joinAnswer m false] }) ∧
    (InView s → m ∈ s.fabric.members → ∃ t, exec (.joinRequest m false) s = .next t ∧
      t = { s with outbox := s.outbox ++ [.joinAnswer m true] }) ∧
    (InView s → m ∉ s.fabric.members → 8192 ≤ s.fabric.members.length → ∃ t, exec (.joinRequest m false) s = .next t ∧
      t = { s with outbox := s.outbox ++ [.joinAnswer m false] }) ∧
    (InView s → m ∉ s.fabric.members → s.fabric.members.length < 8192 → ∃ t, exec (.joinRequest m false) s = .next t ∧
      OnlyFabric s t ∧ m ∈ t.fabric.joiners ∧ .joinAnswer m true ∈ t.outbox ∧
      (leaderOf s.fabric ≠ s.fabric.fid → .joinReq (leaderOf s.fabric) m false ∈ t.outbox)) ∧
    (InView s → m ∈ s.fabric.members → ∃ t, exec (.joinRequest m true) s = .next t ∧ OnlyFabric s t ∧
      m ∈ t.fabric.leavers)) ∧
  ∀ (req : Nat) (s : State) (r : Request), s.fabric.requests.find? (fun r => r.id = req ∧ !r.leave ∧ r.result.isNone) = some r →
    let now (t : State) := t.fabric.requests.find? (fun r => r.id = req)
    let again := s.outbox ++ [.joinReq r.fid s.fabric.fid false]
    (∃ t, exec (.joinRequestRetry req none) s = .next t ∧ t = { s with outbox := again }) ∧
    (now s = some r →
      (∃ t, exec (.joinRequestRetry req (some true)) s = .next t ∧ OnlyFabric s t ∧ now t = some { r with answered := true } ∧
        t.outbox = again) ∧
      (∃ t, exec (.joinRequestRetry req (some false)) s = .next t ∧ OnlyFabric s t ∧ now t = some { r with result := some 0 }) ∧
      (r.answered = false → r.since + 7600000 ≤ s.clock → ∃ t, exec (.joinTimeout req) s = .next t ∧ OnlyFabric s t ∧
        now t = some { r with result := some 0 })) ∧
    (r.answered = true ∨ s.clock < r.since + 7600000 → exec (.joinTimeout req) s = .next s)

/-- R365, R379, R380: CASTON and CLEAVE raise Illegal Instruction in task mode. In supervisor mode CASTON in a view writes the view
summary, CASTON of the own fabric id founds a view of one member under tag 1, a contact of no package gives 0, and any other
is asked while the hart waits; CLEAVE of a package outside the view gives 0, and one of a member waits. -/
def Sys2Proof.Claims.PackagesJoinAndLeave : Prop :=
  ∀ (d a : Reg) (s : State),
    let x := (s.rx a).toNat
    let f := s.fabric
    (TaskMode s →
      exec (.caston d a) s = .next (takeTrap true 1 (BitVec.ofNat 64 (0xE00000C0 + d.toNat * 2 ^ 21 + a.toNat * 2 ^ 16)) 0 s) ∧
      exec (.cleave d a) s = .next (takeTrap true 1 (BitVec.ofNat 64 (0xE0000100 + d.toNat * 2 ^ 21 + a.toNat * 2 ^ 16)) 0 s)) ∧
    (SuperMode s →
      (InView s → ∃ t, exec (.caston d a) s = .next t ∧ Onward s t ∧ t.mem = s.mem ∧ HasView t f.tag f.members ∧
        Wrote s t d (BitVec.ofNat 64
          (f.members.length * 2 ^ 46 + 2 ^ 45 + rankIn f.members f.fid * 2 ^ 32 + f.tag))) ∧
      (¬ InView s → x = f.fid → ∃ t, exec (.caston d a) s = .next t ∧ Onward s t ∧ t.mem = s.mem ∧ HasView t 1 [f.fid] ∧
        Wrote s t d (BitVec.ofNat 64 (2 ^ 46 + 2 ^ 45 + 1))) ∧
      (¬ InView s → x ≠ f.fid → 8192 ≤ x → ∃ t, exec (.caston d a) s = .next t ∧ Onward s t ∧ t.mem = s.mem ∧
        HasView t f.tag f.members ∧ Wrote s t d 0) ∧
      (¬ InView s → x ≠ f.fid → x < 8192 → s.myRequest x false = none → ∃ t, exec (.caston d a) s = .next t ∧
        t.hart = { s.hart with run := .stalled } ∧ t.mem = s.mem ∧ t.outbox = s.outbox ++ [.joinReq x f.fid false] ∧
        t.fabric = { f with requests := f.requests ++ [⟨s.nextOp, s.hart.lid, s.hart.j, s.hart.hid, x, false, false, none, s.clock⟩] }) ∧
      (∀ r, ¬ InView s → x ≠ f.fid → x < 8192 → s.myRequest x false = some r →
        (∀ w, r.result = some w → ∃ t, exec (.caston d a) s = .next t ∧ Onward s t ∧ t.mem = s.mem ∧ Wrote s t d w) ∧
        (r.result = none → exec (.caston d a) s = .next { s with hart := { s.hart with run := .stalled } })) ∧
      (s.myRequest x true = none → (¬ InView s ∨ x ∉ f.members) → ∃ t, exec (.cleave d a) s = .next t ∧ OnlyX s t ∧
        Onward s t ∧ Wrote s t d 0) ∧
      (s.myRequest x true = none → InView s → x ∈ f.members → ∃ t, exec (.cleave d a) s = .next t ∧
        t.hart = { s.hart with run := .stalled } ∧ t.mem = s.mem ∧ x ∈ t.fabric.leavers ∧
        t.fabric.requests = f.requests ++ [⟨s.nextOp, s.hart.lid, s.hart.j, s.hart.hid, x, true, false, none, s.clock⟩]) ∧
      (∀ r w, s.myRequest x true = some r → r.result = some w → ∃ t, exec (.cleave d a) s = .next t ∧ Onward s t ∧
        t.mem = s.mem ∧ Wrote s t d w))

/-- R365, R379, R380: CASTON and CLEAVE, and the events JOIN_REQUEST, JOIN_REQUEST_RETRY and JOIN_TIMEOUT, complete. The
model's choice, not a rule's: a contact of no package gives 0, and CASTON and CLEAVE wait stalled (log 10, log 46). -/
def Obligations.JoiningAndLeavingComplete : Prop :=
  JoinRequestsAreAnswered ∧ PackagesJoinAndLeave


-- fetch, issue and commit

/-- R82, R116, R127, R133, R134, R138, R144, R145, R188, R189, R254, R405: the events of the front end and of the commit
stage complete. INSTRUCTION_FETCH gives the hart with the fewest buffered words its block, SLOT_PICK picks by age,
VECTOR_QUEUE_DISPATCH lets a queue's head go next, GRANULE_COMMIT keeps the checker's finding, marks bad data or fences a
failing core, SCALAR_STORE_ACK ends acknowledged stores, ILLEGAL_INSTRUCTION raises its trap, and HART_END ends a hart whose
EXIT has waited. The model's choice, not a rule's: the order of partitions in a clock is the model's (log 8), a hart without
room for a block is passed over (log 63), and the gauge report is held as log 19 says, what uncorrectable data marks is log
22 and log 55, and the clocks of a recomputation are a free value (log 67). -/
def Obligations.FrontEndEventsComplete : Prop :=
  (∀ (core part : Nat) (s : State), core < 32 → part < 4 → Powered s → s.fetchTurn[core]? = some part →
    let t0 : State := { s with fetchTurn := s.fetchTurn.setIfInBounds core ((part + 1) % 4) }
    (∀ h ∈ s.placed, TakesBlock h core part →
      (∀ g ∈ s.placed, TakesBlock g core part → g ≠ h → h.fbuf < g.fbuf ∨ h.fbuf = g.fbuf ∧ h.hid < g.hid) →
      exec (.instructionFetch core part) s =
        .next (t0.updHart h.hid fun g => { g with fbuf := g.fbuf + nextBlock g })) ∧
    ((∀ h ∈ s.placed, ¬ TakesBlock h core part) → exec (.instructionFetch core part) s = .next t0)) ∧
  (∀ (core part : Nat) (s : State), core < 32 → part < 4 → Powered s → (s.placed.map (·.hid)).Nodup →
    ∃ t ps, exec (.slotPick core part) s = .next t ∧
      t = { s with hart := t.hart, parked := t.parked, picked := s.picked ++ ps, rr := t.rr } ∧
      (∀ n, n ∈ ps ↔ ∃ c h, c < 3 ∧ Picks s core part c h ∧ h.hid = n) ∧
      (∀ c h, c < 3 → Picks s core part c h → rrOf t core part c = (h.hid % 4 + 1) % 4) ∧
      (∀ c, c < 3 → (∀ h, ¬ Picks s core part c h) → rrOf t core part c = rrOf s core part c) ∧
      t.placed.length = s.placed.length ∧
      ∀ (i : Nat) (h : Hart), s.placed[i]? = some h → ∃ a, t.placed[i]? = some { h with age := a } ∧
        (¬ InPartition h core part → a = h.age) ∧
        (InPartition h core part → ReadyToIssue s h → h.hid ∉ ps → a = h.age + 1) ∧
        (InPartition h core part → ¬ ReadyToIssue s h ∨ h.hid ∈ ps → a = 0)) ∧
  (∀ (s : State) (w : BitVec 32), s.wordNext s.hart = some w → queued (wordMajor w) = true →
    (¬ MayIssue s s.hart → exec (.vectorQueueDispatch s.hart.hid) s = .next s) ∧
    (MayIssue s s.hart → slotClass (wordMajor w) = 2 → s.hart.unacked = [] →
      exec (.vectorQueueDispatch s.hart.hid) s = .next { s with picked := s.hart.hid :: s.picked.filter (· ≠ s.hart.hid) }) ∧
    (MayIssue s s.hart → slotClass (wordMajor w) = 1 →
      exec (.vectorQueueDispatch s.hart.hid) s = .next { s with picked := s.hart.hid :: s.picked.filter (· ≠ s.hart.hid) }) ∧
    (slotClass (wordMajor w) = 2 → s.hart.unacked ≠ [] → exec (.vectorQueueDispatch s.hart.hid) s = .next s)) ∧
  (∀ (f g x : Nat) (s : State), (∀ h ∈ s.parked, h.hid ≠ s.hart.hid) → ∃ t, exec (.granuleCommit s.hart.hid (.badRegister f g x)) s = .next t ∧
    t = { s with hart := { s.hart with poison := t.hart.poison } } ∧
      ∀ q, q ∈ t.hart.poison ↔ q ∈ s.hart.poison ∨ q = ⟨f, g, x⟩) ∧
  (∀ (line : Nat) (s : State), ∃ t, exec (.granuleCommit s.hart.hid (.badLine line)) s = .next t ∧
    t = { s with coh := { s.coh with poison := t.coh.poison, taint := t.coh.taint } } ∧
      ∀ l, t.linePoisoned l = true ↔ s.linePoisoned l = true ∨ l = line) ∧
  (∀ (core : Nat) (s : State), core ≠ 0 → s.svc.units.coreIn core = true → ∃ t late,
    exec (.granuleCommit s.hart.hid (.badCore core)) s = .next t ∧ t.mem = s.mem ∧ core ∈ t.svc.units.coresOut ∧
      t.inbox = .refit :: s.inbox ++ late) ∧
  (∀ (c l word : Nat) (s : State), ∃ t, exec (.granuleCommit s.hart.hid (.badScratch c l word)) s = .next t ∧
    t = { s with regions := t.regions } ∧ ∀ r, s.region? (s.regionKey c l) l = some r →
      ∃ q, t.region? (s.regionKey c l) l = some q ∧ q.cells = r.cells ∧ ∀ x, x ∈ q.bad ↔ x ∈ r.bad ∨ x = word) ∧
  (∀ (g v : Nat) (counter : Bool) (s : State), ∃ t, exec (.granuleCommit s.hart.hid (.badSampler g v counter)) s = .next t ∧
    t = { s with lu := t.lu } ∧ ∀ q ∈ (s.handlesOf s.hart.lid).gibbs, q.h = g → v < q.nvar →
      ∃ r ∈ (t.handlesOf s.hart.lid).gibbs, r = { q with bad := r.bad, badMarg := r.badMarg } ∧
        (counter = true → v ∈ r.badMarg ∧ r.bad = q.bad) ∧ (counter = false → v ∈ r.bad ∧ r.badMarg = q.badMarg)) ∧
  (∀ (r : GaugeReport) (s : State) (w : BitVec 32), ¬ OtherLoss r → s.wordNext s.hart = some w →
    (∀ h ∈ s.parked, h.hid ≠ s.hart.hid) →
    (gauged (wordMajor w) = true → ∃ t, exec (.granuleCommit s.hart.hid r) s = .next t ∧
      t = { s with hart := { s.hart with gauge := some r }, lu := t.lu, draw := s.draw + 1 } ∧
      ∀ l q, IsLaunch s s.hart.lid l → l.hs[s.hart.j]? = some q → ∃ m, IsLaunch t s.hart.lid m ∧
        m.hs[s.hart.j]? = some { q with faults := q.faults + Config.retryClocks s.draw }) ∧
    (gauged (wordMajor w) = false → exec (.granuleCommit s.hart.hid r) s = .next s)) ∧
  (∀ s : State, (∀ h ∈ s.parked, h.hid ≠ s.hart.hid) →
    ∃ t, exec (.scalarStoreAck s.hart.hid) s = .next t ∧
      t = { s with hart := { s.hart with unacked := t.hart.unacked } } ∧
      ∀ tag, tag ∈ t.hart.unacked ↔ tag ∈ s.hart.unacked ∧ ∃ q ∈ s.targets, q.tag = tag) ∧
  (∀ (w : BitVec 32) (s : State), exec (.illegalInstruction w) s = .next (takeTrap true 1 (BitVec.ofNat 64 w.toNat) 0 s)) ∧
  ∀ (hid : Nat) (s : State) (h : Hart), s.hart? hid = some h → 16 ≤ hid →
    (h.exiting = true → h.unacked = [] →
      ∃ t, exec (.hartEnd hid) s = .next t ∧ t.mem = s.mem ∧ LeftSlot s t hid ∧ HasPos t h.lid h.j .exited) ∧
    (h.exiting = false ∨ h.unacked ≠ [] → exec (.hartEnd hid) s = .next s)

-- power, boot and links

/-- R21 to R25, R357: POWER_READING completes and moves the throttle level by at most one step, or to 8 at 100 degrees; at
110 degrees every launch ends as DELIVFAIL 4 and power goes; STANDBY_ENTRY enters Standby with no launch; STANDBY_EXIT_DONE
begins the exit and ends it in Run; POWER_REMOVED loses everything but what R357, R416 and R419 keep. The model's choice, not
a rule's: the mean over fewer than ten readings is log 29, that STANDBY_EXIT_DONE begins and ends the exit is log 1, what a
thermal trip reports and what POWER_REMOVED keeps are log 48, and what Standby executes is log 62. -/
def Obligations.PowerStatesFollowTheirRules : Prop :=
  (∀ (mw decic : Nat) (s : State), Powered s →
    let rs := (mw :: s.svc.readings).take 10
    let n := rs.length
    let sum := rs.sum
    let level := s.svc.throttle
    (decic < 1100 ∨ s.lu.thermal = true →
      ∃ t, exec (.powerReading mw decic) s = .next t ∧
        t = { s with svc := { s.svc with readings := rs, throttle := t.svc.throttle, low := t.svc.low } } ∧
        (1000 ≤ decic → t.svc.throttle = 8) ∧
        (decic < 1000 → 2800000 * n < sum → t.svc.throttle = min 8 (level + 1)) ∧
        (decic < 1000 → 2700000 * n ≤ sum → sum ≤ 2800000 * n → t.svc.throttle = level ∧ t.svc.low = 0) ∧
        (decic < 1000 → sum < 2700000 * n → s.svc.low + 1 = 10 → t.svc.throttle = level - 1 ∧ t.svc.low = 0) ∧
        (decic < 1000 → sum < 2700000 * n → s.svc.low + 1 ≠ 10 → t.svc.throttle = level ∧ t.svc.low = s.svc.low + 1)) ∧
    (1100 ≤ decic → s.lu.thermal = false → ∃ t, exec (.powerReading mw decic) s = .next t ∧ t.lu.thermal = true ∧
      .powerRemoved ∈ t.inbox ∧ ⟨1, 0, 1, 0, s.svc.bootCount, 0⟩ ∈ t.svc.journal ∧
      ∀ lid l, IsLaunch s lid l → isFinal l.state = false → l.recordDone = false → l.ending ≠ some 13 → Ended t lid 13 4)) ∧
  (∀ s : State,
    (s.svc.power = .run → s.live = [] → s.lu.thermal = false →
      exec .standbyEntry s = .next { s with svc := { s.svc with power := .standby } }) ∧
    (s.svc.power ≠ .run ∨ s.live ≠ [] → exec .standbyEntry s = .next s) ∧
    (s.svc.power = .waking → ∃ t, exec .standbyExitDone s = .next t ∧
      t = { s with svc := { s.svc with power := .run }, inbox := t.inbox } ∧
      ∀ e, e ∈ t.inbox ↔ e ∈ s.inbox ∨ ∃ l ∈ s.live, l.state = 1 ∧ e = .launchStart l.lid) ∧
    (s.svc.power = .standby → exec .standbyExitDone s =
      .next { s with svc := { s.svc with power := .waking }, inbox := s.inbox ++ [.standbyExitDone] }) ∧
    (s.svc.power = .run ∨ s.svc.power = .off → exec .standbyExitDone s = .next s)) ∧
  ∀ s : State, ∃ t, exec .powerRemoved s = .next t ∧ ¬ Powered t ∧ Survives s t ∧ t.mem = [] ∧ t.regions = [] ∧
    t.lu.launches = [] ∧ t.lu.images = [] ∧ t.lu.bindings = [] ∧ t.hart = State.reset.hart ∧
    t.parked = State.reset.parked ∧ t.ops = [] ∧ t.colls = [] ∧ t.inbox = []

/-- R74, R409, R415 to R417: BOOT of a module without power completes: it runs each step of its units, goes on past what an
alternative covers, stops where none is left, and sets the reserved minima by the slots that it owns; with power it does
nothing. LINK_SERVICE completes and records its outcome, which never takes a link back from an alternative, and a failed die
S link fails the launches with DELIVFAIL 5. The model's choice, not a rule's: numbers of units and entries are log 49, SEQ of
LINKS log 50. -/
def Obligations.BootAndLinkServiceComplete : Prop :=
  (∀ (fails : List BootFail) (s : State), Powered s → exec (.boot fails) s = .next s) ∧
  (∀ (fails : List BootFail) (s : State), ¬ Powered s →
    ∃ t, exec (.boot fails) s = .next t ∧ t.svc.power = .run ∧ t.svc.bootCount = s.svc.bootCount + 1 ∧
      t.svc.clearJournal = false ∧ t.lu.keys = s.lu.keys ∧ t.lu.launches = [] ∧ t.hart = State.reset.hart ∧
      t.parked = State.reset.parked ∧ t.lu.bootKeys = s.lu.keys ∧
      t.lu.rmin0 = 16 * (t.svc.units.numSlots - t.svc.units.numFloor) ∧
      t.lu.rmin1 = 8 * (t.svc.units.numSlots - t.svc.units.numFloor) ∧
      (s.svc.journal = [] ∨ s.svc.clearJournal = true →
        let e (step unit outcome alt d : Nat) : JEntry := ⟨step, unit, outcome, alt, s.svc.bootCount + 1, d⟩
        (fails = [] → t.svc.bootStopped = false ∧ t.svc.units = { Units.full with largest := t.svc.units.largest } ∧
          t.svc.journal = bootUnits.map fun u => e u.1 u.2 0 0 0) ∧
        (∀ core d, fails = [⟨2, core, 1, d⟩] → 0 < core → core < 32 → t.svc.bootStopped = false ∧
          t.svc.units.coresOut = [core] ∧ e 2 core 2 1 d ∈ t.svc.journal) ∧
        (∀ link d, fails = [⟨4, link, 2, d⟩] → link < 4 → t.svc.bootStopped = true ∧
          e 4 link 1 1 d ∈ t.svc.journal))) ∧
  ∀ (link outcome : Nat) (s : State), Powered s →
    link < 4 ∧ (outcome = 0 ∨ outcome = 1 ∨ outcome = 3) ∨ 4 ≤ link ∧ link < 10 ∧ outcome < 3 →
    let now := max outcome ((s.svc.units.links[link]?).getD 0)
    ∃ t, exec (.linkService link outcome) s = .next t ∧ t.svc.units.links[link]? = some now ∧
      (∀ m, m ≠ link → t.svc.units.links[m]? = s.svc.units.links[m]?) ∧
      t.svc.units.seqLinks = s.svc.units.seqLinks + 2 ∧ t.mem = s.mem ∧
      (now ≠ 3 → OnlyService s t ∧ ⟨8, s.clock, link, now⟩ ∈ t.svc.log) ∧
      (now = 3 → ∀ lid l, IsLaunch s lid l → isFinal l.state = false → l.ending ≠ some 13 → ∀ m, t.launch? lid = some m → isFinal m.state = true)

-- coherence

/-- R253, R258 to R263, R269, R270: RDS, RDX and UPG complete: the request goes to the home, which grants it at once when no other agent
has the line, and else snoops the owner and invalidates the sharers. EVC and WBD complete: the copy leaves its agent, and what a
dirty one writes back is poisoned in HBM as it was. HOME_ATOMIC completes: the home's own die cache holds the line in M, and
performs the atomic on it that a hart which may issue executes next. No move changes a byte of memory. -/
def Sys2Proof.Claims.LinesAreRequested : Prop :=
  ∀ (a l : Nat) (s : State), AgentLine s a l →
    (Holds s a l .i none → Unrecorded s l → AsksFor s a l → NoMessage s .rds a l → NoMessage s .rdx a l →
      (∃ t, exec (.rds a l) s = .next t ∧ OnlyCoherence s t ∧ Holds t a l .i (some .rds) ∧
        Sends s t [⟨.data, a, l, a, some .e⟩] ∧ Records t l (some (a, .e)) []) ∧
      (∃ t, exec (.rdx a l) s = .next t ∧ OnlyCoherence s t ∧ Holds t a l .i (some .rdx) ∧
        Sends s t [⟨.data, a, l, a, some .m⟩] ∧ Records t l (some (a, .m)) [])) ∧
    (∀ sh, Holds s a l .i none → Records s l none sh → sh ≠ [] → a ∉ sh → AsksFor s a l → NoMessage s .rds a l →
      NoMessage s .rdx a l →
      (∃ t, exec (.rds a l) s = .next t ∧ OnlyCoherence s t ∧ Sends s t [⟨.data, a, l, a, some .s⟩] ∧
        Records t l none (sh ++ [a])) ∧
      (∃ t, exec (.rdx a l) s = .next t ∧ OnlyCoherence s t ∧ Serves t l .rdx a sh ∧
        Sends s t (sh.map (fun m => ⟨.inv, m, l, a, none⟩) ++ [⟨.data, a, l, a, none⟩]))) ∧
    (∀ o st sh, Holds s a l .i none → Records s l (some (o, st)) sh → o ≠ a → a ∉ sh → o ∉ sh → AsksFor s a l →
      NoMessage s .rds a l → NoMessage s .rdx a l →
      (∃ t, exec (.rds a l) s = .next t ∧ OnlyCoherence s t ∧ Serves t l .rds a [o] ∧
        Sends s t [⟨.snps, o, l, a, none⟩]) ∧
      (∃ t, exec (.rdx a l) s = .next t ∧ OnlyCoherence s t ∧ Serves t l .rdx a (o :: sh) ∧
        Sends s t (⟨.snpx, o, l, a, none⟩ :: sh.map fun m => ⟨.inv, m, l, a, none⟩))) ∧
    (∀ sh, Holds s a l .s none → Records s l none sh → a ∈ sh → AsksFor s a l → NoMessage s .upg a l →
      let others := sh.filter (· ≠ a)
      (others = [] → ∃ t, exec (.upg a l) s = .next t ∧ OnlyCoherence s t ∧ Records t l (some (a, .m)) [] ∧
        Sends s t [⟨.cmp, a, l, a, some .m⟩]) ∧
      (others ≠ [] → ∃ t, exec (.upg a l) s = .next t ∧ OnlyCoherence s t ∧ Serves t l .upg a others ∧
        Sends s t (others.map fun m => ⟨.inv, m, l, a, none⟩))) ∧
    (∀ st, Holds s a l st none → st = .e ∨ st = .s →
      ∃ t, exec (.evc a l) s = .next t ∧ OnlyCoherence s t ∧ Holds t a l .i none ∧
        ∀ e ∈ t.coh.dir, e.line = l → e.owner.map (·.1) ≠ some a ∧ a ∉ e.sharers) ∧
    (∀ st, Holds s a l st none → st = .m ∨ st = .o → NoMessage s .wbd a l →
      ∃ t, exec (.wbd a l) s = .next t ∧ t = { s with coh := t.coh } ∧ Holds t a l .i none ∧
        (∀ m, m ∈ t.coh.poison ↔ if m = l then l ∈ s.coh.taint else m ∈ s.coh.poison) ∧
        ∀ e ∈ t.coh.dir, e.line = l → e.owner.map (·.1) ≠ some a ∧ a ∉ e.sharers) ∧
    (a = l / 2 ^ 30 →
      (∀ hid st, (∀ m ∈ s.coh.msgs, m.line ≠ l) → Holds s a l st none → st = .m ∨ st = .e → s.hart? hid = none →
        ∃ t, exec (.homeAtomic ⟨hid, l⟩) s = .next t ∧ t = { s with coh := t.coh } ∧ (t.coh.copy a l).st = .m) ∧
      ∀ (i : Instr) (w : BitVec 32) (x : Atomic) (q y u : State) (p : Nat) (sy : Bool),
        let v : State := { s with coh := s.coh.hold a l true }
        let va := (s.rx x.addr).toNat
        let old := numAt u (.dev p sy) x.n
        MayIssue s s.hart → fetch v = .ok (w, q) → decode w = .ok i → atomicForm s i = some x →
        v.xlate va .atomic = .ok (.dev p sy, y) → p / 128 = l → Inv s → Ordered v x.order →
        Reaches v va x.n x.acc (.dev p sy) u → Readable u (.dev p sy) x.n →
        ∃ t, exec (.homeAtomic ⟨s.hart.hid, l⟩) s = .next t ∧ OnlyMemX u t ∧ Onward s t ∧ Raised s t (x.flags old) ∧
          numAt t (.dev p sy) x.n = (x.new old).getD old ∧ SameOutside u t (.dev p sy) x.n ∧
          (match x.dest with
           | some (d, sgn) => ∃ r : Word, Wrote s t d r ∧ Extends r x.n sgn (byteAt u (.dev p sy))
           | none => SameX s t))

/-- R250, R259, R260, R262: SNPS, SNPX, INV, BINV, DATA, FWD, CMP and RSP complete: what an agent and a home do with a message that
arrives. A line that an agent takes into a full set of its cache makes room: the one that moved longest ago leaves it. -/
def Sys2Proof.Claims.SnoopsAreAnswered : Prop :=
  ∀ (a l : Nat) (s : State), AgentLine s a l →
    (∀ m, (s.coh.copy a l).gotCmp = none →
      let st := (s.coh.copy a l).st
      let after (e : Instr) (new : Moesi) (out : List CohMsg) := ∃ t, exec e s = .next t ∧ OnlyCoherence s t ∧
        (t.coh.copy a l).st = new ∧ t.coh.msgs = s.coh.msgs.erase m ++ out
      let fwd : CohMsg := ⟨.fwd, m.req, l, m.req, none⟩
      let rsp (st : Moesi) : CohMsg := ⟨.rsp, a, l, m.req, some st⟩
      (NextFromHome s .snps a l m → (st = .m ∨ st = .o → after (.snps a l) .o [fwd, rsp .o]) ∧
        (st = .e ∨ st = .s → after (.snps a l) .s [fwd, rsp .s]) ∧ (st = .i → after (.snps a l) .i [rsp .i])) ∧
      (NextFromHome s .snpx a l m → (st ≠ .i → after (.snpx a l) .i [fwd, rsp .i]) ∧
        (st = .i → after (.snpx a l) .i [rsp .i])) ∧
      (NextFromHome s .inv a l m → after (.inv a l) .i [rsp .i]) ∧
      (NextFromHome s .binv a l m → (st = .m ∨ st = .o → after (.binv a l) .i [⟨.wbd, a, l, m.req, none⟩]) ∧
        (st ≠ .m → st ≠ .o → after (.binv a l) .i [rsp .i]))) ∧
    (∀ m st, NextFromHome s .data a l m → m.st = some st → (s.coh.copy a l).asked ≠ none →
      ∃ t, exec (.data a l) s = .next t ∧ t = { s with coh := t.coh } ∧ Holds t a l st none ∧ MakesRoom s t a l st ∧
        t.coh.msgs = s.coh.msgs.erase m) ∧
    (∀ m, NextOf s .fwd a l m → (s.coh.copy a l).asked ≠ none →
      ∃ t, exec (.fwd a l) s = .next t ∧ t = { s with coh := t.coh } ∧ t.coh.msgs = s.coh.msgs.erase m ∧
        (∀ st, (s.coh.copy a l).gotCmp = some st → Holds t a l st none ∧ MakesRoom s t a l st) ∧
        ((s.coh.copy a l).gotCmp = none → OnlyCoherence s t ∧ (t.coh.copy a l).gotData = true ∧
          (t.coh.copy a l).st = (s.coh.copy a l).st)) ∧
    (∀ m st, NextFromHome s .cmp a l m → m.st = some st → (s.coh.copy a l).gotData = true ∨
        (s.coh.copy a l).asked = some .upg ∧ (s.coh.copy a l).st ≠ .i → (s.coh.copy a l).asked ≠ none →
      ∃ t, exec (.cmp a l) s = .next t ∧ t = { s with coh := t.coh } ∧ Holds t a l st none ∧ MakesRoom s t a l st ∧
        t.coh.msgs = s.coh.msgs.erase m) ∧
    (∀ m e, NextOf s .rsp a l m → s.coh.entry? l = some e → e.queue = [] →
      (∀ r st, e.busy = some ⟨.rds, r, [a], .s, false⟩ → e.owner = some (a, st) →
        (m.st = some .o → ∃ t, exec (.rsp a l) s = .next t ∧ OnlyCoherence s t ∧
          Records t l (some (a, .o)) (e.sharers ++ [r]) ∧ t.coh.msgs = s.coh.msgs.erase m ++ [⟨.cmp, r, l, r, some .s⟩]) ∧
        (m.st = some .s → ∃ t, exec (.rsp a l) s = .next t ∧ OnlyCoherence s t ∧
          Records t l none (e.sharers ++ [a, r]) ∧ t.coh.msgs = s.coh.msgs.erase m ++ [⟨.cmp, r, l, r, some .s⟩])) ∧
      (∀ k r, e.busy = some ⟨k, r, [a], .m, false⟩ → k = .rdx ∨ k = .upg → ∃ t, exec (.rsp a l) s = .next t ∧
        OnlyCoherence s t ∧ Records t l (some (r, .m)) [] ∧
        t.coh.msgs = s.coh.msgs.erase m ++ [⟨.cmp, r, l, r, some .m⟩]) ∧
      (∀ k r b ws g, e.busy = some ⟨k, r, a :: b :: ws, g, false⟩ → ∃ t, exec (.rsp a l) s = .next t ∧
        OnlyCoherence s t ∧ Serves t l k r (b :: ws) ∧ t.coh.msgs = s.coh.msgs.erase m))

/-- R267 to R269: PATROL_SCRUB completes: the scrubber of a stack acts on the line that it has read and reads the next one. What it
has found is logged, and an uncorrectable line is marked poisoned in HBM, unless a write has reached the line since it was read; what
an agent holds dirty stands, and a clean line reads as poisoned. -/
def Sys2Proof.Claims.ScrubbersMarkTheirLine : Prop :=
  ∀ (stack : Nat) (error fixable : Bool) (s : State), Powered s → stack < 8 →
    stack ∉ s.svc.units.stacksOut → stack ^^^ 1 ∉ s.svc.units.stacksOut →
    let k := (s.svc.scrub[stack]?).getD 0
    let f : ScrubFinding := if error = false then .clean else if fixable = true then .correctable else .uncorrectable
    let read : Scrub := ⟨stack, stack / 2 * 2 ^ 30 + 2 * k + stack % 2, stack * 2 ^ 56 + 128 * k, f, false⟩
    let goesOn (t : State) := t = { s with svc := { s.svc with scrub := t.svc.scrub, log := t.svc.log, logged := t.svc.logged }
                                           coh := { s.coh with poison := t.coh.poison, taint := t.coh.taint, scrubs := t.coh.scrubs } } ∧
      t.svc.scrub[stack]? = some ((k + 1) % 2 ^ 29) ∧
      t.coh.scrubs = s.coh.scrubs.filter (fun q => q.stack != stack) ++ [read]
    let same (t : State) := t.coh.poison = s.coh.poison ∧ t.coh.taint = s.coh.taint
    (s.coh.scrubs.filter (fun q => q.stack == stack) = [] → ∃ t, exec (.patrolScrub stack error fixable) s = .next t ∧ goesOn t ∧
      same t ∧ t.svc.log = s.svc.log) ∧
    ∀ q, s.coh.scrubs.filter (fun q => q.stack == stack) = [q] → ∃ t, exec (.patrolScrub stack error fixable) s = .next t ∧ goesOn t ∧
      (q.finding = .clean ∨ q.hit = true → same t ∧ t.svc.log = s.svc.log) ∧
      (q.finding = .correctable → q.hit = false → same t ∧ ⟨1, s.clock, q.place, 0⟩ ∈ t.svc.log) ∧
      (q.finding = .uncorrectable → q.hit = false → ⟨2, s.clock, q.place, 0⟩ ∈ t.svc.log ∧
        (∀ l, l ∈ t.coh.poison ↔ l ∈ s.coh.poison ∨ l = q.line) ∧
        ((∀ p ∈ s.coh.copies, p.line = q.line → p.st ≠ .m ∧ p.st ≠ .o ∧ p.asked ≠ some .rdx) →
          (∀ m ∈ s.coh.msgs, m.line = q.line → m.kind ≠ .wbd) →
          ∀ l, t.linePoisoned l = true ↔ s.linePoisoned l = true ∨ l = q.line) ∧
        ((∃ p ∈ s.coh.copies, p.line = q.line ∧ (p.st = .m ∨ p.st = .o)) → t.coh.taint = s.coh.taint))

/-- R257 to R263, R267 to R270: the events RDS, RDX, UPG, EVC, WBD, SNPS, SNPX, INV, BINV, FWD, DATA, RSP, CMP, HOME_ATOMIC
and PATROL_SCRUB complete: requests, snoops, evictions, atomics at the home, and the scrubbers. The model's choice, not a
rule's: the sets of caches and filter are presumed (log 53), that an access moves its lines in its own step, and races of
messages, are log 54, what the scrubber logs and what a write-back leaves poisoned is log 55, and which lines count as SYNC
is log 72. -/
def Obligations.CoherenceMovesLines : Prop :=
  LinesAreRequested ∧ SnoopsAreAnswered ∧ ScrubbersMarkTheirLine


-- targets and hosts

/-- R177, R254, R263: a scalar load from a device issues one request and waits; with the completion it completes. A scalar store to
a device leaves as a write request and is unacknowledged until its completion. -/
def Sys2Proof.Claims.DeviceAccessesWaitForTheirTarget : Prop :=
  (∀ (i : Instr) (s u : State) (n va pa : Nat) (sgn : Bool) (d : Reg), loadForm s i = some (n, sgn, d, va) →
    Reaches s va n .read (.io pa) u →
    (u.hart.replies = [] → u.hart.waitTag = none → ∃ t, exec i s = .next t ∧ t.hart.pc = s.hart.pc ∧
      t.mem = (dispatchedAll u .read [va]).mem ∧
      SameX s t ∧ t.hart.run = .stalled ∧ t.hart.waitTag = some u.nextTag ∧
      t.targets = u.targets ++ [⟨u.nextTag, s.hart.hid, false, false, false, .io pa, s.pasid, false, true⟩] ∧
      t.outbox = u.outbox ++ [.readReq u.nextTag s.pasid (.io pa) n]) ∧
    (∀ r rest, u.hart.replies = r :: rest → r.bytes.length = n → ∃ t, exec i s = .next t ∧ OnlyXWait u t ∧ Onward s t ∧
      ∃ w, Wrote s t d w ∧ Extends w n sgn fun k => r.bytes.getD k 0)) ∧
  ∀ (i : Instr) (s u : State) (n va pa : Nat) (w : Word), storeForm s i = some (n, w, va) → Reaches s va n .write (.io pa) u →
    ∃ t, exec i s = .next t ∧ Onward s t ∧ SameX s t ∧ t.mem = u.mem ∧ t.hart.unacked = u.hart.unacked ++ [u.nextTag] ∧
      t.targets = u.targets ++ [⟨u.nextTag, s.hart.hid, true, false, true, .io pa, s.pasid, false, false⟩] ∧
      t.outbox = u.outbox ++ [.writeReq u.nextTag s.pasid (.io pa) ((List.range n).map fun k => w.extractLsb' (8 * k) 8)]

/-- R254, R263, R298, R403, R404: TARGET_COMPLETION completes and ends its request: a store is acknowledged, data goes to the hart or to
the engine operation that waits for it, a translation is cached for the whole translated range, and a denial sends one page
request. PRI_RESPONSE and PRI_TIMEOUT complete: Success clears the request, and any other response or the timeout leaves the page
fault of the denied access to be raised. ATS_INVALIDATION completes: it drops the translations that hold its page, and is answered
once the accesses that these served have performed. -/
def Sys2Proof.Claims.TargetsCompleteTheirRequests : Prop :=
  (∀ (tag : Nat) (bs : List Byte) (ok : Bool) (s : State), (∀ q ∈ s.targets, q.tag ≠ tag) →
    exec (.targetCompletion tag bs ok) s = .next s) ∧
  (∀ (tag : Nat) (bs : List Byte) (ok : Bool) (s : State) (q : TargetReq), s.targets.find? (fun q => q.tag = tag) = some q →
    s.invals = [] → (∀ h ∈ s.parked, h.hid ≠ s.hart.hid) →
    let rest := s.targets.filter (fun q => q.tag ≠ tag)
    (q.store = true → exec (.targetCompletion tag bs ok) s =
      .next { s with targets := rest, inbox := s.inbox ++ [.scalarStoreAck q.hid] }) ∧
    (q.store = false → (∀ o ∈ s.ops, ∀ a ∈ o.asks, a.tag = tag → o.asks = [a] →
      ∃ t, exec (.targetCompletion tag bs ok) s = .next t ∧ t.hart = s.hart ∧ t.mem = s.mem ∧ t.targets = rest ∧
        { o with asks := [{ a with bytes := some ((bs ++ List.replicate a.seg.len 0).take a.seg.len) }] } ∈ t.ops)) ∧
    (q.store = false → NoneAsks s tag → q.hid = s.hart.hid → s.hart.waitTag = some tag →
      (∀ pa, q.loc = .io pa → exec (.targetCompletion tag bs ok) s = .next { s with
        targets := rest, hart := { s.hart with waitTag := none, replies := s.hart.replies ++ [⟨bs, ok, q.whole⟩] } }) ∧
      (∀ p va, q.loc = .hostb p va → ok = true → q.ats = false → exec (.targetCompletion tag bs ok) s = .next { s with
        targets := rest, hart := { s.hart with waitTag := none, replies := s.hart.replies ++ [⟨bs, ok, q.whole⟩] } }) ∧
      (∀ p va, q.loc = .hostb p va → ok = true → q.ats = true →
        let n := max 1 (natOfBytes bs / 4096)
        exec (.targetCompletion tag bs ok) s = .next { s with
          targets := rest, ats := s.ats ++ [⟨p, q.pasid, va / 4096 / n * n, n, q.write⟩],
          hart := { s.hart with waitTag := none } }) ∧
      (∀ p va, q.loc = .hostb p va → ok = false → exec (.targetCompletion tag bs ok) s = .next { s with
        targets := rest, outbox := s.outbox ++ [.pageReq p q.pasid va q.write],
        hart := { s.hart with waitTag := none, pri := some (p, va, q.write) } }))) ∧
  (∀ (s : State) (r : Nat × Nat × Bool), s.hart.pri = some r → (∀ h ∈ s.parked, h.hid ≠ s.hart.hid) →
    exec (.priResponse s.hart.hid true) s = .next { s with hart := { s.hart with pri := none, priDone := none } } ∧
    exec (.priResponse s.hart.hid false) s = .next { s with hart := { s.hart with pri := none, priDone := some r } } ∧
    exec (.priTimeout s.hart.hid) s = .next { s with hart := { s.hart with pri := none, priDone := some r } }) ∧
  ∀ (port pasid va : Nat) (s : State), s.invals = [] →
    ∃ t d, exec (.atsInvalidation port pasid va) s = .next t ∧
      t = { s with ats := t.ats, invals := t.invals, outbox := t.outbox } ∧
      (∀ e, e ∈ t.ats ↔ e ∈ s.ats ∧
        ¬ (e.port = port ∧ e.pasid = pasid ∧ e.page ≤ va / 4096 ∧ va / 4096 < e.page + e.pages)) ∧
      (∀ x, x ∈ d ↔ ∃ e ∈ s.ats, e.port = port ∧ e.pasid = pasid ∧ e.page ≤ va / 4096 ∧ va / 4096 < e.page + e.pages ∧
        x = (e.page, e.pages)) ∧
      ((∀ q ∈ s.targets, ¬ ServedBy q ⟨port, pasid, va / 4096, d⟩) →
        t.invals = [] ∧ t.outbox = s.outbox ++ [.atsDone port pasid (va / 4096)]) ∧
      ((∃ q ∈ s.targets, ServedBy q ⟨port, pasid, va / 4096, d⟩) →
        t.invals = [⟨port, pasid, va / 4096, d⟩] ∧ t.outbox = s.outbox)

/-- R29, R67, R263, R418: HOST_PORT_REQUEST completes: a host's read returns the bytes of device memory, and the identity key where a
management region shows it, its write replaces them, and its fetch-and-add adds to 8 bytes; a write to a pinned image page is
discarded with an AER error; no port, no effect. -/
def Sys2Proof.Claims.HostPortsReachDeviceMemory : Prop :=
  ∀ (port : Nat) (s : State), Powered s →
    (¬ PortUp s port → ∀ r, exec (.hostPortRequest port r) s = .next s) ∧
    (PortUp s port →
      (∀ pa n, Present s pa n → ∃ t bs bad, exec (.hostPortRequest port (.read pa n)) s = .next t ∧
        t = { s with coh := t.coh, outbox := s.outbox ++ [.hostData port bs bad] } ∧
        (NoLinePoisoned s → NoLinePoisoned t) ∧ (bad = true ↔ ∃ i, i < n ∧ s.linePoisoned ((pa + i) / 128) = true) ∧
        (NoKeyBytes pa n → bs = cellsGet s.mem pa n) ∧
        (∀ p, p < 2 → pa = Config.mgmt p + 0x20 → n = 32 → bs = bytesOf (edPublic Config.identitySeed) 32)) ∧
      (∀ pa bs, Present s pa bs.length → MeetsPin s pa bs.length →
        exec (.hostPortRequest port (.write pa bs)) s = .next { s with outbox := s.outbox ++ [.aer port] }) ∧
      (∀ pa bs, Present s pa bs.length → ¬ MeetsPin s pa bs.length → Inv s →
        ∃ t, exec (.hostPortRequest port (.write pa bs)) s = .next t ∧
          t = { s with mem := t.mem, coh := t.coh, inbox := t.inbox } ∧ cellsGet t.mem pa bs.length = bs ∧
          SameOutside s t (.dev pa false) bs.length) ∧
      (∀ pa n, Present s pa 8 → pa % 8 = 0 → NoKeyBytes pa 8 → ¬ MeetsPin s pa 8 → Inv s →
        ∃ t, exec (.hostPortRequest port (.fetchAdd pa n)) s = .next t ∧ t.hart = s.hart ∧
          numAt t (.dev pa false) 8 = (numAt s (.dev pa false) 8 + n) % 2 ^ 64 ∧ SameOutside s t (.dev pa false) 8))

/-- R180, R408: REMOTE_ATOMIC_ERROR of a scalar atomic completes: it raises remote atomic error at the instruction with its address and
APPLIED as trap value; no register is written, and memory holds its old value, or, where APPLIED is set, the atomic's result. -/
def Sys2Proof.Claims.RemoteAtomicErrorsTrap : Prop :=
  ∀ (i : Instr) (s s' u : State) (w : BitVec 32) (a : Atomic) (loc : Loc) (applied : Bool) (e : Nat),
    fetch s = .ok (w, s') → decode w = .ok i → atomicForm s i = some a → s.hart.waitTag = none → s.hart.run = .ready →
    Inv s → Ordered s a.order → Reaches s (s.rx a.addr).toNat a.n a.acc loc u → Readable u loc a.n → (∀ k, loc ≠ .cap k) →
    Backed u loc →
    ∃ v, exec (.remoteAtomicError s.hart.hid applied e) s =
        .next (takeTrap true 11 (BitVec.ofNat 64 ((s.rx a.addr).toNat % 2 ^ 57 + if applied then 2 ^ 63 else 0)) 0 v) ∧
      v.hart = s.hart ∧ (applied = false → v = s) ∧
      (applied = true → SameOutside u v loc a.n ∧ numAt v loc a.n = (a.new (numAt u loc a.n)).getD (numAt u loc a.n))

/-- R29, R67, R177, R180, R254, R263, R403, R404, R408: TARGET_COMPLETION, PRI_RESPONSE, PRI_TIMEOUT, ATS_INVALIDATION,
HOST_PORT_REQUEST and REMOTE_ATOMIC_ERROR complete: devices, hosts, and the errors of remote atomics. The model's choice, not
a rule's: requests and answers of targets are log 32 and log 33, the error reply of an atomic is log 34, and host addresses
are log 52. -/
def Obligations.TargetsAndHostsAreServed : Prop :=
  DeviceAccessesWaitForTheirTarget ∧ TargetsCompleteTheirRequests ∧ HostPortsReachDeviceMemory ∧ RemoteAtomicErrorsTrap


-- management

/-- R418, R419, R421, R422: ATTEST, KEYSET_INSTALL, KEYSET_CLEAR, JCLEAR, JREAD, LOGREAD, SPACE_BIND, SPACE_UNBIND and
UNKNOWN_CODE complete: a command is answered with its data, its result, a new MNONCE and RSPSEQ; a signed command needs the
signature of the key in slot 0. The model's choice, not a rule's: the place of the region (log 5), the order of the checks
(log 51), and which new MNONCE is taken is a free value (log 7). -/
def Obligations.ManagementCommandsAnswer : Prop :=
  ∀ (port : Nat) (s : State), Inv s →
    (Commanded s port 1 →
      let head := s.reportHead (mgmtField s port 0x80 32)
      Ends (.attest port) s port 0 (head ++ edSign Config.identitySeed (sha512 head))) ∧
    (Commanded s port 2 →
      let slot := mgmtField s port 0x80 1
      (∀ e, e = .keysetInstall port ∧ mgmtField s port 0x81 1 = 1 ∨ e = .keysetClear port ∧ mgmtField s port 0x81 1 ≠ 1 →
        (s.svc.bootStopped = true → Ends e s port 4 []) ∧
        (s.svc.bootStopped = false → s.signed port = false → Ends e s port 2 []) ∧
        (s.svc.bootStopped = false → s.signed port = true → 7 < slot → Ends e s port 3 [])) ∧
      (s.svc.bootStopped = false → s.signed port = true → slot ≤ 7 → mgmtField s port 0x81 1 = 1 →
        ∃ t, exec (.keysetInstall port) s = .next t ∧ Answered s
          { s with lu := { s.lu with keys := s.lu.keys.setIfInBounds slot (some (mgmtField s port 0x88 32)) } } t port 0 []) ∧
      (s.svc.bootStopped = false → s.signed port = true → 0 < slot → slot ≤ 7 → mgmtField s port 0x81 1 = 0 →
        ∃ t, exec (.keysetClear port) s = .next t ∧ Answered s
          { s with lu := { s.lu with keys := s.lu.keys.setIfInBounds slot none } } t port 0 []) ∧
      (s.svc.bootStopped = false → s.signed port = true → slot = 0 → mgmtField s port 0x81 1 = 0 →
        Ends (.keysetClear port) s port 3 [])) ∧
    (Commanded s port 3 → (s.signed port = false → Ends (.jclear port) s port 2 []) ∧
      (s.signed port = true → ∃ t, exec (.jclear port) s = .next t ∧
        Answered s { s with svc := { s.svc with clearJournal := true } } t port 0 [])) ∧
    (Commanded s port 4 →
      let i := mgmtField s port 0x80 4
      let n := s.svc.journal.length
      (n < i → Ends (.jread port) s port 3 []) ∧
      (i ≤ n → Ends (.jread port) s port 0 (bytesOf (min 200 (n - i)) 4 ++ bytesOf n 4 ++
        ((s.svc.journal.drop i).take 200).flatMap fun e => bytesOf e.step 1 ++ bytesOf e.unit 1 ++ bytesOf e.outcome 1 ++
          bytesOf e.alt 1 ++ bytesOf e.boot 4 ++ bytesOf e.detail 8))) ∧
    (Commanded s port 5 →
      let i := mgmtField s port 0x80 8
      let n := s.svc.log.length
      (n < i → Ends (.logread port) s port 3 []) ∧
      (i ≤ n → Ends (.logread port) s port 0 (bytesOf (min 100 (n - i)) 4 ++ bytesOf 0 4 ++ bytesOf s.svc.logged 8 ++
        ((s.svc.log.drop i).take 100).flatMap fun e => bytesOf e.kind 1 ++ bytesOf 0 7 ++ bytesOf e.clock 8 ++
          bytesOf e.place 8 ++ bytesOf e.detail 8))) ∧
    (Commanded s port 6 →
      let pasid := mgmtField s port 0x84 4 % 2 ^ 20
      let root := mgmtField s port 0x88 8
      let bound := ∃ b ∈ s.lu.bindings, b.port = port ∧ b.pasid = pasid
      let busy := ∃ l ∈ s.live, l.port = port ∧ l.pasid = pasid
      (mgmtField s port 0x80 1 = 0 →
        (s.svc.bootStopped = true → Ends (.spaceBind port) s port 4 []) ∧
        (s.svc.bootStopped = false → root % 4096 ≠ 0 ∨ 2 ^ 39 ≤ root → Ends (.spaceBind port) s port 3 []) ∧
        (s.svc.bootStopped = false → root % 4096 = 0 → root < 2 ^ 39 → bound → Ends (.spaceBind port) s port 4 []) ∧
        (s.svc.bootStopped = false → root % 4096 = 0 → root < 2 ^ 39 → ¬ bound → s.lu.bindings.length < 60000 →
          ∃ t asid, exec (.spaceBind port) s = .next t ∧ asid < 2 ^ 16 ∧ (∀ b ∈ s.lu.bindings, b.asid ≠ asid) ∧
            Answered s { s with lu := { s.lu with bindings := s.lu.bindings ++ [⟨port, pasid, asid, root⟩] } } t port 0
              (bytesOf asid 2))) ∧
      (mgmtField s port 0x80 1 ≠ 0 → s.svc.bootStopped = true → Ends (.spaceUnbind port) s port 4 []) ∧
      (1 < mgmtField s port 0x80 1 → s.svc.bootStopped = false → Ends (.spaceUnbind port) s port 3 []) ∧
      (mgmtField s port 0x80 1 = 1 → s.svc.bootStopped = false → ¬ bound ∨ busy → Ends (.spaceUnbind port) s port 4 []) ∧
      (mgmtField s port 0x80 1 = 1 → s.svc.bootStopped = false → bound → ¬ busy →
        ∃ t u, exec (.spaceUnbind port) s = .next t ∧ Answered s u t port 0 [] ∧
          u = { s with ats := u.ats, tlb := u.tlb, lu := { s.lu with bindings := u.lu.bindings } } ∧
          (∀ b, b ∈ u.lu.bindings ↔ b ∈ s.lu.bindings ∧ ¬ (b.port = port ∧ b.pasid = pasid)) ∧
          (∀ e, e ∈ u.ats ↔ e ∈ s.ats ∧ ¬ (e.port = port ∧ e.pasid = pasid)) ∧
          ∀ c, c ∈ u.tlb ↔ c ∈ s.tlb ∧ ¬ (c.leaf.testBit 8 = false ∧ ∃ b, s.bindingOf port pasid = some b ∧ b.asid = c.asid))) ∧
    (∀ code, code = 0 ∨ 6 < code → Commanded s port code → Ends (.unknownCode port) s port 1 [])

-- encodings

/-- R111 to R117 and the worked encodings of file 06: the words stand for their instructions, and reserved words are refused. -/
def Obligations.WordsDecodeAsTheSpecWritesThem : Prop :=
  decode 0x094BFFFC = .ok (.addi 10 11 0xFFFC) ∧ decode 0x40A0FFFC = .ok (.beq 5 0 0xFFFC) ∧
  decode 0x5BFFFFC0 = .ok (.jal 0x3FFFFC0) ∧ decode 0x08000000 = .ok (.addi 0 0 0) ∧
  decode 0x5C010000 = .ok (.jalr 0 1 0) ∧ decode 0x910C8522 = .ok (.vfma 8 12 16 20 1 0 0 2) ∧
  ∀ w : BitVec 32, w = 0 ∨ w = 0xFFFFFFFF ∨ w = 0x7C000000 ∨ w = 0x84000200 ∨ w = 0xA1000000 → ∃ e, decode w = .error e

/-- R111 to R116: decode of encode i is i, with every operand at every value that the encoding admits, and an instruction
that is not well-formed is not what its word decodes to. The model's choice, not a rule's: rows of the table without a word
have no encoding (log 57). -/
def Obligations.DecodeUndoesEncode : Prop :=
  ∀ (i : Instr) (n : Nat), encode i = some n →
    n < 2 ^ 32 ∧ (i.wf = true → decode (BitVec.ofNat 32 n) = .ok i) ∧ (i.wf = false → decode (BitVec.ofNat 32 n) ≠ .ok i)

/-- R111 to R117: a word that decodes is the word of its instruction, which is well-formed; no bit of it is dropped. -/
def Obligations.EncodeUndoesDecode : Prop :=
  ∀ (w : BitVec 32) (i : Instr), decode w = .ok i → i.wf = true ∧ encode i = some w.toNat

-- steps

/-- R38, R117, R134: with no event pending, a step has the hart that a picker chose fetch its word and execute the
instruction that it decodes to, the fetch's bytes counted; a word that is no instruction raises Illegal Instruction with the
word, and a failed fetch its own trap. The clock advances, the hart's age goes back to 0, and the units that work by
themselves go on. The model's choice, not a rule's: the clock (log 9), the pickers' order (log 8) and the posting of pending
work (log 2) are the model's. -/
def Obligations.StepRunsTheDecodedInstruction : Prop :=
  ∀ (s : State) (rest : List Nat), s.inbox = [] → Powered s → s.picked = s.hart.hid :: rest → MayIssue s s.hart →
    let s1 := tick { s with picked := rest }
    (∀ w u i t, fetch s1 = .ok (w, u) → decode w = .ok i → exec i u.countTraffic = .next t →
      step s = .next (issued s.hart.hid t)) ∧
    (∀ w u e, fetch s1 = .ok (w, u) → decode w = .error e →
      step s = .next (issued s.hart.hid (takeTrap true 1 (BitVec.ofNat 64 w.toNat) 0 u.countTraffic))) ∧
    (∀ code v, fetch s1 = .error (code, v) → step s = .next (issued s.hart.hid (takeTrap true code v 0 s1)))

/-- A step takes the oldest pending event before any instruction, but a module that is Off acts on the return of power alone,
and with none pending it stops (R21); with no event and no hart picked, a clock of the cores passes, which changes no
register and no byte of memory and picks harts that may issue (R133, R134); a picked hart that may not issue is passed over;
the fetch checks alignment, the text bound, translation and poison in that order (R117). The model's choice, not a rule's:
the inbox and the list of picked harts are the model's (log 2, log 8), and what an event does in Off is log 48. -/
def Obligations.StepTakesEventsFirst : Prop :=
  (∀ (s : State) (e : Instr) (rest : List Instr), s.inbox = e :: rest →
    let t := tick { s with inbox := rest }
    (Powered s ∨ (∃ fails, e = .boot fails) → step s = exec e t) ∧
    (¬ Powered s → (∀ fails, e ≠ .boot fails) → step s = .next t)) ∧
  (∀ s : State, s.inbox = [] → s.svc.power = .off → step s = .fault .poweredOff) ∧
  (∀ (s : State), s.inbox = [] → Powered s → s.picked = [] →
    ∃ t, step s = .next t ∧ t.mem = s.mem ∧ t.regions = s.regions ∧
      ((∀ h ∈ s.placed, h.arriving = false) → t.lu = s.lu) ∧ t.placed.length = s.placed.length ∧
      ∀ (i : Nat) (h : Hart), s.placed[i]? = some h → ∃ g, t.placed[i]? = some g ∧ g.hid = h.hid ∧ g.x = h.x ∧ g.pc = h.pc ∧
        g.status = h.status ∧ g.vl = h.vl ∧ g.vtype = h.vtype ∧ g.vstart = h.vstart ∧ g.acc = h.acc ∧ g.k = h.k ∧ g.v = h.v) ∧
  (∀ (s : State) (p : Nat) (rest : List Nat) (h : Hart), s.inbox = [] → Powered s → s.picked = p :: rest →
    s.hart? p = some h → ¬ MayIssue (tick { s with picked := rest }) h → step s = .next (issued p (tick { s with picked := rest }))) ∧
  ∀ s : State, let pc := s.hart.pc
    (pc.toNat % 4 ≠ 0 → fetch s = .error (3, pc)) ∧
    (pc.toNat % 4 = 0 → s.inText pc.toNat = false → fetch s = .error (6, pc)) ∧
    (pc.toNat % 4 = 0 → s.inText pc.toNat = true → (∀ c, s.xlate pc.toNat .fetch = .error c → fetch s = .error (c, pc)) ∧
      ∀ a sy u, s.xlate pc.toNat .fetch = .ok (.dev a sy, u) →
        (u.linePoisoned (a / 128) = true → fetch s = .error (7, pc)) ∧
        (u.linePoisoned (a / 128) = false →
          ∃ v, fetch s = .ok (BitVec.ofNat 32 (numAt u (.dev a sy) 4), v) ∧ v = { u with coh := v.coh }))

/-- No meaning stops: whatever the state, every instruction answers a next state, and so does every event, be it its own effect or the
trap that the rules give it; and so a step of a module stops only when it is Off and has no event pending (R21). -/
def Obligations.PoweredModulesNeverStop : Prop :=
  (∀ (i : Instr) (s : State), ∃ t, exec i s = .next t) ∧ ∀ s : State, Powered s ∨ s.inbox ≠ [] → Safe s

-- reset

/-- R12, R106, R107, R71, R74, R359: the values at reset that the rules state: 16 harts in supervisor mode on slots 0 to 15,
their control registers, DSEED and the reserved minima, no launch, and no view. What the rules leave open (x registers, PC,
TVEC, PTROOT, GRANT and SEED of these harts) is not stated here. The model's choice, not a rule's: the values that the model
chose (log 3, log 5, log 6, log 62) are not stated. -/
def Obligations.ResetHoldsTheStatedValues : Prop :=
  State.reset.placed.map (·.hid) = List.range 16 ∧
  (∀ h ∈ State.reset.placed, ∀ (n : Nat) (w : Word),
    (n, w) ∈ [(0x000, 0), (0x001, 3), (0x002, 0), (0x004, 0), (0x005, 0), (0x006, 4), (0x011, 0), (0x020, 0x10000), (0x022, 0),
      (0x023, 0), (0x024, 0), (0x025, 0), (0x032, 0xFFFFFFFFFFC00000), (0x042, 0xFFFFFFFFFFB00000), (0x052, 16 * 488),
      (0x053, 8 * 488), (0x060, 0), (0x061, 0), (0x062, 0), (0x063, 0), (0x064, 0), (0x065, 0), (0x066, 0), (0x067, 0),
      (0x080, 0), (0x0F0, 0)] → cregRead { State.reset with hart := h } n = w) ∧
  State.reset.lu.launches = [] ∧ State.reset.fabric.tag = 0 ∧ State.reset.fabric.members = [] ∧
  State.reset.ops = [] ∧ State.reset.colls = [] ∧ State.reset.inbox = []

/-- The invariant holds at reset. The model's choice, not a rule's: that an unlisted byte of device memory reads zero (log 4)
shapes the canonical form. -/
def Obligations.ResetMeetsTheInvariant : Prop := Inv State.reset

/-- Every step keeps the invariant: device memory and every scratchpad region stay in canonical form, so that equal memories
are equal data, whatever instruction or event the step runs. The model's choice, not a rule's: that an unlisted byte of
device memory reads zero (log 4) shapes the canonical form. -/
def Obligations.EveryStepKeepsTheInvariant : Prop := ∀ s t : State, Inv s → step s = .next t → Inv t
end

