-- ==== Sys2Proof/Laws/State.lean ====
section
/-!
SUPPORT. What each named update of the state leaves unchanged, and what it changes: one lemma for each field, so that a
proof never unfolds a record update.
-/

namespace Sys2Proof.Machine

-- State.withHart

@[simp] theorem State.withHart_parked (s : State) (f : Hart → Hart) : (s.withHart f).parked = s.parked := rfl
@[simp] theorem State.withHart_mem (s : State) (f : Hart → Hart) : (s.withHart f).mem = s.mem := rfl
@[simp] theorem State.withHart_regions (s : State) (f : Hart → Hart) : (s.withHart f).regions = s.regions := rfl
@[simp] theorem State.withHart_lu (s : State) (f : Hart → Hart) : (s.withHart f).lu = s.lu := rfl
@[simp] theorem State.withHart_ops (s : State) (f : Hart → Hart) : (s.withHart f).ops = s.ops := rfl
@[simp] theorem State.withHart_nextOp (s : State) (f : Hart → Hart) : (s.withHart f).nextOp = s.nextOp := rfl
@[simp] theorem State.withHart_mail (s : State) (f : Hart → Hart) : (s.withHart f).mail = s.mail := rfl
@[simp] theorem State.withHart_colls (s : State) (f : Hart → Hart) : (s.withHart f).colls = s.colls := rfl
@[simp] theorem State.withHart_pubs (s : State) (f : Hart → Hart) : (s.withHart f).pubs = s.pubs := rfl
@[simp] theorem State.withHart_targets (s : State) (f : Hart → Hart) : (s.withHart f).targets = s.targets := rfl
@[simp] theorem State.withHart_nextTag (s : State) (f : Hart → Hart) : (s.withHart f).nextTag = s.nextTag := rfl
@[simp] theorem State.withHart_ats (s : State) (f : Hart → Hart) : (s.withHart f).ats = s.ats := rfl
@[simp] theorem State.withHart_tlb (s : State) (f : Hart → Hart) : (s.withHart f).tlb = s.tlb := rfl
@[simp] theorem State.withHart_invals (s : State) (f : Hart → Hart) : (s.withHart f).invals = s.invals := rfl
@[simp] theorem State.withHart_fabric (s : State) (f : Hart → Hart) : (s.withHart f).fabric = s.fabric := rfl
@[simp] theorem State.withHart_svc (s : State) (f : Hart → Hart) : (s.withHart f).svc = s.svc := rfl
@[simp] theorem State.withHart_coh (s : State) (f : Hart → Hart) : (s.withHart f).coh = s.coh := rfl
@[simp] theorem State.withHart_inbox (s : State) (f : Hart → Hart) : (s.withHart f).inbox = s.inbox := rfl
@[simp] theorem State.withHart_outbox (s : State) (f : Hart → Hart) : (s.withHart f).outbox = s.outbox := rfl
@[simp] theorem State.withHart_picked (s : State) (f : Hart → Hart) : (s.withHart f).picked = s.picked := rfl
@[simp] theorem State.withHart_rr (s : State) (f : Hart → Hart) : (s.withHart f).rr = s.rr := rfl
@[simp] theorem State.withHart_fetchTurn (s : State) (f : Hart → Hart) : (s.withHart f).fetchTurn = s.fetchTurn := rfl
@[simp] theorem State.withHart_clock (s : State) (f : Hart → Hart) : (s.withHart f).clock = s.clock := rfl
@[simp] theorem State.withHart_draw (s : State) (f : Hart → Hart) : (s.withHart f).draw = s.draw := rfl

-- State.wx

@[simp] theorem State.wx_parked (s : State) (r : Reg) (w : Word) : (s.wx r w).parked = s.parked := rfl
@[simp] theorem State.wx_mem (s : State) (r : Reg) (w : Word) : (s.wx r w).mem = s.mem := rfl
@[simp] theorem State.wx_regions (s : State) (r : Reg) (w : Word) : (s.wx r w).regions = s.regions := rfl
@[simp] theorem State.wx_lu (s : State) (r : Reg) (w : Word) : (s.wx r w).lu = s.lu := rfl
@[simp] theorem State.wx_ops (s : State) (r : Reg) (w : Word) : (s.wx r w).ops = s.ops := rfl
@[simp] theorem State.wx_nextOp (s : State) (r : Reg) (w : Word) : (s.wx r w).nextOp = s.nextOp := rfl
@[simp] theorem State.wx_mail (s : State) (r : Reg) (w : Word) : (s.wx r w).mail = s.mail := rfl
@[simp] theorem State.wx_colls (s : State) (r : Reg) (w : Word) : (s.wx r w).colls = s.colls := rfl
@[simp] theorem State.wx_pubs (s : State) (r : Reg) (w : Word) : (s.wx r w).pubs = s.pubs := rfl
@[simp] theorem State.wx_targets (s : State) (r : Reg) (w : Word) : (s.wx r w).targets = s.targets := rfl
@[simp] theorem State.wx_nextTag (s : State) (r : Reg) (w : Word) : (s.wx r w).nextTag = s.nextTag := rfl
@[simp] theorem State.wx_ats (s : State) (r : Reg) (w : Word) : (s.wx r w).ats = s.ats := rfl
@[simp] theorem State.wx_tlb (s : State) (r : Reg) (w : Word) : (s.wx r w).tlb = s.tlb := rfl
@[simp] theorem State.wx_invals (s : State) (r : Reg) (w : Word) : (s.wx r w).invals = s.invals := rfl
@[simp] theorem State.wx_fabric (s : State) (r : Reg) (w : Word) : (s.wx r w).fabric = s.fabric := rfl
@[simp] theorem State.wx_svc (s : State) (r : Reg) (w : Word) : (s.wx r w).svc = s.svc := rfl
@[simp] theorem State.wx_coh (s : State) (r : Reg) (w : Word) : (s.wx r w).coh = s.coh := rfl
@[simp] theorem State.wx_inbox (s : State) (r : Reg) (w : Word) : (s.wx r w).inbox = s.inbox := rfl
@[simp] theorem State.wx_outbox (s : State) (r : Reg) (w : Word) : (s.wx r w).outbox = s.outbox := rfl
@[simp] theorem State.wx_picked (s : State) (r : Reg) (w : Word) : (s.wx r w).picked = s.picked := rfl
@[simp] theorem State.wx_rr (s : State) (r : Reg) (w : Word) : (s.wx r w).rr = s.rr := rfl
@[simp] theorem State.wx_fetchTurn (s : State) (r : Reg) (w : Word) : (s.wx r w).fetchTurn = s.fetchTurn := rfl
@[simp] theorem State.wx_clock (s : State) (r : Reg) (w : Word) : (s.wx r w).clock = s.clock := rfl
@[simp] theorem State.wx_draw (s : State) (r : Reg) (w : Word) : (s.wx r w).draw = s.draw := rfl

-- State.advance

@[simp] theorem State.advance_parked (s : State) : (s.advance).parked = s.parked := rfl
@[simp] theorem State.advance_mem (s : State) : (s.advance).mem = s.mem := rfl
@[simp] theorem State.advance_regions (s : State) : (s.advance).regions = s.regions := rfl
@[simp] theorem State.advance_lu (s : State) : (s.advance).lu = s.lu := rfl
@[simp] theorem State.advance_ops (s : State) : (s.advance).ops = s.ops := rfl
@[simp] theorem State.advance_nextOp (s : State) : (s.advance).nextOp = s.nextOp := rfl
@[simp] theorem State.advance_mail (s : State) : (s.advance).mail = s.mail := rfl
@[simp] theorem State.advance_colls (s : State) : (s.advance).colls = s.colls := rfl
@[simp] theorem State.advance_pubs (s : State) : (s.advance).pubs = s.pubs := rfl
@[simp] theorem State.advance_targets (s : State) : (s.advance).targets = s.targets := rfl
@[simp] theorem State.advance_nextTag (s : State) : (s.advance).nextTag = s.nextTag := rfl
@[simp] theorem State.advance_ats (s : State) : (s.advance).ats = s.ats := rfl
@[simp] theorem State.advance_tlb (s : State) : (s.advance).tlb = s.tlb := rfl
@[simp] theorem State.advance_invals (s : State) : (s.advance).invals = s.invals := rfl
@[simp] theorem State.advance_fabric (s : State) : (s.advance).fabric = s.fabric := rfl
@[simp] theorem State.advance_svc (s : State) : (s.advance).svc = s.svc := rfl
@[simp] theorem State.advance_coh (s : State) : (s.advance).coh = s.coh := rfl
@[simp] theorem State.advance_inbox (s : State) : (s.advance).inbox = s.inbox := rfl
@[simp] theorem State.advance_outbox (s : State) : (s.advance).outbox = s.outbox := rfl
@[simp] theorem State.advance_picked (s : State) : (s.advance).picked = s.picked := rfl
@[simp] theorem State.advance_rr (s : State) : (s.advance).rr = s.rr := rfl
@[simp] theorem State.advance_fetchTurn (s : State) : (s.advance).fetchTurn = s.fetchTurn := rfl
@[simp] theorem State.advance_clock (s : State) : (s.advance).clock = s.clock := rfl
@[simp] theorem State.advance_draw (s : State) : (s.advance).draw = s.draw := rfl

-- State.jump

@[simp] theorem State.jump_parked (s : State) (pc : Word) : (s.jump pc).parked = s.parked := rfl
@[simp] theorem State.jump_mem (s : State) (pc : Word) : (s.jump pc).mem = s.mem := rfl
@[simp] theorem State.jump_regions (s : State) (pc : Word) : (s.jump pc).regions = s.regions := rfl
@[simp] theorem State.jump_lu (s : State) (pc : Word) : (s.jump pc).lu = s.lu := rfl
@[simp] theorem State.jump_ops (s : State) (pc : Word) : (s.jump pc).ops = s.ops := rfl
@[simp] theorem State.jump_nextOp (s : State) (pc : Word) : (s.jump pc).nextOp = s.nextOp := rfl
@[simp] theorem State.jump_mail (s : State) (pc : Word) : (s.jump pc).mail = s.mail := rfl
@[simp] theorem State.jump_colls (s : State) (pc : Word) : (s.jump pc).colls = s.colls := rfl
@[simp] theorem State.jump_pubs (s : State) (pc : Word) : (s.jump pc).pubs = s.pubs := rfl
@[simp] theorem State.jump_targets (s : State) (pc : Word) : (s.jump pc).targets = s.targets := rfl
@[simp] theorem State.jump_nextTag (s : State) (pc : Word) : (s.jump pc).nextTag = s.nextTag := rfl
@[simp] theorem State.jump_ats (s : State) (pc : Word) : (s.jump pc).ats = s.ats := rfl
@[simp] theorem State.jump_tlb (s : State) (pc : Word) : (s.jump pc).tlb = s.tlb := rfl
@[simp] theorem State.jump_invals (s : State) (pc : Word) : (s.jump pc).invals = s.invals := rfl
@[simp] theorem State.jump_fabric (s : State) (pc : Word) : (s.jump pc).fabric = s.fabric := rfl
@[simp] theorem State.jump_svc (s : State) (pc : Word) : (s.jump pc).svc = s.svc := rfl
@[simp] theorem State.jump_coh (s : State) (pc : Word) : (s.jump pc).coh = s.coh := rfl
@[simp] theorem State.jump_inbox (s : State) (pc : Word) : (s.jump pc).inbox = s.inbox := rfl
@[simp] theorem State.jump_outbox (s : State) (pc : Word) : (s.jump pc).outbox = s.outbox := rfl
@[simp] theorem State.jump_picked (s : State) (pc : Word) : (s.jump pc).picked = s.picked := rfl
@[simp] theorem State.jump_rr (s : State) (pc : Word) : (s.jump pc).rr = s.rr := rfl
@[simp] theorem State.jump_fetchTurn (s : State) (pc : Word) : (s.jump pc).fetchTurn = s.fetchTurn := rfl
@[simp] theorem State.jump_clock (s : State) (pc : Word) : (s.jump pc).clock = s.clock := rfl
@[simp] theorem State.jump_draw (s : State) (pc : Word) : (s.jump pc).draw = s.draw := rfl

-- State.done1

@[simp] theorem State.done1_parked (s : State) (d : Reg) (w : Word) : (s.done1 d w).parked = s.parked := rfl
@[simp] theorem State.done1_mem (s : State) (d : Reg) (w : Word) : (s.done1 d w).mem = s.mem := rfl
@[simp] theorem State.done1_regions (s : State) (d : Reg) (w : Word) : (s.done1 d w).regions = s.regions := rfl
@[simp] theorem State.done1_lu (s : State) (d : Reg) (w : Word) : (s.done1 d w).lu = s.lu := rfl
@[simp] theorem State.done1_ops (s : State) (d : Reg) (w : Word) : (s.done1 d w).ops = s.ops := rfl
@[simp] theorem State.done1_nextOp (s : State) (d : Reg) (w : Word) : (s.done1 d w).nextOp = s.nextOp := rfl
@[simp] theorem State.done1_mail (s : State) (d : Reg) (w : Word) : (s.done1 d w).mail = s.mail := rfl
@[simp] theorem State.done1_colls (s : State) (d : Reg) (w : Word) : (s.done1 d w).colls = s.colls := rfl
@[simp] theorem State.done1_pubs (s : State) (d : Reg) (w : Word) : (s.done1 d w).pubs = s.pubs := rfl
@[simp] theorem State.done1_targets (s : State) (d : Reg) (w : Word) : (s.done1 d w).targets = s.targets := rfl
@[simp] theorem State.done1_nextTag (s : State) (d : Reg) (w : Word) : (s.done1 d w).nextTag = s.nextTag := rfl
@[simp] theorem State.done1_ats (s : State) (d : Reg) (w : Word) : (s.done1 d w).ats = s.ats := rfl
@[simp] theorem State.done1_tlb (s : State) (d : Reg) (w : Word) : (s.done1 d w).tlb = s.tlb := rfl
@[simp] theorem State.done1_invals (s : State) (d : Reg) (w : Word) : (s.done1 d w).invals = s.invals := rfl
@[simp] theorem State.done1_fabric (s : State) (d : Reg) (w : Word) : (s.done1 d w).fabric = s.fabric := rfl
@[simp] theorem State.done1_svc (s : State) (d : Reg) (w : Word) : (s.done1 d w).svc = s.svc := rfl
@[simp] theorem State.done1_coh (s : State) (d : Reg) (w : Word) : (s.done1 d w).coh = s.coh := rfl
@[simp] theorem State.done1_inbox (s : State) (d : Reg) (w : Word) : (s.done1 d w).inbox = s.inbox := rfl
@[simp] theorem State.done1_outbox (s : State) (d : Reg) (w : Word) : (s.done1 d w).outbox = s.outbox := rfl
@[simp] theorem State.done1_picked (s : State) (d : Reg) (w : Word) : (s.done1 d w).picked = s.picked := rfl
@[simp] theorem State.done1_rr (s : State) (d : Reg) (w : Word) : (s.done1 d w).rr = s.rr := rfl
@[simp] theorem State.done1_fetchTurn (s : State) (d : Reg) (w : Word) : (s.done1 d w).fetchTurn = s.fetchTurn := rfl
@[simp] theorem State.done1_clock (s : State) (d : Reg) (w : Word) : (s.done1 d w).clock = s.clock := rfl
@[simp] theorem State.done1_draw (s : State) (d : Reg) (w : Word) : (s.done1 d w).draw = s.draw := rfl

-- State.raise

@[simp] theorem State.raise_parked (s : State) (n : Nat) : (s.raise n).parked = s.parked := rfl
@[simp] theorem State.raise_mem (s : State) (n : Nat) : (s.raise n).mem = s.mem := rfl
@[simp] theorem State.raise_regions (s : State) (n : Nat) : (s.raise n).regions = s.regions := rfl
@[simp] theorem State.raise_lu (s : State) (n : Nat) : (s.raise n).lu = s.lu := rfl
@[simp] theorem State.raise_ops (s : State) (n : Nat) : (s.raise n).ops = s.ops := rfl
@[simp] theorem State.raise_nextOp (s : State) (n : Nat) : (s.raise n).nextOp = s.nextOp := rfl
@[simp] theorem State.raise_mail (s : State) (n : Nat) : (s.raise n).mail = s.mail := rfl
@[simp] theorem State.raise_colls (s : State) (n : Nat) : (s.raise n).colls = s.colls := rfl
@[simp] theorem State.raise_pubs (s : State) (n : Nat) : (s.raise n).pubs = s.pubs := rfl
@[simp] theorem State.raise_targets (s : State) (n : Nat) : (s.raise n).targets = s.targets := rfl
@[simp] theorem State.raise_nextTag (s : State) (n : Nat) : (s.raise n).nextTag = s.nextTag := rfl
@[simp] theorem State.raise_ats (s : State) (n : Nat) : (s.raise n).ats = s.ats := rfl
@[simp] theorem State.raise_tlb (s : State) (n : Nat) : (s.raise n).tlb = s.tlb := rfl
@[simp] theorem State.raise_invals (s : State) (n : Nat) : (s.raise n).invals = s.invals := rfl
@[simp] theorem State.raise_fabric (s : State) (n : Nat) : (s.raise n).fabric = s.fabric := rfl
@[simp] theorem State.raise_svc (s : State) (n : Nat) : (s.raise n).svc = s.svc := rfl
@[simp] theorem State.raise_coh (s : State) (n : Nat) : (s.raise n).coh = s.coh := rfl
@[simp] theorem State.raise_inbox (s : State) (n : Nat) : (s.raise n).inbox = s.inbox := rfl
@[simp] theorem State.raise_outbox (s : State) (n : Nat) : (s.raise n).outbox = s.outbox := rfl
@[simp] theorem State.raise_picked (s : State) (n : Nat) : (s.raise n).picked = s.picked := rfl
@[simp] theorem State.raise_rr (s : State) (n : Nat) : (s.raise n).rr = s.rr := rfl
@[simp] theorem State.raise_fetchTurn (s : State) (n : Nat) : (s.raise n).fetchTurn = s.fetchTurn := rfl
@[simp] theorem State.raise_clock (s : State) (n : Nat) : (s.raise n).clock = s.clock := rfl
@[simp] theorem State.raise_draw (s : State) (n : Nat) : (s.raise n).draw = s.draw := rfl

-- State.stall

@[simp] theorem State.stall_parked (s : State) (b : Bool) : (s.stall b).parked = s.parked := rfl
@[simp] theorem State.stall_mem (s : State) (b : Bool) : (s.stall b).mem = s.mem := rfl
@[simp] theorem State.stall_regions (s : State) (b : Bool) : (s.stall b).regions = s.regions := rfl
@[simp] theorem State.stall_lu (s : State) (b : Bool) : (s.stall b).lu = s.lu := rfl
@[simp] theorem State.stall_ops (s : State) (b : Bool) : (s.stall b).ops = s.ops := rfl
@[simp] theorem State.stall_nextOp (s : State) (b : Bool) : (s.stall b).nextOp = s.nextOp := rfl
@[simp] theorem State.stall_mail (s : State) (b : Bool) : (s.stall b).mail = s.mail := rfl
@[simp] theorem State.stall_colls (s : State) (b : Bool) : (s.stall b).colls = s.colls := rfl
@[simp] theorem State.stall_pubs (s : State) (b : Bool) : (s.stall b).pubs = s.pubs := rfl
@[simp] theorem State.stall_targets (s : State) (b : Bool) : (s.stall b).targets = s.targets := rfl
@[simp] theorem State.stall_nextTag (s : State) (b : Bool) : (s.stall b).nextTag = s.nextTag := rfl
@[simp] theorem State.stall_ats (s : State) (b : Bool) : (s.stall b).ats = s.ats := rfl
@[simp] theorem State.stall_tlb (s : State) (b : Bool) : (s.stall b).tlb = s.tlb := rfl
@[simp] theorem State.stall_invals (s : State) (b : Bool) : (s.stall b).invals = s.invals := rfl
@[simp] theorem State.stall_fabric (s : State) (b : Bool) : (s.stall b).fabric = s.fabric := rfl
@[simp] theorem State.stall_svc (s : State) (b : Bool) : (s.stall b).svc = s.svc := rfl
@[simp] theorem State.stall_coh (s : State) (b : Bool) : (s.stall b).coh = s.coh := rfl
@[simp] theorem State.stall_inbox (s : State) (b : Bool) : (s.stall b).inbox = s.inbox := rfl
@[simp] theorem State.stall_outbox (s : State) (b : Bool) : (s.stall b).outbox = s.outbox := rfl
@[simp] theorem State.stall_picked (s : State) (b : Bool) : (s.stall b).picked = s.picked := rfl
@[simp] theorem State.stall_rr (s : State) (b : Bool) : (s.stall b).rr = s.rr := rfl
@[simp] theorem State.stall_fetchTurn (s : State) (b : Bool) : (s.stall b).fetchTurn = s.fetchTurn := rfl
@[simp] theorem State.stall_clock (s : State) (b : Bool) : (s.stall b).clock = s.clock := rfl
@[simp] theorem State.stall_draw (s : State) (b : Bool) : (s.stall b).draw = s.draw := rfl

-- State.updHart

@[simp] theorem State.updHart_mem (s : State) (hid : Nat) (f : Hart → Hart) : (s.updHart hid f).mem = s.mem := rfl
@[simp] theorem State.updHart_regions (s : State) (hid : Nat) (f : Hart → Hart) : (s.updHart hid f).regions = s.regions := rfl
@[simp] theorem State.updHart_lu (s : State) (hid : Nat) (f : Hart → Hart) : (s.updHart hid f).lu = s.lu := rfl
@[simp] theorem State.updHart_ops (s : State) (hid : Nat) (f : Hart → Hart) : (s.updHart hid f).ops = s.ops := rfl
@[simp] theorem State.updHart_nextOp (s : State) (hid : Nat) (f : Hart → Hart) : (s.updHart hid f).nextOp = s.nextOp := rfl
@[simp] theorem State.updHart_mail (s : State) (hid : Nat) (f : Hart → Hart) : (s.updHart hid f).mail = s.mail := rfl
@[simp] theorem State.updHart_colls (s : State) (hid : Nat) (f : Hart → Hart) : (s.updHart hid f).colls = s.colls := rfl
@[simp] theorem State.updHart_pubs (s : State) (hid : Nat) (f : Hart → Hart) : (s.updHart hid f).pubs = s.pubs := rfl
@[simp] theorem State.updHart_targets (s : State) (hid : Nat) (f : Hart → Hart) : (s.updHart hid f).targets = s.targets := rfl
@[simp] theorem State.updHart_nextTag (s : State) (hid : Nat) (f : Hart → Hart) : (s.updHart hid f).nextTag = s.nextTag := rfl
@[simp] theorem State.updHart_ats (s : State) (hid : Nat) (f : Hart → Hart) : (s.updHart hid f).ats = s.ats := rfl
@[simp] theorem State.updHart_tlb (s : State) (hid : Nat) (f : Hart → Hart) : (s.updHart hid f).tlb = s.tlb := rfl
@[simp] theorem State.updHart_invals (s : State) (hid : Nat) (f : Hart → Hart) : (s.updHart hid f).invals = s.invals := rfl
@[simp] theorem State.updHart_fabric (s : State) (hid : Nat) (f : Hart → Hart) : (s.updHart hid f).fabric = s.fabric := rfl
@[simp] theorem State.updHart_svc (s : State) (hid : Nat) (f : Hart → Hart) : (s.updHart hid f).svc = s.svc := rfl
@[simp] theorem State.updHart_coh (s : State) (hid : Nat) (f : Hart → Hart) : (s.updHart hid f).coh = s.coh := rfl
@[simp] theorem State.updHart_inbox (s : State) (hid : Nat) (f : Hart → Hart) : (s.updHart hid f).inbox = s.inbox := rfl
@[simp] theorem State.updHart_outbox (s : State) (hid : Nat) (f : Hart → Hart) : (s.updHart hid f).outbox = s.outbox := rfl
@[simp] theorem State.updHart_picked (s : State) (hid : Nat) (f : Hart → Hart) : (s.updHart hid f).picked = s.picked := rfl
@[simp] theorem State.updHart_rr (s : State) (hid : Nat) (f : Hart → Hart) : (s.updHart hid f).rr = s.rr := rfl
@[simp] theorem State.updHart_fetchTurn (s : State) (hid : Nat) (f : Hart → Hart) : (s.updHart hid f).fetchTurn = s.fetchTurn := rfl
@[simp] theorem State.updHart_clock (s : State) (hid : Nat) (f : Hart → Hart) : (s.updHart hid f).clock = s.clock := rfl
@[simp] theorem State.updHart_draw (s : State) (hid : Nat) (f : Hart → Hart) : (s.updHart hid f).draw = s.draw := rfl

-- State.updLaunch

@[simp] theorem State.updLaunch_hart (s : State) (lid : Nat) (f : Launch → Launch) : (s.updLaunch lid f).hart = s.hart := rfl
@[simp] theorem State.updLaunch_parked (s : State) (lid : Nat) (f : Launch → Launch) : (s.updLaunch lid f).parked = s.parked := rfl
@[simp] theorem State.updLaunch_mem (s : State) (lid : Nat) (f : Launch → Launch) : (s.updLaunch lid f).mem = s.mem := rfl
@[simp] theorem State.updLaunch_regions (s : State) (lid : Nat) (f : Launch → Launch) : (s.updLaunch lid f).regions = s.regions := rfl
@[simp] theorem State.updLaunch_ops (s : State) (lid : Nat) (f : Launch → Launch) : (s.updLaunch lid f).ops = s.ops := rfl
@[simp] theorem State.updLaunch_nextOp (s : State) (lid : Nat) (f : Launch → Launch) : (s.updLaunch lid f).nextOp = s.nextOp := rfl
@[simp] theorem State.updLaunch_mail (s : State) (lid : Nat) (f : Launch → Launch) : (s.updLaunch lid f).mail = s.mail := rfl
@[simp] theorem State.updLaunch_colls (s : State) (lid : Nat) (f : Launch → Launch) : (s.updLaunch lid f).colls = s.colls := rfl
@[simp] theorem State.updLaunch_pubs (s : State) (lid : Nat) (f : Launch → Launch) : (s.updLaunch lid f).pubs = s.pubs := rfl
@[simp] theorem State.updLaunch_targets (s : State) (lid : Nat) (f : Launch → Launch) : (s.updLaunch lid f).targets = s.targets := rfl
@[simp] theorem State.updLaunch_nextTag (s : State) (lid : Nat) (f : Launch → Launch) : (s.updLaunch lid f).nextTag = s.nextTag := rfl
@[simp] theorem State.updLaunch_ats (s : State) (lid : Nat) (f : Launch → Launch) : (s.updLaunch lid f).ats = s.ats := rfl
@[simp] theorem State.updLaunch_tlb (s : State) (lid : Nat) (f : Launch → Launch) : (s.updLaunch lid f).tlb = s.tlb := rfl
@[simp] theorem State.updLaunch_invals (s : State) (lid : Nat) (f : Launch → Launch) : (s.updLaunch lid f).invals = s.invals := rfl
@[simp] theorem State.updLaunch_fabric (s : State) (lid : Nat) (f : Launch → Launch) : (s.updLaunch lid f).fabric = s.fabric := rfl
@[simp] theorem State.updLaunch_svc (s : State) (lid : Nat) (f : Launch → Launch) : (s.updLaunch lid f).svc = s.svc := rfl
@[simp] theorem State.updLaunch_coh (s : State) (lid : Nat) (f : Launch → Launch) : (s.updLaunch lid f).coh = s.coh := rfl
@[simp] theorem State.updLaunch_inbox (s : State) (lid : Nat) (f : Launch → Launch) : (s.updLaunch lid f).inbox = s.inbox := rfl
@[simp] theorem State.updLaunch_outbox (s : State) (lid : Nat) (f : Launch → Launch) : (s.updLaunch lid f).outbox = s.outbox := rfl
@[simp] theorem State.updLaunch_picked (s : State) (lid : Nat) (f : Launch → Launch) : (s.updLaunch lid f).picked = s.picked := rfl
@[simp] theorem State.updLaunch_rr (s : State) (lid : Nat) (f : Launch → Launch) : (s.updLaunch lid f).rr = s.rr := rfl
@[simp] theorem State.updLaunch_fetchTurn (s : State) (lid : Nat) (f : Launch → Launch) : (s.updLaunch lid f).fetchTurn = s.fetchTurn := rfl
@[simp] theorem State.updLaunch_clock (s : State) (lid : Nat) (f : Launch → Launch) : (s.updLaunch lid f).clock = s.clock := rfl
@[simp] theorem State.updLaunch_draw (s : State) (lid : Nat) (f : Launch → Launch) : (s.updLaunch lid f).draw = s.draw := rfl

-- State.post

@[simp] theorem State.post_hart (s : State) (es : List Instr) : (s.post es).hart = s.hart := rfl
@[simp] theorem State.post_parked (s : State) (es : List Instr) : (s.post es).parked = s.parked := rfl
@[simp] theorem State.post_mem (s : State) (es : List Instr) : (s.post es).mem = s.mem := rfl
@[simp] theorem State.post_regions (s : State) (es : List Instr) : (s.post es).regions = s.regions := rfl
@[simp] theorem State.post_lu (s : State) (es : List Instr) : (s.post es).lu = s.lu := rfl
@[simp] theorem State.post_ops (s : State) (es : List Instr) : (s.post es).ops = s.ops := rfl
@[simp] theorem State.post_nextOp (s : State) (es : List Instr) : (s.post es).nextOp = s.nextOp := rfl
@[simp] theorem State.post_mail (s : State) (es : List Instr) : (s.post es).mail = s.mail := rfl
@[simp] theorem State.post_colls (s : State) (es : List Instr) : (s.post es).colls = s.colls := rfl
@[simp] theorem State.post_pubs (s : State) (es : List Instr) : (s.post es).pubs = s.pubs := rfl
@[simp] theorem State.post_targets (s : State) (es : List Instr) : (s.post es).targets = s.targets := rfl
@[simp] theorem State.post_nextTag (s : State) (es : List Instr) : (s.post es).nextTag = s.nextTag := rfl
@[simp] theorem State.post_ats (s : State) (es : List Instr) : (s.post es).ats = s.ats := rfl
@[simp] theorem State.post_tlb (s : State) (es : List Instr) : (s.post es).tlb = s.tlb := rfl
@[simp] theorem State.post_invals (s : State) (es : List Instr) : (s.post es).invals = s.invals := rfl
@[simp] theorem State.post_fabric (s : State) (es : List Instr) : (s.post es).fabric = s.fabric := rfl
@[simp] theorem State.post_svc (s : State) (es : List Instr) : (s.post es).svc = s.svc := rfl
@[simp] theorem State.post_coh (s : State) (es : List Instr) : (s.post es).coh = s.coh := rfl
@[simp] theorem State.post_outbox (s : State) (es : List Instr) : (s.post es).outbox = s.outbox := rfl
@[simp] theorem State.post_picked (s : State) (es : List Instr) : (s.post es).picked = s.picked := rfl
@[simp] theorem State.post_rr (s : State) (es : List Instr) : (s.post es).rr = s.rr := rfl
@[simp] theorem State.post_fetchTurn (s : State) (es : List Instr) : (s.post es).fetchTurn = s.fetchTurn := rfl
@[simp] theorem State.post_clock (s : State) (es : List Instr) : (s.post es).clock = s.clock := rfl
@[simp] theorem State.post_draw (s : State) (es : List Instr) : (s.post es).draw = s.draw := rfl

-- State.send

@[simp] theorem State.send_hart (s : State) (ms : List OutMsg) : (s.send ms).hart = s.hart := rfl
@[simp] theorem State.send_parked (s : State) (ms : List OutMsg) : (s.send ms).parked = s.parked := rfl
@[simp] theorem State.send_mem (s : State) (ms : List OutMsg) : (s.send ms).mem = s.mem := rfl
@[simp] theorem State.send_regions (s : State) (ms : List OutMsg) : (s.send ms).regions = s.regions := rfl
@[simp] theorem State.send_lu (s : State) (ms : List OutMsg) : (s.send ms).lu = s.lu := rfl
@[simp] theorem State.send_ops (s : State) (ms : List OutMsg) : (s.send ms).ops = s.ops := rfl
@[simp] theorem State.send_nextOp (s : State) (ms : List OutMsg) : (s.send ms).nextOp = s.nextOp := rfl
@[simp] theorem State.send_mail (s : State) (ms : List OutMsg) : (s.send ms).mail = s.mail := rfl
@[simp] theorem State.send_colls (s : State) (ms : List OutMsg) : (s.send ms).colls = s.colls := rfl
@[simp] theorem State.send_pubs (s : State) (ms : List OutMsg) : (s.send ms).pubs = s.pubs := rfl
@[simp] theorem State.send_targets (s : State) (ms : List OutMsg) : (s.send ms).targets = s.targets := rfl
@[simp] theorem State.send_nextTag (s : State) (ms : List OutMsg) : (s.send ms).nextTag = s.nextTag := rfl
@[simp] theorem State.send_ats (s : State) (ms : List OutMsg) : (s.send ms).ats = s.ats := rfl
@[simp] theorem State.send_tlb (s : State) (ms : List OutMsg) : (s.send ms).tlb = s.tlb := rfl
@[simp] theorem State.send_invals (s : State) (ms : List OutMsg) : (s.send ms).invals = s.invals := rfl
@[simp] theorem State.send_fabric (s : State) (ms : List OutMsg) : (s.send ms).fabric = s.fabric := rfl
@[simp] theorem State.send_svc (s : State) (ms : List OutMsg) : (s.send ms).svc = s.svc := rfl
@[simp] theorem State.send_coh (s : State) (ms : List OutMsg) : (s.send ms).coh = s.coh := rfl
@[simp] theorem State.send_inbox (s : State) (ms : List OutMsg) : (s.send ms).inbox = s.inbox := rfl
@[simp] theorem State.send_picked (s : State) (ms : List OutMsg) : (s.send ms).picked = s.picked := rfl
@[simp] theorem State.send_rr (s : State) (ms : List OutMsg) : (s.send ms).rr = s.rr := rfl
@[simp] theorem State.send_fetchTurn (s : State) (ms : List OutMsg) : (s.send ms).fetchTurn = s.fetchTurn := rfl
@[simp] theorem State.send_clock (s : State) (ms : List OutMsg) : (s.send ms).clock = s.clock := rfl
@[simp] theorem State.send_draw (s : State) (ms : List OutMsg) : (s.send ms).draw = s.draw := rfl

-- State.logEvent

@[simp] theorem State.logEvent_hart (s : State) (k p d : Nat) : (s.logEvent k p d).hart = s.hart := rfl
@[simp] theorem State.logEvent_parked (s : State) (k p d : Nat) : (s.logEvent k p d).parked = s.parked := rfl
@[simp] theorem State.logEvent_mem (s : State) (k p d : Nat) : (s.logEvent k p d).mem = s.mem := rfl
@[simp] theorem State.logEvent_regions (s : State) (k p d : Nat) : (s.logEvent k p d).regions = s.regions := rfl
@[simp] theorem State.logEvent_lu (s : State) (k p d : Nat) : (s.logEvent k p d).lu = s.lu := rfl
@[simp] theorem State.logEvent_ops (s : State) (k p d : Nat) : (s.logEvent k p d).ops = s.ops := rfl
@[simp] theorem State.logEvent_nextOp (s : State) (k p d : Nat) : (s.logEvent k p d).nextOp = s.nextOp := rfl
@[simp] theorem State.logEvent_mail (s : State) (k p d : Nat) : (s.logEvent k p d).mail = s.mail := rfl
@[simp] theorem State.logEvent_colls (s : State) (k p d : Nat) : (s.logEvent k p d).colls = s.colls := rfl
@[simp] theorem State.logEvent_pubs (s : State) (k p d : Nat) : (s.logEvent k p d).pubs = s.pubs := rfl
@[simp] theorem State.logEvent_targets (s : State) (k p d : Nat) : (s.logEvent k p d).targets = s.targets := rfl
@[simp] theorem State.logEvent_nextTag (s : State) (k p d : Nat) : (s.logEvent k p d).nextTag = s.nextTag := rfl
@[simp] theorem State.logEvent_ats (s : State) (k p d : Nat) : (s.logEvent k p d).ats = s.ats := rfl
@[simp] theorem State.logEvent_tlb (s : State) (k p d : Nat) : (s.logEvent k p d).tlb = s.tlb := rfl
@[simp] theorem State.logEvent_invals (s : State) (k p d : Nat) : (s.logEvent k p d).invals = s.invals := rfl
@[simp] theorem State.logEvent_fabric (s : State) (k p d : Nat) : (s.logEvent k p d).fabric = s.fabric := rfl
@[simp] theorem State.logEvent_coh (s : State) (k p d : Nat) : (s.logEvent k p d).coh = s.coh := rfl
@[simp] theorem State.logEvent_inbox (s : State) (k p d : Nat) : (s.logEvent k p d).inbox = s.inbox := rfl
@[simp] theorem State.logEvent_outbox (s : State) (k p d : Nat) : (s.logEvent k p d).outbox = s.outbox := rfl
@[simp] theorem State.logEvent_picked (s : State) (k p d : Nat) : (s.logEvent k p d).picked = s.picked := rfl
@[simp] theorem State.logEvent_rr (s : State) (k p d : Nat) : (s.logEvent k p d).rr = s.rr := rfl
@[simp] theorem State.logEvent_fetchTurn (s : State) (k p d : Nat) : (s.logEvent k p d).fetchTurn = s.fetchTurn := rfl
@[simp] theorem State.logEvent_clock (s : State) (k p d : Nat) : (s.logEvent k p d).clock = s.clock := rfl
@[simp] theorem State.logEvent_draw (s : State) (k p d : Nat) : (s.logEvent k p d).draw = s.draw := rfl

-- State.memPut

@[simp] theorem State.memPut_hart (s : State) (a : Nat) (bs : List Byte) : (s.memPut a bs).hart = s.hart := rfl
@[simp] theorem State.memPut_parked (s : State) (a : Nat) (bs : List Byte) : (s.memPut a bs).parked = s.parked := rfl
@[simp] theorem State.memPut_regions (s : State) (a : Nat) (bs : List Byte) : (s.memPut a bs).regions = s.regions := rfl
@[simp] theorem State.memPut_lu (s : State) (a : Nat) (bs : List Byte) : (s.memPut a bs).lu = s.lu := rfl
@[simp] theorem State.memPut_ops (s : State) (a : Nat) (bs : List Byte) : (s.memPut a bs).ops = s.ops := rfl
@[simp] theorem State.memPut_nextOp (s : State) (a : Nat) (bs : List Byte) : (s.memPut a bs).nextOp = s.nextOp := rfl
@[simp] theorem State.memPut_mail (s : State) (a : Nat) (bs : List Byte) : (s.memPut a bs).mail = s.mail := rfl
@[simp] theorem State.memPut_colls (s : State) (a : Nat) (bs : List Byte) : (s.memPut a bs).colls = s.colls := rfl
@[simp] theorem State.memPut_pubs (s : State) (a : Nat) (bs : List Byte) : (s.memPut a bs).pubs = s.pubs := rfl
@[simp] theorem State.memPut_targets (s : State) (a : Nat) (bs : List Byte) : (s.memPut a bs).targets = s.targets := rfl
@[simp] theorem State.memPut_nextTag (s : State) (a : Nat) (bs : List Byte) : (s.memPut a bs).nextTag = s.nextTag := rfl
@[simp] theorem State.memPut_ats (s : State) (a : Nat) (bs : List Byte) : (s.memPut a bs).ats = s.ats := rfl
@[simp] theorem State.memPut_tlb (s : State) (a : Nat) (bs : List Byte) : (s.memPut a bs).tlb = s.tlb := rfl
@[simp] theorem State.memPut_invals (s : State) (a : Nat) (bs : List Byte) : (s.memPut a bs).invals = s.invals := rfl
@[simp] theorem State.memPut_fabric (s : State) (a : Nat) (bs : List Byte) : (s.memPut a bs).fabric = s.fabric := rfl
@[simp] theorem State.memPut_svc (s : State) (a : Nat) (bs : List Byte) : (s.memPut a bs).svc = s.svc := rfl
@[simp] theorem State.memPut_inbox (s : State) (a : Nat) (bs : List Byte) : (s.memPut a bs).inbox = s.inbox := rfl
@[simp] theorem State.memPut_outbox (s : State) (a : Nat) (bs : List Byte) : (s.memPut a bs).outbox = s.outbox := rfl
@[simp] theorem State.memPut_picked (s : State) (a : Nat) (bs : List Byte) : (s.memPut a bs).picked = s.picked := rfl
@[simp] theorem State.memPut_rr (s : State) (a : Nat) (bs : List Byte) : (s.memPut a bs).rr = s.rr := rfl
@[simp] theorem State.memPut_fetchTurn (s : State) (a : Nat) (bs : List Byte) : (s.memPut a bs).fetchTurn = s.fetchTurn := rfl
@[simp] theorem State.memPut_clock (s : State) (a : Nat) (bs : List Byte) : (s.memPut a bs).clock = s.clock := rfl
@[simp] theorem State.memPut_draw (s : State) (a : Nat) (bs : List Byte) : (s.memPut a bs).draw = s.draw := rfl

-- State.updRegion

@[simp] theorem State.updRegion_hart (s : State) (c l : Nat) (f : Region → Region) : (s.updRegion c l f).hart = s.hart := rfl
@[simp] theorem State.updRegion_parked (s : State) (c l : Nat) (f : Region → Region) : (s.updRegion c l f).parked = s.parked := rfl
@[simp] theorem State.updRegion_mem (s : State) (c l : Nat) (f : Region → Region) : (s.updRegion c l f).mem = s.mem := rfl
@[simp] theorem State.updRegion_lu (s : State) (c l : Nat) (f : Region → Region) : (s.updRegion c l f).lu = s.lu := rfl
@[simp] theorem State.updRegion_ops (s : State) (c l : Nat) (f : Region → Region) : (s.updRegion c l f).ops = s.ops := rfl
@[simp] theorem State.updRegion_nextOp (s : State) (c l : Nat) (f : Region → Region) : (s.updRegion c l f).nextOp = s.nextOp := rfl
@[simp] theorem State.updRegion_mail (s : State) (c l : Nat) (f : Region → Region) : (s.updRegion c l f).mail = s.mail := rfl
@[simp] theorem State.updRegion_colls (s : State) (c l : Nat) (f : Region → Region) : (s.updRegion c l f).colls = s.colls := rfl
@[simp] theorem State.updRegion_pubs (s : State) (c l : Nat) (f : Region → Region) : (s.updRegion c l f).pubs = s.pubs := rfl
@[simp] theorem State.updRegion_targets (s : State) (c l : Nat) (f : Region → Region) : (s.updRegion c l f).targets = s.targets := rfl
@[simp] theorem State.updRegion_nextTag (s : State) (c l : Nat) (f : Region → Region) : (s.updRegion c l f).nextTag = s.nextTag := rfl
@[simp] theorem State.updRegion_ats (s : State) (c l : Nat) (f : Region → Region) : (s.updRegion c l f).ats = s.ats := rfl
@[simp] theorem State.updRegion_tlb (s : State) (c l : Nat) (f : Region → Region) : (s.updRegion c l f).tlb = s.tlb := rfl
@[simp] theorem State.updRegion_invals (s : State) (c l : Nat) (f : Region → Region) : (s.updRegion c l f).invals = s.invals := rfl
@[simp] theorem State.updRegion_fabric (s : State) (c l : Nat) (f : Region → Region) : (s.updRegion c l f).fabric = s.fabric := rfl
@[simp] theorem State.updRegion_svc (s : State) (c l : Nat) (f : Region → Region) : (s.updRegion c l f).svc = s.svc := rfl
@[simp] theorem State.updRegion_coh (s : State) (c l : Nat) (f : Region → Region) : (s.updRegion c l f).coh = s.coh := rfl
@[simp] theorem State.updRegion_inbox (s : State) (c l : Nat) (f : Region → Region) : (s.updRegion c l f).inbox = s.inbox := rfl
@[simp] theorem State.updRegion_outbox (s : State) (c l : Nat) (f : Region → Region) : (s.updRegion c l f).outbox = s.outbox := rfl
@[simp] theorem State.updRegion_picked (s : State) (c l : Nat) (f : Region → Region) : (s.updRegion c l f).picked = s.picked := rfl
@[simp] theorem State.updRegion_rr (s : State) (c l : Nat) (f : Region → Region) : (s.updRegion c l f).rr = s.rr := rfl
@[simp] theorem State.updRegion_fetchTurn (s : State) (c l : Nat) (f : Region → Region) : (s.updRegion c l f).fetchTurn = s.fetchTurn := rfl
@[simp] theorem State.updRegion_clock (s : State) (c l : Nat) (f : Region → Region) : (s.updRegion c l f).clock = s.clock := rfl
@[simp] theorem State.updRegion_draw (s : State) (c l : Nat) (f : Region → Region) : (s.updRegion c l f).draw = s.draw := rfl

-- what the updates change

@[simp] theorem State.withHart_hart (s : State) (f : Hart → Hart) : (s.withHart f).hart = f s.hart := rfl
@[simp] theorem State.wx_hart (s : State) (r : Reg) (w : Word) : (s.wx r w).hart = s.hart.wx r w := rfl
@[simp] theorem State.advance_hart (s : State) :
    s.advance.hart = { s.hart with pc := s.hart.pc + 4, fbuf := s.hart.fbuf - 1 } := rfl
@[simp] theorem State.jump_hart (s : State) (pc : Word) : (s.jump pc).hart = { s.hart with pc := pc, fbuf := 0 } := rfl
@[simp] theorem State.done1_hart (s : State) (d : Reg) (w : Word) :
    (s.done1 d w).hart = { s.hart.wx d w with pc := (s.hart.wx d w).pc + 4, fbuf := (s.hart.wx d w).fbuf - 1 } := rfl
@[simp] theorem State.raise_hart (s : State) (n : Nat) : (s.raise n).hart = s.hart.raise n := rfl
@[simp] theorem State.post_inbox (s : State) (es : List Instr) : (s.post es).inbox = s.inbox ++ es := rfl
@[simp] theorem State.send_outbox (s : State) (ms : List OutMsg) : (s.send ms).outbox = s.outbox ++ ms := rfl
@[simp] theorem State.memPut_mem (s : State) (a : Nat) (bs : List Byte) : (s.memPut a bs).mem = cellsPut s.mem a bs := rfl

-- a scalar register write leaves the hart's other fields

@[simp] theorem Hart.wx_hid (h : Hart) (r : Reg) (w : Word) : (h.wx r w).hid = h.hid := by
  unfold Hart.wx; split <;> rfl
@[simp] theorem Hart.wx_lid (h : Hart) (r : Reg) (w : Word) : (h.wx r w).lid = h.lid := by
  unfold Hart.wx; split <;> rfl
@[simp] theorem Hart.wx_j (h : Hart) (r : Reg) (w : Word) : (h.wx r w).j = h.j := by
  unfold Hart.wx; split <;> rfl
@[simp] theorem Hart.wx_pc (h : Hart) (r : Reg) (w : Word) : (h.wx r w).pc = h.pc := by
  unfold Hart.wx; split <;> rfl
@[simp] theorem Hart.wx_v (h : Hart) (r : Reg) (w : Word) : (h.wx r w).v = h.v := by
  unfold Hart.wx; split <;> rfl
@[simp] theorem Hart.wx_k (h : Hart) (r : Reg) (w : Word) : (h.wx r w).k = h.k := by
  unfold Hart.wx; split <;> rfl
@[simp] theorem Hart.wx_smiss (h : Hart) (r : Reg) (w : Word) : (h.wx r w).smiss = h.smiss := by
  unfold Hart.wx; split <;> rfl
@[simp] theorem Hart.wx_acc (h : Hart) (r : Reg) (w : Word) : (h.wx r w).acc = h.acc := by
  unfold Hart.wx; split <;> rfl
@[simp] theorem Hart.wx_y (h : Hart) (r : Reg) (w : Word) : (h.wx r w).y = h.y := by
  unfold Hart.wx; split <;> rfl
@[simp] theorem Hart.wx_vl (h : Hart) (r : Reg) (w : Word) : (h.wx r w).vl = h.vl := by
  unfold Hart.wx; split <;> rfl
@[simp] theorem Hart.wx_vtype (h : Hart) (r : Reg) (w : Word) : (h.wx r w).vtype = h.vtype := by
  unfold Hart.wx; split <;> rfl
@[simp] theorem Hart.wx_vstart (h : Hart) (r : Reg) (w : Word) : (h.wx r w).vstart = h.vstart := by
  unfold Hart.wx; split <;> rfl
@[simp] theorem Hart.wx_grant (h : Hart) (r : Reg) (w : Word) : (h.wx r w).grant = h.grant := by
  unfold Hart.wx; split <;> rfl
@[simp] theorem Hart.wx_mrows (h : Hart) (r : Reg) (w : Word) : (h.wx r w).mrows = h.mrows := by
  unfold Hart.wx; split <;> rfl
@[simp] theorem Hart.wx_mcols (h : Hart) (r : Reg) (w : Word) : (h.wx r w).mcols = h.mcols := by
  unfold Hart.wx; split <;> rfl
@[simp] theorem Hart.wx_ifmt (h : Hart) (r : Reg) (w : Word) : (h.wx r w).ifmt = h.ifmt := by
  unfold Hart.wx; split <;> rfl
@[simp] theorem Hart.wx_slip (h : Hart) (r : Reg) (w : Word) : (h.wx r w).slip = h.slip := by
  unfold Hart.wx; split <;> rfl
@[simp] theorem Hart.wx_seed (h : Hart) (r : Reg) (w : Word) : (h.wx r w).seed = h.seed := by
  unfold Hart.wx; split <;> rfl
@[simp] theorem Hart.wx_status (h : Hart) (r : Reg) (w : Word) : (h.wx r w).status = h.status := by
  unfold Hart.wx; split <;> rfl
@[simp] theorem Hart.wx_tvec (h : Hart) (r : Reg) (w : Word) : (h.wx r w).tvec = h.tvec := by
  unfold Hart.wx; split <;> rfl
@[simp] theorem Hart.wx_tpc (h : Hart) (r : Reg) (w : Word) : (h.wx r w).tpc = h.tpc := by
  unfold Hart.wx; split <;> rfl
@[simp] theorem Hart.wx_tcause (h : Hart) (r : Reg) (w : Word) : (h.wx r w).tcause = h.tcause := by
  unfold Hart.wx; split <;> rfl
@[simp] theorem Hart.wx_tval (h : Hart) (r : Reg) (w : Word) : (h.wx r w).tval = h.tval := by
  unfold Hart.wx; split <;> rfl
@[simp] theorem Hart.wx_tscratch (h : Hart) (r : Reg) (w : Word) : (h.wx r w).tscratch = h.tscratch := by
  unfold Hart.wx; split <;> rfl
@[simp] theorem Hart.wx_asid (h : Hart) (r : Reg) (w : Word) : (h.wx r w).asid = h.asid := by
  unfold Hart.wx; split <;> rfl
@[simp] theorem Hart.wx_ptroot (h : Hart) (r : Reg) (w : Word) : (h.wx r w).ptroot = h.ptroot := by
  unfold Hart.wx; split <;> rfl
@[simp] theorem Hart.wx_spbase (h : Hart) (r : Reg) (w : Word) : (h.wx r w).spbase = h.spbase := by
  unfold Hart.wx; split <;> rfl
@[simp] theorem Hart.wx_wm (h : Hart) (r : Reg) (w : Word) : (h.wx r w).wm = h.wm := by
  unfold Hart.wx; split <;> rfl
@[simp] theorem Hart.wx_wmb (h : Hart) (r : Reg) (w : Word) : (h.wx r w).wmb = h.wmb := by
  unfold Hart.wx; split <;> rfl
@[simp] theorem Hart.wx_viewnote (h : Hart) (r : Reg) (w : Word) : (h.wx r w).viewnote = h.viewnote := by
  unfold Hart.wx; split <;> rfl
@[simp] theorem Hart.wx_target (h : Hart) (r : Reg) (w : Word) : (h.wx r w).target = h.target := by
  unfold Hart.wx; split <;> rfl
@[simp] theorem Hart.wx_budget (h : Hart) (r : Reg) (w : Word) : (h.wx r w).budget = h.budget := by
  unfold Hart.wx; split <;> rfl
@[simp] theorem Hart.wx_since (h : Hart) (r : Reg) (w : Word) : (h.wx r w).since = h.since := by
  unfold Hart.wx; split <;> rfl
@[simp] theorem Hart.wx_grace (h : Hart) (r : Reg) (w : Word) : (h.wx r w).grace = h.grace := by
  unfold Hart.wx; split <;> rfl
@[simp] theorem Hart.wx_heldRefusal (h : Hart) (r : Reg) (w : Word) : (h.wx r w).heldRefusal = h.heldRefusal := by
  unfold Hart.wx; split <;> rfl
@[simp] theorem Hart.wx_heldBudget (h : Hart) (r : Reg) (w : Word) : (h.wx r w).heldBudget = h.heldBudget := by
  unfold Hart.wx; split <;> rfl
@[simp] theorem Hart.wx_heldMember (h : Hart) (r : Reg) (w : Word) : (h.wx r w).heldMember = h.heldMember := by
  unfold Hart.wx; split <;> rfl
@[simp] theorem Hart.wx_stop (h : Hart) (r : Reg) (w : Word) : (h.wx r w).stop = h.stop := by
  unfold Hart.wx; split <;> rfl
@[simp] theorem Hart.wx_run (h : Hart) (r : Reg) (w : Word) : (h.wx r w).run = h.run := by
  unfold Hart.wx; split <;> rfl
@[simp] theorem Hart.wx_gauge (h : Hart) (r : Reg) (w : Word) : (h.wx r w).gauge = h.gauge := by
  unfold Hart.wx; split <;> rfl
@[simp] theorem Hart.wx_poison (h : Hart) (r : Reg) (w : Word) : (h.wx r w).poison = h.poison := by
  unfold Hart.wx; split <;> rfl
@[simp] theorem Hart.wx_replies (h : Hart) (r : Reg) (w : Word) : (h.wx r w).replies = h.replies := by
  unfold Hart.wx; split <;> rfl
@[simp] theorem Hart.wx_waitTag (h : Hart) (r : Reg) (w : Word) : (h.wx r w).waitTag = h.waitTag := by
  unfold Hart.wx; split <;> rfl
@[simp] theorem Hart.wx_pri (h : Hart) (r : Reg) (w : Word) : (h.wx r w).pri = h.pri := by
  unfold Hart.wx; split <;> rfl
@[simp] theorem Hart.wx_priDone (h : Hart) (r : Reg) (w : Word) : (h.wx r w).priDone = h.priDone := by
  unfold Hart.wx; split <;> rfl
@[simp] theorem Hart.wx_unacked (h : Hart) (r : Reg) (w : Word) : (h.wx r w).unacked = h.unacked := by
  unfold Hart.wx; split <;> rfl
@[simp] theorem Hart.wx_age (h : Hart) (r : Reg) (w : Word) : (h.wx r w).age = h.age := by
  unfold Hart.wx; split <;> rfl
@[simp] theorem Hart.wx_fbuf (h : Hart) (r : Reg) (w : Word) : (h.wx r w).fbuf = h.fbuf := by
  unfold Hart.wx; split <;> rfl
@[simp] theorem Hart.wx_farmGen (h : Hart) (r : Reg) (w : Word) : (h.wx r w).farmGen = h.farmGen := by
  unfold Hart.wx; split <;> rfl
@[simp] theorem Hart.wx_quiet (h : Hart) (r : Reg) (w : Word) : (h.wx r w).quiet = h.quiet := by
  unfold Hart.wx; split <;> rfl
@[simp] theorem Hart.wx_exiting (h : Hart) (r : Reg) (w : Word) : (h.wx r w).exiting = h.exiting := by
  unfold Hart.wx; split <;> rfl
@[simp] theorem Hart.wx_placedAt (h : Hart) (r : Reg) (w : Word) : (h.wx r w).placedAt = h.placedAt := by
  unfold Hart.wx; split <;> rfl
@[simp] theorem Hart.wx_gatedAt (h : Hart) (r : Reg) (w : Word) : (h.wx r w).gatedAt = h.gatedAt := by
  unfold Hart.wx; split <;> rfl
@[simp] theorem Hart.wx_spent (h : Hart) (r : Reg) (w : Word) : (h.wx r w).spent = h.spent := by
  unfold Hart.wx; split <;> rfl
@[simp] theorem Hart.wx_arriving (h : Hart) (r : Reg) (w : Word) : (h.wx r w).arriving = h.arriving := by
  unfold Hart.wx; split <;> rfl
@[simp] theorem Hart.wx_cut (h : Hart) (r : Reg) (w : Word) : (h.wx r w).cut = h.cut := by
  unfold Hart.wx; split <;> rfl
@[simp] theorem Hart.wx_begun (h : Hart) (r : Reg) (w : Word) : (h.wx r w).begun = h.begun := by
  unfold Hart.wx; split <;> rfl

-- scalar registers

/-- x0 reads zero (R102). -/
@[simp] theorem State.rx_zero (s : State) : s.rx 0 = 0 := rfl

/-- A read after a write of a scalar register; a write to x0 is discarded (R102, R103). -/
theorem State.rx_wx (s : State) (d r : Reg) (w : Word) :
    (s.wx d w).rx r = if r = d ∧ r ≠ 0 then w else s.rx r := by
  have hlt : r.toNat < 32 := r.isLt
  have hne : r ≠ d → d.toNat ≠ r.toNat := fun h e => h (BitVec.eq_of_toNat_eq e.symm)
  unfold State.rx State.wx Hart.wx State.withHart
  by_cases h0 : r = 0
  · simp [h0]
  · by_cases hr : r = d
    · subst hr
      simp only [h0, if_neg, ne_eq, not_false_eq_true, and_self, if_true]
      rw [Vector.getElem?_setIfInBounds]
      simp [hlt]
    · by_cases hd : d = 0
      · simp only [hd, if_true, h0, if_false, false_and]
      · simp only [hd, h0, hr, if_false, false_and]
        simp [hne hr]

/-- Reading a scalar register does not depend on the pc. -/
@[simp] theorem State.rx_advance (s : State) (r : Reg) : s.advance.rx r = s.rx r := rfl
@[simp] theorem State.rx_jump (s : State) (pc : Word) (r : Reg) : (s.jump pc).rx r = s.rx r := rfl

/-- What an instruction that only writes a scalar register leaves in the registers. -/
theorem State.rx_done1 (s : State) (d r : Reg) (w : Word) :
    (s.done1 d w).rx r = if r = d ∧ r ≠ 0 then w else s.rx r := s.rx_wx d r w

end Sys2Proof.Machine
end

