-- ==== Sys2Proof/Laws/Cells.lean ====
section
/-!
SUPPORT. Byte lists in canonical form: a read after a write, and that every write keeps the form.
-/

namespace Sys2Proof.Machine

/-- Every key of a list lies above a bound. -/
def above (a : Nat) (m : List Host.Cell) : Prop := ∀ c ∈ m, a < c.1

/-- The canonical form, cell by cell. -/
theorem cellsWf_cons (k : Nat) (b : Byte) (t : List Host.Cell) :
    cellsWf ((k, b) :: t) = true ↔ b ≠ 0 ∧ above k t ∧ cellsWf t = true := by
  induction t generalizing k b with
  | nil => simp [cellsWf, above]
  | cons c t ih =>
    obtain ⟨k', b'⟩ := c
    have h := ih k' b'
    simp only [cellsWf, Bool.and_eq_true, bne_iff_ne, ne_eq, decide_eq_true_eq]
    constructor
    · rintro ⟨⟨hb, hk⟩, hw⟩
      refine ⟨hb, ?_, hw⟩
      intro c hc
      rcases List.mem_cons.mp hc with rfl | hc
      · exact hk
      · exact lt_trans hk ((h.mp hw).2.1 c hc)
    · rintro ⟨hb, ha, hw⟩
      exact ⟨⟨hb, ha (k', b') (by simp)⟩, hw⟩

/-- A key below all those listed reads zero. -/
theorem cellAt_of_above {a : Nat} {m : List Host.Cell} (h : above a m) : cellAt m a = 0 := by
  cases m with
  | nil => rfl
  | cons c t =>
    obtain ⟨k, b⟩ := c
    have hk : a < k := h (k, b) (by simp)
    simp [cellAt, hk, Nat.ne_of_gt hk]

/-- A bound that a write respects. -/
theorem above_cellSet {x a : Nat} {b : Byte} {m : List Host.Cell} (h : above x m) (ha : x < a) :
    above x (cellSet m a b) := by
  induction m with
  | nil => by_cases hb : b = 0 <;> simp [cellSet, above, hb, ha]
  | cons c t ih =>
    obtain ⟨k, v⟩ := c
    have hk : x < k := h (k, v) (by simp)
    have ht : above x t := fun c hc => h c (by simp [hc])
    have go := ih ht
    unfold cellSet
    split
    · split
      · exact h
      · intro c hc
        rcases List.mem_cons.mp hc with rfl | hc
        · exact ha
        · exact h c hc
    · split
      · split
        · exact ht
        · intro c hc
          rcases List.mem_cons.mp hc with rfl | hc
          · exact ha
          · exact ht c hc
      · intro c hc
        rcases List.mem_cons.mp hc with rfl | hc
        · exact hk
        · exact go c hc

/-- A write keeps the canonical form. -/
theorem cellsWf_cellSet {m : List Host.Cell} (a : Nat) (b : Byte) (h : cellsWf m = true) : cellsWf (cellSet m a b) = true := by
  induction m with
  | nil =>
    unfold cellSet
    split
    · rfl
    · rename_i hb
      exact (cellsWf_cons a b []).mpr ⟨hb, by simp [above], rfl⟩
  | cons c t ih =>
    obtain ⟨k, v⟩ := c
    obtain ⟨hv, hk, ht⟩ := (cellsWf_cons k v t).mp h
    unfold cellSet
    split
    · rename_i hlt
      split
      · exact h
      · rename_i hb
        refine (cellsWf_cons a b _).mpr ⟨hb, ?_, h⟩
        intro c hc
        rcases List.mem_cons.mp hc with rfl | hc
        · exact hlt
        · exact lt_trans hlt (hk c hc)
    · split
      · rename_i hge heq
        subst heq
        split
        · exact ht
        · rename_i hb
          exact (cellsWf_cons a b t).mpr ⟨hb, hk, ht⟩
      · rename_i hge hne
        exact (cellsWf_cons k v _).mpr ⟨hv, above_cellSet hk (by omega), ih ht⟩

/-- A read after a write of one byte. -/
theorem cellAt_cellSet {m : List Host.Cell} (a x : Nat) (b : Byte) (h : cellsWf m = true) :
    cellAt (cellSet m a b) x = if x = a then b else cellAt m x := by
  induction m with
  | nil =>
    unfold cellSet
    split
    · rename_i hb
      subst hb
      simp [cellAt]
    · by_cases hx : x = a
      · simp [cellAt, hx]
      · simp [cellAt, hx, Ne.symm hx]
  | cons c t ih =>
    obtain ⟨k, v⟩ := c
    obtain ⟨hv, hk, ht⟩ := (cellsWf_cons k v t).mp h
    have go := ih ht
    unfold cellSet
    split
    · rename_i hlt
      split
      · rename_i hb
        subst hb
        split
        · rename_i hx
          subst hx
          simp [cellAt, hlt, Nat.ne_of_gt hlt]
        · rfl
      · by_cases hx : x = a
        · simp [cellAt, hx]
        · have hax : a ≠ x := Ne.symm hx
          by_cases hl : x < a
          · have h1 : x < k := lt_trans hl hlt
            simp [cellAt, hx, hax, hl, h1, Nat.ne_of_gt h1]
          · simp [cellAt, hx, hax, hl]
    · split
      · rename_i hge heq
        subst heq
        split
        · rename_i hb
          subst hb
          by_cases hx : x = a
          · subst hx; simp [cellAt_of_above hk]
          · have hax : a ≠ x := Ne.symm hx
            by_cases hl : x < a
            · have : above x t := fun c hc => lt_trans hl (hk c hc)
              simp [cellAt, hx, hax, hl, cellAt_of_above this]
            · simp [cellAt, hx, hax, hl]
        · by_cases hx : x = a
          · simp [cellAt, hx]
          · simp [cellAt, hx, Ne.symm hx]
      · rename_i hge hne
        by_cases hxk : k = x
        · subst hxk
          have : ¬ k = a := fun e => hne e.symm
          simp [cellAt, this]
        · by_cases hl : x < k
          · have : ¬ x = a := by omega
            simp [cellAt, hxk, hl, this]
          · simp [cellAt, hxk, hl, go]

/-- Writing a stretch keeps the canonical form. -/
theorem cellsWf_cellsPut {m : List Host.Cell} (a : Nat) (bs : List Byte) (h : cellsWf m = true) :
    cellsWf (cellsPut m a bs) = true := by
  induction bs generalizing m a with
  | nil => exact h
  | cons b bs ih => exact ih (a + 1) (cellsWf_cellSet a b h)

/-- A read after writing a stretch: its bytes, and elsewhere what stood there. -/
theorem cellAt_cellsPut {m : List Host.Cell} (a x : Nat) (bs : List Byte) (h : cellsWf m = true) :
    cellAt (cellsPut m a bs) x = if a ≤ x ∧ x < a + bs.length then bs.getD (x - a) 0 else cellAt m x := by
  induction bs generalizing m a with
  | nil => simp [cellsPut]
  | cons b bs ih =>
    rw [cellsPut, ih (a + 1) (cellsWf_cellSet a b h), cellAt_cellSet a x b h]
    by_cases h1 : a + 1 ≤ x ∧ x < a + 1 + bs.length
    · have h2 : a ≤ x ∧ x < a + (b :: bs).length := by simp; omega
      rw [if_pos h1, if_pos h2]
      obtain ⟨n, rfl⟩ : ∃ n, x = a + 1 + n := ⟨x - (a + 1), by omega⟩
      rw [show a + 1 + n - (a + 1) = n by omega, show a + 1 + n - a = n + 1 by omega]
      rfl
    · rw [if_neg h1]
      by_cases hx : x = a
      · subst hx; simp
      · have : ¬ (a ≤ x ∧ x < a + (b :: bs).length) := by simp at h1 ⊢; omega
        rw [if_neg hx, if_neg this]

/-- Reading back what was written. -/
theorem cellsGet_cellsPut {m : List Host.Cell} (a : Nat) (bs : List Byte) (h : cellsWf m = true) :
    cellsGet (cellsPut m a bs) a bs.length = bs := by
  apply List.ext_getElem
  · simp [cellsGet]
  · intro i h1 h2
    simp [cellsGet, cellAt_cellsPut a (a + i) bs h, h2]

-- the operations of the state that write memory

/-- Writing device memory keeps its form. -/
theorem State.memPut_wf {s : State} (a : Nat) (bs : List Byte) (h : s.memWf) : (s.memPut a bs).memWf :=
  cellsWf_cellsPut a bs h

/-- Marking a page-table entry used keeps the form. -/
theorem State.markUsed_wf {s : State} (f : Leaf) (acc : Access) (h : s.memWf) : (s.markUsed f acc).memWf := by
  unfold State.markUsed
  split
  · exact h
  · exact cellsWf_cellsPut f.at_ _ h

/-- One cache that holds a translation touches no memory. -/
@[simp] theorem State.holdIn_mem (s : State) (asid va : Nat) (f : Leaf) (acc : Access) (cache : Nat) :
    (s.holdIn asid va f acc cache).mem = s.mem := by
  unfold State.holdIn
  dsimp only
  split <;> rfl

/-- Holding a translation touches no memory. -/
@[simp] theorem State.hold_mem (s : State) (caches : List Nat) (asid va : Nat) (f : Leaf) (acc : Access) :
    (s.hold caches asid va f acc).mem = s.mem := by
  unfold State.hold
  induction caches generalizing s with
  | nil => rfl
  | cons c cs ih => simp only [List.foldl_cons, ih, State.holdIn_mem]

/-- A store at any place keeps the form. -/
theorem State.putAt_wf {s : State} (loc : Loc) (bs : List Byte) (h : s.memWf) : (s.putAt loc bs).memWf := by
  cases loc <;> first | exact cellsWf_cellsPut _ bs h | exact h

/-- Moving lines touches no memory. -/
@[simp] theorem State.moves_mem (s : State) (via : Via) (write : Bool) (loc : Loc) (n : Nat) :
    (s.moves via write loc n).mem = s.mem := by
  unfold State.moves; split <;> rfl

/-- A store as an instruction makes it keeps the form. -/
theorem State.storeAt_wf {s : State} (loc : Loc) (bs : List Byte) (h : s.memWf) : (s.storeAt loc bs).memWf := by
  unfold State.storeAt
  split
  · exact h
  · exact State.putAt_wf loc bs (by unfold State.memWf; rw [State.moves_mem]; exact h)

/-- Translation keeps the form. -/
theorem State.xlateIn_wf {s t : State} {caches : List Nat} {asid root : Nat} {task : Bool} {va : Nat} {acc : Access} {loc : Loc}
    (h : s.memWf) (hw : s.xlateIn caches asid root task va acc = .ok (loc, t)) : t.memWf := by
  have hm (f : Leaf) : ((s.markUsed f acc).hold caches asid va f acc).memWf := by
    unfold State.memWf
    rw [State.hold_mem]
    exact State.markUsed_wf f acc h
  unfold State.xlateIn at hw
  repeat' split at hw
  all_goals first | cases hw; exact hm _ | cases hw

/-- Translation for the acting hart keeps the form. -/
theorem State.xlate_wf {s t : State} {va : Nat} {acc : Access} {lanes : Bool} {loc : Loc} (h : s.memWf)
    (hw : s.xlate va acc lanes = .ok (loc, t)) : t.memWf := by
  unfold State.xlate at hw
  split at hw
  · dsimp only at hw
    split at hw
    · cases hw; exact h
    · cases hw
  · split at hw
    · split at hw
      · cases hw; exact h
      · cases hw
    · exact State.xlateIn_wf h hw

/-- Reset memory has the canonical form. -/
theorem State.reset_memWf : State.reset.memWf := rfl

end Sys2Proof.Machine
end

