-- ==== Sys2Proof/Laws/Translate.lean ====
section
/-!
SUPPORT. What translation can do: whatever it answers, only memory may differ, by the A and D bits of one entry, and the translation
caches; and memory keeps its canonical form over a whole stretch.
-/

namespace Sys2Proof.Machine

/-- Only device memory, the caches that hold its lines, and the translation caches differ. -/
def OnlyMem (s t : State) : Prop := t = { s with mem := t.mem, tlb := t.tlb, coh := t.coh }

theorem OnlyMem.refl (s : State) : OnlyMem s s := rfl

theorem OnlyMem.trans {s t u : State} (h : OnlyMem s t) (k : OnlyMem t u) : OnlyMem s u := by
  unfold OnlyMem at *
  rw [k, h]

/-- With equal memories and equal caches nothing differs. -/
theorem OnlyMem.eq {s t : State} (h : OnlyMem s t) (hm : t.mem = s.mem) (hc : t.tlb = s.tlb) (hl : t.coh = s.coh) : t = s := by
  rw [h, hm, hc, hl]

theorem State.markUsed_onlyMem (s : State) (f : Leaf) (acc : Access) : OnlyMem s (s.markUsed f acc) := by
  unfold State.markUsed
  split
  · exact .refl s
  · exact rfl

theorem State.holdIn_onlyMem (s : State) (asid va : Nat) (f : Leaf) (acc : Access) (cache : Nat) :
    OnlyMem s (s.holdIn asid va f acc cache) := by
  unfold State.holdIn
  dsimp only
  split
  · exact .refl s
  · exact rfl

theorem State.hold_onlyMem (s : State) (caches : List Nat) (asid va : Nat) (f : Leaf) (acc : Access) :
    OnlyMem s (s.hold caches asid va f acc) := by
  unfold State.hold
  induction caches generalizing s with
  | nil => exact .refl s
  | cons c cs ih => exact (State.holdIn_onlyMem s asid va f acc c).trans (ih _)

theorem State.xlateIn_onlyMem {s t : State} {caches : List Nat} {asid root : Nat} {task : Bool} {va : Nat} {acc : Access}
    {loc : Loc} (hw : s.xlateIn caches asid root task va acc = .ok (loc, t)) : OnlyMem s t := by
  unfold State.xlateIn at hw
  repeat' split at hw
  all_goals
    first
    | cases hw; exact (State.markUsed_onlyMem _ _ _).trans (State.hold_onlyMem _ _ _ _ _ _)
    | cases hw

/-- With nothing stale, an access uses what the tables say. -/
theorem State.leafFor_walk {s : State} {caches : List Nat} {asid root va : Nat} {acc : Access}
    (h : s.stale caches asid va (s.walkFrom va acc 4 (bitsAt root 12 40 * 4096)) = []) :
    s.leafFor caches asid root va acc = s.walkFrom va acc 4 (bitsAt root 12 40 * 4096) := by
  unfold State.leafFor
  simp [h]

/-- An access uses a leaf of the tables or one that a cache that it goes through holds for its address. -/
theorem State.leafFor_from {s : State} {caches : List Nat} {asid root va : Nat} {acc : Access} {f : Leaf}
    (h : s.leafFor caches asid root va acc = .ok f) :
    s.walkFrom va acc 4 (bitsAt root 12 40 * 4096) = .ok f ∨
      ∃ c ∈ s.tlb, c.cache ∈ caches ∧ c.serves asid va = true ∧ f = ⟨c.level, c.at_, c.leaf⟩ := by
  unfold State.leafFor at h
  dsimp only at h
  split at h
  · rename_i g hg
    cases h
    have hm := List.mem_of_getElem? hg
    unfold State.stale at hm
    simp only [List.mem_map, List.mem_filter, Bool.and_eq_true] at hm
    obtain ⟨c, ⟨hc, ⟨hk, hs⟩, -⟩, rfl⟩ := hm
    exact .inr ⟨c, hc, by simpa using hk, hs, rfl⟩
  · exact .inl h

/-- Translation for the acting hart changes nothing but the A and D bits that it sets and what the caches hold. -/
theorem State.xlate_onlyMem {s t : State} {va : Nat} {acc : Access} {lanes : Bool} {loc : Loc}
    (hw : s.xlate va acc lanes = .ok (loc, t)) : OnlyMem s t := by
  unfold State.xlate at hw
  split at hw
  · dsimp only at hw
    split at hw
    · cases hw; exact .refl _
    · cases hw
  · split at hw
    · split at hw
      · cases hw; exact .refl _
      · cases hw
    · exact State.xlateIn_onlyMem hw

/-- The same for every piece of a stretch. -/
theorem spanWith_onlyMem {tr : State → Nat → Except Nat (Loc × State)}
    (htr : ∀ s va loc t, tr s va = .ok (loc, t) → OnlyMem s t) (ps : List (Nat × Nat)) {s t : State} {gs : List Seg}
    (h : spanWith tr ps s = .ok (gs, t)) : OnlyMem s t := by
  induction ps generalizing s gs with
  | nil => unfold spanWith at h; cases h; exact .refl _
  | cons p ps ih =>
    unfold spanWith at h
    split at h
    · cases h
    · rename_i loc s' hs
      split at h
      · cases h
      · rename_i segs t' ht
        cases h
        exact (htr _ _ _ _ hs).trans (ih ht)

/-- Translating a stretch keeps the canonical form. -/
theorem spanWith_wf {tr : State → Nat → Except Nat (Loc × State)}
    (htr : ∀ s va loc t, s.memWf → tr s va = .ok (loc, t) → t.memWf) (ps : List (Nat × Nat)) {s t : State} {gs : List Seg}
    (hs : s.memWf) (h : spanWith tr ps s = .ok (gs, t)) : t.memWf := by
  induction ps generalizing s gs with
  | nil => unfold spanWith at h; cases h; exact hs
  | cons p ps ih =>
    unfold spanWith at h
    split at h
    · cases h
    · rename_i loc s' h1
      split at h
      · cases h
      · rename_i segs t' ht
        cases h
        exact ih (htr _ _ _ _ hs h1) ht

/-- The lengths of a translated stretch are those of its pieces. -/
theorem spanWith_lens {tr : State → Nat → Except Nat (Loc × State)} (ps : List (Nat × Nat)) {s t : State} {gs : List Seg}
    (h : spanWith tr ps s = .ok (gs, t)) : gs.map (·.len) = ps.map (·.2) := by
  induction ps generalizing s gs with
  | nil => unfold spanWith at h; cases h; rfl
  | cons p ps ih =>
    unfold spanWith at h
    split at h
    · cases h
    · split at h
      · cases h
      · rename_i segs t' ht
        cases h
        simp [ih ht]

end Sys2Proof.Machine
end

