-- ==== Sys2Proof/Tests/Slice0.lean ====
section
/-!
SUPPORT. The model's own small tests: a word for every instruction, written out from the spec's encodings; an ill-formed term for
every check; single steps on small states; and, for every statement with hypotheses, states and operands that meet them.
`Elab.async false` keeps the checks of this file on one thread.
-/

namespace Sys2Proof.Tests

open Machine Claims

set_option Elab.async false

-- small states

/-- The caches of cores 0 and 1, their second level, and the lane dies'. -/
def testCaches : List Nat := [0, 1, 32, 33]

/-- The translations of the three pages of `base`, each with G, as these caches hold them. -/
def cachedPages : List Cached :=
  testCaches.flatMap fun c =>
    [⟨c, 0, 0, 2, 0x40001000, 0x800001FF⟩, ⟨c, 0, 1, 2, 0x40001008, 0x480000000001FF⟩,
      ⟨c, 0, 2, 2, 0x40001010, 0x800000000001FF⟩]

/-- The firmware hart 0 with three pages of 2^30 bytes, every right given and A and D set: device memory from 2^31 on, an IO page,
and a host-backed page of port 0. The caches hold all three. -/
def base : State :=
  { State.reset with
    mem := [(0, 1), (3, 0x40), (0x40000000, 1), (0x40000001, 0x10), (0x40000003, 0x40), (0x40001000, 0xFF), (0x40001001, 1),
      (0x40001003, 0x80), (0x40001008, 0xFF), (0x40001009, 1), (0x4000100E, 0x48), (0x40001010, 0xFF), (0x40001011, 1),
      (0x40001016, 0x80)]
    tlb := cachedPages }

/-- Some x registers of a state. -/
def withX (s : State) (ps : List (Nat × Nat)) : State :=
  { s with hart := { s.hart with x := ps.foldl (fun v p => v.setIfInBounds p.1 (BitVec.ofNat 64 p.2)) s.hart.x } }

/-- A running launch of one hart with a task handler. -/
def job : Launch where
  lid := 1
  port := 0
  pasid := 5
  cls := 1
  harts := 1
  farms := 1
  gmin := 1
  gpref := 1
  scratch := 4
  image := 0
  entry := 0
  textOff := 0
  textSize := 0x10000
  dataOff := 0
  dataSize := 0
  bssSize := 0
  arg := 0
  save := 0x100000
  seed := 0
  budget := 1000000
  mbudget := 1000000
  deadline := 0
  handler := 0x4000
  compl := 0
  complAt := [⟨.dev 0x90000000 false, 64⟩]
  data := 0
  note := 3
  strictPre := false
  lright := true
  pre := []
  share := 1
  fixedT := 0
  bPrime := 0
  bound := 0
  state := 2
  ending := none
  cause := 0
  causeHart := 0
  causeValue := 0
  tmet := some 0
  tfinal := none
  mbytes := 0
  mbRaised := false
  recordDone := false
  noticed := false
  hs := [⟨.placed, some 1, 1, 1000000, 0, none, false, 0, false, 0, 0, none⟩]
  farm := [Farm.empty]
  handles := Handles.fresh

/-- Hart 0 of that launch, on slot 16 in task mode, with its scratchpad region; the firmware harts are parked. -/
def task : State :=
  { base with
    hart := { Hart.fresh 16 with lid := 1, target := none }
    parked := base.placed
    regions := [⟨1, 1, 4, [], [], none, 1⟩]
    lu := { base.lu with launches := [job], nextLid := 2, bindings := [⟨0, 5, 16, 0⟩] } }

/-- An instruction answers a next state. -/
def goesOn (r : Answer) : Bool :=
  match r with
  | .next _ => true
  | _ => false

/-- A fact about the state that an instruction answers. -/
def afterIt (r : Answer) (p : State → Bool) : Bool :=
  match r with
  | .next t => p t
  | _ => false

theorem goesOn_iff {r : Answer} (h : goesOn r = true) : ∃ t, r = .next t := by
  cases r with
  | next t => exact ⟨t, rfl⟩
  | fault f => simp [goesOn] at h
  | refused f => simp [goesOn] at h

-- conditions on accesses, as checks

theorem inBudget_none {s : State} (h : s.myLaunch = none) : InBudget s := by
  intro l hl
  rw [h] at hl
  exact absurd hl (by simp)

theorem inBudget_some {s : State} {l : Launch} (h : s.myLaunch = some l) (hb : l.overBudget = false) : InBudget s := by
  intro m hm
  rw [h] at hm
  cases hm
  exact hb

/-- The tables hold every leaf that the caches hold for an address of the hart, as a check. -/
def current (s : State) (va : Nat) (acc : Access) : Bool :=
  inWindow s.hart va || inCap va ||
    (s.stale (s.tlb.map (·.cache)) s.hart.asid va (s.walkFrom va acc 4 (bitsAt s.hart.ptroot.toNat 12 40 * 4096))).isEmpty

/-- What none of the caches held holds, no list of caches holds. -/
theorem stale_none {s : State} {asid va : Nat} {now : Except Nat Leaf} (h : s.stale (s.tlb.map (·.cache)) asid va now = [])
    (caches : List Nat) : s.stale caches asid va now = [] := by
  simp only [State.stale, List.map_eq_nil_iff, List.filter_eq_nil_iff] at h ⊢
  intro c hc hk
  refine h c hc ?_
  simp only [Bool.and_eq_true] at hk ⊢
  exact ⟨⟨List.contains_iff_mem.mpr (List.mem_map.mpr ⟨c, hc, rfl⟩), hk.1.2⟩, hk.2⟩

theorem current_of {s : State} {va : Nat} {acc : Access} (h : current s va acc = true) : Current s va acc := by
  simp only [current, Bool.or_eq_true, List.isEmpty_iff] at h
  rcases h with (h | h) | h
  · exact .inl h
  · exact .inr (.inl h)
  · exact .inr (.inr (stale_none h))

/-- Two states have equal memories and equal caches. -/
def sameMem (s t : State) : Bool := t.mem == s.mem && t.tlb == s.tlb && t.coh == s.coh

theorem OnlyMem.same {s t : State} (h : OnlyMem s t) (e : sameMem s t = true) : t = s := by
  simp only [sameMem, Bool.and_eq_true, beq_iff_eq] at e
  exact h.eq e.1.1 e.1.2 e.2

/-- The translation of an address by the core or by the lane dies changes nothing and gives this place. -/
def mapsBy (lanes : Bool) (s : State) (va : Nat) (acc : Access) (loc : Loc) : Bool :=
  match s.xlate va acc lanes with
  | .ok (l, t) => l == loc && sameMem s t
  | .error _ => false

theorem xlate_of {lanes : Bool} {s : State} {va : Nat} {acc : Access} {loc : Loc} (h : mapsBy lanes s va acc loc = true) :
    s.xlate va acc lanes = .ok (loc, s) := by
  unfold mapsBy at h
  split at h
  · rename_i l t e
    obtain ⟨hl, hs⟩ := (Bool.and_eq_true _ _).mp h
    rw [e, eq_of_beq hl, OnlyMem.same (State.xlate_onlyMem e) hs]
  · cases h

/-- The translation of an address changes nothing and gives this place. -/
def mapsTo (s : State) (va : Nat) (acc : Access) (loc : Loc) : Bool :=
  (mapsBy false s va acc loc && mapsBy true s va acc loc) &&
    ((current s va acc && (s.heldPlace va acc).isNone) && !s.engineHolds loc)

theorem mapped_of {s : State} {va : Nat} {acc : Access} {loc : Loc} (h : mapsTo s va acc loc = true) : Claims.Mapped s va acc loc := by
  simp only [mapsTo, Bool.and_eq_true, Bool.not_eq_true', Option.isNone_iff_eq_none] at h
  exact ⟨⟨fun lanes => by cases lanes <;> [exact xlate_of h.1.1; exact xlate_of h.1.2], current_of h.2.1.1, h.2.1.2⟩, h.2.2⟩

/-- An access that has not been translated before is translated now. -/
theorem xlateOnce_of {s : State} {va : Nat} {acc : Access} {loc : Loc} {lanes : Bool} (h : Translated s va acc loc) :
    s.xlateOnce va acc lanes = .ok (loc, s) := by
  unfold State.xlateOnce
  rw [h.2.2]
  exact h.1 lanes

theorem xlateOnce_onlyMem {s t : State} {va : Nat} {acc : Access} {lanes : Bool} {loc : Loc}
    (h : s.xlateOnce va acc lanes = .ok (loc, t)) : OnlyMem s t := by
  unfold State.xlateOnce at h
  split at h
  · cases h; exact OnlyMem.refl s
  · exact State.xlate_onlyMem h

/-- With no operation in flight no page is held. -/
theorem unheld {s : State} (h : s.ops = []) (loc : Loc) : s.engineHolds loc = false := by simp [State.engineHolds, h]

theorem unheldAll {s : State} (h : s.ops = []) (gs : List Seg) : Unheld s gs := fun g _ => unheld h g.loc

/-- With no operation in flight no mask is busy. -/
theorem masksFree {s : State} (h : s.ops = []) : MasksFree s := fun k _ => by simp [State.maskBusy, h]

/-- With no request outstanding no store holds a page. -/
theorem unstored {s : State} (h : s.targets = []) (loc : Loc) : s.storeHolds loc = false := by simp [State.storeHolds, h]

theorem counted_ops (s : State) : (counted s).ops = s.ops := by
  unfold counted State.countGranule State.countTraffic
  repeat' split
  all_goals rfl

theorem counted_targets (s : State) : (counted s).targets = s.targets := by
  unfold counted State.countGranule State.countTraffic
  repeat' split
  all_goals rfl

theorem reaches_of {s : State} {va n : Nat} {acc : Access} {loc : Loc} (hb : InBudget s) (ha : va % n = 0)
    (h : (mapsTo (counted s) va acc loc && s.targets.isEmpty) = true) : Reaches s va n acc loc (counted s) :=
  have h := (Bool.and_eq_true _ _).mp h
  have m := mapped_of h.1
  ⟨⟨hb, ha, xlateOnce_of m.1⟩, m.2, unstored ((counted_targets s).trans (List.isEmpty_iff.mp h.2)) _⟩

/-- The translation of a stretch changes nothing and gives these places. -/
def spansTo (s : State) (va n : Nat) (acc : Access) (gs : List Seg) : Bool :=
  (match spanWith (fun s va => s.xlateOnce va acc) (piecesOf va n) s with
    | .ok (l, t) => l == gs && sameMem s t
    | .error _ => false) && (piecesOf va n).all fun p => current s p.1 acc

theorem spans_of {s : State} {va n : Nat} {acc : Access} {gs : List Seg} (h : spansTo s va n acc gs = true) :
    SpansAt s va n acc gs := by
  unfold spansTo at h
  obtain ⟨h, hc⟩ := (Bool.and_eq_true _ _).mp h
  refine ⟨?_, fun p hp => current_of (List.all_eq_true.mp hc p hp)⟩
  unfold Spans
  split at h
  · rename_i l t e
    obtain ⟨hl, hs⟩ := (Bool.and_eq_true _ _).mp h
    rw [e, eq_of_beq hl, OnlyMem.same (spanWith_onlyMem (fun _ _ _ _ => xlateOnce_onlyMem) _ e) hs]
  · cases h

theorem inv_of {s : State} (h : (cellsWf s.mem && s.regions.all fun r => cellsWf r.cells) = true) : Inv s := by
  simp only [Bool.and_eq_true, List.all_eq_true] at h
  exact ⟨h.1, h.2⟩

theorem base_inv : Inv base := inv_of (by decide +kernel)

theorem task_inv : Inv task := inv_of (by decide +kernel)

-- stretches of consecutive places

/-- Consecutive places of device memory, cut into these lengths. -/
def runFrom (a : Nat) : List Nat → List Seg
  | [] => []
  | n :: ns => ⟨.dev a false, n⟩ :: runFrom (a + n) ns

theorem runFrom_ge {a : Nat} {ns : List Nat} {g : Seg} (h : g ∈ runFrom a ns) : ∃ b, a ≤ b ∧ g.loc = .dev b false := by
  induction ns generalizing a with
  | nil => cases h
  | cons n ns ih =>
    rcases List.mem_cons.mp h with rfl | h
    · exact ⟨a, Nat.le_refl _, rfl⟩
    · obtain ⟨b, hb, hl⟩ := ih h
      exact ⟨b, by omega, hl⟩

theorem runFrom_inside (a : Nat) (ns : List Nat) : Inside (runFrom a ns) := by
  intro g hg
  obtain ⟨b, _, hl⟩ := runFrom_ge hg
  rw [hl]; rfl

theorem runFrom_backs (s : State) (a : Nat) (ns : List Nat) : Backs s (runFrom a ns) := by
  intro g hg
  obtain ⟨b, _, hl⟩ := runFrom_ge hg
  rw [hl]; exact ⟨rfl, trivial⟩

theorem runFrom_apart (a : Nat) (ns : List Nat) : Apart (runFrom a ns) := by
  unfold Apart
  induction ns generalizing a with
  | nil => exact List.Pairwise.nil
  | cons n ns ih =>
    refine List.Pairwise.cons ?_ (ih (a + n))
    intro h hh p _ hp
    obtain ⟨b, hb, hl⟩ := runFrom_ge hh
    rw [hl]
    cases p with
    | dev c sy =>
      simp only [within, Bool.and_eq_true, decide_eq_true_eq] at hp
      simp only [within, Bool.and_eq_false_iff, decide_eq_false_iff_not]
      omega
    | _ => simp [within] at hp

/-- The translation of a stretch of a pair changes nothing and gives these places. -/
def pairSpansTo (s : State) (port pasid va n : Nat) (acc : Access) (gs : List Seg) : Bool :=
  match s.spanPair port pasid va n acc with
  | .ok (l, t) => l == gs && sameMem s t
  | .error _ => false

theorem xlatePair_onlyMem {s t : State} {port pasid va : Nat} {acc : Access} {loc : Loc}
    (h : s.xlatePair port pasid acc va = .ok (loc, t)) : OnlyMem s t := by
  unfold State.xlatePair at h
  repeat' split at h
  · cases h
  · cases h
  · exact State.xlateIn_onlyMem h

theorem pairSpans_of {s : State} {port pasid va n : Nat} {acc : Access} {gs : List Seg}
    (h : pairSpansTo s port pasid va n acc gs = true) : s.spanPair port pasid va n acc = .ok (gs, s) := by
  unfold pairSpansTo at h
  split at h
  · rename_i l t e
    obtain ⟨hl, hs⟩ := (Bool.and_eq_true _ _).mp h
    rw [e, eq_of_beq hl, OnlyMem.same (spanWith_onlyMem (fun _ _ _ _ => xlatePair_onlyMem) _ e) hs]
  · cases h

-- words that a hart fetches

/-- The word stands at the acting hart's pc of 0. -/
def withWord (s : State) (w : Nat) : State := { s with mem := cellsPut s.mem 0x80000000 (bytesOf w 4) }

/-- The hart fetches this word. -/
def fetches (s : State) (w : BitVec 32) : Bool :=
  match fetch s with
  | .ok (v, _) => v == w
  | .error _ => false

theorem fetch_of {s : State} {w : BitVec 32} (h : fetches s w = true) : ∃ t, fetch s = .ok (w, t) := by
  unfold fetches at h
  split at h
  · rename_i v t e
    exact ⟨t, by rw [e, eq_of_beq h]⟩
  · cases h

-- every address of the first page

/-- The hart's tables map the first 2^30 bytes to device memory from 2^31 on, with every right and A and D set, and nothing stands
in the way of an access there. -/
def plain (s : State) : Bool :=
  s.tlb == cachedPages && s.hart.hid / 16 < 2 && s.hart.begun.held.isNone && s.coh.taint.isEmpty && s.hart.ptroot.toNat == 0 && s.hart.spbase.toNat == 0xFFFFFFFFFFC00000 && s.memNat 0 8 == 0x40000001 &&
  s.memNat 0x40000000 8 == 0x40001001 && s.memNat 0x40001000 8 == 0x800001FF && s.coh.poison.isEmpty &&
  s.svc.units.stacksOut.isEmpty && s.lu.images.all (·.pins.isEmpty) && s.targets.isEmpty

theorem page_leaf (task : Bool) (va : Nat) (acc : Access) (h : va < 2 ^ 30) :
    checkLeaf task 0x800001FF 2 va acc = .ok (.dev (2 ^ 31 + va) false) := by
  have e : va % 1073741824 = va := Nat.mod_eq_of_lt h
  have e1 : (2147483648 + va) / 137438953472 = 0 := by omega
  have e2 : (2147483648 + va) % 137438953472 = 2147483648 + va := by omega
  have e3 : ¬ 549755813888 ≤ 2147483648 + va := by omega
  cases acc <;> cases task <;> simp [checkLeaf, bitsAt, e, e1, e2, e3, storageAddr, homeDie]

/-- What `plain` says. -/
structure Plain (s : State) : Prop where
  tlb : s.tlb = cachedPages
  core : s.hart.hid / 16 < 2
  held : s.hart.begun.held = none
  taint : s.coh.taint = []
  root : s.hart.ptroot.toNat = 0
  window : s.hart.spbase.toNat = 0xFFFFFFFFFFC00000
  top : s.memNat 0 8 = 0x40000001
  mid : s.memNat 0x40000000 8 = 0x40001001
  leaf : s.memNat 0x40001000 8 = 0x800001FF
  poison : s.coh.poison = []
  stackSet : s.svc.units.stacksOut = []
  pins : ∀ i ∈ s.lu.images, i.pins = []
  targets : s.targets = []

theorem plain_is {s : State} (hp : plain s = true) : Plain s := by
  simp only [plain, Bool.and_eq_true, beq_iff_eq, List.isEmpty_iff, List.all_eq_true, decide_eq_true_eq,
    Option.isNone_iff_eq_none] at hp
  obtain ⟨⟨⟨⟨⟨⟨⟨⟨⟨⟨⟨⟨a, b⟩, c⟩, d⟩, e⟩, f⟩, g⟩, h⟩, i⟩, j⟩, k⟩, l⟩, m⟩ := hp
  exact ⟨a, b, c, d, e, f, g, h, i, j, k, l, m⟩

theorem Plain.noStack {s : State} (hp : Plain s) (a : Nat) : s.noStack a = false := by simp [State.noStack, hp.stackSet]

theorem Plain.clean {s : State} (hp : Plain s) (a : Nat) : s.linePoisoned a = false := by
  simp [State.linePoisoned, Coherence.bad, hp.poison, hp.taint]

theorem Plain.walk {s : State} (hp : Plain s) {va : Nat} (acc : Access) (h : va < 2 ^ 30) :
    s.walkFrom va acc 4 (bitsAt 0 12 40 * 4096) = .ok ⟨2, 0x40001000, 0x800001FF⟩ := by
  have e4 : va / 281474976710656 = 0 := by omega
  have e3 : va / 549755813888 = 0 := by omega
  have e2 : va / 1073741824 = 0 := by omega
  simp [State.walkFrom, bitsAt, e4, e3, e2, hp.top, hp.mid, hp.leaf, hp.noStack, hp.clean]

theorem Plain.fresh {s : State} (hp : Plain s) (caches : List Nat) (asid : Nat) {va : Nat} (h : va < 2 ^ 30) :
    s.stale caches asid va (.ok ⟨2, 0x40001000, 0x800001FF⟩) = [] := by
  have e2 : va / 1073741824 = 0 := by omega
  simp only [State.stale, List.map_eq_nil_iff, List.filter_eq_nil_iff, hp.tlb]
  intro c hc
  simp only [cachedPages, testCaches, List.flatMap_cons, List.flatMap_nil, List.cons_append, List.nil_append, List.mem_cons,
    List.not_mem_nil, or_false] at hc
  rcases hc with rfl | rfl | rfl | rfl | rfl | rfl | rfl | rfl | rfl | rfl | rfl | rfl <;>
    simp [Cached.serves, Leaf.within, bitsAt, e2]

theorem Plain.holds {s : State} (hp : Plain s) {cache : Nat} (hc : cache ∈ testCaches) (asid : Nat) {va : Nat} (acc : Access)
    (h : va < 2 ^ 30) : s.holdIn asid va ⟨2, 0x40001000, 0x800001FF⟩ acc cache = s := by
  have e2 : va / 1073741824 = 0 := by omega
  simp only [testCaches, List.mem_cons, List.not_mem_nil, or_false] at hc
  rcases hc with rfl | rfl | rfl | rfl <;> cases acc <;>
    simp [State.holdIn, hp.tlb, cachedPages, testCaches, Cached.serves, Leaf.within, bitsAt, e2, Access.used]

theorem Plain.hold {s : State} (hp : Plain s) {caches : List Nat} (hc : ∀ c ∈ caches, c ∈ testCaches) (asid : Nat) {va : Nat}
    (acc : Access) (h : va < 2 ^ 30) : s.hold caches asid va ⟨2, 0x40001000, 0x800001FF⟩ acc = s := by
  unfold State.hold
  induction caches with
  | nil => rfl
  | cons c cs ih =>
    rw [List.foldl_cons, hp.holds (hc c (.head _)) asid acc h]
    exact ih fun d hd => hc d (.tail _ hd)

theorem plain_xlateIn {s : State} (hp : plain s = true) {caches : List Nat} (hk : ∀ c ∈ caches, c ∈ testCaches) (asid : Nat)
    (task : Bool) (va : Nat) (acc : Access) (h : va < 2 ^ 30) :
    s.xlateIn caches asid 0 task va acc = .ok (.dev (2 ^ 31 + va) false, s) := by
  have hp := plain_is hp
  have hv : validVa va = true := by
    have e1 : va / 144115188075855872 = 0 := by omega
    have e2 : va / 72057594037927936 = 0 := by omega
    simp [validVa, bitsAt, e1, e2]
  have hc := page_leaf task va acc h
  have hf : s.leafFor caches asid 0 va acc = .ok ⟨2, 0x40001000, 0x800001FF⟩ := by
    unfold State.leafFor
    simp only [hp.walk acc h, hp.fresh caches asid h]
    rfl
  have hm : s.markUsed ⟨2, 0x40001000, 0x800001FF⟩ acc = s := by
    cases acc <;> simp [State.markUsed, Access.used]
  simp only [State.xlateIn, hv, hf, hc, hm, hp.hold hk asid acc h]
  simp [hp.noStack]
  intro _ i hi
  simp [hp.pins i hi]

theorem Plain.caches {s : State} (hp : Plain s) (lanes : Bool) : ∀ c ∈ s.caches lanes, c ∈ testCaches := by
  intro c hc
  cases lanes with
  | true =>
    simp [State.caches] at hc
    simp [hc, testCaches]
  | false =>
    simp [State.caches] at hc
    rcases hc with rfl | rfl
    · have := hp.core
      simp [testCaches]; omega
    · simp [testCaches]

theorem plain_xlate {s : State} (hp : plain s = true) (va : Nat) (acc : Access) (h : va < 2 ^ 30) (lanes : Bool := false) :
    s.xlate va acc lanes = .ok (.dev (2 ^ 31 + va) false, s) := by
  have hq := plain_is hp
  have hw : inWindow s.hart va = false := by simp [inWindow, hq.window]; omega
  have hcap : inCap va = false := by
    have : ¬ 18446744073704308736 ≤ va := by omega
    simp [inCap, capBase, this]
  simp [State.xlate, hw, hcap, hq.root, plain_xlateIn hp (hq.caches lanes) _ _ va acc h]

theorem plain_xlateOnce {s : State} (hp : plain s = true) (va : Nat) (acc : Access) (h : va < 2 ^ 30) (lanes : Bool := false) :
    s.xlateOnce va acc lanes = .ok (.dev (2 ^ 31 + va) false, s) := by
  have hn : s.heldPlace va acc = none := by simp [State.heldPlace, (plain_is hp).held]
  unfold State.xlateOnce
  rw [hn]
  exact plain_xlate hp va acc h lanes

theorem plain_targets {s : State} (hp : plain s = true) : s.targets = [] := (plain_is hp).targets

theorem plain_noPoison {s : State} (hp : plain s = true) : NoLinePoisoned s := ⟨(plain_is hp).poison, (plain_is hp).taint⟩

/-- What the caches hold of the page is what the tables hold. -/
theorem plain_currentIn {s : State} (hp : plain s = true) (asid va : Nat) (acc : Access) (h : va < 2 ^ 30) :
    CurrentIn s asid 0 va acc := by
  intro caches
  have hp := plain_is hp
  rw [hp.walk acc h]
  exact hp.fresh caches asid h

theorem plain_root {s : State} (hp : plain s = true) : s.hart.ptroot.toNat = 0 := (plain_is hp).root

theorem plain_current {s : State} (hp : plain s = true) (va : Nat) (acc : Access) (h : va < 2 ^ 30) : Current s va acc := by
  refine .inr (.inr ?_)
  rw [plain_root hp]
  exact plain_currentIn hp _ va acc h

theorem plain_counted {s : State} (hp : plain s = true) : plain (counted s) = true := by
  unfold counted State.countGranule State.countTraffic
  repeat' split
  all_goals exact hp

theorem plain_reaches {s : State} (hp : plain s = true) (ho : s.ops = []) (hb : InBudget s) {va n : Nat} (ha : va % n = 0)
    (h : va < 2 ^ 30) (acc : Access) : Reaches s va n acc (.dev (2 ^ 31 + va) false) (counted s) :=
  ⟨⟨hb, ha, plain_xlateOnce (plain_counted hp) va acc h⟩, unheld ((counted_ops s).trans ho) _, unstored (plain_targets (plain_counted hp)) _⟩

theorem plain_mapped' {s : State} (hp : plain s = true) (ho : s.ops = []) (va : Nat) (acc : Access) (h : va < 2 ^ 30) :
    Claims.Mapped s va acc (.dev (2 ^ 31 + va) false) := ⟨⟨fun lanes => plain_xlate hp va acc h lanes, plain_current hp va acc h,
    by simp [State.heldPlace, (plain_is hp).held]⟩, unheld ho _⟩

/-- The places of a stretch of that page. -/
def pageRun (va n : Nat) : List Seg := runFrom (2 ^ 31 + va) ((piecesOf va n).map (·.2))

theorem plain_pieces {s : State} {tr : State → Nat → Except Nat (Loc × State)}
    (htr : ∀ va, va < 2 ^ 30 → tr s va = .ok (.dev (2 ^ 31 + va) false, s)) (f va n : Nat) (h : va + n ≤ 2 ^ 30) :
    spanWith tr (pieces f va n) s = .ok (runFrom (2 ^ 31 + va) ((pieces f va n).map (·.2)), s) := by
  induction f generalizing va n with
  | zero => rfl
  | succ f ih =>
    unfold pieces
    by_cases hn : n = 0
    · simp [hn, spanWith, runFrom]
    · have hv : va % 2 ^ 64 = va := Nat.mod_eq_of_lt (by omega)
      have hk := ih (va + min n (128 - va % 128)) (n - min n (128 - va % 128)) (by omega)
      simp only [hn, if_false, List.map_cons, spanWith, runFrom, hv]
      rw [htr va (by omega)]
      simp only
      rw [hk, Nat.add_assoc]

/-- The pieces of a stretch begin within it. -/
theorem pieces_within (f va n : Nat) (h : va + n ≤ 2 ^ 30) {p : Nat × Nat} (hp : p ∈ pieces f va n) : p.1 < va + n := by
  induction f generalizing va n with
  | zero => cases hp
  | succ f ih =>
    unfold pieces at hp
    split at hp
    · cases hp
    · rename_i hn
      rcases List.mem_cons.mp hp with rfl | hq
      · have : va % 2 ^ 64 = va := Nat.mod_eq_of_lt (by omega)
        simp only [this]; omega
      · have := ih _ _ (by omega) hq
        omega

theorem plain_spans {s : State} (hp : plain s = true) (acc : Access) {va n : Nat} (h : va + n ≤ 2 ^ 30) :
    SpansAt s va n acc (pageRun va n) :=
  ⟨plain_pieces (fun va hv => plain_xlateOnce hp va acc hv) _ va n h,
    fun _ hq => plain_current hp _ acc (Nat.lt_of_lt_of_le (pieces_within _ va n h hq) h)⟩

/-- The pair's address space is that of the same tables. -/
def plainPair (s : State) (port pasid : Nat) : Bool := (s.bindingOf port pasid).map (·.root) == some 0

theorem plain_pairSpans {s : State} (hp : plain s = true) {port pasid : Nat} (hb : plainPair s port pasid = true) (acc : Access)
    {va n : Nat} (h : va + n ≤ 2 ^ 30) : s.spanPair port pasid va n acc = .ok (pageRun va n, s) := by
  refine plain_pieces (fun va hv => ?_) _ va n h
  unfold State.xlatePair
  unfold plainPair at hb
  cases hf : s.bindingOf port pasid with
  | none => rw [hf] at hb; cases hb
  | some b =>
    rw [hf] at hb
    have hr : b.root = 0 := by simpa using hb
    have hw : inWindows va = false := by
      have : ¬ capBase ≤ va := by simp [capBase]; omega
      simp [inWindows, this]
    simp only [hr, hw]
    exact plain_xlateIn hp (by simp [testCaches]) _ true va acc hv

theorem plain_mapped {s : State} (hp : plain s = true) {port pasid : Nat} (hb : plainPair s port pasid = true) (acc : Access)
    {va n : Nat} (h : va + n ≤ 2 ^ 30) : s.mapped port pasid va n acc = true := by
  unfold State.mapped
  rw [plain_pairSpans hp hb acc h]
  simp only [allDevice, List.all_eq_true]
  intro g hg
  obtain ⟨b, _, e⟩ := runFrom_ge hg
  simp [e]

theorem plain_clean {s : State} (hp : plain s = true) (a : Nat) (ns : List Nat) : s.segsPoisoned (runFrom a ns) = false := by
  have hp := plain_is hp
  simp only [State.segsPoisoned, List.any_eq_false]
  intro g hg
  obtain ⟨b, _, h⟩ := runFrom_ge hg
  simp [h, State.poisonedAt, hp.clean]

-- encodings

/-- Words of major 0x01, field by field from the encodings of the spec. -/
theorem test_decode_major_01 :
  decode 0b000001_01010_10101_01100_00000000000 = .ok (.add 10 21 12) ∧
  decode 0b000001_01010_10101_01100_00001000000 = .ok (.sub 10 21 12) ∧
  decode 0b000001_01010_10101_01100_00010000000 = .ok (.and 10 21 12) ∧
  decode 0b000001_01010_10101_01100_00011000000 = .ok (.or 10 21 12) ∧
  decode 0b000001_01010_10101_01100_00100000000 = .ok (.xor 10 21 12) ∧
  decode 0b000001_01010_10101_01100_00101000000 = .ok (.andn 10 21 12) ∧
  decode 0b000001_01010_10101_01100_00110000000 = .ok (.sll 10 21 12) ∧
  decode 0b000001_01010_10101_01100_00111000000 = .ok (.srl 10 21 12) ∧
  decode 0b000001_01010_10101_01100_01000000000 = .ok (.sra 10 21 12) ∧
  decode 0b000001_01010_10101_01100_01001000000 = .ok (.ror 10 21 12) ∧
  decode 0b000001_01010_10101_01100_01010000000 = .ok (.slt 10 21 12) ∧
  decode 0b000001_01010_10101_01100_01011000000 = .ok (.sltn 10 21 12) ∧
  decode 0b000001_01010_10101_01100_01100000000 = .ok (.min 10 21 12) ∧
  decode 0b000001_01010_10101_01100_01101000000 = .ok (.max 10 21 12) ∧
  decode 0b000001_01010_10101_01100_01110000000 = .ok (.mul 10 21 12) ∧
  decode 0b000001_01010_10101_01100_01111000000 = .ok (.mulh 10 21 12) ∧
  decode 0b000001_01010_10101_01100_10000000000 = .ok (.mulhn 10 21 12) ∧
  decode 0b000001_01010_10101_01100_10001000000 = .ok (.div 10 21 12) ∧
  decode 0b000001_01010_10101_01100_10010000000 = .ok (.divn 10 21 12) ∧
  decode 0b000001_01010_10101_01100_10011000000 = .ok (.rem 10 21 12) ∧
  decode 0b000001_01010_10101_01100_10100000000 = .ok (.remn 10 21 12) ∧
  decode 0b000001_01010_10101_0000010101000000 = .ok (.clz 10 21) ∧
  decode 0b000001_01010_10101_0000010110000000 = .ok (.popc 10 21) ∧
  decode 0b000001_01010_10101_0000010111_101101 = .ok (.slli 10 21 45) := by
  decide +kernel

/-- Words of major 0x01, field by field from the encodings of the spec. -/
theorem test_decode_major_01_1 :
  decode 0b000001_01010_10101_0000011000_101101 = .ok (.srli 10 21 45) ∧
  decode 0b000001_01010_10101_0000011001_101101 = .ok (.srai 10 21 45) ∧
  decode 0b000001_01010_10101_0000011010_101101 = .ok (.rori 10 21 45) := by
  decide +kernel

/-- Words of major 0x02, field by field from the encodings of the spec. -/
theorem test_decode_major_02 :
  decode 0b000010_01010_10101_1000000000000011 = .ok (.addi 10 21 32771) := by
  decide +kernel

/-- Words of major 0x03, field by field from the encodings of the spec. -/
theorem test_decode_major_03 :
  decode 0b000011_01010_10101_1000000000000011 = .ok (.andi 10 21 32771) := by
  decide +kernel

/-- Words of major 0x04, field by field from the encodings of the spec. -/
theorem test_decode_major_04 :
  decode 0b000100_01010_10101_1000000000000011 = .ok (.ori 10 21 32771) := by
  decide +kernel

/-- Words of major 0x05, field by field from the encodings of the spec. -/
theorem test_decode_major_05 :
  decode 0b000101_01010_10101_1000000000000011 = .ok (.xori 10 21 32771) := by
  decide +kernel

/-- Words of major 0x06, field by field from the encodings of the spec. -/
theorem test_decode_major_06 :
  decode 0b000110_01010_10101_1000000000000011 = .ok (.slti 10 21 32771) := by
  decide +kernel

/-- Words of major 0x07, field by field from the encodings of the spec. -/
theorem test_decode_major_07 :
  decode 0b000111_01010_10101_1000000000000011 = .ok (.sltni 10 21 32771) := by
  decide +kernel

/-- Words of major 0x08, field by field from the encodings of the spec. -/
theorem test_decode_major_08 :
  decode 0b001000_01010_100000000000000000101 = .ok (.lhi 10 1048581) := by
  decide +kernel

/-- Words of major 0x09, field by field from the encodings of the spec. -/
theorem test_decode_major_09 :
  decode 0b001001_01010_100000000000000000101 = .ok (.pchi 10 1048581) := by
  decide +kernel

/-- Words of major 0x0A, field by field from the encodings of the spec. -/
theorem test_decode_major_0A :
  decode 0b001010_01010_10101_01100_00000_010_101 = .ok (.fadd 10 21 12 2 5) ∧
  decode 0b001010_01010_10101_01100_00001_010_101 = .ok (.fsub 10 21 12 2 5) ∧
  decode 0b001010_01010_10101_01100_00010_010_101 = .ok (.fmul 10 21 12 2 5) ∧
  decode 0b001010_01010_10101_01100_00011_010_101 = .ok (.fdiv 10 21 12 2 5) ∧
  decode 0b001010_01010_10101_0000000100_010_101 = .ok (.fsqrt 10 21 2 5) ∧
  decode 0b001010_01010_10101_01100_00101_010_000 = .ok (.fmin 10 21 12 2) ∧
  decode 0b001010_01010_10101_01100_00110_010_000 = .ok (.fmax 10 21 12 2) ∧
  decode 0b001010_01010_10101_01100_00111_010_000 = .ok (.feq 10 21 12 2) ∧
  decode 0b001010_01010_10101_01100_01000_010_000 = .ok (.flt 10 21 12 2) ∧
  decode 0b001010_01010_10101_01100_01001_010_000 = .ok (.fle 10 21 12 2) ∧
  decode 0b001010_01010_10101_00_011_01010_010_101 = .ok (.fcvt 10 21 3 2 5) ∧
  decode 0b001010_01010_10101_000_10_01011_010_101 = .ok (.fcvti 10 21 2 2 5) ∧
  decode 0b001010_01010_10101_000_10_01100_010_101 = .ok (.fcvtf 10 21 2 2 5) := by
  decide +kernel

/-- Words of major 0x0B, field by field from the encodings of the spec. -/
theorem test_decode_major_0B :
  decode 0b001011_01010_10101_01100_10111_00_11_00 = .ok (.fma 10 21 12 23 3) ∧
  decode 0b001011_01010_10101_01100_10111_01_11_00 = .ok (.fms 10 21 12 23 3) ∧
  decode 0b001011_01010_10101_01100_10111_10_11_00 = .ok (.fnma 10 21 12 23 3) ∧
  decode 0b001011_01010_10101_01100_10111_11_11_00 = .ok (.fnms 10 21 12 23 3) := by
  decide +kernel

/-- Words of major 0x0C, field by field from the encodings of the spec. -/
theorem test_decode_major_0C :
  decode 0b001100_01010_10101_000_1000000000010 = .ok (.ldI8 10 21 4098) ∧
  decode 0b001100_01010_10101_001_1000000000010 = .ok (.ldI16 10 21 4098) ∧
  decode 0b001100_01010_10101_010_1000000000010 = .ok (.ldI32 10 21 4098) ∧
  decode 0b001100_01010_10101_011_1000000000010 = .ok (.ldI64 10 21 4098) ∧
  decode 0b001100_01010_10101_100_1000000000010 = .ok (.ldN8 10 21 4098) ∧
  decode 0b001100_01010_10101_101_1000000000010 = .ok (.ldN16 10 21 4098) ∧
  decode 0b001100_01010_10101_110_1000000000010 = .ok (.ldN32 10 21 4098) := by
  decide +kernel

/-- Words of major 0x0D, field by field from the encodings of the spec. -/
theorem test_decode_major_0D :
  decode 0b001101_01110_10101_000_1000000000010 = .ok (.stI8 14 21 4098) ∧
  decode 0b001101_01110_10101_001_1000000000010 = .ok (.stI16 14 21 4098) ∧
  decode 0b001101_01110_10101_010_1000000000010 = .ok (.stI32 14 21 4098) ∧
  decode 0b001101_01110_10101_011_1000000000010 = .ok (.stI64 14 21 4098) := by
  decide +kernel

/-- Words of major 0x0E, field by field from the encodings of the spec. -/
theorem test_decode_major_0E :
  decode 0b001110_01010_10101_01100_00000_01_011_1 = .ok (.atswap 10 21 12 1 3 1) ∧
  decode 0b001110_01010_10101_01100_00001_01_011_1 = .ok (.atadd 10 21 12 1 3 1) ∧
  decode 0b001110_01010_10101_01100_00010_01_011_1 = .ok (.atand 10 21 12 1 3 1) ∧
  decode 0b001110_01010_10101_01100_00011_01_011_1 = .ok (.ator 10 21 12 1 3 1) ∧
  decode 0b001110_01010_10101_01100_00100_01_011_1 = .ok (.atxor 10 21 12 1 3 1) ∧
  decode 0b001110_01010_10101_01100_00101_01_011_1 = .ok (.atmin 10 21 12 1 3 1) ∧
  decode 0b001110_01010_10101_01100_00110_01_011_1 = .ok (.atmax 10 21 12 1 3 1) ∧
  decode 0b001110_01010_10101_01100_00111_01_011_1 = .ok (.atminN 10 21 12 1 3 1) ∧
  decode 0b001110_01010_10101_01100_01000_01_011_1 = .ok (.atmaxN 10 21 12 1 3 1) ∧
  decode 0b001110_01010_10101_01100_01001_01_011_1 = .ok (.atfadd 10 21 12 1 3 1) ∧
  decode 0b001110_01010_10101_0000001010_01_011_1 = .ok (.ldo 10 21 1 3 1) ∧
  decode 0b00111000000_10101_01100_01011_01_011_1 = .ok (.sto 21 12 1 3 1) := by
  decide +kernel

/-- Words of major 0x0F, field by field from the encodings of the spec. -/
theorem test_decode_major_0F :
  decode 0b001111_01010_10101_01100_10111_01_011_1 = .ok (.cas 10 21 12 23 1 3 1) := by
  decide +kernel

/-- Words of major 0x10, field by field from the encodings of the spec. -/
theorem test_decode_major_10 :
  decode 0b010000_10101_01100_1100000000000101 = .ok (.beq 21 12 49157) := by
  decide +kernel

/-- Words of major 0x11, field by field from the encodings of the spec. -/
theorem test_decode_major_11 :
  decode 0b010001_10101_01100_1100000000000101 = .ok (.bne 21 12 49157) := by
  decide +kernel

/-- Words of major 0x12, field by field from the encodings of the spec. -/
theorem test_decode_major_12 :
  decode 0b010010_10101_01100_1100000000000101 = .ok (.blt 21 12 49157) := by
  decide +kernel

/-- Words of major 0x13, field by field from the encodings of the spec. -/
theorem test_decode_major_13 :
  decode 0b010011_10101_01100_1100000000000101 = .ok (.bge 21 12 49157) := by
  decide +kernel

/-- Words of major 0x14, field by field from the encodings of the spec. -/
theorem test_decode_major_14 :
  decode 0b010100_10101_01100_1100000000000101 = .ok (.bltn 21 12 49157) := by
  decide +kernel

/-- Words of major 0x15, field by field from the encodings of the spec. -/
theorem test_decode_major_15 :
  decode 0b010101_10101_01100_1100000000000101 = .ok (.bgen 21 12 49157) := by
  decide +kernel

/-- Words of major 0x16, field by field from the encodings of the spec. -/
theorem test_decode_major_16 :
  decode 0b010110_10000000000000000000000011 = .ok (.jal 33554435) := by
  decide +kernel

/-- Words of major 0x17, field by field from the encodings of the spec. -/
theorem test_decode_major_17 :
  decode 0b010111_01010_10101_1000000000000011 = .ok (.jalr 10 21 32771) := by
  decide +kernel

/-- Words of major 0x18, field by field from the encodings of the spec. -/
theorem test_decode_major_18 :
  decode 0b011000_101_00_100000000000000000110 = .ok (.kbrAny 5 1048582) ∧
  decode 0b011000_101_01_100000000000000000110 = .ok (.kbrNone 5 1048582) ∧
  decode 0b011000_101_10_100000000000000000110 = .ok (.kbrAll 5 1048582) ∧
  decode 0b011000_101_11_100000000000000000110 = .ok (.kbrNall 5 1048582) := by
  decide +kernel

/-- Words of major 0x19, field by field from the encodings of the spec. -/
theorem test_decode_major_19 :
  decode 0b011001_101_01001_01100_1000000000010 = .ok (.vwhile 5 9 12 4098) := by
  decide +kernel

/-- Words of major 0x1A, field by field from the encodings of the spec. -/
theorem test_decode_major_1A :
  decode 0b01101000000000000000000000_01_011_0 = .ok (.fence 1 3) ∧
  decode 0b011010_01010_10101_01100_00001_01_011_0 = .ok (.waitw 10 21 12 1 3) ∧
  decode 0b01101000000000000000000010000000 = .ok (.yield) ∧
  decode 0b01101000000000000000000011000000 = .ok (.exit) ∧
  decode 0b01101000000000000000000100_110011 = .ok (.brk 51) ∧
  decode 0b01101000000000000000000101_110011 = .ok (.syscall 51) := by
  decide +kernel

/-- Words of major 0x1B, field by field from the encodings of the spec. -/
theorem test_decode_major_1B :
  decode 0b01101100000000000000000000000000 = .ok (.tret) ∧
  decode 0b01101100000_10101_0000000001000000 = .ok (.ctxsv 21) ∧
  decode 0b01101100000_10101_0000000010000000 = .ok (.ctxld 21) ∧
  decode 0b01101100000_10101_01100_00011000000 = .ok (.tlbinvPage 21 12) ∧
  decode 0b0110110000000000_01100_00011000001 = .ok (.tlbinvAsid 12) ∧
  decode 0b01101100000000000000000011000010 = .ok (.tlbinvAll) ∧
  decode 0b01101100000_10101_01100_00100000000 = .ok (.asw 21 12) := by
  decide +kernel

/-- Words of major 0x1C, field by field from the encodings of the spec. -/
theorem test_decode_major_1C :
  decode 0b011100_01010_000000000_100000000101 = .ok (.crr 10 2053) ∧
  decode 0b011100_01010_10101_0001_100000000101 = .ok (.crw 10 21 2053) ∧
  decode 0b011100_01010_10101_0010_100000000101 = .ok (.crs 10 21 2053) ∧
  decode 0b011100_01010_10101_0011_100000000101 = .ok (.crc 10 21 2053) := by
  decide +kernel

/-- Words of major 0x1D, field by field from the encodings of the spec. -/
theorem test_decode_major_1D :
  decode 0b011101_01010_10101_0000000000000000 = .ok (.launch 10 21) ∧
  decode 0b011101_01010_10101_0000000001000000 = .ok (.lstat 10 21) ∧
  decode 0b011101_01010_10101_0000000010000000 = .ok (.lcancel 10 21) ∧
  decode 0b01110100000_10101_01100_00011000000 = .ok (.farm 21 12) ∧
  decode 0b011101_01010_10101_0000000100000000 = .ok (.strip 10 21) ∧
  decode 0b011101_01010_10101_01100_00101000000 = .ok (.farmredF64 10 21 12) ∧
  decode 0b011101_01010_10101_01100_00101001000 = .ok (.farmredMin 10 21 12) ∧
  decode 0b011101_01010_10101_01100_00101010000 = .ok (.farmredMax 10 21 12) ∧
  decode 0b011101_01010_10101_01100_00101011000 = .ok (.farmredI64 10 21 12) := by
  decide +kernel

/-- Words of major 0x1E, field by field from the encodings of the spec. -/
theorem test_decode_major_1E :
  decode 0b011110_01010_10101_0000000000000000 = .ok (.vsetvl 10 21) ∧
  decode 0b011110_01010_10101_01100_00001000000 = .ok (.vsetvlB 10 21 12) ∧
  decode 0b011110_01010_10101_0000000010000000 = .ok (.vsettype 10 21) ∧
  decode 0b011110_01010_10101_01100_00011000000 = .ok (.mxmode 10 21 12) := by
  decide +kernel

/-- Words of major 0x20, field by field from the encodings of the spec. -/
theorem test_decode_major_20 :
  decode 0b100000_01010_10101_01100_1_0_110_000000 = .ok (.vadd 10 21 12 1 0 6) ∧
  decode 0b100000_01010_10101_01100_1_0_110_000001 = .ok (.vsub 10 21 12 1 0 6) ∧
  decode 0b100000_01010_10101_01100_1_0_110_000010 = .ok (.vrsub 10 21 12 1 0 6) ∧
  decode 0b100000_01010_10101_01100_1_0_110_000011 = .ok (.vand 10 21 12 1 0 6) ∧
  decode 0b100000_01010_10101_01100_1_0_110_000100 = .ok (.vor 10 21 12 1 0 6) ∧
  decode 0b100000_01010_10101_01100_1_0_110_000101 = .ok (.vxor 10 21 12 1 0 6) ∧
  decode 0b100000_01010_10101_01100_1_0_110_000110 = .ok (.vsll 10 21 12 1 0 6) ∧
  decode 0b100000_01010_10101_01100_1_0_110_000111 = .ok (.vsrl 10 21 12 1 0 6) ∧
  decode 0b100000_01010_10101_01100_1_0_110_001000 = .ok (.vsra 10 21 12 1 0 6) ∧
  decode 0b100000_01010_10101_01100_1_0_110_001001 = .ok (.vmin 10 21 12 1 0 6) ∧
  decode 0b100000_01010_10101_01100_1_0_110_001010 = .ok (.vmax 10 21 12 1 0 6) ∧
  decode 0b100000_01010_10101_01100_1_0_110_001011 = .ok (.vminn 10 21 12 1 0 6) ∧
  decode 0b100000_01010_10101_01100_1_0_110_001100 = .ok (.vmaxn 10 21 12 1 0 6) ∧
  decode 0b100000_01010_10101_01100_1_0_110_001101 = .ok (.vmul 10 21 12 1 0 6) ∧
  decode 0b100000_01010_10101_01100_1_0_110_001110 = .ok (.vmulh 10 21 12 1 0 6) ∧
  decode 0b100000_01010_10101_01100_1_0_110_001111 = .ok (.vmulhn 10 21 12 1 0 6) ∧
  decode 0b100000_01010_10101_01100_1_0_110_010000 = .ok (.vdiv 10 21 12 1 0 6) ∧
  decode 0b100000_01010_10101_01100_1_0_110_010001 = .ok (.vdivn 10 21 12 1 0 6) ∧
  decode 0b100000_01010_10101_01100_1_0_110_010010 = .ok (.vrem 10 21 12 1 0 6) ∧
  decode 0b100000_01010_10101_01100_1_0_110_010011 = .ok (.vremn 10 21 12 1 0 6) ∧
  decode 0b100000_01010_10101_01100_1_0_110_010100 = .ok (.vsadd 10 21 12 1 0 6) ∧
  decode 0b100000_01010_10101_01100_1_0_110_010101 = .ok (.vsaddn 10 21 12 1 0 6) ∧
  decode 0b100000_01010_10101_01100_1_0_110_010110 = .ok (.vssub 10 21 12 1 0 6) ∧
  decode 0b100000_01010_10101_01100_1_0_110_010111 = .ok (.vssubn 10 21 12 1 0 6) := by
  decide +kernel

/-- Words of major 0x20, field by field from the encodings of the spec. -/
theorem test_decode_major_20_1 :
  decode 0b100000_01010_00000_01100_0_0_110_011000 = .ok (.vmv 10 12 0 6) ∧
  decode 0b100000_01010_10101_01100_1_0_110_011001 = .ok (.vmuln 10 21 12 1 0 6) ∧
  decode 0b100000_01010_000000000000_110_011010 = .ok (.vid 10 6) := by
  decide +kernel

/-- Words of major 0x21, field by field from the encodings of the spec. -/
theorem test_decode_major_21 :
  decode 0b100001_01010_10101_01100_1_0_110_000000 = .ok (.vaddVx 10 21 12 1 6) ∧
  decode 0b100001_01010_10101_01100_1_0_110_000001 = .ok (.vsubVx 10 21 12 1 6) ∧
  decode 0b100001_01010_10101_01100_1_0_110_000010 = .ok (.vrsubVx 10 21 12 1 6) ∧
  decode 0b100001_01010_10101_01100_1_0_110_000011 = .ok (.vandVx 10 21 12 1 6) ∧
  decode 0b100001_01010_10101_01100_1_0_110_000100 = .ok (.vorVx 10 21 12 1 6) ∧
  decode 0b100001_01010_10101_01100_1_0_110_000101 = .ok (.vxorVx 10 21 12 1 6) ∧
  decode 0b100001_01010_10101_01100_1_0_110_000110 = .ok (.vsllVx 10 21 12 1 6) ∧
  decode 0b100001_01010_10101_01100_1_0_110_000111 = .ok (.vsrlVx 10 21 12 1 6) ∧
  decode 0b100001_01010_10101_01100_1_0_110_001000 = .ok (.vsraVx 10 21 12 1 6) ∧
  decode 0b100001_01010_10101_01100_1_0_110_001001 = .ok (.vminVx 10 21 12 1 6) ∧
  decode 0b100001_01010_10101_01100_1_0_110_001010 = .ok (.vmaxVx 10 21 12 1 6) ∧
  decode 0b100001_01010_10101_01100_1_0_110_001011 = .ok (.vminnVx 10 21 12 1 6) ∧
  decode 0b100001_01010_10101_01100_1_0_110_001100 = .ok (.vmaxnVx 10 21 12 1 6) ∧
  decode 0b100001_01010_10101_01100_1_0_110_001101 = .ok (.vmulVx 10 21 12 1 6) ∧
  decode 0b100001_01010_10101_01100_1_0_110_001110 = .ok (.vmulhVx 10 21 12 1 6) ∧
  decode 0b100001_01010_10101_01100_1_0_110_001111 = .ok (.vmulhnVx 10 21 12 1 6) ∧
  decode 0b100001_01010_10101_01100_1_0_110_010000 = .ok (.vdivVx 10 21 12 1 6) ∧
  decode 0b100001_01010_10101_01100_1_0_110_010001 = .ok (.vdivnVx 10 21 12 1 6) ∧
  decode 0b100001_01010_10101_01100_1_0_110_010010 = .ok (.vremVx 10 21 12 1 6) ∧
  decode 0b100001_01010_10101_01100_1_0_110_010011 = .ok (.vremnVx 10 21 12 1 6) ∧
  decode 0b100001_01010_10101_01100_1_0_110_010100 = .ok (.vsaddVx 10 21 12 1 6) ∧
  decode 0b100001_01010_10101_01100_1_0_110_010101 = .ok (.vsaddnVx 10 21 12 1 6) ∧
  decode 0b100001_01010_10101_01100_1_0_110_010110 = .ok (.vssubVx 10 21 12 1 6) ∧
  decode 0b100001_01010_10101_01100_1_0_110_010111 = .ok (.vssubnVx 10 21 12 1 6) := by
  decide +kernel

/-- Words of major 0x21, field by field from the encodings of the spec. -/
theorem test_decode_major_21_1 :
  decode 0b100001_01010_00000_01100_00_110_011000 = .ok (.vmvVx 10 12 6) ∧
  decode 0b100001_01010_10101_01100_1_0_110_011001 = .ok (.vmulnVx 10 21 12 1 6) := by
  decide +kernel

/-- Words of major 0x22, field by field from the encodings of the spec. -/
theorem test_decode_major_22 :
  decode 0b100010_01010_10101_01100_1_0_110_000000 = .ok (.vfadd 10 21 12 1 0 6) ∧
  decode 0b100010_01010_10101_01100_1_0_110_000001 = .ok (.vfsub 10 21 12 1 0 6) ∧
  decode 0b100010_01010_10101_01100_1_0_110_000010 = .ok (.vfmul 10 21 12 1 0 6) ∧
  decode 0b100010_01010_10101_01100_1_0_110_000011 = .ok (.vfdiv 10 21 12 1 0 6) ∧
  decode 0b100010_01010_10101_00000_1_0_110_000100 = .ok (.vfsqrt 10 21 1 6) ∧
  decode 0b100010_01010_10101_01100_1_0_110_000101 = .ok (.vfmin 10 21 12 1 0 6) ∧
  decode 0b100010_01010_10101_01100_1_0_110_000110 = .ok (.vfmax 10 21 12 1 0 6) ∧
  decode 0b100010_01010_10101_01100_1_0_110_000111 = .ok (.vfsigncp 10 21 12 1 0 6) ∧
  decode 0b100010_01010_10101_01100_1_0_110_001000 = .ok (.vfsignneg 10 21 12 1 0 6) ∧
  decode 0b100010_01010_10101_01100_1_0_110_001001 = .ok (.vfsignxor 10 21 12 1 0 6) ∧
  decode 0b100010_01010_10101_00000_1_0_110_001010 = .ok (.vfcvti 10 21 1 6) ∧
  decode 0b100010_01010_10101_00000_1_0_110_001011 = .ok (.vfcvtin 10 21 1 6) ∧
  decode 0b100010_01010_10101_00000_1_0_110_001100 = .ok (.vfcvtf 10 21 1 6) ∧
  decode 0b100010_01010_10101_00000_1_0_110_001101 = .ok (.vfcvtfn 10 21 1 6) := by
  decide +kernel

/-- Words of major 0x23, field by field from the encodings of the spec. -/
theorem test_decode_major_23 :
  decode 0b100011_01010_10101_01100_1_0_110_000000 = .ok (.vfaddVx 10 21 12 1 6) ∧
  decode 0b100011_01010_10101_01100_1_0_110_000001 = .ok (.vfsubVx 10 21 12 1 6) ∧
  decode 0b100011_01010_10101_01100_1_0_110_000010 = .ok (.vfmulVx 10 21 12 1 6) ∧
  decode 0b100011_01010_10101_01100_1_0_110_000011 = .ok (.vfdivVx 10 21 12 1 6) ∧
  decode 0b100011_01010_10101_01100_1_0_110_000101 = .ok (.vfminVx 10 21 12 1 6) ∧
  decode 0b100011_01010_10101_01100_1_0_110_000110 = .ok (.vfmaxVx 10 21 12 1 6) ∧
  decode 0b100011_01010_10101_01100_1_0_110_000111 = .ok (.vfsigncpVx 10 21 12 1 6) ∧
  decode 0b100011_01010_10101_01100_1_0_110_001000 = .ok (.vfsignnegVx 10 21 12 1 6) ∧
  decode 0b100011_01010_10101_01100_1_0_110_001001 = .ok (.vfsignxorVx 10 21 12 1 6) := by
  decide +kernel

/-- Words of major 0x24, field by field from the encodings of the spec. -/
theorem test_decode_major_24 :
  decode 0b100100_01010_10101_01100_10111_1_0_1_110 = .ok (.vfma 10 21 12 23 1 0 1 6) := by
  decide +kernel

/-- Words of major 0x25, field by field from the encodings of the spec. -/
theorem test_decode_major_25 :
  decode 0b100101_01010_10101_01100_10111_1_0_1_110 = .ok (.vfms 10 21 12 23 1 0 1 6) := by
  decide +kernel

/-- Words of major 0x26, field by field from the encodings of the spec. -/
theorem test_decode_major_26 :
  decode 0b100110_01010_10101_01100_10111_1_0_1_110 = .ok (.vfnma 10 21 12 23 1 0 1 6) := by
  decide +kernel

/-- Words of major 0x27, field by field from the encodings of the spec. -/
theorem test_decode_major_27 :
  decode 0b100111_01010_10101_01100_10111_1_0_1_110 = .ok (.vfnms 10 21 12 23 1 0 1 6) := by
  decide +kernel

/-- Words of major 0x28, field by field from the encodings of the spec. -/
theorem test_decode_major_28 :
  decode 0b10100000_100_10101_01100_1_0_110_000000 = .ok (.vcmpeq 4 21 12 1 0 6) ∧
  decode 0b10100000_100_10101_01100_1_0_110_000001 = .ok (.vcmpne 4 21 12 1 0 6) ∧
  decode 0b10100000_100_10101_01100_1_0_110_000010 = .ok (.vcmplt 4 21 12 1 0 6) ∧
  decode 0b10100000_100_10101_01100_1_0_110_000011 = .ok (.vcmple 4 21 12 1 0 6) ∧
  decode 0b10100000_100_10101_01100_1_0_110_000100 = .ok (.vcmpgt 4 21 12 1 0 6) ∧
  decode 0b10100000_100_10101_01100_1_0_110_000101 = .ok (.vcmpge 4 21 12 1 0 6) ∧
  decode 0b10100000_100_10101_01100_1_0_110_000110 = .ok (.vcmpltn 4 21 12 1 0 6) ∧
  decode 0b10100000_100_10101_01100_1_0_110_000111 = .ok (.vcmplen 4 21 12 1 0 6) ∧
  decode 0b10100000_100_10101_01100_1_0_110_001000 = .ok (.vcmpgtn 4 21 12 1 0 6) ∧
  decode 0b10100000_100_10101_01100_1_0_110_001001 = .ok (.vcmpgen 4 21 12 1 0 6) ∧
  decode 0b10100000_100_10101_01100_1_0_110_010000 = .ok (.vfcmpeq 4 21 12 1 0 6) ∧
  decode 0b10100000_100_10101_01100_1_0_110_010001 = .ok (.vfcmpne 4 21 12 1 0 6) ∧
  decode 0b10100000_100_10101_01100_1_0_110_010010 = .ok (.vfcmplt 4 21 12 1 0 6) ∧
  decode 0b10100000_100_10101_01100_1_0_110_010011 = .ok (.vfcmple 4 21 12 1 0 6) ∧
  decode 0b10100000_100_10101_01100_1_0_110_010100 = .ok (.vfcmpgt 4 21 12 1 0 6) ∧
  decode 0b10100000_100_10101_01100_1_0_110_010101 = .ok (.vfcmpge 4 21 12 1 0 6) ∧
  decode 0b10100000_100_10101_01100_1_0_110_010110 = .ok (.vfcmpun 4 21 12 1 0 6) ∧
  decode 0b10100000_100_10101_01100_1_0_110_100000 = .ok (.vcmpeqVx 4 21 12 1 6) ∧
  decode 0b10100000_100_10101_01100_1_0_110_100001 = .ok (.vcmpneVx 4 21 12 1 6) ∧
  decode 0b10100000_100_10101_01100_1_0_110_100010 = .ok (.vcmpltVx 4 21 12 1 6) ∧
  decode 0b10100000_100_10101_01100_1_0_110_100011 = .ok (.vcmpleVx 4 21 12 1 6) ∧
  decode 0b10100000_100_10101_01100_1_0_110_100100 = .ok (.vcmpgtVx 4 21 12 1 6) ∧
  decode 0b10100000_100_10101_01100_1_0_110_100101 = .ok (.vcmpgeVx 4 21 12 1 6) ∧
  decode 0b10100000_100_10101_01100_1_0_110_100110 = .ok (.vcmpltnVx 4 21 12 1 6) := by
  decide +kernel

/-- Words of major 0x28, field by field from the encodings of the spec. -/
theorem test_decode_major_28_1 :
  decode 0b10100000_100_10101_01100_1_0_110_100111 = .ok (.vcmplenVx 4 21 12 1 6) ∧
  decode 0b10100000_100_10101_01100_1_0_110_101000 = .ok (.vcmpgtnVx 4 21 12 1 6) ∧
  decode 0b10100000_100_10101_01100_1_0_110_101001 = .ok (.vcmpgenVx 4 21 12 1 6) ∧
  decode 0b10100000_100_10101_01100_1_0_110_110000 = .ok (.vfcmpeqVx 4 21 12 1 6) ∧
  decode 0b10100000_100_10101_01100_1_0_110_110001 = .ok (.vfcmpneVx 4 21 12 1 6) ∧
  decode 0b10100000_100_10101_01100_1_0_110_110010 = .ok (.vfcmpltVx 4 21 12 1 6) ∧
  decode 0b10100000_100_10101_01100_1_0_110_110011 = .ok (.vfcmpleVx 4 21 12 1 6) ∧
  decode 0b10100000_100_10101_01100_1_0_110_110100 = .ok (.vfcmpgtVx 4 21 12 1 6) ∧
  decode 0b10100000_100_10101_01100_1_0_110_110101 = .ok (.vfcmpgeVx 4 21 12 1 6) ∧
  decode 0b10100000_100_10101_01100_1_0_110_110110 = .ok (.vfcmpunVx 4 21 12 1 6) := by
  decide +kernel

/-- Words of major 0x29, field by field from the encodings of the spec. -/
theorem test_decode_major_29 :
  decode 0b10100100_100_00_101_00_110_00_110_000000 = .ok (.kand 4 5 6 6) ∧
  decode 0b10100100_100_00_101_00_110_00_110_000001 = .ok (.kor 4 5 6 6) ∧
  decode 0b10100100_100_00_101_00_110_00_110_000010 = .ok (.kxor 4 5 6 6) ∧
  decode 0b10100100_100_00_101_00_110_00_110_000011 = .ok (.kandn 4 5 6 6) ∧
  decode 0b10100100_100_00_101_0000000_110_000100 = .ok (.knot 4 5 6) ∧
  decode 0b10100100_100_00_101_0000000_110_000101 = .ok (.kmov 4 5 6) ∧
  decode 0b101001_01010_00_101_0000000_110_000110 = .ok (.kpop 10 5 6) ∧
  decode 0b101001_01010_00_101_0000000_110_000111 = .ok (.kfirst 10 5 6) ∧
  decode 0b10100100_100_000000000000000001000 = .ok (.kmovSmiss 4) := by
  decide +kernel

/-- Words of major 0x2A, field by field from the encodings of the spec. -/
theorem test_decode_major_2A :
  decode 0b101010_01010_10101_01100_1_0_110_000000 = .ok (.vslideup 10 21 12 1 6) ∧
  decode 0b101010_01010_10101_01100_1_0_110_000001 = .ok (.vslidedn 10 21 12 1 6) ∧
  decode 0b101010_01010_10101_01100_1_0_110_000010 = .ok (.vinslo 10 21 12 1 6) ∧
  decode 0b101010_01010_10101_01100_1_0_110_000011 = .ok (.vinshi 10 21 12 1 6) ∧
  decode 0b101010_01010_10101_01100_1_0_110_000100 = .ok (.vshuf 10 21 12 1 0 6) ∧
  decode 0b101010_01010_10101_01100_1_0_110_000101 = .ok (.vbcast 10 21 12 1 6) ∧
  decode 0b101010_01010_10101_00_110_1_0000000110 = .ok (.vcompress 10 21 6 1) ∧
  decode 0b101010_01010_10101_00_110_1_0000000111 = .ok (.vexpand 10 21 6 1) ∧
  decode 0b101010_01010_0000000_110_00_110_001000 = .ok (.viota 10 6 6) ∧
  decode 0b101010_01010_10101_00000_1_0_110_001001 = .ok (.vrev 10 21 1 6) := by
  decide +kernel

/-- Words of major 0x2B, field by field from the encodings of the spec. -/
theorem test_decode_major_2B :
  decode 0b101011_01010_10101_01100_1_0_110_000000 = .ok (.vredsum 10 21 12 1 6) ∧
  decode 0b101011_01010_10101_01100_1_0_110_000001 = .ok (.vredand 10 21 12 1 6) ∧
  decode 0b101011_01010_10101_01100_1_0_110_000010 = .ok (.vredor 10 21 12 1 6) ∧
  decode 0b101011_01010_10101_01100_1_0_110_000011 = .ok (.vredxor 10 21 12 1 6) ∧
  decode 0b101011_01010_10101_01100_1_0_110_000100 = .ok (.vredmin 10 21 12 1 6) ∧
  decode 0b101011_01010_10101_01100_1_0_110_000101 = .ok (.vredmax 10 21 12 1 6) ∧
  decode 0b101011_01010_10101_01100_1_0_110_000110 = .ok (.vredminn 10 21 12 1 6) ∧
  decode 0b101011_01010_10101_01100_1_0_110_000111 = .ok (.vredmaxn 10 21 12 1 6) ∧
  decode 0b101011_01010_10101_01100_1_0_110_001000 = .ok (.vfredsum 10 21 12 1 6) ∧
  decode 0b101011_01010_10101_01100_1_0_110_001001 = .ok (.vfredmin 10 21 12 1 6) ∧
  decode 0b101011_01010_10101_01100_1_0_110_001010 = .ok (.vfredmax 10 21 12 1 6) ∧
  decode 0b101011_01010_10101_00000_1_0_110_001011 = .ok (.vqsum 10 21 1 6) := by
  decide +kernel

/-- Words of major 0x2C, field by field from the encodings of the spec. -/
theorem test_decode_major_2C :
  decode 0b101100_01010_10101_00010_1_0_110_00_1001 = .ok (.vcvt 10 21 2 1 6 9) ∧
  decode 0b101100_01010_10101_00010_1_0_110_01010_1 = .ok (.vcvtNs 10 21 2 1 6 1) ∧
  decode 0b101100_01010_10101_0111_0_1_0_110_10_1_100 = .ok (.vscvt 10 21 7 1 6 1 4) ∧
  decode 0b101100_01010_10101_01100_1_0_000110000 = .ok (.vqntB4 10 21 12 1 0) ∧
  decode 0b10110000_100_10101_01100_1_0_000110001 = .ok (.vqntS1 4 21 12 1 0) ∧
  decode 0b101100_01010_10101_01100_1_0_110_110010 = .ok (.vdqntB4 10 21 12 1 0 6) ∧
  decode 0b101100_01010_00_101_01100_0_0_110_110011 = .ok (.vdqntS1 10 5 12 0 6) ∧
  decode 0b101100_01010_00000_0111_000_110_110100 = .ok (.vrng 10 7 6) ∧
  decode 0b10110000_100_00000_0111_000_110_110101 = .ok (.vdrop 4 7 6) := by
  decide +kernel

/-- Words of major 0x2D, field by field from the encodings of the spec. -/
theorem test_decode_major_2D :
  decode 0b101101_01010_10101_01110_00_110_011_000 = .ok (.vld 10 21 14 6 3) ∧
  decode 0b101101_01010_10101_01110_00_110_011_001 = .ok (.vldAcqDie 10 21 14 6 3) ∧
  decode 0b101101_01010_10101_01110_00_110_011_010 = .ok (.vldAcqPkg 10 21 14 6 3) ∧
  decode 0b101101_01010_10101_01110_00_110_011_011 = .ok (.vldAcqSys 10 21 14 6 3) ∧
  decode 0b101101_01010_10101_0000001_110_011_101 = .ok (.vldWm 10 21 6 3 5) := by
  decide +kernel

/-- Words of major 0x2E, field by field from the encodings of the spec. -/
theorem test_decode_major_2E :
  decode 0b101110_01010_10101_01110_1_0_110_011_000 = .ok (.vst 10 21 14 1 6 3) ∧
  decode 0b101110_01010_10101_01110_1_1_110_011_000 = .ok (.vstU 10 21 14 1 6 3) ∧
  decode 0b101110_01010_10101_01110_1_0_110_011_001 = .ok (.vstRelDie 10 21 14 1 6 3) ∧
  decode 0b101110_01010_10101_01110_1_0_110_011_010 = .ok (.vstRelPkg 10 21 14 1 6 3) ∧
  decode 0b101110_01010_10101_01110_1_0_110_011_011 = .ok (.vstRelSys 10 21 14 1 6 3) ∧
  decode 0b101110_01010_10101_00_101_1_0_110_011_100 = .ok (.vstNt 10 21 5 1 6 3) := by
  decide +kernel

/-- Words of major 0x2F, field by field from the encodings of the spec. -/
theorem test_decode_major_2F :
  decode 0b101111_01010_10101_01110_1_0_110_011_000 = .ok (.vldx 10 21 14 1 6 3) ∧
  decode 0b101111_01010_10101_01110_1_0_110_011_001 = .ok (.vldxAcqDie 10 21 14 1 6 3) ∧
  decode 0b101111_01010_10101_01110_1_0_110_011_010 = .ok (.vldxAcqPkg 10 21 14 1 6 3) ∧
  decode 0b101111_01010_10101_01110_1_0_110_011_011 = .ok (.vldxAcqSys 10 21 14 1 6 3) ∧
  decode 0b101111_01010_10101_01110_1_0_110_011_100 = .ok (.vldxDup 10 21 14 1 6 3) ∧
  decode 0b101111_01010_10101_01110_1_0_110_011_101 = .ok (.vldxDupAcqDie 10 21 14 1 6 3) ∧
  decode 0b101111_01010_10101_01110_1_0_110_011_110 = .ok (.vldxDupAcqPkg 10 21 14 1 6 3) ∧
  decode 0b101111_01010_10101_01110_1_0_110_011_111 = .ok (.vldxDupAcqSys 10 21 14 1 6 3) ∧
  decode 0b101111_01010_10101_01110_1_1_110_011_101 = .ok (.vldxWm 10 21 14 1 6 3 5) := by
  decide +kernel

/-- Words of major 0x30, field by field from the encodings of the spec. -/
theorem test_decode_major_30 :
  decode 0b110000_01010_10101_01110_1_0_110_011_000 = .ok (.vstx 10 21 14 1 6 3) ∧
  decode 0b110000_01010_10101_01110_1_1_110_011_000 = .ok (.vstxU 10 21 14 1 6 3) ∧
  decode 0b110000_01010_10101_01110_1_0_110_011_001 = .ok (.vstxRelDie 10 21 14 1 6 3) ∧
  decode 0b110000_01010_10101_01110_1_0_110_011_010 = .ok (.vstxRelPkg 10 21 14 1 6 3) ∧
  decode 0b110000_01010_10101_01110_1_0_110_011_011 = .ok (.vstxRelSys 10 21 14 1 6 3) ∧
  decode 0b110000_01010_10101_01110_1_0_110_011_100 = .ok (.vstxAdd 10 21 14 1 6 3) ∧
  decode 0b110000_01010_10101_01110_1_0_110_011_101 = .ok (.vstxFadd 10 21 14 1 6 3) := by
  decide +kernel

/-- Words of major 0x31, field by field from the encodings of the spec. -/
theorem test_decode_major_31 :
  decode 0b11000100_100_10101_0000000000000000 = .ok (.ybind 4 21) ∧
  decode 0b110001_01010_00_101_0000000000000001 = .ok (.vyld 10 5) ∧
  decode 0b11000100_100_10101_00000_1_0000000010 = .ok (.vyst 4 21 1) ∧
  decode 0b11000100_100_000000000000000000011 = .ok (.yrel 4) ∧
  decode 0b110001_01010_00_101_0000000000000100 = .ok (.ystat 10 5) ∧
  decode 0b110001_01010_00_101_0000000000000101 = .ok (.ybyte 10 5) := by
  decide +kernel

/-- Words of major 0x32, field by field from the encodings of the spec. -/
theorem test_decode_major_32 :
  decode 0b110010_01010_10101_0111_000000_10_011_0 = .ok (.cpy 10 21 7 2 3) ∧
  decode 0b110010_01010_10101_0111_000001_10_011_0 = .ok (.cpyrg 10 21 7 2 3) ∧
  decode 0b110010_01010_10101_0111_000010_10_011_0 = .ok (.cpyrp 10 21 7 2 3) ∧
  decode 0b110010_01010_10101_0111_000011_101_000 = .ok (.cpygs 10 21 7 5) ∧
  decode 0b110010_01010_10101_110_0000100_10_011_0 = .ok (.cpyrk 10 21 6 2 3) ∧
  decode 0b11001000000_10101_01100_00101000000 = .ok (.weirarm 21 12) ∧
  decode 0b110010_01010_10101_01100_00110000000 = .ok (.weirwt 10 21 12) := by
  decide +kernel

/-- Words of major 0x33, field by field from the encodings of the spec. -/
theorem test_decode_major_33 :
  decode 0b11001100_100_10101_0000000000000_011 = .ok (.vwmbind 4 21 3) ∧
  decode 0b110011_01010_00_101_0000000001000000 = .ok (.vwmaddr 10 5) ∧
  decode 0b11001100_100_10101_0000000010000000 = .ok (.vwmpub 4 21) ∧
  decode 0b110011_01010_00_101_01100_00011000000 = .ok (.vwmwait 10 5 12) := by
  decide +kernel

/-- Words of major 0x34, field by field from the encodings of the spec. -/
theorem test_decode_major_34 :
  decode 0b110100000_10_10101_01100_1_0_110_000000 = .ok (.mxopa 2 21 12 1 0 6) ∧
  decode 0b110100000_10_10101_01100_1_0_110_000001 = .ok (.mxops 2 21 12 1 0 6) := by
  decide +kernel

/-- Words of major 0x35, field by field from the encodings of the spec. -/
theorem test_decode_major_35 :
  decode 0b110101000_10_000000000000000000000 = .ok (.mxzero 2) ∧
  decode 0b110101_01010_000_01_01100_00000000001 = .ok (.mxrow 10 1 12) ∧
  decode 0b110101_01010_000_01_01100_00000000010 = .ok (.mxcol 10 1 12) ∧
  decode 0b110101000_10_10101_01100_00000000011 = .ok (.mxldRm 2 21 12) ∧
  decode 0b110101000_10_10101_01100_00000000100 = .ok (.mxldCm 2 21 12) ∧
  decode 0b110101000_10_10101_01100_00000000101 = .ok (.mxstRm 2 21 12) ∧
  decode 0b110101000_10_10101_01100_00000000110 = .ok (.mxstCm 2 21 12) := by
  decide +kernel

/-- Words of major 0x36, field by field from the encodings of the spec. -/
theorem test_decode_major_36 :
  decode 0b110110_01010_10101_0000000000000000 = .ok (.msopen 10 21) ∧
  decode 0b11011000000_10101_0000000001000000 = .ok (.msclose 21) ∧
  decode 0b11011000000_10101_01100_00010000000 = .ok (.msrefine 21 12) ∧
  decode 0b11011000000_10101_01100_00011000000 = .ok (.msbal 21 12) ∧
  decode 0b11011000000_10101_01100_00100000000 = .ok (.msghost 21 12) ∧
  decode 0b11011000000_10101_01100_00101000000 = .ok (.mscolor 21 12) ∧
  decode 0b110110_01010_10101_01100_00110_1_00_110 = .ok (.mskey 10 21 12 1 6) ∧
  decode 0b110110_01010_10101_01100_00111_1_00_110 = .ok (.msfind 10 21 12 1 6) ∧
  decode 0b11011000000_10101_01100_01000000000 = .ok (.msremap 21 12) ∧
  decode 0b110110_01010_10101_0000001001000000 = .ok (.mswait 10 21) := by
  decide +kernel

/-- Words of major 0x37, field by field from the encodings of the spec. -/
theorem test_decode_major_37 :
  decode 0b110111_01010_10101_0000000000000000 = .ok (.gbind 10 21) ∧
  decode 0b11011100000_10101_01100_00001000000 = .ok (.gtable 21 12) ∧
  decode 0b11011100000_10101_01100_00010000000 = .ok (.gsweep 21 12) ∧
  decode 0b11011100000_10101_01100_00011000000 = .ok (.greadState 21 12) ∧
  decode 0b11011100000_10101_01100_00011000001 = .ok (.greadMarg 21 12) ∧
  decode 0b11011100000_10101_01100_00011000011 = .ok (.greadMargClr 21 12) ∧
  decode 0b110111_01010_10101_0000000100000000 = .ok (.gwait 10 21) ∧
  decode 0b11011100000_10101_0000000101000000 = .ok (.grel 21) := by
  decide +kernel

/-- Words of major 0x38, field by field from the encodings of the spec. -/
theorem test_decode_major_38 :
  decode 0b111000_01010_000000000000000000000 = .ok (.cview 10) ∧
  decode 0b11100000000_10101_0000000000000001 = .ok (.cviewMap 21) ∧
  decode 0b111000_01010_000000000000000000010 = .ok (.cviewFid 10) ∧
  decode 0b11100000000_10101_0000000001000000 = .ok (.coll 21) ∧
  decode 0b111000_01010_10101_0000000010000000 = .ok (.cwait 10 21) ∧
  decode 0b111000_01010_10101_0000000011000000 = .ok (.caston 10 21) ∧
  decode 0b111000_01010_10101_0000000100000000 = .ok (.cleave 10 21) := by
  decide +kernel

/-- Words of major 0x39, field by field from the encodings of the spec. -/
theorem test_decode_major_39 :
  decode 0b111001_01010_10101_01110_1_1_110_01_1_000 = .ok (.vatadd 10 21 14 1 1 6 1) ∧
  decode 0b111001_01010_10101_01110_1_1_110_01_1_001 = .ok (.vatswap 10 21 14 1 1 6 1) ∧
  decode 0b111001_01010_10101_01110_1_1_110_01_1_010 = .ok (.vatand 10 21 14 1 1 6 1) ∧
  decode 0b111001_01010_10101_01110_1_1_110_01_1_011 = .ok (.vator 10 21 14 1 1 6 1) ∧
  decode 0b111001_01010_10101_01110_1_1_110_01_1_100 = .ok (.vatxor 10 21 14 1 1 6 1) ∧
  decode 0b111001_01010_10101_01110_1_1_110_01_1_101 = .ok (.vatmin 10 21 14 1 1 6 1) ∧
  decode 0b111001_01010_10101_01110_1_1_110_01_1_110 = .ok (.vatmax 10 21 14 1 1 6 1) ∧
  decode 0b111001_01010_10101_01110_1_1_110_01_1_111 = .ok (.vatfadd 10 21 14 1 1 6 1) := by
  decide +kernel

-- ill-formed terms

/-- The check refuses the term, and the decoder does not give it for its word. -/
noncomputable def refused (i : Instr) : Bool :=
  !i.wf && match encode i with
    | some n => decode (BitVec.ofNat 32 n) != .ok i
    | none => false

theorem test_wf_float_formats : ([
    .fadd 1 2 3 4 0, .fsub 1 2 3 4 0, .fmul 1 2 3 4 0, .fdiv 1 2 3 4 0, .fadd 1 2 3 0 6, .fsub 1 2 3 0 6, .fmul 1 2 3 0 6,
    .fdiv 1 2 3 0 6, .fsqrt 1 2 4 0, .fsqrt 1 2 0 6, .fmin 1 2 3 4, .fmax 1 2 3 4, .feq 1 2 3 4, .flt 1 2 3 4, .fle 1 2 3 4] : List Instr).all refused = true := by decide +kernel

theorem test_wf_float_conversions : ([
    .fcvt 1 2 1 4 0, .fcvt 1 2 1 0 6, .fcvt 1 2 4 0 0, .fcvt 1 2 1 1 0, .fcvti 1 2 0 4 0, .fcvti 1 2 0 0 6,
    .fcvtf 1 2 0 4 0, .fcvtf 1 2 0 0 6] : List Instr).all refused = true := by decide +kernel

theorem test_wf_scalar_orders : ([
    .atswap 1 2 3 0 1 0, .atadd 1 2 3 0 1 0, .atand 1 2 3 0 1 0, .ator 1 2 3 0 1 0, .atxor 1 2 3 0 1 0, .atmin 1 2 3 0 1 0,
    .atmax 1 2 3 0 1 0, .atminN 1 2 3 0 1 0, .atmaxN 1 2 3 0 1 0, .atfadd 1 2 3 0 1 0, .cas 1 2 3 4 0 1 0, .ldo 1 2 0 0 0,
    .sto 1 2 0 0 0, .fence 0 1, .waitw 1 2 3 2 0, .waitw 1 2 3 0 1, .vwhile 1 2 3 0] : List Instr).all refused = true := by decide +kernel

theorem test_wf_vector_conversions : ([
    .vcvt 1 2 6 0 0 1, .vcvt 1 2 1 0 0 6, .vcvt 1 2 1 0 0 1, .vcvtNs 1 2 6 0 0 0, .vcvtNs 1 2 4 0 0 0, .vscvt 1 2 3 0 0 0 0,
    .vscvt 1 2 3 0 0 0 6, .vscvt 1 2 3 0 0 1 1] : List Instr).all refused = true := by decide +kernel

theorem test_wf_vector_widths : ([
    .vld 0 0 0 0 5, .vldAcqDie 0 0 0 0 4, .vldAcqPkg 0 0 0 0 4, .vldAcqSys 0 0 0 0 4, .vldWm 0 0 0 4 0, .vst 0 0 0 0 0 5,
    .vstU 0 0 0 0 0 4, .vstRelDie 0 0 0 0 0 4, .vstRelPkg 0 0 0 0 0 4, .vstRelSys 0 0 0 0 0 4, .vstNt 0 0 0 0 0 4,
    .vldx 0 0 0 0 0 4, .vldxAcqDie 0 0 0 0 0 4, .vldxAcqPkg 0 0 0 0 0 4, .vldxAcqSys 0 0 0 0 0 4, .vldxDup 0 0 0 0 0 4,
    .vldxDupAcqDie 0 0 0 0 0 4, .vldxDupAcqPkg 0 0 0 0 0 4, .vldxDupAcqSys 0 0 0 0 0 4, .vldxWm 0 0 0 0 0 4 0,
    .vstx 0 0 0 0 0 4, .vstxU 0 0 0 0 0 4, .vstxRelDie 0 0 0 0 0 4, .vstxRelPkg 0 0 0 0 0 4, .vstxRelSys 0 0 0 0 0 4,
    .vstxAdd 0 0 0 0 0 4, .vstxFadd 0 0 0 0 0 4, .vstxFadd 0 0 0 0 0 0] : List Instr).all refused = true := by decide +kernel

theorem test_wf_copy_orders : ([
    .cpy 1 2 4 3 0, .cpyrg 1 2 4 3 0, .cpyrp 1 2 4 3 0, .cpyrk 1 2 4 3 0, .cpy 1 2 4 0 1, .cpyrg 1 2 4 0 1,
    .cpyrp 1 2 4 0 1, .cpyrk 1 2 4 0 1] : List Instr).all refused = true := by decide +kernel

-- states and operands that meet the hypotheses of the statements: scalar instructions

theorem one_f64 : f64.unpack 0x3FF0000000000000 = .fin false (2 ^ 52) (-52) := by decide +kernel

theorem two_f64 : f64.unpack 0x4000000000000000 = .fin false (2 ^ 52) (-51) := by decide +kernel

theorem value_one : valueOf (f64.unpack 0x3FF0000000000000) = some 1 := by
  rw [one_f64]; norm_num [valueOf]

theorem value_two : valueOf (f64.unpack 0x4000000000000000) = some 2 := by
  rw [two_f64]; norm_num [valueOf]

/-- The firmware hart with addresses and numbers in its registers: x2 aligned, x3 misaligned, x4 the capability window, x5 the IO
page, x6 the double 1, x7 a quiet NaN. -/
def regs : State :=
  withX base [(2, 0x1000), (3, 0x1001), (4, 0xFFFFFFFFFFB00000), (5, 0x40000000), (6, 0x3FF0000000000000),
    (7, 0x7FF8000000000000), (8, 0x80000000)]

theorem regs_inBudget : InBudget regs := inBudget_none (by decide +kernel)

theorem regs_inv : Inv regs := inv_of (by decide +kernel)

theorem regs_reads : Reaches regs 0x1000 8 .read (.dev 0x80001000 false) (counted regs) :=
  reaches_of regs_inBudget (by decide) (by decide +kernel)

theorem regs_writes : Reaches regs 0x1000 8 .write (.dev 0x80001000 false) (counted regs) :=
  reaches_of regs_inBudget (by decide) (by decide +kernel)

theorem regs_atomic : Reaches regs 0x1000 8 .atomic (.dev 0x80001000 false) (counted regs) :=
  reaches_of regs_inBudget (by decide) (by decide +kernel)

theorem regs_readable : Readable (counted regs) (.dev 0x80001000 false) 8 := ⟨by decide +kernel, by decide +kernel⟩

theorem witness_arithmetic :
    (∃ i s d w, saluResult s i = some (d, w)) ∧ (∃ i s d w, immediateResult s i = some (d, w)) ∧
    (∃ i s d w, highResult s i = some (d, w)) ∧ (∃ i s d F r, floatResult s i = some (d, F, r)) :=
  ⟨⟨.srai 1 2 63, base, 1, _, rfl⟩, ⟨.slti 1 2 0x8000, base, 1, _, rfl⟩, ⟨.pchi 1 0x100000, base, 1, _, rfl⟩,
    ⟨.fadd 1 2 3 0 0, base, 1, _, _, rfl⟩⟩

theorem witness_floats :
    (compareOf (.flt 1 6 7 0) = some (1, .lt, 6, 7, f64) ∧ (regs.fx f64 7).isNan = true) ∧
    (compareOf (.fle 1 6 6 0) = some (1, .le, 6, 6, f64) ∧ valueOf (regs.fx f64 6) = some 1) ∧
    (Scalar4 f64 ∧ (f64.unpack 0x7FF8000000000000).isNan = true ∧ (f64.unpack 0).isNan = false) ∧
    (valueOf (f64.unpack 0x3FF0000000000000) = some 1 ∧ valueOf (f64.unpack 0x4000000000000000) = some 2 ∧
      (1 : ℚ) + 1 = 2 ∧ (1 : ℚ) * 2 = 2) ∧
    valueOf (regs.fx f64 6) = some ((1 : Int) : ℚ) := by
  have h : regs.fx f64 6 = f64.unpack 0x3FF0000000000000 := by decide +kernel
  refine ⟨⟨rfl, by decide +kernel⟩, ⟨rfl, by rw [h, value_one]⟩, ⟨.inl rfl, by decide +kernel, by decide +kernel⟩,
    ⟨value_one, value_two, by norm_num, by norm_num⟩, by rw [h, value_one]; norm_num⟩

theorem witness_scalar_memory :
    (loadForm regs (.ldI64 1 2 0) = some (8, true, 1, 0x1000) ∧
      Reaches regs 0x1000 8 .read (.dev 0x80001000 false) (counted regs) ∧
      Readable (counted regs) (.dev 0x80001000 false) 8) ∧
    (loadForm regs (.ldN8 1 4 0) = some (1, false, 1, 0xFFFFFFFFFFB00000) ∧
      Reaches regs 0xFFFFFFFFFFB00000 1 .read (.cap 0) (counted regs) ∧ Readable (counted regs) (.cap 0) 1) ∧
    (storeForm regs (.stI64 6 2 0) = some (8, 0x3FF0000000000000, 0x1000) ∧ Inv regs ∧
      Reaches regs 0x1000 8 .write (.dev 0x80001000 false) (counted regs) ∧ (Loc.dev 0x80001000 false).outside = false ∧
      Backed (counted regs) (.dev 0x80001000 false)) ∧
    (loadForm regs (.ldI16 1 3 0) = some (2, true, 1, 0x1001) ∧ InBudget regs) ∧
    (∃ a, atomicForm regs (.cas 1 2 6 7 3 0 1) = some a ∧ Ordered regs a.order ∧ a.n = 8 ∧ a.acc = .atomic ∧
      Reaches regs 0x1000 8 .atomic (.dev 0x80001000 false) (counted regs)) ∧
    (∃ a, atomicForm regs (.ldo 1 5 1 0 0) = some a ∧ Ordered regs a.order ∧ a.n = 4 ∧ a.acc = .read ∧
      Reaches regs 0x40000000 4 .read (.io 0x8000000000000) (counted regs)) := by
  refine ⟨⟨by decide +kernel, regs_reads, regs_readable⟩,
    ⟨by decide +kernel, reaches_of regs_inBudget (by decide) (by decide +kernel), by decide +kernel, by decide +kernel⟩,
    ⟨by decide +kernel, regs_inv, regs_writes, by decide, trivial⟩, ⟨by decide +kernel, regs_inBudget⟩,
    ⟨_, rfl, fun _ => rfl, rfl, rfl, regs_atomic⟩,
    ⟨_, rfl, fun _ => rfl, rfl, rfl, reaches_of regs_inBudget (by decide) (by decide +kernel)⟩⟩

theorem witness_control :
    (∃ c o, branchForm regs (.beq 2 2 5) = some (c, o) ∧ c) ∧ (∃ c o, branchForm regs (.bltn 3 2 5) = some (c, o) ∧ ¬ c) ∧
    ((BitVec.ofInt 64 ((regs.rx 2).toInt + (0x8000 : BitVec 16).toInt)).toNat % 4 = 0) ∧
    ((BitVec.ofInt 64 ((regs.rx 3).toInt + (1 : BitVec 16).toInt)).toNat % 4 ≠ 0) ∧ task.inText 0x10000 = false ∧
    (∃ c k o, maskBranch base (.kbrNall 7 5) = some (c, k, o)) ∧ base.maskBusy 7 = false ∧ base.hart.poison = [] ∧
    base.hart.cfg.gm = 1 ∧ base.hart.vl ≤ 65536 :=
  ⟨⟨_, _, rfl, rfl⟩, ⟨_, _, rfl, by decide +kernel⟩, by decide +kernel, by decide +kernel, by decide +kernel,
    ⟨_, _, _, rfl⟩, by decide +kernel, by decide +kernel, by decide +kernel, by decide +kernel⟩

/-- A vector store of the hart to the device of its second page is not acknowledged yet. -/
def storing : State :=
  { base with targets := [⟨0, 0, true, false, true, .io (2 ^ 51 + 8), 0, true, false⟩]
              hart := { base.hart with unacked := [0] } }

theorem witness_synchronisation :
    (Ordered base 2 ∧ ¬ Ordered storing 2 ∧ Ordered storing 1) ∧
    ((∃ q ∈ storing.targets, q.tag ∈ storing.hart.unacked ∧ q.loc.isIo = true) ∧
      ¬ ∃ q ∈ base.targets, q.tag ∈ base.hart.unacked ∧ q.loc.isIo = true) ∧
    (BitVec.ofNat 64 (numAt (counted regs) (.dev 0x80001000 false) 8) ≠ regs.rx 6 ∧
      BitVec.ofNat 64 (numAt (counted regs) (.dev 0x80001000 false) 8) = regs.rx 0) ∧
    (16 ≤ task.hart.hid ∧ task.hart.unacked = [] ∧ ∃ h ∈ task.parked, h.hid ≠ task.hart.hid) ∧ base.hart.hid < 16 :=
  ⟨⟨fun _ => rfl, fun h => absurd (h rfl) (by decide), fun h => absurd h (by decide)⟩,
    ⟨⟨_, List.mem_singleton.mpr rfl, by decide, rfl⟩, fun ⟨_, h, _⟩ => nomatch h⟩, ⟨by decide +kernel, by decide +kernel⟩,
    ⟨by decide +kernel, by decide +kernel, by decide +kernel⟩, by decide +kernel⟩

-- traps, supervisor instructions, control registers and configuration

/-- `task` without a handler, and with ACTIVE set. -/
def taskActive : State := { task with hart := { task.hart with tcause := BitVec.ofNat 64 (2 ^ 63) } }

theorem base_super : SuperMode base := by unfold SuperMode; decide +kernel

theorem task_mode : TaskMode task := by unfold TaskMode; decide +kernel

theorem task_launch : task.launch? task.hart.lid = some job := by decide +kernel

theorem witness_traps :
    SuperMode base ∧ TaskMode task ∧ task.launch? task.hart.lid = some job ∧ (task.hart.active && true) = false ∧
    4 ∈ [0x04, 0x05, 0x08, 0x0C] ∧ 0x0E ∉ [0x04, 0x05, 0x08, 0x0C] ∧ job.handler ≠ 0 ∧
    { job with handler := 0 }.handler = 0 ∧ (taskActive.hart.active = true ∧ TaskMode taskActive ∧
      taskActive.launch? taskActive.hart.lid = some job ∧ isFinal job.state = false ∧ job.ending = none) ∧
    base.hart.anyHeld = false ∧ ({ base.hart with tpc := 2 } : Hart).tpc.toNat % 4 ≠ 0 :=
  ⟨base_super, task_mode, task_launch, by decide +kernel, by decide, by decide, by decide +kernel, rfl,
    ⟨by decide +kernel, task_mode, by decide +kernel, by decide +kernel, by decide +kernel⟩, by decide +kernel,
    by decide +kernel⟩

theorem witness_supervisor : supervisorOnly (.asw 1 2) = true ∧ TaskMode task ∧ SuperMode base := ⟨rfl, task_mode, base_super⟩

theorem witness_tlbinv :
    (SuperMode storing ∧ ∃ c ∈ storing.tlb, c.serves 0 0x40000000 = true ∧ storing.awaits c = true) ∧
    SuperMode base ∧ ∀ c ∈ base.tlb, base.awaits c = false :=
  ⟨⟨base_super, by decide +kernel⟩, base_super, by decide +kernel⟩

/-- A remote copy of the hart has still to write 8 bytes of the page at 0x1000. -/
def awaiting : State :=
  { regs with ops := [⟨1, 0, 0, 0, 0, false, [⟨.dev 0x80001800 false, 8⟩], [], [], 0, .get .none 0 0 8 [] 8⟩] }

theorem witness_awaiting :
    loadForm awaiting (.ldI64 3 2 0) = some (8, true, 3, 0x1000) ∧ (∃ w, storeForm awaiting (.stI64 3 2 0) = some (8, w, 0x1000)) ∧
    (∃ a, atomicForm awaiting (.cas 1 2 6 7 1 0 1) = some a ∧ Ordered awaiting a.order ∧ a.n = 8 ∧
      (awaiting.rx a.addr).toNat = 0x1000 ∧ a.acc = .atomic) ∧
    (∀ acc, Arrives awaiting 0x1000 8 acc (.dev 0x80001000 false) (counted awaiting)) ∧
    (counted awaiting).engineHolds (.dev 0x80001000 false) = true := by
  have hp : plain awaiting = true := by decide +kernel
  exact ⟨by decide +kernel, ⟨_, rfl⟩, ⟨_, rfl, fun _ => rfl, rfl, by decide +kernel, rfl⟩,
    fun acc => ⟨inBudget_none (by decide +kernel), by decide, plain_xlateOnce (plain_counted hp) 0x1000 acc (by decide)⟩,
    by decide +kernel⟩

/-- A load of the page that a vector store of the hart is outstanding for, and a release atomic behind that store. -/
theorem witness_behind_stores :
    loadForm storing (.ldI64 3 2 0) = some (8, true, 3, 0) ∧
    (∃ a, atomicForm storing (.atswap 1 2 3 2 0 1) = some a ∧ ¬ Ordered storing a.order) ∧
    Arrives storing 0x40000000 8 .read (.io 0x8000000000000) (counted storing) ∧
    (counted storing).storeHolds (.io 0x8000000000000) = true := by
  have m : mapsTo (counted storing) 0x40000000 .read (.io 0x8000000000000) = true := by decide +kernel
  exact ⟨by decide +kernel, ⟨_, rfl, fun h => absurd (h rfl) (by decide)⟩,
    ⟨inBudget_none (by decide +kernel), by decide, xlateOnce_of (mapped_of m).1⟩, by decide +kernel⟩

/-- No page is held in the states that open handles, bind slots and store contexts. -/
theorem witness_unheld (gs : List Seg) : Unheld regs gs ∧ Unheld base gs ∧ Unheld task gs :=
  ⟨unheldAll rfl gs, unheldAll rfl gs, unheldAll rfl gs⟩

theorem regs_plain : plain regs = true := by decide +kernel

theorem witness_ctxsv :
    (SuperMode regs ∧ regs.hart.unacked = [] ∧ MasksFree regs ∧ regs.hart.begun.stored = 0 ∧ (regs.rx 3).toNat % 4096 ≠ 0) ∧
    (Inv regs ∧ (regs.rx 2).toNat % 4096 = 0 ∧
      ∃ gs, Spans regs (regs.rx 2).toNat (slotSize regs.hart.grant) .write gs regs ∧
      Inside gs ∧ Apart gs ∧ (∀ g ∈ gs, Backed regs g.loc) ∧ regs.hart.poison = []) :=
  ⟨⟨base_super, by decide +kernel, masksFree rfl, rfl, by decide +kernel⟩, regs_inv, by decide +kernel, _,
    (plain_spans regs_plain .write (by decide +kernel)).1, runFrom_inside _ _, runFrom_apart _ _,
    fun g hg => (runFrom_backs regs _ _ g hg).2, rfl⟩

/-- A save slot's valid header at a storage address, for grant 1, launch 1 and hart 0 (R393). -/
def withHeader (s : State) (at_ : Nat) : State :=
  { s with mem := cellsPut s.mem at_ (bytesOf (0x54584353 + 2 ^ 32 + 2 ^ 48 + 2 ^ 64 + 2 ^ 128) 32) }

def saved : State := withHeader regs 0x80001000

theorem saved_plain : plain saved = true := by decide +kernel

/-- A stretch is read, and the hart's page stays as `plain` says. -/
def readsPlain (gs : List Seg) (s : State) : Bool :=
  match Act.pull gs none s with
  | .ok _ v => plain v
  | .error _ _ => false

theorem readsPlain_of {gs : List Seg} {s : State} (h : readsPlain gs s = true) :
    ∃ bs v, Act.pull gs none s = .ok bs v ∧ plain v = true := by
  unfold readsPlain at h
  split at h
  · exact ⟨_, _, by assumption, h⟩
  · cases h

theorem witness_ctxld :
    SuperMode saved ∧ saved.hart.unacked = [] ∧ MasksFree saved ∧ (saved.rx 2).toNat % 4096 = 0 ∧
    ∃ gs gs' bs v, Spans saved (saved.rx 2).toNat 64 .read gs saved ∧ Inside gs ∧ saved.segsPoisoned gs = false ∧
    Act.pull gs none saved = .ok bs v ∧
    headerValid (saved.segNat gs) saved.hart.grant = true ∧ headerValid (regs.segNat gs) regs.hart.grant = false ∧
    Spans v ((saved.rx 2).toNat + 64) (slotSize saved.hart.grant - 64) .read gs' v ∧ Inside gs' ∧
    v.segsPoisoned gs' = false := by
  obtain ⟨bs, v, hr, hv⟩ := readsPlain_of (show readsPlain (pageRun (saved.rx 2).toNat 64) saved = true by decide +kernel)
  exact ⟨base_super, by decide +kernel, masksFree rfl, by decide +kernel, _, _, bs, v, (plain_spans saved_plain .read (by decide +kernel)).1,
    runFrom_inside _ _, plain_clean saved_plain _ _, hr, by decide +kernel, by decide +kernel,
    (plain_spans hv .read (by decide +kernel)).1, runFrom_inside _ _, plain_clean hv _ _⟩

theorem witness_creg :
    (MayRead base 0x011 ∧ ¬ MayRead task 0x011 ∧ MayWrite base 0x001 ∧ ¬ MayWrite task 0x001 ∧ MayRead base 0x071 ∧
      ¬ MayRead base 0x007) ∧ (1 : Reg) ≠ 0 ∧ writeEvent (.vtypeWrite 3) = some (1, 3) ∧
    writeEvent (.controlRegisterWrite 0x25 7) = some (0x25, 7) := by
  unfold MayRead MayWrite
  exact ⟨by decide +kernel, by decide, rfl, rfl⟩

/-- A hart about to execute VSETVL with a grant of 2 pending, and one about to execute MXMODE. -/
def grantDue : State :=
  let s := withWord base 0x78000000
  { s with hart := { s.hart with target := some 2 } }

def mxmodeDue : State := withWord base 0x780000C0

theorem witness_configuration :
    base.hart.target = none ∧ AdmittedType 3 ∧ ¬ AdmittedType 0x008B ∧
    (grantDue.hart.target = some 2 ∧ grantDue.hart.poison = [] ∧ grantDue.hart.ew ≤ 4 ∧
      ∃ s', fetch grantDue = .ok (encodeWord (.vsetvl 0 0), s')) ∧
    ((regs.rx 0).toNat ≤ 8 ∧ 8 < (regs.rx 2).toNat) ∧
    (∃ s', fetch mxmodeDue = .ok (encodeWord (.mxmode 0 0 0), s')) ∧ (mxmodeDue.rx 0).toNat ≤ 8 :=
  ⟨rfl, by unfold AdmittedType; decide, by unfold AdmittedType; decide,
    ⟨rfl, rfl, by decide +kernel, fetch_of (by decide +kernel)⟩, by decide +kernel, fetch_of (by decide +kernel), by decide +kernel⟩

-- launches

/-- A card of pair (0, 5): one hart, one farm, GMIN 1, GPREF 1, an image at 0x10000, a save area at 0x100000, class 1 (R31). -/
def card : Nat := 0x300010000000500000000000000000000000000000000000000000000000000000000000F424000000000000F4240000000000000000900000000001000000000000000000007000000000001000000000000000100010001000100000001

/-- The same card with a misaligned image address. -/
def badCard : Nat := card + 2 ^ 128

/-- The header of that image, as the table of verified images holds it: MAGIC, version, 0x3000 bytes, text of 4,096 bytes from
4,096 on (R26, R29). -/
def header : Nat := 0x101F0000000000000000000000000000000000000000000001000000010000000100000003000000000014B564C45

/-- Hart 0 with a card in memory at virtual address 0x1000 and that image verified; x2 names the card. -/
def withCard (image : List Host.Cell) : State :=
  { regs with
    mem := regs.mem ++ [(0x80001000, 1), (0x80001004, 1), (0x80001006, 1), (0x80001008, 1), (0x8000100A, 1)]
      ++ image ++ [(0x80001012, 1), (0x80001018, 7), (0x80001022, 16),
        (0x80001028, 9), (0x80001030, 64), (0x80001031, 66), (0x80001032, 15),
        (0x80001038, 64), (0x80001039, 66), (0x8000103A, 15), (0x80001058, 5), (0x8000105C, 1), (0x8000105E, 3)]
    lu := { base.lu with bindings := [⟨0, 5, 16, 0⟩], images := [⟨0, 5, 0x10000, 0x3000, header, true, [], 0⟩] } }

def carded : State := withCard []

def badCarded : State := withCard [(0x80001010, 1)]

/-- The state after the card's lines have been read. -/
def cardRead (s : State) : State := s.segRead (pageRun 0x1000 256)

theorem carded_reads {s : State} {c : Nat} (hp : plain s = true) (hc : s.segNat (pageRun 0x1000 256) = c) :
    s.readCard 0x1000 = .ok (c, cardRead s) := by
  unfold State.readCard
  rw [if_neg (by decide)]
  have hs : spanWith (fun s a => s.xlate a .read) (piecesOf 0x1000 256) s = .ok (pageRun 0x1000 256, s) :=
    plain_pieces (fun va hv => plain_xlate hp va .read hv) _ _ _ (by decide)
  have hd : allDevice (pageRun 0x1000 256) = true := by
    simp only [allDevice, List.all_eq_true]
    intro g hg
    obtain ⟨b, _, e⟩ := runFrom_ge hg
    simp [e]
  have h : s.segsPoisoned (pageRun 0x1000 256) = false := plain_clean hp _ _
  rw [hs]
  simp [hd, h, hc, cardRead]

theorem carded_plain : plain (cardRead carded) = true := by decide +kernel

theorem carded_pair : plainPair (cardRead carded) 0 5 = true := by decide +kernel

theorem card_areas : cardAreas card (some header) = [(0x10, 1, 0x10000, 0x3000, .read), (0x20, 2, 0x100000, 163840, .write)] := by
  decide +kernel

theorem card_pair : cardPort card = 0 ∧ cardPasid card = 5 := by decide +kernel

theorem card_image : (cardRead carded).mapped 0 5 0x10000 0x3000 .read = true := plain_mapped carded_plain carded_pair .read (by decide)

theorem card_save : (cardRead carded).mapped 0 5 0x100000 163840 .write = true := plain_mapped carded_plain carded_pair .write (by decide)

theorem card_wellformed : (cardRead carded).malformed (cardRead carded).caller card (some header) = none := by decide +kernel

theorem card_mapped : (cardRead carded).cardUnmapped card (some header) = none := by
  have h1 : ((cardRead carded).bindingOf 0 5).isNone = false := by decide +kernel
  have h2 (j : Nat) : ((cardPre card j).kind == 2) = false := by
    have : bitsAt (recField card 0x5D 1) (2 * j) 2 = 0 := by
      have e : recField card 0x5D 1 = 0 := by decide +kernel
      simp [e, bitsAt]
    simp [cardPre, this]
  unfold State.cardUnmapped
  rw [card_areas, card_pair.1, card_pair.2, if_neg (by rw [h1]; simp)]
  simp only [List.map, card_image, card_save, h2]
  rfl

theorem judge_accepts {s : State} {c h : Nat} {m : Bool} {r : Nat × Nat} (hu : s.cardUnmapped c (some h) = none)
    (h5 : ¬ ((8192 : Int) - ((s.live.map (·.harts)).sum : Nat) < (recField c 0x04 2 : Nat)))
    (h6 : ¬ (((((List.range 4).map s.svc.units.pool).min?.getD 0 : Nat) : Int) - s.reservedKib
      < 8 * recField c 0x08 2 * recField c 0x04 2))
    (hs : s.shareOf (recField c 0x5C 1) (recField c 0x04 2) (recField c 0x40 8)
      (fixedTerms (dataBytes (some h)) (recField c 0x30 8) (budgetPrime (recField c 0x30 8) m)
        (recField c 0x48 8) s.fromStandby) (budgetPrime (recField c 0x30 8) m) = .ok r)
    (hq : s.live = []) (ht : s.lu.thermal = false) (hl : ¬ 0x3FFFFFFF < s.lu.nextLid) :
    s.judge c (some h) m = .ok r := by
  unfold State.judge
  dsimp only
  rw [hu]
  simp only [bind, Except.bind, pure, Except.pure]
  rw [if_neg h5, if_neg h6]
  rw [hs]
  simp [hq, ht, hl]

theorem consider_accepts {s : State} {cl : Caller} {c : Nat} {e : ImageEntry} {r : Nat × Nat} (hb : s.svc.bootStopped = false)
    (h1 : (!(recField c 0x10 8 % 4096 == 0) || !(s.bindingOf (cardPort c) (cardPasid c)).isSome
      || bitsAt (recField c 0x58 4) 21 11 != 0 || (!cl.super && (cardPort c != cl.port || cardPasid c != cl.pasid))
      || s.hostbPage (cardPort c) (cardPasid c) (recField c 0x10 8)) = false)
    (he : s.imageEntry (cardPort c) (cardPasid c) (recField c 0x10 8) = some e)
    (hm : s.malformed cl c (some e.header) = none) (hj : s.judge c (some e.header) e.matrixFree = .ok r) :
    ∃ l, s.consider cl c none = .accepted l := by
  unfold State.consider
  dsimp only
  rw [hb, h1, he]
  dsimp only
  rw [hm]
  dsimp only
  rw [hj]
  exact ⟨_, rfl⟩

theorem card_accepted : ∃ l, (cardRead carded).consider (cardRead carded).caller card none = .accepted l := by
  have hk : (cardRead carded).live = [] ∧ (cardRead carded).lu.thermal = false ∧ ¬ 0x3FFFFFFF < (cardRead carded).lu.nextLid := by decide +kernel
  have ha : (cardRead carded).svc.bootStopped = false ∧
      (cardRead carded).imageEntry (cardPort card) (cardPasid card) (recField card 0x10 8) =
        some ⟨0, 5, 0x10000, 0x3000, header, true, [], 0⟩ := by decide +kernel
  exact consider_accepts (r := (64, 1155954)) ha.1 (by decide +kernel) ha.2 card_wellformed
    (judge_accepts card_mapped (by decide +kernel) (by decide +kernel) (by decide +kernel) hk.1 hk.2.1 hk.2.2)

theorem card_refused : (cardRead badCarded).consider (cardRead badCarded).caller badCard none = .refused 1 0x10 := by
  decide +kernel

/-- A launch of `task` changed. -/
def withJob (f : Launch → Launch) : State := { task with lu := { task.lu with launches := [f job] } }

theorem witness_launch :
    MayLaunch carded ∧ carded.myVerif = none ∧ (regs.rx 3).toNat % 256 ≠ 0 ∧ regs.svc.bootStopped = false ∧
    { carded with svc := { carded.svc with bootStopped := true } }.svc.bootStopped = true ∧ (carded.rx 2).toNat = 0x1000 ∧
    carded.readCard 0x1000 = .ok (card, cardRead carded) ∧
    (∃ l, (cardRead carded).consider (cardRead carded).caller card none = .accepted l) ∧
    badCarded.readCard 0x1000 = .ok (badCard, cardRead badCarded) ∧
    (cardRead badCarded).consider (cardRead badCarded).caller badCard none = .refused 1 0x10 ∧
    ¬ MayLaunch (withJob fun l => { l with lright := false }) := by
  refine ⟨.inl base_super, by decide +kernel, by decide +kernel, by decide +kernel, rfl, by decide +kernel,
    carded_reads (by decide +kernel) (by decide +kernel), card_accepted,
    carded_reads (by decide +kernel) (by decide +kernel), card_refused, ?_⟩
  · rintro (h | ⟨m, hm, hr⟩)
    · exact absurd h (by unfold SuperMode; decide +kernel)
    · have : (withJob fun l => { l with lright := false }).myLaunch = some { job with lright := false } := by decide +kernel
      rw [this] at hm
      cases hm
      cases hr

/-- Hart 16 with launch ids in registers: x1 its own, x2 none, x3 another pair's launch. -/
def seer : State :=
  let s := withJob fun l => { l with lright := false }
  withX { s with lu := { s.lu with launches := s.lu.launches ++ [{ job with lid := 2, pasid := 6 }, { job with lid := 3, state := 8 }] } }
    [(1, 1), (2, 9), (3, 2), (4, 3)]

theorem witness_lstat :
    (IsLaunch seer (seer.rx 1).toNat { job with lright := false } ∧ Sees seer { job with lright := false } ∧
      MayCancel seer (seer.rx 1).toNat ∧ isFinal job.state = false ∧ job.ending = none) ∧
    seer.launch? (seer.rx 2).toNat = none ∧
    (IsLaunch seer (seer.rx 3).toNat { job with lid := 2, pasid := 6 } ∧ ¬ Sees seer { job with lid := 2, pasid := 6 }) ∧
    (IsLaunch seer (seer.rx 4).toNat { job with lid := 3, state := 8 } ∧ ¬ MayCancel seer (seer.rx 4).toNat) ∧
    (let s := { withX base [(4, 3)] with lu := seer.lu }
     IsLaunch s (s.rx 4).toNat { job with lid := 3, state := 8 } ∧ Sees s { job with lid := 3, state := 8 } ∧
       MayCancel s (s.rx 4).toNat ∧ isFinal 8 = true) := by
  have hm : seer.myLaunch = some { job with lright := false } := by decide +kernel
  have ht : ¬ SuperMode seer := by unfold SuperMode; decide +kernel
  unfold IsLaunch
  refine ⟨⟨by decide +kernel, .inr ⟨_, hm, rfl, rfl⟩, .inr (.inl (by decide +kernel)), by decide +kernel, rfl⟩, by decide +kernel,
    ⟨by decide +kernel, ?_⟩, ⟨by decide +kernel, ?_⟩, by decide +kernel, .inl base_super, .inl base_super, by decide +kernel⟩
  · rintro (h | ⟨m, h, _, h'⟩)
    · exact ht h
    · rw [hm] at h
      cases h
      revert h'
      decide +kernel
  · rintro (h | h | ⟨m, h, h'⟩)
    · exact ht h
    · revert h
      decide +kernel
    · rw [hm] at h
      cases h
      cases h'

/-- Hart 0 before a FARM of 10 iterations in strips of 3; its farm has a loop whose strips are given out up to `next`. -/
def farmer (gen next : Nat) (ds : List (Nat × Word)) : State :=
  let s := withX base [(1, 10), (2, 3), (3, 0x40000000), (4, 1), (5, 9), (6, 11)]
  { s with lu := { s.lu with ownFarms := s.lu.ownFarms.setIfInBounds 0 ⟨gen, 10, 3, next, [], 0, 0, none, ds⟩ } }

/-- A hart of a launch of two, with FARM's operands. -/
def farmerOfTwo : State :=
  withX (withJob fun l => { l with harts := 2, hs := l.hs ++ l.hs }) [(1, 10), (2, 3)]

theorem farmer_exists (gen next : Nat) (ds : List (Nat × Word)) : FarmExists (farmer gen next ds) := (by decide : (0 : Nat) < 16)

theorem farmerOfTwo_exists : FarmExists farmerOfTwo := (rfl : ([Farm.empty][0]?).isSome = true)

theorem witness_farm :
    (FarmExists (farmer 0 0 []) ∧ (farmer 0 0 []).hart.unacked = [] ∧
      (farmer 0 0 []).myFarm.gen ≤ (farmer 0 0 []).hart.farmGen ∧
      (farmer 0 0 []).hart.j ∉ (farmer 0 0 []).myFarm.arrived ∧ Agree (farmer 0 0 []).myFarm 10 3 ∧
      LastToArrive (farmer 0 0 []) ∧ (10 + 3 - 1) / 3 ≤ 2 ^ 24 ∧ ((farmer 0 0 []).rx 0).toNat = 0 ∧
      2 ^ 24 < (((farmer 0 0 []).rx 3).toNat + ((farmer 0 0 []).rx 4).toNat - 1) / ((farmer 0 0 []).rx 4).toNat) ∧
    (FarmExists farmerOfTwo ∧ farmerOfTwo.hart.unacked = [] ∧ farmerOfTwo.myFarm.gen ≤ farmerOfTwo.hart.farmGen ∧
      farmerOfTwo.hart.j ∉ farmerOfTwo.myFarm.arrived ∧ Agree farmerOfTwo.myFarm 10 3 ∧ ¬ LastToArrive farmerOfTwo) ∧
    (farmer 0 0 []).myFarm.gen = 0 ∧ ((farmer 1 3 []).myFarm.gen ≠ 0 ∧ (farmer 1 3 []).myFarm.next < (10 + 3 - 1) / 3) ∧
    (farmer 1 4 []).myFarm.gen ≠ 0 ∧ (10 + 3 - 1) / 3 ≤ (farmer 1 4 []).myFarm.next := by
  unfold Agree LastToArrive
  refine ⟨⟨farmer_exists _ _ _, by decide +kernel, by decide +kernel, by decide +kernel, .inl (by decide +kernel),
    by decide +kernel, by decide, by decide +kernel, by decide +kernel⟩, ⟨farmerOfTwo_exists, by decide +kernel,
    by decide +kernel, by decide +kernel, .inl (by decide +kernel), by decide +kernel⟩, by decide +kernel, by decide +kernel,
    by decide +kernel, by decide +kernel⟩

/-- Hart 0 before a FARM whose first arrival named 11 iterations, or 10 in strips of 4. -/
def disagreed (n l : Nat) : State :=
  let s := farmer 0 0 []
  { s with lu := { s.lu with ownFarms := s.lu.ownFarms.setIfInBounds 0 ⟨0, 0, 0, 0, [3], n, l, none, []⟩ } }

theorem witness_farm_traps :
    (((farmer 0 0 []).rx 0).toNat = 0 ∧ Farmable 10 3 ∧ (farmer 0 0 []).hart.unacked = []) ∧
    (FarmExists (disagreed 11 3) ∧ (disagreed 11 3).hart.unacked = [] ∧
      (disagreed 11 3).myFarm.gen ≤ (disagreed 11 3).hart.farmGen ∧ (disagreed 11 3).hart.j ∉ (disagreed 11 3).myFarm.arrived ∧
      (disagreed 11 3).myFarm.arrived ≠ [] ∧ 10 ≠ (disagreed 11 3).myFarm.arrN) ∧
    ((disagreed 10 4).myFarm.arrived ≠ [] ∧ 10 = (disagreed 10 4).myFarm.arrN ∧ 3 ≠ (disagreed 10 4).myFarm.arrL) ∧
    ((farmer 1 4 []).hart.unacked = [] ∧ (farmer 1 4 []).hart.farmGen < (farmer 1 4 []).myFarm.gen ∧
      ((farmer 1 4 []).rx 1).toNat = (farmer 1 4 []).myFarm.n ∧ ((farmer 1 4 []).rx 2).toNat = (farmer 1 4 []).myFarm.l) :=
  ⟨⟨by decide +kernel, by unfold Farmable; decide, by decide +kernel⟩,
    ⟨(by decide : (0 : Nat) < 16), by decide +kernel⟩, by decide +kernel, by decide +kernel⟩

theorem witness_farmred :
    farmredForm (.farmredMin 1 2 5) = some (1, 1, 2, 5) ∧ FarmExists (farmer 1 4 []) ∧
    (farmer 1 4 []).myFarm.gen ≠ 0 ∧ (farmer 1 4 []).myFarm.op = none ∧
    (((farmer 1 4 []).rx 5).toNat < 10 ∧ ((farmer 1 4 []).rx 5).toNat % 3 = 0 ∧
      ∀ p ∈ (farmer 1 4 [(0, 1), (1, 2), (2, 3)]).myFarm.deposits, p.1 ≠ ((farmer 1 4 []).rx 5).toNat / 3) ∧
    (((farmer 1 4 []).rx 1).toNat = 10 ∧ AllDeposited (farmer 1 4 [(0, 1), (1, 2), (3, 4), (2, 3)]).myFarm [1, 2, 3, 4]) ∧
    ((farmer 1 4 []).myFarm.n < ((farmer 1 4 []).rx 6).toNat ∧ ((farmer 1 4 []).rx 4).toNat < 10 ∧
      ((farmer 1 4 []).rx 4).toNat % 3 ≠ 0 ∧
      ∃ p ∈ (farmer 1 4 [(3, 1)]).myFarm.deposits, p.1 = ((farmer 1 4 []).rx 5).toNat / 3) ∧
    ¬ ∃ xs, AllDeposited (farmer 1 4 []).myFarm xs := by
  unfold AllDeposited
  refine ⟨rfl, farmer_exists _ _ _, by decide +kernel, by decide +kernel, ⟨by decide +kernel, by decide +kernel, by decide +kernel⟩,
    ⟨by decide +kernel, by decide +kernel, by decide +kernel⟩, by decide +kernel, ?_⟩
  rintro ⟨xs, hl, h⟩
  have hl' : xs.length = 4 := hl.trans (by decide +kernel)
  have hd : (farmer 1 4 []).myFarm.deposits = [] := by decide +kernel
  have h0 := h 0 (by omega)
  rw [hd, List.getElem?_eq_getElem (by omega)] at h0
  cases h0

/-- The launch is ready to start. -/
def queued : State := withJob fun l => { l with state := 1, hs := [⟨.unplaced, none, 0, 1000000, 0, none, false, 0, false, 0, 0, none⟩] }

theorem witness_start :
    (IsLaunch task 1 job ∧ job.lid = 1 ∧ job.state ≠ 1) ∧
    ∃ l, IsLaunch queued 1 l ∧ l.lid = 1 ∧ l.state = 1 ∧ queued.svc.power = .run ∧ queued.isNext l = true ∧
      (queued.slotOf l 0).isSome = true ∧ 1 ≤ l.harts ∧ (l.hs[0]?).isSome = true ∧ ∃ u, queued.copyData l = .ok u :=
  ⟨⟨by unfold IsLaunch; decide +kernel, rfl, by decide +kernel⟩, _, rfl, rfl, rfl, by decide +kernel, by decide +kernel,
    by decide +kernel, by decide, by decide +kernel, _, rfl⟩

/-- The launch waits for a progress word at 0x2000, and for one in a host's page. -/
def waiting : State := withJob fun l => { l with state := 0, pre := [⟨2, 0x2000, 0, false⟩, ⟨2, 0x80000000, 1, false⟩] }

/-- Hart 0 has a verification under way; a second one has no LAUNCH that waits for it. -/
def verifying : State :=
  { base with
    hart := { base.hart with begun := { Begun.fresh with verif := some 1 } }
    lu := { base.lu with verifs := [⟨1, 0, card, 0, 5, 0x10000, none⟩, ⟨2, 3, card, 0, 5, 0x10000, none⟩] } }

theorem witness_prerequisites :
    ((verifying.lu.verifs.find? fun v => v.hid = 0 ∧ v.outcome.isNone) = some ⟨1, 0, card, 0, 5, 0x10000, none⟩ ∧
      (∃ h ∈ verifying.placed, h.begun.verif = some 1) ∧
      (verifying.lu.verifs.find? fun v => v.hid = 3 ∧ v.outcome.isNone) = some ⟨2, 3, card, 0, 5, 0x10000, none⟩ ∧
      ∀ h ∈ verifying.placed, h.begun.verif ≠ some 2) ∧
    (∃ l p x u, waiting.openPre 1 0 = some (l, p) ∧ waiting.preWord l p = some (x, u) ∧ p.value ≤ x) ∧
    ∃ l p, waiting.openPre 1 1 = some (l, p) ∧ waiting.preWord l p = none :=
  ⟨by decide +kernel, ⟨_, _, _, _, rfl, rfl, Nat.zero_le _⟩, _, _, rfl, by decide +kernel⟩

/-- The hart of the launch is in its supervisor handler for a page fault. -/
def inHandler : State :=
  task.withHart fun h => { h with status := 0x10000, tcause := BitVec.ofNat 64 (2 ^ 63 + 4) }

/-- Faults have cost the hart of the launch a clock more than its allowance. -/
def overspent : State := withJob fun l => { l with hs := l.hs.map fun r => { r with faults := allowance l.bPrime + 1 } }

theorem witness_promises :
    (∃ l, IsLaunch task 1 l ∧ isFinal l.state = false ∧ l.ending ≠ some 13 ∧ l.tmet = some 0 ∧ 0 + l.bound * 4096 ≤ task.clock ∧
      l.state = 2) ∧
    (∃ l h, IsLaunch inHandler 1 l ∧ inHandler.hart? 16 = some h ∧ h.lid = l.lid ∧ l.lid = 1 ∧ l.ending = none ∧ h.super = true ∧
      h.active = true ∧ h.tcause.toNat % 256 ∈ [0x04, 0x05, 0x0C]) ∧
    (∃ l, IsLaunch overspent 1 l ∧ isFinal l.state = false ∧ l.ending ≠ some 13 ∧ l.state = 2 ∧
      overspent.pastAllowance l = true ∧ l.lid = 1) ∧
    ∃ l, IsLaunch (withJob fun l => { l with gmin := 100000 }) 1 l ∧ isFinal l.state = false ∧ l.lid = 1 ∧ l.cls < 4 ∧
      l.state ≠ 0 ∧ ∃ d, d < 4 ∧ (withJob fun l => { l with gmin := 100000 }).svc.units.pool d < 8 * l.gmin * l.harts :=
  ⟨⟨_, rfl, by decide +kernel, by decide, rfl, by decide +kernel, rfl⟩, ⟨_, _, rfl, rfl, by decide +kernel⟩,
    ⟨_, rfl, by decide +kernel⟩, _, rfl, by decide +kernel, rfl, by decide +kernel, by decide +kernel, 3, by decide,
    by decide +kernel⟩

theorem witness_completion :
    (Inv (withJob fun l => { l with state := 8 }) ∧ ∃ l, IsLaunch (withJob fun l => { l with state := 8 }) 1 l ∧ isFinal l.state = true ∧
      l.recordDone = false ∧ (withJob fun l => { l with state := 8 }).working 1 = false ∧ l.complAt = [⟨.dev 0x90000000 false, 64⟩] ∧
      l.state < 256 ∧ l.lid = 1 ∧
      (linesOf 0x90000000 64).any (withJob fun l => { l with state := 8 }).pinned = false) ∧
    ∃ l, IsLaunch (withJob fun l => { l with recordDone := true }) 1 l ∧ l.recordDone = true ∧ l.noticed = false ∧ l.note ≠ 0xFFFF :=
  ⟨⟨task_inv, _, rfl, by decide +kernel, rfl, by decide +kernel, rfl, by decide +kernel, rfl, by decide +kernel⟩, _, rfl, rfl, rfl,
    by decide +kernel⟩

/-- Slots 3 and 5 of port 1 are posted. -/
def posted : State := base.memPut (Config.bar0 1 + 0x4600) (bytesOf 40 8)

theorem posted_elsewhere {port c : Nat} {s : State} (h : cardPort c ≠ port) :
    postedStatus port c s = (refusedWord 0x0B 0, s) := by
  unfold postedStatus
  exact if_pos h

theorem witness_posted :
    Inv posted ∧ (posted.postmap 1).testBit 5 = true ∧ posted.postmap 1 % 2 ^ 5 ≠ 0 ∧ (posted.postmap 1).testBit 3 = true ∧
    posted.postmap 1 % 2 ^ 3 = 0 ∧ posted.postmap 0 = 0 ∧ (∀ k, posted.linePoisoned k = false) ∧
    (let s1 := posted.memPut (Config.bar0 1 + 0x4600) (bytesOf (posted.postmap 1 - 2 ^ 3) 8)
     ∃ w, postedStatus 1 (s1.memNat (Config.bar0 1 + 256 * 3) 256) s1 = (w, s1)) ∧
    posted.memNat (Config.bar0 1 + 0x4608) 2 ≠ 0xFFFF := by
  refine ⟨inv_of (by decide +kernel), by decide +kernel, by decide +kernel, by decide +kernel, by decide +kernel,
    by decide +kernel, fun k => ?_, ?_, by decide +kernel⟩
  · have h : posted.coh.poison = [] ∧ posted.coh.taint = [] := by unfold posted State.memPut; exact ⟨rfl, rfl⟩
    simp [State.linePoisoned, Coherence.bad, h]
  exact ⟨refusedWord 0x0B 0, posted_elsewhere (by decide +kernel)⟩

/-- The acting hart of `task` changed. -/
def withHart16 (f : Hart → Hart) : State := task.withHart f

/-- A hart whose instruction waits for a device. -/
def atDevice : State :=
  { withHart16 fun h => { h with stop := some .preempt, waitTag := some 0 } with
    targets := [⟨0, 16, false, false, false, .io (2 ^ 51), 5, false, true⟩] }

theorem witness_stop :
    (∃ h, (withHart16 fun h => { h with stop := some .preempt }).hart? 16 = some h ∧ h.stop = some .preempt ∧ h.run ≠ .swap ∧
      (withHart16 fun h => { h with stop := some .preempt }).midway h = false ∧
      StopsNow (withHart16 fun h => { h with stop := some .preempt }) h) ∧
    (∃ h, (withHart16 fun h => { h with stop := some .ended }).hart? 16 = some h ∧ h.stop = some .ended ∧
      (withHart16 fun h => { h with stop := some .ended }).midway h = false ∧
      StopsNow (withHart16 fun h => { h with stop := some .ended }) h) ∧
    (∃ h, task.hart? 16 = some h ∧ h.stop = none) ∧ ∃ h, atDevice.hart? 16 = some h ∧ atDevice.midway h = true :=
  ⟨⟨_, rfl, by decide +kernel, by decide +kernel, by decide +kernel, .inr (by decide +kernel)⟩,
    ⟨_, rfl, rfl, by decide +kernel, .inr (by decide +kernel)⟩, ⟨_, rfl, rfl⟩, _, rfl, by decide +kernel⟩

/-- Hart 16 is held for saving; its save area lies at `save`. -/
def saving (save : Nat) : State := (withJob fun l => { l with save := save }).withHart fun h => { h with run := .swap }

theorem saving_fails : (saving 0x10000000000).spanPair 0 5 0x10000000000 (slotSize 1) .write = .error (5, 0x10000000000) := by
  have h : ∀ r : Except (Nat × Nat) (List Seg × State),
      (match r with | .ok _ => false | .error e => e == (5, 0x10000000000)) = true → r = .error (5, 0x10000000000) := by
    rintro (e | x) h
    · rw [eq_of_beq h]
    · cases h
  exact h _ (by decide +kernel)

theorem witness_save :
    (∃ h l, (saving 0x100000).hart? 16 = some h ∧ IsLaunch (saving 0x100000) h.lid l ∧ h.run = .swap ∧
      (h.arriving = false ∧ h.stop ≠ some .ended) ∧ ((saving 0x100000).performed h.unacked = true ∧ h.begun.stored = 0) ∧
      Inv (saving 0x100000) ∧ h.poison = [] ∧
      ∃ gs, (saving 0x100000).spanPair l.port l.pasid (l.slotOf h.j) (slotSize h.grant) .write = .ok (gs, saving 0x100000) ∧
        Inside gs ∧ Apart gs) ∧
    ∃ h l, (saving 0x10000000000).hart? 16 = some h ∧ IsLaunch (saving 0x10000000000) h.lid l ∧ h.run = .swap ∧
      (h.arriving = false ∧ h.stop ≠ some .ended) ∧ ((saving 0x10000000000).performed h.unacked = true ∧ h.begun.stored = 0) ∧
      isFinal l.state = false ∧ l.ending = none ∧
      (saving 0x10000000000).spanPair l.port l.pasid (l.slotOf h.j) (slotSize h.grant) .write = .error (5, 0x10000000000) :=
  ⟨⟨_, _, rfl, rfl, rfl, by decide +kernel, by decide +kernel, inv_of (by decide +kernel), rfl, _,
    plain_pairSpans (by decide +kernel) (by decide +kernel) .write (by decide +kernel), runFrom_inside _ _, runFrom_apart _ _⟩,
    _, _, rfl, rfl, rfl, by decide +kernel, by decide +kernel, by decide +kernel, rfl, saving_fails⟩

/-- The low fields of a number's bytes are those of its first bytes. -/
theorem natOfBytes_append (a b : List Byte) : natOfBytes (a ++ b) = natOfBytes a + 2 ^ (8 * a.length) * natOfBytes b := by
  induction a with
  | nil => simp [natOfBytes]
  | cons x a ih =>
    simp only [List.cons_append, natOfBytes, ih, List.length_cons, Nat.mul_add, Nat.pow_add]
    ring

theorem bitsAt_low {a b k lo n : Nat} (h : lo + n ≤ k) : bitsAt (a + 2 ^ k * b) lo n = bitsAt a lo n := by
  unfold bitsAt
  obtain ⟨m, rfl⟩ := Nat.exists_eq_add_of_le h
  have : a + 2 ^ (lo + n + m) * b = a + 2 ^ lo * (2 ^ n * (2 ^ m * b)) := by ring
  rw [this, Nat.add_mul_div_left _ _ (Nat.two_pow_pos lo), Nat.add_mul_mod_self_left]

/-- Only the first line of a save slot decides whether its header is valid and names a hart. -/
theorem header_low (a b : List Byte) (g lid j : Nat) (h : a.length = 128) :
    (headerValid (natOfBytes (a ++ b)) g && headerNames (natOfBytes (a ++ b)) lid j) =
      (headerValid (natOfBytes a) g && headerNames (natOfBytes a) lid j) := by
  unfold headerValid headerNames
  rw [natOfBytes_append, h]
  rw [bitsAt_low (by decide), bitsAt_low (by decide), bitsAt_low (by decide), bitsAt_low (by decide), bitsAt_low (by decide),
    bitsAt_low (by decide)]

/-- Hart 0 of the launch is saved in a slot whose header, when `ok`, is valid and names it. -/
def restoring (ok : Bool) : State :=
  let s := withJob fun l => { l with hs := [⟨.saved, some 1, 1, 1000000, 0, none, false, 0, false, 0, 0, none⟩] }
  { s with
    hart := base.hart
    parked := base.parked
    mem := if ok then s.mem ++ [(0x80100000, 0x53), (0x80100001, 0x43), (0x80100002, 0x58), (0x80100003, 0x54), (0x80100004, 1),
      (0x80100006, 1), (0x80100008, 1), (0x80100010, 1)] else s.mem }

theorem restoring_plain (ok : Bool) : plain (restoring ok) = true := by cases ok <;> decide +kernel

theorem restoring_good (ok : Bool) :
    (!(restoring ok).segsPoisoned (pageRun 0x100000 (slotSize 1)) &&
      headerValid ((restoring ok).segNat (pageRun 0x100000 (slotSize 1))) 1 &&
      headerNames ((restoring ok).segNat (pageRun 0x100000 (slotSize 1))) 1 0) = ok := by
  have h : pageRun 0x100000 (slotSize 1) = ⟨.dev 0x80100000 false, 128⟩ :: runFrom 0x80100080 ((pieces 1281 0x100080 163712).map (·.2)) :=
    rfl
  have hp : (restoring ok).segsPoisoned (pageRun 0x100000 (slotSize 1)) = false := plain_clean (restoring_plain ok) _ _
  rw [hp, h]
  simp only [State.segNat, State.segBytes, List.map_cons, List.flatten_cons, Bool.not_false, Bool.true_and]
  rw [header_low _ _ _ _ _ rfl]
  cases ok <;> decide +kernel

theorem witness_restore (ok : Bool) : ∃ l r gs hdr, IsLaunch (restoring ok) 1 l ∧ l.lid = 1 ∧ l.hs[0]? = some r ∧ l.state = 2 ∧
    l.ending = none ∧ (restoring ok).svc.power = .run ∧ r.pos = .saved ∧ (restoring ok).slotOf l 0 = some 16 ∧
    r.lostGrant = false ∧
    (restoring ok).spanPair l.port l.pasid (l.slotOf 0) (slotSize r.grant) .read = .ok (gs, restoring ok) ∧
    (restoring ok).spanPair l.port l.pasid (l.slotOf 0) 32 .write = .ok (hdr, restoring ok) ∧
    (!(restoring ok).segsPoisoned gs && headerValid ((restoring ok).segNat gs) r.grant && headerNames ((restoring ok).segNat gs) 1 0)
      = ok := by
  refine ⟨_, _, _, _, rfl, rfl, rfl, rfl, rfl, rfl, rfl, ?_, rfl, plain_pairSpans (restoring_plain ok) ?_ .read (by decide),
    plain_pairSpans (restoring_plain ok) ?_ .write (by decide), restoring_good ok⟩ <;> cases ok <;> decide +kernel

theorem witness_held :
    (atDevice.midway atDevice.hart = true ∧ base.midway base.hart = false ∧ base.hart.run ≠ .swap ∧ base.hart.stop = none) ∧
    taskActive.hart.active = true ∧ base.hart.active = false ∧
    (∃ h : Hart, h.active = false ∧ h.heldRefusal = some 5) ∧
    (∃ h : Hart, h.active = false ∧ h.heldRefusal = none ∧ h.heldBudget = some 0) ∧
    (∃ h : Hart, h.active = false ∧ h.heldRefusal = none ∧ h.heldBudget = none ∧ h.heldMember = some 7) ∧
    (base.hart.heldRefusal = none ∧ base.hart.heldBudget = none ∧ base.hart.heldMember = none) :=
  ⟨by decide +kernel, by decide +kernel, by decide +kernel, ⟨{ base.hart with heldRefusal := some 5 }, by decide +kernel, rfl⟩,
    ⟨{ base.hart with heldBudget := some 0 }, by decide +kernel, rfl, rfl⟩,
    ⟨{ base.hart with heldMember := some 7 }, by decide +kernel, rfl, rfl, rfl⟩, rfl, rfl, rfl⟩

theorem witness_budget :
    (∃ h l, task.hart? 16 = some h ∧ IsLaunch task h.lid l ∧ h.stop = none ∧ task.budgetLeft h = 0 ∧ h.spent = false ∧
      h.arriving = false ∧ task.mayPreempt h = false) ∧
    (∃ h l, (withJob fun l => { l with cls := 3 }).hart? 16 = some h ∧ IsLaunch (withJob fun l => { l with cls := 3 }) h.lid l ∧
      h.stop = none ∧ (withJob fun l => { l with cls := 3 }).mayPreempt h = true) ∧
    ∃ h l, (withHart16 fun h => { h with grace := some 0 }).hart? 16 = some h ∧
      IsLaunch (withHart16 fun h => { h with grace := some 0 }) h.lid l ∧ h.stop = none ∧ h.grace = some 0 ∧ 0 ≤ task.clock ∧
      isFinal l.state = false ∧ l.ending = none :=
  ⟨⟨_, _, rfl, rfl, by decide +kernel⟩, ⟨_, _, rfl, rfl, rfl, by decide +kernel⟩, _, _, rfl, rfl, rfl, rfl, by decide,
    by decide +kernel, rfl⟩

-- vectors

/-- Hart 0 with VL 2 and elements in v1 and v2: 3 and 4, 1.0 and 2.0; mask 1 holds element 0. -/
def vec : State :=
  base.withHart fun h => { h with
    vl := 2
    v := (h.v.setIfInBounds 1 (3 + 4 * 2 ^ 64)).setIfInBounds 2 (0x3FF0000000000000 + 0x4000000000000000 * 2 ^ 64)
    k := h.k.setIfInBounds 1 1
    x := h.x.setIfInBounds 5 7 }

theorem vec_undisturbed : Undisturbed vec := ⟨rfl, rfl, rfl⟩

theorem vec_fits : VlFits vec vec.hart.cfg := ⟨by decide +kernel, by decide +kernel⟩

theorem vec_active : Active vec 1 0 ∧ Active vec 0 1 ∧ ¬ Active vec 1 1 ∧ ¬ Active vec 0 2 := by
  unfold Active
  decide +kernel

theorem witness_lanes :
    (∃ L, intLane (.vsub 3 1 2 0 0 1) = some L ∧ L.d.toNat % vec.hart.cfg.gm = 0 ∧ L.a.toNat % vec.hart.cfg.gm = 0 ∧
      operandOk vec L.o) ∧
    (∃ L, floatLane vec (.vfadd 3 2 2 0 0 1) = some L ∧ L.ok ∧ VlFits vec L.c) ∧
    (∃ L, narrowLane vec (.vmvVx 3 5 0) = some L ∧ L.ok ∧ VlFits vec L.c ∧ ∀ m ∈ L.masks, vec.maskBusy m.toNat = false) ∧
    (∃ L, narrowLane vec (.vdqntS1 3 1 4 0 0) = some L ∧ L.ok ∧ VlFits vec L.c ∧ ∀ m ∈ L.masks, vec.maskBusy m.toNat = false) ∧
    (∃ L, bitLane vec (.vcmplt 2 1 2 0 0 1) = some L ∧ L.ok ∧ vec.hart.vl ≤ 65536 ∧ ∀ m ∈ L.masks, vec.maskBusy m.toNat = false) ∧
    vec.maskBusy 1 = false ∧ (vec.hart.smiss = 0 ∧ ∀ n, 0 < 2 ^ n) :=
  ⟨⟨_, rfl, by decide +kernel, by decide +kernel, by show (2 : Reg).toNat % vec.hart.cfg.gm = 0; decide +kernel⟩,
    ⟨_, rfl, ⟨by decide +kernel, by decide +kernel, by show (2 : Reg).toNat % vec.hart.cfg.gm = 0; decide +kernel,
      by decide +kernel⟩, vec_fits⟩,
    ⟨_, rfl, (by decide +kernel : (3 : Reg).toNat % vec.hart.cfg.gm = 0), vec_fits, by simp⟩,
    ⟨_, rfl, ⟨by decide +kernel, by decide +kernel, by decide +kernel⟩, vec_fits, by simp; decide +kernel⟩,
    ⟨_, rfl, ⟨by decide +kernel, by show (2 : Reg).toNat % vec.hart.cfg.gm = 0; decide +kernel⟩, by decide +kernel,
      by simp; decide +kernel⟩, by decide +kernel, by decide +kernel, Nat.two_pow_pos⟩

theorem witness_kfirst :
    (Active vec 0 0 ∧ vec.hart.maskBit 1 0 = true ∧ ∀ j, j < 0 → Active vec 0 j → vec.hart.maskBit 1 j = false) ∧
    ∀ i, Active vec 0 i → vec.hart.maskBit 2 i = false := by
  have h2 : vec.hart.kreg 2 = 0 := by decide +kernel
  refine ⟨⟨by unfold Active; decide +kernel, by decide +kernel, fun j h => absurd h (by omega)⟩, fun i _ => ?_⟩
  unfold Hart.maskBit
  rw [h2]
  simp

theorem witness_permutations :
    (∃ P, permOf vec (.vslideup 3 1 5 0 0) = some P ∧ P.ok ∧ ∀ m ∈ P.masks, vec.maskBusy m.toNat = false) ∧
    ∃ P, permOf vec (.vcompress 3 1 1 0) = some P ∧ P.ok ∧ ∀ m ∈ P.masks, vec.maskBusy m.toNat = false :=
  ⟨⟨_, rfl, ⟨by decide +kernel, by simp; decide +kernel⟩, by simp⟩,
    _, rfl, ⟨⟨by decide +kernel, by simp; decide +kernel⟩, by decide +kernel⟩, by simp; decide +kernel⟩

theorem reductions_apply :
    (2 : Reg).toNat % vec.hart.cfg.gm = 0 ∧ vec.hart.floatRow = true ∧ activeList vec 1 = [0] ∧ activeList vec 2 = [] ∧
      vec.hart.ew = 3 := by decide +kernel

theorem witness_reductions :
    (∃ R, foldOf (.vredsum 3 1 5 0 1) = some R ∧ R.a.toNat % vec.hart.cfg.gm = 0) ∧
    (floatFold vec (.vfredsum 3 2 5 0 1)).isSome = true ∧ (2 : Reg).toNat % vec.hart.cfg.gm = 0 ∧ vec.hart.floatRow = true ∧
    activeList vec 1 = [0] ∧ activeList vec 2 = [] ∧ vec.hart.ew = 3 ∧
    [f64.unpack 0x3FF0000000000000, .nan false].Perm [.nan false, f64.unpack 0x3FF0000000000000] :=
  ⟨⟨_, rfl, by decide +kernel⟩, rfl, reductions_apply.1, reductions_apply.2.1, reductions_apply.2.2.1, reductions_apply.2.2.2.1,
    reductions_apply.2.2.2.2, List.Perm.swap _ _ _⟩

theorem witness_quantisation :
    vec.hart.floatRow = true ∧ vec.hart.vstart = 0 ∧ narrowOk vec.hart 5 8 3 vec.hart.cfg.w = true ∧
    overlaps (4 : Reg).toNat 1 (5 : Reg).toNat (vec.hart.narrow 8 vec.hart.cfg.w).gm = false ∧
    overlaps (4 : Reg).toNat 1 (3 : Reg).toNat vec.hart.cfg.gm = false ∧ 1 ≤ vec.hart.grant ∧
    (∀ i, i < 2 → ∃ g, vec.hart.ffmt.unpack (vec.hart.el 3 i) = .fin g 0 vec.hart.ffmt.emin) ∧
    (3 : Reg).toNat % vec.hart.cfg.gm = 0 ∧ vec.maskBusy 2 = false ∧ (vec.hart.ffmt.unpack (vec.hart.el 2 1)).isNan = false := by
  have h (i : Nat) (hi : i < 2) : vec.hart.ffmt.unpack (vec.hart.el 3 i) = .fin false 0 vec.hart.ffmt.emin := by
    have : i = 0 ∨ i = 1 := by omega
    rcases this with rfl | rfl <;> decide +kernel
  have all : vec.hart.floatRow = true ∧ vec.hart.vstart = 0 ∧ narrowOk vec.hart 5 8 3 vec.hart.cfg.w = true ∧
      overlaps (4 : Reg).toNat 1 (5 : Reg).toNat (vec.hart.narrow 8 vec.hart.cfg.w).gm = false ∧
      overlaps (4 : Reg).toNat 1 (3 : Reg).toNat vec.hart.cfg.gm = false ∧ 1 ≤ vec.hart.grant := by decide +kernel
  obtain ⟨row, start, ok, apart, apart', granted⟩ := all
  exact ⟨row, start, ok, apart, apart', granted, fun i hi => ⟨false, h i hi⟩, by decide +kernel⟩

/-- `vec` with element 1 of v1 poisoned, and with a gauge mismatch reported at element 1. -/
def poisoned : State := vec.withHart fun h => { h with poison := [⟨0, 1, 1⟩] }

def mismatched : State := vec.withHart fun h => { h with gauge := some (.mismatch 1) }

/-- A hart with two granules of 8-bit elements, whose next instruction adds them and of which a stop is requested. -/
def shortened : State :=
  let s := withWord base (encodeWord (.vadd 3 1 2 0 0 0)).toNat
  s.withHart fun h => { h with grant := 2, vtype := 128, vl := 1100, fbuf := 1, stop := some .preempt }

/-- Where the stop falls is a free value (R144): after one granule, it cuts the instruction at element 1,024. -/
theorem shortened_cut (h : Config.stopGranules shortened.draw = 1) : shortened.cutOf shortened.hart = some 1024 := by
  have hw : shortened.wordNext shortened.hart = some (encodeWord (.vadd 3 1 2 0 0 0)) := by decide +kernel
  unfold State.cutOf
  rw [h, hw]
  decide +kernel

theorem witness_stops :
    (poisoned.hart.gauge = none ∧ poisoned.hart.cut = none ∧ VlFits poisoned poisoned.hart.cfg ∧ SuperMode poisoned ∧
      ∃ tv, poisoned.hart.firstPoison 0 (.vec poisoned.hart.cfg (1 : Reg).toNat :: (Opnd.v 2).srcs poisoned.hart.cfg) = some (1, tv)) ∧
    (mismatched.hart.poison = [] ∧ mismatched.hart.cut = none ∧ mismatched.hart.gauge = some (.mismatch 1) ∧
      Active mismatched 0 1 ∧ VlFits mismatched mismatched.hart.cfg ∧ SuperMode mismatched) ∧
    (shortened.hart.poison = [] ∧ shortened.hart.gauge = none ∧ shortened.hart.cut = none ∧ shortened.hart.stop ≠ none ∧
      shortened.midway shortened.hart = false ∧ VlFits shortened shortened.hart.cfg ∧ (3 : Reg).toNat % shortened.hart.cfg.gm = 0 ∧
      (Config.stopGranules shortened.draw = 1 → shortened.cutOf shortened.hart = some 1024)) :=
  ⟨⟨rfl, rfl, vec_fits, base_super, _, rfl⟩, ⟨rfl, rfl, rfl, vec_active.2.1, vec_fits, base_super⟩,
    rfl, rfl, rfl, by decide, by decide +kernel, by unfold VlFits; decide +kernel, by decide +kernel, shortened_cut⟩

-- tiles and accesses by vectors

theorem plain_readable {s : State} (hp : plain s = true) (b n : Nat) (sy : Bool) : Readable s (.dev b sy) n := by
  have hp := plain_is hp
  exact ⟨rfl, by simp [State.poisonedAt, hp.clean]⟩

/-- The places of an access's elements in the first page. -/
def placesOf (A : VAcc) (i : Nat) : Loc := .dev (2 ^ 31 + A.addr i) false

theorem plain_allMapped {s : State} (hp : plain s = true) (ho : s.ops = []) (A : VAcc) (acc : Access)
    (h : ∀ i, i < s.hart.vl → A.addr i % A.eb = 0 ∧ A.addr i < 2 ^ 30) : AllMapped s A acc (placesOf A) :=
  fun i hi => ⟨(h i hi.2.1).1, plain_mapped' hp ho _ acc (h i hi.2.1).2⟩

theorem places_inMemory (s : State) (A : VAcc) : InMemory s A (placesOf A) := fun _ _ => ⟨rfl, trivial⟩

/-- `vec` with addresses: x1 and x3 aligned, x4 misaligned, x2 = 8; v3 holds the indices 0 and 1, v5 the index 0 twice; the shape of
tiles is 2 by 2; watermark 1 is bound to the word 0x3000, with BASE 0, and watermark 2 to the same word with BASE 1. -/
def acc : State :=
  (withX vec [(1, 0x1000), (2, 8), (3, 0x2000), (4, 0x1004), (6, 0x3003)]).withHart fun h => { h with
    v := h.v.setIfInBounds 3 (2 ^ 64)
    mrows := 2
    mcols := 2
    ifmt := 6
    wmb := ((h.wmb.setIfInBounds 1 ⟨0x3000, 2⟩).setIfInBounds 2 ⟨0x3000, 2⟩)
    wm := h.wm.setIfInBounds 2 1 }

theorem acc_plain : plain acc = true := by decide +kernel

theorem acc_inv : Inv acc := base_inv

theorem acc_unhindered : Unhindered acc := ⟨rfl, rfl, vec_fits, rfl, ⟨rfl, rfl⟩, rfl⟩

theorem acc_unmetered : Unmetered acc := by
  intro l hl
  have : acc.myLaunch = none := by decide +kernel
  rw [this] at hl
  cases hl

theorem acc_granule : OneGranule acc := by
  unfold OneGranule
  decide +kernel

/-- The tables of the first page lie below 2^31, so no byte from there on takes part in a translation. -/
theorem plain_stays {s : State} (hp : plain s = true) (ho : s.ops = []) {touched : Loc → Prop}
    (ht : ∀ p, touched p → ∃ b sy, p = .dev b sy ∧ 2 ^ 31 ≤ b) (va : Nat) (a : Access) (h : va < 2 ^ 30) :
    StaysMapped s touched va a (.dev (2 ^ 31 + va) false) := by
  intro m r c u hu hc _
  have hm (k : Nat) (hk : k + 8 ≤ 2 ^ 31) : u.memNat k 8 = s.memNat k 8 := by
    unfold State.memNat cellsGet
    congr 1
    refine List.map_congr_left fun i hi => ?_
    refine hu (.dev (k + i) false) rfl fun hk' => ?_
    obtain ⟨b, sy, e, hb⟩ := ht _ hk'
    injection e with e
    have := List.mem_range.mp hi
    omega
  have hq : plain u = true := by
    unfold plain at hp ⊢
    rw [hm _ (by decide), hm _ (by decide), hm _ (by decide)]
    simp only [Bool.and_eq_true, List.isEmpty_iff] at hp ⊢
    exact ⟨⟨⟨⟨⟨⟨⟨⟨⟨⟨⟨⟨hp.1.1.1.1.1.1.1.1.1.1.1.1, hp.1.1.1.1.1.1.1.1.1.1.1.2⟩, hp.1.1.1.1.1.1.1.1.1.1.2⟩, hc.2⟩,
      hp.1.1.1.1.1.1.1.1.2⟩, hp.1.1.1.1.1.1.1.2⟩, hp.1.1.1.1.1.1.2⟩, hp.1.1.1.1.1.2⟩, hp.1.1.1.1.2⟩, hc.1⟩, hp.1.1.2⟩, hp.1.2⟩, hp.2⟩
  exact plain_mapped' hq ho va a h

theorem acc_backed (b : Nat) : Backed acc (.dev b false) := trivial

theorem witness_tiles :
    outerOf (.mxops 3 1 2 0 0 1) = some (true, 3, 1, 2, 1) ∧ HasArray acc 3 ∧ Undisturbed acc ∧ ShapeFits acc ∧ acc.hart.ifmt ≤ 8 ∧
    (∃ m, tileMove (.mxcol 4 3 0) = some m) ∧ InBudget acc ∧ tileAccess (.mxstCm 1 1 2) = some (false, true, 1, 1, 2) ∧
    (∃ loc, TileMapped acc true 1 2 .write loc ∧ (∀ r c, stored (loc r c) = true ∧ Backed acc (loc r c)) ∧
      ∀ r c r' c', r < 2 ∧ c < 2 → r' < 2 ∧ c' < 2 → (r, c) ≠ (r', c') →
        ∀ p, within (loc r c) 4 p = true → within (loc r' c') 4 p = false) ∧
    (∃ loc, TileMapped acc false 1 2 .read loc ∧ ∀ r c, Readable acc (loc r c) 4) ∧ acc.hart.aw / 8 = 4 ∧ tileCells vec = [] ∧
    (let s := { base with svc := { base.svc with units := { base.svc.units with
        arraysOut := ((List.range 64).map fun n => ⟨2, n, 0, 255⟩) } } }
     ¬ HasArray s 2 ∧ tileUsed (.mxrow 1 2 0) = some 2) := by
  have addr : ∀ cm r c, r < 2 → c < 2 → tilePlaceAddr acc cm 1 2 r c =
      0x1000 + (if cm then c else r) * 8 + (if cm then r else c) * 4 := by
    intro cm r c hr hc
    have hr' : r = 0 ∨ r = 1 := by omega
    have hc' : c = 0 ∨ c = 1 := by omega
    rcases hr' with rfl | rfl <;> rcases hc' with rfl | rfl <;> cases cm <;> decide +kernel
  have map : ∀ (cm : Bool) ac r c, r < 2 → c < 2 → Claims.Mapped acc (tilePlaceAddr acc cm 1 2 r c) ac
      (.dev (2 ^ 31 + (0x1000 + (if cm then c else r) * 8 + (if cm then r else c) * 4)) false) := by
    intro cm ac r c hr hc
    rw [addr cm r c hr hc]
    refine plain_mapped' acc_plain rfl _ ac ?_
    cases cm <;> simp <;> omega
  refine ⟨rfl, by unfold HasArray; decide +kernel, ⟨rfl, rfl, rfl⟩, ⟨by decide +kernel, by decide +kernel⟩, by decide +kernel, ⟨_, rfl⟩,
    inBudget_none (by decide +kernel), rfl, ⟨_, ⟨by decide +kernel, by decide +kernel, fun r c => map true .write r c⟩,
      fun r c => ⟨rfl, trivial⟩, ?_⟩, ⟨_, ⟨by decide +kernel, by decide +kernel, fun r c => map false .read r c⟩,
      fun r c => plain_readable acc_plain _ _ _⟩, by decide +kernel, by decide +kernel, by unfold HasArray; decide +kernel, rfl⟩
  rintro r c r' c' ⟨hr, hc⟩ ⟨hr', hc'⟩ hne p hp
  cases p with
  | dev b sy =>
    simp only [within, Bool.and_eq_true, decide_eq_true_eq, if_true] at hp
    simp only [within, Bool.and_eq_false_iff, decide_eq_false_iff_not, if_true]
    simp only [ne_eq, Prod.mk.injEq] at hne
    omega
  | _ => simp [within] at hp

theorem acc_strided (d : Reg) (g : Num3) : (strided acc d 1 0 g 3).ok acc ∧ ∀ i, i < acc.hart.vl →
    (strided acc d 1 0 g 3).addr i % 8 = 0 ∧ (strided acc d 1 0 g 3).addr i < 2 ^ 30 := by
  refine ⟨⟨by show (3 : Num3).toNat < 4; decide, (by decide +kernel : acc.hart.ew = (3 : Num3).toNat), ?_, fun v h => by cases h⟩,
    fun i hi => ?_⟩
  · have : acc.hart.cfg.gm = 1 := by decide +kernel
    show d.toNat % acc.hart.cfg.gm = 0
    rw [this, Nat.mod_one]
  · have : i = 0 ∨ i = 1 := by
      have : acc.hart.vl = 2 := by decide +kernel
      omega
    show (strided acc 0 1 0 0 3).addr i % 8 = 0 ∧ (strided acc 0 1 0 0 3).addr i < 2 ^ 30
    rcases this with rfl | rfl <;> decide +kernel

theorem acc_indexed (d : Reg) (g : Num3) : (indexed acc d 1 3 g 3).ok acc ∧ ∀ i, i < acc.hart.vl →
    (indexed acc d 1 3 g 3).addr i % 8 = 0 ∧ (indexed acc d 1 3 g 3).addr i < 2 ^ 30 := by
  have gm : acc.hart.cfg.gm = 1 := by decide +kernel
  refine ⟨⟨by show (3 : Num3).toNat < 4; decide, (by decide +kernel : acc.hart.ew = (3 : Num3).toNat), ?_, fun v h => ?_⟩,
    fun i hi => ?_⟩
  · show d.toNat % acc.hart.cfg.gm = 0
    rw [gm, Nat.mod_one]
  · rw [gm, Nat.mod_one]
  · have : i = 0 ∨ i = 1 := by
      have : acc.hart.vl = 2 := by decide +kernel
      omega
    show (indexed acc 0 1 3 0 3).addr i % 8 = 0 ∧ (indexed acc 0 1 3 0 3).addr i < 2 ^ 30
    rcases this with rfl | rfl <;> decide +kernel

theorem witness_loads :
    (∃ (A : VAcc) (loc : Nat → Loc), loadOf acc (.vld 4 1 0 0 3) = some (A, false, false) ∧ A.ok acc ∧ Unhindered acc ∧ BudgetAllows acc ∧
      AllMapped acc A .read loc ∧ ∀ i, Readable acc (loc i) A.eb) ∧
    (∃ (A : VAcc) (loc : Nat → Loc), loadOf acc (.vldxDup 4 1 3 0 0 3) = some (A, false, true) ∧ A.ok acc ∧ AllMapped acc A .read loc ∧
      (∀ i, Readable acc (loc i) A.eb) ∧ acc.maskBusy 0 = false ∧ A.idx ≠ some A.d) ∧
    (∃ (A : VAcc) (loc : Nat → Loc) (i : Nat), loadOf acc (.vldAcqDie 4 1 0 0 3) = some (A, true, false) ∧ AllMapped acc A .read loc ∧ ¬ Misses acc A.d (loc i) i) ∧
    Misses acc 4 (.dev (2 ^ 37) true) 0 :=
  ⟨⟨_, _, rfl, (acc_strided _ _).1, acc_unhindered, .inl acc_unmetered, plain_allMapped acc_plain rfl _ .read (acc_strided _ _).2,
      fun i => plain_readable acc_plain _ _ _⟩,
    ⟨_, _, rfl, (acc_indexed _ _).1, plain_allMapped acc_plain rfl _ .read (acc_indexed _ _).2,
      fun i => plain_readable acc_plain _ _ _, by decide +kernel, (by show some (3 : Reg) ≠ some 4; decide)⟩,
    ⟨_, _, 0, rfl, plain_allMapped acc_plain rfl _ .read (acc_strided _ _).2, id⟩,
    by show 2 ^ 37 / 2 ^ 37 ≠ ((4 : Reg).toNat + 0 / acc.hart.cfg.per) % 4; decide +kernel⟩

/-- Element 1 of a load with a stride of 4 bytes is misaligned. -/
def crooked : State := withX acc [(2, 4)]

theorem witness_bad_element :
    ∃ (A : VAcc) (loc : Nat → Loc), loadOf crooked (.vld 4 1 2 0 3) = some (A, false, false) ∧ A.ok crooked ∧ Unhindered crooked ∧ BudgetAllows crooked ∧
      SuperMode crooked ∧ Active crooked A.g 1 ∧ A.addr 1 % A.eb ≠ 0 ∧
      ∀ i, Active crooked A.g i → i < 1 →
        A.addr i % A.eb = 0 ∧ Claims.Mapped crooked (A.addr i) .read (loc i) ∧ Readable crooked (loc i) A.eb := by
  have hp : plain crooked = true := by decide +kernel
  refine ⟨_, placesOf (strided crooked 4 1 2 0 3), rfl, ⟨by decide, by decide +kernel, by decide +kernel, fun v h => by cases h⟩,
    ⟨rfl, rfl, vec_fits, rfl, ⟨rfl, rfl⟩, rfl⟩, .inl ?_, base_super, by unfold Active; decide +kernel, by decide +kernel, fun i _ hi => ?_⟩
  · intro l hl
    have : crooked.myLaunch = none := by decide +kernel
    rw [this] at hl
    cases hl
  · have : i = 0 := by omega
    subst this
    exact ⟨by decide +kernel, plain_mapped' hp rfl _ .read (by decide +kernel), plain_readable hp _ _ _⟩

theorem acc_bound (k : Num3) (h : (acc.hart.binding k).addr.toNat = 0x3000) (a : Access) :
    BoundTo acc k 0x3000 a (.dev 0x80003000 false) :=
  ⟨h, by decide, by decide, plain_mapped' acc_plain rfl 0x3000 a (by decide), plain_readable acc_plain _ _ _, trivial⟩

/-- `acc` with 5 in the word at 0x3000. -/
def reached : State := { acc with mem := acc.mem ++ [(0x80003000, 5)] }

theorem reached_plain : plain reached = true := by decide +kernel

theorem witness_gated :
    (∃ (A : VAcc) (x : Nat → Nat) (loc : Nat → Loc), gatedOf reached (.vldWm 4 1 0 3 1) = some (A, 1, x) ∧ A.ok reached ∧ Unhindered reached ∧
      BoundTo reached 1 0x3000 .read (.dev 0x80003000 false) ∧ AllMapped reached A .read loc ∧
      (∀ i, Active reached A.g i → Readable reached (loc i) A.eb) ∧
      ∀ i, Active reached A.g i → reached.hart.wmBase 1 + x i < numAt reached (.dev 0x80003000 false) 8) ∧
    ∃ A x, gatedOf acc (.vldWm 4 1 0 3 1) = some (A, 1, x) ∧ BoundTo acc 1 0x3000 .read (.dev 0x80003000 false) ∧
      Active acc A.g 0 ∧ (∀ i, Active acc A.g i → 0 ≤ i) ∧
      numAt acc (.dev 0x80003000 false) 8 ≤ acc.hart.wmBase 1 + x 0 ∧ acc.hart.begun.gates ≤ 0 := by
  refine ⟨⟨_, _, _, rfl, (acc_strided 4 0).1, acc_unhindered, ⟨by decide +kernel, by decide, by decide, plain_mapped' reached_plain rfl _ _ (by decide),
    plain_readable reached_plain _ _ _, trivial⟩, plain_allMapped reached_plain rfl _ .read (acc_strided 4 0).2,
    fun i _ => plain_readable reached_plain _ _ _, fun i hi => ?_⟩, _, _, rfl, acc_bound 1 (by decide +kernel) .read,
    by unfold Active; decide +kernel, fun i _ => Nat.zero_le i, by decide +kernel, by decide +kernel⟩
  have hv : numAt reached (.dev 0x80003000 false) 8 = 5 := by decide +kernel
  have hl : reached.hart.vl = 2 := by decide +kernel
  have hb : reached.hart.wmBase 1 = 0 := by decide +kernel
  have := hi.2.1
  rw [hv, hb]
  show 0 + i < 5
  omega

theorem strided_apart (i j : Nat) (hi : i < 2) (hj : j < 2) (h : i ≠ j) (p : Loc)
    (hp : within (placesOf (strided acc 1 1 0 0 3) i) 8 p = true) : within (placesOf (strided acc 1 1 0 0 3) j) 8 p = false := by
  have ha : ∀ i, i < 2 → (strided acc 1 1 0 0 3).addr i = 0x1000 + 8 * i := by
    intro i hi
    have : i = 0 ∨ i = 1 := by omega
    rcases this with rfl | rfl <;> decide +kernel
  unfold placesOf at *
  rw [ha i hi] at hp
  rw [ha j hj]
  cases p with
  | dev b sy =>
    simp only [within, Bool.and_eq_true, decide_eq_true_eq] at hp
    simp only [within, Bool.and_eq_false_iff, decide_eq_false_iff_not]
    omega
  | _ => simp [within] at hp

/-- `acc` with a publication of its instruction that has been applied, and with one that is held. -/
def heldCount : Publication := ⟨.dev 0x80003000 false, 1, 2⟩

def published : State := acc.withHart fun h => { h with begun := { h.begun with pub := some heldCount } }

def publishing : State := { published with pubs := [heldCount] }

theorem witness_stores :
    (∃ (A : VAcc) (loc : Nat → Loc), storeOf acc (.vst 1 1 0 0 0 3) = some A ∧ A.ok acc ∧ A.idx ≠ some A.d ∧ Inv acc ∧ Unhindered acc ∧ BudgetAllows acc ∧
      OneGranule acc ∧ AllMapped acc A .write loc ∧ InMemory acc A loc) ∧
    (∃ (A : VAcc) (loc : Nat → Loc), looseStoreOf acc (.vstxU 1 1 3 0 0 3) = some A ∧ A.ok acc ∧ A.idx ≠ some A.d ∧ AllMapped acc A .write loc ∧
      InMemory acc A loc) ∧
    (let A := strided acc 1 1 0 0 3
     A.ok acc ∧ NotBegun acc ∧ BoundTo acc 1 0x3000 .write (.dev 0x80003000 false) ∧ BoundTo acc 2 0x3000 .write (.dev 0x80003000 false) ∧
       AllMapped acc A .write (placesOf A) ∧ InMemory acc A (placesOf A) ∧
       (∀ i p, Active acc A.g i → within (placesOf A i) A.eb p = true → within (.dev 0x80003000 false) 8 p = false) ∧
       acc.hart.vl ≠ 0 ∧
       (∀ i j, Active acc A.g i → Active acc A.g j → i ≠ j →
         ∀ p, within (placesOf A i) A.eb p = true → within (placesOf A j) A.eb p = false) ∧
       acc.hart.wmBase 1 ≤ numAt acc (.dev 0x80003000 false) 8 ∧ numAt acc (.dev 0x80003000 false) 8 < acc.hart.wmBase 2) ∧
    base.hart.vl = 0 ∧
    (published.hart.begun.pub = some heldCount ∧ heldCount ∉ published.pubs ∧ (strided published 1 1 0 0 3).ok published) ∧
    (publishing.hart.begun.pub = some heldCount ∧ heldCount ∈ publishing.pubs ∧ (strided publishing 1 1 0 0 3).ok publishing) := by
  have hl : acc.hart.vl = 2 := by decide +kernel
  refine ⟨⟨_, _, rfl, (acc_strided _ _).1, (by intro h; cases h), acc_inv, acc_unhindered, .inl acc_unmetered, acc_granule,
    plain_allMapped acc_plain rfl _ .write (acc_strided _ _).2, places_inMemory _ _⟩,
    ⟨_, _, rfl, (acc_indexed _ _).1, (by show some (3 : Reg) ≠ some 1; decide),
      plain_allMapped acc_plain rfl _ .write (acc_indexed _ _).2, places_inMemory _ _⟩,
    ⟨(acc_strided _ _).1, rfl, acc_bound 1 (by decide +kernel) .write, acc_bound 2 (by decide +kernel) .write,
      plain_allMapped acc_plain rfl _ .write (acc_strided _ _).2, places_inMemory _ _, fun i p hi hp => ?_, by decide +kernel,
      fun i j hi hj h p => strided_apart i j (hl ▸ hi.2.1) (hl ▸ hj.2.1) h p, by decide +kernel, by decide +kernel⟩, rfl,
    ⟨rfl, by decide, (acc_strided _ _).1⟩, rfl, by decide, (acc_strided _ _).1⟩
  have ha : (strided acc 1 1 0 0 3).addr i < 0x1010 := by
    have : i = 0 ∨ i = 1 := by have := hi.2.1; omega
    rcases this with rfl | rfl <;> decide +kernel
  cases p with
  | dev b sy =>
    simp only [within, placesOf, Bool.and_eq_true, decide_eq_true_eq] at hp
    simp only [within, Bool.and_eq_false_iff, decide_eq_false_iff_not]
    have : (strided acc 1 1 0 0 3).eb = 8 := rfl
    omega
  | _ => simp [within, placesOf] at hp

/-- None of those stores changes how its addresses map. -/
theorem witness_steady :
    let A := strided acc 1 1 0 0 3
    let touched (p : Loc) : Prop := Reached acc A (placesOf A) p ∨ within (.dev 0x80003000 false) 8 p = true
    StaysMapped acc touched 0x3000 .write (.dev 0x80003000 false) ∧
    (∀ i, Active acc A.g i → StaysMapped acc touched (A.addr i) .write (placesOf A i)) ∧
    (∀ i, Active acc A.g i → StaysMapped acc (Reached acc A (placesOf A)) (A.addr i) .write (placesOf A i)) ∧
    Steady acc A .write (placesOf A) ∧ Steady acc (indexed acc 1 1 3 0 3) .atomic (placesOf (indexed acc 1 1 3 0 3)) := by
  intro A touched
  have far (p : Loc) (h : Reached acc A (placesOf A) p) : ∃ b sy, p = .dev b sy ∧ 2 ^ 31 ≤ b := by
    obtain ⟨i, _, hw⟩ := h
    cases p with
    | dev b sy =>
      simp only [within, placesOf, Bool.and_eq_true, decide_eq_true_eq] at hw
      exact ⟨b, sy, rfl, by omega⟩
    | _ => simp [within, placesOf] at hw
  have farther (p : Loc) (h : touched p) : ∃ b sy, p = .dev b sy ∧ 2 ^ 31 ≤ b := by
    rcases h with h | h
    · exact far p h
    · cases p with
      | dev b sy =>
        simp only [within, Bool.and_eq_true, decide_eq_true_eq] at h
        exact ⟨b, sy, rfl, by omega⟩
      | _ => simp [within] at h
  exact ⟨plain_stays acc_plain rfl farther 0x3000 .write (by decide),
    fun i hi => plain_stays acc_plain rfl farther _ .write ((acc_strided 1 0).2 i hi.2.1).2,
    fun i hi => plain_stays acc_plain rfl far _ .write ((acc_strided 1 0).2 i hi.2.1).2, .inl acc_granule, .inl acc_granule⟩

/-- The indices 0 and 1 give places apart; the index 0 twice gives one place. -/
theorem witness_atomics :
    (let A := indexed acc 1 1 3 0 3
     A.ok acc ∧ (3 : Reg) ≠ 1 ∧ AllMapped acc A .atomic (placesOf A) ∧ InMemory acc A (placesOf A) ∧
       (∀ i, Active acc A.g i → acc.poisonedAt (placesOf A i) A.eb = false) ∧ InBudget acc ∧ acc.hart.floatRow = true ∧
       Active acc A.g 0 ∧ [0].Nodup ∧ (∀ j, j ∈ [0] ↔ Active acc A.g j ∧ SamePlace A (placesOf A) 0 j) ∧
       (∀ j, Active acc A.g j → j ≠ 0 → ¬ SamePlace A (placesOf A) 0 j)) ∧
    ∃ A ret op, vectorAtomicOf acc (.vatadd 1 1 3 0 1 0 1) = some (A, ret, op) ∧ A.ok acc ∧ A.idx ≠ some A.d ∧
      PlacesApart acc A (placesOf A) ∧ AllMapped acc A .atomic (placesOf A) := by
  have hl : acc.hart.vl = 2 := by decide +kernel
  have two : ∀ i, Active acc 0 i → i = 0 ∨ i = 1 := fun i hi => by have := hi.2.1; omega
  have h0 : Active acc 0 0 := by unfold Active; decide +kernel
  have h01 : ¬ SamePlace (indexed acc 1 1 3 0 3) (placesOf (indexed acc 1 1 3 0 3)) 0 1 := by unfold SamePlace; decide +kernel
  have h10 : ¬ SamePlace (indexed acc 1 1 3 0 3) (placesOf (indexed acc 1 1 3 0 3)) 1 0 := by unfold SamePlace; decide +kernel
  have h00 : SamePlace (indexed acc 1 1 3 0 3) (placesOf (indexed acc 1 1 3 0 3)) 0 0 := by unfold SamePlace; decide +kernel
  have same : ∀ j, Active acc 0 j → j ≠ 0 → ¬ SamePlace (indexed acc 1 1 3 0 3) (placesOf (indexed acc 1 1 3 0 3)) 0 j := by
    intro j hj hn
    rcases two j hj with rfl | rfl
    · exact absurd rfl hn
    · exact h01
  refine ⟨⟨(acc_indexed _ _).1, by decide, plain_allMapped acc_plain rfl _ .atomic (acc_indexed _ _).2, places_inMemory _ _,
    fun i _ => (plain_readable acc_plain _ _ _).2, inBudget_none (by decide +kernel), by decide +kernel, h0, by decide,
    fun j => ⟨fun h => ?_, fun h => ?_⟩, same⟩, _, _, _, rfl, (acc_indexed 1 0).1, (by show some (3 : Reg) ≠ some 1; decide),
    fun i j hi hj h => ?_, plain_allMapped acc_plain rfl _ .atomic (acc_indexed 1 0).2⟩
  · have : j = 0 := by simpa using h
    subst this
    exact ⟨h0, h00⟩
  · by_contra hn
    exact same j h.1 (by simpa using hn) h.2
  · rcases two i hi with rfl | rfl <;> rcases two j hj with rfl | rfl
    · exact absurd rfl h
    · exact h01
    · exact h10
    · exact absurd rfl h

/-- `acc` with bit-sliced elements of 3 bits, VL 2. -/
def sliced : State := acc.withHart fun h => { h with vtype := 4 + 2 * 64 }

theorem witness_slices :
    slicedOf (.vst 1 1 2 0 0 4) = some (false, 1, 1, 2, 0, 4) ∧ sliced.hart.ew = 4 ∧ (1 : Reg).toNat % sliced.hart.cfg.gm = 0 ∧
    Unhindered sliced ∧ BudgetAllows sliced ∧ OneGranule sliced ∧ (sliced.hart.vl + 7) / 8 ≤ (sliced.rx 2).toNat ∧
    sliced.hart.cfg.w = 3 ∧
    ∃ loc : Nat → Nat → Loc, (∀ a i j, Active sliced 0 i → j < 3 → Claims.Mapped sliced (planeAddr sliced 1 2 i j) a (loc i j) ∧ Readable sliced (loc i j) 1 ∧
        stored (loc i j) = true ∧ Backed sliced (loc i j)) ∧
      ∀ i j i' j', Active sliced 0 i → Active sliced 0 i' → j < 3 → j' < 3 → (i / 8, j) ≠ (i' / 8, j') →
        within (loc i j) 1 (loc i' j') = false := by
  have hp : plain sliced = true := by decide +kernel
  have hl : sliced.hart.vl = 2 := by decide +kernel
  have addr : ∀ i j, Active sliced 0 i → j < 3 → planeAddr sliced 1 2 i j = 0x1000 + 8 * j := by
    intro i j hi hj
    have hi' : i = 0 ∨ i = 1 := by have := hi.2.1; omega
    have hj' : j = 0 ∨ j = 1 ∨ j = 2 := by omega
    rcases hi' with rfl | rfl <;> rcases hj' with rfl | rfl | rfl <;> decide +kernel
  refine ⟨rfl, by decide +kernel, by decide +kernel, ⟨rfl, rfl, by unfold VlFits; decide +kernel, rfl, ⟨rfl, rfl⟩, rfl⟩, .inl acc_unmetered,
    by unfold OneGranule; decide +kernel, by decide +kernel, by decide +kernel, fun i j => .dev (2 ^ 31 + planeAddr sliced 1 2 i j) false,
    fun a i j hi hj => ⟨plain_mapped' hp rfl _ a (by rw [addr i j hi hj]; omega), plain_readable hp _ _ _, rfl, trivial⟩,
    fun i j i' j' hi hi' hj hj' hne => ?_⟩
  dsimp only
  rw [addr i j hi hj, addr i' j' hi' hj']
  have h1 := hi.2.1
  have h2 := hi'.2.1
  simp only [ne_eq, Prod.mk.injEq] at hne
  simp only [within, Bool.and_eq_false_iff, decide_eq_false_iff_not]
  omega

/-- A held count whose word has reached its base, and one whose word has not. -/
def countsHeld (base : Nat) : State := { acc with pubs := [⟨.dev 0x80003000 false, base, 7⟩] }

theorem watermark_values :
    ((acc.rx 1).toNat % 8 = 0 ∧ (acc.rx 6).toNat % 8 ≠ 0 ∧ (acc.hart.binding 1).addr ≠ 0 ∧ (acc.hart.binding 0).addr = 0) ∧
    (acc.hart.wmBase 1 ≤ numAt acc (.dev 0x80003000 false) 8 ∧ numAt acc (.dev 0x80003000 false) 8 < acc.hart.wmBase 2) ∧
    acc.hart.wmBase 1 + (acc.rx 0).toNat ≤ numAt acc (.dev 0x80003000 false) 8 ∧
    numAt acc (.dev 0x80003000 false) 8 < acc.hart.wmBase 1 + (acc.rx 2).toNat := by decide +kernel

theorem witness_watermarks :
    (InBudget acc ∧ NotBegun acc ∧ acc.hart.unacked = [] ∧ Inv acc ∧ BoundTo acc 1 0x3000 .write (.dev 0x80003000 false) ∧
      BoundTo acc 2 0x3000 .write (.dev 0x80003000 false) ∧ BoundTo acc 1 0x3000 .read (.dev 0x80003000 false)) ∧
    (published.hart.begun.pub = some heldCount ∧ heldCount ∉ published.pubs ∧ heldCount ∈ publishing.pubs) ∧
    (let s := acc.withHart fun h => { h with unacked := [0] }
     BoundTo s 1 0x3000 .read (.dev 0x80003000 false) ∧ InBudget s ∧ NotBegun s ∧ s.hart.unacked ≠ []) ∧
    (∃ p, (countsHeld 0).pubs[0]? = some p ∧ stored p.word = true ∧ Backed (countsHeld 0) p.word ∧
      p.base ≤ numAt (countsHeld 0) p.word 8) ∧
    ∃ p, (countsHeld 1).pubs[0]? = some p ∧ numAt (countsHeld 1) p.word 8 < p.base :=
  ⟨⟨inBudget_none (by decide +kernel), rfl, rfl, acc_inv, acc_bound 1 (by decide +kernel) .write,
      acc_bound 2 (by decide +kernel) .write, acc_bound 1 (by decide +kernel) .read⟩, ⟨rfl, by decide, by decide⟩,
    ⟨⟨by decide +kernel, by decide, by decide, plain_mapped' (by decide +kernel) rfl 0x3000 _ (by decide),
      plain_readable (by decide +kernel) _ _ _, trivial⟩, inBudget_none (by decide +kernel), rfl, by decide⟩,
    ⟨_, rfl, rfl, trivial, by decide +kernel⟩,
    _, rfl, by decide +kernel⟩

-- copies and weirs

theorem pageRun_backs (s : State) (va n : Nat) : Backs s (pageRun va n) := runFrom_backs s _ _

theorem pageRun_apart (va n : Nat) : Apart (pageRun va n) := runFrom_apart _ _

theorem pageRun_clean {s : State} (hp : plain s = true) (va n : Nat) : s.segsPoisoned (pageRun va n) = false := plain_clean hp _ _

/-- Hart 0 with a copy's registers: x1 source, x3 destination, (x4, x5) and (x6, x7) byte counts with completion addresses, x8
parameters of a repack, and remote addresses of ranks 1 and 3 in x9 and x10. -/
def copier : State :=
  let s := withX base [(1, 0x1000), (3, 0x2000), (4, 8), (5, 0x3000), (8, 8), (9, 2 ^ 39 + 0x5000), (10, 3 * 2 ^ 39), (11, 0x5000)]
  { s with fabric := { s.fabric with members := [0, 7] } }

theorem copier_plain : plain copier = true := by decide +kernel

theorem copier_inv : Inv copier := base_inv

theorem signals_none (s : State) (x : Word) : Signals s 0 x .none :=
  ⟨fun _ => rfl, fun h => absurd h (by decide), fun h => absurd h (by decide), by decide⟩

theorem signals_word : Signals copier 2 (copier.rx 5) (.word (.dev 0x80003000 false)) :=
  ⟨fun h => absurd h (by decide), fun h => absurd h (by decide), fun _ => ⟨_, rfl, by decide +kernel, (plain_mapped' copier_plain rfl 0x3000 .write (by decide)).1, rfl⟩, by decide⟩

theorem witness_copy :
    Inv copier ∧ InBudget copier ∧ copier.hart.unacked = [] ∧ Signals copier 2 (copier.rx (pairHi 2)) (.word (.dev 0x80003000 false)) ∧
    (copier.rx (pairLo 2)).toNat = 8 ∧ ∃ src dst, SpansAt copier (copier.rx 1).toNat 8 .read src ∧
      SpansAt copier (copier.rx 3).toNat 8 .write dst ∧ Backs copier src ∧ Backs copier dst ∧ Apart dst ∧
      copier.segsPoisoned src = false :=
  ⟨copier_inv, inBudget_none (by decide +kernel), rfl, signals_word, by decide +kernel, _, _, plain_spans copier_plain .read (by decide +kernel),
    plain_spans copier_plain .write (by decide +kernel), pageRun_backs _ _ _, pageRun_backs _ _ _, runFrom_apart _ _,
    plain_clean copier_plain _ _⟩

theorem witness_remote :
    copier.hart.unacked = [] ∧ copier.fabric.holds = false ∧ RemoteAt copier (copier.rx 9) 8 1 0x5000 ∧
    RemoteAt copier (copier.rx 11) 0 0 0x5000 ∧ (∀ m p, ¬ RemoteAt copier (copier.rx 10) 8 m p) := by
  have hm : copier.fabric.members.length = 2 := by decide +kernel
  refine ⟨rfl, by decide +kernel, ⟨by decide +kernel, by decide, by decide, by decide, by decide +kernel, by decide +kernel⟩,
    ⟨by decide +kernel, by decide, by decide, by decide, by decide +kernel, by decide +kernel⟩, fun m p h => ?_⟩
  have hx : (copier.rx 10).toNat = 3 * 2 ^ 39 := by decide +kernel
  obtain ⟨h1, _, h3, _, h5, _⟩ := h
  omega

/-- Hart 16 with its scratchpad window: x1 a row base, (x4, x5) = (row base, row bytes), x3 the window's start, x6 = 1. -/
def windowed : State :=
  (withX task [(1, 0x1000), (3, 0xFFFFFFFFFFC00000), (4, 0x1000), (5, 8), (6, 1)]).withHart fun h => { h with
    vl := 2
    v := h.v.setIfInBounds 1 (2 ^ 64) }

theorem windowed_plain : plain windowed = true := by decide +kernel

theorem windowed_backs : Backs windowed [⟨.scr 1 1 0, 16⟩] := by
  intro g hg
  simp only [List.mem_singleton] at hg
  subst hg
  exact ⟨rfl, by show (windowed.region? 1 1).isSome = true; decide +kernel⟩

theorem windowed_weir : WeirAt windowed (windowed.rx 3) (.scr 1 1 0) :=
  ⟨by decide +kernel, by decide +kernel, rfl, by show (windowed.region? 1 1).isSome = true; decide +kernel⟩

theorem gather_fits :
    (windowed.rx (pairHi 2)).toNat = 8 ∧ (windowed.rx 3).toNat % 8 = 0 ∧ windowed.hart.vl = 2 ∧
      ∀ p ∈ piecesOf (windowed.rx 3).toNat (2 * 8), (windowed.scratchPlace p.1 p.2).isSome = true := by decide +kernel

theorem witness_gather :
    Inv windowed ∧ InBudget windowed ∧ windowed.hart.unacked = [] ∧ windowed.hart.vstart = 0 ∧ (1 : Reg).toNat % windowed.hart.cfg.gm = 0 ∧
    windowed.maskBusy 2 = false ∧ windowed.hart.poison = [] ∧ (windowed.rx (pairHi 2)).toNat = 8 ∧
    (windowed.rx 3).toNat % 8 = 0 ∧ windowed.hart.vl = 2 ∧
    (∀ p ∈ piecesOf (windowed.rx 3).toNat (2 * 8), (windowed.scratchPlace p.1 p.2).isSome = true) ∧
    SpansAt windowed (windowed.rx 3).toNat (2 * 8) .write [⟨.scr 1 1 0, 16⟩] ∧ Backs windowed [⟨.scr 1 1 0, 16⟩] ∧
    Apart [⟨.scr 1 1 0, 16⟩] ∧
    ∀ i r, [pageRun 0x1000 8, pageRun 0x1008 8][i]? = some r →
      SpansAt windowed (((windowed.rx (pairLo 2)).toNat + windowed.hart.el 1 i * 8) % 2 ^ 64) 8 .read r ∧ Backs windowed r ∧
        windowed.segsPoisoned r = false := by
  refine ⟨task_inv, inBudget_some (l := job) (by decide +kernel) (by decide), rfl, rfl, by decide +kernel, by decide +kernel, rfl,
    gather_fits.1, gather_fits.2.1, gather_fits.2.2.1, gather_fits.2.2.2, spans_of (by decide +kernel), windowed_backs,
    List.pairwise_singleton _ _, fun i r h => ?_⟩
  have h0 : ((windowed.rx (pairLo 2)).toNat + windowed.hart.el 1 0 * 8) % 2 ^ 64 = 0x1000 := by decide +kernel
  have h1 : ((windowed.rx (pairLo 2)).toNat + windowed.hart.el 1 1 * 8) % 2 ^ 64 = 0x1008 := by decide +kernel
  match i, h with
  | 0, h =>
    cases h
    rw [h0]
    exact ⟨plain_spans windowed_plain .read (by decide), pageRun_backs _ _ _, plain_clean windowed_plain _ _⟩
  | 1, h =>
    cases h
    rw [h1]
    exact ⟨plain_spans windowed_plain .read (by decide), pageRun_backs _ _ _, plain_clean windowed_plain _ _⟩
  | n + 2, h => cases h

/-- Two rows are to land in mask 2 of hart 16, and a copy has 8 of its 8 bytes to count into the weir. -/
def gathering : EngineOp := ⟨1, 16, 1, 0, 0, true, [], [], [], 0, .gather 2 [0, 1]⟩

def counting : EngineOp := ⟨2, 16, 1, 0, 0, true, [], [], [], 0, .copy (.weir 1 1 0) 8 8⟩

def landed : EngineOp := ⟨3, 16, 1, 0, 0, false, [], [], [], 0, .copy (.word (.dev 0x80003000 false)) 8 0⟩

/-- A remote copy that has 8 bytes to count into the weir. -/
def putting : EngineOp := ⟨4, 16, 1, 0, 0, true, [], [], [], 0, .put (.weir 1 1 0) 0 0 8 8⟩

def flying (q : Launch → Launch) : State := { windowed with
  ops := [gathering, counting, landed, putting], lu := { windowed.lu with launches := [q job] } }

theorem witness_copy_events :
    (IsOp (flying id) 1 gathering ∧ 0 ∈ [0, 1] ∧ gathering.ofHart (flying id).hart = true ∧
      (flying id).parked.all (fun h => h.hid ≠ (flying id).hart.hid) = true) ∧
    (Inv (flying id) ∧ IsOp (flying id) 2 counting ∧ Backed (flying id) (.scr 1 1 0)) ∧
    (IsOp (flying id) 3 landed ∧ Backed (flying id) (.dev 0x80003000 false)) ∧
    (∃ q, IsLaunch (flying id) counting.lid q ∧ isFinal q.state = false) ∧
    (∃ q, IsLaunch (flying fun q => { q with state := 8 }) counting.lid q ∧ isFinal q.state = true ∧ q.state = 8 ∧
      counting.scratch = true) ∧
    (∃ q, IsLaunch (flying fun q => { q with state := 8 }) counting.lid q ∧ ({ counting with scratch := false } : EngineOp).scratch = false) ∧
    (∃ q, IsLaunch (flying fun q => { q with state := 11 }) counting.lid q ∧ isFinal q.state = true ∧ q.state ≠ 8) ∧
    IsOp (flying fun q => { q with state := 11 }) 4 putting ∧ Backed (flying fun q => { q with state := 11 }) (.scr 1 1 0) :=
  ⟨⟨rfl, by decide, by decide +kernel, by decide +kernel⟩,
    ⟨task_inv, rfl, by show ((flying id).region? 1 1).isSome = true; decide +kernel⟩, ⟨rfl, trivial⟩,
    ⟨_, rfl, by decide +kernel⟩,
    ⟨_, rfl, by decide +kernel, rfl, rfl⟩, ⟨_, rfl, rfl⟩, ⟨_, rfl, by decide +kernel, by decide +kernel⟩,
    rfl, by show ((flying fun q => { q with state := 11 }).region? 1 1).isSome = true; decide +kernel⟩

/-- A copy whose write to a host is not acknowledged yet, and one whose writes have all performed. -/
theorem witness_performed :
    (let o : EngineOp := { counting with sent := [0] }
     let s : State := { flying id with ops := [o], targets := [⟨0, 16, true, false, true, .io (2 ^ 51), 5, true, false⟩] }
     IsOp s 2 o ∧ ¬ HasPerformed s o) ∧
    HasPerformed (flying id) counting ∧ HasPerformed (flying id) landed ∧
    (let s := windowed.withHart fun h => { h with unacked := [0] }
     s.hart.unacked ≠ []) := by
  unfold HasPerformed
  exact ⟨⟨rfl, by decide +kernel⟩, by decide +kernel, by decide +kernel, by decide⟩

theorem witness_weirs :
    Inv windowed ∧ windowed.hart.unacked = [] ∧ WeirAt windowed (windowed.rx 3) (.scr 1 1 0) ∧
    windowed.poisonedAt ((Loc.scr 1 1 0).plus 8) 4 = false ∧
    numAt windowed ((Loc.scr 1 1 0).plus 8) 4 ≠ (windowed.rx 6).toNat % 2 ^ 32 ∧
    numAt windowed ((Loc.scr 1 1 0).plus 8) 4 = (windowed.rx 0).toNat % 2 ^ 32 :=
  ⟨task_inv, rfl, windowed_weir, by decide +kernel, by decide +kernel, by decide +kernel⟩

/-- The registers of a repack: x4 elements, x5 no completion, x6 its parameters (mode 0, width 1, plane stride 1), x7. -/
def repacker : State := withX base [(1, 0x1000), (3, 0x2000), (4, 8), (6, 2 ^ 32)]

theorem witness_repack :
    (Inv repacker ∧ repacker.hart.unacked = [] ∧ Signals repacker 0 (repacker.rx 5) .none ∧
      (repacker.rx 6).toNat / 2 ^ 7 % 2 ^ 25 = 0 ∧ ((repacker.rx 4).toNat + 7) / 8 ≤ (repacker.rx 6).toNat / 2 ^ 32 ∧
      (let rs := repackRanges 0 1 1 8 (repacker.rx 3).toNat (repacker.rx 1).toNat (repacker.rx 7).toNat
       let src := [pageRun 0x1000 1]
       let dst := [pageRun 0x2000 8]
       src.length = rs.1.length ∧ dst.length = rs.2.length ∧
        (∀ (i : Nat) (r : Nat × Nat) (g : List Seg), rs.1[i]? = some r → src[i]? = some g → SpansAt repacker r.1 r.2 .read g) ∧
        (∀ (i : Nat) (r : Nat × Nat) (g : List Seg), rs.2[i]? = some r → dst[i]? = some g → SpansAt repacker r.1 r.2 .write g) ∧
        Backs repacker src.flatten ∧ Backs repacker dst.flatten ∧ Apart dst.flatten ∧
        repacker.segsPoisoned src.flatten = false ∧ repacker.segsPoisoned dst.flatten = false)) ∧
    (0 < 1 ∧ 0 < 1 ∧ ∀ x ∈ ([(1, false)] : Tagged), x.1 < 256) ∧
    (List.replicate 16 ((7 : Nat), false)).length = 16 * 1 ∧ [((127 : Nat), false)].length = 1 := by
  have hp : plain repacker = true := by decide +kernel
  have e : repackRanges 0 1 1 8 (repacker.rx 3).toNat (repacker.rx 1).toNat (repacker.rx 7).toNat = ([(0x1000, 1)], [(0x2000, 8)]) := by
    decide +kernel
  refine ⟨⟨base_inv, rfl, signals_none _ _, by decide +kernel, by decide +kernel, ?_⟩, by decide, by decide, by decide⟩
  rw [e]
  refine ⟨rfl, rfl, fun i r g h1 h2 => ?_, fun i r g h1 h2 => ?_, ?_, ?_, ?_, ?_, ?_⟩
  · match i, h1, h2 with
    | 0, h1, h2 => cases h1; cases h2; exact plain_spans hp .read (by decide)
    | n + 1, h1, h2 => cases h1
  · match i, h1, h2 with
    | 0, h1, h2 => cases h1; cases h2; exact plain_spans hp .write (by decide)
    | n + 1, h1, h2 => cases h1
  · simpa using pageRun_backs repacker 0x1000 1
  · simpa using pageRun_backs repacker 0x2000 8
  · simpa using pageRun_apart 0x2000 8
  · simpa using pageRun_clean hp 0x1000 1
  · simpa using pageRun_clean hp 0x2000 8

-- yarns

/-- A PLAIN record of 8-byte elements: BASE 0x2000, BOUND 16 bytes, with WRITE and AVAIL as given (R291). -/
def plainRecord (write : Nat) (avail : Nat) : Nat := 0x2000 + 3 * 2 ^ 72 + write * 2 ^ 88 + 16 * 2 ^ 256 + avail * 2 ^ 320

/-- Hart 0 with VL 2 and a record in memory at 0x1000, that of mesh handle 1 for `topology`, that of an unknown mode for `bad`. -/
def binder (topology bad : Bool) : State :=
  { vec with
    hart := { vec.hart with x := (vec.hart.x.setIfInBounds 1 0x1000).setIfInBounds 2 0x1008 }
    mem := vec.mem ++ (if topology then [(0x80001008, 5), (0x80001009, 3), (0x8000100C, 1), (0x80001020, 16)]
      else if bad then [(0x80001001, 0x20), (0x80001008, 8), (0x80001009, 3)]
      else [(0x80001001, 0x20), (0x80001009, 3), (0x80001020, 16)])
    lu := { vec.lu with ownHandles := ⟨2, [⟨1, ⟨0, false, 0, 0, 0, 0, 0, 0, 0, 0, 0, 0, 0, 0, 0, 0, 1⟩, ⟨0, 0, false⟩, ⟨0, 0, false⟩, [], 4, 0, ⟨⟨0, false, 0, 0, 0, 0, 0, 0, 0, 0, 0, 0, 0, 0, 0, 0, 1⟩, [], [], [], [], []⟩⟩], []⟩ } }

theorem binder_plain (t b : Bool) : plain (binder t b) = true := by cases t <;> cases b <;> decide +kernel

theorem witness_ybind :
    ((binder false false).rx 1).toNat = 0x1000 ∧ ((binder false false).rx 2).toNat % 64 ≠ 0 ∧
    (∀ t b va, va + 64 ≤ 2 ^ 30 → InBudget (binder t b) ∧ Unheld (binder t b) (pageRun va 64) ∧
      SpansAt (binder t b) va 64 .read (pageRun va 64) ∧ Backs (binder t b) (pageRun va 64) ∧
      (binder t b).segsPoisoned (pageRun va 64) = false) ∧
    (let y : YarnSlot := { YarnSlot.empty with bound := true, record := (binder false false).segNat (pageRun 0x1000 64) }
     AdmittedRecord y ∧ ((binder false false).hart.yarn 1).held = [] ∧ yarnField y 8 1 < 5) ∧
    (let y : YarnSlot := { YarnSlot.empty with bound := true, record := (binder true false).segNat (pageRun 0x1000 64) }
     AdmittedRecord y ∧ ((binder true false).hart.yarn 1).held = [] ∧ 5 ≤ yarnField y 8 1 ∧
       ((binder true false).myHandles.mesh.find? (fun h => h.h = yarnField y 0x0C 4)).isSome = true) ∧
    (let y : YarnSlot := { YarnSlot.empty with bound := true, record := (binder false true).segNat (pageRun 0x1000 64) }
     ¬ AdmittedRecord y) := by
  unfold AdmittedRecord
  exact ⟨by decide +kernel, by decide +kernel, fun t b va h => ⟨inBudget_none (by cases t <;> cases b <;> decide +kernel),
    unheldAll rfl _, plain_spans (binder_plain t b) .read h, pageRun_backs _ _ _,
    plain_clean (binder_plain t b) _ _⟩, by decide +kernel, by decide +kernel, by decide +kernel⟩

/-- As `binder`, with an element held in slot 1 and no mesh open. -/
def binderHeld (topology : Bool) : State :=
  { binder topology false with
    hart := { (binder topology false).hart with
      y := (binder topology false).hart.y.setIfInBounds 1 { YarnSlot.empty with held := [7] } }
    lu := { (binder topology false).lu with ownHandles := Handles.fresh } }

/-- A store of the hart to a device is not acknowledged when it comes to YBIND. -/
theorem witness_ybind_waits (va : Nat) (h : va + 64 ≤ 2 ^ 30) :
    let s := (binder false false).withHart fun h => { h with unacked := [0] }
    InBudget s ∧ SpansAt s va 64 .read (pageRun va 64) ∧ Backs s (pageRun va 64) ∧ Unheld s (pageRun va 64) ∧
      s.segsPoisoned (pageRun va 64) = false ∧ s.hart.unacked ≠ [] := by
  intro s
  have hp : plain s = true := by decide +kernel
  exact ⟨inBudget_none (by decide +kernel), plain_spans hp .read h, pageRun_backs _ _ _, unheldAll rfl _, plain_clean hp _ _,
    by decide⟩

theorem witness_ybind_traps :
    (∀ t va, va + 64 ≤ 2 ^ 30 → InBudget (binderHeld t) ∧ Unheld (binderHeld t) (pageRun va 64) ∧
      SpansAt (binderHeld t) va 64 .read (pageRun va 64) ∧ Backs (binderHeld t) (pageRun va 64) ∧
      (binderHeld t).segsPoisoned (pageRun va 64) = false) ∧
    (let y : YarnSlot := { YarnSlot.empty with bound := true, record := (binderHeld false).segNat (pageRun 0x1000 64) }
     AdmittedRecord y ∧ yarnField y 8 1 < 5 ∧ ((binderHeld false).hart.yarn 1).held ≠ []) ∧
    (let y : YarnSlot := { YarnSlot.empty with bound := true, record := (binderHeld true).segNat (pageRun 0x1000 64) }
     AdmittedRecord y ∧ 5 ≤ yarnField y 8 1 ∧ ((binderHeld true).hart.yarn 2).held = [] ∧
       (binderHeld true).myHandles.mesh.all (fun h => h.h ≠ yarnField y 0x0C 4) = true) := by
  have hp (t : Bool) : plain (binderHeld t) = true := by cases t <;> decide +kernel
  unfold AdmittedRecord
  exact ⟨fun t va h => ⟨inBudget_none (by cases t <;> decide +kernel), unheldAll rfl _, plain_spans (hp t) .read h, pageRun_backs _ _ _, plain_clean (hp t) _ _⟩, by decide +kernel,
    by decide +kernel⟩

/-- Slot 1 of hart 0 is bound to a PLAIN stream for reading, or for writing with AVAIL at 0x3000; VSTART is `vs`. -/
def streaming (write : Bool) (vs : Nat) : State :=
  vec.withHart fun h => { h with
    vstart := vs
    y := h.y.setIfInBounds 1 { YarnSlot.empty with bound := true, record := if write then plainRecord 1 0x3000 else plainRecord 0 0 } }

theorem streaming_plain (w : Bool) (n : Nat) : plain (streaming w n) = true := by
  have h : plain vec = true := by decide +kernel
  exact h

theorem witness_streams :
    (PlainSlot (streaming false 2) ((streaming false 2).hart.yarn 1) false ∧ (streaming false 2).hart.vl ≤ (streaming false 2).hart.vstart) ∧
    (∀ w, PlainSlot (streaming w 1) ((streaming w 1).hart.yarn 1) w ∧ (streaming w 1).hart.vstart < (streaming w 1).hart.vl ∧
      InBudget (streaming w 1) ∧ (streaming w 1).hart.poison = [] ∧ VlFits (streaming w 1) (streaming w 1).hart.cfg ∧
      (1 : Reg).toNat % (streaming w 1).hart.cfg.gm = 0 ∧ Inv (streaming w 1)) ∧
    (let y := (streaming false 1).hart.yarn 1
     yarnField y 0x28 8 = 0 ∧ plainCount y (2 - 1) = 1 ∧ plainAddr y (y.pos + 0) % 8 = 0 ∧
       Claims.Mapped (streaming false 1) (plainAddr y (y.pos + 0)) .read (.dev 0x80002000 false) ∧
       Readable (streaming false 1) (.dev 0x80002000 false) 8) ∧
    (let y := (streaming true 1).hart.yarn 1
     plainCount y (2 - 1) = 1 ∧ plainAddr y (y.pos + 0) % 8 = 0 ∧
       Claims.Mapped (streaming true 1) (plainAddr y (y.pos + 0)) .write (.dev 0x80002000 false) ∧
       Backed (streaming true 1) (.dev 0x80002000 false) ∧ yarnField y 0x28 8 = 0x3000 ∧ 0x3000 % 8 = 0 ∧
       Claims.Mapped (streaming true 1) 0x3000 .write (.dev 0x80003000 false) ∧
       ∀ p, within (.dev 0x80002000 false) 8 p = true → within (.dev 0x80003000 false) 8 p = false) := by
  have ha (w : Bool) : plainAddr ((streaming w 1).hart.yarn 1) (((streaming w 1).hart.yarn 1).pos + 0) = 0x2000 := by
    cases w <;> decide +kernel
  refine ⟨⟨by unfold PlainSlot; decide +kernel, by decide +kernel⟩, fun w => ⟨by unfold PlainSlot; cases w <;> decide +kernel,
    by cases w <;> decide +kernel, inBudget_none (by cases w <;> decide +kernel), rfl, ⟨by cases w <;> decide +kernel,
    by cases w <;> decide +kernel⟩, by cases w <;> decide +kernel, base_inv⟩, ?_, ?_⟩
  · dsimp only
    rw [ha false]
    exact ⟨by decide +kernel, by decide +kernel, by decide, plain_mapped' (streaming_plain _ _) rfl _ .read (by decide),
      plain_readable (streaming_plain _ _) _ _ _⟩
  · dsimp only
    rw [ha true]
    refine ⟨by decide +kernel, by decide, plain_mapped' (streaming_plain _ _) rfl _ .write (by decide), trivial, by decide +kernel, by decide,
      plain_mapped' (streaming_plain _ _) rfl _ .write (by decide), fun p hp => ?_⟩
    cases p with
    | dev b sy =>
      simp only [within, Bool.and_eq_true, decide_eq_true_eq] at hp
      simp only [within, Bool.and_eq_false_iff, decide_eq_false_iff_not]
      omega
    | _ => simp [within] at hp

theorem witness_ystat :
    ((streaming false 0).hart.yarn 1).bound = true ∧ ((streaming false 0).hart.yarn 1).held = [] ∧
    yarnField ((streaming false 0).hart.yarn 1) 0x0B 1 % 2 = 0 ∧ ((streaming false 0).hart.yarn 2).bound = false := by
  decide +kernel

-- waiting

/-- Hart 0 waits in WAITW; hart 16 of a launch waits in a FARM of which the loop is open. -/
def sleeper (r : Run) : State := (withWord base 0b011010_01010_10101_01100_00001_01_011_0).withHart fun h => { h with run := r }

def farmed (r : Run) : State :=
  let s := withWord (withX (withJob fun l => { l with farm := [⟨1, 10, 3, 0, [], 0, 0, none, []⟩] }) [(21, 10), (12, 3)]) 0b01110100000_10101_01100_00011000000
  s.withHart fun h => { h with run := r }

theorem sleeper_fetch (r : Run) : ∃ t, fetch (sleeper r) = .ok (0b011010_01010_10101_01100_00001_01_011_0, t) :=
  fetch_of (by cases r <;> decide +kernel)

theorem farmed_fetch (r : Run) : ∃ t, fetch (farmed r) = .ok (0b01110100000_10101_01100_00011000000, t) :=
  fetch_of (by cases r <;> decide +kernel)

theorem farmed_open (r : Run) :
    (∀ h ∈ (farmed r).parked, h.lid ≠ 1 ∧ h.hid ≠ (farmed r).hart.hid) ∧ (farmed r).hart.farmGen < (farmed r).myFarm.gen ∧
      ((farmed r).rx 21).toNat = (farmed r).myFarm.n ∧ ((farmed r).rx 12).toNat = (farmed r).myFarm.l ∧ (farmed r).myFarm.l ≠ 0 ∧
      ((farmed r).myFarm.n + (farmed r).myFarm.l - 1) / (farmed r).myFarm.l ≤ 2 ^ 24 := by cases r <;> decide +kernel

theorem witness_waiting :
    (∃ w s' i e, fetch (sleeper .sleep) = .ok (w, s') ∧ decode w = .ok i ∧ wakeEvent (sleeper .sleep).hart.hid i = some e ∧
      (sleeper .sleep).hart.run = .sleep ∧ (sleeper .sleep).hart.quiet ≤ (sleeper .sleep).clock) ∧
    (∃ w s', fetch (sleeper .ready) = .ok (w, s') ∧ (sleeper .ready).hart.run = .ready) ∧
    (let s := (sleeper .sleep).withHart fun h => { h with quiet := 17 }
     s.clock < s.hart.quiet) ∧
    (∃ w s' l, fetch (farmed .stalled) = .ok (w, s') ∧ decode w = .ok (.farm 21 12) ∧ IsLaunch (farmed .stalled) 1 l ∧
      (farmed .stalled).hart.lid = 1 ∧ l.lid = 1 ∧ (farmed .stalled).hart.run = .stalled ∧ (farmed .stalled).hart.unacked = [] ∧
      (farmed .stalled).hart.quiet ≤ (farmed .stalled).clock) ∧
    ∃ w s', fetch (farmed .ready) = .ok (w, s') ∧ (farmed .ready).hart.run = .ready := by
  obtain ⟨t, ht⟩ := sleeper_fetch .sleep
  obtain ⟨t', ht'⟩ := sleeper_fetch .ready
  obtain ⟨u, hu⟩ := farmed_fetch .stalled
  obtain ⟨u', hu'⟩ := farmed_fetch .ready
  exact ⟨⟨_, t, .waitw 10 21 12 1 3, _, ht, by decide +kernel, rfl, rfl, by decide +kernel⟩, ⟨_, t', ht', rfl⟩,
    by decide +kernel, ⟨_, u, _, hu, by decide +kernel, rfl, rfl, rfl, rfl, rfl, by decide +kernel⟩, _, u', hu', rfl⟩

-- meshes and sampling

theorem pageRun_device (va n : Nat) : onlyDevice (pageRun va n) = true := by
  simp only [onlyDevice, List.all_eq_true]
  intro g hg
  obtain ⟨b, _, e⟩ := runFrom_ge hg
  simp [e]

/-- Stretches for ranges of the first page. -/
def pageRuns (rs : List Range) : List (List Seg) := rs.map fun r => pageRun r.1 r.2.1

theorem plain_allSpan {s : State} (hp : plain s = true) (rs : List Range) (h : ∀ r ∈ rs, r.1 + r.2.1 ≤ 2 ^ 30) :
    AllSpan s rs (pageRuns rs) := by
  refine ⟨by simp [pageRuns], fun i r g hr hg => ?_⟩
  simp only [pageRuns, List.getElem?_map, hr, Option.map_some, Option.some.injEq] at hg
  subst hg
  exact plain_spans hp _ (h r (List.mem_of_getElem? hr))

theorem pageRuns_device {rs : List Range} : ∀ gs ∈ pageRuns rs, onlyDevice gs = true := by
  intro gs h
  obtain ⟨r, _, rfl⟩ := List.mem_map.mp h
  exact pageRun_device _ _

theorem pageRuns_back (s : State) (rs : List Range) : AllBack s (pageRuns rs) := by
  intro g hg
  obtain ⟨gs, h1, h2⟩ := List.mem_flatten.mp hg
  obtain ⟨r, _, rfl⟩ := List.mem_map.mp h1
  exact pageRun_backs s _ _ g h2

/-- Two pieces of device memory share no byte. -/
def beside (g k : Seg) : Bool :=
  match g.loc, k.loc with
  | .dev a _, .dev b _ => a + g.len ≤ b || b + k.len ≤ a
  | _, _ => false

theorem apart_of {gs : List Seg} (h : gs.Pairwise fun g k => beside g k = true) : Apart gs := by
  refine h.imp ?_
  intro g k hgk p _ hp
  unfold beside at hgk
  cases hg : g.loc <;> cases hk : k.loc <;>
    simp only [hg, hk, Bool.or_eq_true, decide_eq_true_eq, Bool.false_eq_true] at hgk hp ⊢
  cases p with
  | dev b sy =>
    simp only [within, Bool.and_eq_true, decide_eq_true_eq] at hp
    simp only [within, Bool.and_eq_false_iff, decide_eq_false_iff_not]
    omega
  | _ => simp [within] at hp

/-- A mesh of one square leaf with a boundary at each face (R47, R49): its record stands at 0x4000. -/
def leafMesh : MeshRec := ⟨0x4000, true, 1, 1, 0x4100, 0x4140, 0x4180, 1, 0, 1, 0, 1, 0, 0, 0, 0, 1⟩

/-- The places of the mesh's arrays. -/
def leafArrays : List (List Seg) := leafMesh.arrays.map fun r => pageRun r.1 r.2

/-- What the mesh reads as. -/
def leafData : MeshData := ⟨leafMesh, List.replicate 4 0xFFFFFFFC00000000, [0], [0], [], []⟩

/-- A handle on it, opened by hart 0. -/
def leafHandle (h : Nat) : MeshHandle := ⟨h, leafMesh, ⟨0, 0, false⟩, ⟨0, 0, false⟩, leafArrays, 0, 0, leafData⟩

/-- Hart 0 with that mesh open under handle 16, a command block at 0x4200 that starts with byte `kind`, and registers: x1 the handle,
x2 the block, x3 the record, x4 a misaligned record; VL 1. -/
def meshed (opened : Nat) (extra : List Host.Cell) : State :=
  let s := withX base [(1, 16), (2, 0x4200), (3, 0x4000), (4, 0x4008), (5, 1)]
  { s with
    hart := { s.hart with vl := 1 }
    mem := s.mem
      ++ [(0x80004000, 0x4D), (0x80004001, 0x45), (0x80004002, 0x53), (0x80004003, 0x48), (0x80004004, 1), (0x80004006, 1),
        (0x80004008, 1), (0x8000400C, 1), (0x80004011, 0x41), (0x80004018, 0x40), (0x80004019, 0x41), (0x80004020, 0x80),
        (0x80004021, 0x41), (0x80004028, 1), (0x80004034, 1), (0x80004040, 1), (0x8000405C, 1)]
      ++ ((List.range 4).flatMap fun f => [(0x80004104 + 8 * f, 0xFC), (0x80004105 + 8 * f, 0xFF), (0x80004106 + 8 * f, 0xFF),
        (0x80004107 + 8 * f, 0xFF)]) ++ extra
    lu := { s.lu with ownHandles := ⟨1 + opened, (List.range opened).map fun k => leafHandle (16 * (k + 1) + k), []⟩ } }

/-- The block of an operation that makes a new mesh: NEWREC 0x4300, NEWFOREST 0x4400 with 64 bits, NEWGHOST 0x4440 and NEWGOWNER
0x4480 of 1, REMAP 0x44C0 of 4, DONE at 0x4600; its first bytes as given. -/
def jobBlock (first : List Host.Cell) : List Host.Cell :=
  first ++ [(0x80004209, 0x43), (0x80004211, 0x44), (0x80004218, 64), (0x80004220, 0x40), (0x80004221, 0x44), (0x80004228, 0x80),
    (0x80004229, 0x44), (0x80004230, 1), (0x80004238, 0xC0), (0x80004239, 0x44), (0x80004240, 4), (0x800042E1, 0x46)]

theorem meshed_plain (n : Nat) (e : List Host.Cell) (h : plain (meshed 1 e) = true) : plain (meshed n e) = true := h

theorem plain_arraySegs {s : State} {tr : State → Nat → Except Nat (Loc × State)}
    (htr : ∀ va, va < 2 ^ 30 → tr s va = .ok (.dev (2 ^ 31 + va) false, s)) (rs : List (Nat × Nat))
    (h : ∀ r ∈ rs, r.1 + r.2 ≤ 2 ^ 30) : s.arraySegs tr rs = .ok (rs.map fun r => pageRun r.1 r.2, s) := by
  induction rs with
  | nil => rfl
  | cons r rs ih =>
    have h1 : spanWith tr (piecesOf r.1 r.2) s = .ok (pageRun r.1 r.2, s) := plain_pieces htr _ _ _ (h r (by simp))
    unfold State.arraySegs
    rw [h1]
    dsimp only
    rw [if_neg (by rw [pageRun_device]; simp), ih (fun r hr => h r (by simp [hr]))]
    rfl

theorem plain_here {s : State} (hp : plain s = true) (va : Nat) (h : va < 2 ^ 30) :
    readHere s va = .ok (.dev (2 ^ 31 + va) false, s) := plain_xlate hp va .read h

theorem plain_readIn {s : State} (hp : plain s = true) (va : Nat) (h : va < 2 ^ 30) :
    Space.readIn ⟨0, 0, false⟩ s va = .ok (.dev (2 ^ 31 + va) false, s) := by
  have hw : inWindows va = false := by
    have : ¬ capBase ≤ va := by simp [capBase]; omega
    simp [inWindows, this]
  unfold Space.readIn
  rw [hw]
  exact plain_xlateIn hp ((plain_is hp).caches false) 0 false va .read h

/-- The answer is this one. -/
def isOk {α ε : Type} [DecidableEq α] (r : Except ε α) (x : α) : Bool :=
  match r with
  | .ok y => decide (y = x)
  | .error _ => false

theorem ok_of {α ε : Type} [DecidableEq α] {r : Except ε α} {x : α} (h : isOk r x = true) : r = .ok x := by
  cases r with
  | error e => cases h
  | ok y => rw [of_decide_eq_true h]

theorem leaf_segs {s : State} (hp : plain s = true) (h : Nat) : s.meshSegs (leafHandle h) = .ok (leafArrays, s) := by
  unfold State.meshSegs leafHandle
  dsimp only
  rw [plain_arraySegs (plain_readIn hp) _ (by decide)]
  dsimp only
  rw [plain_arraySegs (plain_readIn hp) _ (by decide)]
  dsimp only
  rw [← List.map_append, List.take_append_drop]
  rfl

theorem leaf_reads {s : State} (hp : plain s = true) (h : Nat) (hm : isOk (s.meshFrom leafMesh leafArrays false) leafData = true) :
    s.readMesh (leafHandle h) = .ok (leafData, leafArrays, s) := by
  unfold State.readMesh
  rw [leaf_segs hp]
  have : s.meshFrom (leafHandle h).mesh leafArrays false = .ok leafData := ok_of hm
  dsimp only
  rw [this]

theorem leaf_opens (n : Nat) (hp : plain (meshed n []) = true) (hm : isOk ((meshed n []).meshFrom leafMesh leafArrays) leafData = true) :
    (meshed n []).openMesh 0x4000 = .ok (leafData, leafArrays, meshed n []) := by
  have hq : (meshed n []).poisonIn 0x4000 256 [pageRun 0x4000 256].flatten = none := by
    have : (meshed n []).poisonIn 0x4000 256 [pageRun 0x4000 256].flatten = (meshed 1 []).poisonIn 0x4000 256 [pageRun 0x4000 256].flatten :=
      rfl
    rw [this]
    decide +kernel
  have hx : parseMeshRec 0x4000 ((meshed n []).segNat [pageRun 0x4000 256].flatten) = some leafMesh := by
    have : (meshed n []).segNat [pageRun 0x4000 256].flatten = (meshed 1 []).segNat [pageRun 0x4000 256].flatten := rfl
    rw [this]
    decide +kernel
  have hm' : (meshed n []).meshFrom leafMesh leafArrays = .ok leafData := ok_of hm
  unfold State.openMesh
  rw [if_neg (by decide), plain_arraySegs (plain_here hp) _ (by decide)]
  dsimp only [List.map]
  rw [hq]
  dsimp only
  rw [hx]
  dsimp only
  rw [plain_arraySegs (plain_here hp) _ (by decide)]
  dsimp only [List.map, List.drop]
  show (match (meshed n []).meshFrom leafMesh leafArrays with
    | .error e => Except.error e
    | .ok m => Except.ok (m, leafArrays, meshed n [])) = _
  rw [hm']

theorem meshed1_plain : plain (meshed 1 []) = true := by decide +kernel

theorem meshed1_reads : (meshed 1 []).readMesh (leafHandle 16) = .ok (leafData, leafArrays, meshed 1 []) :=
  leaf_reads meshed1_plain 16 (by decide +kernel)

/-- Another operation is in flight on the handle. -/
def busy : State := { meshed 1 [] with ops := [⟨1, 0, 0, 0, 16, false, [], [], [], 0, .engine 0 none none none false⟩] }

theorem unranged {s : State} (h : s.ops = []) (rs : List (Nat × Nat)) : s.rangesHeld rs = false := by simp [State.rangesHeld, h]

theorem witness_mesh_handles :
    ((meshed 1 []).hart.unacked = [] ∧ ((meshed 1 []).rx 3).toNat = 0x4000 ∧
      (meshed 1 []).openMesh 0x4000 = .ok (leafData, leafArrays, meshed 1 []) ∧ (∀ rs, (meshed 1 []).rangesHeld rs = false) ∧
      (meshed 1 []).myHandles.mesh.length < 16 ∧ ((meshed 1 []).myHandles.mesh.map (·.h % 16)).Nodup) ∧
    16 ≤ (meshed 16 []).myHandles.mesh.length ∧
    (match (meshed 16 []).openMesh 0x4000 with | .ok _ => true | .error _ => false) = true ∧
    (meshed 1 []).openMesh ((meshed 1 []).rx 4).toNat = .error .broken ∧
    (∃ h, OpenMesh (meshed 1 []) 1 h ∧ (meshed 1 []).handleBusy h.h = false) ∧ ∃ h, OpenMesh busy 1 h ∧ busy.handleBusy h.h = true := by
  refine ⟨⟨rfl, by decide +kernel, leaf_opens 1 meshed1_plain (by decide +kernel), unranged rfl, by decide +kernel⟩, by decide +kernel,
    by decide +kernel, ?_, ⟨_, rfl, by decide +kernel⟩, _, rfl, by decide +kernel⟩
  have : ((meshed 1 []).rx 4).toNat = 0x4008 := by decide +kernel
  rw [this]
  rfl

theorem leaf_clean : (meshed 1 []).segsPoisoned leafArrays.flatten = false := by decide +kernel

theorem witness_keys :
    ∃ h, OpenMesh (meshed 1 []) 1 h ∧ ((meshed 1 []).handleBusy h.h = false ∧ (meshed 1 []).hart.ew = 3 ∧
      (2 : Reg).toNat % (meshed 1 []).hart.cfg.gm = 0) ∧ (meshed 1 []).hart.poison = [] ∧ (meshed 1 []).hart.cut = none ∧ VlFits (meshed 1 []) (meshed 1 []).hart.cfg ∧
      (meshed 1 []).readMesh h = .ok (leafData, leafArrays, meshed 1 []) ∧ (meshed 1 []).segsPoisoned leafArrays.flatten = false :=
  ⟨_, rfl, by decide +kernel, rfl, rfl, by unfold VlFits; decide +kernel, meshed1_reads, leaf_clean⟩

/-- The first bytes of a block: FLAGS at 0x4500 for MSREFINE, none for MSBAL, the mode for MSGHOST. -/
def firstBytes (kind mode : Nat) : List Host.Cell :=
  if kind = 0 then [(0x80004201, 0x45)] else if kind = 2 ∧ mode = 1 then [(0x80004200, 1)] else []

/-- The bytes of the block as a number. -/
def jobNumber (first : Nat) : Nat :=
  first + 0x4300 * 2 ^ 64 + 0x4400 * 2 ^ 128 + 64 * 2 ^ 192 + 0x4440 * 2 ^ 256 + 0x4480 * 2 ^ 320 + 2 ^ 384 + 0x44C0 * 2 ^ 448 +
    4 * 2 ^ 512 + 0x4600 * 2 ^ 1792

/-- What an operation over that mesh with a block needs of a state, in one condition to be computed. -/
def jobFits (s : State) (kind blk : Nat) : Prop :=
  plain s = true ∧ (s.rx 2).toNat = 0x4200 ∧ s.segNat (pageRun 0x4200 256) = blk ∧
    ((cellsWf s.mem && s.regions.all fun r => cellsWf r.cells) = true ∧ s.myLaunch = none ∧ s.handleBusy 16 = false) ∧
    (blockField blk 0xE0 8 % 8 = 0 ∧ blockField blk 0xE8 1 < 8 ∧ blockField blk 0xE9 7 = 0 ∧ blockField blk 0xF8 8 = 0) ∧
    (∀ r ∈ tailRanges (s.rx 2) blk, r.1 + r.2.1 ≤ 2 ^ 30) ∧
    blockField blk 0 8 + (if kind = 0 then leafMesh.nown else 0) ≤ 2 ^ 30 ∧
    (∀ r ∈ (outputs blk).map fun o => (o.1, o.2, Access.write), r.1 + r.2.1 ≤ 2 ^ 30) ∧
    ((pageRuns ((outputs blk).map fun o => (o.1, o.2, .write))).flatten.Pairwise fun g k => beside g k = true) ∧
    isOk (s.meshFrom leafMesh leafArrays) leafData = true

theorem leaf_spans {s : State} (hp : plain s = true) (h : Nat) : ArraysSpan s (leafHandle h) leafArrays := by
  refine ⟨rfl, fun i r g hr hg => ?_⟩
  have hs : (leafHandle h).spaceOf i = ⟨0, 0, false⟩ := by unfold MeshHandle.spaceOf; split <;> rfl
  have hg' : g = pageRun r.1 r.2 := by
    simp only [leafArrays, List.getElem?_map] at hg
    have : leafMesh.arrays[i]? = some r := hr
    rw [this] at hg
    exact (Option.some.inj hg).symm
  have hb : r.1 + r.2 ≤ 2 ^ 30 := (by decide : ∀ r ∈ leafMesh.arrays, r.1 + r.2 ≤ 2 ^ 30) r (List.mem_of_getElem? hr)
  rw [hs, hg']
  exact ⟨plain_pieces (plain_readIn hp) _ _ _ hb,
    fun _ hq => plain_currentIn hp 0 _ .read (Nat.lt_of_lt_of_le (pieces_within _ _ _ hb hq) hb)⟩

theorem leafArrays_device : ∀ gs ∈ leafArrays, onlyDevice gs = true := by
  intro gs h
  obtain ⟨r, _, rfl⟩ := List.mem_map.mp h
  exact pageRun_device _ _

theorem job_ready (kind mode : Nat) (hk : kind = 0 ∧ mode = 0 ∨ kind = 1 ∧ mode = 0 ∨ kind = 2 ∧ mode ≤ 1) :
    ∃ s blk tails flags outs arrs, Inv s ∧ JobReady s kind mode 1 2 (leafHandle 16) blk tails flags outs arrs leafData := by
  have key (blk : Nat) (hf : jobFits (meshed 1 (jobBlock (firstBytes kind mode))) kind blk) (hj : JobBlock kind mode leafMesh blk) :
      ∃ s blk tails flags outs arrs, Inv s ∧ JobReady s kind mode 1 2 (leafHandle 16) blk tails flags outs arrs leafData := by
    obtain ⟨hp, hx, hb, ⟨hi, hl, hfree⟩, ht, htr, hfl, hout, hap, hm⟩ := hf
    refine ⟨meshed 1 (jobBlock (firstBytes kind mode)), blk, pageRuns (tailRanges ((meshed 1 (jobBlock (firstBytes kind mode))).rx 2) blk), pageRun (blockField blk 0 8) (if kind = 0 then leafMesh.nown else 0),
      if kind = 2 ∧ mode = 0 then [] else pageRuns ((outputs blk).map fun o => (o.1, o.2, .write)), leafArrays, inv_of hi, ?_⟩
    refine ⟨rfl, inBudget_none hl, ⟨hfree, rfl⟩, plain_noPoison hp, ⟨rfl, rfl⟩, ⟨by rw [hx], ⟨_, ?_, pageRun_backs _ _ _, pageRun_clean hp _ _, hb⟩, ht⟩, hj,
      ⟨plain_allSpan hp _ htr, pageRuns_device⟩, .inl (plain_spans hp .read hfl), ⟨pageRun_backs _ _ _, pageRun_clean hp _ _⟩, ?_, ?_,
      ⟨leaf_spans hp 16, leafArrays_device⟩, ok_of hm⟩
    · rw [hx]
      exact plain_spans hp .read (by decide)
    · split
      · exact rfl
      · exact plain_allSpan hp _ hout
    · split
      · exact ⟨fun gs h => absurd h (by simp), List.Pairwise.nil⟩
      · exact ⟨pageRuns_device, apart_of hap⟩
  have hk' : (kind, mode) = (0, 0) ∨ (kind, mode) = (1, 0) ∨ (kind, mode) = (2, 0) ∨ (kind, mode) = (2, 1) := by
    simp only [Prod.mk.injEq]
    omega
  simp only [Prod.mk.injEq] at hk'
  rcases hk' with ⟨rfl, rfl⟩ | ⟨rfl, rfl⟩ | ⟨rfl, rfl⟩ | ⟨rfl, rfl⟩
  · exact key (jobNumber 0x4500) (by unfold jobFits; decide +kernel) (by unfold JobBlock; decide +kernel)
  · exact key (jobNumber 0) (by unfold jobFits; decide +kernel) (by unfold JobBlock; decide +kernel)
  · exact key (jobNumber 0) (by unfold jobFits; decide +kernel) (by unfold JobBlock; decide +kernel)
  · exact key (jobNumber 1) (by unfold jobFits; decide +kernel) (by unfold JobBlock; decide +kernel)

/-- The block of an MSREMAP: one record at 0x6500, OLD 0x6540 of four cells, NEW 0x6580, one component of 8 bytes; the record names
source 0, in case 1 as a family of four and in case 2 with a reserved bit. -/
def remapCells (c : Fin 3) : List Host.Cell :=
  ([(0x80004201, 0x65), (0x80004208, 0x1), (0x80004210, 0x40), (0x80004211, 0x65), (0x80004218, 0x4), (0x80004220, 0x80),
    (0x80004221, 0x65), (0x8000422C, 0x1), (0x800042E1, 0x46)] : List Host.Cell)
    ++ match c with
      | 0 => []
      | 1 => [(0x80006503, 0x40)]
      | 2 => [(0x80006500, 1)]

def remapNumber : Nat :=
  0x6500 + 2 ^ 64 + 0x6540 * 2 ^ 128 + 4 * 2 ^ 192 + 0x6580 * 2 ^ 256 + 2 ^ 352 + 0x4600 * 2 ^ 1792

theorem remap_fields :
    let f := blockField remapNumber
    (f 0x29 3 = 0 ∧ f 0x30 0xB0 = 0 ∧ remapBytes (f 0x28 1) = some 8 ∧ 1 ≤ f 0x2C 4 ∧ f 0x2C 4 ≤ 64 ∧ f 0 8 % 8 = 0 ∧
      f 0x10 8 % 8 = 0 ∧ f 0x20 8 % 8 = 0 ∧ clash (f 0x10 8, f 0x18 8 * (f 0x2C 4 * 8)) (f 0x20 8, f 0x08 8 * (f 0x2C 4 * 8)) = false) ∧
    f 0 8 = 0x6500 ∧ f 0x08 8 = 1 ∧ f 0x10 8 = 0x6540 ∧ f 0x18 8 = 4 ∧ f 0x20 8 = 0x6580 ∧ f 0x2C 4 = 1 := by decide +kernel

theorem none_writes {c : Fin 3} {gs : List Seg} : NoneWrites (meshed 1 (remapCells c)) gs := fun _ ho => nomatch ho

theorem witness_remap (c : Fin 3) :
    let s := meshed 1 (remapCells c)
    let f := blockField remapNumber
    let h := leafHandle 16
    ∃ tails recs old new, OpenMesh s 1 h ∧ InBudget s ∧ Free s h.h ∧ BlockAt s (s.rx 2) remapNumber ∧ Inv s ∧ NoLinePoisoned s ∧
      AllSpan s (tailRanges (s.rx 2) remapNumber) tails ∧ (∀ gs ∈ tails, onlyDevice gs = true) ∧
      SpansAt s (f 0 8) (8 * f 0x08 8) .read recs ∧ SpansAt s (f 0x10 8) (f 0x18 8 * (f 0x2C 4 * 8)) .read old ∧
      SpansAt s (f 0x20 8) (f 0x08 8 * (f 0x2C 4 * 8)) .write new ∧ AllBack s [recs, old, new] ∧ Apart new ∧
      NoneWrites s recs ∧ s.segsPoisoned recs = false ∧ s.segsPoisoned old = false ∧
      nth (s.segNat recs) 8 0 / 2 ^ 32 = 0 ∧ nth (s.segNat recs) 8 0 / 2 ^ 29 % 8 = (if c = 1 then 2 else 0) ∧
      nth (s.segNat recs) 8 0 % 2 ^ 26 = (if c = 2 then 1 else 0) ∧ h.mesh.nkids = 4 := by
  intro s f h
  have hp : plain s = true := by revert c; decide +kernel
  have hx : (s.rx 2).toNat = 0x4200 := rfl
  obtain ⟨-, e0, e8, e10, e18, e20, e2C⟩ := remap_fields
  have e0' : f 0 8 = 0x6500 := e0
  have e8' : f 0x08 8 = 1 := e8
  have e10' : f 0x10 8 = 0x6540 := e10
  have e18' : f 0x18 8 = 4 := e18
  have e20' : f 0x20 8 = 0x6580 := e20
  have e2C' : f 0x2C 4 = 1 := e2C
  refine ⟨pageRuns (tailRanges (s.rx 2) remapNumber), pageRun 0x6500 8, pageRun 0x6540 32, pageRun 0x6580 8, rfl,
    inBudget_none rfl, ⟨rfl, rfl⟩,
    ⟨by rw [hx], ⟨pageRun 0x4200 256, by rw [hx]; exact plain_spans hp .read (by decide), pageRun_backs _ _ _, pageRun_clean hp _ _, ?_⟩,
      by decide +kernel⟩, inv_of ?_, plain_noPoison hp, plain_allSpan hp _ (by rw [show s.rx 2 = 0x4200#64 from rfl]; decide +kernel), pageRuns_device, ?_, ?_, ?_,
    pageRuns_back _ [(0x6500, 8, .read), (0x6540, 32, .read), (0x6580, 8, .write)], pageRun_apart _ _,
    none_writes, pageRun_clean hp _ _, pageRun_clean hp _ _, ?_⟩
  · revert c; decide +kernel
  · revert c; decide +kernel
  · rw [e0', e8']; exact plain_spans hp .read (by decide)
  · rw [e10', e18', e2C']; exact plain_spans hp .read (by decide)
  · rw [e20', e8', e2C']; exact plain_spans hp .write (by decide)
  · revert c; decide +kernel

/-- The block of an MSCOLOR in a mode: MAXC 64, colours 0x6000, list 0x6040, offsets 0x6080; in mode 2 a graph of two elements
without edges, ROWPTR 0x6400, COLIDX 0x6440. -/
def colourCells (mode : Fin 3) : List Host.Cell :=
  (if mode = 0 then [] else [(0x80004200, BitVec.ofNat 8 mode)])
    ++ [(0x80004204, 0x40), (0x80004209, 0x60), (0x80004210, 0x40), (0x80004211, 0x60), (0x80004218, 0x80), (0x80004219, 0x60)]
    ++ (if mode = 2 then [(0x80004220, 0x2), (0x80004229, 0x64), (0x80004230, 0x40), (0x80004231, 0x64)] else [])
    ++ [(0x800042E1, 0x46)]

/-- The mesh's state with that block; x1 names no mesh in mode 2. -/
def coloured (mode : Fin 3) : State :=
  let s := meshed 1 (colourCells mode)
  if mode = 2 then { s with hart := { s.hart with x := s.hart.x.set 1 0 } } else s

def colourNumber (mode : Nat) : Nat :=
  mode + 64 * 2 ^ 32 + 0x6000 * 2 ^ 64 + 0x6040 * 2 ^ 128 + 0x6080 * 2 ^ 192
    + (if mode = 2 then 2 * 2 ^ 256 + 0x6400 * 2 ^ 320 + 0x6440 * 2 ^ 384 else 0) + 0x4600 * 2 ^ 1792

/-- Elements of the mesh and of the graph: one cell, no face but boundaries, two elements. -/
def colourElements (mode : Fin 3) : Nat := if mode = 0 then 1 else if mode = 1 then 0 else 2

theorem colour_ready (mode : Fin 3) :
    plain (coloured mode) = true ∧ ColourReady (coloured mode) mode 2 (colourNumber mode) (colourElements mode)
      (pageRuns (tailRanges ((coloured mode).rx 2) (colourNumber mode)))
      (pageRuns [(0x6000, colourElements mode, .write), (0x6040, 4 * colourElements mode, .write), (0x6080, 260, .write)]) := by
  have hn : colourElements mode ≤ 4 := by revert mode; decide
  have hp : plain (coloured mode) = true := by clear hn; revert mode; decide +kernel
  have hx : ((coloured mode).rx 2).toNat = 0x4200 := by clear hn hp; revert mode; decide +kernel
  have hf : blockField (colourNumber mode) 0x08 8 = 0x6000 ∧ blockField (colourNumber mode) 0x10 8 = 0x6040 ∧
      blockField (colourNumber mode) 0x18 8 = 0x6080 := by clear hn hp hx; revert mode; decide +kernel
  refine ⟨hp, ⟨inBudget_none (by revert mode; decide +kernel), by revert mode; decide +kernel, plain_noPoison hp,
    inv_of (by revert mode; decide +kernel),
    ⟨by rw [hx], ⟨pageRun 0x4200 256, by rw [hx]; exact plain_spans hp .read (by decide), pageRun_backs _ _ _, pageRun_clean hp _ _,
      by revert mode; decide +kernel⟩, by revert mode; decide +kernel⟩, by revert mode; decide +kernel,
    ⟨plain_allSpan hp _ (by revert mode; decide +kernel), pageRuns_device⟩, ?_, pageRuns_back _ _,
    apart_of (by revert mode; decide +kernel)⟩⟩
  rw [hf.1, hf.2.1, hf.2.2]
  refine plain_allSpan hp _ fun r hr => ?_
  simp only [List.mem_cons, List.not_mem_nil, or_false] at hr
  rcases hr with rfl | rfl | rfl <;> simp only <;> omega

theorem witness_mesh_colours (mode : Fin 3) (hm : (mode : Nat) < 2) :
    blockField (colourNumber mode) 0x20 8 = 0 ∧ (coloured mode).rx 1 ≠ 0 ∧ OpenMesh (coloured mode) 1 (leafHandle 16) ∧
      Free (coloured mode) 16 ∧ ArraysSpan (coloured mode) (leafHandle 16) leafArrays ∧
      (∀ gs ∈ leafArrays, onlyDevice gs = true) ∧ (coloured mode).meshFrom leafMesh leafArrays = .ok leafData ∧
      (leafHandle 16).data = leafData ∧
      colourElements mode = if (mode : Nat) = 0 then leafData.locals.length else leafData.faceStream.length / 2 := by
  have hs := leaf_spans (colour_ready mode).1 16
  have hd : mode = 0 ∨ mode = 1 := by omega
  rcases hd with rfl | rfl <;>
    exact ⟨by decide +kernel, by decide +kernel, rfl, ⟨by decide +kernel, rfl⟩, hs, leafArrays_device, ok_of (by decide +kernel), rfl,
      by decide +kernel⟩

theorem witness_graph_colours :
    let s := coloured 2
    let f := blockField (colourNumber 2)
    ∃ last rows cols, s.rx 1 = 0 ∧ f 0x20 8 = 2 ∧ f 0x28 8 % 8 = 0 ∧ f 0x30 8 % 4 = 0 ∧
      SpansAt s ((f 0x28 8 + 8 * f 0x20 8) % 2 ^ 64) 8 .read last ∧ SpansAt s (f 0x28 8) (8 * (f 0x20 8 + 1)) .read rows ∧
      SpansAt s (f 0x30 8) (4 * s.segNat last) .read cols ∧ AllBack s [last, rows, cols] ∧
      s.segsPoisoned (last ++ rows ++ cols) = false ∧
      (∀ i, i < 2 → nth (s.segNat rows) 8 i ≤ nth (s.segNat rows) 8 (i + 1) ∧ nth (s.segNat rows) 8 (i + 1) ≤ s.segNat last) ∧
      ∀ i e, i < 2 → nth (s.segNat rows) 8 i ≤ e → e < nth (s.segNat rows) 8 (i + 1) → nth (s.segNat cols) 4 e < 2 := by
  intro s f
  have hp : plain s = true := (colour_ready 2).1
  have hr : s.segNat (pageRun 0x6400 24) = 0 := by decide +kernel
  have hl : s.segNat (pageRun 0x6410 8) = 0 := by decide +kernel
  have hf : f 0x20 8 = 2 ∧ f 0x28 8 = 0x6400 ∧ f 0x30 8 = 0x6440 := by decide +kernel
  rw [hf.1, hf.2.1, hf.2.2]
  refine ⟨pageRun 0x6410 8, pageRun 0x6400 24, pageRun 0x6440 0, by decide +kernel, rfl, by decide, by decide,
    plain_spans hp .read (by decide), plain_spans hp .read (by decide), ?_,
    pageRuns_back _ [(0x6410, 8, .read), (0x6400, 24, .read), (0x6440, 0, .read)], ?_, ?_, ?_⟩
  · rw [hl]
    exact plain_spans hp .read (by decide)
  · have h1 := pageRun_clean hp 0x6410 8
    have h2 := pageRun_clean hp 0x6400 24
    have h3 := pageRun_clean hp 0x6440 0
    simp only [State.segsPoisoned, List.any_append, Bool.or_eq_false_iff] at h1 h2 h3 ⊢
    exact ⟨⟨h1, h2⟩, h3⟩
  · intro i _
    rw [hr, hl]
    simp [nth]
  · intro i e _ _ he
    rw [hr] at he
    simp [nth] at he

/-- A mesh operation has settled its status. -/
def settled : EngineOp := ⟨1, 0, 0, 0, 16, false, [], [], [], 0, .engine 5 (some (.dev 0x800042F0 false)) (some (.dev 0x80004600 false))
    (some ⟨leafMesh, ⟨0, 0, false⟩, leafArrays, leafData⟩) false⟩

theorem witness_completion_of_engines :
    (let o : EngineOp := { settled with sent := [0] }
     let s : State := { meshed 1 [] with ops := [o], targets := [⟨0, 0, true, false, true, .io (2 ^ 51), 5, true, false⟩] }
     IsOp s 1 o ∧ ¬ HasPerformed s o) ∧
    let s : State := { meshed 1 [] with ops := [settled] }
    IsOp s 1 settled ∧ Inv s ∧ (∀ l, IsLaunch s settled.lid l → isFinal l.state = false) ∧
      HasPerformed s settled ∧
      stored (.dev 0x800042F0 false) = true ∧ stored (.dev 0x80004600 false) = true ∧
      ∀ p, within (.dev 0x800042F0 false) 8 p = true → within (.dev 0x80004600 false) 8 p = false := by
  refine ⟨⟨rfl, by unfold HasPerformed; decide +kernel⟩, rfl, inv_of (by decide +kernel), ?_, by unfold HasPerformed; decide +kernel, rfl, rfl, fun p hp => ?_⟩
  · intro l h
    cases h
  · cases p with
    | dev b sy =>
      simp only [within, Bool.and_eq_true, decide_eq_true_eq] at hp
      simp only [within, Bool.and_eq_false_iff, decide_eq_false_iff_not]
      omega
    | _ => simp [within] at hp

-- sampling

/-- The binding of a graph of two variables without edges, of colours 0 and 0 below NCOL 2; variable 0 is clamped (R330, R331). -/
def sampling : GibbsHandle := ⟨0, 2, 0, 2, 0x5100, 0x5140, 0x5160, 0x5180, 0x51C0, 0x5200, 0, 0, 0, 0, 0, [], none, [], [], ⟨[], [], [], [], [], 0⟩, 0⟩

/-- Its arrays. -/
def graph : Graph := ⟨[0, 0, 0], [], [], [0, 0], [0, 0], 1⟩

/-- Hart 0 with the record at 0x5000 in x3, CLAMPV at 0x5240 all ones, and handles as given: x1 the handle 16, x2 an aligned place, x4
a misaligned one, (x5, x6, x7) sweep counts. -/
def sampler (hs : List GibbsHandle) : State :=
  let s := withX base [(1, 16), (2, 0x7000), (3, 0x5000), (4, 0x7001), (5, 1), (6, 2 ^ 32 * (2 ^ 32 - 1) + 2)]
  { s with
    mem := s.mem ++ [(0x80005000, 0x2), (0x80005004, 0x2), (0x80005009, 0x51), (0x80005010, 0x40), (0x80005011, 0x51), (0x80005018, 0x60), (0x80005019, 0x51), (0x80005020, 0x80), (0x80005021, 0x51), (0x80005028, 0xC0), (0x80005029, 0x51), (0x80005031, 0x52), (0x80005038, 0x40), (0x80005039, 0x52)] ++ [(0x80005200, 1), (0x80005240, 0xFF)]
    lu := { s.lu with ownHandles := ⟨2, [], hs⟩ } }

theorem sampler_plain (hs : List GibbsHandle) : plain (sampler hs) = true := by
  have h : plain (sampler []) = true := by decide +kernel
  exact h

theorem sampler_reads (hs : List GibbsHandle) (gs : List Seg) : (sampler hs).segNat gs = (sampler []).segNat gs := rfl

theorem sampler_graph (hs : List GibbsHandle) (g : GibbsHandle) (hg : g.arrays = sampling.arrays)
    (hc : g.nvar = 2 ∧ g.ne = 0 ∧ g.ncol = 2) : ∃ gs, GraphAt (sampler hs) g gs graph ∧ ∀ r ∈ gs, Unheld (sampler hs) r := by
  have hp := sampler_plain hs
  refine ⟨pageRuns (g.arrays.map fun r => (r.1, r.2, .read)), ⟨plain_allSpan hp _ (by rw [hg]; decide +kernel), pageRuns_back _ _, ?_, ?_⟩,
    fun r _ => unheldAll rfl r⟩
  · have : (sampler hs).coh.poison = [] := rfl
    simp only [State.segsPoisoned, List.any_eq_false]
    intro q hq
    obtain ⟨rs, hr, hm⟩ := List.mem_flatten.mp hq
    obtain ⟨r, _, rfl⟩ := List.mem_map.mp hr
    have := pageRun_clean hp r.1 r.2.1
    simp only [State.segsPoisoned, List.any_eq_false] at this
    exact this q hm
  · have e : (pageRuns (g.arrays.map fun r => (r.1, r.2, .read))).map (sampler hs).segNat = [0, 0, 0, 0, 0, 1] := by
      rw [hg]
      have : (sampler hs).segNat = (sampler []).segNat := funext (sampler_reads hs)
      rw [this]
      decide +kernel
    rw [e]
    unfold GibbsHandle.parse
    rw [hc.1, hc.2.1, hc.2.2]
    decide +kernel

/-- The handle that x1 names, with a table or none. -/
def bound (table : Option (List Word)) : GibbsHandle := { sampling with h := 16, s := 1, marg := [3, 4], table := table, graph := graph }

theorem witness_sampling_handles :
    (NoLinePoisoned (sampler []) ∧ NotBegun (sampler [])) ∧
    ((sampler []).hart.unacked = [] ∧ ((sampler []).rx 3).toNat = 0x5000 ∧ 0x5000 % 128 = 0 ∧
      ∃ rec cv gs, SpansAt (sampler []) 0x5000 128 .read rec ∧ Backs (sampler []) rec ∧ (sampler []).segsPoisoned rec = false ∧
        (∀ r, Unheld (sampler []) r) ∧ parseGbind ((sampler []).segNat rec) = some sampling ∧
        GraphAt (sampler []) sampling gs graph ∧
        SpansAt (sampler []) (blockField ((sampler []).segNat rec) 0x38 8) ((sampling.nvar + 7) / 8) .read cv ∧ Backs (sampler []) cv ∧
        (sampler []).segsPoisoned cv = false ∧ blockField ((sampler []).segNat rec) 0x40 8 = 0 ∧ sampling.done = 0 ∧
        SpansAt (sampler []) 0 0 .read [] ∧ Backs (sampler []) [] ∧ RoomFor (sampler []) sampling) ∧
    ¬ RoomFor (sampler (List.replicate 8 (bound none))) sampling ∧
    (OpenGibbs (sampler [bound none]) 1 (bound none) ∧ Free (sampler [bound none]) 16 ∧
      ∀ va, va + 2048 ≤ 2 ^ 30 → ∃ tab, SpansAt (sampler [bound none]) va 2048 .read tab ∧ Backs (sampler [bound none]) tab ∧
        Unheld (sampler [bound none]) tab ∧ (sampler [bound none]).segsPoisoned tab = false) ∧
    (((sampler []).rx 2).toNat % 8 = 0 ∧ ((sampler []).rx 4).toNat % 8 ≠ 0 ∧ (sampler [bound none]).handleBusy 16 = false) ∧
    (let s := { sampler [bound none] with ops := [⟨1, 0, 0, 0, 16, false, [], [], [], 0, .engine 0 none none none true⟩] }
     OpenGibbs s 1 (bound none) ∧ s.handleBusy 16 = true) := by
  have hp := sampler_plain []
  have hc : blockField ((sampler []).segNat (pageRun 0x5000 128)) 0x38 8 = 0x5240 := by decide +kernel
  obtain ⟨gs, hg, _⟩ := sampler_graph [] sampling rfl ⟨rfl, rfl, rfl⟩
  refine ⟨⟨plain_noPoison hp, rfl⟩, ⟨rfl, by decide +kernel, by decide, pageRun 0x5000 128, pageRun 0x5240 1, gs, plain_spans hp .read (by decide),
    pageRun_backs _ _ _, pageRun_clean hp _ _, fun r => unheldAll rfl r, by decide +kernel, hg, ?_, pageRun_backs _ _ _,
    pageRun_clean hp _ _, by decide +kernel, rfl, plain_spans hp .read (by decide), fun g h => (by cases h), ⟨by decide +kernel, by decide +kernel⟩⟩,
    fun h => absurd h.1 (by decide +kernel),
    ⟨rfl, ⟨by decide +kernel, rfl⟩, fun va h => ⟨pageRun va 2048, plain_spans (sampler_plain _) .read h, pageRun_backs _ _ _,
      unheldAll rfl _, pageRun_clean (sampler_plain _) _ _⟩⟩, by decide +kernel, rfl, by decide +kernel⟩
  rw [hc]
  exact plain_spans hp .read (by decide)

/-- The handle's graph in the sampler's memory. -/
theorem bound_graph (table : Option (List Word)) : ∃ gs, GraphAt (sampler [bound table]) (bound table) gs graph := by
  obtain ⟨gs, hg, _⟩ := sampler_graph [bound table] (bound table) rfl ⟨rfl, rfl, rfl⟩
  exact ⟨gs, hg⟩

/-- A table of zeros. -/
def zeros : List Word := List.replicate 256 0

theorem sweep_counts :
    ((sampler [bound (some zeros)]).rx 0).toNat % 2 ^ 32 = 0 ∧
    ((sampler [bound (some zeros)]).rx 0).toNat / 2 ^ 32 + 0 ≤ 2 ^ 32 ∧
    2 ^ 32 < ((sampler [bound (some zeros)]).rx 6).toNat / 2 ^ 32 + ((sampler [bound (some zeros)]).rx 6).toNat % 2 ^ 32 ∧
    1 ≤ ((sampler [bound (some zeros)]).rx 5).toNat % 2 ^ 32 ∧
    ((sampler [bound (some zeros)]).rx 5).toNat / 2 ^ 32 + ((sampler [bound (some zeros)]).rx 5).toNat % 2 ^ 32 ≤ 2 ^ 32 := by
  decide +kernel

theorem witness_sweeps :
    (OpenGibbs (sampler [bound none]) 1 (bound none) ∧ Free (sampler [bound none]) 16 ∧ InBudget (sampler [bound none]) ∧
      DoneAt (sampler [bound none]) (bound none) none ∧ (bound none).table = none) ∧
    (let s := sampler [bound (some zeros)]
     OpenGibbs s 1 (bound (some zeros)) ∧ Free s 16 ∧ InBudget s ∧ DoneAt s (bound (some zeros)) none ∧
       (bound (some zeros)).table = some zeros ∧ (∃ gs, GraphAt s (bound (some zeros)) gs graph) ∧ (∀ x ∈ zeros, x = 0) ∧
       graph.clampm.testBit 0 = true ∧ graph.clampm.testBit 1 = false ∧ Inv s ∧ (bound (some zeros)).bad = [] ∧
       (bound (some zeros)).badMarg = [] ∧
       (bound (some zeros)).marg.length = (bound (some zeros)).nvar) ∧
    (∃ dst, SpansAt (sampler [bound none]) ((sampler [bound none]).rx 2).toNat ((sampling.nvar + 7) / 8) .write dst ∧
      Backs (sampler [bound none]) dst ∧ Apart dst) ∧
    ((sampler [bound none]).rx 2).toNat % 2 = 0 ∧
    ∃ dst, SpansAt (sampler [bound none]) ((sampler [bound none]).rx 2).toNat (2 * (bound none).nvar) .write dst ∧
      Backs (sampler [bound none]) dst ∧ Apart dst :=
  ⟨⟨rfl, ⟨by decide +kernel, rfl⟩, inBudget_none (by decide +kernel), .inl ⟨rfl, rfl⟩, rfl⟩,
    ⟨rfl, ⟨by decide +kernel, rfl⟩, inBudget_none (by decide +kernel), .inl ⟨rfl, rfl⟩, rfl, bound_graph _,
      fun x h => List.eq_of_mem_replicate h, by decide, by decide,
      inv_of (show (cellsWf (sampler []).mem && (sampler []).regions.all fun r => cellsWf r.cells) = true by decide +kernel), rfl, rfl, rfl⟩,
    ⟨_, plain_spans (sampler_plain _) .write (by decide +kernel), pageRun_backs _ _ _, pageRun_apart _ _⟩, by decide +kernel,
    ⟨_, plain_spans (sampler_plain _) .write (by decide +kernel), pageRun_backs _ _ _, pageRun_apart _ _⟩⟩

-- views and collectives

/-- Hart 0 of fabric id 0 in a view of these members under tag 5: x1 an all-reduce record of one 64-bit integer (0x2000 to 0x3000, ETAG
5, CID 9), x2 an aligned place, x3 a misaligned one. -/
def viewed (ms : List Nat) (etag : Nat) (cs : List Coll) : State :=
  let s := withX base [(1, 0x1000), (2, 0x7000), (3, 0x7001), (4, 7), (5, 9000)]
  { s with
    mem := s.mem ++ [(0x80001001, 8), (0x80001008, 1), (0x80001011, 0x20), (0x80001019, 0x30), (0x80001020, BitVec.ofNat 8 etag), (0x80001024, 9)]
    fabric := { s.fabric with tag := 5, members := ms }
    colls := cs
    nextOp := 3 }

theorem viewed_plain (ms : List Nat) (b : Bool) (cs : List Coll) : plain (viewed ms (if b then 5 else 4) cs) = true := by
  have h : plain (viewed [] (if b then 5 else 4) []) = true := by cases b <;> decide +kernel
  exact h

theorem viewed_inv (ms : List Nat) (cs : List Coll) : Inv (viewed ms 5 cs) :=
  inv_of (show (cellsWf (viewed [] 5 []).mem && (viewed [] 5 []).regions.all fun r => cellsWf r.cells) = true by decide +kernel)

theorem witness_view_reads :
    InView (viewed [0, 7] 5 []) ∧ ¬ InView (viewed [] 5 []) ∧ Inv (viewed [0, 7] 5 []) ∧
    ((viewed [0, 7] 5 []).rx 2).toNat % 8 = 0 ∧
    (∃ gs, SpansAt (viewed [0, 7] 5 []) ((viewed [0, 7] 5 []).rx 2).toNat 1024 .write gs ∧ Backs (viewed [0, 7] 5 []) gs ∧ Apart gs ∧
      Unheld (viewed [0, 7] 5 []) gs) ∧
    ((viewed [0, 7] 5 []).rx 3).toNat % 8 ≠ 0 :=
  ⟨by unfold InView; decide +kernel, by unfold InView; decide +kernel, viewed_inv _ _, by decide +kernel,
    ⟨_, plain_spans (viewed_plain [0, 7] true []) .write (by decide +kernel), pageRun_backs _ _ _, pageRun_apart _ _,
      unheldAll rfl _⟩, by decide +kernel⟩

/-- A collective of that record. -/
def gathered (hdr : CollHdr) (shares : List Share) (held : List Nat) (status : Option Word) : Coll where
  id := 1
  lid := 0
  j := 0
  hid := 0
  etag := 5
  tag := 5
  cid := 9
  n := 0
  hdr := hdr
  rootFid := 0
  esize := 8
  record := .dev 0x80001000 false
  done := none
  src := pageRun 0x2000 8
  dst := pageRun 0x3000 8
  asks := []
  sent := []
  prior := none
  ending := none
  nOld := 2
  nNew := 2
  rank := 0
  shares := shares
  held := held
  exps := none
  restarted := false
  status := status

def sumHdr : CollHdr := { kind := 0, type := 8, rop := 0, mode := 0, policy := 0, root := 0, count := 1 }

/-- It in a quiescence. -/
def held (ms : List Nat) (b : Bool) (cs : List Coll) (o : Option Hold) : State :=
  let s := viewed ms (if b then 5 else 4) cs
  { s with fabric := { s.fabric with hold := o } }

theorem held_plain (ms : List Nat) (b : Bool) (cs : List Coll) (o : Option Hold) : plain (held ms b cs o) = true := by
  have h : plain (viewed [] (if b then 5 else 4) []) = true := by cases b <;> decide +kernel
  exact h

theorem held_at (ms : List Nat) (b : Bool) (cs : List Coll) (o : Option Hold) : ((held ms b cs o).rx 1).toNat = 0x1000 := by
  have h : ((viewed [] 5 []).rx 1).toNat = 0x1000 := by decide +kernel
  exact h

theorem record_page : pageRun 0x1000 64 = [⟨.dev 0x80001000 false, 64⟩] := by decide +kernel

/-- That record, with ETAG 5 or 4. -/
def collRecord (b : Bool) : Nat := 0x800 + 2 ^ 64 + 0x2000 * 2 ^ 128 + 0x3000 * 2 ^ 192 + (if b then 5 else 4) * 2 ^ 256 + 9 * 2 ^ 288

theorem record_at (ms : List Nat) (b : Bool) (cs : List Coll) (o : Option Hold) (hc : (cs.filter fun c => c.status.isNone).length < 64) :
    RecordAt (held ms b cs o) 1 (collRecord b) (.dev 0x80001000 false) := by
  have hp := held_plain ms b cs o
  have hx : (viewed [] (if b then 5 else 4) []).segNat (pageRun 0x1000 64) = collRecord b := by cases b <;> decide +kernel
  refine ⟨by rw [held_at], inBudget_none (by cases b <;> rfl), rfl, plain_noPoison hp, hc, ?_, ⟨rfl, trivial, ?_⟩, ?_⟩
  · rw [held_at, ← record_page]; exact plain_spans hp .read (by decide)
  · have := plain_clean hp 0x80001000 [64]
    simpa [State.segsPoisoned, runFrom] using this
  · rw [← hx]
    show natOfBytes _ = natOfBytes _
    simp only [pageRun, show (piecesOf 0x1000 64).map (·.2) = [64] by decide, runFrom, State.segBytes]
    rfl

theorem record_ready (ms : List Nat) (b : Bool) (cs : List Coll) (hc : (cs.filter fun c => c.status.isNone).length < 64)
    (ho : recordOk (collRecord b) (viewed ms (if b then 5 else 4) cs).fabric.size (viewed ms (if b then 5 else 4) cs).fabric.rank
      (viewed ms (if b then 5 else 4) cs).fabric.inView = true) :
    RecordReady (viewed ms (if b then 5 else 4) cs) 1 (collRecord b) (.dev 0x80001000 false) (pageRun 0x2000 8) (pageRun 0x3000 8) := by
  have hp := held_plain ms b cs none
  obtain ⟨h2, h3, h5, hh⟩ : nth (collRecord b) 8 2 = 0x2000 ∧ nth (collRecord b) 8 3 = 0x3000 ∧ nth (collRecord b) 8 5 = 0 ∧
      recordHdr (collRecord b) = sumHdr := by cases b <;> decide +kernel
  have hw (n r : Nat) : collBytes sumHdr.type * sourceCount sumHdr n r = 8 := by
    show collBytes 8 * 1 = 8
    decide +kernel
  have hd (n : Nat) : collBytes sumHdr.type * destCount sumHdr n = 8 := by
    show collBytes 8 * 1 = 8
    decide +kernel
  refine ⟨record_at ms b cs none hc, ?_, ⟨rfl, fun h hh => by cases hh⟩, ho, h5, ?_, ?_⟩
  · rw [show ((viewed ms (if b then 5 else 4) cs).rx 1).toNat = 0x1000 from held_at ms b cs none, ← record_page]
    exact plain_spans hp .write (by decide)
  · rw [h2, hh, hw]
    exact ⟨plain_spans hp .read (by decide), pageRun_backs _ _ _, pageRun_clean hp _ _⟩
  · rw [h3, hh, hd]
    exact ⟨plain_spans hp .write (by decide), pageRun_backs _ _ _⟩

theorem witness_collectives :
    let c := gathered sumHdr [] [] none
    (RecordReady (viewed [] 5 []) 1 (collRecord true) (.dev 0x80001000 false) (pageRun 0x2000 8) (pageRun 0x3000 8) ∧ ¬ InView (viewed [] 5 [])) ∧
    (RecordReady (viewed [0, 7] 4 []) 1 (collRecord false) (.dev 0x80001000 false) (pageRun 0x2000 8) (pageRun 0x3000 8) ∧
      InView (viewed [0, 7] 4 []) ∧ nth (collRecord false) 4 8 ≠ (viewed [0, 7] 4 []).fabric.tag) ∧
    (RecordReady (viewed [0, 7] 5 [c]) 1 (collRecord true) (.dev 0x80001000 false) (pageRun 0x2000 8) (pageRun 0x3000 8) ∧
      nth (collRecord true) 4 8 = (viewed [0, 7] 5 [c]).fabric.tag ∧ IsColl (viewed [0, 7] 5 [c]) 5 9 c ∧
      (∀ d ∈ (viewed [0, 7] 5 [c]).colls, d.id < (viewed [0, 7] 5 [c]).nextOp)) ∧
    (RecordReady (viewed [0, 7] 5 []) 1 (collRecord true) (.dev 0x80001000 false) (pageRun 0x2000 8) (pageRun 0x3000 8) ∧
      (¬ ∃ c, IsColl (viewed [0, 7] 5 []) 5 9 c) ∧ ((viewed [0, 7] 5 []).colls.filter fun c => c.status.isSome).length < 64) := by
  refine ⟨⟨record_ready [] true [] (by decide) (by decide +kernel), by unfold InView; decide +kernel⟩,
    ⟨record_ready [0, 7] false [] (by decide) (by decide +kernel), by unfold InView; decide +kernel, by decide +kernel⟩,
    ⟨record_ready [0, 7] true _ (by decide +kernel) (by decide +kernel), by decide +kernel, by unfold IsColl; decide +kernel,
      fun d hd => by
        have e : d = gathered sumHdr [] [] none := List.mem_singleton.mp hd
        show d.id < 3
        rw [e]
        exact (by decide : 1 < 3)⟩,
    ⟨record_ready [0, 7] true [] (by decide) (by decide +kernel), ?_, by decide⟩⟩
  rintro ⟨c, h⟩
  cases h

theorem witness_cwait :
    let c (w : Option Word) := gathered sumHdr [] [] w
    let s (w : Option Word) := viewed [0, 7] 5 [c w]
    ((s none).rx 1).toNat % 64 = 0 ∧ (∀ w, Claims.Mapped (s w) 0x1000 .read (.dev 0x80001000 false)) ∧
    (∀ w, c w ∈ (s w).colls ∧ (c w).record = .dev 0x80001000 false ∧ (c w).status = w ∧
      ∀ o ∈ (s w).colls, o.record = .dev 0x80001000 false → o ≠ c w → o.id < (c w).id) ∧
    (∀ c ∈ (viewed [] 5 []).colls, c.record ≠ .dev 0x80001000 false) ∧
    (viewed [] 5 []).poisonedAt ((Loc.dev 0x80001000 false).plus 0x30) 8 = false := by
  refine ⟨by decide +kernel, fun w => plain_mapped' (viewed_plain [0, 7] true _) rfl _ _ (by decide),
    fun w => ⟨List.mem_singleton.mpr rfl, rfl, rfl, fun o ho _ hne => absurd (List.mem_singleton.mp ho) hne⟩, by simp [viewed],
    by decide +kernel⟩

/-- Shares of both members. -/
def shares (h7 : CollHdr) (bad : Bool) : List Share := [⟨0, sumHdr, [200], false, none⟩, ⟨1, h7, [100], bad, none⟩]

/-- A member's source has arrived, and its share is still to be made. -/
def unshared : Coll := gathered sumHdr [] [] none

theorem status_stored {s : State} {c : Coll} (hr : c.record = .dev 0x80001000 false) (hd : c.done = none) (hs : s.colls = [c]) :
    StatusStored s c := by
  unfold StatusStored
  rw [hr, hs]
  exact ⟨rfl, trivial, hd, fun d h _ => List.mem_singleton.mp h⟩

theorem witness_matching :
    (∀ h7 bad, let c := gathered sumHdr (shares h7 bad) [] none
      Inv (viewed [0, 7] 5 [c]) ∧ IsColl (viewed [0, 7] 5 [c]) 5 9 c ∧ StatusStored (viewed [0, 7] 5 [c]) c ∧ RanksDiffer c ∧
        c.matched = true ∧ c.gathers = false ∧ (viewed [0, 7] 5 [c]).fabric.acked = none) ∧
    (Inv (viewed [0, 7] 5 [unshared]) ∧ IsColl (viewed [0, 7] 5 [unshared]) 5 9 unshared ∧
      StatusStored (viewed [0, 7] 5 [unshared]) unshared ∧ RanksDiffer unshared ∧ unshared.gathers = true ∧ unshared.prior = none ∧
      Backs (viewed [0, 7] 5 [unshared]) unshared.src) ∧
    (let c := gathered sumHdr [⟨0, sumHdr, [200], false, none⟩] [] none
     c.matched = false ∧ c.gathers = false) ∧
    (∃ q, DiffersAt (gathered sumHdr (shares { sumHdr with count := 2 } false) [] none) q) ∧
    (∀ bad q, ¬ DiffersAt (gathered sumHdr (shares sumHdr bad) [] none) q) ∧
    (∃ q ∈ shares sumHdr true, q.poisoned = true ∧ ∀ o ∈ shares sumHdr true, o.poisoned = true → q.rank ≤ o.rank) ∧
    ∀ q ∈ shares sumHdr false, q.poisoned = false := by
  have hr (h7 : CollHdr) (bad : Bool) : RanksDiffer (gathered sumHdr (shares h7 bad) [] none) := by
    show ([0, 1] : List Nat).Nodup
    decide
  refine ⟨fun h7 bad => ⟨viewed_inv _ _, rfl, status_stored rfl rfl rfl, hr _ _, rfl, rfl, rfl⟩,
    ⟨viewed_inv _ _, rfl, status_stored rfl rfl rfl, List.nodup_nil, by decide +kernel, rfl, pageRun_backs _ _ _⟩, by decide +kernel,
    ⟨_, .tail _ (.head _), _, .head _, rfl, by decide⟩, ?_, ⟨⟨1, sumHdr, [100], true, none⟩, by decide, rfl, by decide⟩, by decide⟩
  rintro bad q ⟨hq, z, hz, -, h⟩
  simp only [gathered, shares, List.mem_cons, List.not_mem_nil, or_false] at hq hz
  rcases hq with rfl | rfl <;> rcases hz with rfl | rfl <;> exact h rfl

/-- A QSUM whose members have sent their sources, with the exponents agreed or not. -/
def quantised (es : Option (List (Option Int))) : Coll :=
  let h := { sumHdr with type := 0, mode := 1 }
  { gathered h [⟨0, h, [0x3FF0000000000000], false, es⟩, ⟨1, h, [0x3FF0000000000000], false, es⟩] [] none with exps := es }

theorem witness_quantised :
    (∀ es, let s := viewed [0, 7] 5 [quantised es]
      IsColl s 5 9 (quantised es) ∧ StatusStored s (quantised es) ∧ RanksDiffer (quantised es) ∧ (quantised es).gathers = false ∧
      (quantised es).hdr.mode = 1 ∧ (∀ q, ¬ DiffersAt (quantised es) q) ∧ ∀ q ∈ (quantised es).shares, q.poisoned = false) ∧
    ((quantised none).matched = true ∧ (quantised none).agreed = false ∧ ∀ q ∈ (quantised none).shares, q.exps = none) ∧
    (quantised (some [some 0])).matched = true ∧ (quantised (some [some 0])).agreed = true := by
  refine ⟨fun es => ⟨rfl, status_stored rfl rfl rfl, (by show ([0, 1] : List Nat).Nodup; decide), by cases es <;> rfl, rfl, ?_, ?_⟩,
    by decide +kernel, by decide +kernel⟩
  · rintro q ⟨hq, z, hz, -, h⟩
    simp only [quantised, gathered, List.mem_cons, List.not_mem_nil, or_false] at hq hz
    rcases hq with rfl | rfl <;> rcases hz with rfl | rfl <;> exact h rfl
  · intro q hq
    simp only [quantised, gathered, List.mem_cons, List.not_mem_nil, or_false] at hq
    rcases hq with rfl | rfl <;> rfl

/-- A collective whose results both members hold. -/
def finished (h : CollHdr) (es : Option (List (Option Int))) (again : Bool) : Coll :=
  { gathered h ([0, 1].map fun r => ⟨r, h, List.replicate (sourceCount h 2 r) 200, false, es⟩) [0, 1] none with
    dst := pageRun 0x3000 (8 * destCount h 2), exps := es, restarted := again }

/-- Headers of the five kinds over two 64-bit integers, and of a QSUM. -/
def headers : List CollHdr :=
  (List.range 5).map (fun k => { sumHdr with kind := k, count := if k = 4 then 0 else 2 }) ++ [{ sumHdr with type := 0, mode := 1 }]

theorem finished_whole (h : CollHdr) (hh : h ∈ headers) (again : Bool) :
    let es := if h.mode = 1 then some [some (0 : Int)] else none
    CollWhole (viewed [0, 7] 5 [finished h es again]) (finished h es again) := by
  intro es
  have all : ∀ h ∈ headers, h.kind ≤ 4 ∧ (h.kind = 3 → h.root < 2) ∧ h.rop = 0 ∧ (h.type = 8 ∨ h.type = 0) ∧
      8 * destCount h 2 ≤ ((pageRun 0x3000 (8 * destCount h 2)).map (·.len)).sum := by decide +kernel
  obtain ⟨h1, h2, h3, h4, h5⟩ := all h hh
  have he : collBytes h.type = 8 := by rcases h4 with e | e <;> rw [e] <;> decide +kernel
  refine ⟨⟨h1, (by decide : 0 < 2), h2⟩, fun hm => ?_, ⟨by show h.rop ≤ 5; omega, fun _ => by show h.rop ≤ 2; omega⟩,
    ⟨?_, he.symm⟩, fun r hr => ?_, ⟨pageRun_backs _ _ _, pageRun_apart _ _, h5⟩, fun g hg p hp => ?_⟩
  · have hm' : h.mode = 1 := hm
    show es ≠ none
    simp [es, hm']
  · show h.type ∈ _
    rcases h4 with e | e <;> simp [e]
  · have hr' : r < 2 := hr
    have : r = 0 ∨ r = 1 := by omega
    rcases this with rfl | rfl
    · exact ⟨_, rfl, List.length_replicate, fun x hx => by rw [List.eq_of_mem_replicate hx]; exact (by decide : 200 < 2 ^ (8 * 8))⟩
    · exact ⟨_, rfl, List.length_replicate, fun x hx => by rw [List.eq_of_mem_replicate hx]; exact (by decide : 200 < 2 ^ (8 * 8))⟩
  · obtain ⟨b, hb, hl⟩ := runFrom_ge hg
    rw [hl] at hp
    cases p with
    | dev a sy =>
      simp only [within, Bool.and_eq_true, decide_eq_true_eq] at hp
      simp only [finished, gathered, Loc.plus, within, Bool.and_eq_false_iff, decide_eq_false_iff_not]
      omega
    | _ => simp [within] at hp

theorem witness_results :
    (∀ h ∈ headers, ∀ es again, let c := finished h es again
      let s := viewed [0, 7] 5 [c]
      Inv s ∧ IsColl s 5 9 c ∧ StatusStored s c ∧ s.fabric.acked = none ∧ c.everywhere = true ∧ c.restarted = again) ∧
    (let c := gathered sumHdr (shares sumHdr false) [0] none
     IsColl (viewed [0, 7] 5 [c]) 5 9 c ∧ c.isOpen = true ∧ c.everywhere = false) ∧
    (let c := { gathered sumHdr (shares sumHdr false) [0, 1] none with sent := [0] }
     let s := { viewed [0, 7] 5 [c] with targets := [⟨0, 0, true, false, true, .io (2 ^ 51), 0, true, false⟩] }
     IsColl s 5 9 c ∧ StatusStored s c ∧ s.performed c.sent = false) ∧
    (let c := { gathered sumHdr (shares sumHdr false) [0, 1] none with ending := some 5 }
     IsColl (viewed [0, 7] 5 [c]) 5 9 c ∧ StatusStored (viewed [0, 7] 5 [c]) c ∧ (viewed [0, 7] 5 [c]).performed c.sent = true ∧
       c.ending = some 5) :=
  ⟨fun _ _ _ _ => ⟨viewed_inv _ _, rfl, status_stored rfl rfl rfl, rfl, rfl, rfl⟩, ⟨rfl, by decide +kernel, by decide +kernel⟩,
    ⟨rfl, status_stored rfl rfl rfl, rfl⟩, rfl, status_stored rfl rfl rfl, by decide +kernel, rfl⟩

-- flits

/-- A flit of rank 1 of the view. -/
def arrived (tag : Nat) (b : FlitBody) : Flit := ⟨tag, 7, 1, b⟩

/-- A remote read of 8 bytes in flight, and a remote write, of hart 0. -/
def flights : State :=
  { viewed [0, 7] 5 [] with ops := [⟨1, 0, 0, 0, 0, true, pageRun 0x3000 8, [], [], 0, .get .none 0x8000005000 1 8 (pageRun 0x3000 8) 8⟩, ⟨2, 0, 0, 0, 0, true, [], [], [], 0,
    .put .none 0x8000005000 1 8 8⟩] }

theorem witness_flits :
    ¬ Usable (viewed [0, 7] 5 []) (arrived 4 (.held 5 9 0)) ∧ (∀ b, Usable (viewed [0, 7] 5 []) (arrived 5 b)) ∧
    (let c := gathered sumHdr [⟨0, sumHdr, [200], false, none⟩] [] none
     let s := viewed [0, 7] 5 [c]
     Usable s (arrived 5 (.held 5 9 0)) ∧ c ∈ s.colls ∧ c.etag = 5 ∧ c.cid = 9 ∧ c.n = 0 ∧ c.tag = 5 ∧ c.status = none ∧
      (∀ q ∈ c.shares, q.rank ≠ 1) ∧ ∀ d ∈ s.colls, d = c ∨ d.id ≠ c.id ∧ ¬ (d.etag = 5 ∧ d.cid = 9)) ∧
    (Usable flights (arrived 5 (.copyData 1 0 [1, 2] [])) ∧ Inv flights ∧
      (∃ o, IsOp flights 1 o ∧ o.kind = .get .none 0x8000005000 1 8 (pageRun 0x3000 8) 8) ∧
      Backs flights (segsAt (pageRun 0x3000 8) 0 2) ∧ Apart (segsAt (pageRun 0x3000 8) 0 2) ∧
      ((segsAt (pageRun 0x3000 8) 0 2).map (·.len)).sum = 2 ∧
      ∃ o, IsOp flights 2 o ∧ o.kind = .put .none 0x8000005000 1 8 8) := by
  have e : segsAt (pageRun 0x3000 8) 0 2 = runFrom 0x80003000 [2] := by decide +kernel
  refine ⟨fun h => absurd h.2.1 (by decide), fun b => ⟨by unfold InView; decide +kernel, rfl, ?_⟩,
    ⟨⟨by unfold InView; decide +kernel, rfl, ?_⟩, List.mem_singleton.mpr rfl, rfl, rfl, rfl, rfl, rfl, by decide +kernel,
      fun d hd => .inl (List.mem_singleton.mp hd)⟩,
    ⟨⟨by unfold InView; decide +kernel, rfl, ?_⟩, viewed_inv [0, 7] [], ⟨_, rfl, rfl⟩, ?_, ?_, by decide +kernel, ⟨_, rfl, rfl⟩⟩⟩
  · exact (by decide : (7 : Nat) ∈ [0, 7])
  · exact (by decide : (7 : Nat) ∈ [0, 7])
  · exact (by decide : (7 : Nat) ∈ [0, 7])
  · rw [e]; exact runFrom_backs _ _ _
  · rw [e]; exact runFrom_apart _ _

theorem reachable_plain {s : State} (hp : plain s = true) {pa n : Nat} (h : 2 ^ 30 ≤ pa) (h2 : pa + n ≤ 2 ^ 39) : Reachable s pa n := by
  simp only [plain, Bool.and_eq_true, beq_iff_eq, List.isEmpty_iff, List.all_eq_true] at hp
  obtain ⟨⟨⟨_, ho⟩, hi⟩, _⟩ := hp
  have hn (a : Nat) : s.noStack a = false := by simp [State.noStack, ho]
  have hpin (a : Nat) : s.pinned a = false := by
    simp only [State.pinned, List.any_eq_false]
    intro i hm
    simp [hi i hm]
  simp only [Reachable, State.forbids, hn, hpin, Bool.or_false, Bool.or_eq_false_iff, decide_eq_false_iff_not, List.any_eq_false]
  exact ⟨⟨by omega, by omega⟩, by simp⟩

theorem witness_remote_accesses :
    let s := viewed [0, 7] 5 []
    (Usable s (arrived 5 (.copyRead 1 0x80005000 300)) ∧ s.fabric.acked = none ∧ Reachable s 0x80005000 300 ∧ ¬ Reachable s 0x1000 300 ∧
      NoLinePoisoned s ∧
      s.fabric.members[1]? = some 7 ∧ (s.fabric.members[1]?).getD 0 ≠ s.fabric.fid) ∧
    (Inv s ∧ Usable s (arrived 5 (.copyWrite 1 0x80005000 0x80005000 2 [1, 2] [])) ∧ Reachable s 0x80005000 2 ∧ ¬ Reachable s 0x1000 2) ∧
    ∀ id, id = 1 ∨ id = 2 → ∃ o, IsOp flights id o ∧ (o.kind = .get .none 0x8000005000 1 8 (pageRun 0x3000 8) 8 ∨
      o.kind = .put .none 0x8000005000 1 8 8) ∧ o.ofHart flights.hart = true ∧
      ∀ h ∈ flights.parked, h.hid ≠ flights.hart.hid := by
  have hu : ∀ b, Usable (viewed [0, 7] 5 []) (arrived 5 b) := fun b =>
    ⟨by unfold InView; decide +kernel, rfl, (by decide : (7 : Nat) ∈ [0, 7])⟩
  have hp := viewed_plain [0, 7] true []
  refine ⟨⟨hu _, rfl, reachable_plain hp (by decide) (by decide), by unfold Reachable; decide +kernel, plain_noPoison hp, rfl, by decide +kernel⟩,
    ⟨viewed_inv _ _, hu _, reachable_plain hp (by decide) (by decide), by unfold Reachable; decide +kernel⟩, ?_⟩
  · rintro id (rfl | rfl)
    · exact ⟨_, rfl, .inl rfl, by decide +kernel, by decide +kernel⟩
    · exact ⟨_, rfl, .inr rfl, by decide +kernel, by decide +kernel⟩

-- the view controller

/-- A package of fabric id 0 with this view controller at this clock. -/
def steered (clock : Nat) (f : Fabric → Fabric) : State :=
  let s := viewed [0, 3, 7] 5 []
  { s with clock := clock, fabric := f s.fabric }

/-- A proposal of the members 0 and 3, led by 0, without an acknowledgement. -/
def offer : Proposal := ⟨0, [0, 3], [], [], 100⟩

theorem witness_suspicion :
    let s (n : Nat) := steered n fun f => { f with heard := [(3, 100)] }
    Neighbour (s 200) 3 ∧ ¬ Neighbour (s 200) 5 ∧ ((((s 200).fabric.heard.find? fun p => p.1 = 3).map (·.2)).getD 0 = 100) ∧
    (s 200).clock < 100 + 380000 ∧ 3 ∉ (s 200).fabric.suspects ∧ (Neighbour (s 380100) 3 ∧ 100 + 380000 ≤ (s 380100).clock) := by
  refine ⟨⟨by unfold InView; decide +kernel, by decide, .inl (by decide +kernel)⟩, fun h => ?_, by decide +kernel, by decide +kernel,
    by decide +kernel, ⟨by unfold InView; decide +kernel, by decide, .inl (by decide +kernel)⟩, by decide +kernel⟩
  rcases h.2.2 with h | h
  · exact absurd h (by decide +kernel)
  · exact absurd h (by decide +kernel)

theorem witness_proposals :
    (InView (steered 200 id) ∧ 3 ∈ (steered 200 id).fabric.members ∧ 7 ∈ (steered 200 id).fabric.members ∧
      7 ≠ (steered 200 id).fabric.fid ∧ (steered 200 id).fabric.leading = none) ∧
    (InView (steered 200 id) ∧ 0 ∈ (steered 200 id).fabric.members ∧ (steered 200 id).fabric.fid ∈ [0, 3]) ∧
    (let s (n : Nat) (acks : List Nat) := steered n fun f => { f with leading := some { offer with acks := acks } }
     (s 200 []).fabric.leading = some offer ∧ 3 ∈ offer.members ∧ 3 ∉ offer.acks ∧ 3 ≠ (s 200 []).fabric.fid ∧
      (¬ ∀ n ∈ offer.members, n = 3 ∨ n ∈ offer.acks) ∧
      (∀ n ∈ offer.members, n = 3 ∨ n ∈ { offer with acks := [0] }.acks) ∧
      (s 200 [0]).fabric.members.length < 2 * ((s 200 [0]).fabric.members.filter offer.members.contains).length ∧
      (s 200 []).clock < offer.since + 1900000 ∧ offer.since + 1900000 ≤ (s 1900100 []).clock) := by
  refine ⟨⟨by unfold InView; decide +kernel, by decide +kernel, by decide +kernel, by decide +kernel, by decide +kernel⟩,
    ⟨by unfold InView; decide +kernel, by decide +kernel, by decide +kernel⟩, rfl, by decide, by decide, by decide +kernel,
    by decide, by decide, by decide +kernel, by decide +kernel, by decide +kernel⟩

/-- A package that has acknowledged the proposal. -/
def acknowledged : State := steered 200 fun f => { f with acked := some offer }

theorem witness_acknowledged :
    acknowledged.fabric.acked ≠ none ∧ Usable acknowledged (arrived 5 (.copyRead 1 0x80005000 300)) ∧
    (let s := { acknowledged with colls := [unshared] }
     s.fabric.acked ≠ none ∧ IsColl s 5 9 unshared ∧ StatusStored s unshared ∧ Inv s) ∧
    (InView acknowledged ∧ 9 ≠ tagAfter acknowledged.fabric.tag ∧ SameMembers offer.members [0, 3] ∧
      acknowledged.fabric.fid ∈ [0, 3]) := by
  unfold Usable InView
  exact ⟨by decide, by decide +kernel, ⟨by decide, rfl, status_stored rfl rfl rfl,
    viewed_inv [0, 3, 7] [unshared]⟩, by decide +kernel, by decide +kernel, fun _ => Iff.rfl, by decide +kernel⟩

theorem witness_commits :
    (InView (steered 200 id) ∧ 6 = tagAfter (steered 200 id).fabric.tag ∧ 9 ≠ tagAfter (steered 200 id).fabric.tag ∧
      (steered 200 id).fabric.fid ∈ [0, 3] ∧ [0, 3].Pairwise (· < ·) ∧ (steered 200 id).fabric.fid ∉ [3, 7]) ∧
    (let c := { gathered sumHdr [] [] none with lid := 1 }
     let s := { task with fabric := { task.fabric with tag := 5, members := [0, 3, 7] }, colls := [c] }
     InView s ∧ c ∈ s.colls ∧ c.status = none ∧ s.hart.lid ≠ 0 ∧ c.lid = s.hart.lid ∧ c.j = s.hart.j) ∧
    (let s (n : Nat) (ms : List Nat) := steered n fun f => { f with acked := some offer, members := ms }
     (s 200 [0, 3]).fabric.acked = some offer ∧ (s 200 [0, 3]).clock < offer.since + 7600000 ∧
      (offer.since + 7600000 ≤ (s 7600100 [0, 3]).clock ∧ InView (s 7600100 [0, 3])) ∧
      (offer.since + 7600000 ≤ (s 7600100 []).clock ∧ ¬ InView (s 7600100 []))) ∧
    (let s := base.withHart fun h => { h with heldMember := some 6 }
     s.hart.heldMember = some 6 ∧ s.hart.run ≠ .swap ∧ s.hart.stop = none ∧ s.hart.active = false ∧
      s.hart.heldRefusal = none ∧ s.hart.heldBudget = none ∧ s.midway s.hart = false) := by
  unfold InView
  refine ⟨⟨by decide +kernel, by decide +kernel, by decide +kernel, by decide +kernel, by decide, by decide +kernel⟩,
    ⟨by decide +kernel, List.mem_singleton.mpr rfl, rfl, by decide +kernel, by decide +kernel, by decide +kernel⟩,
    ⟨rfl, by decide +kernel, ⟨by decide +kernel, by decide +kernel⟩, by decide +kernel, by decide +kernel⟩,
    rfl, by decide +kernel⟩

/-- The record's pair is not of the union. -/
theorem witness_kept_waiting :
    let h : Hold := ⟨0, [], some [(5, 8)], []⟩
    let s := held [0, 7] true [] (some h)
    RecordAt s 1 (collRecord true) (.dev 0x80001000 false) ∧ s.fabric.hold = some h ∧ h.union = some [(5, 8)] ∧
      (nth (collRecord true) 4 8, nth (collRecord true) 4 9) ∉ [(5, 8)] ∧ h.union ≠ none :=
  ⟨record_at [0, 7] true [] _ (by decide), rfl, rfl, by decide +kernel,
    by decide⟩

/-- A quiescence that this package, or member 3, leads. -/
def holding (h : Hold) : State := steered 200 fun f => { f with hold := some h }

theorem witness_holds :
    (InView (steered 200 id) ∧ 3 ∈ (steered 200 id).fabric.members ∧ (steered 200 id).fabric.acked = none ∧
      3 ≠ (steered 200 id).fabric.fid ∧ 0 ∈ (steered 200 id).fabric.members ∧ 0 = (steered 200 id).fabric.fid ∧
      (steered 200 id).fabric.hold = none) ∧
    (let h : Hold := ⟨0, [(0, []), (3, [(5, 9)])], none, []⟩
     (holding h).fabric.hold = some h ∧ 7 ∈ (holding h).fabric.members ∧ h.leader = (holding h).fabric.fid ∧ h.union = none ∧
      (∀ n ∈ (holding h).fabric.members, ∃ a ∈ (7, ([] : List (Nat × Nat))) :: h.answers.filter (fun a => a.1 ≠ 7), a.1 = n) ∧
      ∃ n ∈ (holding h).fabric.members, ∀ a ∈ (3, ([] : List (Nat × Nat))) :: h.answers.filter (fun a => a.1 ≠ 3), a.1 ≠ n) ∧
    (let h (acks : List Nat) : Hold := ⟨0, [], some [], acks⟩
     7 ≠ (holding (h [])).fabric.fid ∧ 7 ∉ (h []).acks ∧ (∃ n ∈ (holding (h [])).fabric.members, n ≠ 7 ∧ n ∉ (h []).acks) ∧
      (∀ n ∈ (holding (h [0, 3])).fabric.members, n = 7 ∨ n ∈ (h [0, 3]).acks) ∧ (holding (h [0, 3])).fabric.leading = none) := by
  unfold InView
  refine ⟨⟨by decide +kernel, by decide +kernel, rfl, by decide +kernel, by decide +kernel, by decide +kernel, rfl⟩,
    ⟨rfl, by decide +kernel, by decide +kernel, rfl, by decide +kernel, by decide +kernel⟩,
    by decide +kernel, by decide, by decide +kernel, by decide +kernel, rfl⟩

/-- Member 0, or 3, leads; the union is empty, or holds a pair that this package has not dispatched. -/
theorem witness_quiet :
    (let h (l : Nat) : Hold := ⟨l, [], some [], []⟩
     (holding (h 0)).fabric.hold = some (h 0) ∧ Quiet (holding (h 0)) (h 0) ∧ (holding (h 0)).fabric.fid ∉ (h 0).acks ∧
       (h 0).leader = (holding (h 0)).fabric.fid ∧ InView (holding (h 3)) ∧ (h 3).leader ≠ (holding (h 3)).fabric.fid ∧
       Quiet (holding (h 3)) (h 3)) ∧
    (let h : Hold := ⟨0, [], some [(5, 9)], []⟩
     (holding h).fabric.hold = some h ∧ ¬ Quiet (holding h) h) := by
  unfold InView
  refine ⟨⟨rfl, ⟨[], rfl, by simp, by decide +kernel, by decide +kernel⟩, by decide, by decide +kernel, by decide +kernel, by decide +kernel,
    ⟨[], rfl, by simp, by decide +kernel, by decide +kernel⟩⟩, rfl, ?_⟩
  rintro ⟨u, hu, h, -⟩
  cases hu
  obtain ⟨q, hq, -⟩ := h (5, 9) (by decide) (by decide +kernel)
  cases hq

theorem witness_joining :
    let r (a : Bool) : Request := ⟨0, 0, 0, 0, 3, false, a, none, 100⟩
    let s (n : Nat) (a : Bool) := steered n fun f => { f with requests := [r a] }
    ¬ InView (viewed [] 5 []) ∧ (InView (viewed [0, 7] 5 []) ∧ 7 ∈ (viewed [0, 7] 5 []).fabric.members) ∧
    (5 ∉ (viewed [0, 7] 5 []).fabric.members ∧ (viewed [0, 7] 5 []).fabric.members.length < 8192) ∧
    ((s 200 false).fabric.requests.find? (fun r => r.id = 0 ∧ !r.leave ∧ r.result.isNone) = some (r false) ∧
      (s 200 false).fabric.requests.find? (fun r => r.id = 0) = some (r false) ∧ (r false).answered = false ∧
      (s 200 false).clock < (r false).since + 7600000 ∧ (r false).since + 7600000 ≤ (s 7600100 false).clock ∧
      (r true).answered = true) := by
  unfold InView
  exact ⟨by decide +kernel, ⟨by decide +kernel, by decide +kernel⟩, ⟨by decide +kernel, by decide +kernel⟩,
    rfl, rfl, rfl, by decide +kernel, by decide +kernel, rfl⟩

/-- A view of 8,192 members. -/
theorem witness_full_view :
    let ms := 0 :: List.replicate 8191 7
    InView (viewed ms 5 []) ∧ 5 ∉ (viewed ms 5 []).fabric.members ∧ 8192 ≤ (viewed ms 5 []).fabric.members.length := by
  refine ⟨List.mem_cons_self, fun h => ?_, ?_⟩
  · rcases List.mem_cons.mp h with h | h
    · exact absurd h (by decide)
    · exact absurd (List.eq_of_mem_replicate h) (by decide)
  · show 8192 ≤ (0 :: List.replicate 8191 7).length
    rw [List.length_cons, List.length_replicate]

/-- Hart 0 has asked member 7 with this request. -/
def asking (ms : List Nat) (leave : Bool) (w : Option Word) : State :=
  let s := viewed ms 5 []
  { s with fabric := { s.fabric with requests := [⟨0, 0, 0, 0, 7, leave, true, w, 100⟩] } }

theorem witness_membership :
    (TaskMode task) ∧ (SuperMode base ∧ ¬ InView (viewed [] 5 []) ∧ InView (viewed [0, 7] 5 []) ∧ SuperMode (viewed [0, 7] 5 [])) ∧
    (let s := viewed [] 5 []
     SuperMode s ∧ (s.rx 0).toNat = s.fabric.fid ∧ (s.rx 5).toNat ≠ s.fabric.fid ∧ 8192 ≤ (s.rx 5).toNat ∧ (s.rx 4).toNat ≠ s.fabric.fid ∧
      (s.rx 4).toNat < 8192 ∧ s.myRequest 7 false = none ∧ s.myRequest 7 true = none) ∧
    (let s := viewed [0, 7] 5 []
     s.myRequest 7 true = none ∧ s.myRequest 9000 true = none ∧ (s.rx 4).toNat ∈ s.fabric.members ∧ (s.rx 5).toNat ∉ s.fabric.members) ∧
    (∃ r, (asking [] false none).myRequest 7 false = some r ∧ r.result = none) ∧
    (∃ r, (asking [] false (some 0)).myRequest 7 false = some r ∧ r.result = some 0) ∧
    ∃ r, (asking [0, 7] true (some 1)).myRequest 7 true = some r ∧ r.result = some 1 := by
  unfold InView TaskMode SuperMode
  exact ⟨by decide +kernel, by decide +kernel, by decide +kernel, by decide +kernel, ⟨_, rfl, rfl⟩, ⟨_, rfl, rfl⟩, _, rfl, rfl⟩

-- the front end

/-- Hart 0 with this word next, a filled fetch buffer and these changes. -/
def fetched (w : Nat) (f : Hart → Hart) : State := (withWord base w).withHart fun h => f { h with fbuf := 8 }

theorem fetched_next (w : BitVec 32) (f : Hart → Hart) (h : fetches (fetched w.toNat f) w = true) : (fetched w.toNat f).wordNext (fetched w.toNat f).hart = some w := by
  unfold State.wordNext
  obtain ⟨t, ht⟩ := fetch_of h
  rw [show ({ fetched w.toNat f with hart := (fetched w.toNat f).hart } : State) = fetched w.toNat f from rfl, ht]

/-- A vector word, and an MXOP, stand next; a scratchpad load waits for a store's acknowledgement. -/
theorem heads_next :
    ((fetched 0x84000000 id).wordNext (fetched 0x84000000 id).hart = some 0x84000000 ∧
      Machine.queued (wordMajor 0x84000000) = true ∧ slotClass (wordMajor 0x84000000) = 1 ∧ gauged (wordMajor 0x84000000) = true) ∧
    (Machine.queued (wordMajor 0xB4000000) = true ∧ slotClass (wordMajor 0xB4000000) = 2 ∧ gauged (wordMajor 0xB4000000) = false) ∧
    ∀ f ∈ [id, fun h => { h with unacked := [1] }, fun h => { h with fbuf := 0 }],
      (fetched 0xB4000000 f).wordNext (fetched 0xB4000000 f).hart = some 0xB4000000 := by
  refine ⟨⟨fetched_next 0x84000000 id (by decide +kernel), by decide⟩, by decide, fun f hf => fetched_next 0xB4000000 f ?_⟩
  revert f
  decide +kernel

theorem heads_issue :
    MayIssue (fetched 0x84000000 id) (fetched 0x84000000 id).hart ∧ MayIssue (fetched 0xB4000000 id) (fetched 0xB4000000 id).hart ∧
    (fetched 0xB4000000 id).hart.unacked = [] ∧
    ∀ f, f = (fun h => { h with fbuf := 0 }) → ¬ MayIssue ((fetched 0xB4000000 id).withHart f) ((fetched 0xB4000000 id).withHart f).hart := by
  refine ⟨⟨rfl, by decide, by decide +kernel, .inl rfl⟩, ⟨rfl, by decide, by decide +kernel, .inl rfl⟩, rfl, ?_⟩
  rintro f rfl ⟨-, h, -⟩
  exact absurd h (by decide)

theorem witness_front_end :
    (Powered base ∧ base.fetchTurn[0]? = some 0 ∧ (∃ h ∈ base.placed, TakesBlock h 0 0 ∧
      ∀ g ∈ base.placed, InPartition g 0 0 → g ≠ h → h.fbuf < g.fbuf ∨ h.fbuf = g.fbuf ∧ h.hid < g.hid) ∧
      base.fetchTurn[1]? = some 0 ∧ ∀ h ∈ base.placed, ¬ TakesBlock h 1 0) ∧
    ((base.placed.map (·.hid)).Nodup ∧ ∀ h ∈ (fetched 0x84000000 id).parked, h.hid ≠ (fetched 0x84000000 id).hart.hid) ∧
    (∃ h, (task.withHart fun h => { h with exiting := true }).hart? 16 = some h ∧ h.exiting = true ∧ h.unacked = []) ∧
    ∃ h, task.hart? 16 = some h ∧ h.exiting = false := by
  unfold Powered TakesBlock InPartition
  exact ⟨⟨by decide +kernel, by decide +kernel, ⟨base.hart, by decide +kernel, by decide +kernel, by decide +kernel⟩, by decide +kernel⟩,
    by decide +kernel, ⟨_, rfl, rfl, rfl⟩, _, rfl, rfl⟩

-- power, boot, links

/-- The firmware's module with this service state. -/
def served (f : Service → Service) : State := { base with svc := f base.svc }

theorem witness_power :
    (Powered base ∧ base.lu.thermal = false ∧ ∀ sum low, ∃ s, Powered s ∧ (0 : Nat) < 1000 ∧ s.svc.readings = [sum] ∧ s.svc.low = low) ∧
    (base.svc.power = .run ∧ base.live = []) ∧ (task.live ≠ []) ∧ (served fun v => { v with power := .waking }).svc.power = .waking :=
  ⟨⟨by unfold Powered; decide +kernel, rfl, fun sum low => ⟨served fun v => { v with readings := [sum], low := low },
      by show base.svc.power ≠ .off; decide +kernel, by decide, rfl, rfl⟩⟩, ⟨rfl, by decide +kernel⟩, by decide +kernel, rfl⟩

theorem witness_boot :
    Powered base ∧ (let s := served fun v => { v with power := .off, journal := [] }
      ¬ Powered s ∧ s.svc.journal = []) ∧ IsLaunch task 1 job ∧ isFinal job.state = false ∧ Powered task :=
  ⟨by unfold Powered; decide +kernel, ⟨fun h => h rfl, rfl⟩, rfl, rfl, by unfold Powered; decide +kernel⟩

-- coherence

/-- The home die 0 and these records, copies and messages of line 5, whose page a translation cache holds. -/
def lined (es : List DirEntry) (cs : List Copy) (ms : List CohMsg) : State :=
  { base with tlb := [⟨0, 0, 0, 0, 0, 1⟩], coh := { base.coh with dir := es, copies := cs, msgs := ms } }

def entry (owner : Option (Nat × Moesi)) (sharers : List Nat) (busy : Option Txn) : DirEntry := ⟨5, owner, sharers, busy, [], 0, false⟩

theorem agent_line (es : List DirEntry) (cs : List Copy) (ms : List CohMsg) (a : Nat) (h : a < 5) : AgentLine (lined es cs ms) a 5 :=
  ⟨by show base.svc.power ≠ .off; decide +kernel, h, by decide⟩

/-- Fifteen or sixteen other lines of line 5's set of die cache 1, the first of which is asked for or not. -/
def crowd (n : Nat) (asked : Option CohKind) : List Copy :=
  ⟨1, 5 + cacheSets 1, .s, asked, false, none⟩ :: (List.range n).map fun k => ⟨1, 5 + (k + 2) * cacheSets 1, .e, none, false, none⟩

theorem witness_rooms :
    (∀ es cs ms, AsksFor (lined es cs ms) 1 5 ∧ AsksFor (lined es cs ms) 0 5) ∧ AsksFor base 0 5 ∧
    HasRoom (lined [] (crowd 14 none) []) 1 5 ∧
    (∀ asked ∈ [none, some .upg], ¬ HasRoom (lined [] (crowd 15 asked) []) 1 5 ∧
      ∃ v, (lined [] (crowd 15 asked) []).coh.copies.find? (fun p => sharesSet 1 5 p ∧ p.asked = none) = some v ∧
        (lined [] (crowd 15 asked) []).coh.copy 1 v.line = v) := by
  refine ⟨fun es cs ms => ⟨.inr ⟨⟨_, List.mem_singleton.mpr rfl, by decide +kernel⟩, ?_⟩, .inl rfl⟩, .inl rfl, by unfold HasRoom; decide +kernel, ?_⟩
  · show (base.coh.sync.contains 5 || [(⟨0, 0, 0, 0, 0, 1⟩ : Cached)].any (·.maps true 5)) = false
    decide +kernel
  · intro asked h
    refine ⟨by revert asked; unfold HasRoom; decide +kernel, ?_⟩
    fin_cases h
    · exact ⟨⟨1, 5 + cacheSets 1, .s, none, false, none⟩, by decide +kernel, by decide +kernel⟩
    · exact ⟨⟨1, 5 + 2 * cacheSets 1, .e, none, false, none⟩, by decide +kernel, by decide +kernel⟩

theorem witness_lines :
    (∀ es cs ms, AgentLine (lined es cs ms) 1 5 ∧ AgentLine (lined es cs ms) 0 5) ∧
    (∀ es cs kind, NoMessage (lined es cs []) kind 1 5) ∧
    (Holds (lined [] [] []) 1 5 .i none ∧ Unrecorded (lined [] [] []) 5) ∧
    (Holds (lined [entry none [2] none] [] []) 1 5 .i none ∧ Records (lined [entry none [2] none] [] []) 5 none [2]) ∧
    (∀ st, Holds (lined [entry (some (3, st)) [2] none] [] []) 1 5 .i none ∧
      Records (lined [entry (some (3, st)) [2] none] [] []) 5 (some (3, st)) [2]) ∧
    (∀ sh, Holds (lined [entry none sh none] [⟨1, 5, .s, none, false, none⟩] []) 1 5 .s none ∧
      Records (lined [entry none sh none] [⟨1, 5, .s, none, false, none⟩] []) 5 none sh) ∧
    ((1 ∈ [1] ∧ [1].filter (· ≠ 1) = []) ∧ (1 ∈ [1, 2] ∧ [1, 2].filter (· ≠ 1) ≠ [])) ∧
    (∀ st, Holds (lined [entry (some (1, st)) [] none] [⟨1, 5, st, none, false, none⟩] []) 1 5 st none ∧
      NoMessage (lined [entry (some (1, st)) [] none] [⟨1, 5, st, none, false, none⟩] []) .wbd 1 5) ∧
    (0 = 5 / 2 ^ 30 ∧ (lined [] [⟨0, 5, .e, none, false, none⟩] []).hart? 600 = none ∧
      ∀ st, (∀ m ∈ (lined [] [⟨0, 5, st, none, false, none⟩] []).coh.msgs, m.line ≠ 5) ∧
        Holds (lined [] [⟨0, 5, st, none, false, none⟩] []) 0 5 st none) :=
  ⟨fun es cs ms => ⟨agent_line es cs ms 1 (by decide), agent_line es cs ms 0 (by decide)⟩, fun es cs kind m h => (by cases h),
    ⟨⟨rfl, rfl⟩, rfl, (fun e h => by cases h), (by decide)⟩, ⟨⟨rfl, rfl⟩, _, rfl, rfl, rfl, rfl, rfl⟩,
    fun st => ⟨⟨rfl, rfl⟩, _, rfl, rfl, rfl, rfl, rfl⟩, fun sh => ⟨⟨rfl, rfl⟩, _, rfl, rfl, rfl, rfl, rfl⟩, by decide,
    fun st => ⟨⟨rfl, rfl⟩, fun m h => by cases h⟩, by decide, by decide +kernel, fun st => ⟨fun m h => (by cases h), rfl, rfl⟩⟩

theorem witness_snoops :
    (∀ st kind, kind = .snps ∨ kind = .snpx ∨ kind = .inv ∨ kind = .binv →
      let m : CohMsg := ⟨kind, 1, 5, 2, none⟩
      let s := lined [] [⟨1, 5, st, none, false, none⟩] [m]
      AgentLine s 1 5 ∧ NextFromHome s kind 1 5 m ∧ (s.coh.copy 1 5).gotCmp = none ∧ (s.coh.copy 1 5).st = st) ∧
    (let m : CohMsg := ⟨.data, 1, 5, 1, some .e⟩
     let s := lined [] [⟨1, 5, .i, some .rds, false, none⟩] [m]
     NextFromHome s .data 1 5 m ∧ m.st = some .e ∧ (s.coh.copy 1 5).asked ≠ none) ∧
    (∀ got, let m : CohMsg := ⟨.fwd, 1, 5, 1, none⟩
     let s := lined [] [⟨1, 5, .i, some .rds, false, got⟩] [m]
     NextOf s .fwd 1 5 m ∧ (s.coh.copy 1 5).asked ≠ none ∧ (s.coh.copy 1 5).gotCmp = got) ∧
    (let m : CohMsg := ⟨.cmp, 1, 5, 1, some .m⟩
     (let s := lined [] [⟨1, 5, .s, some .upg, false, none⟩] [m]
      NextFromHome s .cmp 1 5 m ∧ m.st = some .m ∧ (s.coh.copy 1 5).asked = some .upg ∧ (s.coh.copy 1 5).st ≠ .i) ∧
     let s := lined [] [⟨1, 5, .i, some .rdx, true, none⟩] [m]
     NextFromHome s .cmp 1 5 m ∧ (s.coh.copy 1 5).gotData = true ∧ (s.coh.copy 1 5).asked ≠ none) ∧
    (∀ st owner txn, let m : CohMsg := ⟨.rsp, 1, 5, 2, st⟩
     let s := lined [entry owner [] (some txn)] [] [m]
     AgentLine s 1 5 ∧ NextOf s .rsp 1 5 m ∧ m.st = st ∧ ∃ e, s.coh.entry? 5 = some e ∧ e.queue = [] ∧ e.busy = some txn ∧ e.owner = owner) := by
  refine ⟨fun st kind hk => ⟨agent_line _ _ _ 1 (by decide), ?_, rfl, rfl⟩, ⟨⟨rfl, rfl⟩, rfl, by decide +kernel⟩,
    fun got => ⟨rfl, (by decide : some CohKind.rds ≠ none), rfl⟩, ⟨⟨⟨rfl, rfl⟩, rfl, rfl, by decide⟩, ⟨rfl, rfl⟩, rfl, by decide⟩,
    fun st owner txn => ⟨agent_line _ _ _ 1 (by decide), rfl, rfl, _, rfl, rfl, rfl, rfl⟩⟩
  rcases hk with rfl | rfl | rfl | rfl <;> exact ⟨rfl, rfl⟩

/-- A core in service other than core 0, for the clause of FrontEndEventsComplete on a failing core. -/
theorem witness_failing_core : (31 : Nat) ≠ 0 ∧ base.svc.units.coreIn 31 = true := by decide

/-- A scrubber of stack 3 that has read a line. -/
def scrubbing (f : ScrubFinding) (hit : Bool) : State :=
  { base with coh := { base.coh with scrubs := [⟨3, 2 ^ 30 + 1, 3 * 2 ^ 56, f, hit⟩] } }

theorem witness_scrubbing :
    (Powered base ∧ 3 ∉ base.svc.units.stacksOut ∧ 3 ^^^ 1 ∉ base.svc.units.stacksOut) ∧
    base.coh.scrubs.filter (fun q => q.stack == 3) = [] ∧
    (∀ f hit, (scrubbing f hit).coh.scrubs.filter (fun q => q.stack == 3) = [⟨3, 2 ^ 30 + 1, 3 * 2 ^ 56, f, hit⟩] ∧
      (∀ p ∈ (scrubbing f hit).coh.copies, p.line ≠ 2 ^ 30 + 1) ∧ ∀ m ∈ (scrubbing f hit).coh.msgs, m.line ≠ 2 ^ 30 + 1) ∧
    ∀ f hit, let s := { scrubbing f hit with coh := { (scrubbing f hit).coh with copies := [⟨1, 2 ^ 30 + 1, .m, none, false, none⟩] } }
      ∃ p ∈ s.coh.copies, p.line = 2 ^ 30 + 1 ∧ p.st = .m := by
  unfold Powered
  refine ⟨by decide +kernel, by decide +kernel, fun f hit => ⟨?_, ?_, ?_⟩, fun f hit => ⟨_, List.mem_singleton.mpr rfl, rfl, rfl⟩⟩
  · cases f <;> cases hit <;> decide +kernel
  · exact (by decide +kernel : ∀ p ∈ base.coh.copies, p.line ≠ 2 ^ 30 + 1)
  · exact (by decide +kernel : ∀ m ∈ base.coh.msgs, m.line ≠ 2 ^ 30 + 1)

-- targets and hosts

/-- The IO page is at 2^30: hart 0 with its address in x1, and a load or store to it. -/
def outside (f : Hart → Hart) : State := (withX base [(1, 0x40000000), (2, 7)]).withHart f

theorem outside_reaches (f : Hart → Hart) (acc : Access) (hf : (mapsTo (counted (outside f)) 0x40000000 acc (.io 0x8000000000000) &&
      (outside f).targets.isEmpty) = true)
    (hl : (outside f).myLaunch = none) : Reaches (outside f) 0x40000000 8 acc (.io 0x8000000000000) (counted (outside f)) :=
  reaches_of (inBudget_none hl) (by decide) hf

theorem witness_devices :
    (loadForm (outside id) (.ldI64 3 1 0) = some (8, true, 3, 0x40000000) ∧
      Reaches (outside id) 0x40000000 8 .read (.io 0x8000000000000) (counted (outside id)) ∧
      (counted (outside id)).hart.replies = [] ∧ (counted (outside id)).hart.waitTag = none) ∧
    (let s := outside fun h => { h with replies := [⟨[1, 2, 3, 4, 5, 6, 7, 8], true, true⟩] }
     loadForm s (.ldI64 3 1 0) = some (8, true, 3, 0x40000000) ∧ Reaches s 0x40000000 8 .read (.io 0x8000000000000) (counted s) ∧
      ∃ r rest, (counted s).hart.replies = r :: rest ∧ r.bytes.length = 8) ∧
    (storeForm (outside id) (.stI64 2 1 0) = some (8, (outside id).rx 2, 0x40000000) ∧
      Reaches (outside id) 0x40000000 8 .write (.io 0x8000000000000) (counted (outside id))) :=
  ⟨⟨by decide +kernel, outside_reaches _ _ (by decide +kernel) rfl, by decide +kernel, by decide +kernel⟩,
    ⟨by decide +kernel, outside_reaches _ _ (by decide +kernel) rfl, _, _, rfl, rfl⟩,
    by decide +kernel, outside_reaches _ _ (by decide +kernel) rfl⟩

/-- A hart that waits for a target. -/
def requesting (q : TargetReq) : State := { base with targets := [q], hart := { base.hart with waitTag := some 1, run := .stalled } }

theorem none_asks (q : TargetReq) : NoneAsks (requesting q) 1 := by
  refine ⟨fun o h => ?_, fun c h => ?_⟩ <;> cases h

theorem witness_targets :
    (∀ q ∈ base.targets, q.tag ≠ 1) ∧
    (∀ store ats write loc, let q : TargetReq := ⟨1, 0, store, ats, write, loc, 0, false, true⟩
     (requesting q).targets.find? (fun q => q.tag = 1) = some q ∧ (requesting q).invals = [] ∧
      (∀ h ∈ (requesting q).parked, h.hid ≠ (requesting q).hart.hid) ∧ q.hid = (requesting q).hart.hid ∧
      (requesting q).hart.waitTag = some 1 ∧ NoneAsks (requesting q) 1) ∧
    (let a : Fetch := ⟨1, ⟨.io 0x8000000000000, 8⟩, none⟩
     let o : EngineOp := ⟨1, 0, 0, 0, 0, false, [], [a], [], 0, .copy .none 8 8⟩
     o ∈ ({ requesting ⟨1, 0, false, false, false, .io 0x8000000000000, 0, false, true⟩ with ops := [o] } : State).ops ∧ a ∈ o.asks ∧ a.tag = 1 ∧
      o.asks = [a]) ∧
    (let s := base.withHart fun h => { h with pri := some (0, 0x5000, true) }
     s.hart.pri = some (0, 0x5000, true) ∧ ∀ h ∈ s.parked, h.hid ≠ s.hart.hid) ∧
    (base.invals = [] ∧ (∀ d, ∀ q ∈ base.targets, ¬ ServedBy q ⟨0, 5, 5, d⟩) ∧
      (∀ d, ServedBy ⟨1, 16, false, false, false, .hostb 0 0x5000, 5, false, true⟩ ⟨0, 5, 5, d⟩) ∧
      ServedBy ⟨1, 16, false, false, false, .hostb 0 0x7000, 5, false, true⟩ ⟨0, 5, 5, [(4, 4)]⟩) := by
  refine ⟨by decide +kernel, fun st a w l => ⟨rfl, rfl, ?_, rfl, rfl, none_asks _⟩,
    ⟨List.mem_singleton.mpr rfl, List.mem_singleton.mpr rfl, rfl, rfl⟩, ⟨rfl, by decide +kernel⟩, rfl, fun d q h => (by cases h),
    fun d => ⟨rfl, rfl, _, rfl, .inl rfl⟩, rfl, rfl, _, rfl, .inr ⟨_, List.mem_singleton.mpr rfl, by decide, by decide⟩⟩
  exact (by decide +kernel : ∀ h ∈ base.parked, h.hid ≠ 0)

theorem witness_host_ports :
    Powered base ∧ PortUp base 0 ∧ ¬ PortUp base 9 ∧ Inv base ∧ Present base 0x80005000 8 ∧ ¬ MeetsPin base 0x80005000 8 ∧
    (0x80005000 % 8 = 0 ∧ NoKeyBytes 0x80005000 8 ∧ Present base (Config.mgmt 0 + 0x20) 32) ∧ ∃ s : State, Powered s ∧ PortUp s 0 ∧ Present s 0x80005000 8 ∧ MeetsPin s 0x80005000 8 := by
  have hp (a n : Nat) (h0 : 0 < n) (h : a + n ≤ 2 ^ 39) : Present base a n :=
    ⟨h0, h, fun i _ => by simp [State.noStack, base, State.reset, Units.full]⟩
  have hk : NoKeyBytes 0x80005000 8 := by
    intro i p hi hp h
    simp only [Config.mgmt, Config.bar0] at h
    omega
  have hu : PortUp base 0 := ⟨_, rfl, rfl⟩
  refine ⟨by unfold Powered; decide +kernel, hu, fun ⟨p, h, _⟩ => (by cases h), base_inv, hp _ _ (by decide) (by decide),
    fun ⟨e, he, _⟩ => (by cases he), ⟨by decide, hk, hp _ _ (by decide) (by decide)⟩,
    { base with lu := { base.lu with images := [⟨0, 0, 0, 0, 0, false, [0x80005000 / 128], 0⟩] } }, by show base.svc.power ≠ .off; decide +kernel,
    hu, hp 0x80005000 8 (by decide) (by decide), _, List.mem_singleton.mpr rfl, 0, by decide, by decide⟩

/-- Hart 0 about to execute ATADD x3, x1, x2 on the doubleword at 0x2000. -/
def adding : State := withWord (withX base [(1, 0x2000), (2, 7)]) 0x38611041

theorem after_iff {r : Answer} {p : State → Bool} (h : afterIt r p = true) : ∃ t, r = .next t ∧ p t = true := by
  cases r with
  | next t => exact ⟨t, rfl, h⟩
  | fault f => simp [afterIt] at h
  | refused f => simp [afterIt] at h

theorem adding_plain : plain adding = true := by decide +kernel

theorem witness_remote_atomics : ∃ a s' u, fetch adding = .ok (0x38611041, s') ∧ decode 0x38611041 = .ok (.atadd 3 1 2 0 0 1) ∧
    atomicForm adding (.atadd 3 1 2 0 0 1) = some a ∧ adding.hart.waitTag = none ∧ adding.hart.run = .ready ∧ Inv adding ∧
    Ordered adding a.order ∧ Reaches adding (adding.rx a.addr).toNat a.n a.acc (.dev 0x80002000 false) u ∧
    Readable u (.dev 0x80002000 false) a.n ∧ Backed u (.dev 0x80002000 false) := by
  obtain ⟨s', hf⟩ := fetch_of (s := adding) (w := 0x38611041) (by decide +kernel)
  have hx : (adding.rx 1).toNat = 0x2000 := by decide +kernel
  refine ⟨_, s', counted adding, hf, by decide +kernel, rfl, rfl, rfl, inv_of (by decide +kernel), fun _ => rfl, ?_,
    plain_readable (plain_counted adding_plain) _ _ _, trivial⟩
  show Reaches adding (adding.rx 1).toNat 8 .atomic (.dev 0x80002000 false) (counted adding)
  rw [hx]
  exact plain_reaches adding_plain rfl (inBudget_none (by decide +kernel)) (by decide) (by decide) .atomic

/-- That hart may issue, and the home performs its atomic (R261). -/
def atHome : State :=
  let s := adding.withHart fun h => { h with fbuf := 8 }
  { s with coh := s.coh.hold 0 (0x80002000 / 128) true }

theorem witness_home_atomic :
    let s := adding.withHart fun h => { h with fbuf := 8 }
    MayIssue s s.hart ∧ 0 = 0x80002000 / 128 / 2 ^ 30 ∧ Inv s ∧
    ∃ x v u, fetch atHome = .ok (0x38611041, v) ∧ decode 0x38611041 = .ok (.atadd 3 1 2 0 0 1) ∧
      atomicForm s (.atadd 3 1 2 0 0 1) = some x ∧ (s.rx x.addr).toNat = 0x2000 ∧
      atHome.xlate 0x2000 .atomic = .ok (.dev 0x80002000 false, atHome) ∧ Ordered atHome x.order ∧
      Reaches atHome 0x2000 x.n x.acc (.dev 0x80002000 false) u ∧ Readable u (.dev 0x80002000 false) x.n := by
  obtain ⟨v, hv⟩ := fetch_of (s := atHome) (w := 0x38611041) (by decide +kernel)
  have hp : plain atHome = true := by decide +kernel
  exact ⟨⟨rfl, by decide, by decide +kernel, .inl rfl⟩, by decide, inv_of (by decide +kernel), _, v, counted atHome, hv, by decide +kernel, rfl,
    by decide +kernel, plain_xlate hp 0x2000 .atomic (by decide), fun _ => rfl,
    plain_reaches hp rfl (inBudget_none (by decide +kernel)) (by decide) (by decide) .atomic, plain_readable (plain_counted hp) _ _ _⟩

-- management

/-- A command with this code and these bytes of its region waits at port 0. -/
def command (s : State) (code : Nat) (args : List Host.Cell) : State :=
  { s with mem := [(0, 1), (3, 0x40), (0x10008000, 1), (0x10008010, BitVec.ofNat 8 code)] ++ args }

/-- A signature that the key 1, the encoding of the neutral point, accepts for every message: R is that point and S is 0. -/
def withKey (s : State) : State := { s with lu := { s.lu with keys := s.lu.keys.setIfInBounds 0 (some 1) } }

/-- A form of the neutral point. -/
def Neutral (p : EdPoint) : Prop := p.x = 0 ∧ p.t = 0 ∧ p.y % edP = p.z % edP

theorem neutral_add {p q : EdPoint} (hp : Neutral p) (hq : Neutral q) : Neutral (p.add q) := by
  obtain ⟨px, py, pz, pt⟩ := p
  obtain ⟨qx, qy, qz, qt⟩ := q
  obtain ⟨rfl, rfl, h1⟩ := hp
  obtain ⟨rfl, rfl, h2⟩ := hq
  have hpos : 0 < edP := by decide
  have e0 (a : Nat) : edSub a 0 % edP = a % edP := by simp [edSub]
  have ha : edSub py 0 * edSub qy 0 % edP = py * qy % edP := by rw [Nat.mul_mod, e0, e0, ← Nat.mul_mod]
  have hs : edSub (py * qy % edP) (py * qy % edP) = 0 := by
    have := Nat.mod_lt (py * qy) hpos
    rw [edSub, Nat.mod_mod, Nat.add_sub_cancel' (Nat.le_of_lt this), Nat.mod_self]
  have hz : 2 * (py * qy) % edP = 2 * (pz * qz) % edP := by
    rw [Nat.mul_mod 2, Nat.mul_mod 2, Nat.mul_mod py, Nat.mul_mod pz, h1, h2]
  simp only [Neutral, EdPoint.add, Nat.add_zero, ha, hs, Nat.zero_mul, Nat.mul_zero, Nat.zero_mod, Nat.mod_mod, true_and]
  have hb : (py * qy % edP + py * qy % edP) % edP = 2 * pz * qz % edP := by
    rw [← Nat.add_mod, ← Nat.two_mul, hz, Nat.mul_assoc]
  rw [Nat.mul_mod (2 * pz * qz % edP) ((_ + _) % edP), Nat.mul_mod (edSub _ _), e0]
  simp only [Nat.mod_mod, hb]

theorem neutral_mul {p : EdPoint} (k n : Nat) (h : Neutral p ∨ k = 0) : Neutral (p.mul k n) := by
  induction n generalizing k with
  | zero => exact ⟨rfl, rfl, rfl⟩
  | succ n ih =>
    have hh := ih (k / 2) (h.imp_right fun e => by simp [e])
    have h2 := neutral_add hh hh
    unfold EdPoint.mul
    dsimp only
    split
    · rcases h with h | h
      · exact neutral_add h2 h
      · simp [h] at *
    · exact h2

theorem neutral_same {p q : EdPoint} (hp : Neutral p) (hq : Neutral q) : p.same q = true := by
  obtain ⟨px, py, pz, pt⟩ := p
  obtain ⟨qx, qy, qz, qt⟩ := q
  obtain ⟨rfl, rfl, h1⟩ := hp
  obtain ⟨rfl, rfl, h2⟩ := hq
  dsimp only at h1 h2
  have : py * qz % edP = qy * pz % edP := by
    rw [Nat.mul_mod, h1, ← h2, Nat.mul_comm, ← Nat.mul_mod]
  simp [EdPoint.same, this]

theorem neutral_signs (msg : List Byte) : edVerify 1 msg (bytesOf 1 64) = true := by
  have hd : EdPoint.decode 1 = some ⟨0, 1, 1, 0⟩ := by decide +kernel
  have hn : Neutral ⟨0, 1, 1, 0⟩ := ⟨rfl, rfl, rfl⟩
  have h1 : natOfBytes ((bytesOf 1 64).take 32) = 1 := by decide
  have h2 : natOfBytes ((bytesOf 1 64).drop 32) = 0 := by decide
  unfold edVerify
  simp only [h1, h2, hd, Bool.and_eq_true, decide_eq_true_eq]
  exact ⟨by decide, neutral_same (neutral_mul _ _ (.inl (neutral_mul _ _ (.inr rfl))))
    (neutral_mul _ _ (.inl (neutral_add hn (neutral_mul _ _ (.inl hn)))))⟩

theorem command_signed (s : State) (code : Nat) (args : List Host.Cell)
    (h : (withKey (command s code args)).lu.keys[0]?.join = some 1)
    (h1 : (withKey (command s code args)).mgmt 0 0xF8 8 = ((withKey (command s code args)).svc.mnonce[0]?).getD 0)
    (h2 : (withKey (command s code args)).mgmt 0 0x100 64 = 1) : (withKey (command s code args)).signed 0 = true := by
  unfold State.signed
  rw [h]
  simp only [h1, h2, beq_self_eq_true, Bool.true_and]
  exact neutral_signs _

/-- The conditions of a command, as checks. -/
theorem commanded_of {s : State} {code : Nat} (h : (s.svc.power != .off && mgmtField s 0 0 8 != mgmtField s 0 8 8 &&
    mgmtField s 0 0x10 4 == code && cellsWf s.mem && s.regions.all fun r => cellsWf r.cells) = true) : Inv s ∧ Commanded s 0 code := by
  simp only [Bool.and_eq_true, bne_iff_ne, beq_iff_eq, List.all_eq_true] at h
  exact ⟨⟨h.1.2, h.2⟩, by decide, h.1.1.1.1, h.1.1.1.2, h.1.1.2⟩

/-- The signature's bytes after some arguments. -/
def signature : List Host.Cell := [(0x10008100, 1)]

theorem witness_commands :
    (∀ code ∈ [1, 3, 4, 5, 6, 7], Inv (command base code []) ∧ Commanded (command base code []) 0 code) ∧
    (command base 3 []).signed 0 = false ∧ (withKey (command base 3 signature)).signed 0 = true ∧
    Commanded (withKey (command base 3 signature)) 0 3 ∧
    (mgmtField (command base 4 []) 0 0x80 4 ≤ (command base 4 []).svc.journal.length ∧
      mgmtField (command base 5 []) 0 0x80 8 ≤ (command base 5 []).svc.log.length) ∧
    (let s := command base 4 [(0x10008083, 1)]
     Commanded s 0 4 ∧ s.svc.journal.length < mgmtField s 0 0x80 4) ∧
    (let s := command base 5 [(0x10008083, 1)]
     Commanded s 0 5 ∧ s.svc.log.length < mgmtField s 0 0x80 8) := by
  have hc (s : State) (n : Nat) (a : List Host.Cell) (h : _) : Commanded (command s n a) 0 n := (commanded_of (s := command s n a) h).2
  refine ⟨fun code hc => ?_, by decide +kernel, command_signed base 3 signature rfl (by decide +kernel) (by decide +kernel),
    (commanded_of (by decide +kernel)).2, ⟨by decide +kernel, by decide +kernel⟩, ⟨hc _ _ _ (by decide +kernel), by decide +kernel⟩,
    hc _ _ _ (by decide +kernel), by decide +kernel⟩
  fin_cases hc <;> exact commanded_of (by decide +kernel)

/-- The module after a boot that stopped. -/
def stopped : State := { base with svc := { base.svc with bootStopped := true } }

theorem witness_keyset :
    (let s := command stopped 2 [(0x10008081, 1)]
     Inv s ∧ Commanded s 0 2 ∧ s.svc.bootStopped = true ∧ mgmtField s 0 0x81 1 = 1) ∧
    (let s := command base 2 []
     Inv s ∧ Commanded s 0 2 ∧ s.svc.bootStopped = false ∧ s.signed 0 = false ∧ mgmtField s 0 0x81 1 ≠ 1) ∧
    (let s (slot op : Nat) := withKey (command base 2 ([(0x10008080, BitVec.ofNat 8 slot), (0x10008081, BitVec.ofNat 8 op)].filter (·.2 ≠ 0) ++ signature))
     ∀ slot ∈ [0, 1, 7, 8], ∀ op ∈ [0, 1], Inv (s slot op) ∧ Commanded (s slot op) 0 2 ∧ (s slot op).svc.bootStopped = false ∧
      (s slot op).signed 0 = true ∧ mgmtField (s slot op) 0 0x80 1 = slot ∧ mgmtField (s slot op) 0 0x81 1 = op) := by
  refine ⟨?_, ?_, fun slot hs op ho => ?_⟩
  · have h : _ := commanded_of (s := command stopped 2 [(0x10008081, 1)]) (code := 2) (by decide +kernel)
    exact ⟨h.1, h.2, rfl, by decide +kernel⟩
  · have h : _ := commanded_of (s := command base 2 []) (code := 2) (by decide +kernel)
    exact ⟨h.1, h.2, rfl, by decide +kernel, by decide +kernel⟩
  · have hm : ∀ slot ∈ [0, 1, 7, 8], ∀ op ∈ [0, 1], (let s := withKey (command base 2 ([(0x10008080, BitVec.ofNat 8 slot), (0x10008081, BitVec.ofNat 8 op)].filter (·.2 ≠ 0) ++ signature))
        (s.svc.power != .off && mgmtField s 0 0 8 != mgmtField s 0 8 8 &&
          mgmtField s 0 0x10 4 == 2 && cellsWf s.mem && s.regions.all fun r => cellsWf r.cells) = true ∧
        s.mgmt 0 0xF8 8 = (s.svc.mnonce[0]?).getD 0 ∧ s.mgmt 0 0x100 64 = 1 ∧ mgmtField s 0 0x80 1 = slot ∧ mgmtField s 0 0x81 1 = op) := by
      decide +kernel
    obtain ⟨h1, h2, h3, h4, h5⟩ := hm slot hs op ho
    have h := commanded_of h1
    exact ⟨h.1, h.2, rfl, command_signed _ _ _ rfl h2 h3, h4, h5⟩

theorem witness_space :
    (let s := command stopped 6 []
     Inv s ∧ Commanded s 0 6 ∧ s.svc.bootStopped = true ∧ mgmtField s 0 0x80 1 = 0) ∧
    (let s := command base 6 [(0x10008088, 1)]
     Inv s ∧ Commanded s 0 6 ∧ s.svc.bootStopped = false ∧ mgmtField s 0 0x80 1 = 0 ∧ mgmtField s 0 0x88 8 % 4096 ≠ 0) ∧
    (let s := command base 6 [(0x1000808D, 1)]
     Inv s ∧ Commanded s 0 6 ∧ mgmtField s 0 0x80 1 = 0 ∧ 2 ^ 39 ≤ mgmtField s 0 0x88 8) ∧
    (let s := command task 6 [(0x10008084, 5), (0x10008089, 0x10)]
     Inv s ∧ Commanded s 0 6 ∧ s.svc.bootStopped = false ∧ mgmtField s 0 0x80 1 = 0 ∧ mgmtField s 0 0x88 8 % 4096 = 0 ∧
      mgmtField s 0 0x88 8 < 2 ^ 39 ∧ ∃ b ∈ s.lu.bindings, b.port = 0 ∧ b.pasid = mgmtField s 0 0x84 4 % 2 ^ 20) ∧
    (let s := command base 6 [(0x10008084, 5), (0x10008089, 0x10)]
     Inv s ∧ Commanded s 0 6 ∧ s.svc.bootStopped = false ∧ mgmtField s 0 0x80 1 = 0 ∧ mgmtField s 0 0x88 8 % 4096 = 0 ∧
      mgmtField s 0 0x88 8 < 2 ^ 39 ∧ (¬ ∃ b ∈ s.lu.bindings, b.port = 0 ∧ b.pasid = mgmtField s 0 0x84 4 % 2 ^ 20) ∧ s.lu.bindings.length < 60000) ∧
    (let s := command stopped 6 [(0x10008080, 1)]
     Inv s ∧ Commanded s 0 6 ∧ s.svc.bootStopped = true ∧ mgmtField s 0 0x80 1 ≠ 0) ∧
    (let s := command base 6 [(0x10008080, 2)]
     Inv s ∧ Commanded s 0 6 ∧ s.svc.bootStopped = false ∧ 1 < mgmtField s 0 0x80 1) ∧
    (let s := command base 6 [(0x10008080, 1), (0x10008084, 5)]
     Inv s ∧ Commanded s 0 6 ∧ s.svc.bootStopped = false ∧ mgmtField s 0 0x80 1 = 1 ∧
      ¬ ∃ b ∈ s.lu.bindings, b.port = 0 ∧ b.pasid = mgmtField s 0 0x84 4 % 2 ^ 20) ∧
    (let s := command task 6 [(0x10008080, 1), (0x10008084, 5)]
     Inv s ∧ Commanded s 0 6 ∧ s.svc.bootStopped = false ∧ mgmtField s 0 0x80 1 = 1 ∧
      ∃ l ∈ s.live, l.port = 0 ∧ l.pasid = mgmtField s 0 0x84 4 % 2 ^ 20) ∧
    (let s := command { task with lu := { task.lu with launches := [] } } 6 [(0x10008080, 1), (0x10008084, 5)]
     Inv s ∧ Commanded s 0 6 ∧ s.svc.bootStopped = false ∧ mgmtField s 0 0x80 1 = 1 ∧
      (∃ b ∈ s.lu.bindings, b.port = 0 ∧ b.pasid = mgmtField s 0 0x84 4 % 2 ^ 20) ∧
      ¬ ∃ l ∈ s.live, l.port = 0 ∧ l.pasid = mgmtField s 0 0x84 4 % 2 ^ 20) := by
  have hc {s : State} {p : Prop} (h : _) (hp : p) : Inv s ∧ Commanded s 0 6 ∧ p :=
    ⟨(commanded_of (s := s) (code := 6) h).1, (commanded_of (s := s) (code := 6) h).2, hp⟩
  refine ⟨hc ?_ ?_, hc ?_ ?_, hc ?_ ?_, hc ?_ ?_, hc ?_ ?_, hc ?_ ?_, hc ?_ ?_, hc ?_ ?_, hc ?_ ?_, hc ?_ ?_⟩
  all_goals decide +kernel

-- steps

/-- Hart 0 picked, about to execute this word. -/
def due (w : Nat) : State := { (withWord base w).withHart fun h => { h with fbuf := 8 } with picked := [0] }

/-- The state in which its step begins. -/
def begun (s : State) : State := tick { s with picked := [] }

theorem begun_refuses : ∃ e, decode 0xFFFFFFFF = .error e := by
  cases hd : decode 0xFFFFFFFF with
  | error e => exact ⟨e, rfl⟩
  | ok i =>
    have : (match decode 0xFFFFFFFF with | .error _ => true | .ok _ => false) = true := by decide +kernel
    rw [hd] at this
    cases this

theorem witness_step :
    (due 0x08000000).inbox = [] ∧ Powered (due 0x08000000) ∧ (due 0x08000000).picked = (due 0x08000000).hart.hid :: [] ∧
    MayIssue (due 0x08000000) (due 0x08000000).hart ∧
    (∃ w u i t, fetch (begun (due 0x08000000)) = .ok (w, u) ∧ decode w = .ok i ∧ exec i u.countTraffic = .next t) ∧
    (∃ w u e, fetch (begun (due 0xFFFFFFFF)) = .ok (w, u) ∧ decode w = .error e) ∧
    ∃ code v, fetch (begun ((due 0).withHart fun h => { h with pc := 2 })) = .error (code, v) := by
  obtain ⟨u, hu⟩ := fetch_of (s := begun (due 0x08000000)) (w := 0x08000000) (by decide +kernel)
  obtain ⟨v, hv⟩ := fetch_of (s := begun (due 0xFFFFFFFF)) (w := 0xFFFFFFFF) (by decide +kernel)
  obtain ⟨e, he⟩ := begun_refuses
  exact ⟨rfl, by unfold Powered; decide +kernel, rfl, ⟨rfl, by decide, by decide +kernel, .inl rfl⟩,
    ⟨_, u, .addi 0 0 0, _, hu, by decide +kernel, rfl⟩, ⟨_, v, e, hv, he⟩, 3, 2, rfl⟩

/-- A hart that fetches at this address, with these poisoned lines. -/
def fetching (pc : Nat) (bad : List Nat) : State :=
  let s := (due 0x08000000).withHart fun h => { h with pc := BitVec.ofNat 64 pc }
  { s with coh := { s.coh with poison := bad } }

theorem error_of {ε α : Type} {r : Except ε α} (h : (match r with | .error _ => true | .ok _ => false) = true) : ∃ c, r = .error c := by
  cases r with
  | error c => exact ⟨c, rfl⟩
  | ok x => cases h

/-- An address reaches device memory, and a check of its place and the state holds. -/
def deviceAnd (r : Except Nat (Loc × State)) (p : Nat → State → Bool) : Bool :=
  match r with
  | .ok (.dev a _, u) => p a u
  | _ => false

theorem device_of {r : Except Nat (Loc × State)} {p : Nat → State → Bool} (h : deviceAnd r p = true) :
    ∃ a sy u, r = .ok (.dev a sy, u) ∧ p a u = true := by
  unfold deviceAnd at h
  split at h
  · exact ⟨_, _, _, rfl, h⟩
  · cases h

theorem witness_fetch :
    (∃ e rest, { base with inbox := [.standbyEntry] }.inbox = e :: rest) ∧
    (let s := served fun v => { v with power := .off }
     s.inbox = [] ∧ s.svc.power = .off) ∧
    (base.inbox = [] ∧ Powered base ∧ base.picked = []) ∧
    (let s : State := { base with picked := [3] }
     s.picked = [3] ∧ ∃ h, s.hart? 3 = some h ∧ ¬ MayIssue (tick { s with picked := [] }) h) ∧
    (fetching 2 []).hart.pc.toNat % 4 ≠ 0 ∧
    (let s := task.withHart fun h => { h with pc := 0x20000 }
     s.hart.pc.toNat % 4 = 0 ∧ s.inText s.hart.pc.toNat = false) ∧
    ((fetching 0x1000000000 []).hart.pc.toNat % 4 = 0 ∧ (fetching 0x1000000000 []).inText 0x1000000000 = true ∧
      ∃ c, (fetching 0x1000000000 []).xlate 0x1000000000 .fetch = .error c) ∧
    (∀ bad, bad = [] ∨ bad = [2 ^ 31 / 128] → (fetching 0 bad).hart.pc.toNat % 4 = 0 ∧ (fetching 0 bad).inText 0 = true ∧
      ∃ a sy u, (fetching 0 bad).xlate 0 .fetch = .ok (.dev a sy, u) ∧ u.linePoisoned (a / 128) = decide (bad ≠ [])) := by
  refine ⟨⟨_, _, rfl⟩, ⟨rfl, rfl⟩, ⟨rfl, by unfold Powered; decide +kernel, rfl⟩,
    ⟨rfl, _, rfl, fun h => absurd h.2.1 (by decide +kernel)⟩, by decide +kernel, ⟨by decide +kernel, by decide +kernel⟩,
    ⟨by decide +kernel, by decide +kernel, ?_⟩, fun bad hb => ?_⟩
  · exact error_of (by decide +kernel)
  · have h : ∀ bad ∈ [[], [2 ^ 31 / 128]], (fetching 0 bad).hart.pc.toNat % 4 = 0 ∧ (fetching 0 bad).inText 0 = true ∧
        deviceAnd ((fetching 0 bad).xlate 0 .fetch) (fun a u => u.linePoisoned (a / 128) == decide (bad ≠ [])) = true := by
      decide +kernel
    obtain ⟨h1, h2, h3⟩ := h bad (hb.elim (fun e => e ▸ .head _) fun e => e ▸ .tail _ (.head _))
    obtain ⟨a, sy, u, he, hp⟩ := device_of h3
    exact ⟨h1, h2, a, sy, u, he, eq_of_beq hp⟩

-- single instructions, with results worked out from the rules

/-- What an instruction leaves in x3 when it goes on, from x1 and x2. -/
def x3After (i : Instr) (a b : Nat) : Option Nat :=
  match exec i (withX base [(1, a), (2, b)]) with
  | .next t => some (t.rx 3).toNat
  | _ => none

theorem test_addi_wraps : x3After (.addi 3 1 1) (2 ^ 64 - 1) 0 = some 0 := by decide +kernel

theorem test_sub_source_is_destination : afterIt (exec (.sub 3 1 3) (withX base [(1, 5), (3, 7)])) (fun t => t.rx 3 == -2) = true := by
  decide +kernel

theorem test_sra_keeps_the_sign : x3After (.sra 3 1 2) (2 ^ 63) 65 = some (2 ^ 63 + 2 ^ 62) := by decide +kernel

theorem test_mulh_of_negatives : x3After (.mulh 3 1 2) (2 ^ 64 - 1) (2 ^ 64 - 1) = some 0 := by decide +kernel

theorem test_mulhn_of_the_largest : x3After (.mulhn 3 1 2) (2 ^ 64 - 1) (2 ^ 64 - 1) = some (2 ^ 64 - 2) := by decide +kernel

theorem test_div_by_zero : x3After (.div 3 1 2) 7 0 = some (2 ^ 64 - 1) := by decide +kernel

theorem test_rem_overflow : x3After (.rem 3 1 2) (2 ^ 63) (2 ^ 64 - 1) = some 0 := by decide +kernel

theorem test_slt_is_signed : x3After (.slt 3 1 2) (2 ^ 64 - 1) 0 = some 1 := by decide +kernel

theorem test_popc : x3After (.popc 3 1) 0xFF00FF 0 = some 16 := by decide +kernel

theorem test_x0_discards : afterIt (exec (.addi 0 1 1) (withX base [(1, 5)])) (fun t => t.rx 0 == 0 && t.hart.pc == 4) = true := by
  decide +kernel

theorem test_store_then_load : afterIt (exec (.stI16 2 1 2) (withX base [(1, 0x1000), (2, 0xFFFE)])) (fun t =>
    afterIt (exec (.ldI16 3 1 2) t) fun u => u.rx 3 == -2) = true := by decide +kernel

theorem test_fadd_f32 : x3After (.fadd 3 1 2 1 0) 0x3F800000 0x40000000 = some 0x40400000 := by decide +kernel

theorem test_beq_backwards : afterIt (exec (.beq 0 0 0xFFFC) ((withX base []).withHart fun h => { h with pc := 0x1000 }))
    (fun t => t.hart.pc == 0xFF0) = true := by decide +kernel

theorem test_syscall_enters_the_vector : afterIt (exec (.syscall 5) (base.withHart fun h => { h with pc := 0x40, tvec := 0x8000 }))
    (fun t => t.hart.pc == 0x8000 && t.hart.tpc == 0x40 && t.hart.tcause.toNat % 256 == 12) = true := by decide +kernel

/-- R269: a store of all 128 bytes of a poisoned line clears its poison, one of 120 bytes does not. -/
def mended (n : Nat) : List Nat :=
  let s := { acc with coh := { acc.coh with poison := [0x1000020, 0x1000021] } }.withHart fun h => { h with vl := n }
  match execVst 1 1 0 0 0 3 s with
  | .next t => t.coh.poison
  | _ => []
theorem test_vst_repairs_a_line : mended 16 = [0x1000021] ∧ mended 15 = [0x1000020, 0x1000021] := by decide +kernel

end Sys2Proof.Tests
end

section
namespace Sys2Proof.Machine

open Claims

/-! Reset and one step: what the firmware harts read (R106), and what a picked hart's turn comes to (R117, R134). -/

/-- The registers of a hart that R106 gives a value at reset. -/
def resetValues : List (Nat × Word) :=
  [(0x000, 0), (0x001, 3), (0x002, 0), (0x004, 0), (0x005, 0), (0x006, 4), (0x011, 0), (0x020, 0x10000), (0x022, 0),
    (0x023, 0), (0x024, 0), (0x025, 0), (0x032, 0xFFFFFFFFFFC00000), (0x042, 0xFFFFFFFFFFB00000), (0x052, 16 * 488),
    (0x053, 8 * 488), (0x060, 0), (0x061, 0), (0x062, 0), (0x063, 0), (0x064, 0), (0x065, 0), (0x066, 0), (0x067, 0),
    (0x080, 0), (0x0F0, 0)]

/-- Each of them reads that value, whatever the slot of the firmware hart. -/
theorem cregRead_reset_firmware (hid : Nat) :
    ∀ p ∈ resetValues, cregRead { State.reset with hart := Hart.firmware hid } p.1 = p.2 := by
  simp only [resetValues, List.forall_mem_cons, List.not_mem_nil, false_imp_iff, implies_true, and_true]
  have mvl : wordOfNat (0 + 0 * 256) = 0 := by decide
  exact ⟨rfl, rfl, rfl, mvl, rfl, rfl, rfl, rfl, rfl, rfl, rfl, rfl, rfl, rfl, rfl, rfl, rfl, rfl, rfl, rfl, rfl, rfl, rfl, rfl,
    rfl, rfl⟩

/-- The harts placed at reset are firmware harts. -/
theorem firmware_of_mem_reset {h : Hart} (hm : h ∈ State.reset.placed) : ∃ hid, h = Hart.firmware hid := by
  rcases List.mem_cons.mp hm with rfl | hm
  · exact ⟨0, rfl⟩
  · obtain ⟨hid, -, rfl⟩ := List.mem_map.mp hm
    exact ⟨hid, rfl⟩

/-- Settles O58: the placed harts are the 16 firmware harts, and each listed register of one reads the value of R106. -/
theorem resetHoldsTheStatedValues : Obligations.ResetHoldsTheStatedValues := by
  refine ⟨rfl, fun h hm n w hw => ?_, rfl, rfl, rfl, rfl, rfl, rfl⟩
  obtain ⟨hid, rfl⟩ := firmware_of_mem_reset hm
  exact cregRead_reset_firmware hid (n, w) hw

-- one step

@[simp] theorem tick_hart (s : State) : (tick s).hart = s.hart := by simp only [tick]
@[simp] theorem tick_parked (s : State) : (tick s).parked = s.parked := by simp only [tick]
@[simp] theorem tick_targets (s : State) : (tick s).targets = s.targets := by simp only [tick]

/-- The clock only goes on. -/
theorem clock_le_tick (s : State) : s.clock ≤ (tick s).clock := by
  show s.clock ≤ s.clock + 1 + Config.stepClocks s.draw
  omega

/-- The acting hart is the one on its slot. -/
@[simp] theorem State.hart?_self (s : State) : s.hart? s.hart.hid = some s.hart := by
  simp [State.hart?, State.placed]

/-- The hart that has the turn keeps it. -/
@[simp] theorem giveTurn_self (s : State) (n : Nat) : giveTurn s.hart.hid n s = s := by
  cases n with
  | zero => rfl
  | succ n => simp [giveTurn]

/-- Whether a hart is within an instruction depends on the requests that are out alone. -/
theorem State.midway_congr {s t : State} (h : t.targets = s.targets) (g : Hart) : t.midway g = s.midway g := by
  unfold State.midway
  rw [h]

/-- A hart that may issue is able to (R133, R188). -/
theorem State.able_iff (s : State) (h : Hart) : s.able h = true ↔ MayIssue s h := by
  unfold State.able MayIssue
  rw [← Option.isNone_iff_eq_none, Option.ne_none_iff_isSome]
  simp [and_assoc, or_assoc]

/-- A hart that may issue may issue at any later clock. -/
theorem MayIssue_later {s t : State} {h : Hart} (hi : MayIssue s h) (hc : s.clock ≤ t.clock) (ht : t.targets = s.targets) :
    MayIssue t h := by
  obtain ⟨hrun, hbuf, hquiet, hstop⟩ := hi
  exact ⟨hrun, hbuf, hquiet.trans hc, by rwa [State.midway_congr ht]⟩

/-- With no event pending and the acting hart picked first, a step is that hart's next instruction, and what follows it (R134). -/
theorem step_of_picked {s t : State} {rest : List Nat} (hin : s.inbox = []) (hp : Powered s) (hpick : s.picked = s.hart.hid :: rest)
    (hi : MayIssue s s.hart) (ht : runHart (tick { s with picked := rest }) = .next t) : step s = .next (issued s.hart.hid t) := by
  have hself : (tick { s with picked := rest }).hart? s.hart.hid = some s.hart :=
    State.hart?_self (tick { s with picked := rest })
  have hturn (n : Nat) : giveTurn s.hart.hid n (tick { s with picked := rest }) = tick { s with picked := rest } :=
    giveTurn_self (tick { s with picked := rest }) n
  have hable : (tick { s with picked := rest }).able s.hart = true :=
    (State.able_iff _ _).mpr (MayIssue_later hi (clock_le_tick { s with picked := rest }) (tick_targets _))
  have hissue : issue s.hart.hid (tick { s with picked := rest }) =
      .next (t.updHart s.hart.hid fun h => { h with age := 0, cut := none, gatedAt := t.svc.gated }) := by
    unfold issue
    simp only [hself, hable, if_true, hturn, ht]
  unfold step
  split
  · rename_i heq
    simp [hin] at heq
  · simp only [if_neg (show ¬ s.svc.power = .off from hp), hpick, hissue]
    rfl

/-- What a fetch that fails comes to (R117). -/
theorem runHart_of_fetch_error {s : State} {code : Nat} {v : Word} (h : fetch s = .error (code, v)) :
    runHart s = .next (takeTrap true code v 0 s) := by
  unfold runHart
  rw [h]

/-- A word that decodes is executed, the fetch's bytes counted (R38). -/
theorem runHart_of_decode {s u : State} {w : BitVec 32} {i : Instr} (hf : fetch s = .ok (w, u)) (hd : decode w = .ok i) :
    runHart s = exec i u.countTraffic := by
  unfold runHart
  simp only [hf, hd]

/-- A word that is no instruction raises Illegal Instruction with the word (R116). -/
theorem runHart_of_no_instruction {s u : State} {w : BitVec 32} {e : DecodeError} (hf : fetch s = .ok (w, u))
    (hd : decode w = .error e) : runHart s = .next (takeTrap true 1 (BitVec.ofNat 64 w.toNat) 0 u.countTraffic) := by
  unfold runHart
  simp only [hf, hd]
  show Host.Outcome.next (takeTrap true 1 (w.setWidth 64) 0 u.countTraffic) = _
  rw [BitVec.ofNat_toNat]

/-- Settles O55: a step of a picked hart is its `runHart`, which is a fetch, a decode and an execution. -/
theorem stepRunsTheDecodedInstruction : Obligations.StepRunsTheDecodedInstruction := by
  intro s rest hin hp hpick hi
  refine ⟨fun w u i t hf hd he => ?_, fun w u e hf hd => ?_, fun code v hf => ?_⟩
  · exact step_of_picked hin hp hpick hi ((runHart_of_decode hf hd).trans he)
  · exact step_of_picked hin hp hpick hi (runHart_of_no_instruction hf hd)
  · exact step_of_picked hin hp hpick hi (runHart_of_fetch_error hf)

end Sys2Proof.Machine
end

section
namespace Sys2Proof.Machine

open Claims

/-! No meaning stops (R8, R116): every instruction and event answers a next state, and so a step stops in Off alone (R21). The
operations that meanings are made of come first, then the families of instructions, then `exec` and `step`. -/

/-- The answer is a next state: neither a fault nor a refusal. -/
def GoesOn (a : Answer) : Prop := ∃ t, a = .next t

theorem goesOn_next {t : State} : GoesOn (.next t) := ⟨t, rfl⟩

theorem goesOn_ite {p : Prop} [Decidable p] {a b : Answer} (ha : GoesOn a) (hb : GoesOn b) : GoesOn (if p then a else b) := by
  split
  · exact ha
  · exact hb

-- operations

/-- A sequence of effects ends, traps or waits, and each is a next state. -/
theorem goesOn_run {vector : Bool} {m : Act Unit} {s : State} : GoesOn (Act.run vector m s) := by
  unfold Act.run
  split
  · exact goesOn_next
  · exact goesOn_next
  · exact goesOn_next

theorem goesOn_whenFree {s : State} {masks : List Nat} {k : Answer} (h : GoesOn k) : GoesOn (s.whenFree masks k) :=
  goesOn_ite goesOn_next h

theorem goesOn_asHart {hid : Nat} {f : State → Answer} {s : State} (h : ∀ t, GoesOn (f t)) : GoesOn (asHart hid f s) := by
  unfold asHart
  split
  · exact goesOn_next
  · obtain ⟨t, ht⟩ := h (giveTurn hid (s.parked.length + 1) s)
    simp only [ht]
    exact goesOn_next

/-- A choice of meanings by a word, each of which goes on from every state. -/
def AllGoOn (sel : BitVec 32 → Option (State → Answer)) : Prop := ∀ w f, sel w = some f → ∀ s, GoesOn (f s)

theorem goesOn_wake {hid : Nat} {sel : BitVec 32 → Option (State → Answer)} {s : State} (h : AllGoOn sel) :
    GoesOn (wake hid sel s) := by
  unfold wake
  split
  · exact goesOn_next
  · refine goesOn_ite (goesOn_asHart fun t => ?_) goesOn_next
    split
    · exact goesOn_next
    · split
      · rename_i f hf
        exact h _ f hf _
      · exact goesOn_next

/-- A word that selects one meaning or none. -/
theorem allGoOn_ite {p : BitVec 32 → Prop} [DecidablePred p] {f : BitVec 32 → State → Answer} (h : ∀ w s, GoesOn (f w s)) :
    AllGoOn fun w => if p w then some (f w) else none := by
  intro w g hg s
  simp only [Option.ite_none_right_eq_some, Option.some.injEq] at hg
  obtain ⟨-, rfl⟩ := hg
  exact h w s

theorem goesOn_wakeAll {sel : BitVec 32 → Option (State → Answer)} (h : AllGoOn sel) {hids : List Nat} {s : State} :
    GoesOn (wakeAll sel hids s) := by
  induction hids generalizing s with
  | nil => exact goesOn_next
  | cons hid hids ih =>
    obtain ⟨t, ht⟩ := goesOn_wake (hid := hid) (s := s) h
    unfold wakeAll
    simp only [ht]
    exact ih

theorem goesOn_command {s : State} {port code : Nat} {f : State → Nat × List Byte × State} : GoesOn (s.command port code f) :=
  goesOn_ite goesOn_next goesOn_next

theorem goesOn_stopHart {s : State} {h : Hart} : GoesOn (s.stopHart h) := by
  unfold State.stopHart
  refine goesOn_ite ?_ (goesOn_ite goesOn_next goesOn_next)
  dsimp only
  split
  · exact goesOn_next
  · exact goesOn_next

theorem goesOn_restore {s : State} {l : Launch} {r : LHart} {j hid : Nat} : GoesOn (s.restore l r j hid) := by
  unfold State.restore
  dsimp only
  split
  · exact goesOn_next
  · split
    · exact goesOn_next
    · exact goesOn_ite goesOn_next (goesOn_ite (goesOn_asHart fun _ => goesOn_next) goesOn_next)

-- strip farms

theorem goesOn_farm {a b : Reg} {s : State} : GoesOn (execFarm a b s) := by
  refine goesOn_ite ?_ goesOn_next
  unfold farmArrive
  dsimp only
  split
  · exact goesOn_next
  · exact goesOn_next
  · exact goesOn_ite goesOn_next (goesOn_ite goesOn_next (goesOn_ite goesOn_next goesOn_next))

theorem goesOn_farmred {op : Nat} {d a b : Reg} {s : State} : GoesOn (farmred op d a b s) := by
  unfold farmred
  dsimp only
  refine goesOn_ite goesOn_next (goesOn_ite goesOn_next (goesOn_ite ?_ (goesOn_ite goesOn_next goesOn_next)))
  split
  · exact goesOn_next
  · exact goesOn_next

-- vectors and masks

theorem goesOn_kbr {cond : Nat → Nat → Bool} {k : Num3} {o : BitVec 21} {s : State} : GoesOn (kbr cond k o s) := by
  refine goesOn_ite goesOn_next ?_
  split
  · exact goesOn_next
  · exact goesOn_next

theorem goesOn_vamo {base : Nat} {op : Nat → Nat → Nat → Nat × Nat} {d a vi : Reg} {c r : Bit1} {g : Num3} {w : Bit1} {s : State} :
    GoesOn (vamo base op d a vi c r g w s) := goesOn_ite goesOn_next goesOn_run

theorem goesOn_vatfadd {d a vi : Reg} {c r : Bit1} {g : Num3} {w : Bit1} {s : State} : GoesOn (execVatfadd d a vi c r g w s) := by
  unfold execVatfadd
  dsimp only
  exact goesOn_vamo

theorem goesOn_scatter {word : Nat} {ok : Bool} {comb : Nat → Nat → Nat × Nat} {v a vi : Reg} {g w : Num3} {s : State} :
    GoesOn (scatter word ok comb v a vi g w s) := goesOn_ite goesOn_next goesOn_run

theorem goesOn_vstxFadd {d a vi : Reg} {c : Bit1} {g w : Num3} {s : State} : GoesOn (execVstxFadd d a vi c g w s) := by
  unfold execVstxFadd
  dsimp only
  exact goesOn_scatter

theorem goesOn_vldWm {d a : Reg} {g w m : Num3} {s : State} : GoesOn (vldWm d a g w m s) :=
  goesOn_ite goesOn_next goesOn_run

theorem goesOn_vldxWm {d a vi : Reg} {ci : Bit1} {g w m : Num3} {s : State} : GoesOn (vldxWm d a vi ci g w m s) :=
  goesOn_ite goesOn_next goesOn_run

theorem goesOn_vldx {word : Nat} {mode : LoadMode} {dup : Bool} {d a vi : Reg} {g w : Num3} {s : State} :
    GoesOn (vldx word mode dup d a vi g w s) :=
  goesOn_ite goesOn_next (goesOn_ite (goesOn_whenFree goesOn_run) goesOn_run)

-- matrix tiles

theorem goesOn_onTile {k : BitVec 2} {m : State → Answer} {s : State} (h : GoesOn (m s)) : GoesOn (onTile k m s) :=
  goesOn_ite goesOn_next h

theorem goesOn_mxop {minus : Bool} {k : BitVec 2} {a b : Reg} {g : Num3} {s : State} : GoesOn (mxop minus k a b g s) := by
  refine goesOn_onTile ?_
  dsimp only
  split
  · exact goesOn_next
  · exact goesOn_next

theorem goesOn_mxmove {d : Reg} {k : BitVec 2} {cells : List (Nat × Nat)} {s : State} : GoesOn (mxmove d k cells s) := by
  unfold mxmove
  dsimp only
  split
  · exact goesOn_next
  · exact goesOn_next

theorem goesOn_mxld {cm : Bool} {k : BitVec 2} {a b : Reg} {s : State} : GoesOn (mxld cm k a b s) :=
  goesOn_onTile (goesOn_ite goesOn_next goesOn_run)

theorem goesOn_mxst {cm : Bool} {k : BitVec 2} {a b : Reg} {s : State} : GoesOn (mxst cm k a b s) :=
  goesOn_onTile (goesOn_ite goesOn_next goesOn_run)

-- words that a waiting hart may stand at

theorem allGoOn_farmWord : AllGoOn farmWord := allGoOn_ite fun _ _ => goesOn_farm

theorem allGoOn_farmredWord : AllGoOn farmredWord := allGoOn_ite fun _ _ => goesOn_farmred

theorem allGoOn_scalarAtomic : AllGoOn scalarAtomic := by
  intro w f hf s
  unfold scalarAtomic at hf
  dsimp only at hf
  repeat' split at hf
  all_goals cases hf
  all_goals exact goesOn_run

theorem allGoOn_vectorAtomic : AllGoOn vectorAtomic := by
  intro w f hf s
  unfold vectorAtomic at hf
  simp only [Option.ite_none_left_eq_some] at hf
  obtain ⟨-, hf⟩ := hf
  split at hf
  case h_8 =>
    obtain rfl := Option.some.inj hf
    exact goesOn_vatfadd
  all_goals
    obtain rfl := Option.some.inj hf
    exact goesOn_vamo

/-- The atomic that the acting hart executes next goes on, as a scalar or as a vector atomic. -/
theorem goesOn_atomicNext {s : State} {f : State → Answer} {vas : List Nat} (h : s.atomicNext = some (f, vas)) {t : State} :
    GoesOn (f t) := by
  unfold State.atomicNext at h
  obtain ⟨w, -, hw⟩ := Option.bind_eq_some_iff.mp h
  rcases Option.or_eq_some_iff.mp hw with hs | ⟨-, hv⟩
  · obtain ⟨g, hg, he⟩ := Option.map_eq_some_iff.mp hs
    cases he
    exact allGoOn_scalarAtomic w f hg t
  · obtain ⟨g, hg, he⟩ := Option.map_eq_some_iff.mp hv
    cases he
    exact allGoOn_vectorAtomic w f hg t

-- events that run an instruction of a hart

theorem goesOn_handleWaitReturn {hid : Nat} {s : State} : GoesOn (execHandleWaitReturn hid s) := by
  refine goesOn_wake fun w f hf t => ?_
  repeat' split at hf
  all_goals cases hf
  all_goals exact goesOn_run

theorem goesOn_gatedElementRead {hid : Nat} {s : State} : GoesOn (execGatedElementRead hid s) := by
  refine goesOn_wake fun w f hf t => ?_
  dsimp only at hf
  repeat' split at hf
  all_goals cases hf
  · exact goesOn_vldWm
  · exact goesOn_vldxWm

theorem goesOn_grantApply {hid : Nat} {s : State} : GoesOn (execGrantApply hid s) :=
  goesOn_asHart fun t => by split <;> exact goesOn_next

theorem goesOn_mtypeChange {hid : Nat} {v : Word} {s : State} : GoesOn (execMtypeChange hid v s) :=
  goesOn_asHart fun t => by split <;> exact goesOn_next

theorem goesOn_remoteAtomicError {hid : Nat} {applied : Bool} {elem : Nat} {s : State} :
    GoesOn (execRemoteAtomicError hid applied elem s) := by
  refine goesOn_asHart fun t => ?_
  split
  · exact goesOn_next
  · dsimp only
    split
    · exact goesOn_next
    · exact goesOn_next
    · exact goesOn_next
    · exact goesOn_next

theorem goesOn_homeAtomic {a : HomeAccess} {s : State} : GoesOn (execHomeAtomic a s) := by
  refine goesOn_ite goesOn_next ?_
  dsimp only
  split
  · exact goesOn_next
  · refine goesOn_ite goesOn_next (goesOn_asHart fun t => ?_)
    split
    · rename_i f vas hf
      exact goesOn_ite (goesOn_atomicNext hf) goesOn_next
    · exact goesOn_next

theorem goesOn_heldEventTake {hid : Nat} {s : State} : GoesOn (execHeldEventTake hid s) := by
  unfold execHeldEventTake
  split
  · exact goesOn_next
  · exact goesOn_ite goesOn_next (goesOn_asHart fun _ => goesOn_next)

theorem goesOn_membershipChangeTrap {hid : Nat} {s : State} : GoesOn (execMembershipChangeTrap hid s) := by
  unfold execMembershipChangeTrap
  split
  · exact goesOn_next
  · exact goesOn_ite goesOn_next (goesOn_asHart fun _ => goesOn_next)

theorem goesOn_farmBarrierRelease {lid farm : Nat} {s : State} : GoesOn (execFarmBarrierRelease lid farm s) := by
  unfold execFarmBarrierRelease
  split
  · exact goesOn_next
  · exact goesOn_wakeAll allGoOn_farmWord

-- stops and restores

theorem goesOn_hartStop {hid : Nat} {s : State} : GoesOn (execHartStop hid s) := by
  unfold execHartStop
  split
  · exact goesOn_next
  · refine goesOn_ite goesOn_next (goesOn_ite goesOn_stopHart ?_)
    split
    · exact goesOn_next
    · exact goesOn_stopHart

theorem goesOn_hartRestore {lid j : Nat} {s : State} : GoesOn (execHartRestore lid j s) := by
  unfold execHartRestore
  split
  · exact goesOn_next
  · split
    · exact goesOn_next
    · refine goesOn_ite goesOn_next ?_
      split
      · exact goesOn_next
      · split
        · exact goesOn_next
        · exact goesOn_restore
      · exact goesOn_next

theorem goesOn_powerReading {mw decic : Nat} {s : State} : GoesOn (execPowerReading mw decic s) := by
  -- `throttleNext` becomes a variable here: the kernel would compute its sums in unary
  unfold execPowerReading
  obtain ⟨next, hnext⟩ : ∃ f, f = throttleNext := ⟨_, rfl⟩
  rw [← hnext]
  exact goesOn_ite goesOn_next goesOn_next

-- every arm

/-- Every instruction and event answers a next state, arm by arm of `exec`. -/
theorem exec_goesOn (i : Instr) (s : State) : GoesOn (exec i s) := by
  cases i with
  | vtypeWrite | vlWrite | slipWrite | seedWrite | dseedWrite | rminWrite | mtypeWrite | mvlWrite | spbaseWrite
  | slotPick | scalarStoreAck | refit | standbyEntry | standbyExitDone | rds | rdx | upg | evc | wbd | snps | snpx | inv
  | binv | fwd | data | rsp | cmp | priResponse | priTimeout | heartbeatSend | holdUnion | powerRemoved
  | illegalInstruction | add | sub | and | or | xor | andn | sll | srl | sra | ror | slt | sltn | min | max | mul | mulh
  | mulhn | div | divn | rem | remn | clz | popc | slli | srli | srai | rori | addi | andi | ori | xori | slti | sltni
  | lhi | pchi | fmin | fmax | feq | flt | fle | fcvt | fma | fms | fnma | fnms | beq | bne | blt | bge | bltn | bgen
  | jal | yield | brk | syscall | tret | vsetvl | cview | cviewFid => exact goesOn_next
  | hartStop => exact goesOn_hartStop
  | hartRestore => exact goesOn_hartRestore
  | heldEventTake => exact goesOn_heldEventTake
  | grantApply => exact goesOn_grantApply
  | mtypeChange => exact goesOn_mtypeChange
  | waitwWake | weirwtWake | vwmwaitWake | cwaitReturn => exact goesOn_wake (allGoOn_ite fun _ _ => goesOn_run)
  | farmBarrierRelease => exact goesOn_farmBarrierRelease
  | farmredResult => exact goesOn_wake allGoOn_farmredWord
  | gatedElementRead => exact goesOn_gatedElementRead
  | handleWaitReturn => exact goesOn_handleWaitReturn
  | powerReading => exact goesOn_powerReading
  | kbrAny | kbrNone | kbrAll | kbrNall =>
    dsimp only [exec, execKbrAny, execKbrNone, execKbrAll, execKbrNall]
    exact goesOn_kbr
  | tlbinvPage | tlbinvAsid | tlbinvAll | asw | vld | vldAcqDie | vldAcqPkg | vldAcqSys | vst | vstU | vstRelDie
  | vstRelPkg | vstRelSys | vstNt | vstx | vstxU | vstxRelDie | vstxRelPkg | vstxRelSys | vyld | vyst | yrel | mskey
  | msfind | vstxAdd | vatadd | vatswap | vatand | vator | vatxor | vatmin | vatmax =>
    exact goesOn_ite goesOn_next goesOn_run
  | homeAtomic => exact goesOn_homeAtomic
  | remoteAtomicError => exact goesOn_remoteAtomicError
  | attest | jclear | jread | logread =>
    dsimp only [exec, execAttest, execJclear, execJread, execLogread]
    exact goesOn_command
  | keysetInstall | keysetClear | spaceBind | spaceUnbind | unknownCode => exact goesOn_ite goesOn_next goesOn_command
  | membershipChangeTrap => exact goesOn_membershipChangeTrap
  | ldI8 | ldI16 | ldI32 | ldI64 | ldN8 | ldN16 | ldN32 | stI8 | stI16 | stI32 | stI64 | atswap | atadd | atand | ator
  | atxor | atmin | atmax | atminN | atmaxN | atfadd | ldo | sto | cas | fence | waitw | ybind | ystat | ybyte | cpy
  | cpyrg | cpyrp | cpyrk | weirarm | weirwt | vwmbind | vwmaddr | vwmpub | vwmwait | msopen | msclose | msrefine
  | msbal | msghost | mscolor | msremap | mswait | gbind | gtable | gsweep | greadState | greadMarg | greadMargClr
  | gwait | grel | cviewMap | coll | cwait => exact goesOn_run
  | ctxsv | ctxld | cpygs => exact goesOn_ite goesOn_next (goesOn_whenFree goesOn_run)
  | farm => exact goesOn_farm
  | farmredF64 | farmredMin | farmredMax | farmredI64 => exact goesOn_farmred
  | vadd | vsub | vrsub | vand | vor | vxor | vsll | vsrl | vsra | vmin | vmax | vminn | vmaxn | vmul | vmulh | vmulhn
  | vdiv | vdivn | vrem | vremn | vsadd | vsaddn | vssub | vssubn | vmuln | vaddVx | vsubVx | vrsubVx | vandVx | vorVx
  | vxorVx | vsllVx | vsrlVx | vsraVx | vminVx | vmaxVx | vminnVx | vmaxnVx | vmulVx | vmulhVx | vmulhnVx | vdivVx
  | vdivnVx | vremVx | vremnVx | vsaddVx | vsaddnVx | vssubVx | vssubnVx | vmulnVx | vmv | vmvVx | vfma | vfms | vfnma
  | vfnms | vcvt | vcvtNs | vscvt | vfadd | vfsub | vfmul | vfdiv | vfmin | vfmax | vfsigncp | vfsignneg | vfsignxor
  | vfaddVx | vfsubVx | vfmulVx | vfdivVx | vfminVx | vfmaxVx | vfsigncpVx | vfsignnegVx | vfsignxorVx | vfsqrt | vfcvti
  | vfcvtin | vfcvtf | vfcvtfn | vredsum | vredand | vredor | vredxor | vredmin | vredmax | vredminn | vredmaxn
  | vfredsum | vfredmin | vfredmax | vqsum | mxzero => exact goesOn_ite goesOn_next goesOn_next
  | vcmpeq | vcmpne | vcmplt | vcmple | vcmpgt | vcmpge | vcmpltn | vcmplen | vcmpgtn | vcmpgen | vfcmpeq | vfcmpne
  | vfcmplt | vfcmple | vfcmpgt | vfcmpge | vfcmpun | vcmpeqVx | vcmpneVx | vcmpltVx | vcmpleVx | vcmpgtVx | vcmpgeVx
  | vcmpltnVx | vcmplenVx | vcmpgtnVx | vcmpgenVx | vfcmpeqVx | vfcmpneVx | vfcmpltVx | vfcmpleVx | vfcmpgtVx
  | vfcmpgeVx | vfcmpunVx | vslideup | vslidedn | vinslo | vinshi | vshuf | vbcast | vcompress | vexpand | viota | vrev
  | vqntS1 | vdqntS1 => exact goesOn_ite goesOn_next (goesOn_whenFree goesOn_next)
  | kand | kor | kxor | kandn | knot | kmov | kpop | kfirst | kmovSmiss | vdrop => exact goesOn_whenFree goesOn_next
  | vldWm => exact goesOn_vldWm
  | vldx | vldxAcqDie | vldxAcqPkg | vldxAcqSys | vldxDup | vldxDupAcqDie | vldxDupAcqPkg | vldxDupAcqSys =>
    exact goesOn_vldx
  | vldxWm => exact goesOn_vldxWm
  | vstxFadd => exact goesOn_vstxFadd
  | vatfadd => exact goesOn_vatfadd
  | mxopa | mxops => exact goesOn_mxop
  | mxrow | mxcol => exact goesOn_onTile goesOn_mxmove
  | mxldRm | mxldCm => exact goesOn_mxld
  | mxstRm | mxstCm => exact goesOn_mxst
  | statusAccess | controlRegisterWrite | instructionFetch | vectorQueueDispatch | granuleCommit | hartSaveDone
  | stretchPreemption | issueBudgetExhausted | budgetGraceExpiry | hartEnd =>
    dsimp only [exec, execStatusAccess, execControlRegisterWrite, execInstructionFetch, execVectorQueueDispatch,
      execGranuleCommit, execHartSaveDone, execStretchPreemption, execIssueBudgetExhausted, execBudgetGraceExpiry,
      execHartEnd]
    repeat' split
    all_goals exact goesOn_next
  | publicationApply | copyComplete | weirArrival | cpygsRowLanded | engineOperationComplete | engineOperationStop =>
    dsimp only [exec, execPublicationApply, execCopyComplete, execWeirArrival, execCpygsRowLanded,
      execEngineOperationComplete, execEngineOperationStop]
    repeat' split
    all_goals exact goesOn_next
  | imageVerificationDone | handlePostedSlot | prereqWordMet | prereqUnreadable | launchStart | promiseExpiry
  | completionRecordWrite | hostNotice =>
    dsimp only [exec, execImageVerificationDone, execHandlePostedSlot, execPrereqWordMet, execPrereqUnreadable,
      execLaunchStart, execPromiseExpiry, execCompletionRecordWrite, execHostNotice]
    repeat' split
    all_goals exact goesOn_next
  | boot | linkService | patrolScrub | hostPortRequest | atsInvalidation | heartbeatReceive | heartbeatTimeout
  | neighbourUnreachable | suspicionReport =>
    dsimp only [exec, execBoot, execLinkService, execPatrolScrub, execHostPortRequest, execAtsInvalidation,
      execHeartbeatReceive, execHeartbeatTimeout, execNeighbourUnreachable, execSuspicionReport]
    repeat' split
    all_goals exact goesOn_next
  | viewProposal | proposalAck | proposalAckTimeout | viewCommit | commitTimeout | quiescenceHold | holdAck
  | joinRequest | joinRequestRetry | joinTimeout =>
    dsimp only [exec, execViewProposal, execProposalAck, execProposalAckTimeout, execViewCommit, execCommitTimeout,
      execQuiescenceHold, execHoldAck, execJoinRequest, execJoinRequestRetry, execJoinTimeout]
    repeat' split
    all_goals exact goesOn_next
  | fabricFlitArrival | remoteCopyAccess | remoteCopyRefused | collectiveMatch | collectiveComplete | targetCompletion =>
    dsimp only [exec, execFabricFlitArrival, execRemoteCopyAccess, execRemoteCopyRefused, execCollectiveMatch,
      execCollectiveComplete, execTargetCompletion]
    repeat' split
    all_goals exact goesOn_next
  | fadd | fsub | fmul | fdiv | fsqrt | fcvti | fcvtf | jalr =>
    dsimp only [exec, execFadd, execFsub, execFmul, execFdiv, execFsqrt, execFcvti, execFcvtf, execJalr]
    repeat' split
    all_goals exact goesOn_next
  | vwhile | exit | crr | crw | crs | crc | launch | lstat | lcancel | strip =>
    dsimp only [exec, execVwhile, execExit, execCrr, execCrw, execCrs, execCrc, execLaunch, execLstat, execLcancel,
      execStrip]
    repeat' split
    all_goals exact goesOn_next
  | vsetvlB | vsettype | mxmode =>
    dsimp only [exec, execVsetvlB, execVsettype, execMxmode]
    repeat' split
    all_goals exact goesOn_next
  | vid | vqntB4 | vdqntB4 | vrng | caston | cleave =>
    dsimp only [exec, execVid, execVqntB4, execVdqntB4, execVrng, execCaston, execCleave]
    repeat' split
    all_goals exact goesOn_next

-- steps

theorem goesOn_runHart (s : State) : GoesOn (runHart s) := by
  unfold runHart
  split
  · exact goesOn_next
  · split
    · exact exec_goesOn _ _
    · exact exec_goesOn _ _

theorem goesOn_handle (e : Instr) (s : State) : GoesOn (handle e s) := goesOn_ite goesOn_next (exec_goesOn e s)

theorem goesOn_issue (hid : Nat) (s : State) : GoesOn (issue hid s) := by
  unfold issue
  dsimp only
  split
  · exact goesOn_next
  · refine goesOn_ite ?_ goesOn_next
    obtain ⟨t, ht⟩ := goesOn_runHart (giveTurn hid (s.parked.length + 1) s)
    simp only [ht]
    exact goesOn_next

/-- A step stops in one case: the module is Off and no event is pending (R21). -/
theorem safe_of_powered_or_pending {s : State} (h : Powered s ∨ s.inbox ≠ []) : Safe s := by
  unfold Safe step
  split
  · exact goesOn_handle _ _
  · rename_i hin
    rw [if_neg (h.resolve_right fun hne => hne hin)]
    split
    · rename_i hid rest _
      obtain ⟨t, ht⟩ := goesOn_issue hid (tick { s with picked := rest })
      simp only [ht]
      exact goesOn_next
    · exact goesOn_next

/-- Settles O57: every arm of `exec` goes on, and with them every step of a powered module. -/
theorem poweredModulesNeverStop : Obligations.PoweredModulesNeverStop :=
  ⟨exec_goesOn, fun _ => safe_of_powered_or_pending⟩

end Sys2Proof.Machine
end

section
namespace Sys2Proof.Machine

open Claims

/-! Vector loads, first part: an access moves the copies of clean lines and poisons none of them (R257 to R263, R269). -/

/-- No line is poisoned, in HBM or in a copy; `NoLinePoisoned` says it of a state. -/
def Coherence.Clean (c : Coherence) : Prop := c.poison = [] ∧ c.taint = []

theorem Coherence.Clean.bad {c : Coherence} (h : c.Clean) (line : Nat) : c.bad line = false := by
  obtain ⟨hp, ht⟩ := h
  unfold Coherence.bad
  split
  · simp [ht]
  · simp [hp]

/-- A fold of steps, each of which keeps lines clean, keeps them clean. -/
theorem Coherence.clean_foldl {α : Type} {f : Coherence → α → Coherence} (hf : ∀ c a, c.Clean → (f c a).Clean) (l : List α)
    {c : Coherence} (h : c.Clean) : (l.foldl f c).Clean := by
  induction l generalizing c with
  | nil => exact h
  | cons a l ih => exact ih (hf c a h)

-- agents and messages

theorem Coherence.Clean.setCopy {c : Coherence} (h : c.Clean) (p : Copy) : (c.setCopy p).Clean := h

theorem Coherence.Clean.setSt {c : Coherence} (h : c.Clean) (agent line : Nat) (st : Moesi) : (c.setSt agent line st).Clean := h

theorem Coherence.Clean.put {c : Coherence} (h : c.Clean) (m : CohMsg) : (c.put m).Clean := h

theorem Coherence.Clean.updEntry {c : Coherence} (h : c.Clean) (line : Nat) (f : DirEntry → DirEntry) :
    (c.updEntry line f).Clean := h

theorem Coherence.Clean.sweep {c : Coherence} (h : c.Clean) (line : Nat) : (c.sweep line).Clean := h

theorem Coherence.Clean.gone {c : Coherence} (h : c.Clean) (agent line : Nat) : (c.gone agent line).Clean := h

theorem Coherence.Clean.reached {c : Coherence} (h : c.Clean) (line : Nat) : (c.reached line).Clean := h

-- the home

theorem Coherence.Clean.readHbm {c : Coherence} (h : c.Clean) (line : Nat) : (c.readHbm line).Clean := by
  obtain ⟨hp, ht⟩ := h
  unfold Coherence.readHbm Coherence.Clean
  simp [hp, ht]

theorem Coherence.Clean.written {c : Coherence} (h : c.Clean) (line : Nat) : (c.written line).Clean := by
  obtain ⟨hp, ht⟩ := h
  unfold Coherence.written Coherence.Clean Coherence.reached
  simp [hp, ht]

theorem Coherence.Clean.serve {c : Coherence} (h : c.Clean) (kind : CohKind) (agent line : Nat) :
    (c.serve kind agent line).Clean := by
  unfold Coherence.serve
  dsimp only
  split
  · exact h
  · split
    · split
      · exact h
      · exact h.readHbm line
    · split
      · split
        · exact h
        · exact h.readHbm line
      · have hs : ∀ (l : List Nat) (g : Nat → CohMsg), (List.foldl (fun (c : Coherence) o => c.put (g o)) c l).Clean :=
          fun l g => clean_foldl (fun _ o hc => hc.put (g o)) l h
        split
        · exact (hs _ _).readHbm line
        · exact hs _ _

theorem Coherence.Clean.arrive {c : Coherence} (h : c.Clean) (m : CohMsg) : (c.arrive m).Clean := by
  unfold Coherence.arrive
  dsimp only
  split
  · split
    · exact h
    · exact h.serve _ _ _
  · exact h
  · split
    · refine Coherence.Clean.serve ?_ _ _ _
      exact h
    · exact clean_foldl (f := fun (c : Coherence) o => c.put ⟨.binv, o, _, _, none⟩) (fun _ _ hc => hc.put _) _ h
    · exact h

theorem Coherence.Clean.drain {c : Coherence} (h : c.Clean) (line : Nat) : (c.drain line).Clean := by
  unfold Coherence.drain
  split
  · exact h
  · exact (clean_foldl (fun _ m hc => hc.arrive m) _ (h.updEntry line _)).sweep line

theorem Coherence.Clean.settle {c : Coherence} (h : c.Clean) (line : Nat) (st : Moesi) : (c.settle line st).Clean := by
  unfold Coherence.settle
  split
  · exact h
  · split
    · exact h
    · split
      · exact h
      · split
        · refine clean_foldl (fun _ m hc => hc.arrive m) _ ?_
          exact h
        · refine (Coherence.Clean.put (Coherence.Clean.updEntry ?_ line _) _).drain line
          split
          · exact h.readHbm line
          · exact h

theorem Coherence.Clean.answered {c : Coherence} (h : c.Clean) (agent line : Nat) (st : Moesi) :
    (c.answered agent line st).Clean := (h.updEntry line _).settle line st

-- the agents

theorem Coherence.Clean.evict {c : Coherence} (h : c.Clean) (agent line : Nat) : (c.evict agent line).Clean := by
  unfold Coherence.evict
  dsimp only
  split
  · exact ((h.setSt agent line .i).written line).gone agent line
  · exact h

theorem Coherence.Clean.fit {c : Coherence} (h : c.Clean) (agent line : Nat) : (c.fit agent line).Clean := by
  unfold Coherence.fit
  dsimp only
  split
  · exact h
  · split
    · exact h.evict agent _
    · exact h

theorem Coherence.Clean.complete {c : Coherence} (h : c.Clean) (agent line : Nat) : (c.complete agent line).Clean := by
  unfold Coherence.complete
  dsimp only
  split
  · split
    · exact (h.setCopy _).fit agent line
    · exact h
  · exact h

theorem Coherence.Clean.ask {c : Coherence} (h : c.Clean) (kind : CohKind) (agent line : Nat) : (c.ask kind agent line).Clean :=
  (h.setCopy _).arrive _

theorem Coherence.Clean.deliver {c : Coherence} (h : c.Clean) (m : CohMsg) : (c.deliver m).Clean := by
  unfold Coherence.deliver
  dsimp only
  split
  · exact h.arrive m
  · exact h.arrive m
  · exact h.arrive m
  · exact h.gone m.agent m.line
  · exact (h.written m.line).answered m.agent m.line .i
  · split
    · exact h
    · exact h
  · split
    · exact h
    · exact h
  · exact h
  · exact h
  · exact (h.setCopy _).complete m.agent m.line
  · exact (h.setCopy _).complete m.agent m.line
  · exact h.answered m.agent m.line _
  · exact (h.setCopy _).complete m.agent m.line

theorem Coherence.Clean.flush {c : Coherence} (h : c.Clean) (f : Nat → Bool) (n : Nat) : (c.flush f n).Clean := by
  induction n generalizing c with
  | zero => exact h
  | succ n ih =>
    unfold Coherence.flush
    split
    · refine ih (Coherence.Clean.deliver ?_ _)
      exact h
    · exact h

theorem Coherence.Clean.quiet {c : Coherence} (h : c.Clean) (line : Nat) : (c.quiet line).Clean := h.flush _ _

theorem Coherence.Clean.request {c : Coherence} (h : c.Clean) (kind : CohKind) (agent line : Nat) :
    (c.request kind agent line).Clean := by
  unfold Coherence.request
  dsimp only
  split
  · exact ((h.ask kind agent line).quiet line).flush _ _
  · exact (h.ask kind agent line).quiet line

theorem Coherence.Clean.ready {c : Coherence} (h : c.Clean) (agent line : Nat) : (c.ready agent line).Clean := by
  unfold Coherence.ready
  dsimp only
  split
  · exact (h.quiet line).flush _ _
  · exact h.quiet line

theorem Coherence.Clean.hold {c : Coherence} (h : c.Clean) (agent line : Nat) (write : Bool) : (c.hold agent line write).Clean := by
  have hr := h.ready agent line
  unfold Coherence.hold
  dsimp only
  split
  · exact hr
  · exact hr
  · exact hr.request .upg agent line
  · exact hr.request .upg agent line
  · exact hr.request .rdx agent line
  · exact hr.request .rds agent line
  · exact hr

theorem Coherence.Clean.atomic {c : Coherence} (h : c.Clean) (line : Nat) (write : Bool) : (c.atomic line write).Clean := by
  unfold Coherence.atomic
  dsimp only
  split
  · exact h.hold _ line true
  · exact h.hold _ line true

theorem Coherence.Clean.atHome {c : Coherence} (h : c.Clean) (line : Nat) (excl write : Bool) :
    (c.atHome line excl write).Clean := by
  have hf := clean_foldl (f := fun (c : Coherence) a => if a = homeOf line ∨ (c.copy a line).st = .i then c else c.evict a line)
    (fun c a hc => by split; exacts [hc, hc.evict a line]) (List.range 5) (h.quiet line)
  unfold Coherence.atHome
  dsimp only
  split
  · exact hf.hold _ line excl
  · exact hf.hold _ line excl

/-- A lane die's access to a line keeps lines clean. -/
theorem Coherence.Clean.accessLane {c : Coherence} (h : c.Clean) (die : Nat) (sync write : Bool) (line : Nat) :
    (c.access (.lane die) sync write line).Clean := by
  unfold Coherence.access
  dsimp only
  split
  · split
    · exact h.atHome line _ write
    · exact h.atHome line _ write
  · refine Coherence.Clean.hold ?_ die line write
    exact h

/-- So does its access to the lines of a range. -/
theorem Coherence.Clean.accessAllLane {c : Coherence} (h : c.Clean) (die : Nat) (sync write : Bool) (a n : Nat) :
    (c.accessAll (.lane die) sync write a n).Clean :=
  clean_foldl (fun _ line hc => hc.accessLane die sync write line) _ h

end Sys2Proof.Machine
end

section
namespace Sys2Proof.Machine

open Claims

/-! Vector loads, second part: the states that a load goes through, and what they translate and read (R273, R277, R402). -/

/-- The acting hart with other values of what a load writes of it. -/
def Hart.midLoad (h : Hart) (v : Vector Nat 32) (k : Vector Nat 8) (smiss vstart : Nat) (begun : Begun) : Hart :=
  { h with v := v, k := k, smiss := smiss, vstart := vstart, begun := begun }

/-- The state with other caches, launches and hart, and some free values taken. -/
def State.midLoad (s : State) (c : Coherence) (ls : List Launch) (n : Nat) (h : Hart) : State :=
  { s with coh := c, lu := { s.lu with launches := ls }, draw := n, hart := h }

/-- The states that a load of `s` goes through: registers that it writes, VSTART, what is done of it, the caches, and traffic
counted may differ; lines are clean, and no translation has been kept. -/
structure During (s t : State) : Prop where
  only : ∃ c ls n v k m i b, t = s.midLoad c ls n (s.hart.midLoad v k m i b)
  launches : SameLaunches s t
  clean : t.coh.Clean
  held : t.hart.begun.held = none

theorem During.refl {s : State} (hc : NoLinePoisoned s) (hb : s.hart.begun = Begun.fresh) : During s s where
  only := ⟨s.coh, s.lu.launches, s.draw, s.hart.v, s.hart.k, s.hart.smiss, s.hart.vstart, s.hart.begun, rfl⟩
  launches := rfl
  clean := hc
  held := by rw [hb]; rfl

/-- The lines of a load's state may move, as long as they are clean. -/
theorem During.withCoh {s t : State} (h : During s t) {c : Coherence} (hc : c.Clean) : During s { t with coh := c } := by
  obtain ⟨⟨_, ls, n, v, k, m, i, b, rfl⟩, hl, -, hh⟩ := h
  exact ⟨⟨c, ls, n, v, k, m, i, b, rfl⟩, hl, hc, hh⟩

/-- Registers that it writes, VSTART and what is done of it may change, but for the translations kept. -/
theorem During.withHart {s t : State} (h : During s t) {f : Hart → Hart}
    (hf : ∃ v k m i b, f t.hart = t.hart.midLoad v k m i b ∧ b.held = t.hart.begun.held) : During s (t.withHart f) := by
  obtain ⟨v, k, m, i, b, hf, hb⟩ := hf
  obtain ⟨⟨c, ls, n, _, _, _, _, _, rfl⟩, hl, hc, hh⟩ := h
  refine ⟨⟨c, ls, n, v, k, m, i, b, ?_⟩, hl, hc, ?_⟩
  · unfold State.withHart
    rw [hf]
    rfl
  · rw [State.withHart_hart, hf]
    exact hb.trans hh

-- launches

/-- A launch is found by its id whatever bytes are counted. -/
theorem sameLaunches_launch? {s t : State} (h : SameLaunches s t) (lid : Nat) :
    (t.launch? lid).map (fun l => { l with mbytes := 0 }) = (s.launch? lid).map fun l => { l with mbytes := 0 } := by
  have hfind (ls : List Launch) : (ls.find? fun l => l.lid = lid).map (fun l => ({ l with mbytes := 0 } : Launch)) =
      (ls.map fun l => ({ l with mbytes := 0 } : Launch)).find? fun l => l.lid = lid := by
    rw [List.find?_map]
    rfl
  unfold State.launch?
  rw [hfind, hfind, h]

theorem During.myLaunch {s t : State} (h : During s t) :
    t.myLaunch.map (fun l => { l with mbytes := 0 }) = s.myLaunch.map fun l => { l with mbytes := 0 } := by
  have hl : t.hart.lid = s.hart.lid := by
    obtain ⟨⟨_, _, _, _, _, _, _, _, rfl⟩, -⟩ := h
    rfl
  unfold State.myLaunch
  rw [hl]
  exact sameLaunches_launch? h.launches _

theorem During.scratchKib {s t : State} (h : During s t) : t.scratchKib = s.scratchKib := by
  have hm := congrArg (Option.map (·.scratch)) h.myLaunch
  simp only [Option.map_map, Function.comp_def] at hm
  unfold State.scratchKib
  rw [hm]

-- translation

/-- A walk reads memory and stacks in service; clean lines do not stop it. -/
theorem State.walkFrom_congr {s t : State} (hm : t.mem = s.mem) (hv : t.svc = s.svc) (hs : s.coh.Clean) (ht : t.coh.Clean)
    (va : Nat) (acc : Access) (l a : Nat) : t.walkFrom va acc l a = s.walkFrom va acc l a := by
  have hstack (x : Nat) : t.noStack x = s.noStack x := by unfold State.noStack; rw [hv]
  have hnat (x n : Nat) : t.memNat x n = s.memNat x n := by unfold State.memNat; rw [hm]
  have hline (x : Nat) : t.linePoisoned x = s.linePoisoned x := (ht.bad x).trans (hs.bad x).symm
  induction l generalizing a with
  | zero => unfold State.walkFrom; simp only [hstack, hnat, hline]
  | succ l ih => unfold State.walkFrom; simp only [hstack, hnat, hline, ih]

/-- What the caches hold after a translation depends on what they held alone. -/
theorem State.hold_tlb_congr {s t : State} (h : t.tlb = s.tlb) (caches : List Nat) (asid va : Nat) (f : Leaf) (acc : Access) :
    (t.hold caches asid va f acc).tlb = (s.hold caches asid va f acc).tlb := by
  unfold State.hold
  induction caches generalizing s t with
  | nil => exact h
  | cons c cs ih =>
    refine ih ?_
    unfold State.holdIn
    simp only [h]
    split
    · exact h
    · rfl

theorem State.hold_coh (s : State) (caches : List Nat) (asid va : Nat) (f : Leaf) (acc : Access) :
    (s.hold caches asid va f acc).coh = s.coh := by
  unfold State.hold
  induction caches generalizing s with
  | nil => rfl
  | cons c cs ih =>
    rw [List.foldl_cons, ih]
    unfold State.holdIn
    dsimp only
    split <;> rfl

theorem State.markUsed_clean {s : State} (h : s.coh.Clean) (f : Leaf) (acc : Access) : (s.markUsed f acc).coh.Clean := by
  unfold State.markUsed
  split
  · exact h
  · exact h.atomic _ true

/-- Where the use of a leaf changes nothing, it changes nothing but the place of lines in a state with the same memory and
translation caches. -/
theorem State.used_congr {s t : State} {caches : List Nat} {asid va : Nat} {f : Leaf} {acc : Access} (hm : t.mem = s.mem)
    (hb : t.tlb = s.tlb) (ht : t.coh.Clean) (hs : (s.markUsed f acc).hold caches asid va f acc = s) :
    ∃ c : Coherence, c.Clean ∧ (t.markUsed f acc).hold caches asid va f acc = { t with coh := c } := by
  have hmem : (t.markUsed f acc).mem = (s.markUsed f acc).mem := by
    unfold State.markUsed State.memNat
    split
    · exact hm
    · simp only [hm]
  have htlb (u : State) : (u.markUsed f acc).tlb = u.tlb := by unfold State.markUsed; split <;> rfl
  have hsm := congrArg State.mem hs
  rw [State.hold_mem] at hsm
  have hst := congrArg State.tlb hs
  refine ⟨_, State.markUsed_clean ht f acc, ?_⟩
  have ho := (State.markUsed_onlyMem t f acc).trans (State.hold_onlyMem _ caches asid va f acc)
  unfold OnlyMem at ho
  rw [State.hold_mem, hmem, hsm, ← hm, State.hold_tlb_congr (s := s.markUsed f acc) (by rw [htlb, htlb, hb]), hst, ← hb,
    State.hold_coh] at ho
  exact ho

/-- So does a translation outside the windows. -/
theorem State.xlateIn_congr {s t : State} {caches : List Nat} {asid root va : Nat} {task : Bool} {acc : Access} {loc : Loc}
    (hm : t.mem = s.mem) (hb : t.tlb = s.tlb) (hv : t.svc = s.svc) (hi : t.lu.images = s.lu.images) (ht : t.coh.Clean)
    (hl : t.leafFor caches asid root va acc = s.leafFor caches asid root va acc)
    (hs : s.xlateIn caches asid root task va acc = .ok (loc, s)) :
    ∃ c : Coherence, c.Clean ∧ t.xlateIn caches asid root task va acc = .ok (loc, { t with coh := c }) := by
  have hstack (x : Nat) : t.noStack x = s.noStack x := by unfold State.noStack; rw [hv]
  unfold State.xlateIn at hs ⊢
  rw [hl, hi]
  split at hs
  · cases hs
  · rename_i hva
    rw [if_neg hva]
    cases hf : s.leafFor caches asid root va acc with
    | error e => simp [hf] at hs
    | ok f =>
      simp only [hf] at hs ⊢
      cases hk : checkLeaf task f.entry f.level va acc with
      | error e => simp [hk] at hs
      | ok p =>
        simp only [hk] at hs ⊢
        have finish (hu : (s.markUsed f acc).hold caches asid va f acc = s) (hp : p = loc) :
            ∃ c : Coherence, c.Clean ∧ Except.ok (p, (t.markUsed f acc).hold caches asid va f acc) =
              (Except.ok (loc, { t with coh := c }) : Except Nat (Loc × State)) := by
          obtain ⟨c, hc, he⟩ := State.used_congr hm hb ht hu
          exact ⟨c, hc, by rw [he, hp]⟩
        cases p with
        | dev a sync =>
          simp only [hstack] at hs ⊢
          split at hs
          · cases hs
          · split at hs
            · cases hs
            · rename_i h1 h2
              rw [if_neg h1, if_neg h2]
              simp only [Except.ok.injEq, Prod.mk.injEq] at hs
              exact finish hs.2 hs.1
        | scr c l o => simp only [Except.ok.injEq, Prod.mk.injEq] at hs; exact finish hs.2 hs.1
        | cap o => simp only [Except.ok.injEq, Prod.mk.injEq] at hs; exact finish hs.2 hs.1
        | io a => simp only [Except.ok.injEq, Prod.mk.injEq] at hs; exact finish hs.2 hs.1
        | hostb q a => simp only [Except.ok.injEq, Prod.mk.injEq] at hs; exact finish hs.2 hs.1

/-- A leaf that every cache agrees on is the tables'. -/
theorem State.leafFor_congr {s t : State} (hm : t.mem = s.mem) (hb : t.tlb = s.tlb) (hv : t.svc = s.svc) (hs : s.coh.Clean)
    (ht : t.coh.Clean) {asid root va : Nat} {acc : Access} (hc : CurrentIn s asid root va acc) (caches : List Nat) :
    t.leafFor caches asid root va acc = s.leafFor caches asid root va acc := by
  have hw := State.walkFrom_congr hm hv hs ht va acc 4 (bitsAt root 12 40 * 4096)
  have hst : t.stale caches asid va (t.walkFrom va acc 4 (bitsAt root 12 40 * 4096)) = [] := by
    rw [hw, ← hc caches]
    unfold State.stale
    rw [hb]
  rw [State.leafFor_walk hst, hw, State.leafFor_walk (hc caches)]

/-- An address that `s` translates, a state of its load translates to the same place; only lines move. -/
theorem During.xlate {s t : State} (h : During s t) (hs : NoLinePoisoned s) {va : Nat} {acc : Access} {loc : Loc}
    (hm : Translated s va acc loc) :
    ∃ c : Coherence, c.Clean ∧ t.xlate va acc true = .ok (loc, { t with coh := c }) := by
  have hk := h.scratchKib
  obtain ⟨c, ls, n, v, k, m, i, b, ht⟩ := h.only
  have hwin : inWindow t.hart va = inWindow s.hart va := by rw [ht]; rfl
  have hplace : Loc.scr (t.regionKey (t.hart.hid / 16) t.hart.lid) t.hart.lid (va - t.hart.spbase.toNat) =
      .scr (s.regionKey (s.hart.hid / 16) s.hart.lid) s.hart.lid (va - s.hart.spbase.toNat) := by rw [ht]; rfl
  have hbase : t.hart.spbase = s.hart.spbase := by rw [ht]; rfl
  have hin (lanes : Bool) : t.xlateIn (t.caches lanes) t.hart.asid t.hart.ptroot.toNat (!t.hart.super) va acc =
      t.xlateIn (s.caches lanes) s.hart.asid s.hart.ptroot.toNat (!s.hart.super) va acc := by rw [ht]; rfl
  have hmem : t.mem = s.mem := by rw [ht]; rfl
  have htlb : t.tlb = s.tlb := by rw [ht]; rfl
  have hsvc : t.svc = s.svc := by rw [ht]; rfl
  have himg : t.lu.images = s.lu.images := by rw [ht]; rfl
  obtain ⟨hx, hcur, -⟩ := hm
  have hx := hx true
  unfold State.xlate at hx ⊢
  dsimp only at hx ⊢
  rw [hwin, hk, hplace, hin, hbase]
  split at hx
  · rename_i hw
    rw [if_pos hw]
    split at hx
    · rename_i h1
      rw [if_pos h1]
      obtain ⟨rfl, -⟩ := Prod.mk.inj (Except.ok.inj hx)
      exact ⟨t.coh, h.clean, rfl⟩
    · cases hx
  · rename_i hw
    rw [if_neg hw]
    split at hx
    · rename_i hp
      rw [if_pos hp]
      split at hx
      · rename_i h1
        rw [if_pos h1]
        obtain ⟨rfl, -⟩ := Prod.mk.inj (Except.ok.inj hx)
        exact ⟨t.coh, h.clean, rfl⟩
      · cases hx
    · rename_i hp
      rw [if_neg hp]
      have hc : CurrentIn s s.hart.asid s.hart.ptroot.toNat va acc := (hcur.resolve_left hw).resolve_left hp
      exact State.xlateIn_congr hmem htlb hsvc himg h.clean (State.leafFor_congr hmem htlb hsvc hs h.clean hc _) hx

theorem During.engineHolds {s t : State} (h : During s t) (loc : Loc) : t.engineHolds loc = s.engineHolds loc := by
  obtain ⟨⟨_, _, _, _, _, _, _, _, rfl⟩, -⟩ := h
  rfl

theorem During.xlateOnce {s t : State} (h : During s t) (hs : NoLinePoisoned s) {va : Nat} {acc : Access} {loc : Loc}
    (hm : Translated s va acc loc) :
    ∃ c : Coherence, c.Clean ∧ t.xlateOnce va acc true = .ok (loc, { t with coh := c }) := by
  obtain ⟨c, hc, hx⟩ := h.xlate hs hm
  have hn : t.heldPlace va acc = none := by unfold State.heldPlace; rw [h.held]; rfl
  exact ⟨c, hc, by unfold State.xlateOnce; rw [hn]; exact hx⟩

/-- A mapped address is reached. -/
theorem During.reach {s t : State} (h : During s t) (hs : NoLinePoisoned s) {va : Nat} {acc : Access} {loc : Loc}
    (hm : Mapped s va acc loc) :
    ∃ c : Coherence, c.Clean ∧ Act.reach va acc true t = .ok loc { t with coh := c } := by
  obtain ⟨htr, he⟩ := hm
  obtain ⟨c, hc, hx⟩ := h.xlateOnce hs htr
  have hh : ({ t with coh := c } : State).engineHolds loc = false := by rw [(h.withCoh hc).engineHolds, he]
  refine ⟨c, hc, ?_⟩
  simp only [Act.reach, Act.xlate, bind, EStateM.bind, get, getThe, MonadStateOf.get, EStateM.get, hx, set, EStateM.set, pure,
    EStateM.pure, Act.waitUntil, hh, Bool.not_false, if_true]

/-- All mapped addresses translate, which changes no more than the place of lines. -/
theorem During.xlateAll {s t : State} (h : During s t) (hs : NoLinePoisoned s) {acc : Access} {vas : List Nat}
    (hm : ∀ va ∈ vas, ∃ loc, Translated s va acc loc) :
    ∃ c : Coherence, c.Clean ∧ (t.xlateAll acc true vas).2 = { t with coh := c } := by
  induction vas generalizing t with
  | nil => exact ⟨t.coh, h.clean, rfl⟩
  | cons va vas ih =>
    obtain ⟨loc, hl⟩ := hm va (List.mem_cons_self ..)
    obtain ⟨c, hc, hx⟩ := h.xlate hs hl
    obtain ⟨c', hc', hr⟩ := ih (h.withCoh hc) fun v hv => hm v (List.mem_cons_of_mem _ hv)
    exact ⟨c', hc', by simp only [State.xlateAll, hx, hr]⟩

-- reads

theorem During.poisonedAt {s t : State} (h : During s t) (hs : NoLinePoisoned s) (loc : Loc) (n : Nat) :
    t.poisonedAt loc n = s.poisonedAt loc n := by
  have hline (x : Nat) : t.linePoisoned x = s.linePoisoned x := (h.clean.bad x).trans (Coherence.Clean.bad hs x).symm
  obtain ⟨⟨_, _, _, _, _, _, _, _, rfl⟩, -⟩ := h
  cases loc with
  | dev a sync => simp only [State.poisonedAt, hline]
  | _ => rfl

theorem numAt_scr (s : State) (c l off n : Nat) : numAt s (.scr c l off) n =
    natOfBytes (((s.region? c l).map fun r => cellsGet r.cells off n).getD (List.replicate n 0)) := by
  show natOfBytes ((List.range n).map fun i => ((s.region? c l).map fun r => cellAt r.cells (off + i)).getD 0) = _
  cases s.region? c l with
  | none => exact congrArg natOfBytes (by simp)
  | some r => rfl

/-- A read of readable bytes by a lane die gives their number, and moves lines at most. -/
theorem During.load {s t : State} (h : During s t) (hs : NoLinePoisoned s) {loc : Loc} {n : Nat} (hr : Readable s loc n)
    (va die : Nat) :
    ∃ c : Coherence, c.Clean ∧ Act.load va loc n (some die) t = .ok (numAt s loc n) { t with coh := c } := by
  obtain ⟨ho, hp⟩ := hr
  rw [← h.poisonedAt hs] at hp
  have hc := h.clean
  obtain ⟨⟨_, _, _, _, _, _, _, _, rfl⟩, -⟩ := h
  simp only [Act.load, bind, EStateM.bind, get, getThe, MonadStateOf.get, EStateM.get, Act.check, hp, Bool.not_false, if_true,
    pure, EStateM.pure, Act.readAt, set]
  cases loc with
  | dev a sync => exact ⟨_, hc.accessAllLane die sync false a n, rfl⟩
  | scr c l off =>
    refine ⟨_, hc, ?_⟩
    rw [numAt_scr]
    rfl
  | cap off => exact ⟨_, hc, rfl⟩
  | io a => simp [Loc.outside] at ho
  | hostb p a => simp [Loc.outside] at ho

end Sys2Proof.Machine
end

section
namespace Sys2Proof.Machine

open Claims

/-! Vector loads, third part: granules are counted, pieces perform, and elements follow one another (R38, R118, R273, R390). -/

-- sequences of effects

theorem Act.bind_ok {α β : Type} {m : Act α} {f : α → Act β} {s t : State} {a : α} (h : m s = .ok a t) :
    (m >>= f) s = f a t := by
  show EStateM.bind m f s = _
  unfold EStateM.bind
  rw [h]

theorem Act.bind_error {α β : Type} {m : Act α} {f : α → Act β} {s t : State} {e : Stop} (h : m s = .error e t) :
    (m >>= f) s = .error e t := by
  show EStateM.bind m f s = _
  unfold EStateM.bind
  rw [h]

theorem Act.get_bind {α : Type} {f : State → Act α} {s : State} : (get >>= f) s = f s s := rfl

theorem Act.upd_bind {α : Type} {f : State → State} {g : Unit → Act α} {s : State} : (Act.upd f >>= g) s = g () (f s) := rfl

-- the registers that a load writes

/-- Registers that loads write have the same values. -/
def SameLoaded (s t : State) : Prop := t.hart.v = s.hart.v ∧ t.hart.k = s.hart.k ∧ t.hart.smiss = s.hart.smiss

theorem SameLoaded.refl (s : State) : SameLoaded s s := ⟨rfl, rfl, rfl⟩

theorem SameLoaded.trans {s t u : State} (h : SameLoaded s t) (k : SameLoaded t u) : SameLoaded s u :=
  ⟨k.1.trans h.1, k.2.1.trans h.2.1, k.2.2.trans h.2.2⟩

theorem During.setVstart {s t : State} (h : During s t) (n : Nat) : During s (t.setVstart n) :=
  h.withHart ⟨_, _, _, n, _, rfl, rfl⟩

theorem During.withBegun {s t : State} (h : During s t) {f : Begun → Begun} (hf : (f t.hart.begun).held = t.hart.begun.held) :
    During s (t.withBegun f) :=
  h.withHart ⟨_, _, _, _, f t.hart.begun, rfl, hf⟩

-- granules

/-- A state of a load whose launch's memory budget lets the next granule pass. -/
theorem Act.granule_inBudget {t : State} (h : InBudget t) (n : Nat) : Act.granule n t = .ok () (t.countGranule n) ∨
    Act.granule n t = .ok () t := by
  unfold Act.granule
  rw [Act.get_bind]
  cases hl : t.myLaunch with
  | none => exact .inr rfl
  | some l =>
    refine .inl ?_
    simp only [h l hl]
    rfl

/-- Bytes counted are what launches may differ in. -/
theorem sameLaunches_count (s : State) (lid n : Nat) :
    SameLaunches s (s.updLaunch lid fun l => { l with mbytes := l.mbytes + n }) := by
  unfold SameLaunches State.updLaunch
  rw [List.map_map]
  refine List.map_congr_left fun l _ => ?_
  by_cases h : l.lid = lid
  · simp only [Function.comp_apply, if_pos h]
  · simp only [Function.comp_apply, if_neg h]

theorem During.countGranule {s t : State} (h : During s t) (n : Nat) : During s (t.countGranule n) := by
  unfold State.countGranule
  split
  · exact h
  · refine During.withBegun ?_ rfl
    unfold State.countTraffic
    split
    · exact h
    · obtain ⟨⟨c, ls, m, v, k, sm, i, b, rfl⟩, hl, hc, hh⟩ := h
      refine ⟨⟨c, _, m + 1, v, k, sm, i, b, rfl⟩, ?_, hc, hh⟩
      exact (sameLaunches_count _ _ _).trans hl

theorem State.countGranule_begun (t : State) (n : Nat) :
    (t.countGranule n).hart = t.hart ∨
      (t.countGranule n).hart = { t.hart with begun := { t.hart.begun with counted := n + 1 } } := by
  unfold State.countGranule
  split
  · exact .inl rfl
  · refine .inr ?_
    unfold State.countTraffic
    split <;> rfl

/-- A granule issues within the budget: the load goes on, with the same registers, VSTART and gates. -/
theorem During.granule {s t : State} (h : During s t) (hb : InBudget t) (n : Nat) :
    ∃ u, Act.granule n t = .ok () u ∧ During s u ∧ SameLoaded t u ∧ u.hart.vstart = t.hart.vstart ∧
      u.hart.begun.gates = t.hart.begun.gates := by
  rcases Act.granule_inBudget hb n with hg | hg
  · refine ⟨_, hg, h.countGranule n, ?_⟩
    rcases State.countGranule_begun t n with he | he
    · unfold SameLoaded
      simp only [he, and_self]
    · unfold SameLoaded
      simp only [he, and_self]
  · exact ⟨t, hg, h, .refl t, rfl, rfl⟩

/-- An unmetered launch is in its budget whatever is counted. -/
theorem During.inBudget_of_unmetered {s t : State} (h : During s t) (hu : Unmetered s) : InBudget t := by
  intro l hl
  have hm := h.myLaunch
  rw [hl] at hm
  obtain ⟨l', hl', he⟩ := Option.map_eq_some_iff.mp hm.symm
  have hr : l.mbRaised = l'.mbRaised := (congrArg Launch.mbRaised he).symm
  have hk : l.cls = l'.cls := (congrArg Launch.cls he).symm
  have hg : l.mbudget = l'.mbudget := (congrArg Launch.mbudget he).symm
  unfold Launch.overBudget
  rw [hr, hk, hg]
  rcases hu l' hl' with h1 | ⟨h1, h2⟩
  · simp [h1]
  · simp [h1, h2]

/-- The budget hangs on the launches and on the launch of the hart. -/
theorem inBudget_congr {s t : State} (hl : t.lu.launches = s.lu.launches) (hh : t.hart.lid = s.hart.lid) (h : InBudget s) :
    InBudget t := by
  intro l hm
  refine h l ?_
  unfold State.myLaunch State.launch? at hm ⊢
  rw [← hl, ← hh, hm]

/-- Elements still to come pass the budget: none of it counts, or all lie in granule 0, which has begun or will begin within the
budget. -/
def Passes (s : State) (w : Nat) (is : List Nat) (gran : Option Nat) (t : State) : Prop :=
  Unmetered s ∨ (∀ i ∈ is, i * w / 8192 = 0) ∧ (gran = some 0 ∨ InBudget t)

theorem Passes.inBudget {s t : State} {w i : Nat} {is : List Nat} {gran : Option Nat} (h : Passes s w (i :: is) gran t)
    (ht : During s t) (hg : gran ≠ some (i * w / 8192)) : InBudget t := by
  rcases h with h | ⟨h0, h | h⟩
  · exact ht.inBudget_of_unmetered h
  · exact absurd (h.trans (congrArg some (h0 i (List.mem_cons_self ..)).symm)) hg
  · exact h

/-- Within a granule that has begun, the budget is not asked again. -/
theorem Passes.begun {s t u : State} {w i : Nat} {is : List Nat} {gran : Option Nat} (h : Passes s w (i :: is) gran t) :
    Passes s w (i :: is) (some (i * w / 8192)) u := by
  refine h.imp_right fun hb => ⟨hb.1, .inl ?_⟩
  rw [hb.1 i (List.mem_cons_self ..)]

theorem Passes.tail {s t u : State} {w i : Nat} {is : List Nat} (h : Passes s w (i :: is) (some (i * w / 8192)) t) :
    Passes s w is (some (i * w / 8192)) u := by
  refine h.imp_right fun hb => ⟨fun j hj => hb.1 j (List.mem_cons_of_mem _ hj), .inl ?_⟩
  rw [hb.1 i (List.mem_cons_self ..)]

end Sys2Proof.Machine
end

section
namespace Sys2Proof.Machine

open Claims

/-! Vector loads, fourth part: the registers that elements write (R9, R118, R277, R282). -/

-- bits of a register

theorem setBits_eq (v lo n x : Nat) :
    setBits v lo n x = 2 ^ lo * (2 ^ n * (v / 2 ^ lo / 2 ^ n) + x % 2 ^ n) + v % 2 ^ lo := by
  have h1 := Nat.div_add_mod v (2 ^ lo)
  have h2 := Nat.div_add_mod (v / 2 ^ lo) (2 ^ n)
  unfold setBits bitsAt
  generalize v / 2 ^ lo = a at *
  generalize a / 2 ^ n = b at *
  generalize a % 2 ^ n = m at *
  generalize v % 2 ^ lo = r at *
  generalize x % 2 ^ n = y
  subst h2
  subst h1
  rw [Nat.mul_add, Nat.mul_add, Nat.mul_comm m, Nat.mul_comm y]
  omega

theorem testBit_setBits (v lo n x j : Nat) :
    (setBits v lo n x).testBit j = if lo ≤ j ∧ j < lo + n then x.testBit (j - lo) else v.testBit j := by
  rw [setBits_eq, Nat.testBit_two_pow_mul_add _ (Nat.mod_lt _ (Nat.two_pow_pos lo))]
  split
  · rename_i h
    rw [if_neg (by omega), Nat.testBit_mod_two_pow]
    simp [h]
  · rename_i h
    rw [Nat.testBit_two_pow_mul_add _ (Nat.mod_lt _ (Nat.two_pow_pos n))]
    split
    · rename_i h'
      rw [if_pos (by omega), Nat.testBit_mod_two_pow]
      simp [h']
    · rename_i h'
      rw [if_neg (by omega), Nat.testBit_div_two_pow, Nat.testBit_div_two_pow]
      congr 1
      omega

theorem testBit_bitsAt (v lo n j : Nat) : (bitsAt v lo n).testBit j = (decide (j < n) && v.testBit (lo + j)) := by
  unfold bitsAt
  rw [Nat.testBit_mod_two_pow, Nat.testBit_div_two_pow, Nat.add_comm]

theorem bitsAt_setBits_same (v lo n x : Nat) : bitsAt (setBits v lo n x) lo n = x % 2 ^ n := by
  refine Nat.eq_of_testBit_eq fun j => ?_
  rw [testBit_bitsAt, Nat.testBit_mod_two_pow, testBit_setBits]
  by_cases h : j < n
  · simp [h]
  · simp [h]

theorem bitsAt_setBits_apart (v lo n x lo' n' : Nat) (h : lo' + n' ≤ lo ∨ lo + n ≤ lo') :
    bitsAt (setBits v lo n x) lo' n' = bitsAt v lo' n' := by
  refine Nat.eq_of_testBit_eq fun j => ?_
  rw [testBit_bitsAt, testBit_bitsAt, testBit_setBits]
  by_cases hj : j < n'
  · rw [if_neg (by omega)]
  · simp [hj]

-- elements of a group

theorem Hart.vreg_setElem (h : Hart) (c : VCfg) (b i x r : Nat) (hb : b + i / c.per < 32) :
    (h.setElem c b i x).vreg r = if r = b + i / c.per then regSetElem c (h.vreg r) (i % c.per) x else h.vreg r := by
  unfold Hart.setElem Hart.vreg
  dsimp only
  rw [Vector.getElem?_setIfInBounds]
  by_cases hr : r = b + i / c.per
  · rw [if_pos hr.symm, if_pos hr, if_pos (by omega), hr]
    rfl
  · rw [if_neg (Ne.symm hr), if_neg hr]

/-- An element written reads its value, and any other of the group what it was. -/
theorem Hart.elem_setElem (h : Hart) {c : VCfg} (hc : c.sliced = false) (b i j x : Nat) (hb : b + i / c.per < 32) :
    (h.setElem c b i x).elem c b j = if j = i then x % 2 ^ c.w else h.elem c b j := by
  unfold Hart.elem
  rw [Hart.vreg_setElem _ _ _ _ _ _ hb]
  by_cases hr : j / c.per = i / c.per
  · rw [if_pos (by rw [hr])]
    unfold regElem regSetElem
    simp only [hc, Bool.false_eq_true, if_false]
    by_cases hj : j = i
    · rw [if_pos hj, hj, bitsAt_setBits_same]
    · rw [if_neg hj]
      have hp : j % c.per ≠ i % c.per := fun hp => hj (by rw [← Nat.div_add_mod j c.per, ← Nat.div_add_mod i c.per, hr, hp])
      refine bitsAt_setBits_apart _ _ _ _ _ _ ?_
      rcases Nat.lt_or_gt_of_ne hp with hlt | hlt
      · exact .inl (by nlinarith)
      · exact .inr (by nlinarith)
  · rw [if_neg (by omega), if_neg (fun hj => hr (by rw [hj]))]

theorem Hart.maskBit_setMaskBit (h : Hart) (k i j : Nat) (b : Bool) (l : Nat) (hk : k < 8) :
    (h.setMaskBit k i b).maskBit l j = if l = k ∧ j = i then b else h.maskBit l j := by
  unfold Hart.setMaskBit Hart.maskBit Hart.kreg
  dsimp only
  rw [Vector.getElem?_setIfInBounds]
  by_cases hl : l = k
  · subst hl
    rw [if_pos rfl, if_pos hk, Option.getD_some, testBit_setBits]
    by_cases hj : j = i
    · subst hj
      rw [if_pos (show j ≤ j ∧ j < j + 1 by omega), if_pos (show l = l ∧ j = j from ⟨rfl, rfl⟩), Nat.sub_self]
      cases b
      · rfl
      · rfl
    · rw [if_neg (show ¬ (i ≤ j ∧ j < i + 1) by omega), if_neg (fun hh => hj hh.2)]
  · rw [if_neg (Ne.symm hl), if_neg (fun hh => hl hh.1)]

end Sys2Proof.Machine
end

section
namespace Sys2Proof.Machine

open Claims

/-! Vector loads, fifth part: what a load writes, element by element (R273, R277, R282). -/

/-- What each element of a load writes: its value in the group, or, with none, its bit of SMISS (R277); and its bit of k0, if the
instruction records one (R282). -/
structure LoadPlan where
  d : Reg
  val : Nat → Option Nat
  bit : Nat → Option Bool

/-- The value of an element, or its bit of SMISS. -/
def LoadPlan.put (P : LoadPlan) (c : VCfg) (i : Nat) (h : Hart) : Hart :=
  match P.val i with
  | some x => h.setElem c P.d.toNat i x
  | none => { h with smiss := setBits h.smiss i 1 1 }

/-- All that an element writes. -/
def LoadPlan.effect (P : LoadPlan) (c : VCfg) (i : Nat) (h : Hart) : Hart :=
  match P.bit i with
  | some b => (P.put c i h).setMaskBit 0 i b
  | none => P.put c i h

/-- What some elements give, and the others not. -/
def among {α : Type} (done : List Nat) (f : Nat → Option α) (i : Nat) : Option α := if i ∈ done then f i else none

/-- The elements `done` of a load have been written, and nothing else. -/
structure Loaded (s : State) (P : LoadPlan) (done : List Nat) (t : State) : Prop where
  group : GroupWritten s t s.hart.cfg P.d (among done P.val)
  smiss : ∀ i, t.hart.smiss.testBit i = true ↔ s.hart.smiss.testBit i = true ∨ i ∈ done ∧ P.val i = none
  mask : MaskWritten s t 0 (among done P.bit)
  kept : (∀ i, P.bit i = none) → t.hart.k = s.hart.k
  idle : done = [] → SameLoaded s t

theorem Loaded.none (s : State) (P : LoadPlan) : Loaded s P [] s where
  group := ⟨fun _ _ => rfl, fun _ _ => rfl⟩
  smiss := by simp
  mask := ⟨fun _ _ => rfl, fun _ _ _ => rfl⟩
  kept := fun _ => rfl
  idle := fun _ => .refl s

theorem Loaded.of_same {s t u : State} {P : LoadPlan} {done : List Nat} (h : Loaded s P done t) (hs : SameLoaded t u) :
    Loaded s P done u := by
  obtain ⟨⟨he, hr⟩, hsm, ⟨hb, ho⟩, hkept, hidle⟩ := h
  have hidle : done = [] → SameLoaded s u := fun hd => (hidle hd).trans hs
  obtain ⟨hv, hk, hm⟩ := hs
  unfold Hart.elem Hart.vreg at he
  unfold Hart.vreg at hr
  unfold Hart.maskBit Hart.kreg at hb ho
  rw [← hv] at he hr
  rw [← hk] at hb ho hkept
  rw [← hm] at hsm
  exact ⟨⟨he, hr⟩, hsm, ⟨hb, ho⟩, hkept, hidle⟩

theorem Loaded.congr {s t : State} {P : LoadPlan} {l l' : List Nat} (h : Loaded s P l t) (hl : ∀ i, i ∈ l' ↔ i ∈ l) :
    Loaded s P l' t := by
  have ha {α : Type} (f : Nat → Option α) : among l' f = among l f := by
    funext i
    unfold among
    simp only [hl i]
  obtain ⟨hg, hsm, hm, hk, hidle⟩ := h
  refine ⟨?_, ?_, ?_, hk, fun hn => hidle (List.eq_nil_iff_forall_not_mem.mpr fun i hi => ?_)⟩
  · rw [ha]; exact hg
  · intro i; rw [hl i]; exact hsm i
  · rw [ha]; exact hm
  · have := (hl i).mpr hi
    rw [hn] at this
    cases this

theorem among_cons {α : Type} (i : Nat) (l : List Nat) (f : Nat → Option α) (j : Nat) :
    among (i :: l) f j = if j = i then f i else among l f j := by
  unfold among
  by_cases h : j = i
  · simp [h]
  · simp [h]

-- the group that a load writes

theorem Hart.cfg_gm_le {h : Hart} {d : Reg} (hd : d.toNat % h.cfg.gm = 0) : d.toNat + h.cfg.gm ≤ 32 := by
  have hlt : d.toNat < 32 := d.isLt
  have hb : bitsAt h.vtype.toNat 4 2 < 4 := Nat.mod_lt _ (by decide)
  change d.toNat % 2 ^ bitsAt h.vtype.toNat 4 2 = 0 at hd
  change d.toNat + 2 ^ bitsAt h.vtype.toNat 4 2 ≤ 32
  generalize bitsAt h.vtype.toNat 4 2 = b at hd hb ⊢
  interval_cases b <;> omega

/-- The registers of a group's elements are in the group. -/
theorem VCfg.reg_lt {c : VCfg} {i : Nat} (hi : i < c.gm * c.per) : i / c.per < c.gm :=
  Nat.div_lt_of_lt_mul (by rwa [Nat.mul_comm])

/-- A hart's configuration with elements of 1, 2, 4 or 8 bytes. -/
theorem Hart.cfg_sliced {h : Hart} (hw : h.ew < 4) : h.cfg.sliced = false := by
  show (h.ew == 4) = false
  simp only [beq_eq_false_iff_ne]
  omega

/-- An element's effect stays within what a load may change. -/
theorem LoadPlan.effect_midLoad (P : LoadPlan) (c : VCfg) (i : Nat) {h : Hart} (hp : h.poison = []) :
    ∃ v k m, P.effect c i h = h.midLoad v k m h.vstart h.begun := by
  have hput : ∃ v m, P.put c i h = h.midLoad v h.k m h.vstart h.begun := by
    unfold LoadPlan.put
    split
    · rename_i x _
      refine ⟨(h.setElem c P.d.toNat i x).v, h.smiss, ?_⟩
      unfold Hart.setElem Hart.midLoad
      simp [hp]
    · exact ⟨h.v, _, rfl⟩
  obtain ⟨v, m, hput⟩ := hput
  unfold LoadPlan.effect
  split
  · rename_i b _
    refine ⟨v, (h.setMaskBit 0 i b).k, m, ?_⟩
    rw [hput]
    unfold Hart.setMaskBit Hart.midLoad Hart.kreg
    simp [hp]
  · exact ⟨v, _, m, hput⟩

theorem During.poison {s t : State} (h : During s t) (hp : s.hart.poison = []) : t.hart.poison = [] := by
  obtain ⟨⟨_, _, _, _, _, _, _, _, rfl⟩, -⟩ := h
  exact hp

theorem During.effect {s t : State} (h : During s t) (hp : s.hart.poison = []) (P : LoadPlan) (c : VCfg) (i : Nat) :
    During s (t.withHart (P.effect c i)) := by
  obtain ⟨v, k, m, he⟩ := P.effect_midLoad c i (h.poison hp)
  exact h.withHart ⟨v, k, m, _, _, he, rfl⟩

theorem LoadPlan.effect_v (P : LoadPlan) (c : VCfg) (i : Nat) (h : Hart) : (P.effect c i h).v = (P.put c i h).v := by
  unfold LoadPlan.effect
  split <;> rfl

theorem LoadPlan.effect_smiss (P : LoadPlan) (c : VCfg) (i : Nat) (h : Hart) :
    (P.effect c i h).smiss = (P.put c i h).smiss := by
  unfold LoadPlan.effect
  split <;> rfl

theorem LoadPlan.put_k (P : LoadPlan) (c : VCfg) (i : Nat) (h : Hart) : (P.put c i h).k = h.k := by
  unfold LoadPlan.put
  split <;> rfl

theorem LoadPlan.smiss_put (P : LoadPlan) (c : VCfg) (i j : Nat) (h : Hart) :
    (P.put c i h).smiss.testBit j = true ↔ h.smiss.testBit j = true ∨ j = i ∧ P.val i = none := by
  unfold LoadPlan.put
  cases P.val i with
  | some x => simp [Hart.setElem]
  | none =>
    dsimp only
    rw [testBit_setBits]
    by_cases hj : j = i
    · simp [hj]
    · rw [if_neg (by omega)]
      simp [hj]

theorem LoadPlan.maskBit_effect (P : LoadPlan) (c : VCfg) (i k j : Nat) (h : Hart) :
    (P.effect c i h).maskBit k j = if k = 0 ∧ j = i then (P.bit i).getD (h.maskBit k j) else h.maskBit k j := by
  have hput : (P.put c i h).maskBit k j = h.maskBit k j := by
    unfold Hart.maskBit Hart.kreg
    rw [P.put_k]
  unfold LoadPlan.effect
  cases P.bit i with
  | some b => rw [Hart.maskBit_setMaskBit _ _ _ _ _ _ (by decide), hput]; rfl
  | none => simp [hput]

/-- One more element has been written. -/
theorem Loaded.effect {s t : State} {P : LoadPlan} {done : List Nat} (h : Loaded s P done t) {i : Nat} (hw : s.hart.ew < 4)
    (hd : P.d.toNat % s.hart.cfg.gm = 0) (hi : i < s.hart.cfg.gm * s.hart.cfg.per) :
    Loaded s P (i :: done) (t.withHart (P.effect s.hart.cfg i)) := by
  obtain ⟨⟨he, hr⟩, hsm, ⟨hb, ho⟩, hkept, -⟩ := h
  have hlt := VCfg.reg_lt hi
  have hreg : P.d.toNat + i / s.hart.cfg.per < 32 := by
    have := Hart.cfg_gm_le hd
    omega
  have hvreg (r : Nat) : (P.effect s.hart.cfg i t.hart).vreg r = (P.put s.hart.cfg i t.hart).vreg r := by
    unfold Hart.vreg
    rw [P.effect_v]
  refine ⟨⟨fun j hj => ?_, fun r hout => ?_⟩, fun j => ?_, ⟨fun j hj => ?_, fun k j hk => ?_⟩, fun hn => ?_, fun hn => nomatch hn⟩
  · have helem : (P.effect s.hart.cfg i t.hart).elem s.hart.cfg P.d.toNat j =
        (P.put s.hart.cfg i t.hart).elem s.hart.cfg P.d.toNat j := by
      unfold Hart.elem
      rw [hvreg]
    rw [State.withHart_hart, helem, among_cons]
    unfold LoadPlan.put
    cases hval : P.val i with
    | some x =>
      dsimp only
      rw [Hart.elem_setElem _ (Hart.cfg_sliced hw) _ _ _ _ hreg]
      by_cases hji : j = i
      · rw [if_pos hji, if_pos hji]
      · rw [if_neg hji, if_neg hji, he j hj]
    | none =>
      refine (he j hj).trans ?_
      by_cases hji : j = i
      · subst hji
        simp [among, hval]
      · rw [if_neg hji]
  · have hne : r ≠ P.d.toNat + i / s.hart.cfg.per := by
      generalize i / s.hart.cfg.per = q at hlt
      omega
    rw [State.withHart_hart, hvreg, ← hr r hout]
    unfold LoadPlan.put
    cases P.val i with
    | some x => rw [Hart.vreg_setElem _ _ _ _ _ _ hreg, if_neg hne]
    | none => rfl
  · rw [State.withHart_hart, P.effect_smiss, P.smiss_put, hsm j, List.mem_cons]
    constructor
    · rintro ((h | ⟨h, h'⟩) | ⟨rfl, h⟩)
      · exact .inl h
      · exact .inr ⟨.inr h, h'⟩
      · exact .inr ⟨.inl rfl, h⟩
    · rintro (h | ⟨rfl | h, h'⟩)
      · exact .inl (.inl h)
      · exact .inr ⟨rfl, h'⟩
      · exact .inl (.inr ⟨h, h'⟩)
  · rw [State.withHart_hart, P.maskBit_effect, among_cons]
    have hj := hb j hj
    change t.hart.maskBit 0 j = _ at hj
    change (if 0 = 0 ∧ j = i then _ else t.hart.maskBit 0 j) = _
    by_cases hji : j = i
    · subst hji
      rw [if_pos ⟨rfl, rfl⟩, if_pos rfl]
      cases hbit : P.bit j with
      | some b => rfl
      | none => simpa [among, hbit] using hj
    · rw [if_neg (fun hh => hji hh.2), if_neg hji, hj]
  · rw [State.withHart_hart, P.maskBit_effect, if_neg (fun hh => hk hh.1), ho k j hk]
  · rw [State.withHart_hart, ← hkept hn]
    unfold LoadPlan.effect
    rw [hn i]
    exact P.put_k _ _ _

end Sys2Proof.Machine
end

section
namespace Sys2Proof.Machine

open Claims

/-! Vector loads, sixth part: granules perform, and elements follow one another (R143, R273, R348, R390). -/

-- what the elements of a load rest on

/-- A load of `P` from `s` can go through its elements: nothing of the hart's holds it up, and its group is aligned. -/
structure CanLoad (s : State) (P : LoadPlan) : Prop where
  unacked : s.hart.unacked = []
  poison : s.hart.poison = []
  cut : s.hart.cut = none
  clean : NoLinePoisoned s
  begun : s.hart.begun = Begun.fresh
  width : s.hart.ew < 4
  group : P.d.toNat % s.hart.cfg.gm = 0

/-- A state of the load in which the elements `done` have been written. -/
structure Running (s : State) (P : LoadPlan) (done : List Nat) (t : State) : Prop where
  during : During s t
  loaded : Loaded s P done t

/-- A load starts with none of its elements written. -/
theorem CanLoad.running {s : State} {P : LoadPlan} (h : CanLoad s P) : Running s P [] s :=
  ⟨.refl h.clean h.begun, .none s P⟩

theorem Running.congr {s t : State} {P : LoadPlan} {l l' : List Nat} (h : Running s P l t) (hl : ∀ i, i ∈ l' ↔ i ∈ l) :
    Running s P l' t := ⟨h.during, h.loaded.congr hl⟩

theorem Running.of_same {s t u : State} {P : LoadPlan} {l : List Nat} (h : Running s P l t) (hu : During s u)
    (hs : SameLoaded t u) : Running s P l u := ⟨hu, h.loaded.of_same hs⟩

theorem Running.setVstart {s t : State} {P : LoadPlan} {l : List Nat} (h : Running s P l t) (n : Nat) :
    Running s P l (t.setVstart n) := h.of_same (h.during.setVstart n) (.refl t)

theorem During.lid {s t : State} (h : During s t) : t.hart.lid = s.hart.lid := by
  obtain ⟨⟨_, _, _, _, _, _, _, _, rfl⟩, -⟩ := h
  rfl

theorem During.unacked {s t : State} (h : During s t) : t.hart.unacked = s.hart.unacked := by
  obtain ⟨⟨_, _, _, _, _, _, _, _, rfl⟩, -⟩ := h
  rfl

theorem During.cut {s t : State} (h : During s t) : t.hart.cut = s.hart.cut := by
  obtain ⟨⟨_, _, _, _, _, _, _, _, rfl⟩, -⟩ := h
  rfl

theorem During.replies {s t : State} (h : During s t) : t.hart.replies = s.hart.replies := by
  obtain ⟨⟨_, _, _, _, _, _, _, _, rfl⟩, -⟩ := h
  rfl

/-- What a step of a load leaves of another state of it, besides the registers: launches and VSTART. -/
def SameCounts (t u : State) : Prop := u.lu = t.lu ∧ u.hart.vstart = t.hart.vstart ∧ u.hart.begun.gates = t.hart.begun.gates

-- pieces

/-- A piece that performs an element of the load. -/
structure Piece.Loads (s : State) (P : LoadPlan) (p : Piece) : Prop where
  loc : p.loc = none
  fits : p.elem < s.hart.cfg.gm * s.hart.cfg.per
  act : ∀ u, p.act u = u.withHart (P.effect s.hart.cfg p.elem)

/-- Pieces of a load perform one after another. -/
theorem Running.perform {s t : State} {P : LoadPlan} {done : List Nat} (h : Running s P done t) (hc : CanLoad s P)
    {ps : List Piece} (hp : ∀ p ∈ ps, p.Loads s P) (mark : Piece → State → State) :
    ∃ u, Act.perform mark ps t = .ok () u ∧ Running s P (ps.map (·.elem) ++ done) u ∧ SameCounts t u := by
  induction ps generalizing done t with
  | nil => exact ⟨t, rfl, h, rfl, rfl, rfl⟩
  | cons p ps ih =>
    obtain ⟨hloc, hfits, hact⟩ := hp p (List.mem_cons_self ..)
    have hb : t.behind p.loc = false := by
      unfold State.behind
      rw [hloc, h.during.unacked, hc.unacked]
      rfl
    have ht : Running s P (p.elem :: done) (p.act t) := by
      rw [hact t]
      exact ⟨h.during.effect hc.poison P _ _, h.loaded.effect hc.width hc.group hfits⟩
    obtain ⟨u, hu, hr, hl, hv, hg⟩ := ih ht fun q hq => hp q (List.mem_cons_of_mem _ hq)
    refine ⟨u, ?_, hr.congr fun i => ?_, ?_⟩
    · unfold Act.perform
      rw [Act.get_bind, hb]
      exact hu
    · simp only [List.map_cons, List.mem_append, List.mem_cons]
      tauto
    · obtain ⟨v, k, m, he⟩ := P.effect_midLoad s.hart.cfg p.elem (h.during.poison hc.poison)
      rw [hact t] at hl hv hg
      refine ⟨hl, hv.trans ?_, hg.trans ?_⟩
      · rw [State.withHart_hart, he]
        rfl
      · rw [State.withHart_hart, he]
        rfl

/-- A granule of a load performs. -/
theorem Running.performGranule {s t : State} {P : LoadPlan} {done : List Nat} (h : Running s P done t) (hc : CanLoad s P)
    {pend : List Piece} (hp : ∀ p ∈ pend, p.Loads s P) :
    ∃ u, Act.performGranule pend.reverse t = .ok () u ∧ Running s P (pend.map (·.elem) ++ done) u ∧ SameCounts t u := by
  unfold Act.performGranule
  obtain ⟨u, hu, hr, hl, hv, hg⟩ := h.perform hc (ps := pend.reverse) (fun p hm => hp p (List.mem_reverse.mp hm))
    fun p s => (s.setVstart p.elem).withBegun fun b =>
      { b with inside := !(p.loc.any (·.isIo)) && (b.inside || p.elem != (pend.reverse.head?.map (·.elem)).getD 0) }
  rw [Act.bind_ok hu]
  refine ⟨_, rfl, Running.congr (Running.of_same hr (hr.during.withBegun rfl) (.refl u)) fun i => ?_, hl, hv, hg⟩
  simp only [List.mem_append, List.mem_map, List.mem_reverse]

-- elements

section
variable {w : Nat} {prep : Nat → Act Prepared}

/-- An element of the granule that has begun, checked and read, is kept until the granule performs. -/
theorem elements_ok {i : Nat} {t t' : State} {f : Perform} (hp : prep i t = .ok (none, f) t') (is : List Nat) (start : Nat)
    (rep : List Reply) (pend : List Piece) :
    elements w false prep noCommit (i :: is) (some (i * w / 8192)) start rep pend t =
      elements w false prep noCommit is (some (i * w / 8192)) start rep (⟨i, none, f⟩ :: pend) t' := by
  refine (congrFun (if_pos rfl) t).trans ?_
  rw [hp]
  rfl

/-- An element of the granule that has begun traps once the elements below have performed. -/
theorem elements_trap {i c : Nat} {v : Word} {t t' u : State} (hp : prep i t = .error (.trap c v) t') {pend : List Piece}
    (hu : Act.performGranule pend.reverse t' = .ok () u) (is : List Nat) (start : Nat) (rep : List Reply) :
    elements w false prep noCommit (i :: is) (some (i * w / 8192)) start rep pend t = .error (.trap c v) (u.setVstart i) := by
  refine (congrFun (if_pos rfl) t).trans ?_
  rw [hp]
  exact Act.bind_ok hu

/-- An element of the granule that has begun waits with its granule not performed. -/
theorem elements_wait {i : Nat} {b : Bool} {t t' : State} (hp : prep i t = .error (.wait b false) t') (is : List Nat)
    (start : Nat) (rep : List Reply) (pend : List Piece) :
    elements w false prep noCommit (i :: is) (some (i * w / 8192)) start rep pend t =
      .error (.wait b true) ((t'.setVstart start).withHart fun h => { h with replies := rep }) := by
  refine (congrFun (if_pos rfl) t).trans ?_
  rw [hp]

/-- At the first element of a granule the one before performs, and this one issues. -/
theorem Running.elements_granule {s t : State} {P : LoadPlan} {done : List Nat} (h : Running s P done t) (hc : CanLoad s P)
    {pend : List Piece} (hp : ∀ p ∈ pend, p.Loads s P) {i : Nat} {gran : Option Nat} (hg : gran ≠ some (i * w / 8192))
    (hb : InBudget t) (is : List Nat) (start : Nat) (rep : List Reply) :
    ∃ u, elements w false prep noCommit (i :: is) gran start rep pend t =
        elements w false prep noCommit (i :: is) (some (i * w / 8192)) (max t.hart.vstart (granuleStart w i)) s.hart.replies [] u ∧
      Running s P (pend.map (·.elem) ++ done) u ∧ u.hart.begun.gates = t.hart.begun.gates := by
  obtain ⟨u, hu, hr, hl, hv, hgate⟩ := h.performGranule hc hp
  have hcut : u.hart.cut = none := hr.during.cut.trans hc.cut
  have hst := hr.setVstart (max t.hart.vstart (granuleStart w i))
  have hbu : InBudget (u.setVstart (max t.hart.vstart (granuleStart w i))) :=
    inBudget_congr (congrArg LaunchUnit.launches hl) (hst.during.lid.trans h.during.lid.symm) hb
  obtain ⟨u', hu', hd', hs', -, hgate'⟩ := hst.during.granule hbu (i * w / 8192)
  refine ⟨u', ?_, hst.of_same hd' hs', hgate'.trans hgate⟩
  refine (congrFun (if_neg hg) t).trans ((Act.bind_ok hu).trans (Act.get_bind.trans ?_))
  rw [hcut, hv]
  refine Act.upd_bind.trans ((Act.bind_ok (t := u.setVstart _) rfl).trans ?_)
  refine (congrFun (if_neg (by simp [hr.during.held])) _).trans ((Act.bind_ok hu').trans (Act.get_bind.trans ?_))
  rw [hd'.replies]
  refine Eq.symm ((congrFun (if_pos rfl) u').trans ?_)
  rfl

end

end Sys2Proof.Machine
end

section
namespace Sys2Proof.Machine

open Claims

/-! Vector loads, seventh part: how a load goes through its elements ends (R273, R289, R390). -/

section
variable {s : State} {P : LoadPlan} {w : Nat} {prep : Nat → Act Prepared}

/-- Element i passes its checks in every state of the load, and does what the plan says. -/
structure Passing (s : State) (P : LoadPlan) (prep : Nat → Act Prepared) (i : Nat) : Prop where
  fits : i < s.hart.cfg.gm * s.hart.cfg.per
  step : ∀ t, During s t → ∃ f t', prep i t = .ok (none, f) t' ∧ During s t' ∧ SameLoaded t t' ∧
    ∀ u, f u = u.withHart (P.effect s.hart.cfg i)

/-- Whether a granule begins at it or not, an element is met in a granule that has begun. -/
theorem Running.elements_begin {t : State} {done : List Nat} (h : Running s P done t) (hc : CanLoad s P) {pend : List Piece}
    (hp : ∀ p ∈ pend, p.Loads s P) {i : Nat} {is : List Nat} {gran : Option Nat} (hb : Passes s w (i :: is) gran t) (start : Nat)
    (rep : List Reply) :
    ∃ start' rep' pend' done' t', elements w false prep noCommit (i :: is) gran start rep pend t =
        elements w false prep noCommit (i :: is) (some (i * w / 8192)) start' rep' pend' t' ∧
      Running s P done' t' ∧ (∀ p ∈ pend', p.Loads s P) ∧ pend'.map (·.elem) ++ done' = pend.map (·.elem) ++ done := by
  by_cases hg : gran = some (i * w / 8192)
  · exact ⟨start, rep, pend, done, t, by rw [hg], h, hp, rfl⟩
  · obtain ⟨u, hu, hr, -⟩ := h.elements_granule (prep := prep) hc hp hg (hb.inBudget h.during hg) is start rep
    exact ⟨_, _, [], _, u, hu, hr, by simp, rfl⟩

/-- Elements that pass are gone through, some of them performed and the rest kept. -/
theorem Running.elements_append {t : State} {done : List Nat} (h : Running s P done t) (hc : CanLoad s P) {pend : List Piece}
    (hp : ∀ p ∈ pend, p.Loads s P) {is rest : List Nat} (hok : ∀ i ∈ is, Passing s P prep i) {gran : Option Nat}
    (hb : Passes s w (is ++ rest) gran t) (start : Nat) (rep : List Reply) :
    ∃ gran' start' rep' pend' done' t', elements w false prep noCommit (is ++ rest) gran start rep pend t =
        elements w false prep noCommit rest gran' start' rep' pend' t' ∧
      Running s P done' t' ∧ (∀ p ∈ pend', p.Loads s P) ∧
      (∀ i, i ∈ pend'.map (·.elem) ++ done' ↔ i ∈ is ∨ i ∈ pend.map (·.elem) ++ done) ∧ Passes s w rest gran' t' := by
  induction is generalizing done gran start rep pend t with
  | nil => exact ⟨gran, start, rep, pend, done, t, rfl, h, hp, by simp, hb⟩
  | cons i is ih =>
    obtain ⟨start₁, rep₁, pend₁, done₁, t₁, he₁, hr₁, hp₁, hd₁⟩ := h.elements_begin (prep := prep) hc hp hb start rep
    obtain ⟨hfits, hstep⟩ := hok i (List.mem_cons_self ..)
    obtain ⟨f, t₂, hf, hd₂, hs₂, hact⟩ := hstep t₁ hr₁.during
    have hp₂ : ∀ p ∈ (⟨i, none, f⟩ :: pend₁ : List Piece), p.Loads s P := by
      intro p hm
      rcases List.mem_cons.mp hm with rfl | hm
      · exact ⟨rfl, hfits, hact⟩
      · exact hp₁ p hm
    obtain ⟨gran', start', rep', pend', done', t', he, hr, hp', hd, hb'⟩ :=
      ih (hr₁.of_same hd₂ hs₂) hp₂ (fun j hj => hok j (List.mem_cons_of_mem _ hj)) ((hb.begun (u := t₁)).tail) start₁ rep₁
    refine ⟨gran', start', rep', pend', done', t', ?_, hr, hp', fun j => ?_, hb'⟩
    · exact he₁.trans ((elements_ok hf _ _ _ _).trans he)
    · rw [hd j, ← hd₁]
      simp only [List.map_cons, List.cons_append, List.mem_cons]
      tauto

/-- When every element passes, all are performed. -/
theorem Running.elements_all {t : State} (h : Running s P [] t) (hc : CanLoad s P) {is : List Nat}
    (hok : ∀ i ∈ is, Passing s P prep i) (hb : Passes s w is none t) (start : Nat) (rep : List Reply) :
    ∃ u, elements w false prep noCommit is none start rep [] t = .ok () u ∧ Running s P is u := by
  obtain ⟨gran', start', rep', pend', done', t', he, hr, hp', hd, -⟩ :=
    h.elements_append (prep := prep) (rest := []) hc (pend := []) (by simp) hok (by rwa [List.append_nil]) start rep
  obtain ⟨u, hu, hr', -⟩ := hr.performGranule hc hp'
  rw [List.append_nil] at he
  refine ⟨u, he.trans ?_, hr'.congr fun i => ?_⟩
  · rw [elements]
    exact hu
  · rw [hd i]
    simp

/-- When an element traps and those before it pass, those are performed and VSTART names it. -/
theorem Running.elements_upTo {t : State} (h : Running s P [] t) (hc : CanLoad s P) {is js : List Nat} {k c : Nat} {v : Word}
    (hok : ∀ i ∈ is, Passing s P prep i) (hk : ∀ t, During s t → prep k t = .error (.trap c v) t)
    (hb : Passes s w (is ++ k :: js) none t) (start : Nat) (rep : List Reply) :
    ∃ u, elements w false prep noCommit (is ++ k :: js) none start rep [] t = .error (.trap c v) (u.setVstart k) ∧
      Running s P is u := by
  obtain ⟨gran₁, start₁, rep₁, pend₁, done₁, t₁, he₁, hr₁, hp₁, hd₁, hb₁⟩ :=
    h.elements_append (prep := prep) hc (pend := []) (by simp) hok hb start rep
  obtain ⟨start₂, rep₂, pend₂, done₂, t₂, he₂, hr₂, hp₂, hd₂⟩ := hr₁.elements_begin (prep := prep) hc hp₁ hb₁ start₁ rep₁
  obtain ⟨u, hu, hr, -⟩ := hr₂.performGranule hc hp₂
  refine ⟨u, he₁.trans (he₂.trans (elements_trap (hk t₂ hr₂.during) hu js start₂ rep₂)), hr.congr fun i => ?_⟩
  rw [hd₂, hd₁ i]
  simp

/-- When the first element waits, nothing is performed and VSTART is in its granule, not after it. -/
theorem Running.elements_shut {t : State} (h : Running s P [] t) (hc : CanLoad s P) {i : Nat} {is : List Nat}
    (hi : ∀ u, During s u → u.hart.begun.gates = t.hart.begun.gates →
      ∃ u', prep i u = .error (.wait false false) u' ∧ During s u' ∧ SameLoaded u u')
    (hb : Passes s w (i :: is) none t) (start : Nat) (rep : List Reply) :
    ∃ u, elements w false prep noCommit (i :: is) none start rep [] t =
        .error (.wait false true) (u.setVstart (max t.hart.vstart (granuleStart w i))) ∧ Running s P [] u := by
  obtain ⟨u, hu, hr, hg⟩ := h.elements_granule (prep := prep) (w := w) (i := i) (gran := none) hc (pend := []) (by simp)
    (by simp) (hb.inBudget h.during (by simp)) is start rep
  obtain ⟨u', hu', hd', hs'⟩ := hi u hr.during hg
  refine ⟨u', hu.trans ((elements_wait hu' _ _ _ _).trans ?_), hr.of_same hd' hs'⟩
  rw [← hd'.replies]
  rfl

end

end Sys2Proof.Machine
end

section
namespace Sys2Proof.Machine

open Claims

/-! Vector loads, eighth part: the ends of a vector load (R8, R255, R274, R390, R402). -/

-- active elements

theorem Hart.mem_actives {h : Hart} {g : Num3} {i : Nat} :
    i ∈ h.actives g ↔ h.vstart ≤ i ∧ i < h.vl ∧ (g = 0 ∨ h.maskBit g.toNat i = true) := by
  unfold Hart.actives Hart.guardBit
  rw [List.mem_filter, List.range_eq_range', List.drop_range']
  simp only [List.mem_range'_1, Bool.or_eq_true, decide_eq_true_eq]
  constructor
  · rintro ⟨⟨h1, h2⟩, h3⟩
    exact ⟨by omega, by omega, h3⟩
  · rintro ⟨h1, h2, h3⟩
    exact ⟨⟨by omega, by omega⟩, h3⟩

theorem mem_actives_iff {s : State} {g : Num3} {i : Nat} : i ∈ s.hart.actives g ↔ Active s g i := Hart.mem_actives

/-- Active elements are in ascending order. -/
theorem Hart.actives_sorted (h : Hart) (g : Num3) : (h.actives g).Pairwise (· < ·) := by
  unfold Hart.actives
  exact ((List.pairwise_lt_range).drop).filter _

theorem Hart.reachable_clean {h : Hart} (hp : h.poison = []) (g : Num3) (srcs : List Src) :
    h.reachable g srcs = (h.actives g, none) := by
  unfold Hart.reachable Hart.firstPoison
  rw [hp]
  rfl

theorem Hart.dispatched_fresh {h : Hart} (hb : h.begun = Begun.fresh) (acts : List Nat) : h.dispatched acts = acts := by
  unfold Hart.dispatched
  rw [hb]
  rfl

-- an access

section
variable {s : State} {P : LoadPlan} {prep : Nat → Act Prepared}

theorem CanLoad.during (h : CanLoad s P) {c : Coherence} (hc : c.Clean) : During s { s with coh := c } :=
  (During.refl h.clean h.begun).withCoh hc

theorem CanLoad.start (h : CanLoad s P) {c : Coherence} (hc : c.Clean) : Running s P [] { s with coh := c } :=
  h.running.of_same (h.during hc) (.refl s)

/-- An access of which every active element passes ends. -/
theorem access_all (h : CanLoad s P) {c : Coherence} (hc : c.Clean) {g : Num3} (srcs : List Src)
    (hok : ∀ i ∈ s.hart.actives g, Passing s P prep i) (hb : Passes s s.hart.cfg.w (s.hart.actives g) none { s with coh := c }) :
    ∃ u, (Act.access g srcs id prep noCommit (pure ()) : Act Unit) { s with coh := c } = .ok () (u.setVstart 0).advance ∧
      Running s P (s.hart.actives g) u := by
  obtain ⟨u, hu, hr⟩ := (h.start hc).elements_all h hok hb s.hart.vstart s.hart.replies
  refine ⟨u, ?_, hr⟩
  unfold Act.access
  refine Act.get_bind.trans ?_
  rw [show State.hart { s with coh := c } = s.hart from rfl, Hart.reachable_clean h.poison]
  dsimp only
  rw [Hart.dispatched_fresh h.begun, id]
  refine (Act.bind_ok (t := u) (a := ()) ?_).trans rfl
  unfold Act.keepActives
  rw [hu]

/-- An access whose element k traps, with those before it passing. -/
theorem access_upTo (h : CanLoad s P) {c : Coherence} (hc : c.Clean) {g : Num3} (srcs : List Src) {is js : List Nat}
    {k code : Nat} {v : Word} (he : s.hart.actives g = is ++ k :: js) (hok : ∀ i ∈ is, Passing s P prep i)
    (hk : ∀ t, During s t → prep k t = .error (.trap code v) t)
    (hb : Passes s s.hart.cfg.w (s.hart.actives g) none { s with coh := c }) :
    ∃ u, (Act.access g srcs id prep noCommit (pure ()) : Act Unit) { s with coh := c } = .error (.trap code v) (u.setVstart k) ∧
      Running s P is u := by
  rw [he] at hb
  obtain ⟨u, hu, hr⟩ := (h.start hc).elements_upTo h hok hk hb s.hart.vstart s.hart.replies
  refine ⟨u, ?_, hr⟩
  unfold Act.access
  refine Act.get_bind.trans ?_
  rw [show State.hart { s with coh := c } = s.hart from rfl, Hart.reachable_clean h.poison]
  dsimp only
  rw [Hart.dispatched_fresh h.begun, id, he]
  refine Act.bind_error ?_
  unfold Act.keepActives
  rw [hu]

/-- An access whose first active element waits. -/
theorem access_shut (h : CanLoad s P) {c : Coherence} (hc : c.Clean) {g : Num3} (srcs : List Src) {i : Nat} {is : List Nat}
    (he : s.hart.actives g = i :: is)
    (hi : ∀ t, During s t → t.hart.begun.gates = 0 → ∃ u, prep i t = .error (.wait false false) u ∧ During s u ∧ SameLoaded t u)
    (hb : Passes s s.hart.cfg.w (s.hart.actives g) none { s with coh := c }) :
    ∃ u b, (Act.access g srcs id prep noCommit (pure ()) : Act Unit) { s with coh := c } = .error (.wait false true)
        ((u.setVstart (max s.hart.vstart (granuleStart s.hart.cfg.w i))).withBegun fun x => { x with acts := b }) ∧
      Running s P [] u := by
  rw [he] at hb
  obtain ⟨u, hu, hr⟩ := (h.start hc).elements_shut h (fun t ht hg => hi t ht (by
    rw [hg]
    show s.hart.begun.gates = 0
    rw [h.begun]
    rfl)) hb s.hart.vstart s.hart.replies
  refine ⟨u, some ((i :: is).filter (u.setVstart (max s.hart.vstart (granuleStart s.hart.cfg.w i))).hart.inGranule), ?_, hr⟩
  unfold Act.access
  refine Act.get_bind.trans ?_
  rw [show State.hart { s with coh := c } = s.hart from rfl, Hart.reachable_clean h.poison]
  dsimp only
  rw [Hart.dispatched_fresh h.begun, id, he]
  refine Act.bind_error ?_
  unfold Act.keepActives
  rw [hu]

end

-- dispatch

theorem Act.drain_ok {s : State} (h : s.hart.unacked = []) : Act.drain s = .ok () s := by
  unfold Act.drain
  refine Act.get_bind.trans ?_
  rw [h]
  rfl

theorem Act.dispatch_ok {s t : State} {acc : Access} {vas : List Nat} {m : Act Unit} (h : s.hart.unacked = [])
    (hm : m s = .ok () t) : Act.dispatch acc vas m s = .ok () t := by
  unfold Act.dispatch
  refine (Act.bind_ok (Act.drain_ok h)).trans ?_
  unfold Act.holding
  rw [hm]

theorem Act.dispatch_trap {s t : State} {acc : Access} {vas : List Nat} {m : Act Unit} {c : Nat} {v : Word}
    (h : s.hart.unacked = []) (hm : m s = .error (.trap c v) t) : Act.dispatch acc vas m s = .error (.trap c v) t := by
  unfold Act.dispatch
  refine (Act.bind_ok (Act.drain_ok h)).trans ?_
  unfold Act.holding
  rw [hm]

/-- A dispatch that waits for the first time keeps its translations. -/
theorem Act.dispatch_wait {s t : State} {acc : Access} {vas : List Nat} {m : Act Unit} {a k : Bool}
    (h : s.hart.unacked = []) (hm : m s = .error (.wait a k) t) (hh : t.hart.begun.held = none) :
    Act.dispatch acc vas m s = .error (.wait a k)
      ((t.xlateAll acc true vas).2.withBegun fun b => { b with held := some (t.xlateAll acc true vas).1 }) := by
  unfold Act.dispatch
  refine (Act.bind_ok (Act.drain_ok h)).trans ?_
  unfold Act.holding
  rw [hm]
  simp [hh]

-- the answers

/-- A load that ends has done an access, with the elements in their places. -/
theorem Running.done {s u : State} {P : LoadPlan} {l : List Nat} (h : Running s P l u) {m : Act Unit}
    (hm : m s = .ok () (u.setVstart 0).advance) :
    ∃ t, Act.run true m s = .next t ∧ AccessDone s t ∧ t.mem = s.mem ∧ t.regions = s.regions ∧ t.hart.acc = s.hart.acc ∧
      t.hart.status = s.hart.status ∧ Loaded s P l t := by
  obtain ⟨⟨⟨c, ls, n, v, k, m, i, b, rfl⟩, hl, -, -⟩, hld⟩ := h
  dsimp only [State.setVstart, State.advance, State.withHart, State.midLoad, Hart.midLoad] at hm
  refine ⟨_, by unfold Act.run; rw [hm], ?_⟩
  dsimp only [State.withHart, Hart.settled]
  exact ⟨⟨⟨rfl, hl⟩, rfl, rfl⟩, rfl, rfl, rfl, rfl, hld.of_same ⟨rfl, rfl, rfl⟩⟩

theorem takeTrap_super {s : State} (h : SuperMode s) (sync : Bool) (code : Nat) (v : Word) (suffix : Nat) :
    takeTrap sync code v suffix s = s.withHart fun h => h.enter code v suffix none := by
  unfold takeTrap
  exact if_pos h

/-- A load that traps in supervisor mode leaves the elements before in their places. -/
theorem Running.trapped {s u : State} {P : LoadPlan} {l : List Nat} (h : Running s P l u) (hs : SuperMode s) {k code : Nat}
    {v : Word} {m : Act Unit} (hm : m s = .error (.trap code v) (u.setVstart k)) :
    ∃ t, Act.run true m s = .next t ∧ t.hart.vstart = k ∧ t.hart.tcause = BitVec.ofNat 64 (2 ^ 63 + code) ∧ t.hart.tval = v ∧
      t.hart.pc = s.hart.tvec ∧ t.mem = s.mem ∧ SameX s t ∧ Loaded s P l t := by
  obtain ⟨⟨⟨c, ls, n, v', k', sm, i, b, rfl⟩, -, -, -⟩, hld⟩ := h
  generalize hu : (s.midLoad c ls n (s.hart.midLoad v' k' sm i b)).setVstart k = u at hm
  have hsuper : SuperMode (u.withHart Hart.settled) := by
    subst hu
    exact hs
  refine ⟨(u.withHart Hart.settled).withHart fun h => h.enter code v u.hart.suffix none, ?_, ?_⟩
  · unfold Act.run
    rw [hm]
    exact congrArg Host.Outcome.next (takeTrap_super hsuper _ _ _ _)
  · subst hu
    exact ⟨rfl, rfl, rfl, rfl, rfl, fun _ => rfl, hld.of_same ⟨rfl, rfl, rfl⟩⟩

/-- A load that waits before its first active element has changed no register. -/
theorem Running.waits {s u : State} {P : LoadPlan} (h : Running s P [] u) (hc : CanLoad s P) {vas : List Nat}
    (hv : ∀ va ∈ vas, ∃ loc, Translated s va .read loc) {k : Nat} {b : Option (List Nat)} {m : Act Unit}
    (hm : m s = .error (.wait false true) ((u.setVstart k).withBegun fun x => { x with acts := b })) :
    ∃ t, Act.run true (Act.dispatch .read vas m) s = .next t ∧ OnlyAccess s t ∧ t.hart.pc = s.hart.pc ∧
      t.hart.run = .stalled ∧ t.mem = s.mem ∧ t.hart.vstart = k ∧ Loaded s P [] t := by
  have hw : Running s P [] ((u.setVstart k).withBegun fun x => { x with acts := b }) :=
    (h.setVstart k).of_same ((h.setVstart k).during.withBegun rfl) (.refl _)
  have hk : ((u.setVstart k).withBegun fun x => { x with acts := b }).hart.vstart = k := rfl
  obtain ⟨c, -, hx⟩ := hw.during.xlateAll hc.clean hv
  have hd := Act.dispatch_wait (acc := .read) (vas := vas) hc.unacked hm hw.during.held
  rw [hx] at hd
  generalize (u.setVstart k).withBegun (fun x => { x with acts := b }) = w at hw hk hd
  obtain ⟨⟨⟨c', ls, n, v', k', sm, i, b, rfl⟩, hl, -, -⟩, hld⟩ := hw
  refine ⟨_, by unfold Act.run; rw [hd], ?_⟩
  exact ⟨⟨rfl, hl⟩, rfl, rfl, rfl, hk, hld.of_same ⟨rfl, rfl, rfl⟩⟩

end Sys2Proof.Machine
end

section
namespace Sys2Proof.Machine

open Claims

/-! Vector loads, ninth part: one element (R273, R277, R282, R289). -/

/-- An element of a gated load passes its gate; the others have none (R289). -/
def LoadMode.enter (mode : LoadMode) (lane : Option Nat) (idx : Nat → Nat) (i : Nat) : Act Unit :=
  match mode with
  | .gated wva word base => Act.opens lane wva word (base + idx i) i
  | _ => pure ()

/-- An acquire at die scope misses a line of a SYNC page that another die is the home of (R277). -/
def LoadMode.misses (mode : LoadMode) (loc : Loc) (die : Nat) : Bool :=
  match mode, loc with
  | .acquire true, .dev p true => p / 2 ^ 37 != die
  | _, _ => false

/-- An element of a load: its checks, its gate, and its read unless it misses. -/
theorem loadElem_eq (c : VCfg) (d : Reg) (eb : Nat) (mode : LoadMode) (addr idx : Nat → Nat) (i : Nat) :
    loadElem c d eb mode addr idx i = (do
      Act.check (addr i % eb == 0) 3 (wordOfNat (addr i))
      let loc ← Act.reach (addr i) .read true
      Act.check (mode == .plain || !loc.isIo) accessFault (wordOfNat (addr i))
      mode.enter (some (dieOfGroup c d.toNat i)) idx i
      if mode.misses loc (dieOfGroup c d.toNat i) then
        pure (none, fun s => s.withHart fun h => { h with smiss := setBits h.smiss i 1 1 })
      else do
        let read := Act.load (addr i) loc eb (some (dieOfGroup c d.toNat i))
        let x ← if loc.isIo then read.keep else read
        pure (if loc.isIo then some loc else none, fun s => s.withHart (·.setElem c d.toNat i x))) := by
  cases mode with
  | plain => rfl
  | acquire b => cases b with
    | true => rfl
    | false => rfl
  | gated a b c => rfl

theorem Act.check_ok {ok : Bool} (h : ok = true) (code : Nat) (v : Word) (s : State) : Act.check ok code v s = .ok () s := by
  rw [h]
  rfl

theorem Act.check_fails {ok : Bool} (h : ok = false) (code : Nat) (v : Word) (s : State) :
    Act.check ok code v s = .error (.trap code v) s := by
  rw [h]
  rfl

section
variable {s : State} {P : LoadPlan} {eb : Nat} {mode : LoadMode} {addr idx : Nat → Nat} {i : Nat} {loc : Loc}

/-- The gate of an element is open from every state of the load on. -/
def GateOpen (s : State) (mode : LoadMode) (lane : Option Nat) (idx : Nat → Nat) (i : Nat) : Prop :=
  ∀ t, During s t → ∃ u, mode.enter lane idx i t = .ok () u ∧ During s u ∧ SameLoaded t u

/-- What the plan says of an element is what it reads, or that it misses. -/
def PlansRead (s : State) (P : LoadPlan) (eb : Nat) (mode : LoadMode) (i : Nat) (loc : Loc) : Prop :=
  if mode.misses loc (dieOfGroup s.hart.cfg P.d.toNat i) then P.val i = none
  else P.val i = some (numAt s loc eb) ∧ Readable s loc eb

/-- An element that reaches its place through an open gate is put where the plan says. -/
theorem loadElem_put (hs : NoLinePoisoned s) (hr : Mapped s (addr i) .read loc) (ha : addr i % eb = 0)
    (hio : loc.isIo = false) (hg : GateOpen s mode (some (dieOfGroup s.hart.cfg P.d.toNat i)) idx i)
    (hv : PlansRead s P eb mode i loc) {t : State} (ht : During s t) :
    ∃ f u, loadElem s.hart.cfg P.d eb mode addr idx i t = .ok (none, f) u ∧ During s u ∧ SameLoaded t u ∧
      ∀ x, f x = x.withHart (P.put s.hart.cfg i) := by
  obtain ⟨c, hc, hreach⟩ := ht.reach hs hr
  obtain ⟨u, hu, hdu, hsu⟩ := hg _ (ht.withCoh hc)
  have hsame : SameLoaded t u := hsu
  have hcheck : (mode == .plain || !loc.isIo) = true := by simp [hio]
  have halign : (addr i % eb == 0) = true := by simp [ha]
  rw [loadElem_eq]
  by_cases hmiss : mode.misses loc (dieOfGroup s.hart.cfg P.d.toNat i) = true
  · have hval : P.val i = none := by
      unfold PlansRead at hv
      rwa [if_pos hmiss] at hv
    refine ⟨fun s => s.withHart fun h => { h with smiss := setBits h.smiss i 1 1 }, u, ?_, hdu, hsame, fun x => ?_⟩
    · refine (Act.bind_ok (Act.check_ok halign _ _ _)).trans ((Act.bind_ok hreach).trans
        ((Act.bind_ok (Act.check_ok hcheck _ _ _)).trans ((Act.bind_ok hu).trans ?_)))
      exact congrFun (if_pos hmiss) u
    · unfold LoadPlan.put
      rw [hval]
  · obtain ⟨hval, hread⟩ : P.val i = some (numAt s loc eb) ∧ Readable s loc eb := by
      unfold PlansRead at hv
      rwa [if_neg hmiss] at hv
    obtain ⟨c', hc', hload⟩ := hdu.load hs hread (addr i) (dieOfGroup s.hart.cfg P.d.toNat i)
    refine ⟨fun x => x.withHart (·.setElem s.hart.cfg P.d.toNat i (numAt s loc eb)), { u with coh := c' }, ?_,
      hdu.withCoh hc', hsame, fun x => ?_⟩
    · refine (Act.bind_ok (Act.check_ok halign _ _ _)).trans ((Act.bind_ok hreach).trans
        ((Act.bind_ok (Act.check_ok hcheck _ _ _)).trans ((Act.bind_ok hu).trans ?_)))
      refine (congrFun (if_neg hmiss) u).trans ?_
      rw [hio]
      exact Act.bind_ok hload
    · unfold LoadPlan.put
      rw [hval]

/-- An element whose address is misaligned traps with it. -/
theorem loadElem_misaligned (c : VCfg) (d : Reg) (ha : addr i % eb ≠ 0) (t : State) :
    loadElem c d eb mode addr idx i t = .error (.trap 3 (wordOfNat (addr i))) t := by
  rw [loadElem_eq]
  exact Act.bind_error (Act.check_fails (by simp [ha]) _ _ _)

-- gates

theorem gateOpen_plain (lane : Option Nat) : GateOpen s .plain lane idx i := fun t ht => ⟨t, rfl, ht, .refl t⟩

theorem gateOpen_acquire (b : Bool) (lane : Option Nat) : GateOpen s (.acquire b) lane idx i :=
  fun t ht => ⟨t, rfl, ht, .refl t⟩

/-- A word above an element's number opens its gate (R289). -/
theorem gateOpen_gated (hs : NoLinePoisoned s) {word : Loc} (hw : Readable s word 8) {base : Nat}
    (hlt : base + idx i < numAt s word 8) (wva die : Nat) : GateOpen s (.gated wva word base) (some die) idx i := by
  intro t ht
  by_cases hg : i < t.hart.begun.gates
  · exact ⟨t, Act.get_bind.trans (congrFun (if_pos hg) t), ht, .refl t⟩
  · obtain ⟨c, hc, hload⟩ := ht.load hs hw wva die
    refine ⟨_, ?_, (ht.withCoh hc).withBegun (f := fun b => { b with gates := i + 1 }) rfl, ?_⟩
    · refine Act.get_bind.trans ((congrFun (if_neg hg) t).trans ((Act.bind_ok hload).trans ?_))
      have hopen : Act.waitUntil (base + idx i < numAt s word 8) { t with coh := c } = .ok () { t with coh := c } := by
        unfold Act.waitUntil
        rw [decide_eq_true hlt]
        rfl
      exact (Act.bind_ok hopen).trans rfl
    · exact ⟨rfl, rfl, rfl⟩

/-- While the word is not above an element's number, the element waits at its gate. -/
theorem loadElem_shut (hs : NoLinePoisoned s) (hr : Mapped s (addr i) .read loc) (ha : addr i % eb = 0)
    (hio : loc.isIo = false) {word : Loc} (hw : Readable s word 8) {base : Nat} (hle : numAt s word 8 ≤ base + idx i) (wva : Nat)
    (d : Reg) {t : State} (ht : During s t) (hg : t.hart.begun.gates = 0) :
    ∃ u, loadElem s.hart.cfg d eb (.gated wva word base) addr idx i t = .error (.wait false false) u ∧ During s u ∧
      SameLoaded t u := by
  obtain ⟨c, hc, hreach⟩ := ht.reach hs hr
  obtain ⟨c', hc', hload⟩ := (ht.withCoh hc).load hs hw wva (dieOfGroup s.hart.cfg d.toNat i)
  have hcheck : (LoadMode.gated wva word base == .plain || !loc.isIo) = true := by simp [hio]
  have halign : (addr i % eb == 0) = true := by simp [ha]
  refine ⟨_, ?_, (ht.withCoh hc).withCoh hc', ⟨rfl, rfl, rfl⟩⟩
  rw [loadElem_eq]
  refine (Act.bind_ok (Act.check_ok halign _ _ _)).trans ((Act.bind_ok hreach).trans
    ((Act.bind_ok (Act.check_ok hcheck _ _ _)).trans (Act.bind_error ?_)))
  refine Act.get_bind.trans ((congrFun (if_neg ?_) _).trans ((Act.bind_ok hload).trans (Act.bind_error ?_)))
  · show ¬ i < t.hart.begun.gates
    omega
  · unfold Act.waitUntil
    rw [decide_eq_false (by omega)]
    rfl

end

end Sys2Proof.Machine
end

section
namespace Sys2Proof.Machine

open Claims

/-! Vector loads, tenth part: the plan of a load, and its claims (O33). -/

-- the hypotheses of the claims

theorem canLoad_of {s : State} {A : VAcc} (hA : A.ok s) (hu : Unhindered s) {P : LoadPlan} (hd : P.d = A.d) : CanLoad s P := by
  obtain ⟨hun, hp, -, hcut, hn, hb⟩ := hu
  obtain ⟨hw, he, hg, -⟩ := hA
  exact ⟨hun, hp, hcut, hn, hb, by omega, by rw [hd]; exact hg⟩

/-- The elements of an access that the budget allows pass it. -/
theorem passes_of_budgetAllows {s : State} (h : BudgetAllows s) (g : Num3) (c : Coherence) :
    Passes s s.hart.cfg.w (s.hart.actives g) none { s with coh := c } := by
  refine h.imp_right fun ⟨hb, hone⟩ => ⟨fun i hi => ?_, .inr (inBudget_congr rfl rfl hb)⟩
  obtain ⟨-, hlt, -⟩ := mem_actives_iff.mp hi
  have hle : i * s.hart.cfg.w ≤ (s.hart.vl - 1) * s.hart.cfg.w := Nat.mul_le_mul_right _ (by omega)
  unfold OneGranule at hone
  refine Nat.div_eq_of_lt ?_
  rcases Nat.eq_zero_or_pos s.hart.cfg.w with h0 | h0
  · rw [h0]
    omega
  · have : (s.hart.vl - 1) * s.hart.cfg.w + s.hart.cfg.w = s.hart.vl * s.hart.cfg.w := by
      rw [← Nat.succ_mul]
      congr 1
      omega
    omega

theorem fits_of_active {s : State} {g : Num3} {i : Nat} (h : Active s g i) (hu : Unhindered s) :
    i < s.hart.cfg.gm * s.hart.cfg.per := by
  obtain ⟨-, -, ⟨hf, -⟩, -⟩ := hu
  obtain ⟨-, hlt, -⟩ := h
  omega

theorem notIo_of_readable {s : State} {loc : Loc} {n : Nat} (h : Readable s loc n) : loc.isIo = false := by
  obtain ⟨ho, -⟩ := h
  cases loc with
  | io a => exact ho
  | _ => rfl

/-- The elements before an active one, and those from it on. -/
theorem actives_split {s : State} {g : Num3} {k : Nat} (h : Active s g k) :
    ∃ is js, s.hart.actives g = is ++ k :: js ∧ ∀ i, i ∈ is ↔ Active s g i ∧ i < k := by
  obtain ⟨is, js, he⟩ := List.append_of_mem (mem_actives_iff.mpr h)
  refine ⟨is, js, he, fun i => ?_⟩
  have hs := s.hart.actives_sorted g
  rw [he, List.pairwise_append] at hs
  obtain ⟨-, hk, hlt⟩ := hs
  rw [← mem_actives_iff, he, List.mem_append, List.mem_cons]
  constructor
  · exact fun hi => ⟨.inl hi, hlt i hi k (List.mem_cons_self ..)⟩
  · rintro ⟨hi | rfl | hi, hik⟩
    · exact hi
    · exact absurd hik (Nat.lt_irrefl _)
    · have := List.rel_of_pairwise_cons hk hi
      omega

-- the plan of a load

/-- Element i misses, as the claims say it. -/
def missed (s : State) (A : VAcc) (die : Bool) (loc : Nat → Loc) (i : Nat) : Prop := die = true ∧ Misses s A.d (loc i) i

theorem misses_iff_missed {s : State} {A : VAcc} {die : Bool} {mode : LoadMode}
    (hm : mode = .acquire die ∨ mode = .plain ∧ die = false) (loc : Nat → Loc) (i : Nat) :
    mode.misses (loc i) (dieOfGroup s.hart.cfg A.d.toNat i) = true ↔ missed s A die loc i := by
  unfold missed Misses dieOfGroup
  rcases hm with rfl | ⟨rfl, rfl⟩
  · cases die with
    | false => simp [LoadMode.misses]
    | true =>
      cases loc i with
      | dev p sync => cases sync <;> simp [LoadMode.misses]
      | _ => simp [LoadMode.misses]
  · simp [LoadMode.misses]

/-- The plan of a load: an element that does not miss takes the number at its place. -/
def loadPlan (s : State) (A : VAcc) (mode : LoadMode) (loc : Nat → Loc) (bit : Nat → Option Bool) : LoadPlan where
  d := A.d
  val i := if mode.misses (loc i) (dieOfGroup s.hart.cfg A.d.toNat i) then none else some (numAt s (loc i) A.eb)
  bit := bit

section
variable {s : State} {A : VAcc} {mode : LoadMode} {loc : Nat → Loc} {bit : Nat → Option Bool} {i : Nat}

theorem loadPlan_plansRead (hr : mode.misses (loc i) (dieOfGroup s.hart.cfg A.d.toNat i) = false → Readable s (loc i) A.eb) :
    PlansRead s (loadPlan s A mode loc bit) A.eb mode i (loc i) := by
  unfold PlansRead loadPlan
  dsimp only
  split
  · rfl
  · rename_i hm
    exact ⟨rfl, hr (by simpa using hm)⟩

/-- A place that an element misses is in device memory. -/
theorem LoadMode.misses_notIo {mode : LoadMode} {l : Loc} {die : Nat} (h : mode.misses l die = true) : l.isIo = false := by
  cases l with
  | io a => cases mode <;> simp [LoadMode.misses] at h
  | _ => rfl

/-- What holds of the elements of a load that can be read. -/
structure CanRead (s : State) (A : VAcc) (mode : LoadMode) (idx : Nat → Nat) (loc : Nat → Loc) (i : Nat) : Prop where
  active : Active s A.g i
  aligned : A.addr i % A.eb = 0
  mapped : Mapped s (A.addr i) .read (loc i)
  readable : mode.misses (loc i) (dieOfGroup s.hart.cfg A.d.toNat i) = false → Readable s (loc i) A.eb
  gate : GateOpen s mode (some (dieOfGroup s.hart.cfg A.d.toNat i)) idx i

theorem CanRead.notIo {idx : Nat → Nat} (h : CanRead s A mode idx loc i) : (loc i).isIo = false := by
  cases hm : mode.misses (loc i) (dieOfGroup s.hart.cfg A.d.toNat i) with
  | true => exact LoadMode.misses_notIo hm
  | false => exact notIo_of_readable (h.readable hm)

/-- Such an element passes. -/
theorem CanRead.passing {idx : Nat → Nat} (h : CanRead s A mode idx loc i) (hu : Unhindered s) (hb : bit i = none) :
    Passing s (loadPlan s A mode loc bit) (loadElem s.hart.cfg A.d A.eb mode A.addr idx) i := by
  obtain ⟨-, -, -, -, hn, -⟩ := id hu
  refine ⟨fits_of_active h.active hu, fun t ht => ?_⟩
  obtain ⟨f, u, hf, hd, hs, hact⟩ := loadElem_put (P := loadPlan s A mode loc bit) hn h.mapped h.aligned h.notIo h.gate
    (loadPlan_plansRead h.readable) ht
  refine ⟨f, u, hf, hd, hs, fun x => (hact x).trans ?_⟩
  unfold LoadPlan.effect
  rw [show (loadPlan s A mode loc bit).bit i = none from hb]

/-- The elements of VLDX: with .dup each also records whether its index is a duplicate (R282). -/
def recording (dup : Bool) (h : Hart) (vi : Reg) (g : Num3) (prep : Nat → Act Prepared) (i : Nat) : Act Prepared := do
  let (loc, f) ← prep i
  pure (loc, fun s => if dup then (f s).withHart (·.setMaskBit 0 i (h.duplicate vi g i)) else f s)

/-- What VLDX records of an element. -/
def recorded (dup : Bool) (h : Hart) (vi : Reg) (g : Num3) (i : Nat) : Option Bool :=
  if dup then some (h.duplicate vi g i) else none

theorem CanRead.recording {idx : Nat → Nat} (h : CanRead s A mode idx loc i) (hu : Unhindered s) (dup : Bool) (vi : Reg)
    (g : Num3) : Passing s (loadPlan s A mode loc (recorded dup s.hart vi g))
      (recording dup s.hart vi g (loadElem s.hart.cfg A.d A.eb mode A.addr idx)) i := by
  obtain ⟨hfits, hstep⟩ := h.passing (bit := fun _ => none) hu rfl
  refine ⟨hfits, fun t ht => ?_⟩
  obtain ⟨f, u, hf, hd, hs, hact⟩ := hstep t ht
  refine ⟨_, u, (Act.bind_ok hf).trans rfl, hd, hs, fun x => ?_⟩
  rw [hact x]
  cases dup with
  | true => rfl
  | false => rfl

end

-- a load that completes

/-- A load whose active elements pass completes with all of them written. -/
theorem load_completes {s : State} {A : VAcc} {P : LoadPlan} {prep : Nat → Act Prepared} {srcs : List Src} {vas : List Nat}
    (hA : A.ok s) (hu : Unhindered s) (hb : BudgetAllows s) (hd : P.d = A.d) (hp : ∀ i, Active s A.g i → Passing s P prep i) :
    ∃ t, Act.run true (Act.dispatch .read vas (Act.access A.g srcs id prep noCommit (pure ()))) s = .next t ∧ AccessDone s t ∧
      t.mem = s.mem ∧ t.regions = s.regions ∧ t.hart.acc = s.hart.acc ∧ t.hart.status = s.hart.status ∧
      Loaded s P (s.hart.actives A.g) t := by
  have hc := canLoad_of hA hu hd
  obtain ⟨u, hm, hr⟩ := access_all (c := s.coh) hc hc.clean srcs (fun i hi => hp i (mem_actives_iff.mp hi))
    (passes_of_budgetAllows hb A.g s.coh)
  exact hr.done (Act.dispatch_ok hc.unacked hm)

end Sys2Proof.Machine
end

section
namespace Sys2Proof.Machine

open Claims

/-! Vector loads, eleventh part: what the instructions are (R273, R281, R282), and their claims (O33). -/

-- configuration and addresses

theorem ewIs_of_ok {s : State} {A : VAcc} (h : A.ok s) : s.hart.ewIs A.w = true := by
  obtain ⟨-, hw, -⟩ := h
  unfold Hart.ewIs
  rw [hw]
  exact beq_self_eq_true _

theorem aligned_of_ok {s : State} {A : VAcc} (h : A.ok s) : aligned s.hart.cfg A.d = true := by
  obtain ⟨-, -, hd, -⟩ := h
  unfold aligned
  rw [hd]
  rfl

theorem aligned_idx_of_ok {s : State} {A : VAcc} (h : A.ok s) {v : Reg} (hv : A.idx = some v) :
    aligned s.hart.cfg v = true := by
  obtain ⟨-, -, -, hi⟩ := h
  unfold aligned
  rw [hi v hv]
  rfl

theorem strided_addr (s : State) (d a si : Reg) (g w : Num3) :
    (strided s d a si g w).addr = s.strideAddr a si (2 ^ w.toNat) := by
  funext i
  unfold strided State.strideAddr wrapInt
  rfl

-- the instructions

/-- What a load records of its elements: nothing, or with .dup which indices repeat (R282). -/
def RecordsIn (s : State) (A : VAcc) (dup : Bool) (bit : Nat → Option Bool) : Prop :=
  (dup = false → ∀ i, bit i = none) ∧ ∀ v, dup = true → A.idx = some v → bit = recorded true s.hart v A.g

/-- A load is one access, whose elements are prepared by `prep` and, when they can be read, do what their plan says. -/
structure LoadShape (s : State) (i : Instr) (A : VAcc) (die dup : Bool) (mode : LoadMode) (idx : Nat → Nat)
    (bit : Nat → Option Bool) (srcs : List Src) (vas : List Nat) (prep : Nat → Act Prepared) : Prop where
  how : mode = .acquire die ∨ mode = .plain ∧ die = false
  run : exec i s = Act.run true (Act.dispatch .read vas (Act.access A.g srcs id prep noCommit (pure ()))) s
  passing : ∀ loc j, CanRead s A mode idx loc j → Unhindered s → Passing s (loadPlan s A mode loc bit) prep j
  misaligned : ∀ j, A.addr j % A.eb ≠ 0 → ∀ t, prep j t = .error (.trap 3 (wordOfNat (A.addr j))) t
  records : RecordsIn s A dup bit

section
variable {s : State} {i : Instr} {A : VAcc} {die dup : Bool} {mode : LoadMode} {idx : Nat → Nat} {bit : Nat → Option Bool}
  {srcs : List Src} {vas : List Nat} {prep : Nat → Act Prepared}

/-- Such a load has no gates. -/
theorem LoadShape.gate (h : LoadShape s i A die dup mode idx bit srcs vas prep) (j : Nat) (lane : Option Nat) :
    GateOpen s mode lane idx j := by
  rcases h.how with rfl | ⟨rfl, -⟩
  · exact gateOpen_acquire _ _
  · exact gateOpen_plain _

/-- Where its elements miss is said alike by the claims and by the load. -/
theorem LoadShape.misses_iff (h : LoadShape s i A die dup mode idx bit srcs vas prep) (loc : Nat → Loc) (j : Nat) :
    mode.misses (loc j) (dieOfGroup s.hart.cfg A.d.toNat j) = true ↔ missed s A die loc j := misses_iff_missed h.how loc j

end

/-- An instruction is a load of an access. -/
def IsLoad (s : State) (i : Instr) (A : VAcc) (die dup : Bool) : Prop :=
  ∃ mode idx bit srcs vas prep, LoadShape s i A die dup mode idx bit srcs vas prep

/-- VLD and its acquire forms. -/
theorem isLoad_vld {s : State} {i : Instr} {word : Nat} {mode : LoadMode} {die : Bool} {d a si : Reg} {g w : Num3}
    (hx : exec i s = vld word mode d a si g w s) (hm : mode = .acquire die ∨ mode = .plain ∧ die = false)
    (hA : (strided s d a si g w).ok s) : IsLoad s i (strided s d a si g w) die false := by
  have hw : w ≠ 4 := by
    rintro rfl
    exact absurd hA.1 (by simp [strided])
  have hcfg : (!(s.hart.ewIs w && aligned s.hart.cfg d)) = false := by
    rw [show s.hart.ewIs w = true from ewIs_of_ok hA, show aligned s.hart.cfg d = true from aligned_of_ok hA]
    rfl
  refine ⟨mode, id, fun _ => none, [], (s.hart.reachable g []).1.map (s.strideAddr a si (2 ^ w.toNat)),
    loadElem s.hart.cfg d (2 ^ w.toNat) mode (strided s d a si g w).addr id, hm, hx.trans ?_,
    fun loc j hj hu => hj.passing hu rfl, fun j hj t => loadElem_misaligned _ _ hj t, fun _ _ => rfl, fun _ h => nomatch h⟩
  rw [strided_addr]
  refine (if_neg (ne_true_of_eq_false hcfg)).trans ?_
  exact congrArg (fun m => Act.run true m s) (if_neg hw)

/-- VLDX with its acquire and its .dup forms. -/
theorem isLoad_vldx {s : State} {i : Instr} {word : Nat} {mode : LoadMode} {die dup : Bool} {d a vi : Reg} {g w : Num3}
    (hx : exec i s = vldx word mode dup d a vi g w s) (hm : mode = .acquire die ∨ mode = .plain ∧ die = false)
    (hA : (indexed s d a vi g w).ok s)
    (hdup : dup = true → s.maskBusy 0 = false ∧ (indexed s d a vi g w).idx ≠ some (indexed s d a vi g w).d) :
    IsLoad s i (indexed s d a vi g w) die dup := by
  have hcfg : (!(s.hart.ewIs w && aligned s.hart.cfg d && aligned s.hart.cfg vi && !(dup && d == vi))) = false := by
    rw [show s.hart.ewIs w = true from ewIs_of_ok hA, show aligned s.hart.cfg d = true from aligned_of_ok hA,
      aligned_idx_of_ok hA (v := vi) rfl]
    cases dup with
    | false => rfl
    | true =>
      have hne : d ≠ vi := fun h => (hdup rfl).2 (congrArg some h.symm)
      simp [hne]
  refine ⟨mode, s.hart.el vi, recorded dup s.hart vi g, [.vec s.hart.cfg vi.toNat],
    (s.hart.reachable g [.vec s.hart.cfg vi.toNat]).1.map (s.indexAddr a vi (2 ^ w.toNat)),
    recording dup s.hart vi g (loadElem s.hart.cfg d (2 ^ w.toNat) mode (indexed s d a vi g w).addr (s.hart.el vi)), hm,
    hx.trans ?_, fun loc j hj hu => hj.recording hu dup vi g, fun j hj t => Act.bind_error (loadElem_misaligned _ _ hj t),
    ?_, ?_⟩
  · refine (if_neg (ne_true_of_eq_false hcfg)).trans ?_
    cases dup with
    | false => rfl
    | true =>
      have hfree : [0].any s.maskBusy = false := by simp [(hdup rfl).1]
      exact (if_pos rfl).trans (if_neg (ne_true_of_eq_false hfree))
  · rintro rfl _
    rfl
  · rintro v rfl hv
    obtain rfl := Option.some.inj hv
    rfl

/-- Every instruction of the claims is such a load. -/
theorem isLoad_of_loadOf {s : State} {i : Instr} {A : VAcc} {die dup : Bool} (h : loadOf s i = some (A, die, dup)) (hA : A.ok s)
    (hd : dup = true → s.maskBusy 0 = false ∧ A.idx ≠ some A.d) : IsLoad s i A die dup := by
  unfold loadOf at h
  split at h
  case h_13 => cases h
  all_goals
    obtain ⟨rfl, hdd⟩ := Prod.mk.inj (Option.some.inj h)
    obtain ⟨rfl, rfl⟩ := Prod.mk.inj hdd
  case h_1 => exact isLoad_vld rfl (.inr ⟨rfl, rfl⟩) hA
  case h_2 | h_3 | h_4 => exact isLoad_vld rfl (.inl rfl) hA
  case h_5 | h_9 => exact isLoad_vldx rfl (.inr ⟨rfl, rfl⟩) hA hd
  case h_6 | h_7 | h_8 | h_10 | h_11 | h_12 => exact isLoad_vldx rfl (.inl rfl) hA hd

end Sys2Proof.Machine
end

section
namespace Sys2Proof.Machine

open Claims

/-! Vector loads, twelfth part: the claims of loads that have no gate (R9, R273, R277, R282, R390). -/

/-- An index is a duplicate when an earlier element that the guard admits has it (R282). -/
theorem duplicate_iff (h : Hart) (v : Reg) (g : Num3) (i : Nat) :
    h.duplicate v g i = true ↔ ∃ j, j < i ∧ (g = 0 ∨ h.maskBit g.toNat j = true) ∧ h.el v j = h.el v i := by
  unfold Hart.duplicate Hart.guardBit
  simp only [List.any_eq_true, List.mem_range, Bool.and_eq_true, Bool.or_eq_true, decide_eq_true_eq, beq_iff_eq]

theorem among_of_mem {α : Type} {l : List Nat} {i : Nat} (h : i ∈ l) (f : Nat → Option α) : among l f i = f i := if_pos h

theorem among_of_not_mem {α : Type} {l : List Nat} {i : Nat} (h : i ∉ l) (f : Nat → Option α) : among l f i = none := if_neg h

theorem vectorLoadsReadTheirElements : VectorLoadsReadTheirElements := by
  intro i s A die dup loc hi hA hu hb hmap
  show _ → _ → _
  intro hread hdup
  obtain ⟨mode, idx, bit, srcs, vas, prep, hshape⟩ := isLoad_of_loadOf hi hA hdup
  obtain ⟨hplain, hrec⟩ := hshape.records
  have hmiss := hshape.misses_iff loc
  have hpass (j : Nat) (hj : Active s A.g j) : Passing s (loadPlan s A mode loc bit) prep j := by
    obtain ⟨hal, hmp⟩ := hmap j hj
    refine hshape.passing loc j ⟨hj, hal, hmp, fun hn => hread j hj fun hmj => ?_, hshape.gate j _⟩ hu
    rw [(hmiss j).mpr hmj] at hn
    cases hn
  obtain ⟨t, hx, hdone, hm, hr, hacc, hst, ⟨hg, hsm, hmask, hkept, -⟩⟩ :=
    load_completes (srcs := srcs) (vas := vas) hA hu hb rfl hpass
  have hval (j : Nat) : (loadPlan s A mode loc bit).val j = none ↔ missed s A die loc j := by
    rw [← hmiss j]
    unfold loadPlan
    simp
  refine ⟨t, hshape.run.trans hx, hdone, hm, hr, hacc, hst, fun j => ?_, ⟨_, hg, fun j => ⟨?_, ?_⟩⟩, fun hd k j => ?_,
    fun hd v hv => ?_⟩
  · rw [hsm j, hval j, mem_actives_iff]
    rfl
  · rintro ⟨hj, hn⟩
    rw [among_of_mem (mem_actives_iff.mpr hj)]
    exact if_neg fun hmj => hn ((hmiss j).mp hmj)
  · intro hn
    by_cases hj : j ∈ s.hart.actives A.g
    · rw [among_of_mem hj, hval j]
      by_contra hnm
      exact hn ⟨mem_actives_iff.mp hj, hnm⟩
    · exact among_of_not_mem hj _
  · unfold Hart.maskBit Hart.kreg
    rw [hkept (hplain hd)]
  · refine ⟨_, hmask, fun j => ⟨fun hj => ?_, fun hj => among_of_not_mem (fun h => hj (mem_actives_iff.mp h)) _⟩⟩
    rw [among_of_mem (mem_actives_iff.mpr hj)]
    refine ⟨s.hart.duplicate v A.g j, ?_, duplicate_iff s.hart v A.g j⟩
    show bit j = _
    rw [hrec v hd hv]
    rfl

theorem vectorLoadsStopAtTheFirstBadElement : VectorLoadsStopAtTheFirstBadElement := by
  intro i s A loc k hi hA hu hb hs hk hbad hgood
  obtain ⟨mode, idx, bit, srcs, vas, prep, hshape⟩ := isLoad_of_loadOf hi hA (fun h => nomatch h)
  have hmiss := hshape.misses_iff loc
  have hnone (j : Nat) : mode.misses (loc j) (dieOfGroup s.hart.cfg A.d.toNat j) = false := by
    rw [Bool.eq_false_iff, ne_eq, hmiss j]
    exact fun h => nomatch h.1
  obtain ⟨is, js, he, his⟩ := actives_split hk
  have hc := canLoad_of hA hu (P := loadPlan s A mode loc bit) rfl
  obtain ⟨u, hm, hr⟩ := access_upTo (c := s.coh) hc hc.clean srcs he (fun j hj => by
    obtain ⟨hact, hlt⟩ := (his j).mp hj
    obtain ⟨hal, hmp, hrd⟩ := hgood j hact hlt
    exact hshape.passing loc j ⟨hact, hal, hmp, fun _ => hrd, hshape.gate j _⟩ hu) (fun t _ => hshape.misaligned k hbad t)
    (passes_of_budgetAllows hb A.g s.coh)
  obtain ⟨t, hx, hv, hcause, htv, hpc, hmem, hsx, hld⟩ := hr.trapped hs (Act.dispatch_trap (vas := vas) hc.unacked hm)
  refine ⟨t, hshape.run.trans hx, hv, hcause, htv, hpc, hmem, hsx, _, hld.group, fun j => ⟨fun hj => ?_, fun hj => ?_⟩⟩
  · rw [among_of_mem ((his j).mpr hj)]
    exact if_neg (by rw [hnone j]; exact Bool.false_ne_true)
  · exact among_of_not_mem (fun h => hj ((his j).mp h)) _

end Sys2Proof.Machine
end

section
namespace Sys2Proof.Machine

open Claims

/-! Vector loads, last part: the gated loads (R287, R289), and the obligation. -/

section
variable {s : State} {k : Num3} {word : Loc} {va : Nat} {g : Num3}

/-- A bound word in memory of the module has a place. -/
theorem wordPlace_of_boundTo (hs : NoLinePoisoned s) (hb : s.hart.begun = Begun.fresh) (h : BoundTo s k va .read word) :
    ∃ c : Coherence, c.Clean ∧ Act.wordPlace va .read s = .ok word { s with coh := c } := by
  obtain ⟨-, -, -, hm, ⟨ho, -⟩, -⟩ := h
  obtain ⟨c, hc, hr⟩ := (During.refl hs hb).reach hs hm
  exact ⟨c, hc, (Act.bind_ok hr).trans ((Act.bind_ok (Act.check_ok (by rw [ho]; rfl) _ _ _)).trans rfl)⟩

theorem bound_of_boundTo (h : BoundTo s k va .read word) : Act.bound k s = .ok va s := by
  obtain ⟨ha, hne, -⟩ := h
  refine Act.get_bind.trans ((Act.bind_ok (Act.check_ok ?_ _ _ _)).trans ?_)
  · refine decide_eq_true fun hz => hne ?_
    rw [← ha, hz]
    rfl
  · exact congrArg (EStateM.Result.ok · s) ha

/-- With no element active the word is not reached (R274). -/
theorem gate_idle (hp : s.hart.poison = []) (h : BoundTo s k va .read word) (hn : s.hart.actives g = []) :
    Act.gate k g s = .ok .plain s := by
  refine (Act.bind_ok (bound_of_boundTo h)).trans (Act.get_bind.trans ?_)
  rw [Hart.reachable_clean hp, hn]
  rfl

/-- Else the gate is the word's place, and lines move at most. -/
theorem gate_gated (hs : NoLinePoisoned s) (hb : s.hart.begun = Begun.fresh) (hp : s.hart.poison = [])
    (h : BoundTo s k va .read word) {i : Nat} {is : List Nat} (hi : s.hart.actives g = i :: is) :
    ∃ c : Coherence, c.Clean ∧ Act.gate k g s = .ok (.gated va word (s.hart.wmBase k)) { s with coh := c } := by
  obtain ⟨c, hc, hw⟩ := wordPlace_of_boundTo hs hb h
  refine ⟨c, hc, (Act.bind_ok (bound_of_boundTo h)).trans (Act.get_bind.trans ?_)⟩
  rw [Hart.reachable_clean hp, hi, hw]
  rfl

end

/-- The access of a gated load, behind its gate. -/
def gatedAccess (s : State) (A : VAcc) (k : Num3) (x : Nat → Nat) (srcs : List Src) : Act Unit := do
  let mode ← Act.gate k A.g
  Act.access A.g srcs id (loadElem s.hart.cfg A.d A.eb mode A.addr x) noCommit (pure ())

/-- The addresses that a gated load translates. -/
def gatedVasOf (s : State) (A : VAcc) (k : Num3) : List Nat := s.gatedVas k ((s.hart.actives A.g).map A.addr)

/-- Every gated load is one access behind its gate. -/
theorem gated_shape {s : State} {i : Instr} {A : VAcc} {k : Num3} {x : Nat → Nat} (h : gatedOf s i = some (A, k, x))
    (hA : A.ok s) (hp : s.hart.poison = []) :
    ∃ srcs, exec i s = Act.run true (Act.dispatch .read (gatedVasOf s A k) (gatedAccess s A k x srcs)) s := by
  unfold gatedOf at h
  split at h
  · rename_i d a g w m
    obtain ⟨rfl, hkx⟩ := Prod.mk.inj (Option.some.inj h)
    obtain ⟨rfl, rfl⟩ := Prod.mk.inj hkx
    have hcfg : (!(s.hart.ewIs w && aligned s.hart.cfg d)) = false := by
      rw [show s.hart.ewIs w = true from ewIs_of_ok hA, show aligned s.hart.cfg d = true from aligned_of_ok hA]
      rfl
    refine ⟨[], Eq.trans (b := vldWm d a g w m s) rfl ((if_neg (ne_true_of_eq_false hcfg)).trans ?_)⟩
    rw [Hart.reachable_clean hp]
    unfold gatedVasOf gatedAccess
    rw [strided_addr]
    rfl
  · rename_i d a v ci g w m
    obtain ⟨rfl, hkx⟩ := Prod.mk.inj (Option.some.inj h)
    obtain ⟨rfl, rfl⟩ := Prod.mk.inj hkx
    have hcfg : (!(s.hart.ewIs w && aligned s.hart.cfg d && aligned s.hart.cfg v)) = false := by
      rw [show s.hart.ewIs w = true from ewIs_of_ok hA, show aligned s.hart.cfg d = true from aligned_of_ok hA,
        aligned_idx_of_ok hA (v := v) rfl]
      rfl
    refine ⟨[.vec s.hart.cfg v.toNat], Eq.trans (b := vldxWm d a v ci g w m s) rfl
      ((if_neg (ne_true_of_eq_false hcfg)).trans ?_)⟩
    rw [Hart.reachable_clean hp]
    rfl
  · cases h

theorem granuleStart_le (w i : Nat) : granuleStart w i ≤ i := by
  unfold granuleStart ceilDiv
  rcases Nat.eq_zero_or_pos w with rfl | hw
  · simp
  · have hle : i * w / 8192 * 8192 ≤ i * w := Nat.div_mul_le_self _ _
    refine Nat.le_of_lt_succ ((Nat.div_lt_iff_lt_mul hw).mpr ?_)
    rw [Nat.succ_mul]
    omega

/-- The addresses of a gated load translate. -/
theorem gatedVas_translated {s : State} {A : VAcc} {k : Num3} {word : Loc} {va : Nat} {loc : Nat → Loc}
    (hb : BoundTo s k va .read word) (hm : AllMapped s A .read loc) :
    ∀ v ∈ gatedVasOf s A k, ∃ l, Translated s v .read l := by
  intro v hv
  unfold gatedVasOf State.gatedVas at hv
  split at hv
  · cases hv
  · rcases List.mem_cons.mp hv with rfl | hv
    · obtain ⟨ha, -, -, ⟨ht, -⟩, -⟩ := hb
      exact ⟨word, by rw [ha]; exact ht⟩
    · obtain ⟨i, hi, rfl⟩ := List.mem_map.mp hv
      exact ⟨loc i, (hm i (mem_actives_iff.mp hi)).2.1⟩

/-- The plan of a gated load: every element takes the number at its place. -/
def gatedPlan (s : State) (A : VAcc) (loc : Nat → Loc) : LoadPlan := loadPlan s A .plain loc fun _ => none

/-- With every gate open, a gated load ends. -/
theorem gated_completes {s : State} {A : VAcc} {k : Num3} {x : Nat → Nat} {word : Loc} {va : Nat} {loc : Nat → Loc}
    (hA : A.ok s) (hu : Unhindered s) (hb : BudgetAllows s) (hw : BoundTo s k va .read word) (hm : AllMapped s A .read loc)
    (hr : ∀ i, Active s A.g i → Readable s (loc i) A.eb) (ho : ∀ i, Active s A.g i → s.hart.wmBase k + x i < numAt s word 8)
    (srcs : List Src) :
    ∃ u, gatedAccess s A k x srcs s = .ok () (u.setVstart 0).advance ∧ Running s (gatedPlan s A loc) (s.hart.actives A.g) u := by
  have hc := canLoad_of hA hu (P := gatedPlan s A loc) rfl
  cases hn : s.hart.actives A.g with
  | nil =>
    obtain ⟨u, hx, hrun⟩ := access_all (c := s.coh) (prep := loadElem s.hart.cfg A.d A.eb .plain A.addr x) hc hc.clean srcs
      (fun i hi => by rw [hn] at hi; cases hi) (passes_of_budgetAllows hb A.g s.coh)
    rw [hn] at hrun
    exact ⟨u, (Act.bind_ok (gate_idle hc.poison hw hn)).trans hx, hrun⟩
  | cons i is =>
    obtain ⟨c, hcl, hgate⟩ := gate_gated hc.clean hc.begun hc.poison hw hn
    obtain ⟨-, -, -, -, hword, -⟩ := id hw
    have hpass (j : Nat) (hj : j ∈ s.hart.actives A.g) :
        Passing s (gatedPlan s A loc) (loadElem s.hart.cfg A.d A.eb (.gated va word (s.hart.wmBase k)) A.addr x) j := by
      have hact := mem_actives_iff.mp hj
      obtain ⟨hal, hmp⟩ := hm j hact
      exact CanRead.passing (mode := .gated va word (s.hart.wmBase k)) (bit := fun _ => none)
        ⟨hact, hal, hmp, fun _ => hr j hact, gateOpen_gated hc.clean hword (ho j hact) va _⟩ hu rfl
    obtain ⟨u, hx, hrun⟩ := access_all hc hcl srcs hpass (passes_of_budgetAllows hb A.g c)
    rw [hn] at hrun
    exact ⟨u, (Act.bind_ok hgate).trans hx, hrun⟩

/-- With the first active element's gate closed, a gated load waits before it. -/
theorem gated_waits {s : State} {A : VAcc} {k : Num3} {x : Nat → Nat} {word : Loc} {va : Nat} {loc : Nat → Loc}
    (hA : A.ok s) (hu : Unhindered s) (hb : BudgetAllows s) (hw : BoundTo s k va .read word) (hm : AllMapped s A .read loc)
    (hr : ∀ i, Active s A.g i → Readable s (loc i) A.eb) {i : Nat} (hact : Active s A.g i)
    (hfirst : ∀ j, Active s A.g j → i ≤ j) (hshut : numAt s word 8 ≤ s.hart.wmBase k + x i) (srcs : List Src) :
    ∃ u n b, gatedAccess s A k x srcs s = .error (.wait false true) ((u.setVstart n).withBegun fun q => { q with acts := b }) ∧
      n ≤ i ∧ Running s (gatedPlan s A loc) [] u := by
  have hc := canLoad_of hA hu (P := gatedPlan s A loc) rfl
  obtain ⟨is, js, he, his⟩ := actives_split hact
  have hnil : is = [] := List.eq_nil_iff_forall_not_mem.mpr fun j hj => by
    obtain ⟨hja, hlt⟩ := (his j).mp hj
    have := hfirst j hja
    omega
  rw [hnil, List.nil_append] at he
  obtain ⟨c, hcl, hgate⟩ := gate_gated hc.clean hc.begun hc.poison hw he
  obtain ⟨-, -, -, -, hword, -⟩ := id hw
  obtain ⟨hal, hmp⟩ := hm i hact
  obtain ⟨u, b, hx, hrun⟩ := access_shut hc hcl srcs he (fun t ht hg =>
    loadElem_shut (idx := x) hc.clean hmp hal (notIo_of_readable (hr i hact)) hword hshut va A.d ht hg)
    (passes_of_budgetAllows hb A.g c)
  exact ⟨u, _, b, (Act.bind_ok hgate).trans hx, max_le hact.1 (granuleStart_le _ _), hrun⟩

theorem gatedLoadsWaitForTheirWatermark : GatedLoadsWaitForTheirWatermark := by
  intro i s A k x word va loc hi hA hu hb hw hm hr
  have hc := canLoad_of hA hu (P := gatedPlan s A loc) rfl
  obtain ⟨srcs, hrun⟩ := gated_shape hi hA hc.poison
  refine ⟨fun ho => ?_, fun i0 hact hfirst hshut => ?_⟩
  · obtain ⟨u, hx, hu'⟩ := gated_completes hA hu hb hw hm hr ho srcs
    obtain ⟨t, ht, hdone, hmem, -, -, -, hld⟩ := hu'.done (Act.dispatch_ok hc.unacked hx)
    refine ⟨t, hrun.trans ht, hdone, hmem, fun l j => ?_, _, hld.group, fun j => ⟨fun hj => ?_, fun hj => ?_⟩⟩
    · unfold Hart.maskBit Hart.kreg
      rw [hld.kept fun _ => rfl]
    · exact among_of_mem (mem_actives_iff.mpr hj) _
    · exact among_of_not_mem (fun h => hj (mem_actives_iff.mp h)) _
  · obtain ⟨u, n, b, hx, hn, hu'⟩ := gated_waits hA hu hb hw hm hr hact hfirst hshut srcs
    obtain ⟨t, ht, hacc, hpc, hstall, hmem, hv, hld⟩ := hu'.waits hc (gatedVas_translated hw hm) hx
    obtain ⟨hvec, hmask, -⟩ := hld.idle rfl
    refine ⟨t, hrun.trans ht, hacc, hpc, hstall, hmem, fun r => ?_, fun l j => ?_, hv.trans_le hn⟩
    · unfold Hart.vreg
      rw [hvec]
    · unfold Hart.maskBit Hart.kreg
      rw [hmask]

/-- Settles O33: a load goes through its elements as its plan says, up to the first that traps or waits. -/
theorem vectorLoadsComplete : Obligations.VectorLoadsComplete :=
  ⟨vectorLoadsReadTheirElements, vectorLoadsStopAtTheFirstBadElement, gatedLoadsWaitForTheirWatermark⟩

end Sys2Proof.Machine
end

section
namespace Sys2Proof.Machine

open Claims

/-! What a step takes first: a pending event, a picked hart, or a clock of the cores (R21, R133, R134), and the order of the
checks of a fetch (R117). -/

-- a pending event

/-- The oldest pending event comes before any instruction. -/
theorem step_of_event {s : State} {e : Instr} {rest : List Instr} (h : s.inbox = e :: rest) :
    step s = handle e (tick { s with inbox := rest }) := by
  unfold step
  rw [h]

/-- With power, or at the return of power, an event has its effect. -/
theorem handle_eq_exec {e : Instr} {s : State} (h : Powered s ∨ isBoot e = true) : handle e s = exec e s := by
  unfold handle Powered at *
  refine if_neg fun hoff => ?_
  obtain ⟨hp, hb⟩ := hoff
  rcases h with h | h
  · exact h hp
  · simp [h] at hb

/-- In Off nothing but the return of power acts (R21). -/
theorem handle_of_off {e : Instr} {s : State} (hp : ¬ Powered s) (hb : isBoot e = false) : handle e s = .next s := by
  unfold handle Powered at *
  exact if_pos ⟨not_not.mp hp, by simp [hb]⟩

theorem isBoot_iff {e : Instr} : isBoot e = true ↔ ∃ fails, e = .boot fails := by
  constructor
  · intro h
    cases e
    case boot fails => exact ⟨fails, rfl⟩
    all_goals cases h
  · rintro ⟨fails, rfl⟩
    rfl

-- no event

theorem step_of_off {s : State} (hin : s.inbox = []) (hp : s.svc.power = .off) : step s = .fault .poweredOff := by
  unfold step
  rw [hin]
  exact if_pos hp

/-- With no event and no hart picked, a clock of the cores passes (R134). -/
theorem step_of_unpicked {s : State} (hin : s.inbox = []) (hp : Powered s) (hpick : s.picked = []) :
    step s = .next ((tick s).round waits).goOn := by
  unfold step
  rw [hin, hpick]
  exact if_neg hp

/-- The turn of a picked hart, and what goes on after it. -/
theorem step_of_pick {s t : State} {p : Nat} {rest : List Nat} (hin : s.inbox = []) (hp : Powered s) (hpick : s.picked = p :: rest)
    (ht : issue p (tick { s with picked := rest }) = .next t) : step s = .next t.goOn := by
  unfold step
  split
  · rename_i heq
    simp [hin] at heq
  · simp only [if_neg (show ¬ s.svc.power = .off from hp), hpick, ht]

theorem tick_hart? (s : State) (hid : Nat) : (tick s).hart? hid = s.hart? hid := by
  simp only [State.hart?, State.placed, tick_hart, tick_parked]

/-- A picked hart that may not issue is passed over (R133). -/
theorem issue_of_held_back {s : State} {p : Nat} {h : Hart} (hh : s.hart? p = some h) (hi : ¬ MayIssue s h) :
    issue p s = .next (s.updHart p fun h => { h with age := 0, cut := none, gatedAt := s.svc.gated }) := by
  have hable : s.able h = false := by
    rw [← Bool.not_eq_true, State.able_iff]
    exact hi
  unfold issue
  simp only [hh, hable]
  rfl

-- a clock of the cores

/-- What a clock of the cores does to a hart: it may arrive, have words fetched, become ready or stalled, and age. -/
structure Hart.Clocked (h g : Hart) : Prop where
  only : g = { h with run := g.run, fbuf := g.fbuf, age := g.age, arriving := g.arriving, since := g.since, placedAt := g.placedAt }
  arrived : h.arriving = false → g.arriving = false

theorem Hart.Clocked.refl (h : Hart) : h.Clocked h := ⟨rfl, id⟩

theorem Hart.Clocked.trans {h g k : Hart} (a : h.Clocked g) (b : g.Clocked k) : h.Clocked k :=
  ⟨by rw [b.only, a.only], fun n => b.arrived (a.arrived n)⟩

/-- What it does to the module: each hart keeps its place, and only contexts that arrive have their clocks counted (R81). -/
structure State.Clocked (s t : State) : Prop where
  mem : t.mem = s.mem
  regions : t.regions = s.regions
  lu : (∀ h ∈ s.placed, h.arriving = false) → t.lu = s.lu
  harts : ∃ f : Hart → Hart, (∀ h, Hart.Clocked h (f h)) ∧ t.placed = s.placed.map f

theorem State.Clocked.of_placed {s t : State} (hm : t.mem = s.mem) (hr : t.regions = s.regions) (hl : t.lu = s.lu)
    (hp : t.placed = s.placed) : s.Clocked t :=
  ⟨hm, hr, fun _ => hl, id, Hart.Clocked.refl, by simp [hp]⟩

theorem State.Clocked.refl (s : State) : s.Clocked s := .of_placed rfl rfl rfl rfl

/-- With no context arriving before, none is arriving after. -/
theorem State.Clocked.arrived {s t : State} (h : s.Clocked t) (hs : ∀ h ∈ s.placed, h.arriving = false) :
    ∀ g ∈ t.placed, g.arriving = false := by
  obtain ⟨f, hf, hp⟩ := h.harts
  intro g hg
  obtain ⟨k, hk, rfl⟩ := List.mem_map.mp (hp ▸ hg)
  exact (hf k).arrived (hs k hk)

theorem State.Clocked.trans {s t u : State} (a : s.Clocked t) (b : t.Clocked u) : s.Clocked u where
  mem := b.mem.trans a.mem
  regions := b.regions.trans a.regions
  lu hs := (b.lu (a.arrived hs)).trans (a.lu hs)
  harts := by
    obtain ⟨f, hf, hp⟩ := a.harts
    obtain ⟨g, hg, hq⟩ := b.harts
    exact ⟨g ∘ f, fun h => (hf h).trans (hg (f h)), by rw [hq, hp, List.map_map]⟩

theorem State.clocked_foldl {α : Type} {f : State → α → State} (hf : ∀ (s : State) a, s.Clocked (f s a)) (l : List α) (s : State) :
    s.Clocked (l.foldl f s) := by
  induction l generalizing s with
  | nil => exact .refl s
  | cons a l ih => exact (hf s a).trans (ih (f s a))

theorem State.clocked_updHart (s : State) (hid : Nat) {f : Hart → Hart} (hf : ∀ h : Hart, h.Clocked (f h)) :
    s.Clocked (s.updHart hid f) := by
  refine ⟨rfl, rfl, fun _ => rfl, fun h => if h.hid = hid then f h else h, fun h => ?_, rfl⟩
  dsimp only
  split
  · exact hf h
  · exact .refl h

theorem Hart.clocked_land (clock : Nat) (h : Hart) : h.Clocked (h.land clock) := by
  unfold Hart.land
  split
  · exact ⟨rfl, fun _ => rfl⟩
  · exact .refl h

/-- Counting the clocks of migrations that have ended touches the launch unit alone. -/
theorem State.countLanded_frame (l : List Hart) (s : State) :
    let t := l.foldl (fun s h => s.updLHart h.lid h.j (LHart.landed s.clock)) s
    t.mem = s.mem ∧ t.regions = s.regions ∧ t.placed = s.placed := by
  induction l generalizing s with
  | nil => exact ⟨rfl, rfl, rfl⟩
  | cons h l ih => exact ih (s.updLHart h.lid h.j (LHart.landed s.clock))

/-- Contexts that have been loaded arrive (R132); with none on its way the launch unit is as before. -/
theorem State.clocked_land (s : State) : s.Clocked s.land := by
  unfold State.land
  obtain ⟨hmem, hreg, hpl⟩ := State.countLanded_frame (s.placed.filter (·.arriving)) (s.eachHart (Hart.land s.clock))
  refine ⟨hmem, hreg, fun hs => ?_, Hart.land s.clock, Hart.clocked_land s.clock, hpl⟩
  have hnone : s.placed.filter (·.arriving) = [] :=
    List.filter_eq_nil_iff.mpr fun h hh => by simp [hs h hh]
  rw [hnone]
  rfl

/-- A fetch unit fills a buffer at most (R127). -/
theorem State.clocked_fetchBlock (s : State) (core part : Nat) : s.Clocked (s.fetchBlock core part) := by
  have hturn : s.Clocked { s with fetchTurn := s.fetchTurn.setIfInBounds core ((part + 1) % 4) } := .of_placed rfl rfl rfl rfl
  unfold State.fetchBlock
  dsimp only
  split
  · exact hturn
  · exact hturn.trans (State.clocked_updHart _ _ fun h => ⟨rfl, id⟩)

/-- A hart becomes ready or stalled, and its age may go back to 0 (R133, R134). -/
theorem State.clocked_refresh (waits : State → Bool) (s : State) (hid : Nat) : s.Clocked (s.refresh waits hid) := by
  unfold State.refresh
  split
  · exact .refl s
  · split
    · exact .refl s
    · split
      · exact State.clocked_updHart s hid fun h => ⟨rfl, id⟩
      · exact State.clocked_updHart s hid fun h => ⟨rfl, id⟩

/-- Who is picked, and where the pickers go on, is no hart's. -/
theorem State.Clocked.withPicks {s t : State} (h : s.Clocked t) (picked : List Nat) (rr : Vector Nat 384) :
    s.Clocked { t with picked := picked, rr := rr } := h.trans (.of_placed rfl rfl rfl rfl)

/-- The pickers change ages and their own pointers (R134). -/
theorem State.clocked_pickPart (s : State) (core part : Nat) : s.Clocked (s.pickPart core part) := by
  unfold State.pickPart
  dsimp only
  refine State.Clocked.withPicks (State.clocked_foldl (fun t h => ?_) _ s) _ _
  exact State.clocked_updHart t h.hid fun g => ⟨rfl, id⟩

theorem State.clocked_serveStrips (s : State) : s.Clocked s.serveStrips := (State.Clocked.refl s).withPicks _ s.rr

/-- The stages of a clock, one after another. -/
theorem State.clocked_round (waits : State → Bool) (s : State) : s.Clocked (s.round waits) := by
  unfold State.round
  extract_lets landed fetched ready
  have hfetched : landed.Clocked fetched := State.clocked_foldl (fun t c => t.clocked_fetchBlock c _) _ landed
  have hready : fetched.Clocked ready := State.clocked_foldl (State.clocked_refresh waits) _ fetched
  have hpicked : ready.Clocked (partitions.foldl (fun t q => t.pickPart q.1 q.2) ready) := by
    apply State.clocked_foldl
    exact fun t q => t.clocked_pickPart q.1 q.2
  exact s.clocked_land.trans <| hfetched.trans <| hready.trans <| hpicked.trans (State.clocked_serveStrips _)

theorem State.clocked_tick (s : State) : s.Clocked (tick s) := .of_placed rfl rfl rfl rfl

/-- The units that work by themselves post their next events. -/
theorem State.clocked_goOn (s : State) : s.Clocked s.goOn := by
  unfold State.goOn
  split
  · exact .of_placed rfl rfl rfl rfl
  · exact .refl s

/-- What a hart holds after a clock of the cores: its registers are as before. -/
theorem State.Clocked.registers {s t : State} (h : s.Clocked t) {i : Nat} {q : Hart} (hq : s.placed[i]? = some q) :
    ∃ g, t.placed[i]? = some g ∧ g.hid = q.hid ∧ g.x = q.x ∧ g.pc = q.pc ∧ g.status = q.status ∧ g.vl = q.vl ∧
      g.vtype = q.vtype ∧ g.vstart = q.vstart ∧ g.acc = q.acc ∧ g.k = q.k ∧ g.v = q.v := by
  obtain ⟨f, hf, hp⟩ := h.harts
  refine ⟨f q, by rw [hp, List.getElem?_map, hq]; rfl, ?_⟩
  rw [(hf q).only]
  exact ⟨rfl, rfl, rfl, rfl, rfl, rfl, rfl, rfl, rfl, rfl⟩

theorem State.Clocked.placed_length {s t : State} (h : s.Clocked t) : t.placed.length = s.placed.length := by
  obtain ⟨f, -, hp⟩ := h.harts
  rw [hp, List.length_map]

-- the fetch

theorem fetch_misaligned {s : State} (h : s.hart.pc.toNat % 4 ≠ 0) : fetch s = .error (3, s.hart.pc) := by
  unfold fetch
  exact if_pos h

theorem fetch_outside_text {s : State} (h : s.hart.pc.toNat % 4 = 0) (ht : s.inText s.hart.pc.toNat = false) :
    fetch s = .error (6, s.hart.pc) := by
  unfold fetch
  simp only [h, ht, ne_eq, not_true_eq_false, if_false, Bool.not_false, if_true]

/-- Past alignment and the text bound, a fetch is what its translation gives. -/
theorem fetch_in_text {s : State} (h : s.hart.pc.toNat % 4 = 0) (ht : s.inText s.hart.pc.toNat = true) :
    (∀ c, s.xlate s.hart.pc.toNat .fetch = .error c → fetch s = .error (c, s.hart.pc)) ∧
      ∀ a sy u, s.xlate s.hart.pc.toNat .fetch = .ok (.dev a sy, u) →
        fetch s = if u.linePoisoned (a / 128) then .error (7, s.hart.pc)
          else .ok (BitVec.ofNat 32 (u.memNat a 4), u.fetchMoves (.dev a sy)) := by
  unfold fetch
  simp only [h, ht, ne_eq, not_true_eq_false, if_false, Bool.not_true, Bool.false_eq_true]
  constructor
  · intro c hc
    rw [hc]
  · intro a sy u hu
    rw [hu]

/-- A fetch moves copies of lines alone (R127, R253). -/
theorem State.fetchMoves_coh (s : State) (a : Nat) (sy : Bool) :
    s.fetchMoves (.dev a sy) = { s with coh := (s.fetchMoves (.dev a sy)).coh } := by
  cases sy <;> rfl

-- the obligation

theorem step_takes_pending_event (s : State) (e : Instr) (rest : List Instr) (h : s.inbox = e :: rest) :
    let t := tick { s with inbox := rest }
    (Powered s ∨ (∃ fails, e = .boot fails) → step s = exec e t) ∧
      (¬ Powered s → (∀ fails, e ≠ .boot fails) → step s = .next t) := by
  refine ⟨fun hp => ?_, fun hp hb => ?_⟩
  · exact (step_of_event h).trans (handle_eq_exec (hp.imp id isBoot_iff.mpr))
  · refine (step_of_event h).trans (handle_of_off hp (Bool.eq_false_iff.mpr fun hboot => ?_))
    obtain ⟨fails, rfl⟩ := isBoot_iff.mp hboot
    exact hb fails rfl

/-- Settles O56: the branches of a step one by one; a clock of the cores is a chain of changes that keep every register, and the
fetch's checks come in the order of R117. -/
theorem stepTakesEventsFirst : Obligations.StepTakesEventsFirst := by
  refine ⟨step_takes_pending_event, fun s => step_of_off, fun s hin hp hpick => ?_, fun s p rest h hin hp hpick hh hi => ?_,
    fun s => ⟨fetch_misaligned, fetch_outside_text, fun ha ht => ?_⟩⟩
  · have hc : s.Clocked ((tick s).round waits).goOn :=
      s.clocked_tick.trans <| ((tick s).clocked_round waits).trans (State.clocked_goOn _)
    exact ⟨_, step_of_unpicked hin hp hpick, hc.mem, hc.regions, hc.lu, hc.placed_length, fun _ _ => hc.registers⟩
  · have hh' : (tick { s with picked := rest }).hart? p = some h := (tick_hart? _ p).trans hh
    exact step_of_pick hin hp hpick (issue_of_held_back hh' hi)
  · obtain ⟨herr, hok⟩ := fetch_in_text ha ht
    refine ⟨herr, fun a sy u hu => ⟨fun hb => ?_, fun hb => ⟨_, ?_, u.fetchMoves_coh a sy⟩⟩⟩
    · rw [hok a sy u hu, hb]
      rfl
    · rw [hok a sy u hu, hb]
      rfl

end Sys2Proof.Machine
end

section
namespace Sys2Proof.Machine

open Claims

/-! A thermal trip and STRICTPRE (R25, R41): the trip ends the live launches one after another, and a launch that waits on
one of them under STRICTPRE has its prerequisite settled before its own turn comes. -/

/-- A launch as a card of the firmware with HARTS = 1 makes it, under this id. -/
def admittedLaunch (lid : Nat) : Launch :=
  { State.reset.makeLaunch ⟨true, 0, 0, 0, 0⟩ (2 ^ 32) ⟨0, 0, 0x1000, 0x1000, 0, true, [], 0⟩ 1 0 with lid := lid }

/-- It is ready, and no slot has been found for its hart yet. -/
def readyLaunch : Launch := { admittedLaunch 1 with state := 1, tmet := some 0 }

/-- It is queued until launch 1 has retired normally: STRICTPRE, and a "launch ended" entry (R41). -/
def strictLaunch : Launch := { admittedLaunch 2 with strictPre := true, pre := [⟨1, 1, 0, false⟩] }

/-- The module after reset, with these two launches. -/
def dependingState : State :=
  { State.reset with lu := { State.reset.lu with launches := [readyLaunch, strictLaunch], nextLid := 3 } }

/-- The state and CAUSE of a launch after an answer. -/
def launchAfter (a : Answer) (lid : Nat) : Option (Nat × Nat) :=
  match a with
  | .next t => (t.launch? lid).map fun l => (l.state, l.cause)
  | _ => none

/-- At 110 degrees launch 1 ends as DELIVFAIL 4, and so launch 2 as PREFAIL. -/
theorem trip_prefails_strictLaunch :
    launchAfter (exec (.powerReading 0 1100) dependingState) 1 = some (13, 4) ∧
      launchAfter (exec (.powerReading 0 1100) dependingState) 2 = some (12, 0) :=
  ⟨by decide +kernel, by decide +kernel⟩

/-- Refutes O47: at a thermal trip a launch that waits under STRICTPRE on another live launch becomes PREFAIL, not DELIVFAIL 4.
The delivery failure of the other settles its prerequisite first (R41), and a launch that is final is not ended again. -/
theorem not_powerStatesFollowTheirRules : ¬ Obligations.PowerStatesFollowTheirRules := by
  intro h
  have hpower : Powered dependingState := by
    intro hoff
    cases hoff
  obtain ⟨t, ht, -, -, -, hended⟩ := (h.1 0 1100 dependingState hpower).2 (by decide) rfl
  have hafter := trip_prefails_strictLaunch.2
  rw [ht] at hafter
  obtain ⟨l, hl, hstate⟩ := Option.map_eq_some_iff.mp hafter
  have h13 : l.state = 13 := (hended 2 strictLaunch rfl rfl rfl (by decide) l hl).1
  simp [h13] at hstate

end Sys2Proof.Machine
end

section
namespace Sys2Proof.Machine

open Claims

/-! Ends of launches, first part: what the launch unit's own operations change (R41, R80, R83). -/

-- the records of one id

theorem State.launch?_lid {s : State} {lid : Nat} {l : Launch} (h : s.launch? lid = some l) : l.lid = lid := by
  simpa using List.find?_some h

theorem State.launch?_mem {s : State} {lid : Nat} {l : Launch} (h : s.launch? lid = some l) : l ∈ s.lu.launches :=
  List.mem_of_find?_eq_some h

/-- What an id names after its records have changed. -/
theorem State.launch?_updLaunch (s : State) {lid : Nat} {f : Launch → Launch} (hf : ∀ l : Launch, (f l).lid = l.lid) (id : Nat) :
    (s.updLaunch lid f).launch? id = (s.launch? id).map fun l => if l.lid = lid then f l else l := by
  have hp : (fun l : Launch => decide (l.lid = id)) ∘ (fun l => if l.lid = lid then f l else l) = fun l => decide (l.lid = id) := by
    funext l
    show decide ((if l.lid = lid then f l else l).lid = id) = _
    split
    · rw [hf]
    · rfl
  show (s.lu.launches.map fun l => if l.lid = lid then f l else l).find? (fun l => decide (l.lid = id)) = _
  rw [List.find?_map, hp]
  rfl

/-- Every record of an id has a property. -/
def State.Records (s : State) (lid : Nat) (P : Launch → Prop) : Prop := ∀ l ∈ s.lu.launches, l.lid = lid → P l

theorem State.Records.of_launch? {s : State} {lid : Nat} {P : Launch → Prop} (h : s.Records lid P) {l : Launch}
    (hl : s.launch? lid = some l) : P l := h l (State.launch?_mem hl) (State.launch?_lid hl)

/-- A change of the records of the id itself. -/
theorem State.records_updLaunch {s : State} {lid : Nat} {f : Launch → Launch} {P : Launch → Prop} (hf : ∀ l : Launch, P (f l)) :
    (s.updLaunch lid f).Records lid P := by
  intro l hl hid
  obtain ⟨q, -, rfl⟩ := List.mem_map.mp hl
  by_cases hq : q.lid = lid
  · rw [if_pos hq]
    exact hf q
  · rw [if_neg hq] at hid
    exact absurd hid hq

/-- A change that keeps the property. -/
theorem State.Records.updLaunch {s : State} {lid : Nat} {P : Launch → Prop} (h : s.Records lid P) {id : Nat} {f : Launch → Launch}
    (hf : ∀ l : Launch, l.lid = id → (f l).lid = lid → l.lid = lid ∧ (P l → P (f l))) : (s.updLaunch id f).Records lid P := by
  intro l hl hid
  obtain ⟨q, hq, rfl⟩ := List.mem_map.mp hl
  by_cases hi : q.lid = id
  · rw [if_pos hi] at hid ⊢
    obtain ⟨hlid, hP⟩ := hf q hi hid
    exact hP (h q hq hlid)
  · rw [if_neg hi] at hid ⊢
    exact h q hq hid

-- what the operations leave unchanged

@[simp] theorem State.trackGrant_lu (s : State) : s.trackGrant.lu = s.lu := by
  unfold State.trackGrant; dsimp only; split <;> rfl
@[simp] theorem State.trackGrant_hart (s : State) : s.trackGrant.hart = s.hart := by
  unfold State.trackGrant; dsimp only; split <;> rfl
@[simp] theorem State.trackGrant_parked (s : State) : s.trackGrant.parked = s.parked := by
  unfold State.trackGrant; dsimp only; split <;> rfl
@[simp] theorem State.trackGrant_mem (s : State) : s.trackGrant.mem = s.mem := by
  unfold State.trackGrant; dsimp only; split <;> rfl

/-- What the launch unit decides by itself touches no memory and no placed hart. -/
structure State.Decides (s t : State) : Prop where
  mem : t.mem = s.mem
  hart : t.hart = s.hart
  parked : t.parked = s.parked

theorem State.Decides.refl (s : State) : s.Decides s := ⟨rfl, rfl, rfl⟩

theorem State.Decides.trans {s t u : State} (a : s.Decides t) (b : t.Decides u) : s.Decides u :=
  ⟨b.mem.trans a.mem, b.hart.trans a.hart, b.parked.trans a.parked⟩

theorem State.decides_updLaunch (s : State) (lid : Nat) (f : Launch → Launch) : s.Decides (s.updLaunch lid f) := ⟨rfl, rfl, rfl⟩

theorem State.decides_toFinal (s : State) (lid code : Nat) : s.Decides (s.toFinal lid code) := by
  unfold State.toFinal
  dsimp only
  split
  · exact ⟨by simp, by simp, by simp⟩
  · exact ⟨by simp, by simp, by simp⟩

theorem State.decides_settleOne (s : State) (lid : Nat) : s.Decides (s.settleOne lid) := by
  unfold State.settleOne
  split
  · exact .refl s
  · split
    · exact .refl s
    · split
      · exact (s.decides_updLaunch lid _).trans (State.decides_toFinal _ lid 12)
      · dsimp only
        split
        · exact ⟨rfl, rfl, rfl⟩
        · exact s.decides_updLaunch lid _

theorem State.decides_foldl {α : Type} {f : State → α → State} (hf : ∀ (s : State) a, s.Decides (f s a)) (l : List α) (s : State) :
    s.Decides (l.foldl f s) := by
  induction l generalizing s with
  | nil => exact .refl s
  | cons a l ih => exact (hf s a).trans (ih _)

theorem State.decides_settle (n : Nat) (s : State) : s.Decides (State.settle n s) := by
  induction n generalizing s with
  | zero => exact .refl s
  | succ n ih => exact (State.decides_foldl State.decides_settleOne _ s).trans (ih _)

theorem State.decides_finalize (s : State) (lid code : Nat) : s.Decides (s.finalize lid code) :=
  (s.decides_toFinal lid code).trans (State.decides_settle _ _)

-- the records after an end

theorem mem_of_mem_ageOut {l : Launch} {ls : List Launch} (h : l ∈ ageOut ls) : l ∈ ls := by
  unfold ageOut at h
  split at h
  · exact h
  · exact List.mem_of_mem_filter h

/-- A record after a launch has become final is one before, with the final state if it is that launch's. -/
theorem State.toFinal_launches {s : State} {lid code : Nat} {l : Launch} (h : l ∈ (s.toFinal lid code).lu.launches) :
    ∃ q ∈ s.lu.launches, ∃ hs, l = if q.lid = lid then { q with state := code, ending := none, tfinal := some s.clock, handles := hs }
      else q := by
  have hm : l ∈ (s.updLaunch lid fun l => { l with
      state := code, ending := none, tfinal := some s.clock
      handles := l.handles.keep (s.ops.filter fun o => o.lid == lid && !o.scratch && code == 8) }).lu.launches := by
    unfold State.toFinal at h
    dsimp only at h
    rw [State.trackGrant_lu] at h
    split at h
    · exact mem_of_mem_ageOut h
    · exact mem_of_mem_ageOut h
  obtain ⟨q, hq, rfl⟩ := List.mem_map.mp hm
  exact ⟨q, hq, _, rfl⟩

/-- The records of the launch that becomes final. -/
theorem State.Records.toFinal {s : State} {lid code : Nat} {P Q : Launch → Prop} (h : s.Records lid P)
    (hP : ∀ (l : Launch) c hs, P l → Q { l with state := code, ending := none, tfinal := c, handles := hs }) :
    (s.toFinal lid code).Records lid Q := by
  intro l hl hid
  obtain ⟨q, hq, hs, rfl⟩ := State.toFinal_launches hl
  by_cases hi : q.lid = lid
  · rw [if_pos hi]
    exact hP q _ _ (h q hq hi)
  · rw [if_neg hi] at hid
    exact absurd hid hi

/-- Those of any other launch stay. -/
theorem State.Records.toFinal_other {s : State} {lid id code : Nat} {P : Launch → Prop} (h : s.Records lid P) (hne : id ≠ lid) :
    (s.toFinal id code).Records lid P := by
  intro l hl hid
  obtain ⟨q, hq, hs, rfl⟩ := State.toFinal_launches hl
  by_cases hi : q.lid = id
  · rw [if_pos hi] at hid
    exact absurd (hi.symm.trans hid) hne
  · rw [if_neg hi] at hid ⊢
    exact h q hq hid

/-- Settling takes queued launches on alone, and so the records of one that is not queued stay. -/
theorem State.Records.settleOne {s : State} {lid : Nat} {P : Launch → Prop} (h : s.Records lid P) (hP : ∀ l, P l → l.state ≠ 0)
    (id : Nat) : (s.settleOne id).Records lid P := by
  unfold State.settleOne
  split
  · exact h
  · rename_i l hl
    split
    · exact h
    · rename_i hstate
      have hne : id ≠ lid := by
        rintro rfl
        exact hstate (hP l (h.of_launch? hl))
      have hown (f : Launch → Launch) (hf : ∀ q : Launch, q.lid = id → (f q).lid = id) : (s.updLaunch id f).Records lid P :=
        h.updLaunch fun q hq hid => absurd ((hf q hq).symm.trans hid) hne
      have hlid : l.lid = id := State.launch?_lid hl
      split
      · refine State.Records.toFinal_other ?_ hne
        exact hown _ fun _ hq => hq
      · dsimp only
        split
        · exact hown (fun _ => { s.markPre l with state := 1, tmet := some s.clock }) fun _ _ => hlid
        · exact hown (fun _ => s.markPre l) fun _ _ => hlid

theorem State.Records.settle {s : State} {lid : Nat} {P : Launch → Prop} (h : s.Records lid P) (hP : ∀ l, P l → l.state ≠ 0) (n : Nat) :
    (State.settle n s).Records lid P := by
  induction n generalizing s with
  | zero => exact h
  | succ n ih =>
    refine ih (s := (s.lu.launches.map (·.lid)).foldl State.settleOne s) ?_
    generalize s.lu.launches.map (·.lid) = ids
    induction ids generalizing s with
    | nil => exact h
    | cons id ids go => exact go (h.settleOne hP id)

/-- The records of a launch that has become final, once those that waited for it have been settled. -/
theorem State.Records.finalize {s : State} {lid code : Nat} {P Q : Launch → Prop} (h : s.Records lid P)
    (hP : ∀ (l : Launch) c hs, P l → Q { l with state := code, ending := none, tfinal := c, handles := hs })
    (hQ : ∀ l, Q l → l.state ≠ 0) : (s.finalize lid code).Records lid Q := (h.toFinal hP).settle hQ _

-- a stop of a whole launch

/-- Requests to harts change no launch and no memory. -/
theorem State.updHart_foldl_frame (l : List Hart) (f : Hart → Hart) (s : State) :
    (l.foldl (fun s h => s.updHart h.hid f) s).mem = s.mem ∧ (l.foldl (fun s h => s.updHart h.hid f) s).lu = s.lu := by
  induction l generalizing s with
  | nil => exact ⟨rfl, rfl⟩
  | cons h l ih => exact ih _

@[simp] theorem State.endLaunch_mem (s : State) (lid code cause hart value : Nat) :
    (s.endLaunch lid code cause hart value).mem = s.mem := by
  unfold State.endLaunch
  split
  · rfl
  · split
    · rfl
    · dsimp only
      split
      · exact (State.updHart_foldl_frame _ _ _).1
      · exact (State.decides_finalize _ lid code).mem

/-- A launch that is live and on its way to no end is on its way to this one, or in it (R38, R80, R83). -/
theorem ending_endLaunch {s : State} {lid code cause hart value : Nat} {l : Launch} (hl : s.launch? lid = some l)
    (hf : isFinal l.state = false) (he : l.ending = none) (hc : code ≠ 0) : Ending (s.endLaunch lid code cause hart value) lid code := by
  intro m hm
  unfold State.endLaunch at hm
  simp only [hl, hf, he, Option.isSome_none, Bool.or_self, Bool.false_eq_true, if_false] at hm
  split at hm
  · left
    have hs : ((s.updLaunch lid fun l => { l with
        state := 3, ending := some code, cause := cause, causeHart := hart, causeValue := value }).Records lid
          fun l => l.state = 3 ∧ l.ending = some code) := State.records_updLaunch fun _ => ⟨rfl, rfl⟩
    refine hs m ?_ (State.launch?_lid hm)
    rw [← (State.updHart_foldl_frame _ _ _).2]
    exact State.launch?_mem hm
  · right
    have hs := State.Records.finalize (s := s.updLaunch lid fun l => { l with
        state := 3, ending := some code, cause := cause, causeHart := hart, causeValue := value }) (lid := lid) (code := code)
      (P := fun _ => True) (Q := fun l => l.state = code) (fun _ _ _ => trivial) (fun _ _ _ _ => rfl) (fun l h => h ▸ hc)
    exact hs.of_launch? hm

end Sys2Proof.Machine
end

section
namespace Sys2Proof.Machine

open Claims

/-! Held events, stretches and issue budgets (R38, R73, R74, R76, R387, R389). -/

-- the hart on a slot

theorem State.hart?_hid {s : State} {hid : Nat} {h : Hart} (hh : s.hart? hid = some h) : h.hid = hid := by
  simpa using List.find?_some hh

/-- The hart on a slot after a change that keeps its slot. -/
theorem State.hart?_updHart {s : State} {hid : Nat} {h : Hart} (hh : s.hart? hid = some h) {f : Hart → Hart}
    (hf : ∀ g : Hart, (f g).hid = g.hid) : (s.updHart hid f).hart? hid = some (f h) := by
  have hp : (s.updHart hid f).placed = s.placed.map fun g => if g.hid = hid then f g else g := rfl
  have hq : (fun g : Hart => decide (g.hid = hid)) ∘ (fun g => if g.hid = hid then f g else g) = fun g => decide (g.hid = hid) := by
    funext g
    show decide ((if g.hid = hid then f g else g).hid = hid) = _
    split
    · rw [hf]
    · rfl
  unfold State.hart?
  rw [hp, List.find?_map, hq]
  show Option.map _ (s.hart? hid) = _
  rw [hh]
  simp [State.hart?_hid hh]

/-- Requests to harts leave the acting hart its slot. -/
theorem State.updHart_foldl_hid (l : List Hart) {f : Hart → Hart} (hf : ∀ g : Hart, (f g).hid = g.hid) (s : State) :
    (l.foldl (fun s h => s.updHart h.hid f) s).hart.hid = s.hart.hid := by
  induction l generalizing s with
  | nil => rfl
  | cons h l ih =>
    refine (ih _).trans ?_
    show (if s.hart.hid = h.hid then f s.hart else s.hart).hid = s.hart.hid
    split
    · exact hf _
    · rfl

@[simp] theorem State.endLaunch_hid (s : State) (lid code cause hart value : Nat) :
    (s.endLaunch lid code cause hart value).hart.hid = s.hart.hid := by
  unfold State.endLaunch
  split
  · rfl
  · split
    · rfl
    · dsimp only
      split
      · exact State.updHart_foldl_hid _ (f := fun h => { h with stop := some .ended }) (fun _ => rfl) _
      · rw [(State.decides_finalize _ lid code).hart]
        rfl

@[simp] theorem Hart.enter_hid (h : Hart) (code : Nat) (tval : Word) (suffix : Nat) (pc : Option Word) :
    (h.enter code tval suffix pc).hid = h.hid := by
  unfold Hart.enter
  cases pc <;> rfl

/-- Whatever a trap leads to, the acting hart keeps its slot (R386, R387). -/
@[simp] theorem takeTrap_hid (sync : Bool) (code : Nat) (tval : Word) (suffix : Nat) (s : State) :
    (takeTrap sync code tval suffix s).hart.hid = s.hart.hid := by
  unfold takeTrap
  dsimp only
  split
  · simp
  · split
    · simp
    · split
      · simp
      · split
        · split <;> simp [Launch.graceFrom]
        · simp
        · simp

/-- What an event does for the acting hart, which keeps the turn. -/
theorem asHart_self {f : State → Answer} {s t : State} (h : f s = .next t) (ht : t.hart.hid = s.hart.hid) :
    asHart s.hart.hid f s = .next t := by
  unfold asHart
  rw [State.hart?_self]
  simp only [giveTurn_self, h]
  rw [← ht, giveTurn_self]

-- held events

theorem takeHeld_hid (s : State) : (takeHeld s).hart.hid = s.hart.hid := by
  unfold takeHeld
  dsimp only
  split
  · rfl
  · split
    · simp
    · split
      · simp
      · split
        · simp
        · rfl

theorem takeHeld_active {s : State} (ha : s.hart.active = true) : takeHeld s = s := by
  simp only [takeHeld, ha, if_true]

theorem takeHeld_refusal {s : State} {w : Word} (ha : s.hart.active = false) (hr : s.hart.heldRefusal = some w) :
    takeHeld s = takeTrap false 6 w s.boundarySuffix (s.withHart fun h => { h with heldRefusal := none }) := by
  simp only [takeHeld, ha, hr, Bool.false_eq_true, if_false]

theorem takeHeld_budget {s : State} {v : Nat} (ha : s.hart.active = false) (hr : s.hart.heldRefusal = none)
    (hb : s.hart.heldBudget = some v) :
    takeHeld s = takeTrap false 9 (wordOfNat v) s.boundarySuffix (s.withHart fun h => { h with heldBudget := none }) := by
  simp only [takeHeld, ha, hr, hb, Bool.false_eq_true, if_false]

theorem takeHeld_member {s : State} {w : Word} (ha : s.hart.active = false) (hr : s.hart.heldRefusal = none)
    (hb : s.hart.heldBudget = none) (hm : s.hart.heldMember = some w) :
    takeHeld s = takeTrap false 10 w s.boundarySuffix
      (s.withHart fun h => { h with heldMember := none, viewnote := s.viewSummary }) := by
  simp only [takeHeld, ha, hr, hb, hm, Bool.false_eq_true, if_false]

theorem takeHeld_none {s : State} (ha : s.hart.active = false) (hr : s.hart.heldRefusal = none) (hb : s.hart.heldBudget = none)
    (hm : s.hart.heldMember = none) : takeHeld s = s := by
  simp only [takeHeld, ha, hr, hb, hm, Bool.false_eq_true, if_false]

/-- At a boundary of the acting hart one held event is taken (R387, R389). -/
theorem exec_heldEventTake {s : State} (hr : s.hart.run ≠ .swap) (hs : s.hart.stop = none) (hm : s.midway s.hart = false) :
    exec (.heldEventTake s.hart.hid) s = .next (takeHeld s) := by
  show execHeldEventTake s.hart.hid s = _
  unfold execHeldEventTake
  rw [State.hart?_self]
  simp only [hr, hs, hm, Option.isSome_none, decide_false, Bool.or_self, Bool.false_eq_true, if_false]
  exact asHart_self rfl (takeHeld_hid s)

/-- Within an instruction that is under way none is (R389). -/
theorem exec_heldEventTake_midway {s : State} (hm : s.midway s.hart = true) :
    exec (.heldEventTake s.hart.hid) s = .next s := by
  show execHeldEventTake s.hart.hid s = _
  unfold execHeldEventTake
  rw [State.hart?_self]
  simp [hm]

theorem heldEventsAreTakenInOrder : HeldEventsAreTakenInOrder := by
  refine ⟨fun s hm => exec_heldEventTake_midway hm, fun s hr hs hm => ?_⟩
  rw [exec_heldEventTake hr hs hm]
  refine ⟨fun ha => ?_, fun ha w hw => ?_, fun ha hw v hv => ?_, fun ha hw hv w hm => ⟨s.viewSummary, ?_⟩, fun ha hw hv hm => ?_⟩
  · rw [takeHeld_active ha]
  · exact congrArg _ (takeHeld_refusal ha hw)
  · exact congrArg _ (takeHeld_budget ha hw hv)
  · exact congrArg _ (takeHeld_member ha hw hv hm)
  · rw [takeHeld_none ha hw hv hm]

-- stretches and budgets

/-- What a hart whose issue budget is spent has held for it, with the grace where its launch has a handler (R38). -/
def Hart.exhaust (l : Launch) (clock : Nat) (h : Hart) : Hart :=
  { h with
    spent := true
    heldBudget := some (h.heldBudget.getD 0)
    grace := if l.handler = 0 then h.grace else some (h.grace.getD (clock + max 1900 (l.budget / 64))) }

/-- A hart with no clocks left takes its budget event once (R38). -/
theorem exec_issueBudgetExhausted {s : State} {hid : Nat} {h : Hart} {l : Launch} (hh : s.hart? hid = some h)
    (hl : s.launch? h.lid = some l) (hstop : h.stop = none) (hb : s.budgetLeft h = 0) (hs : h.spent = false)
    (ha : h.arriving = false) : exec (.issueBudgetExhausted hid) s =
      .next ((s.updHart hid (Hart.exhaust l s.clock)).post [.heldEventTake hid]) := by
  have hf : (fun h : Hart =>
      let h := { h with spent := true, heldBudget := some (h.heldBudget.getD 0) }
      if l.handler = 0 then h else l.graceFrom h s.clock) = Hart.exhaust l s.clock := by
    funext h
    unfold Hart.exhaust
    dsimp only
    split <;> rfl
  show execIssueBudgetExhausted hid s = _
  unfold execIssueBudgetExhausted
  simp only [hh, hl, hb, hs, ha, hstop, ne_eq, not_true_eq_false, decide_false, Option.isSome_none, Bool.or_self,
    Bool.false_eq_true, if_false]
  exact congrArg (fun f => Host.Outcome.next ((s.updHart hid f).post [.heldEventTake hid])) hf

theorem exec_stretchPreemption {s : State} {hid : Nat} {h : Hart} (hh : s.hart? hid = some h) : exec (.stretchPreemption hid) s =
    .next (if s.mayPreempt h then (s.updHart hid fun h => { h with stop := some .preempt }).post [.hartStop hid] else s) := by
  show execStretchPreemption hid s = _
  simp only [execStretchPreemption, hh]

theorem exec_budgetGraceExpiry {s : State} {hid g : Nat} {h : Hart} (hh : s.hart? hid = some h) (hg : h.grace = some g)
    (hdue : g ≤ s.clock) : exec (.budgetGraceExpiry hid) s = .next (s.endLaunch h.lid 9 0 h.j 0) := by
  show execBudgetGraceExpiry hid s = _
  simp only [execBudgetGraceExpiry, hh, hg, hdue, if_true]

theorem budgetEventsStopTheHart : BudgetEventsStopTheHart := by
  intro hid s h l hh hl hstop
  refine ⟨fun hp => ?_, fun hp => ⟨(s.updHart hid fun h => { h with stop := some .preempt }).post [.hartStop hid], ?_,
      State.hart?_updHart hh (f := fun h => { h with stop := some .preempt }) fun _ => rfl, rfl, rfl⟩,
    fun hb hs ha => ⟨_, exec_issueBudgetExhausted hh hl hstop hb hs ha, rfl, rfl, ?_⟩,
    fun g hg hdue hf he => ⟨_, exec_budgetGraceExpiry hh hg hdue, State.endLaunch_mem .., ending_endLaunch hl hf he (by decide)⟩⟩
  · rw [exec_stretchPreemption hh, hp]
    rfl
  · rw [exec_stretchPreemption hh, hp]
    rfl
  · exact State.hart?_updHart hh fun _ => rfl

/-- Settles O23: at a boundary `takeHeld` goes through the three held events in their order, and each budget event is one update
of the hart or a stop of its launch. -/
theorem heldAndBudgetEventsFollowTheirOrder : Obligations.HeldAndBudgetEventsFollowTheirOrder :=
  ⟨heldEventsAreTakenInOrder, budgetEventsStopTheHart⟩

end Sys2Proof.Machine
end

section
namespace Sys2Proof.Machine

open Claims

/-! Starts of launches: the copy of the data section, and the first placements (R36, R37, R79, R85, R90). -/

-- what a unit of the launch unit changes when it reads and writes memory

/-- Only memory, the caches, and the requests that are out differ. -/
def OnlyTraffic (s t : State) : Prop :=
  t = { s with mem := t.mem, tlb := t.tlb, coh := t.coh, nextTag := t.nextTag, targets := t.targets, outbox := t.outbox }

theorem OnlyTraffic.refl (s : State) : OnlyTraffic s s := rfl

theorem OnlyTraffic.trans {s t u : State} (h : OnlyTraffic s t) (k : OnlyTraffic t u) : OnlyTraffic s u := by
  unfold OnlyTraffic at *
  rw [k, h]

theorem OnlyMem.traffic {s t : State} (h : OnlyMem s t) : OnlyTraffic s t := by
  unfold OnlyMem at h
  unfold OnlyTraffic
  rw [h]

theorem onlyTraffic_foldl {α : Type} {f : State → α → State} {l : List α} (hf : ∀ (s : State) a, a ∈ l → OnlyTraffic s (f s a))
    (s : State) : OnlyTraffic s (l.foldl f s) := by
  induction l generalizing s with
  | nil => exact .refl s
  | cons a l ih => exact (hf s a (by simp)).trans (ih (fun t b hb => hf t b (by simp [hb])) _)

/-- A place in a scratchpad region. -/
def Loc.isScr : Loc → Bool
  | .scr .. => true
  | _ => false

/-- No stretch lies in a scratchpad. -/
def NoScr (gs : List Seg) : Prop := ∀ g ∈ gs, g.loc.isScr = false

theorem State.moves_onlyTraffic (s : State) (via : Via) (write : Bool) (loc : Loc) (n : Nat) :
    OnlyTraffic s (s.moves via write loc n) := by
  unfold State.moves
  split
  · exact rfl
  · exact .refl s

theorem State.putAt_onlyTraffic (s : State) {loc : Loc} (h : loc.isScr = false) (bs : List Byte) : OnlyTraffic s (s.putAt loc bs) := by
  cases loc with
  | scr c l off => cases h
  | _ => exact rfl

theorem State.poisonLoc_onlyTraffic (s : State) {loc : Loc} (h : loc.isScr = false) (n : Nat) : OnlyTraffic s (s.poisonLoc loc n) := by
  unfold State.poisonLoc
  split
  · exact .refl s
  · cases loc with
    | scr c l off => cases h
    | _ => exact rfl

theorem State.segWrite_onlyTraffic {gs : List Seg} (h : NoScr gs) (s : State) (bs : List Byte) :
    OnlyTraffic s (s.segWrite gs bs) := by
  unfold State.segWrite
  induction gs generalizing s bs with
  | nil => exact .refl s
  | cons g gs ih =>
    refine OnlyTraffic.trans ?_ (ih (fun q hq => h q (by simp [hq])) _ _)
    split
    · exact rfl
    · exact (s.moves_onlyTraffic _ _ _ _).trans (State.putAt_onlyTraffic _ (h g (by simp)) _)

theorem State.segRead_onlyTraffic (s : State) (gs : List Seg) : OnlyTraffic s (s.segRead gs) :=
  onlyTraffic_foldl (fun s _ _ => s.moves_onlyTraffic _ _ _ _) s

theorem Loc.plus_isScr (loc : Loc) (k : Nat) : (loc.plus k).isScr = loc.isScr := by cases loc <;> rfl

theorem NoScr.segsAt {gs : List Seg} (h : NoScr gs) (k n : Nat) : NoScr (segsAt gs k n) := by
  induction gs generalizing k n with
  | nil => exact h
  | cons g gs ih =>
    have hgs : NoScr gs := fun q hq => h q (by simp [hq])
    unfold Machine.segsAt
    split
    · intro q hq
      cases hq
    · split
      · exact ih hgs _ _
      · intro q hq
        rcases List.mem_cons.mp hq with rfl | hq
        · exact (Loc.plus_isScr _ _).trans (h g (by simp))
        · exact ih hgs _ _ q hq

theorem State.poisonWords_onlyTraffic {gs : List Seg} (h : NoScr gs) (s : State) (n : Nat) (offs : List Nat) :
    OnlyTraffic s (s.poisonWords gs n offs) :=
  onlyTraffic_foldl (fun s _ _ => onlyTraffic_foldl (fun s g hg => s.poisonLoc_onlyTraffic (h.segsAt _ _ g hg) _) s) s

theorem State.segCopy_onlyTraffic (s : State) (src : List Seg) {dst : List Seg} (h : NoScr dst) (n : Nat) :
    OnlyTraffic s (s.segCopy src dst n) :=
  ((s.segRead_onlyTraffic src).trans (State.segWrite_onlyTraffic h _ _)).trans (State.poisonWords_onlyTraffic h _ _ _)

-- translation by the launch unit

theorem ok_of_ite_error {α β : Type} {p : Prop} [Decidable p] {c : α} {x : Except α β} {y : β}
    (h : (if p then .error c else x) = .ok y) : x = .ok y := by
  by_cases hp : p
  · rw [if_pos hp] at h
    cases h
  · rwa [if_neg hp] at h

theorem checkLeaf_isScr {task : Bool} {e l va : Nat} {acc : Access} {loc : Loc} (h : checkLeaf task e l va acc = .ok loc) :
    loc.isScr = false := by
  unfold checkLeaf at h
  have hplace := ok_of_ite_error (ok_of_ite_error h)
  split at hplace
  · cases hplace; rfl
  · split at hplace <;> cases hplace <;> rfl

theorem State.xlateIn_isScr {s t : State} {caches : List Nat} {asid root : Nat} {task : Bool} {va : Nat} {acc : Access} {loc : Loc}
    (h : s.xlateIn caches asid root task va acc = .ok (loc, t)) : loc.isScr = false := by
  unfold State.xlateIn at h
  split at h
  · cases h
  · split at h
    · cases h
    · split at h
      · cases h
      · rename_i loc' hl
        have hs := checkLeaf_isScr hl
        split at h
        · split at h
          · cases h
          · split at h
            · cases h
            · cases h; exact hs
        · cases h; exact hs

/-- What the launch unit translates for a pair is no scratchpad, and changes A and D bits and caches alone (R397, R400). -/
theorem State.xlatePair_ok {s t : State} {port pasid va : Nat} {acc : Access} {loc : Loc}
    (h : s.xlatePair port pasid acc va = .ok (loc, t)) : loc.isScr = false ∧ OnlyMem s t := by
  unfold State.xlatePair at h
  split at h
  · cases h
  · split at h
    · cases h
    · exact ⟨State.xlateIn_isScr h, State.xlateIn_onlyMem h⟩

theorem spanWith_places {tr : State → Nat → Except Nat (Loc × State)} {P : Loc → Prop}
    (htr : ∀ s va loc t, tr s va = .ok (loc, t) → P loc) (ps : List (Nat × Nat)) {s t : State} {gs : List Seg}
    (h : spanWith tr ps s = .ok (gs, t)) : ∀ g ∈ gs, P g.loc := by
  induction ps generalizing s gs with
  | nil =>
    cases h
    intro g hg
    cases hg
  | cons p ps ih =>
    unfold spanWith at h
    split at h
    · cases h
    · rename_i loc s' hs
      split at h
      · cases h
      · rename_i segs t' ht
        cases h
        intro g hg
        rcases List.mem_cons.mp hg with rfl | hg
        · exact htr _ _ _ _ hs
        · exact ih ht g hg

theorem State.spanPair_ok {s t : State} {port pasid va n : Nat} {acc : Access} {gs : List Seg}
    (h : s.spanPair port pasid va n acc = .ok (gs, t)) : NoScr gs ∧ OnlyMem s t :=
  ⟨spanWith_places (fun _ _ _ _ h => (State.xlatePair_ok h).1) _ h, spanWith_onlyMem (fun _ _ _ _ h => (State.xlatePair_ok h).2) _ h⟩

/-- The copy of a data section changes nothing else of the module (R36). -/
theorem State.copyData_onlyTraffic {s t : State} {l : Launch} (h : s.copyData l = .ok t) : OnlyTraffic s t := by
  unfold State.copyData at h
  split at h
  · cases h
  · rename_i src s1 h1
    split at h
    · cases h
    · rename_i dst s2 h2
      cases h
      obtain ⟨-, hread⟩ := State.spanPair_ok h1
      obtain ⟨hdst, hwrite⟩ := State.spanPair_ok h2
      exact ((hread.traffic.trans hwrite.traffic).trans (State.segCopy_onlyTraffic _ _ (hdst.segsAt _ _) _)).trans
        (State.segWrite_onlyTraffic (hdst.segsAt _ _) _ _)

/-- The slot that is chosen for a hart depends on no memory (R85). -/
theorem OnlyTraffic.slotOf {s t : State} (h : OnlyTraffic s t) (l : Launch) (j : Nat) : t.slotOf l j = s.slotOf l j := by
  unfold OnlyTraffic at h
  rw [h]
  rfl

-- first placements

@[simp] theorem State.bringRegion_mem (s : State) (lid core : Nat) : (s.bringRegion lid core).mem = s.mem := rfl

/-- Making a region, or bringing it, changes regions alone (R86, R88). -/
theorem State.withRegion_eq (s : State) (l : Launch) (core : Nat) :
    s.withRegion l core = { s with regions := (s.withRegion l core).regions } := by
  unfold State.withRegion
  dsimp only
  split
  · rfl
  · rfl

/-- A first placement comes to nothing, or it places the hart (R37, R85, R90). -/
theorem State.placeFirst_cases (s : State) (lid j : Nat) :
    ((∀ l, s.launch? lid = some l → s.slotOf l j = none) ∧ s.placeFirst lid j = s) ∨
      ∃ (l : Launch) (hid : Nat) (b : Binding) (home : Option Nat) (t : State), s.launch? lid = some l ∧
        s.slotOf l j = some hid ∧ s.placeFirst lid j = t ∧ t.mem = s.mem ∧ t.hart = s.hart ∧
        t.parked = s.parked ++ [startHart l hid j (s.firstGrant l) b.asid b.root s.clock] ∧
        t.lu = ((s.updLHart lid j fun r => { r with pos := .placed, home := home, grant := s.firstGrant l }).updLaunch lid
          fun l => { l with state := 2 }).lu := by
  unfold State.placeFirst
  split
  · rename_i hl
    exact .inl ⟨fun l h => by simp [hl] at h, rfl⟩
  · rename_i l hl
    split
    · rename_i hs
      refine .inl ⟨fun m hm => ?_, rfl⟩
      obtain rfl := Option.some.inj (hl.symm.trans hm)
      exact hs
    · rename_i hid hs
      refine .inr ⟨l, hid, (s.bindingOf l.port l.pasid).getD ⟨l.port, l.pasid, 0, 0⟩, if l.scratch = 0 then none else some (hid / 16),
        _, hl, hs, rfl, ?_⟩
      rw [s.withRegion_eq l (hid / 16)]
      exact ⟨by rw [State.trackGrant_mem]; rfl, by rw [State.trackGrant_hart]; rfl, by rw [State.trackGrant_parked]; rfl,
        by rw [State.trackGrant_lu]; rfl⟩

/-- A record of a running launch whose hart 0 is placed. -/
def RunsFrom0 (m : Launch) : Prop := m.state = 2 ∧ ∀ r, m.hs[0]? = some r → r.pos = .placed

/-- A placement makes its launch running and keeps its hart 0 placed. -/
theorem runsFrom0_place {P : Launch → Prop} {s : State} {lid j : Nat} (hs : s.Records lid P) (home : Option Nat) (g : Nat)
    (h : j = 0 ∨ ∀ m, P m → RunsFrom0 m) :
    ((s.updLHart lid j fun r => { r with pos := .placed, home := home, grant := g }).updLaunch lid
      fun l => { l with state := 2 }).Records lid RunsFrom0 := by
  intro m hm hid
  obtain ⟨q, hq, rfl⟩ := List.mem_map.mp hm
  obtain ⟨p, hp, rfl⟩ := List.mem_map.mp hq
  by_cases hi : p.lid = lid
  · simp only [hi, if_true, RunsFrom0, true_and]
    intro r hr
    rw [List.getElem?_modify] at hr
    obtain ⟨r0, hr0, rfl⟩ := Option.map_eq_some_iff.mp hr
    split
    · rfl
    · rename_i hj
      exact ((h.resolve_left hj) p (hs p hp hi)).2 r0 hr0
  · simp [hi] at hid

/-- The hart 0 of a launch as its start places it (R37, R106). -/
def StartsHart0 (l : Launch) (h : Hart) : Prop :=
  h.lid = l.lid ∧ h.j = 0 ∧ h.pc = BitVec.ofNat 64 (l.image + l.entry) ∧ h.vl = 0 ∧
    h.x[10] = l.arg ∧ h.x[11] = 0 ∧ h.x[12] = BitVec.ofNat 64 l.harts ∧ h.x[13] = BitVec.ofNat 64 l.data ∧
    h.seed = l.seed ∧ h.super = false ∧ l.gmin ≤ h.grant

theorem startHart_startsHart0 (l : Launch) {g : Nat} (hg : l.gmin ≤ g) (hid asid root clock : Nat) :
    StartsHart0 l (startHart l hid 0 g asid root clock) := by
  refine ⟨rfl, rfl, rfl, rfl, ?_, ?_, ?_, ?_, rfl, (by decide : (0 : Word).getLsbD 16 = false), hg⟩
  all_goals simp [startHart, Hart.fresh, wordOfNat]

/-- A first placement has GMIN at least (R90). -/
theorem State.gmin_le_firstGrant (s : State) (l : Launch) : l.gmin ≤ s.firstGrant l := by
  unfold State.firstGrant
  cases hg : largestGrant l.gmin l.gpref l.gmin s.tightPool with
  | none => exact le_rfl
  | some g =>
    have hm := List.mem_of_getLast? hg
    simp only [List.mem_filter, Bool.and_eq_true, decide_eq_true_eq] at hm
    exact hm.2.1

/-- What the start of a launch has brought about once its hart 0 is placed. -/
structure Starting (u : State) (l : Launch) (t : State) : Prop where
  mem : t.mem = u.mem
  hart : t.hart = u.hart
  records : t.Records l.lid RunsFrom0
  first : ∃ h ∈ t.parked, StartsHart0 l h

theorem starting_first {u : State} {l : Launch} (hl : u.launch? l.lid = some l) (hs : (u.slotOf l 0).isSome = true) :
    Starting u l (u.placeFirst l.lid 0) := by
  rcases u.placeFirst_cases l.lid 0 with ⟨hno, -⟩ | ⟨m, hid, b, home, t, hm, -, ht, hmem, hhart, hparked, hlu⟩
  · simp [hno l hl] at hs
  · obtain rfl := Option.some.inj (hl.symm.trans hm)
    rw [ht]
    refine ⟨hmem, hhart, ?_, ?_⟩
    · unfold State.Records
      rw [hlu]
      exact runsFrom0_place (P := fun _ => True) (fun _ _ _ => trivial) home _ (.inl rfl)
    · exact ⟨_, by rw [hparked]; simp, startHart_startsHart0 l (u.gmin_le_firstGrant l) hid b.asid b.root u.clock⟩

theorem Starting.next {u t : State} {l : Launch} (h : Starting u l t) (j : Nat) : Starting u l (t.placeFirst l.lid j) := by
  rcases t.placeFirst_cases l.lid j with ⟨-, ht⟩ | ⟨m, hid, b, home, v, -, -, hv, hmem, hhart, hparked, hlu⟩
  · rwa [ht]
  · rw [hv]
    refine ⟨hmem.trans h.mem, hhart.trans h.hart, ?_, ?_⟩
    · unfold State.Records
      rw [hlu]
      exact runsFrom0_place h.records home _ (.inr fun _ hm => hm)
    · obtain ⟨g, hg, hstart⟩ := h.first
      exact ⟨g, by rw [hparked]; simp [hg], hstart⟩

theorem Starting.foldl {u t : State} {l : Launch} (h : Starting u l t) (js : List Nat) :
    Starting u l (js.foldl (fun t j => t.placeFirst l.lid j) t) := by
  induction js generalizing t with
  | nil => exact h
  | cons j js ih => exact ih (h.next j)

theorem exec_launchStart {s u : State} {l : Launch} (hl : s.launch? l.lid = some l) (hstate : l.state = 1)
    (hp : s.svc.power = .run) (hn : s.isNext l = true) (hs : (s.slotOf l 0).isSome = true) (hu : s.copyData l = .ok u) :
    exec (.launchStart l.lid) s = .next ((List.range l.harts).foldl (fun t j => t.placeFirst l.lid j) u) := by
  show execLaunchStart l.lid s = _
  unfold execLaunchStart
  simp [hl, hstate, hp, hn, Option.isSome_iff_ne_none.mp hs, hu]

theorem launchStartPlacesItsHarts : LaunchStartPlacesItsHarts := by
  rintro lid s u l hl rfl
  refine ⟨fun hne => ?_, fun hstate hp hn hs hh hu => ?_⟩
  · show execLaunchStart l.lid s = _
    unfold execLaunchStart
    simp only [show s.launch? l.lid = some l from hl, hne, ne_eq, not_false_eq_true, decide_true, Bool.true_or, if_true]
  · have hc := State.copyData_onlyTraffic hu
    have hhart : u.hart = s.hart := by rw [show u = _ from hc]
    have hfirst : Starting u l (u.placeFirst l.lid 0) := by
      refine starting_first ?_ (by rw [hc.slotOf]; exact hs)
      rw [show u = _ from hc]
      exact hl
    obtain ⟨n, hharts⟩ : ∃ n, l.harts = n + 1 := ⟨l.harts - 1, by omega⟩
    have hall : Starting u l ((List.range l.harts).foldl (fun t j => t.placeFirst l.lid j) u) := by
      rw [hharts, List.range_succ_eq_map]
      exact hfirst.foldl _
    exact ⟨_, exec_launchStart hl hstate hp hn hs hu, hall.mem, hall.hart.trans hhart, fun m hm => (hall.records.of_launch? hm).1,
      fun m r hm => (hall.records.of_launch? hm).2 r, hall.first⟩

end Sys2Proof.Machine
end

section
namespace Sys2Proof.Machine

open Claims

/-! Verification and prerequisites (R29, R30, R40, R41), and what else the launch unit does to memory. -/

-- what the launch unit's work keeps

/-- A unit's work leaves the placed harts, and memory in its form. -/
structure UnitWork (s t : State) : Prop where
  hart : t.hart = s.hart
  parked : t.parked = s.parked
  wf : s.memWf → t.memWf

theorem UnitWork.refl (s : State) : UnitWork s s := ⟨rfl, rfl, id⟩

theorem UnitWork.trans {s t u : State} (a : UnitWork s t) (b : UnitWork t u) : UnitWork s u :=
  ⟨b.hart.trans a.hart, b.parked.trans a.parked, fun h => b.wf (a.wf h)⟩

theorem UnitWork.placed {s t : State} (h : UnitWork s t) : t.placed = s.placed := by
  unfold State.placed
  rw [h.hart, h.parked]

theorem State.Decides.unitWork {s t : State} (h : s.Decides t) : UnitWork s t :=
  ⟨h.hart, h.parked, fun hw => by unfold State.memWf; rw [h.mem]; exact hw⟩

theorem State.xlatePair_wf {s t : State} {port pasid va : Nat} {acc : Access} {loc : Loc} (h : s.memWf)
    (hw : s.xlatePair port pasid acc va = .ok (loc, t)) : t.memWf := by
  unfold State.xlatePair at hw
  split at hw
  · cases hw
  · split at hw
    · cases hw
    · exact State.xlateIn_wf h hw

/-- A translated range of a pair: the work of the launch unit's translation, with the launch unit as it was (R397, R400). -/
theorem State.spanPair_work {s t : State} {port pasid va n : Nat} {acc : Access} {gs : List Seg}
    (h : s.spanPair port pasid va n acc = .ok (gs, t)) : UnitWork s t ∧ t.lu = s.lu := by
  have ho : t = _ := (State.spanPair_ok h).2
  have hwf (hs : s.memWf) : t.memWf := spanWith_wf (fun _ _ _ _ hs h => State.xlatePair_wf hs h) _ hs h
  refine ⟨⟨?_, ?_, hwf⟩, ?_⟩ <;> rw [ho]

theorem State.segRead_work (s : State) (gs : List Seg) : UnitWork s (s.segRead gs) ∧ (s.segRead gs).lu = s.lu := by
  have ho : s.segRead gs = _ := s.segRead_onlyTraffic gs
  have hm : (s.segRead gs).mem = s.mem := by
    show (gs.foldl (fun s g => s.moves .passing false g.loc g.len) s).mem = s.mem
    clear ho
    induction gs generalizing s with
    | nil => rfl
    | cons g gs ih => exact (ih _).trans (s.moves_mem ..)
  refine ⟨⟨?_, ?_, fun h => ?_⟩, ?_⟩
  · rw [ho]
  · rw [ho]
  · unfold State.memWf
    rw [hm]
    exact h
  · rw [ho]

-- verification (R29, R30)

theorem State.imageSpan_work {s t : State} {port pasid va n part : Nat} {gs : List Seg}
    (h : s.imageSpan port pasid va n part = .ok (gs, t)) : UnitWork s t ∧ t.lu = s.lu := by
  unfold State.imageSpan at h
  split at h
  · cases h
  · rename_i segs u hu
    obtain ⟨hw, hl⟩ := State.spanPair_work hu
    have h := ok_of_ite_error (ok_of_ite_error (ok_of_ite_error h))
    obtain ⟨rfl, rfl⟩ := Prod.mk.inj (Except.ok.inj h)
    obtain ⟨hr, hlr⟩ := u.segRead_work segs
    exact ⟨hw.trans hr, hlr.trans hl⟩

theorem State.enterImage_work {s t : State} {e : ImageEntry} (h : s.enterImage e = some t) :
    UnitWork s t ∧ t.lu.verifs = s.lu.verifs := by
  unfold State.enterImage at h
  dsimp only at h
  split at h
  · cases h
    exact ⟨⟨rfl, rfl, id⟩, rfl⟩
  · split at h
    · cases h
    · split at h
      · cases h
        exact ⟨⟨rfl, rfl, id⟩, rfl⟩
      · cases h

theorem State.verifyImage_work (s : State) (port pasid addr : Nat) :
    UnitWork s (s.verifyImage port pasid addr).2 ∧ (s.verifyImage port pasid addr).2.lu.verifs = s.lu.verifs := by
  unfold State.verifyImage
  split
  · exact ⟨.refl s, rfl⟩
  · split
    · exact ⟨.refl s, rfl⟩
    · rename_i hs t ht
      obtain ⟨hw, hl⟩ := State.imageSpan_work ht
      have hv : t.lu.verifs = s.lu.verifs := by rw [hl]
      dsimp only
      split
      · exact ⟨hw, hv⟩
      · split
        · exact ⟨hw, hv⟩
        · rename_i segs u hu
          obtain ⟨hw2, hl2⟩ := State.imageSpan_work hu
          have hv2 : u.lu.verifs = s.lu.verifs := by rw [hl2, hv]
          split
          · exact ⟨hw.trans hw2, hv2⟩
          · split
            · rename_i x hx
              obtain ⟨hw3, hv3⟩ := State.enterImage_work hx
              exact ⟨(hw.trans hw2).trans hw3, hv3.trans hv2⟩
            · exact ⟨hw.trans hw2, hv2⟩

/-- The verifications, with this outcome for those of a number. -/
def recordOutcome (id : Nat) (o : Refused) (vs : List Verification) : List Verification :=
  vs.map fun w => if w.id = id then { w with outcome := some o } else w

/-- The outcome goes to the LAUNCH that waits, and is forgotten with none. -/
theorem exec_imageVerificationDone {s : State} {hid : Nat} {releases : List Nat} {v : Verification}
    (hv : (s.lu.verifs.find? fun v => v.hid = hid ∧ v.outcome.isNone) = some v) :
    let r := (s.releaseImages releases).verifyImage v.port v.pasid v.addr
    exec (.imageVerificationDone ⟨hid, releases⟩) s =
      .next (if r.2.placed.any fun h => h.begun.verif == some v.id then
          { r.2 with lu := { r.2.lu with verifs := recordOutcome v.id r.1 r.2.lu.verifs } }
        else r.2.dropVerif v.id) := by
  have hv' : ((s.releaseImages releases).lu.verifs.find? fun v => v.hid = hid ∧ v.outcome.isNone) = some v := hv
  show execImageVerificationDone ⟨hid, releases⟩ s = _
  unfold execImageVerificationDone
  simp only [hv']
  rfl

theorem recordOutcome_mem {id : Nat} {o : Refused} {vs : List Verification} {w : Verification} (h : w ∈ recordOutcome id o vs)
    (hid : w.id = id) : w.outcome = some o := by
  obtain ⟨q, -, rfl⟩ := List.mem_map.mp h
  by_cases hq : q.id = id
  · rw [if_pos hq]
  · rw [if_neg hq] at hid
    exact absurd hid hq

theorem verificationSettles (hid : Nat) (releases : List Nat) (s : State) (v : Verification)
    (hv : (s.lu.verifs.find? fun v => v.hid = hid ∧ v.outcome.isNone) = some v) :
    ∃ t, exec (.imageVerificationDone ⟨hid, releases⟩) s = .next t ∧ t.hart = s.hart ∧
      ((∃ h ∈ s.placed, h.begun.verif = some v.id) → (∃ w ∈ t.lu.verifs, w.id = v.id) ∧ ∀ w ∈ t.lu.verifs, w.id = v.id →
        w.outcome = some ((s.releaseImages releases).verifyImage v.port v.pasid v.addr).1) ∧
      ((∀ h ∈ s.placed, h.begun.verif ≠ some v.id) → ∀ w ∈ t.lu.verifs, w.id ≠ v.id) := by
  obtain ⟨hwork, hverifs⟩ := (s.releaseImages releases).verifyImage_work v.port v.pasid v.addr
  have hx := exec_imageVerificationDone (releases := releases) hv
  dsimp only at hx
  generalize (s.releaseImages releases).verifyImage v.port v.pasid v.addr = r at hx hwork hverifs ⊢
  have hplaced : r.2.placed = s.placed := hwork.placed
  have hmem : v ∈ r.2.lu.verifs := hverifs ▸ List.mem_of_find?_eq_some hv
  by_cases hwait : (r.2.placed.any fun h => h.begun.verif == some v.id) = true
  · rw [if_pos hwait] at hx
    refine ⟨_, hx, hwork.hart, fun _ => ⟨⟨{ v with outcome := some r.1 }, ?_, rfl⟩, fun w hw => recordOutcome_mem hw⟩,
      fun hno => ?_⟩
    · exact List.mem_map.mpr ⟨v, hmem, if_pos rfl⟩
    · rw [hplaced] at hwait
      obtain ⟨h, hh, hb⟩ := List.any_eq_true.mp hwait
      exact absurd (by simpa using hb) (hno h hh)
  · rw [if_neg hwait] at hx
    refine ⟨_, hx, hwork.hart, fun ⟨h, hh, hb⟩ => ?_, fun _ w hw => ?_⟩
    · exact absurd (List.any_eq_true.mpr ⟨h, hplaced ▸ hh, by simp [hb]⟩) hwait
    · simpa using (List.mem_filter.mp hw).2

-- prerequisites (R40, R41)

/-- Entry j, if there is one, is marked. -/
def MetAt (j : Nat) (m : Launch) : Prop := ∀ q, m.pre[j]? = some q → q.met = true

/-- Marking further entries keeps the marks. -/
theorem metAt_markPre (s : State) {j : Nat} {l : Launch} (h : MetAt j l) : MetAt j (s.markPre l) := by
  intro q hq
  have hq : (l.pre.map fun p => if p.kind = 1 ∧ s.endedPre l.strictPre p = some true then { p with met := true } else p)[j]? = some q := hq
  rw [List.getElem?_map] at hq
  obtain ⟨p, hp, rfl⟩ := Option.map_eq_some_iff.mp hq
  split
  · rfl
  · exact h p hp

/-- Settling a launch keeps the marks of its records. -/
theorem metAt_settleOne {s : State} {lid j : Nat} (h : s.Records lid (MetAt j)) : (s.settleOne lid).Records lid (MetAt j) := by
  unfold State.settleOne
  split
  · exact h
  · rename_i l hl
    have hmark : MetAt j (s.markPre l) := metAt_markPre s (h.of_launch? hl)
    split
    · exact h
    · split
      · exact State.Records.toFinal (P := MetAt j) (h.updLaunch fun _ hq _ => ⟨hq, id⟩) fun _ _ _ hm => hm
      · dsimp only
        split
        · exact State.records_updLaunch (f := fun _ => { s.markPre l with state := 1, tmet := some s.clock }) fun _ => hmark
        · exact State.records_updLaunch (f := fun _ => s.markPre l) fun _ => hmark

theorem State.preWord_some {s u : State} {l : Launch} {p : Prereq} {x : Nat} (h : s.preWord l p = some (x, u)) :
    u.hart = s.hart := by
  unfold State.preWord at h
  split at h
  · rename_i a sy t ht
    have ho : t = _ := (State.xlatePair_ok ht).2
    split at h
    · exact absurd h (by simp)
    · obtain ⟨-, rfl⟩ := Prod.mk.inj (Option.some.inj h)
      rw [ho]
      rfl
  · exact absurd h (by simp)

theorem metAt_modify (j : Nat) (l : Launch) : MetAt j { l with pre := l.pre.modify j fun p => { p with met := true } } := by
  intro q hq
  have hq : (l.pre.modify j fun p => { p with met := true })[j]? = some q := hq
  rw [List.getElem?_modify] at hq
  obtain ⟨p, -, rfl⟩ := Option.map_eq_some_iff.mp hq
  rw [if_pos rfl]

theorem prerequisiteWordsSettle (lid j : Nat) (s u : State) (l : Launch) (p : Prereq) (x : Nat)
    (ho : s.openPre lid j = some (l, p)) (hw : s.preWord l p = some (x, u)) (hx : p.value ≤ x) :
    ∃ t, exec (.prereqWordMet lid j) s = .next t ∧ t.hart = s.hart ∧ t.mem = u.mem ∧
      ∀ m q, t.launch? lid = some m → m.pre[j]? = some q → q.met = true := by
  have hd := (u.decides_updLaunch lid fun l => { l with pre := l.pre.modify j fun p => { p with met := true } }).trans
    (State.decides_settleOne _ lid)
  refine ⟨_, ?_, hd.hart.trans (State.preWord_some hw), hd.mem, fun m q hm => ?_⟩
  · show execPrereqWordMet lid j s = _
    unfold execPrereqWordMet
    simp only [ho, hw, Nat.not_lt.mpr hx, if_false]
  · exact (metAt_settleOne (State.records_updLaunch (metAt_modify j))).of_launch? hm q

theorem unreadablePrerequisitesFail (lid j : Nat) (s : State) (l : Launch) (p : Prereq) (ho : s.openPre lid j = some (l, p))
    (hw : s.preWord l p = none) :
    ∃ t, exec (.prereqUnreadable lid j) s = .next t ∧ t.hart = s.hart ∧ t.mem = s.mem ∧ Ended t lid 12 j ∧
      ∀ m, t.launch? lid = some m → m.causeValue = p.word := by
  have hd := (s.decides_updLaunch lid fun l => { l with cause := j, causeHart := 0xFFFF, causeValue := p.word }).trans
    (State.decides_finalize _ lid 12)
  have hr : ((s.updLaunch lid fun l => { l with cause := j, causeHart := 0xFFFF, causeValue := p.word }).finalize lid 12).Records lid
      fun m => m.state = 12 ∧ m.cause = j ∧ m.causeValue = p.word :=
    State.Records.finalize (P := fun m => m.cause = j ∧ m.causeValue = p.word) (State.records_updLaunch fun _ => ⟨rfl, rfl⟩)
      (fun _ _ _ h => ⟨rfl, h⟩) (fun m h => by rw [h.1]; decide)
  refine ⟨_, ?_, hd.hart, hd.mem, fun m hm => ?_, fun m hm => (hr.of_launch? hm).2.2⟩
  · show execPrereqUnreadable lid j s = _
    unfold execPrereqUnreadable
    simp only [ho, hw]
  · obtain ⟨hstate, hcause, -⟩ := hr.of_launch? hm
    exact ⟨hstate, hcause⟩

theorem prerequisitesAndVerificationSettle : PrerequisitesAndVerificationSettle :=
  ⟨verificationSettles, prerequisiteWordsSettle, unreadablePrerequisitesFail⟩

end Sys2Proof.Machine
end

section
namespace Sys2Proof.Machine

open Claims

/-! Bytes of memory as numbers, and what a write of some of them leaves (R3). -/

@[simp] theorem bytesOf_length (x n : Nat) : (bytesOf x n).length = n := by
  induction n generalizing x with
  | zero => rfl
  | succ n ih => simp [bytesOf, ih]

theorem natOfBytes_bytesOf (x n : Nat) : natOfBytes (bytesOf x n) = x % 256 ^ n := by
  induction n generalizing x with
  | zero => simp [bytesOf, natOfBytes, Nat.mod_one]
  | succ n ih =>
    have hmul : x % 256 ^ (n + 1) = x % 256 + 256 * (x / 256 % 256 ^ n) := by rw [pow_succ', Nat.mod_mul]
    show (BitVec.ofNat 8 x).toNat + 256 * natOfBytes (bytesOf (x / 256) n) = _
    rw [ih, BitVec.toNat_ofNat]
    exact hmul.symm

theorem natOfBytes_lt (bs : List Byte) : natOfBytes bs < 256 ^ bs.length := by
  induction bs with
  | nil => decide
  | cons b bs ih =>
    have hb : b.toNat < 256 := b.isLt
    simp only [natOfBytes, List.length_cons, pow_succ']
    omega

@[simp] theorem cellsGet_length (m : List Host.Cell) (a n : Nat) : (cellsGet m a n).length = n := by simp [cellsGet]

theorem cellsGet_congr {m m' : List Host.Cell} {a n : Nat} (h : ∀ i, i < n → cellAt m (a + i) = cellAt m' (a + i)) :
    cellsGet m a n = cellsGet m' a n :=
  List.map_congr_left fun i hi => h i (List.mem_range.mp hi)

theorem State.memNat_lt (s : State) (a n : Nat) : s.memNat a n < 256 ^ n := by
  have h := natOfBytes_lt (cellsGet s.mem a n)
  rwa [cellsGet_length] at h

theorem State.memNat_congr {s t : State} {a n : Nat} (h : ∀ i, i < n → cellAt t.mem (a + i) = cellAt s.mem (a + i)) :
    t.memNat a n = s.memNat a n := congrArg natOfBytes (cellsGet_congr h)

/-- A number that is written into bytes reads as written. -/
theorem State.memNat_put {s t : State} {a n x : Nat} (ht : t.mem = cellsPut s.mem a (bytesOf x n)) (hs : s.memWf) :
    t.memNat a n = x % 256 ^ n := by
  have h := cellsGet_cellsPut a (bytesOf x n) hs
  rw [bytesOf_length] at h
  unfold State.memNat
  rw [ht, h, natOfBytes_bytesOf]

/-- Bytes beside those written stay. -/
theorem cellAt_put_apart {m : List Host.Cell} (h : cellsWf m = true) {a k : Nat} {bs : List Byte} (hk : k < a ∨ a + bs.length ≤ k) :
    cellAt (cellsPut m a bs) k = cellAt m k := by
  rw [cellAt_cellsPut a k bs h, if_neg (by omega)]

theorem State.memNat_put_apart {s t : State} {a b n : Nat} {bs : List Byte} (ht : t.mem = cellsPut s.mem b bs) (hs : s.memWf)
    (h : a + n ≤ b ∨ b + bs.length ≤ a) : t.memNat a n = s.memNat a n :=
  State.memNat_congr fun i hi => by rw [ht, cellAt_put_apart hs (by omega)]

end Sys2Proof.Machine
end

section
namespace Sys2Proof.Machine

open Claims

/-! Posted slots (R66 to R68). -/

-- the status word of a posted card

theorem State.placeRecord_work (s : State) (l : Launch) : UnitWork s (s.placeRecord l).2 := by
  unfold State.placeRecord
  split
  · exact .refl s
  · split
    · rename_i h
      exact (State.spanPair_work h).1
    · exact .refl s

theorem State.wakeUp_work (s : State) : UnitWork s s.wakeUp := by
  unfold State.wakeUp
  split
  · exact ⟨rfl, rfl, id⟩
  · exact .refl s

theorem State.trackGrant_work (s : State) : UnitWork s s.trackGrant :=
  ⟨s.trackGrant_hart, s.trackGrant_parked, fun h => by unfold State.memWf; rw [s.trackGrant_mem]; exact h⟩

theorem State.accept_work (s : State) (l : Launch) : UnitWork s (s.accept l) := by
  have h : UnitWork s { (s.placeRecord l).2 with lu := { (s.placeRecord l).2.lu with
      launches := (s.placeRecord l).2.lu.launches ++ [{ l with complAt := (s.placeRecord l).1 }]
      nextLid := (s.placeRecord l).2.lu.nextLid + 1, imageClock := (s.placeRecord l).2.lu.imageClock + 1
      images := (s.placeRecord l).2.lu.images.map fun e =>
        if e.port = l.port ∧ e.pasid = l.pasid ∧ e.addr = l.image then { e with used := (s.placeRecord l).2.lu.imageClock + 1 }
        else e } } := by
    obtain ⟨hh, hp, hw⟩ := s.placeRecord_work l
    exact ⟨hh, hp, hw⟩
  exact ((h.trans (State.wakeUp_work _)).trans (State.trackGrant_work _)).trans (State.decides_settleOne _ _).unitWork

theorem postedStatus_work (port c : Nat) (s : State) : UnitWork s (postedStatus port c s).2 := by
  have hverify := (s.verifyImage_work (cardPort c) (cardPasid c) (recField c 0x10 8)).1
  unfold postedStatus
  dsimp only
  split
  · exact .refl s
  · split
    · split
      · exact hverify.trans (State.accept_work _ _)
      · exact hverify
      · exact hverify
    · split
      · exact s.accept_work _
      · exact .refl s
      · exact .refl s

-- answering the lowest slot

/-- An 8-byte entry of the table of answers. -/
def State.putEntry (s : State) (a x : Nat) : State := s.segWrite [⟨.dev a false, 8⟩] (bytesOf x 8)

theorem State.putEntry_mem (s : State) (a x : Nat) : (s.putEntry a x).mem = cellsPut s.mem a (bytesOf x 8) := by
  have h : (bytesOf x 8).take 8 = bytesOf x 8 := List.take_of_length_le (by simp)
  show cellsPut ((s.moves .passing true (.dev a false) 8).mem) a ((bytesOf x 8).take 8) = _
  rw [h, State.moves_mem]

theorem State.putEntry_work (s : State) (a x : Nat) : UnitWork s (s.putEntry a x) :=
  ⟨rfl, rfl, fun h => by unfold State.memWf; rw [s.putEntry_mem]; exact cellsWf_cellsPut _ _ h⟩

theorem State.setWord_mem (s : State) (a : Nat) (sy : Bool) (v : Nat) :
    (s.setWord (.dev a sy) v).mem = cellsPut s.mem a (bytesOf v 8) := by
  show cellsPut (s.moves .atomic true (.dev a sy) 8).mem a (bytesOf v 8) = _
  rw [State.moves_mem]

theorem State.setWord_work (s : State) (a : Nat) (sy : Bool) (v : Nat) : UnitWork s (s.setWord (.dev a sy) v) :=
  ⟨rfl, rfl, fun h => by unfold State.memWf; rw [s.setWord_mem]; exact cellsWf_cellsPut _ _ h⟩

/-- The status word and the cookie of a slot of the port whose region begins at `b`, and then the port's vector (R68). -/
def State.answerSlot (s : State) (b port slot : Nat) (w : Word) : State :=
  let s := s.putEntry (b + 0x4200 + 16 * slot) w.toNat
  let s := s.putEntry (b + 0x4200 + 16 * slot + 8) (s.memNat (b + 0x4000 + 8 * slot) 8)
  let vec := s.memNat (b + 0x4608) 2
  if vec = 0xFFFF then s else s.send [.msix port vec]

theorem State.answerSlot_eq {s u v : State} {b port slot : Nat} {w : Word} (hu : u = s.putEntry (b + 0x4200 + 16 * slot) w.toNat)
    (hv : v = u.putEntry (b + 0x4200 + 16 * slot + 8) (u.memNat (b + 0x4000 + 8 * slot) 8)) : s.answerSlot b port slot w =
      if v.memNat (b + 0x4608) 2 = 0xFFFF then v else v.send [.msix port (v.memNat (b + 0x4608) 2)] := by
  subst hu hv
  rfl

/-- The submission region after an answer: every place but the slot's entry as before, its status word and cookie, and the vector
sent. -/
theorem State.answerSlot_spec {s : State} (hs : s.memWf) {slot : Nat} (hslot : slot < 64) (b port : Nat) (w : Word) :
    (s.answerSlot b port slot w).hart = s.hart ∧
      (s.answerSlot b port slot w).memNat (b + 0x4600) 8 = s.memNat (b + 0x4600) 8 ∧
      (s.answerSlot b port slot w).memNat (b + 0x4200 + 16 * slot) 8 = w.toNat ∧
      (s.answerSlot b port slot w).memNat (b + 0x4200 + 16 * slot + 8) 8 = s.memNat (b + 0x4000 + 8 * slot) 8 ∧
      (s.memNat (b + 0x4608) 2 ≠ 0xFFFF → .msix port (s.memNat (b + 0x4608) 2) ∈ (s.answerSlot b port slot w).outbox) := by
  obtain ⟨u, hu⟩ : ∃ u, u = s.putEntry (b + 0x4200 + 16 * slot) w.toNat := ⟨_, rfl⟩
  obtain ⟨v, hv⟩ : ∃ v, v = u.putEntry (b + 0x4200 + 16 * slot + 8) (u.memNat (b + 0x4000 + 8 * slot) 8) := ⟨_, rfl⟩
  rw [State.answerSlot_eq hu hv]
  have hum : u.mem = cellsPut s.mem (b + 0x4200 + 16 * slot) (bytesOf w.toNat 8) := by rw [hu, State.putEntry_mem]
  have hvm : v.mem = cellsPut u.mem (b + 0x4200 + 16 * slot + 8) (bytesOf (u.memNat (b + 0x4000 + 8 * slot) 8) 8) := by
    rw [hv, State.putEntry_mem]
  have huw : u.memWf := by
    rw [hu]
    exact (s.putEntry_work _ _).wf hs
  have hhart : v.hart = s.hart := by
    rw [hv, (u.putEntry_work _ _).hart, hu, (s.putEntry_work _ _).hart]
  have hfirst (a n : Nat) (h : a + n ≤ b + 0x4200 + 16 * slot ∨ b + 0x4600 ≤ a) : u.memNat a n = s.memNat a n :=
    State.memNat_put_apart hum hs (by rw [bytesOf_length]; omega)
  have hsecond (a n : Nat) (h : a + n ≤ b + 0x4200 + 16 * slot + 8 ∨ b + 0x4600 ≤ a) : v.memNat a n = u.memNat a n :=
    State.memNat_put_apart hvm huw (by rw [bytesOf_length]; omega)
  have hread (a n : Nat) : (if v.memNat (b + 0x4608) 2 = 0xFFFF then v else v.send [.msix port (v.memNat (b + 0x4608) 2)]).memNat a n =
      v.memNat a n := by
    split <;> rfl
  refine ⟨?_, ?_, ?_, ?_, fun hne => ?_⟩
  · split <;> exact hhart
  · rw [hread, hsecond _ _ (by omega), hfirst _ _ (by omega)]
  · rw [hread, hsecond _ _ (by omega), State.memNat_put hum hs]
    exact Nat.mod_eq_of_lt w.isLt
  · rw [hread, State.memNat_put hvm huw, Nat.mod_eq_of_lt (State.memNat_lt _ _ _), hfirst _ _ (by omega)]
  · rw [hsecond _ _ (by omega), hfirst _ _ (by omega), if_neg hne, State.send_outbox]
    simp

/-- The lowest posted slot: its bit is cleared, its card decided, and the answer given (R68). -/
theorem exec_handlePostedSlot {port slot : Nat} {s : State} (hport : port < 2) (hslot : slot < 64)
    (hbit : (s.postmap port).testBit slot = true) (hlow : s.postmap port % 2 ^ slot = 0) (hfirst : port = 0 ∨ s.postmap 0 = 0)
    {s1 : State} (hs1 : s1 = s.setWord (.dev (Config.bar0 port + 0x4600) false) (s.postmap port - 2 ^ slot))
    (hclean : ∀ k, s1.linePoisoned k = false) {w : Word} {u : State}
    (hu : postedStatus port (s1.memNat (Config.bar0 port + 256 * slot) 256) s1 = (w, u)) :
    exec (.handlePostedSlot port slot) s = .next (u.answerSlot (Config.bar0 port) port slot w) := by
  subst hs1
  have hturn : (port == 1 && s.postmap 0 != 0) = false := by
    rcases hfirst with rfl | h0
    · rfl
    · simp [h0]
  show execHandlePostedSlot port slot s = _
  unfold execHandlePostedSlot
  simp only [hbit, hlow, hturn, hclean, Nat.not_le.mpr hport, Nat.not_le.mpr hslot, decide_false, Bool.not_true, bne_self_eq_false,
    Bool.or_self, Bool.false_eq_true, if_false, hu, Nat.add_zero]
  generalize Config.bar0 port = b
  rfl

/-- A slot that is not the lowest posted one is left alone (R68). -/
theorem exec_handlePostedSlot_later {port slot : Nat} {s : State} (hlow : s.postmap port % 2 ^ slot ≠ 0) :
    exec (.handlePostedSlot port slot) s = .next s := by
  show execHandlePostedSlot port slot s = _
  unfold execHandlePostedSlot
  simp [hlow]

theorem postedSlotsAreAnsweredInOrder : PostedSlotsAreAnsweredInOrder := by
  intro port slot s hinv hport hslot hbit
  refine ⟨fun h => exec_handlePostedSlot_later h, fun hlow hfirst => ?_⟩
  intro b s1 hclean w u hu hframe
  have hx := exec_handlePostedSlot hport hslot hbit hlow hfirst rfl hclean hu
  have hs1 : UnitWork s s1 := s.setWord_work _ _ _
  have hs1m : s1.mem = cellsPut s.mem (b + 0x4600) (bytesOf (s.postmap port - 2 ^ slot) 8) := s.setWord_mem _ _ _
  have hwork : UnitWork s1 u := by
    have h := postedStatus_work port (s1.memNat (b + 256 * slot) 256) s1
    rwa [hu] at h
  have hmap : s.postmap port - 2 ^ slot < 256 ^ 8 := lt_of_le_of_lt (Nat.sub_le _ _) (s.memNat_lt _ _)
  generalize s.postmap port - 2 ^ slot = map at hs1m hmap ⊢
  change exec _ s = .next (u.answerSlot b port slot w) at hx
  show ∃ t : State, _ ∧ _ ∧ t.memNat (b + 0x4600) 8 = _ ∧ _
  clear_value b s1
  have hsame (a n : Nat) (ha : b + 0x4000 ≤ a) (hn : a + n ≤ b + 0x460A) : u.memNat a n = s1.memNat a n :=
    State.memNat_congr fun i hi => hframe _ (by omega) (by omega)
  have hapart (a n : Nat) (h : a + n ≤ b + 0x4600 ∨ b + 0x4608 ≤ a) : s1.memNat a n = s.memNat a n :=
    State.memNat_put_apart hs1m hinv.1 (by rw [bytesOf_length]; omega)
  obtain ⟨hhart, hleft, hstatus, hcookie, hvec⟩ := State.answerSlot_spec (hwork.wf (hs1.wf hinv.1)) hslot b port w
  rw [hsame _ _ (by omega) (by omega)] at hleft hcookie
  rw [hsame (b + 0x4608) _ (by omega) (by omega), hapart _ _ (by omega)] at hvec
  refine ⟨_, hx, hhart.trans (hwork.hart.trans hs1.hart), ?_, hstatus, ?_, hvec⟩
  · rw [hleft, State.memNat_put hs1m hinv.1, Nat.mod_eq_of_lt hmap]
  · rw [hcookie, hapart _ _ (by omega)]

/-- Settles O21: a start folds first placements over the state that the copy leaves; verification and prerequisites change records
of one id; and the answer to a posted slot writes its own entries of the port's region. -/
theorem launchesStartFromTheirCards : Obligations.LaunchesStartFromTheirCards :=
  ⟨launchStartPlacesItsHarts, prerequisitesAndVerificationSettle, postedSlotsAreAnsweredInOrder⟩

end Sys2Proof.Machine
end

section
namespace Sys2Proof.Machine

open Claims

/-! Completions of requests to devices and hosts, page requests, and invalidations of host translations (R254, R263, R298, R403,
R404). -/

/-- The hart of the acting slot alone changes, when no parked hart stands on that slot. -/
theorem State.updHart_self {s : State} (h : ∀ g ∈ s.parked, g.hid ≠ s.hart.hid) (f : Hart → Hart) :
    s.updHart s.hart.hid f = { s with hart := f s.hart } := by
  have hmap : s.parked.map (fun g => if g.hid = s.hart.hid then f g else g) = s.parked :=
    (List.map_congr_left fun g hg => if_neg (h g hg)).trans (List.map_id' _)
  simp only [State.updHart, if_true, hmap]

/-- With no invalidation under way none ends. -/
theorem State.finishInvals_of_nil {s : State} (h : s.invals = []) : s.finishInvals = s := by
  cases s
  subst h
  simp [State.finishInvals, State.send]

theorem execTargetCompletion_none {tag : Nat} {s : State} (h : ∀ q ∈ s.targets, q.tag ≠ tag) (bs : List Byte) (ok : Bool) :
    exec (.targetCompletion tag bs ok) s = .next s := by
  have hfind : s.targets.find? (fun q => decide (q.tag = tag)) = none := by simpa using h
  show execTargetCompletion tag bs ok s = _
  unfold execTargetCompletion
  rw [hfind]

/-- What a completion does once its request has left the list (R254, R263): a store is acknowledged, and data goes to the engine
that asked, or to the hart. -/
def State.served (s : State) (q : TargetReq) (tag : Nat) (bs : List Byte) (ok : Bool) : State :=
  if q.store then s.post [.scalarStoreAck q.hid]
  else if s.awaited tag then s.answerAsks tag bs
  else s.completed q bs ok

theorem State.completed_invals (s : State) (q : TargetReq) (bs : List Byte) (ok : Bool) : (s.completed q bs ok).invals = s.invals := by
  unfold State.completed
  cases (s.hart? q.hid).any fun h => h.waitTag == some q.tag <;> dsimp only <;> split <;> rfl

theorem State.served_invals (s : State) (q : TargetReq) (tag : Nat) (bs : List Byte) (ok : Bool) :
    (s.served q tag bs ok).invals = s.invals := by
  unfold State.served
  split
  · rfl
  · split
    · rfl
    · exact s.completed_invals q bs ok

theorem execTargetCompletion_some {tag : Nat} {s : State} {q : TargetReq}
    (h : s.targets.find? (fun q => decide (q.tag = tag)) = some q) (hi : s.invals = []) (bs : List Byte) (ok : Bool) :
    exec (.targetCompletion tag bs ok) s =
      .next (({ s with targets := s.targets.filter fun q => decide (q.tag ≠ tag) } : State).served q tag bs ok) := by
  show execTargetCompletion tag bs ok s = _
  unfold execTargetCompletion
  rw [h]
  exact congrArg Host.Outcome.next (State.finishInvals_of_nil ((State.served_invals _ q tag bs ok).trans hi))

theorem State.awaited_of_noneAsks {s : State} {tag : Nat} (h : NoneAsks s tag) : s.awaited tag = false := by
  obtain ⟨hops, hcolls⟩ := h
  simp only [State.awaited, Bool.or_eq_false_iff, List.any_eq_false, beq_iff_eq, Bool.not_eq_true]
  exact ⟨fun o ho => by simpa using hops o ho, fun c hc => by simpa using hcolls c hc⟩

theorem State.awaited_of_ask {s : State} {tag : Nat} {o : EngineOp} {a : Fetch} (ho : o ∈ s.ops) (ha : a ∈ o.asks) (ht : a.tag = tag) :
    s.awaited tag = true := by
  simp only [State.awaited, Bool.or_eq_true, List.any_eq_true, beq_iff_eq]
  exact .inl ⟨o, ho, a, ha, ht⟩

section
variable {s : State} {q : TargetReq} (hq : q.hid = s.hart.hid) (hw : s.hart.waitTag = some q.tag)
  (hp : ∀ h ∈ s.parked, h.hid ≠ s.hart.hid)
include hq hw

theorem State.waits_self : ((s.hart? q.hid).any fun h => h.waitTag == some q.tag) = true := by
  simp [hq, hw]

include hp

/-- Data for the acting hart, which waits for it, is kept until its instruction runs again (R254, R263). -/
theorem State.completed_data {bs : List Byte} {ok : Bool} (h : (∃ pa, q.loc = .io pa) ∨ q.ats = false ∧ ok = true) :
    s.completed q bs ok =
      { s with hart := { s.hart with waitTag := none, replies := s.hart.replies ++ [⟨bs, ok, q.whole⟩] } } := by
  unfold State.completed
  simp only [State.waits_self hq hw, if_true]
  rw [hq]
  simp only [State.updHart_self hp]
  rcases h with ⟨pa, hl⟩ | ⟨ha, rfl⟩
  · rw [hl]
    cases q.ats <;> rfl
  · rw [ha]
    cases q.loc <;> rfl

/-- A granted translation is cached (R403). -/
theorem State.completed_granted {p va : Nat} {bs : List Byte} (hl : q.loc = .hostb p va) (ha : q.ats = true) :
    s.completed q bs true = { s with hart := { s.hart with waitTag := none }, ats := s.ats ++ [q.granted p va bs] } := by
  unfold State.completed
  simp only [State.waits_self hq hw, if_true, hl, ha]
  rw [hq]
  simp only [State.updHart_self hp, id]

/-- A denial sends a page request (R404). -/
theorem State.completed_denied {p va : Nat} {bs : List Byte} (hl : q.loc = .hostb p va) :
    s.completed q bs false = { s with hart := { s.hart with waitTag := none, pri := some (p, va, q.write) }
                                      outbox := s.outbox ++ [.pageReq p q.pasid va q.write] } := by
  unfold State.completed
  simp only [State.waits_self hq hw, if_true, hl]
  rw [hq]
  simp only [State.updHart_self hp, State.send]

end

theorem TargetReq.covers_iff (q : TargetReq) (i : Inval) : q.covers i = true ↔ ServedBy q i := by
  unfold TargetReq.covers ServedBy
  cases q.loc with
  | hostb p va =>
    simp only [Bool.and_eq_true, Bool.or_eq_true, Bool.not_eq_true', beq_iff_eq, List.any_eq_true, decide_eq_true_eq,
      Loc.hostb.injEq]
    constructor
    · rintro ⟨⟨⟨ha, hp⟩, hs⟩, h⟩
      exact ⟨ha, hs, va, ⟨hp, rfl⟩, h⟩
    · rintro ⟨ha, hs, v, ⟨hp, rfl⟩, h⟩
      exact ⟨⟨⟨ha, hp⟩, hs⟩, h⟩
  | _ => simp

theorem AtsEntry.covers_iff (e : AtsEntry) (port pasid page : Nat) :
    e.covers port pasid page false = true ↔ e.port = port ∧ e.pasid = pasid ∧ e.page ≤ page ∧ page < e.page + e.pages := by
  simp [AtsEntry.covers, and_assoc]

theorem exec_priResponse_self {s : State} {r : Nat × Nat × Bool} (hr : s.hart.pri = some r) (hp : ∀ h ∈ s.parked, h.hid ≠ s.hart.hid)
    (ok : Bool) : execPriResponse s.hart.hid ok s =
      .next { s with hart := { s.hart with pri := none, priDone := if ok then none else some r } } := by
  unfold execPriResponse
  rw [State.updHart_self hp]
  simp [Hart.priEnds, hr]

/-- The operation that asked for a tag alone holds the data (R298). -/
theorem State.answerAsks_spec {s : State} {q : TargetReq} {tag : Nat} {bs : List Byte} {ok : Bool} {o : EngineOp} {a : Fetch}
    (hst : q.store = false) (ho : o ∈ s.ops) (hask : o.asks = [a]) (ht : a.tag = tag) :
    let t := s.served q tag bs ok
    t.hart = s.hart ∧ t.mem = s.mem ∧ t.targets = s.targets ∧
      { o with asks := [{ a with bytes := some ((bs ++ List.replicate a.seg.len 0).take a.seg.len) }] } ∈ t.ops := by
  have hserve : s.served q tag bs ok = s.answerAsks tag bs := by
    unfold State.served
    rw [hst, if_neg Bool.false_ne_true, State.awaited_of_ask ho (hask ▸ List.mem_singleton_self a) ht, if_pos rfl]
  rw [hserve]
  refine ⟨rfl, rfl, rfl, List.mem_map.mpr ⟨o, ho, ?_⟩⟩
  simp [hask, Fetch.answered, ht]

/-- Data that no engine has asked for goes to the hart of the request. -/
theorem State.served_of_noneAsks {s : State} {q : TargetReq} {tag : Nat} (hst : q.store = false) (h : NoneAsks s tag)
    (bs : List Byte) (ok : Bool) : s.served q tag bs ok = s.completed q bs ok := by
  unfold State.served
  rw [hst, if_neg Bool.false_ne_true, State.awaited_of_noneAsks h, if_neg Bool.false_ne_true]

/-- An invalidation drops the translations that hold its page, and ends once no access that they served is out (R404). -/
theorem atsInvalidation_spec (port pasid va : Nat) {s : State} (hi : s.invals = []) :
    ∃ t d, exec (.atsInvalidation port pasid va) s = .next t ∧
      t = { s with ats := t.ats, invals := t.invals, outbox := t.outbox } ∧
      (∀ e, e ∈ t.ats ↔ e ∈ s.ats ∧
        ¬ (e.port = port ∧ e.pasid = pasid ∧ e.page ≤ va / 4096 ∧ va / 4096 < e.page + e.pages)) ∧
      (∀ x, x ∈ d ↔ ∃ e ∈ s.ats, e.port = port ∧ e.pasid = pasid ∧ e.page ≤ va / 4096 ∧ va / 4096 < e.page + e.pages ∧
        x = (e.page, e.pages)) ∧
      ((∀ q ∈ s.targets, ¬ ServedBy q ⟨port, pasid, va / 4096, d⟩) →
        t.invals = [] ∧ t.outbox = s.outbox ++ [.atsDone port pasid (va / 4096)]) ∧
      ((∃ q ∈ s.targets, ServedBy q ⟨port, pasid, va / 4096, d⟩) →
        t.invals = [⟨port, pasid, va / 4096, d⟩] ∧ t.outbox = s.outbox) := by
  refine ⟨_, (s.ats.filter (·.covers port pasid (va / 4096) false)).map fun e => (e.page, e.pages), rfl, ?_, ?_, ?_, ?_, ?_⟩
  · rfl
  · intro e
    simp [State.finishInvals, State.send, List.mem_filter, ← AtsEntry.covers_iff]
  · intro x
    simp only [List.mem_map, List.mem_filter, AtsEntry.covers_iff, eq_comm (a := x), and_assoc]
  · intro hnone
    have hbusy : (s.targets.any (·.covers _)) = false :=
      List.any_eq_false.mpr fun q hq => mt (TargetReq.covers_iff q _).mp (hnone q hq)
    simp [State.finishInvals, State.send, hi, hbusy]
  · rintro ⟨q, hq, hs⟩
    have hbusy : (s.targets.any (·.covers _)) = true := List.any_eq_true.mpr ⟨q, hq, (TargetReq.covers_iff q _).mpr hs⟩
    simp [State.finishInvals, State.send, hi, hbusy]

theorem targetsCompleteTheirRequests : TargetsCompleteTheirRequests := by
  refine ⟨fun tag bs ok s h => execTargetCompletion_none h bs ok, fun tag bs ok s q hq hi hp => ?_,
    fun s r hr hp => ⟨exec_priResponse_self hr hp true, exec_priResponse_self hr hp false, exec_priResponse_self hr hp false⟩,
    fun port pasid va s hi => atsInvalidation_spec port pasid va hi⟩
  intro rest
  rw [execTargetCompletion_some hq hi]
  have htag : q.tag = tag := by simpa using List.find?_some hq
  refine ⟨fun hst => ?_, fun hst o ho a ha hat hask => ⟨_, rfl, State.answerAsks_spec hst ho hask hat⟩,
    fun hst hnone hhid hw => ?_⟩
  · rw [State.served, hst, if_pos rfl]
    rfl
  · subst htag
    let r : State := { s with targets := rest }
    have hserve (bs : List Byte) (ok : Bool) : r.served q q.tag bs ok = r.completed q bs ok :=
      State.served_of_noneAsks (s := r) hst hnone bs ok
    refine ⟨fun pa hl => ?_, ?_, ?_, ?_⟩
    · exact congrArg _ ((hserve bs ok).trans (State.completed_data (s := r) hhid hw hp (.inl ⟨pa, hl⟩)))
    · rintro p va hl rfl ha
      exact congrArg _ ((hserve bs true).trans (State.completed_data (s := r) hhid hw hp (.inr ⟨ha, rfl⟩)))
    · rintro p va hl rfl ha
      exact congrArg _ ((hserve bs true).trans (State.completed_granted (s := r) hhid hw hp hl ha))
    · rintro p va hl rfl
      exact congrArg _ ((hserve bs false).trans (State.completed_denied (s := r) hhid hw hp hl))

end Sys2Proof.Machine
end

section
namespace Sys2Proof.Machine

open Claims

/-! Host ports: ranges of device memory and their lines, and what a host reads and writes there (R29, R67, R263, R418). -/

-- lines of a range

theorem mem_linesOf {a n : Nat} (hn : 0 < n) (l : Nat) : l ∈ linesOf a n ↔ ∃ i, i < n ∧ (a + i) / 128 = l := by
  simp only [linesOf, List.mem_map, List.mem_range]
  constructor
  · rintro ⟨k, hk, rfl⟩
    rcases Nat.eq_zero_or_pos k with rfl | hpos
    · exact ⟨0, hn, rfl⟩
    · exact ⟨128 * k - a % 128, by omega, by omega⟩
  · rintro ⟨i, hi, rfl⟩
    exact ⟨(a + i) / 128 - a / 128, by omega, by omega⟩

theorem hostRange_of_present {s : State} {pa n : Nat} (h : Present s pa n) : s.hostRange pa n = true := by
  obtain ⟨hn, hle, hst⟩ := h
  have hall : ((linesOf pa n).all fun l => !s.noStack (128 * l)) = true := by
    refine List.all_eq_true.mpr fun l hl => ?_
    obtain ⟨i, hi, rfl⟩ := (mem_linesOf hn l).mp hl
    simp [Nat.mul_comm 128, hst i hi]
  rw [State.hostRange, hall, decide_eq_true hle, Bool.true_and]

theorem meetsPin_iff {s : State} {pa n : Nat} (hn : 0 < n) : (linesOf pa n).any s.pinned = true ↔ MeetsPin s pa n := by
  simp only [List.any_eq_true, mem_linesOf hn, State.pinned, List.contains_iff_mem, MeetsPin]
  constructor
  · rintro ⟨_, ⟨i, hi, rfl⟩, e, he, hp⟩
    exact ⟨e, he, i, hi, hp⟩
  · rintro ⟨e, he, i, hi, hp⟩
    exact ⟨_, ⟨i, hi, rfl⟩, e, he, hp⟩

-- lines of a host's access

theorem Coherence.Clean.pass {c : Coherence} (h : c.Clean) (write : Bool) (line : Nat) : (c.pass write line).Clean := by
  have hh := (h.ready 4 line).hold 4 line write
  unfold Coherence.pass
  dsimp only
  split
  · exact hh
  · exact hh.evict 4 line

theorem Coherence.Clean.accessPassing {c : Coherence} (h : c.Clean) (sync write : Bool) (line : Nat) :
    (c.access .passing sync write line).Clean := by
  unfold Coherence.access
  dsimp only
  split
  · split
    · exact h.atHome line _ write
    · exact h.atHome line _ write
  · refine Coherence.Clean.pass ?_ write line
    exact h

theorem State.hostMoves_clean {s : State} (h : NoLinePoisoned s) (write : Bool) (pa n : Nat) :
    NoLinePoisoned (s.hostMoves write pa n) :=
  Coherence.clean_foldl (fun _ l hc => hc.accessPassing (s.syncLine l) write l) (linesOf pa n) h

-- what a host reads

theorem idkeyByte_of_not {a : Nat} (h : ∀ p, p < 2 → ¬ (Config.mgmt p + 0x20 ≤ a ∧ a < Config.mgmt p + 0x40)) (b : Byte) :
    idkeyByte a b = b := by
  have hfind : [0, 1].find? (fun p => decide (Config.mgmt p + 0x20 ≤ a) && decide (a < Config.mgmt p + 0x40)) = none := by
    simpa [List.find?_eq_none] using ⟨fun h0 => not_lt.mp fun h1 => h 0 (by decide) ⟨h0, h1⟩,
      fun h0 => not_lt.mp fun h1 => h 1 (by decide) ⟨h0, h1⟩⟩
  unfold idkeyByte
  rw [hfind]

theorem idkeyByte_of_find {a p : Nat}
    (h : [0, 1].find? (fun q => decide (Config.mgmt q + 0x20 ≤ a) && decide (a < Config.mgmt q + 0x40)) = some p) (b : Byte) :
    idkeyByte a b = (bytesOf (edPublic Config.identitySeed) 32).getD (a - (Config.mgmt p + 0x20)) 0 := by
  unfold idkeyByte
  rw [h]

theorem idkeyByte_of_key {p i : Nat} (hp : p < 2) (hi : i < 32) (b : Byte) :
    idkeyByte (Config.mgmt p + 0x20 + i) b = (bytesOf (edPublic Config.identitySeed) 32).getD i 0 := by
  have hin : (decide (Config.mgmt p + 0x20 ≤ Config.mgmt p + 0x20 + i) &&
      decide (Config.mgmt p + 0x20 + i < Config.mgmt p + 0x40)) = true := by
    rw [decide_eq_true (Nat.le_add_right _ _), decide_eq_true (by omega), Bool.and_self]
  have hfind : [0, 1].find? (fun q => decide (Config.mgmt q + 0x20 ≤ Config.mgmt p + 0x20 + i) &&
      decide (Config.mgmt p + 0x20 + i < Config.mgmt q + 0x40)) = some p := by
    obtain rfl | rfl : p = 0 ∨ p = 1 := by omega
    · exact List.find?_cons_of_pos hin
    · have hapart : ¬ Config.mgmt 1 + 0x20 + i < Config.mgmt 0 + 0x40 := by
        have hstep : Config.mgmt 1 = Config.mgmt 0 + 0x10000 := rfl
        omega
      rw [List.find?_cons_of_neg (by rw [decide_eq_false hapart, Bool.and_false]; exact Bool.false_ne_true)]
      exact List.find?_cons_of_pos hin
  rw [idkeyByte_of_find hfind, Nat.add_sub_cancel_left]

theorem State.hostBytes_eq {s : State} {pa n : Nat} (h : NoKeyBytes pa n) : s.hostBytes pa n = cellsGet s.mem pa n :=
  List.map_congr_left fun i hi => idkeyByte_of_not (fun p hp => h i p (List.mem_range.mp hi) hp) _

theorem State.hostBytes_key (s : State) {p : Nat} (hp : p < 2) :
    s.hostBytes (Config.mgmt p + 0x20) 32 = bytesOf (edPublic Config.identitySeed) 32 := by
  have hlen : (bytesOf (edPublic Config.identitySeed) 32).length = 32 := bytesOf_length _ _
  generalize hbs : bytesOf (edPublic Config.identitySeed) 32 = bs at hlen
  refine List.ext_getElem (by simp [State.hostBytes, hlen]) fun i hi _ => ?_
  have hi32 : i < 32 := by simpa [State.hostBytes] using hi
  simp only [State.hostBytes, List.getElem_map, List.getElem_range, idkeyByte_of_key hp hi32, hbs]
  exact List.getD_eq_getElem _ _ _

-- what a host writes

/-- A write of device memory: its bytes, and every other as before. -/
theorem sameOutside_dev {s t : State} {a : Nat} {sy : Bool} {bs : List Byte} (ht : t.mem = cellsPut s.mem a bs) (hr : t.regions = s.regions)
    (hs : s.memWf) : SameOutside s t (.dev a sy) bs.length := by
  intro p hp hw
  cases p with
  | dev b sy' =>
    simp only [within, Bool.and_eq_false_iff, decide_eq_false_iff_not] at hw
    show cellAt t.mem (b + 0) = cellAt s.mem (b + 0)
    rw [ht, cellAt_put_apart hs (by omega)]
  | scr c l off =>
    simp only [byteAt, State.region?, hr]
  | _ => cases hp

/-- A host's write of lines that no image pins (R263). -/
theorem State.hostWrite_spec {s : State} {port pa : Nat} {bs : List Byte} (hn : 0 < bs.length) (hpin : ¬ MeetsPin s pa bs.length) :
    (s.hostWrite port pa bs).mem = cellsPut s.mem pa bs ∧
      s.hostWrite port pa bs = { s with mem := (s.hostWrite port pa bs).mem, coh := (s.hostWrite port pa bs).coh,
                                        inbox := (s.hostWrite port pa bs).inbox } := by
  unfold State.hostWrite
  rw [if_neg (mt (meetsPin_iff hn).mp hpin)]
  exact ⟨rfl, rfl⟩

section
variable {s : State} {port : Nat}

theorem execHostPortRequest_down (hp : ¬ PortUp s port) (r : HostReq) : exec (.hostPortRequest port r) s = .next s := by
  have hdown : ((s.svc.units.host[port]?).map (·.trained)).getD false = false := by
    cases h : s.svc.units.host[port]? with
    | none => rfl
    | some p => exact Bool.eq_false_iff.mpr fun ht => hp ⟨p, h, ht⟩
  show execHostPortRequest port r s = _
  unfold execHostPortRequest
  rw [hdown]
  simp

variable (hs : Powered s) (hp : PortUp s port)
include hs hp

/-- A port that is there, on a module with power, takes requests (R46). -/
theorem portServes : ¬ (decide (s.svc.power = .off) || !((s.svc.units.host[port]?).map (·.trained)).getD false) = true := by
  obtain ⟨p, hp, htr⟩ := hp
  simp [hp, htr, show s.svc.power ≠ .off from hs]

theorem exec_hostRead {pa n : Nat} (h : Present s pa n) : exec (.hostPortRequest port (.read pa n)) s = .next (s.hostRead port pa n) := by
  show execHostPortRequest port (.read pa n) s = _
  unfold execHostPortRequest
  rw [if_neg (portServes hs hp)]
  simp only [hostRange_of_present h, if_true]

theorem exec_hostWrite {pa : Nat} {bs : List Byte} (h : Present s pa bs.length) :
    exec (.hostPortRequest port (.write pa bs)) s = .next (s.hostWrite port pa bs) := by
  show execHostPortRequest port (.write pa bs) s = _
  unfold execHostPortRequest
  rw [if_neg (portServes hs hp)]
  simp only [hostRange_of_present h, if_true]

theorem exec_hostFetchAdd {pa : Nat} (h : Present s pa 8) (hal : pa % 8 = 0) (n : Nat) :
    exec (.hostPortRequest port (.fetchAdd pa n)) s =
      .next ((s.hostRead port pa 8).hostWrite port pa (bytesOf ((natOfBytes (s.hostBytes pa 8) + n) % 2 ^ 64) 8)) := by
  show execHostPortRequest port (.fetchAdd pa n) s = _
  unfold execHostPortRequest
  rw [if_neg (portServes hs hp)]
  simp only [hostRange_of_present h, hal, beq_self_eq_true, Bool.and_self, if_true]

end

theorem hostPortsReachDeviceMemory : HostPortsReachDeviceMemory := by
  intro port s hs
  refine ⟨fun hdown r => execHostPortRequest_down hdown r, fun hup => ⟨fun pa n hpres => ?_, fun pa bs hpres hpin => ?_,
    fun pa bs hpres hpin hinv => ?_, fun pa n hpres hal hkey hpin hinv => ?_⟩⟩
  · have hbad : ((linesOf pa n).any s.linePoisoned) = true ↔ ∃ i, i < n ∧ s.linePoisoned ((pa + i) / 128) = true := by
      simp [mem_linesOf hpres.1]
    refine ⟨s.hostRead port pa n, s.hostBytes pa n, _, exec_hostRead hs hup hpres, rfl, fun h => State.hostMoves_clean h _ _ _, hbad,
      State.hostBytes_eq, ?_⟩
    rintro p hp rfl rfl
    exact s.hostBytes_key hp
  · rw [exec_hostWrite hs hup hpres, State.hostWrite, if_pos ((meetsPin_iff hpres.1).mpr hpin)]
    rfl
  · obtain ⟨hmem, honly⟩ := State.hostWrite_spec (port := port) hpres.1 hpin
    refine ⟨_, exec_hostWrite hs hup hpres, honly, ?_, sameOutside_dev hmem (by rw [honly]) hinv.1⟩
    rw [hmem]
    exact cellsGet_cellsPut pa bs hinv.1
  · have hx := exec_hostFetchAdd hs hup hpres hal n
    rw [State.hostBytes_eq hkey] at hx
    have hlen := bytesOf_length ((natOfBytes (cellsGet s.mem pa 8) + n) % 2 ^ 64) 8
    obtain ⟨hmem, honly⟩ := State.hostWrite_spec (s := s.hostRead port pa 8) (port := port)
      (bs := bytesOf ((natOfBytes (cellsGet s.mem pa 8) + n) % 2 ^ 64) 8) (by rw [hlen]; decide) (by rw [hlen]; exact hpin)
    refine ⟨_, hx, by rw [honly]; rfl, ?_, ?_⟩
    · show State.memNat _ pa 8 = _
      rw [State.memNat_put hmem hinv.1, Nat.mod_mod_of_dvd _ (by decide)]
      rfl
    · have h := sameOutside_dev (s := s) (sy := false) hmem (by rw [honly]; rfl) hinv.1
      rwa [hlen] at h

end Sys2Proof.Machine
end

section
namespace Sys2Proof.Machine

open Claims

/-! Scalar accesses reach their place: the granule counted, the address translated, and nothing older in the way (R38, R169, R298). -/

/-- What reaching a place changes: the traffic counted, A and D bits, and the caches. -/
def OnlyReached (s t : State) : Prop :=
  t = { s with lu := t.lu, draw := t.draw, mem := t.mem, tlb := t.tlb, coh := t.coh
               hart := { s.hart with begun := t.hart.begun } }

theorem OnlyReached.trans {s t u : State} (h : OnlyReached s t) (k : OnlyReached t u) : OnlyReached s u := by
  unfold OnlyReached at *
  rw [k, h]

theorem OnlyMem.reached {s t : State} (h : OnlyMem s t) : OnlyReached s t := by
  unfold OnlyMem at h
  unfold OnlyReached
  rw [h]

theorem countTraffic_reached (s : State) : OnlyReached s s.countTraffic := by
  unfold State.countTraffic
  split <;> exact rfl

theorem countGranule_reached (s : State) (n : Nat) : OnlyReached s (s.countGranule n) := by
  unfold State.countGranule
  split
  · exact rfl
  · exact (countTraffic_reached s).trans rfl

theorem counted_reached (s : State) : OnlyReached s (counted s) := by
  unfold counted
  split
  · exact rfl
  · exact countGranule_reached s 0

/-- PASIDs do not hang on what is counted. -/
theorem State.pasidOf_updLaunch (s : State) (lid k : Nat) {f : Launch → Launch} (hf : ∀ l, (f l).pasid = l.pasid ∧ (f l).lid = l.lid) :
    (s.updLaunch lid f).pasidOf k = s.pasidOf k := by
  unfold State.pasidOf
  rw [State.launch?_updLaunch s (fun l => (hf l).2)]
  cases s.launch? k with
  | none => rfl
  | some l =>
    simp only [Option.map_some]
    split
    · rw [(hf l).1]
    · rfl

theorem counted_pasid (s : State) : (counted s).pasid = s.pasid := by
  have hcount : s.countTraffic.pasid = s.pasid := by
    unfold State.countTraffic
    split
    · rfl
    · exact State.pasidOf_updLaunch s _ _ fun _ => ⟨rfl, rfl⟩
  unfold counted
  split
  · rfl
  · unfold State.countGranule
    split
    · rfl
    · exact hcount

theorem State.xlateOnce_onlyMem {s t : State} {va : Nat} {acc : Access} {lanes : Bool} {loc : Loc}
    (h : s.xlateOnce va acc lanes = .ok (loc, t)) : OnlyMem s t := by
  unfold State.xlateOnce at h
  split at h
  · cases h
    exact OnlyMem.refl s
  · exact State.xlate_onlyMem h

section
variable {s u : State} {va n : Nat} {acc : Access} {loc : Loc}

theorem onlyReached_of_reaches (h : Reaches s va n acc loc u) : OnlyReached s u :=
  (counted_reached s).trans (State.xlateOnce_onlyMem h.1.2.2).reached

theorem sameHart_of_reaches (h : Reaches s va n acc loc u) :
    u.hart.hid = s.hart.hid ∧ u.hart.pc = s.hart.pc ∧ u.hart.x = s.hart.x ∧ u.hart.run = s.hart.run := by
  have hhart : u.hart = { s.hart with begun := u.hart.begun } := congrArg State.hart (onlyReached_of_reaches h)
  rw [hhart]
  exact ⟨rfl, rfl, rfl, rfl⟩

theorem pasid_of_reaches (h : Reaches s va n acc loc u) : u.pasid = s.pasid := by
  have hu : u.pasid = (counted s).pasid := by
    rw [State.xlateOnce_onlyMem h.1.2.2]
    rfl
  exact hu.trans (counted_pasid s)

theorem Act.granule_counted (h : InBudget s) : Act.granule 0 s = .ok () (counted s) := by
  unfold Act.granule counted
  rw [Act.get_bind]
  cases hl : s.myLaunch with
  | none => rfl
  | some l =>
    simp only [h l hl]
    rfl

theorem Act.waitUntil_ok {ok : Bool} (h : ok = true) (s : State) : Act.waitUntil ok s = .ok () s := by
  unfold Act.waitUntil
  rw [if_pos h]
  rfl

theorem Act.reach_ok {t : State} (hx : t.xlateOnce va acc = .ok (loc, u)) (hf : u.engineHolds loc = false) :
    Act.reach va acc false t = .ok loc u := by
  have hl : Act.xlate va acc false t = .ok loc u := by
    unfold Act.xlate
    rw [Act.get_bind, hx]
    rfl
  unfold Act.reach
  rw [Act.bind_ok hl, Act.get_bind, Act.bind_ok (Act.waitUntil_ok (by rw [hf]; rfl) _)]
  rfl

/-- A scalar access reaches its place (R169, R177). -/
theorem scalarPlace_ok (h : Reaches s va n acc loc u) : scalarPlace va n acc s = .ok loc u := by
  obtain ⟨⟨hb, hal, hx⟩, hengine, hstore⟩ := h
  unfold scalarPlace
  rw [Act.bind_ok (Act.granule_counted hb), Act.bind_ok (Act.check_ok (by rw [hal]; rfl) _ _ _),
    Act.bind_ok (Act.reach_ok hx hengine), Act.get_bind, Act.bind_ok (Act.waitUntil_ok (by rw [hstore]; rfl) _)]
  rfl

end

theorem Act.holding_ok {α : Type} {acc : Access} {vas : List Nat} {lanes : Bool} {m : Act α} {s t : State} {a : α} (h : m s = .ok a t) :
    Act.holding acc vas m lanes s = .ok a t := by
  unfold Act.holding
  rw [h]

theorem Act.holding_wait {α : Type} {acc : Access} {vas : List Nat} {lanes : Bool} {m : Act α} {s t : State} {a k : Bool}
    (h : m s = .error (.wait a k) t) : Act.holding acc vas m lanes s = .error (.wait a k)
      (if t.hart.begun.held.isSome then t
      else (t.xlateAll acc lanes vas).2.withBegun fun b => { b with held := some (t.xlateAll acc lanes vas).1 }) := by
  unfold Act.holding
  rw [h]
  dsimp only
  split <;> rfl

end Sys2Proof.Machine
end

section
namespace Sys2Proof.Machine

open Claims

/-! Scalar loads and stores of devices (R177, R254, R263). -/

-- bytes and their extension

theorem testBit_natOfBytes (bs : List Byte) (i : Nat) {j : Nat} (hj : j < 8) :
    (natOfBytes bs).testBit (8 * i + j) = (bs.getD i 0).getLsbD j := by
  induction bs generalizing i with
  | nil => simp [natOfBytes]
  | cons b bs ih =>
    have hsum : natOfBytes (b :: bs) = 2 ^ 8 * natOfBytes bs + b.toNat := Nat.add_comm _ _
    rw [hsum, Nat.testBit_two_pow_mul_add _ b.isLt]
    cases i with
    | zero =>
      rw [Nat.mul_zero, Nat.zero_add, if_pos hj]
      rfl
    | succ i =>
      rw [if_neg (by omega), show 8 * (i + 1) + j - 8 = 8 * i + j by omega, ih]
      rfl

theorem wordOfInt_eq_ofInt (x : Int) : wordOfInt x = BitVec.ofInt 64 x := by
  have hnonneg : 0 ≤ x % (2 ^ 64 : Int) := Int.emod_nonneg _ (by decide)
  have hlt : x % (2 ^ 64 : Int) < 2 ^ 64 := Int.emod_lt_of_pos _ (by decide)
  refine BitVec.eq_of_toNat_eq ?_
  rw [wordOfInt, BitVec.toNat_ofNat, BitVec.toNat_ofInt]
  exact Nat.mod_eq_of_lt ((Int.toNat_lt hnonneg).mpr hlt)

theorem sextNat_eq_toInt (x : Nat) {m : Nat} (hm : 0 < m) : sextNat x m = (BitVec.ofNat m x).toInt := by
  obtain ⟨k, rfl⟩ : ∃ k, m = k + 1 := ⟨m - 1, by omega⟩
  unfold sextNat
  rw [BitVec.toInt_eq_toNat_cond, BitVec.toNat_ofNat]
  have h2 : 2 ^ (k + 1) = 2 * 2 ^ k := pow_succ' 2 k
  simp only [Nat.add_sub_cancel, Nat.succ_ne_zero, if_false]
  generalize x % 2 ^ (k + 1) = y
  by_cases h : y < 2 ^ k
  · rw [if_pos h, if_pos (by omega)]
  · rw [if_neg h, if_neg (by omega)]
    push_cast
    rfl

/-- The word that a load writes, as an extension of the number that it has read. -/
theorem loadedWord_eq (x : Nat) {n : Nat} (hn : 0 < n) (hx : x < 2 ^ (8 * n)) (h8 : n ≤ 8) (sgn : Bool) :
    (if sgn then wordOfInt (sextNat x (8 * n)) else wordOfNat x) =
      if sgn then (BitVec.ofNat (8 * n) x).signExtend 64 else (BitVec.ofNat (8 * n) x).setWidth 64 := by
  cases sgn
  · refine BitVec.eq_of_toNat_eq ?_
    have hle : 2 ^ (8 * n) ≤ 2 ^ 64 := Nat.pow_le_pow_right (by decide) (by omega)
    simp [wordOfNat, Nat.mod_eq_of_lt hx]
  · rw [if_pos rfl, if_pos rfl, wordOfInt_eq_ofInt, sextNat_eq_toInt _ (by omega)]
    rfl

/-- Such a word holds the bytes that were read, and their sign or zeros above them (R177). -/
theorem extends_natOfBytes {bs : List Byte} {n : Nat} (hlen : bs.length = n) (hn : 0 < n) (h8 : n ≤ 8) (sgn : Bool) :
    Extends (if sgn then wordOfInt (sextNat (natOfBytes bs) (8 * n)) else wordOfNat (natOfBytes bs)) n sgn fun k => bs.getD k 0 := by
  have hlt : natOfBytes bs < 2 ^ (8 * n) := by
    have h := natOfBytes_lt bs
    rwa [hlen, show 256 = 2 ^ 8 from rfl, ← pow_mul] at h
  rw [loadedWord_eq _ hn hlt h8]
  have hbit (k : Nat) (hk : k < 64) :
      (if sgn then (BitVec.ofNat (8 * n) (natOfBytes bs)).signExtend 64 else (BitVec.ofNat (8 * n) (natOfBytes bs)).setWidth 64).getLsbD k =
        if k < 8 * n then (natOfBytes bs).testBit k else sgn && (natOfBytes bs).testBit (8 * n - 1) := by
    have hlow (j : Nat) (hj : j < 8 * n) : (BitVec.ofNat (8 * n) (natOfBytes bs)).getLsbD j = (natOfBytes bs).testBit j := by
      rw [BitVec.getLsbD_ofNat, decide_eq_true hj, Bool.true_and]
    cases sgn
    · rw [if_neg Bool.false_ne_true, BitVec.getLsbD_setWidth, decide_eq_true hk, Bool.true_and]
      by_cases hk8 : k < 8 * n
      · rw [if_pos hk8, hlow k hk8]
      · rw [if_neg hk8, BitVec.getLsbD_of_ge _ _ (by omega), Bool.false_and]
    · rw [if_pos rfl, BitVec.getLsbD_signExtend, decide_eq_true hk, Bool.true_and]
      by_cases hk8 : k < 8 * n
      · rw [if_pos hk8, if_pos hk8, hlow k hk8]
      · rw [if_neg hk8, if_neg hk8, BitVec.msb_eq_getLsbD_last, hlow _ (by omega), Bool.true_and]
  refine ⟨fun i hi => BitVec.eq_of_getLsbD_eq fun j hj => ?_, fun j hj hnj => ?_⟩
  · rw [BitVec.getLsbD_extractLsb', hbit _ (by omega), if_pos (by omega), testBit_natOfBytes bs i hj]
    simp [hj]
  · rw [hbit j hj, hbit _ (by omega), if_neg (by omega), if_pos (by omega)]

theorem bytesOf_toNat (w : Word) (n : Nat) : bytesOf w.toNat n = (List.range n).map fun k => w.extractLsb' (8 * k) 8 := by
  have hbytes (x : Nat) : bytesOf x n = (List.range n).map fun k => BitVec.ofNat 8 (x / 2 ^ (8 * k)) := by
    induction n generalizing x with
    | zero => rfl
    | succ n ih =>
      have hstep (k : Nat) : x / 256 / 2 ^ (8 * k) = x / 2 ^ (8 * (k + 1)) := by
        rw [Nat.div_div_eq_div_mul, Nat.mul_add, Nat.add_comm, pow_add]
        rfl
      rw [List.range_succ_eq_map, List.map_cons, List.map_map, bytesOf, ih]
      simp only [hstep, Nat.mul_zero, pow_zero, Nat.div_one]
      rfl
  rw [hbytes]
  refine List.map_congr_left fun k _ => ?_
  simp [BitVec.extractLsb', Nat.shiftRight_eq_div_pow]

end Sys2Proof.Machine
end

section
namespace Sys2Proof.Machine

open Claims

/-! Scalar loads and stores of devices: a request is out while the load waits, and a store leaves as one (R177, R254, R263, R402). -/

-- translation does not hang on the requests that are out

/-- The state with other requests out, and another one that the acting hart waits for. -/
def State.withRequests (s : State) (tag : Option Nat) (next : Nat) (qs : List TargetReq) (ms : List OutMsg) : State :=
  { s with nextTag := next, targets := qs, outbox := ms, hart := { s.hart with waitTag := tag } }

section
variable (s : State) (tag : Option Nat) (next : Nat) (qs : List TargetReq) (ms : List OutMsg)

theorem State.walkFrom_withRequests (va : Nat) (acc : Access) (l t : Nat) :
    (s.withRequests tag next qs ms).walkFrom va acc l t = s.walkFrom va acc l t := by
  induction l generalizing t with
  | zero => rfl
  | succ l ih =>
    unfold State.walkFrom
    simp only [ih]
    rfl

theorem State.leafFor_withRequests (caches : List Nat) (asid root va : Nat) (acc : Access) :
    (s.withRequests tag next qs ms).leafFor caches asid root va acc = s.leafFor caches asid root va acc := by
  unfold State.leafFor
  rw [State.walkFrom_withRequests]
  rfl

theorem State.markUsed_withRequests (f : Leaf) (acc : Access) :
    (s.withRequests tag next qs ms).markUsed f acc = (s.markUsed f acc).withRequests tag next qs ms := by
  unfold State.markUsed
  split <;> rfl

theorem State.hold_withRequests (caches : List Nat) (asid va : Nat) (f : Leaf) (acc : Access) :
    (s.withRequests tag next qs ms).hold caches asid va f acc = (s.hold caches asid va f acc).withRequests tag next qs ms := by
  unfold State.hold
  induction caches generalizing s with
  | nil => rfl
  | cons c cs ih =>
    have hstep : (s.withRequests tag next qs ms).holdIn asid va f acc c = (s.holdIn asid va f acc c).withRequests tag next qs ms := by
      have htlb : (s.withRequests tag next qs ms).tlb = s.tlb := rfl
      unfold State.holdIn
      simp only [htlb]
      split <;> rfl
    rw [List.foldl_cons, List.foldl_cons, hstep, ih]

theorem State.xlateIn_withRequests (caches : List Nat) (asid root : Nat) (task : Bool) (va : Nat) (acc : Access) :
    (s.withRequests tag next qs ms).xlateIn caches asid root task va acc =
      (s.xlateIn caches asid root task va acc).map fun p => (p.1, p.2.withRequests tag next qs ms) := by
  have hstack (a : Nat) : (s.withRequests tag next qs ms).noStack a = s.noStack a := rfl
  have hlu : (s.withRequests tag next qs ms).lu = s.lu := rfl
  unfold State.xlateIn
  rw [State.leafFor_withRequests]
  simp only [State.markUsed_withRequests, State.hold_withRequests, hstack, hlu]
  split
  · rfl
  · split
    · rfl
    · split
      · rfl
      · split
        · split
          · rfl
          · split <;> rfl
        · rfl

theorem State.xlate_withRequests (va : Nat) (acc : Access) (lanes : Bool) :
    (s.withRequests tag next qs ms).xlate va acc lanes =
      (s.xlate va acc lanes).map fun p => (p.1, p.2.withRequests tag next qs ms) := by
  have hin := s.xlateIn_withRequests tag next qs ms (s.caches lanes) s.hart.asid s.hart.ptroot.toNat (!s.hart.super) va acc
  have hwin : inWindow (s.withRequests tag next qs ms).hart va = inWindow s.hart va := rfl
  have hkib : (s.withRequests tag next qs ms).scratchKib = s.scratchKib := rfl
  have hbase : (s.withRequests tag next qs ms).hart.spbase = s.hart.spbase := rfl
  unfold State.xlate
  simp only [hwin, hkib, hbase]
  split
  · split <;> rfl
  · split
    · split <;> rfl
    · exact hin

theorem State.xlateAll_withRequests (acc : Access) (lanes : Bool) (vas : List Nat) :
    (s.withRequests tag next qs ms).xlateAll acc lanes vas =
      ((s.xlateAll acc lanes vas).1, (s.xlateAll acc lanes vas).2.withRequests tag next qs ms) := by
  induction vas generalizing s with
  | nil => rfl
  | cons va vas ih =>
    unfold State.xlateAll
    rw [State.xlate_withRequests]
    cases s.xlate va acc lanes with
    | error c => rfl
    | ok p => simp only [Except.map, ih]

end

theorem State.xlateAll_onlyMem (s : State) (acc : Access) (lanes : Bool) (vas : List Nat) :
    OnlyMem s (s.xlateAll acc lanes vas).2 := by
  induction vas generalizing s with
  | nil => exact .refl s
  | cons va vas ih =>
    unfold State.xlateAll
    cases h : s.xlate va acc lanes with
    | error c => exact .refl s
    | ok p => exact (State.xlate_onlyMem h).trans (ih p.2)

-- the end of an instruction

/-- An instruction that has completed: what was kept for it goes, and its hart may issue. -/
def State.finished (t : State) : State :=
  t.withHart fun h => { h.settled with run := if h.run == .stalled || h.run == .sleep then .ready else h.run }

theorem State.rx_finished (t : State) (r : Reg) : t.finished.rx r = t.rx r := rfl

/-- Registers that hold the same read the same. -/
theorem State.rx_congr {s t : State} (h : t.hart.x = s.hart.x) (r : Reg) : t.rx r = s.rx r := by
  unfold State.rx
  rw [h]

/-- An instruction that writes a scalar register alone, as a change of the hart. -/
theorem State.done1_eq (s : State) (d : Reg) (w : Word) :
    s.done1 d w = { s with hart := { s.hart with x := (s.hart.wx d w).x, pc := s.hart.pc + 4, fbuf := s.hart.fbuf - 1 } } := by
  unfold State.done1 State.wx State.advance State.withHart Hart.wx
  split <;> rfl

theorem Act.run_ok {m : Act Unit} {s t : State} (h : m s = .ok () t) (vector : Bool) : Act.run vector m s = .next t.finished := by
  unfold Act.run
  rw [h]
  rfl

theorem Act.run_wait {m : Act Unit} {s t : State} (h : m s = .error (.wait false false) t) (vector : Bool) :
    Act.run vector m s = .next ((t.withHart fun h => { h with replies := s.hart.replies }).stall false) := by
  unfold Act.run
  rw [h]
  rfl

-- loads

/-- A load form's instruction is a load of its bytes at its address (R177). -/
theorem exec_of_loadForm {s : State} {i : Instr} {n va : Nat} {sgn : Bool} {d : Reg} (h : loadForm s i = some (n, sgn, d, va)) :
    ∃ (a : Reg) (o : BitVec 13), va = (s.addr13 a o).toNat ∧ exec i s = Act.run false (loadScalar n sgn d a o) s ∧ 0 < n ∧ n ≤ 8 := by
  have haddr (a : Reg) (o : BitVec 13) : (BitVec.ofInt 64 ((s.rx a).toInt + o.toInt)).toNat = (s.addr13 a o).toNat := by
    rw [BitVec.ofInt_add, BitVec.ofInt_toInt]
    rfl
  unfold loadForm at h
  split at h
  case h_8 => cases h
  all_goals
    cases h
    exact ⟨_, _, haddr _ _, rfl, by decide, by decide⟩

/-- The state in which a load of a device waits: one request is out (R263). -/
def State.asking (u : State) (pa n : Nat) : State :=
  u.withRequests (some u.nextTag) (u.nextTag + 1)
    (u.targets ++ [⟨u.nextTag, u.hart.hid, false, false, false, .io pa, u.pasid, false, true⟩])
    (u.outbox ++ [.readReq u.nextTag u.pasid (.io pa) n])

theorem Act.load_asks {u : State} (hr : u.hart.replies = []) (hw : u.hart.waitTag = none) (va pa n : Nat) :
    Act.load va (.io pa) n none u = .error (.wait false false) (u.asking pa n) := by
  have hreply : Act.readAt (.io pa) n none u = .error (.wait false false) (u.asking pa n) := by
    unfold Act.readAt
    rw [Act.get_bind]
    dsimp only
    unfold Act.reply
    rw [Act.get_bind, hr]
    dsimp only
    unfold Act.request
    rw [Act.get_bind, hw]
    rfl
  unfold Act.load
  rw [Act.get_bind, Act.bind_ok (Act.check_ok (ok := !u.poisonedAt (.io pa) n) rfl _ _ _), Act.bind_error hreply]

theorem Act.load_replied {u : State} {r : Reply} {rest : List Reply} (hr : u.hart.replies = r :: rest) (va pa n : Nat) :
    Act.load va (.io pa) n none u = .ok (natOfBytes r.bytes) (u.withHart fun h => { h with replies := rest }) := by
  have hreply : Act.readAt (.io pa) n none u = .ok r.bytes (u.withHart fun h => { h with replies := rest }) := by
    unfold Act.readAt
    rw [Act.get_bind]
    dsimp only
    unfold Act.reply
    rw [Act.get_bind, hr]
    rfl
  unfold Act.load
  rw [Act.get_bind, Act.bind_ok (Act.check_ok (ok := !u.poisonedAt (.io pa) n) rfl _ _ _), Act.bind_ok hreply]
  rfl

/-- An access to an address that waits keeps the translation of its address (R402). -/
theorem Act.holding_asks {α : Type} {acc : Access} {va : Nat} {m : Act α} {s u : State} {tag : Option Nat} {next : Nat}
    {qs : List TargetReq} {ms : List OutMsg} (h : m s = .error (.wait false false) (u.withRequests tag next qs ms)) :
    ∃ b, Act.holding acc [va] m false s = .error (.wait false false)
      (((dispatchedAll u acc [va]).withRequests tag next qs ms).withBegun b) := by
  have hbegun : (u.withRequests tag next qs ms).hart.begun = u.hart.begun := rfl
  rw [Act.holding_wait h, hbegun, State.xlateAll_withRequests]
  unfold dispatchedAll
  cases u.hart.begun.held.isSome
  · exact ⟨fun b => { b with held := some (u.xlateAll acc false [va]).1 }, rfl⟩
  · exact ⟨id, rfl⟩

theorem dispatchedAll_onlyMem (u : State) (acc : Access) (vas : List Nat) : OnlyMem u (dispatchedAll u acc vas) := by
  unfold dispatchedAll
  split
  · exact .refl u
  · exact u.xlateAll_onlyMem acc false vas

/-- A load of a device with no completion for it issues one request and waits. -/
theorem loadScalar_asks {s u : State} {n pa : Nat} (sgn : Bool) (d : Reg) {a : Reg} {o : BitVec 13}
    (h : Reaches s (s.addr13 a o).toNat n .read (.io pa) u) (hr : u.hart.replies = []) (hw : u.hart.waitTag = none) :
    ∃ b, loadScalar n sgn d a o s = .error (.wait false false)
      (((dispatchedAll u .read [(s.addr13 a o).toNat]).withRequests (some u.nextTag) (u.nextTag + 1)
        (u.targets ++ [⟨u.nextTag, u.hart.hid, false, false, false, .io pa, u.pasid, false, true⟩])
        (u.outbox ++ [.readReq u.nextTag u.pasid (.io pa) n])).withBegun b) := by
  have hask : (scalarPlace (s.addr13 a o).toNat n .read >>= fun loc => Act.load (s.addr13 a o).toNat loc n) s =
      .error (.wait false false) (u.asking pa n) := (Act.bind_ok (scalarPlace_ok h)).trans (Act.load_asks hr hw _ pa n)
  obtain ⟨b, hb⟩ := Act.holding_asks (acc := .read) (va := (s.addr13 a o).toNat) hask
  refine ⟨b, ?_⟩
  unfold loadScalar
  rw [Act.get_bind]
  exact Act.bind_error hb

theorem loadScalar_done {s t : State} {n x : Nat} (sgn : Bool) (d : Reg) {a : Reg} {o : BitVec 13} {loc : Loc} {u : State}
    (h : Reaches s (s.addr13 a o).toNat n .read loc u) (hm : Act.load (s.addr13 a o).toNat loc n none u = .ok x t) :
    loadScalar n sgn d a o s = .ok () (t.done1 d (if sgn then wordOfInt (sextNat x (8 * n)) else wordOfNat x)) := by
  unfold loadScalar
  rw [Act.get_bind]
  exact Act.bind_ok (Act.holding_ok ((Act.bind_ok (scalarPlace_ok h)).trans hm))

section
variable {i : Instr} {s u : State} {n va pa : Nat} {sgn : Bool} {d : Reg}

/-- With no completion for it a load of a device issues one request and waits. -/
theorem deviceLoadAsks (hf : loadForm s i = some (n, sgn, d, va)) (h : Reaches s va n .read (.io pa) u) (hr : u.hart.replies = [])
    (hw : u.hart.waitTag = none) : ∃ t, exec i s = .next t ∧ t.hart.pc = s.hart.pc ∧
      t.mem = (dispatchedAll u .read [va]).mem ∧
      SameX s t ∧ t.hart.run = .stalled ∧ t.hart.waitTag = some u.nextTag ∧
      t.targets = u.targets ++ [⟨u.nextTag, s.hart.hid, false, false, false, .io pa, s.pasid, false, true⟩] ∧
      t.outbox = u.outbox ++ [.readReq u.nextTag s.pasid (.io pa) n] := by
  obtain ⟨a, o, rfl, hx, -, -⟩ := exec_of_loadForm hf
  obtain ⟨b, hb⟩ := loadScalar_asks sgn d h hr hw
  have hmem := dispatchedAll_onlyMem u .read [(s.addr13 a o).toNat]
  have hhart : (dispatchedAll u .read [(s.addr13 a o).toNat]).hart = { s.hart with begun := u.hart.begun } :=
    (congrArg State.hart hmem).trans (congrArg State.hart (onlyReached_of_reaches h))
  have hhid : u.hart.hid = s.hart.hid := congrArg (·.hart.hid) (onlyReached_of_reaches h)
  rw [hhid, pasid_of_reaches h] at hb
  generalize dispatchedAll u .read [(s.addr13 a o).toNat] = v at hb hhart ⊢
  have hrun := Act.run_wait hb false
  dsimp only [State.stall, State.withBegun, State.withHart, State.withRequests] at hrun
  refine ⟨_, hx.trans hrun, ?_, rfl, fun r => ?_, rfl, rfl, rfl, rfl⟩
  · show v.hart.pc = s.hart.pc
    rw [hhart]
  · show State.rx v r = State.rx s r
    unfold State.rx
    rw [hhart]

/-- With a completion for it the load completes, and its word holds the bytes that came. -/
theorem deviceLoadCompletes (hf : loadForm s i = some (n, sgn, d, va)) (h : Reaches s va n .read (.io pa) u) {r : Reply}
    {rest : List Reply} (hr : u.hart.replies = r :: rest) (hlen : r.bytes.length = n) :
    ∃ t, exec i s = .next t ∧ OnlyXWait u t ∧ Onward s t ∧ ∃ w, Wrote s t d w ∧ Extends w n sgn fun k => r.bytes.getD k 0 := by
  obtain ⟨a, o, rfl, hx, hn, h8⟩ := exec_of_loadForm hf
  have hword := extends_natOfBytes hlen hn h8 sgn
  have hdone := loadScalar_done sgn d h (Act.load_replied hr _ pa n)
  generalize (if sgn then wordOfInt (sextNat (natOfBytes r.bytes) (8 * n)) else wordOfNat (natOfBytes r.bytes)) = w at hword hdone
  obtain ⟨-, hpc, hxs, -⟩ := sameHart_of_reaches h
  refine ⟨_, hx.trans (Act.run_ok hdone false), ?_, ?_, w, fun q => ?_, hword⟩
  · rw [State.done1_eq]
    exact rfl
  · rw [State.done1_eq]
    exact congrArg (· + 4) hpc
  · rw [State.rx_finished, State.rx_done1, State.rx_congr (s := s) (t := u.withHart fun h => { h with replies := rest }) hxs]

end

-- stores

/-- A store form's instruction is a store of the low bytes of a register at its address (R177). -/
theorem exec_of_storeForm {s : State} {i : Instr} {n va : Nat} {w : Word} (h : storeForm s i = some (n, w, va)) :
    ∃ (r a : Reg) (o : BitVec 13), va = (s.addr13 a o).toNat ∧ w = s.rx r ∧ exec i s = Act.run false (storeScalar n r a o) s := by
  have haddr (a : Reg) (o : BitVec 13) : (BitVec.ofInt 64 ((s.rx a).toInt + o.toInt)).toNat = (s.addr13 a o).toNat := by
    rw [BitVec.ofInt_add, BitVec.ofInt_toInt]
    rfl
  unfold storeForm at h
  split at h
  case h_5 => cases h
  all_goals
    cases h
    exact ⟨_, _, _, haddr _ _, rfl, rfl⟩

theorem storeScalar_done {s u : State} {n : Nat} (r : Reg) {a : Reg} {o : BitVec 13} {pa : Nat}
    (h : Reaches s (s.addr13 a o).toNat n .write (.io pa) u) :
    storeScalar n r a o s = .ok () (u.storeAt (.io pa) (bytesOf (s.rx r).toNat n)).advance := by
  have hstore : (scalarPlace (s.addr13 a o).toNat n .write >>= fun loc => Act.store loc (bytesOf (s.rx r).toNat n)) s =
      .ok () (u.storeAt (.io pa) (bytesOf (s.rx r).toNat n)) := (Act.bind_ok (scalarPlace_ok h)).trans rfl
  unfold storeScalar
  rw [Act.get_bind]
  exact Act.bind_ok (Act.holding_ok hstore)

/-- A store to a device leaves as a write request, and is unacknowledged until its completion. -/
theorem deviceStoreLeaves {i : Instr} {s u : State} {n va pa : Nat} {w : Word} (hf : storeForm s i = some (n, w, va))
    (h : Reaches s va n .write (.io pa) u) :
    ∃ t, exec i s = .next t ∧ Onward s t ∧ SameX s t ∧ t.mem = u.mem ∧ t.hart.unacked = u.hart.unacked ++ [u.nextTag] ∧
      t.targets = u.targets ++ [⟨u.nextTag, s.hart.hid, true, false, true, .io pa, s.pasid, false, false⟩] ∧
      t.outbox = u.outbox ++ [.writeReq u.nextTag s.pasid (.io pa) ((List.range n).map fun k => w.extractLsb' (8 * k) 8)] := by
  obtain ⟨r, a, o, rfl, rfl, hx⟩ := exec_of_storeForm hf
  have hrun := Act.run_ok (storeScalar_done r h) false
  have hstore : u.storeAt (.io pa) (bytesOf (s.rx r).toNat n) = { u with
      nextTag := u.nextTag + 1
      targets := u.targets ++ [⟨u.nextTag, u.hart.hid, true, false, true, .io pa, u.pasid, false, false⟩]
      outbox := u.outbox ++ [.writeReq u.nextTag u.pasid (.io pa) (bytesOf (s.rx r).toNat n)]
      hart := { u.hart with unacked := u.hart.unacked ++ [u.nextTag] } } := rfl
  obtain ⟨hhid, hpc, hxs, -⟩ := sameHart_of_reaches h
  rw [hstore, hhid, pasid_of_reaches h, bytesOf_toNat] at hrun
  dsimp only [State.finished, State.advance, State.withHart] at hrun
  exact ⟨_, hx.trans hrun, congrArg (· + 4) hpc, State.rx_congr hxs, rfl, rfl, rfl, rfl⟩

theorem deviceAccessesWaitForTheirTarget : DeviceAccessesWaitForTheirTarget :=
  ⟨fun _ _ _ _ _ _ _ _ hf h => ⟨deviceLoadAsks hf h, fun _ _ hr hlen => deviceLoadCompletes hf h hr hlen⟩,
    fun _ _ _ _ _ _ _ hf h => deviceStoreLeaves hf h⟩

end Sys2Proof.Machine
end

section
namespace Sys2Proof.Machine

open Claims

/-! Words that decode as scalar atomics, and what such a word does (R112, R178, R179). -/

-- entries of the decoder

/-- Every instruction that an entry of the decoder gives has a property. -/
def Entry (P : Instr → Prop) (o : Option Instr) : Prop := ∀ i, o = some i → P i

theorem Entry.apply {P : Instr → Prop} {o : Option Instr} {i : Instr} (h : Entry P o) (hi : o = some i) : P i := h i hi

theorem Entry.none {P : Instr → Prop} : Entry P none := fun _ h => nomatch h

theorem Entry.some {P : Instr → Prop} {i : Instr} (h : P i) : Entry P (some i) := fun _ hi => Option.some.inj hi ▸ h

theorem Entry.ite {P : Instr → Prop} {c : Prop} [Decidable c] {x y : Option Instr} (hx : c → Entry P x) (hy : Entry P y) :
    Entry P (if c then x else y) := by
  split
  · exact hx ‹c›
  · exact hy

/-- An instruction other than a scalar atomic. -/
def NoAtomic (i : Instr) : Prop := ∀ s, atomicForm s i = none

theorem Entry.other {c : Prop} [Decidable c] {i : Instr} {y : Option Instr} (h : NoAtomic i) (hy : Entry NoAtomic y) :
    Entry NoAtomic (if c then Option.some i else y) := Entry.ite (fun _ => Entry.some h) hy

theorem decodeEntry_noAtomic {w : Nat} {i : Instr} (h : decodeEntry w = .ok i) (hE : bitsAt w 26 6 ≠ 0x0E) (hF : bitsAt w 26 6 ≠ 0x0F) :
    NoAtomic i := by
  unfold decodeEntry at h
  dsimp only at h
  split at h
  case h_14 => exact absurd ‹_› hE
  case h_15 => exact absurd ‹_› hF
  case h_57 => cases h
  all_goals
    split at h
    · cases h
      refine Entry.apply ?_ ‹_ = Option.some _›
      simp only [decodeMajor01, decodeMajor02, decodeMajor03, decodeMajor04, decodeMajor05, decodeMajor06, decodeMajor07,
        decodeMajor08, decodeMajor09, decodeMajor0A, decodeMajor0B, decodeMajor0C, decodeMajor0D, decodeMajor10,
        decodeMajor11, decodeMajor12, decodeMajor13, decodeMajor14, decodeMajor15, decodeMajor16, decodeMajor17,
        decodeMajor18, decodeMajor19, decodeMajor1A, decodeMajor1B, decodeMajor1C, decodeMajor1D, decodeMajor1E,
        decodeMajor20, decodeMajor21, decodeMajor22, decodeMajor23, decodeMajor24, decodeMajor25, decodeMajor26,
        decodeMajor27, decodeMajor28, decodeMajor29, decodeMajor2A, decodeMajor2B, decodeMajor2C, decodeMajor2D,
        decodeMajor2E, decodeMajor2F, decodeMajor30, decodeMajor31, decodeMajor32, decodeMajor33, decodeMajor34,
        decodeMajor35, decodeMajor36, decodeMajor37, decodeMajor38, decodeMajor39]
      repeat refine Entry.other (fun _ => rfl) ?_
      rintro _ ⟨⟩ <;> exact fun _ => rfl
    · cases h

-- atomics

theorem fld_toNat (w : BitVec 32) (lo n : Nat) : fld w.toNat lo n = w.extractLsb' lo n := by
  rw [fld, BitVec.extractLsb', Nat.shiftRight_eq_div_pow]

theorem bitsAt_toNat (w : BitVec 32) (lo n : Nat) : bitsAt w.toNat lo n = (w.extractLsb' lo n).toNat := by
  rw [bitsAt, BitVec.extractLsb'_toNat, Nat.shiftRight_eq_div_pow]

/-- The word does what the instruction does, when it is an atomic, and names its address register. -/
def ActsAs (w : BitVec 32) (i : Instr) : Prop :=
  ∀ s a, atomicForm s i = some a → a.addr = wordA w ∧ ∃ f, scalarAtomic w = some f ∧ ∀ t, f t = exec i t

theorem actsAs_of {w : BitVec 32} {i : Instr} {f : State → Answer} (h : scalarAtomic w = some f) (hf : ∀ t, f t = exec i t)
    (ha : ∀ s a, atomicForm s i = some a → a.addr = wordA w) : ActsAs w i :=
  fun s a h' => ⟨ha s a h', f, h, hf⟩

theorem actsAs_of_decodeMajor0F {w : BitVec 32} (hm : wordMajor w = 0x0F) : Entry (ActsAs w) (decodeMajor0F w.toNat) := by
  unfold decodeMajor0F
  simp only [fld_toNat]
  refine Entry.some (actsAs_of (f := execCas (wordD w) (wordA w) (wordB w) (w.extractLsb' 6 5) (w.extractLsb' 4 2) 0 (w.extractLsb' 0 1))
    (if_pos hm) (fun _ => rfl) ?_)
  intro s a h
  cases h
  rfl

/-- The operations of major 0x0E, by fn[10:6] (R178). -/
def scalarOps (w : BitVec 32) : List (State → Answer) :=
  let d := wordD w
  let a := wordA w
  let b := wordB w
  let o : BitVec 2 := w.extractLsb' 4 2
  let z : Bit1 := w.extractLsb' 0 1
  [execAtswap d a b o 0 z, execAtadd d a b o 0 z, execAtand d a b o 0 z, execAtor d a b o 0 z, execAtxor d a b o 0 z,
    execAtmin d a b o 0 z, execAtmax d a b o 0 z, execAtminN d a b o 0 z, execAtmaxN d a b o 0 z, execAtfadd d a b o 0 z,
    execLdo d a o 0 z, execSto a b o 0 z]

theorem scalarAtomic_of_major0E {w : BitVec 32} (hm : wordMajor w = 0x0E) : scalarAtomic w = (scalarOps w)[wordOp w]? := by
  unfold scalarAtomic
  dsimp only
  rw [hm, if_neg (by decide), if_neg (by decide)]
  generalize wordOp w = k
  by_cases hk : k < 12
  · interval_cases k <;> rfl
  · obtain ⟨j, rfl⟩ : ∃ j, k = j + 12 := ⟨k - 12, by omega⟩
    rfl

/-- An entry of major 0x0E whose condition says fn[10:6]. -/
theorem Entry.amo {w : BitVec 32} (hm : wordMajor w = 0x0E) {c : Prop} [Decidable c] {k : Nat} {i : Instr} {y : Option Instr}
    (hc : c → wordOp w = k) (hf : ∃ f, (scalarOps w)[k]? = Option.some f ∧ ∀ t, f t = exec i t)
    (ha : ∀ s a, atomicForm s i = Option.some a → a.addr = wordA w) (hy : Entry (ActsAs w) y) :
    Entry (ActsAs w) (if c then Option.some i else y) := by
  obtain ⟨f, hk, hf⟩ := hf
  exact Entry.ite (fun h => Entry.some (actsAs_of ((scalarAtomic_of_major0E hm).trans (hc h ▸ hk)) hf ha)) hy

theorem actsAs_of_decodeMajor0E {w : BitVec 32} (hm : wordMajor w = 0x0E) : Entry (ActsAs w) (decodeMajor0E w.toNat) := by
  have hop : bitsAt w.toNat 6 5 = wordOp w := bitsAt_toNat w 6 5
  have hwide (h : bitsAt w.toNat 6 10 = 0xA) : wordOp w = 10 := by
    rw [← hop]
    unfold bitsAt at h ⊢
    omega
  unfold decodeMajor0E
  simp only [fld_toNat]
  rw [hop]
  iterate 10 refine Entry.amo hm id ⟨_, rfl, fun _ => rfl⟩ (fun _ _ h => by cases h; rfl) ?_
  refine Entry.amo hm hwide ⟨_, rfl, fun _ => rfl⟩ (fun _ _ h => by cases h; rfl) ?_
  refine Entry.amo hm And.left ⟨_, rfl, fun _ => rfl⟩ (fun _ _ h => by cases h; rfl) ?_
  exact Entry.none

/-- A word that decodes as a scalar atomic acts as that instruction (R178, R179). -/
theorem actsAs_of_decode {w : BitVec 32} {i : Instr} (h : decode w = .ok i) : ActsAs w i := by
  have hentry : decodeEntry w.toNat = .ok i := by
    unfold decode at h
    split at h
    · split at h
      · cases h
        assumption
      · cases h
    · cases h
  have hmajor : bitsAt w.toNat 26 6 = wordMajor w := bitsAt_toNat w 26 6
  by_cases hE : wordMajor w = 0x0E
  · have hmem : decodeMajor0E w.toNat = some i := by
      unfold decodeEntry at hentry
      simp only [hmajor, hE] at hentry
      split at hentry
      · cases hentry
        assumption
      · cases hentry
    exact actsAs_of_decodeMajor0E hE i hmem
  · by_cases hF : wordMajor w = 0x0F
    · have hmem : decodeMajor0F w.toNat = some i := by
        unfold decodeEntry at hentry
        simp only [hmajor, hF] at hentry
        split at hentry
        · cases hentry
          assumption
        · cases hentry
      exact actsAs_of_decodeMajor0F hF i hmem
    · intro s a ha
      rw [decodeEntry_noAtomic hentry (hmajor ▸ hE) (hmajor ▸ hF) s] at ha
      cases ha

end Sys2Proof.Machine
end

section
namespace Sys2Proof.Machine

open Claims

/-! The new values of scalar atomics fit their size, and agree with the manual's (R152, R178, R179). -/

-- patterns of a format

/-- A format whose special patterns leave the sign bit free. -/
def Fmt.Narrow (f : Fmt) : Prop :=
  0 < f.bits ∧ f.infPat < 2 ^ (f.bits - 1) ∧ f.nan < 2 ^ (f.bits - 1) ∧ f.maxPat < 2 ^ (f.bits - 1)

theorem narrow_f32 : f32.Narrow := by
  unfold Fmt.Narrow
  decide

theorem narrow_f64 : f64.Narrow := by
  unfold Fmt.Narrow
  decide

/-- Bounds go through the branches of a result with flags. -/
theorem fst_ite_lt {c : Prop} [Decidable c] {x y : Nat × Nat} {b : Nat} (hx : c → x.1 < b) (hy : ¬ c → y.1 < b) :
    (if c then x else y).1 < b := by
  split
  · exact hx ‹c›
  · exact hy ‹¬ c›

section
variable {f : Fmt} (hf : f.Narrow)
include hf

theorem Fmt.Narrow.signed_lt {p : Nat} (hp : p < 2 ^ (f.bits - 1)) (neg : Bool) : f.signed neg p < 2 ^ f.bits := by
  have h2 : 2 ^ f.bits = 2 * 2 ^ (f.bits - 1) := by rw [← pow_succ', Nat.sub_add_cancel hf.1]
  unfold Fmt.signed
  split <;> omega

theorem Fmt.Narrow.nan_lt : f.nan < 2 ^ f.bits := hf.signed_lt hf.2.2.1 false

theorem Fmt.Narrow.zero_lt (neg : Bool) : f.signed neg 0 < 2 ^ f.bits := hf.signed_lt (Nat.two_pow_pos _) neg

theorem overflow_lt (r : Rounding) (sat neg : Bool) : (overflow f r sat neg).1 < 2 ^ f.bits := by
  unfold overflow
  dsimp only
  split
  · dsimp only
    split
    · exact hf.signed_lt hf.2.1 neg
    · exact hf.nan_lt
  · exact hf.signed_lt hf.2.2.2 neg

/-- A rounded result is a pattern of its format (R151 to R155). -/
theorem roundMag_lt (r : Rounding) (sat neg : Bool) (q : Nat) (e : Int) (sticky : Bool) :
    (roundMag f r sat neg q e sticky).1 < 2 ^ f.bits := by
  unfold roundMag
  dsimp only
  refine fst_ite_lt (fun _ => hf.zero_lt neg) fun _ => fst_ite_lt (fun _ => ?_) fun _ => ?_
  · exact fst_ite_lt (fun _ => overflow_lt hf r sat neg) fun _ =>
      fst_ite_lt (fun _ => overflow_lt hf r sat neg) fun _ => hf.signed_lt hf.2.2.2 neg
  · exact fst_ite_lt (fun _ => overflow_lt hf r sat neg) fun h => hf.signed_lt (lt_of_le_of_lt (not_lt.mp h) hf.2.2.2) neg

/-- So is a sum (R152). -/
theorem fadd2_lt (r : Rounding) (a b : FVal) : (fadd2 f r a b).1 < 2 ^ f.bits := by
  unfold fadd2
  split
  · exact hf.nan_lt
  · exact hf.nan_lt
  · split
    · exact hf.signed_lt hf.2.1 _
    · exact hf.nan_lt
  · exact hf.signed_lt hf.2.1 _
  · exact hf.signed_lt hf.2.1 _
  · dsimp only
    unfold roundInt
    split
    · exact hf.zero_lt _
    · exact roundMag_lt hf _ _ _ _ _ _

end

-- values of a width

theorem signed_eq_sextNat {n x : Nat} (hn : 0 < n) (hx : x < 2 ^ (8 * n)) : signed n x = sextNat x (8 * n) := by
  unfold signed sextNat
  rw [if_neg (show ¬ 8 * n = 0 by omega), Nat.mod_eq_of_lt hx]

/-- Signed values tell patterns of a width apart. -/
theorem signed_injective {n x y : Nat} (hx : x < 2 ^ (8 * n)) (hy : y < 2 ^ (8 * n)) (h : signed n x = signed n y) : x = y := by
  have hc : ((2 ^ (8 * n) : Nat) : Int) = 2 ^ (8 * n) := by push_cast; rfl
  unfold signed at h
  split at h <;> split at h <;> omega

theorem pickBy_min_eq (sgn : Bool) (w x y : Nat) :
    pickBy sgn false w x y = if (if sgn then decide (sextNat x w < sextNat y w) else decide (x < y)) = true then x else y := by
  unfold pickBy
  cases sgn
  · cases decide (x < y) <;> rfl
  · cases decide (sextNat x w < sextNat y w) <;> rfl

theorem pickBy_max_eq (sgn : Bool) (w x y : Nat) :
    pickBy sgn true w x y = if (if sgn then decide (sextNat x w < sextNat y w) else decide (x < y)) = true then y else x := by
  unfold pickBy
  cases sgn
  · cases decide (x < y) <;> rfl
  · cases decide (sextNat x w < sextNat y w) <;> rfl

section
variable {n m x : Nat} (hn : 0 < n) (hm : m < 2 ^ (8 * n)) (hx : x < 2 ^ (8 * n))
include hn hm hx

/-- The smaller of two patterns as signed values, the first where they are equal. -/
theorem pickBy_signed_min : pickBy true false (8 * n) m x = if signed n m ≤ signed n x then m else x := by
  rw [pickBy_min_eq, if_pos rfl, ← signed_eq_sextNat hn hm, ← signed_eq_sextNat hn hx]
  simp only [decide_eq_true_eq]
  rcases lt_trichotomy (signed n m) (signed n x) with h | h | h
  · rw [if_pos h, if_pos h.le]
  · rw [signed_injective hm hx h, ite_self, ite_self]
  · rw [if_neg (not_lt.mpr h.le), if_neg (not_le.mpr h)]

/-- The larger of two patterns as signed values. -/
theorem pickBy_signed_max : pickBy true true (8 * n) m x = if signed n m ≤ signed n x then x else m := by
  rw [pickBy_max_eq, if_pos rfl, ← signed_eq_sextNat hn hm, ← signed_eq_sextNat hn hx]
  simp only [decide_eq_true_eq]
  rcases lt_trichotomy (signed n m) (signed n x) with h | h | h
  · rw [if_pos h, if_pos h.le]
  · rw [signed_injective hm hx h, ite_self, ite_self]
  · rw [if_neg (not_lt.mpr h.le), if_neg (not_le.mpr h)]

end

theorem pickBy_min (w m x : Nat) : pickBy false false w m x = min m x := by
  rw [pickBy_min_eq, if_neg Bool.false_ne_true, min_def_lt]
  simp only [decide_eq_true_eq]

theorem pickBy_max (w m x : Nat) : pickBy false true w m x = max m x := by
  rw [pickBy_max_eq, if_neg Bool.false_ne_true, max_def_lt]
  simp only [decide_eq_true_eq]

end Sys2Proof.Machine
end

section
namespace Sys2Proof.Machine

open Claims

/-! What a scalar atomic does (R178 to R180): one step at its place, then its registers. -/

-- the forms

/-- What ends an instruction after its access: registers, flags and the pc change, memory and the hart's place do not. -/
def EndsInstr (g : State → State) : Prop := ∀ t, (g t).mem = t.mem ∧ (g t).regions = t.regions ∧
  (g t).hart.pc = t.hart.pc + 4 ∧ (g t).hart.run = t.hart.run ∧ (g t).hart.hid = t.hart.hid

theorem endsInstr_done1 (d : Reg) (w : Word) : EndsInstr (·.done1 d w) := fun t =>
  ⟨rfl, rfl, by simp only [State.done1_hart, Hart.wx_pc], by simp only [State.done1_hart, Hart.wx_run],
    by simp only [State.done1_hart, Hart.wx_hid]⟩

theorem endsInstr_advance : EndsInstr State.advance := fun _ => ⟨rfl, rfl, rfl, rfl, rfl⟩

theorem endsInstr_raise (fl : Nat) (d : Reg) (w : Word) : EndsInstr fun t => (t.raise fl).done1 d w :=
  fun t => endsInstr_done1 d w (t.raise fl)

/-- An instruction is one indivisible step at its place, with new values of the manual's, and then writes registers alone. -/
def IsAtomic (s : State) (i : Instr) (a : Atomic) : Prop :=
  ∃ (pcie : Option (Nat × Nat × Nat)) (f : Nat → Option Nat) (g : Nat → State → State),
    exec i s = Act.run false (atomicAt a.order (s.rx a.addr).toNat a.n a.acc pcie f >>= fun m => Act.upd (g m)) s ∧
    (∀ m, EndsInstr (g m)) ∧ ∀ m, m < 2 ^ (8 * a.n) → f m = a.new m ∧ ∀ x, a.new m = some x → x < 2 ^ (8 * a.n)

theorem atomicSize_pos (z : Bit1) : 0 < Claims.sizeOf z := by
  unfold Claims.sizeOf
  split <;> decide

/-- Low bits of a register. -/
theorem low_lt (w : Word) (z : Bit1) : w.toNat % 2 ^ (8 * Claims.sizeOf z) < 2 ^ (8 * Claims.sizeOf z) := Nat.mod_lt _ (Nat.two_pow_pos _)

/-- The sum of ATFADD is a pattern of its size. -/
theorem floatSum_lt (z : Bit1) (x y : FVal) : (fadd2 (if z = 0 then f32 else f64) rneMode x y).1 < 2 ^ (8 * Claims.sizeOf z) := by
  unfold Claims.sizeOf
  split
  · exact fadd2_lt narrow_f32 _ _ _
  · exact fadd2_lt narrow_f64 _ _ _

theorem isAtomic_amo {s : State} {i : Instr} {o : BitVec 2} {z : Bit1} {sgn : Bool} {d a b : Reg} {pcie : Option Nat}
    {f : Nat → Nat → Nat → Nat} {new : Nat → Nat} (hx : exec i s = Act.run false (amo sgn pcie f d a b o z) s)
    (hf : ∀ m, m < 2 ^ (8 * Claims.sizeOf z) →
      f (8 * Claims.sizeOf z) m ((s.rx b).toNat % 2 ^ (8 * Claims.sizeOf z)) = new m ∧ new m < 2 ^ (8 * Claims.sizeOf z)) :
    IsAtomic s i (amoOf o z sgn d a new) := by
  refine ⟨_, _, fun m t => t.done1 d (amoResult sgn (Claims.sizeOf z) m), hx, fun m => endsInstr_done1 d _, fun m hm => ?_⟩
  obtain ⟨he, hlt⟩ := hf m hm
  refine ⟨congrArg some he, fun x hxm => ?_⟩
  cases hxm
  exact hlt

theorem isAtomic_of_atomicForm {s : State} {i : Instr} {a : Atomic} (h : atomicForm s i = some a) : IsAtomic s i a := by
  have hlow (b : Reg) (z : Bit1) := low_lt (s.rx b) z
  unfold atomicForm at h
  split at h
  case h_1 => -- ATSWAP
    cases h
    exact isAtomic_amo rfl fun m hm => ⟨rfl, hlow _ _⟩
  case h_2 => -- ATADD
    cases h
    exact isAtomic_amo rfl fun m hm => ⟨by rw [Nat.add_mod_mod], Nat.mod_lt _ (Nat.two_pow_pos _)⟩
  case h_3 => -- ATAND
    cases h
    exact isAtomic_amo rfl fun m hm => ⟨rfl, Nat.and_lt_two_pow _ (hlow _ _)⟩
  case h_4 => -- ATOR
    cases h
    exact isAtomic_amo rfl fun m hm => ⟨rfl, Nat.or_lt_two_pow hm (hlow _ _)⟩
  case h_5 => -- ATXOR
    cases h
    exact isAtomic_amo rfl fun m hm => ⟨rfl, Nat.xor_lt_two_pow hm (hlow _ _)⟩
  case h_6 => -- ATMIN
    cases h
    refine isAtomic_amo rfl fun m hm => ⟨pickBy_signed_min (atomicSize_pos _) hm (hlow _ _), ?_⟩
    split
    exacts [hm, hlow _ _]
  case h_7 => -- ATMAX
    cases h
    refine isAtomic_amo rfl fun m hm => ⟨pickBy_signed_max (atomicSize_pos _) hm (hlow _ _), ?_⟩
    split
    exacts [hlow _ _, hm]
  case h_8 => -- ATMIN, natural
    cases h
    exact isAtomic_amo rfl fun m hm => ⟨pickBy_min _ _ _, lt_of_le_of_lt (min_le_left _ _) hm⟩
  case h_9 => -- ATMAX, natural
    cases h
    exact isAtomic_amo rfl fun m hm => ⟨pickBy_max _ _ _, max_lt hm (hlow _ _)⟩
  case h_10 => -- ATFADD
    cases h
    refine ⟨_, _, _, rfl, fun m => endsInstr_raise _ _ _, fun m hm => ⟨rfl, fun x hx => ?_⟩⟩
    cases hx
    exact floatSum_lt _ _ _
  case h_11 => -- LDO
    cases h
    exact ⟨_, _, _, rfl, fun m => endsInstr_done1 _ _, fun m hm => ⟨rfl, fun x hx => nomatch hx⟩⟩
  case h_12 => -- STO
    cases h
    refine ⟨_, _, _, rfl, fun m => endsInstr_advance, fun m hm => ⟨rfl, fun x hx => ?_⟩⟩
    cases hx
    exact hlow _ _
  case h_13 => -- CAS
    cases h
    refine ⟨_, _, _, rfl, fun m => endsInstr_done1 _ _, fun m hm => ⟨rfl, fun x hx => ?_⟩⟩
    obtain ⟨-, hx⟩ := Option.ite_none_right_eq_some.mp hx
    cases hx
    exact hlow _ _
  case h_14 => cases h

-- the step at the place

/-- The state after the step of an atomic at a place: its lines move, and a new value is written (R261). -/
def State.afterAtomic (u : State) (loc : Loc) (n : Nat) (new : Option Nat) : State :=
  match new with
  | some x => (u.moves .atomic true loc n).putAt loc (bytesOf x n)
  | none => u.moves .atomic false loc n

theorem State.numAt_eq_bytesAt (u : State) {loc : Loc} (n : Nat) (ho : loc.outside = false) : natOfBytes (u.bytesAt loc n) = numAt u loc n := by
  cases loc with
  | dev a sy => rfl
  | scr c l off => exact (numAt_scr u c l off n).symm
  | cap off => rfl
  | io a => cases ho
  | hostb p va => cases ho

theorem atomicAt_ok {s u : State} {order : BitVec 2} {va n : Nat} {acc : Access} {loc : Loc} (ho : Ordered s order)
    (h : Reaches s va n acc loc u) (hr : Readable u loc n) (pcie : Option (Nat × Nat × Nat)) (f : Nat → Option Nat) :
    atomicAt order va n acc pcie f s = .ok (numAt u loc n) (u.afterAtomic loc n (f (numAt u loc n))) := by
  obtain ⟨hout, hpois⟩ := hr
  have hrelease : Act.release order s = .ok () s := by
    unfold Act.release
    split
    · exact Act.drain_ok (ho ‹_›)
    · rfl
  unfold atomicAt
  rw [Act.bind_ok hrelease]
  refine Act.holding_ok ((Act.bind_ok (scalarPlace_ok h)).trans ?_)
  rw [← State.numAt_eq_bytesAt u n hout]
  cases loc
  case io => cases hout
  case hostb => cases hout
  all_goals
    dsimp only
    rw [Act.get_bind, Act.bind_ok (Act.check_ok (by rw [hpois]; rfl) _ _ _), Act.upd_bind]
    unfold State.afterAtomic
    cases f (natOfBytes (u.bytesAt _ n)) <;> rfl

end Sys2Proof.Machine
end

section
namespace Sys2Proof.Machine

open Claims

/-! Writes at a place, and remote atomic errors (R180, R261, R408). -/

-- writes at a place

/-- What a key names after a region has changed. -/
theorem State.region?_updRegion (s : State) {c l : Nat} {f : Region → Region} (hf : ∀ r : Region, (f r).core = r.core ∧ (f r).lid = r.lid)
    (c' l' : Nat) :
    (s.updRegion c l f).region? c' l' = (s.region? c' l').map fun r => if r.core = c ∧ r.lid = l then f r else r := by
  have hp : (fun r : Region => decide (r.core = c' ∧ r.lid = l')) ∘ (fun r => if r.core = c ∧ r.lid = l then f r else r) =
      fun r => decide (r.core = c' ∧ r.lid = l') := by
    funext r
    show decide ((if r.core = c ∧ r.lid = l then f r else r).core = c' ∧ (if r.core = c ∧ r.lid = l then f r else r).lid = l') = _
    split
    · rw [(hf r).1, (hf r).2]
    · rfl
  show (s.regions.map fun r => if r.core = c ∧ r.lid = l then f r else r).find? (fun r => decide (r.core = c' ∧ r.lid = l')) = _
  rw [List.find?_map, hp]
  rfl

theorem State.region?_spec {s : State} {c l : Nat} {r : Region} (h : s.region? c l = some r) : r ∈ s.regions ∧ r.core = c ∧ r.lid = l :=
  ⟨List.mem_of_find?_eq_some h, by simpa using List.find?_some h⟩

/-- A region after a write of some bytes. -/
def Region.put (r : Region) (off : Nat) (bs : List Byte) : Region :=
  { r with
    cells := cellsPut r.cells off bs
    bad := r.bad.filter fun w => !(off ≤ 8 * w && 8 * w + 8 ≤ off + bs.length) }

theorem State.region?_putAt (s : State) (c l off : Nat) (bs : List Byte) (c' l' : Nat) :
    (s.putAt (.scr c l off) bs).region? c' l' =
      (s.region? c' l').map fun r => if r.core = c ∧ r.lid = l then r.put off bs else r :=
  State.region?_updRegion s (f := (·.put off bs)) (fun _ => ⟨rfl, rfl⟩) c' l'

/-- A byte after a write at a place: of the bytes written, or as before. -/
theorem byteAt_putAt {s : State} (hinv : Inv s) {loc : Loc} (hst : stored loc = true) (hb : Backed s loc) (bs : List Byte) :
    (∀ i, i < bs.length → byteAt (s.putAt loc bs) loc i = bs.getD i 0) ∧ SameOutside s (s.putAt loc bs) loc bs.length := by
  obtain ⟨hmem, hreg⟩ := hinv
  cases loc with
  | dev a sy =>
    refine ⟨fun i hi => ?_, sameOutside_dev rfl rfl hmem⟩
    show cellAt (cellsPut s.mem a bs) (a + i) = _
    rw [cellAt_cellsPut a (a + i) bs hmem, if_pos (by omega), Nat.add_sub_cancel_left]
  | scr c l off =>
    obtain ⟨r, hr⟩ := Option.isSome_iff_exists.mp hb
    obtain ⟨hr1, hrc, hrl⟩ := State.region?_spec hr
    have hwf := hreg r hr1
    refine ⟨fun i hi => ?_, fun p hp hw => ?_⟩
    · simp only [byteAt, State.region?_putAt, hr, Option.map_some, hrc, hrl, and_self, if_true, Option.getD_some]
      show cellAt (cellsPut r.cells off bs) (off + i) = _
      rw [cellAt_cellsPut off (off + i) bs hwf, if_pos (by omega), Nat.add_sub_cancel_left]
    · cases p with
      | dev b sy => rfl
      | scr c' l' o =>
        simp only [byteAt, State.region?_putAt]
        cases hr' : s.region? c' l' with
        | none => rfl
        | some q =>
          obtain ⟨-, hqc, hql⟩ := State.region?_spec hr'
          simp only [Option.map_some, Option.getD_some]
          split
          · rename_i hk
            obtain rfl : c' = c := hqc.symm.trans hk.1
            obtain rfl : l' = l := hql.symm.trans hk.2
            obtain rfl : r = q := Option.some.inj (hr.symm.trans hr')
            simp only [within, beq_self_eq_true, Bool.true_and, Bool.and_eq_false_iff, decide_eq_false_iff_not] at hw
            exact cellAt_put_apart hwf (by omega)
          · rfl
      | _ => cases hp
  | _ => cases hst

/-- A number that is written at a place reads as written. -/
theorem numAt_putAt {s : State} (hinv : Inv s) {loc : Loc} (hst : stored loc = true) (hb : Backed s loc) (x n : Nat) :
    numAt (s.putAt loc (bytesOf x n)) loc n = x % 256 ^ n := by
  have hbytes : (List.range n).map (byteAt (s.putAt loc (bytesOf x n)) loc) = bytesOf x n := by
    refine List.ext_getElem (by simp) fun i hi hi' => ?_
    rw [List.getElem_map, List.getElem_range, (byteAt_putAt hinv hst hb _).1 i hi']
    exact List.getD_eq_getElem _ _ _
  rw [numAt, hbytes, natOfBytes_bytesOf]

theorem byteAt_congr {s t : State} (hm : t.mem = s.mem) (hr : t.regions = s.regions) {loc : Loc} (hst : stored loc = true) (i : Nat) :
    byteAt t loc i = byteAt s loc i := by
  cases loc with
  | dev a sy => simp only [byteAt, hm]
  | scr c l off => simp only [byteAt, State.region?, hr]
  | _ => cases hst

theorem numAt_congr {s t : State} (hm : t.mem = s.mem) (hr : t.regions = s.regions) {loc : Loc} (hst : stored loc = true) (n : Nat) :
    numAt t loc n = numAt s loc n := by
  have hbytes : byteAt t loc = byteAt s loc := funext (byteAt_congr hm hr hst)
  rw [numAt, numAt, hbytes]

theorem sameOutside_congr {s t u : State} {loc : Loc} {n : Nat} (h : SameOutside s t loc n) (hm : u.mem = t.mem)
    (hr : u.regions = t.regions) : SameOutside s u loc n :=
  fun p hp hw => (byteAt_congr hm hr hp 0).trans (h p hp hw)

theorem State.moves_regions (s : State) (via : Via) (write : Bool) (loc : Loc) (n : Nat) :
    (s.moves via write loc n).regions = s.regions := by
  unfold State.moves
  split <;> rfl

theorem State.moves_hart (s : State) (via : Via) (write : Bool) (loc : Loc) (n : Nat) : (s.moves via write loc n).hart = s.hart := by
  unfold State.moves
  split <;> rfl

theorem State.putAt_hart (s : State) (loc : Loc) (bs : List Byte) : (s.putAt loc bs).hart = s.hart := by
  cases loc <;> rfl

theorem State.afterAtomic_hart (u : State) (loc : Loc) (n : Nat) (new : Option Nat) : (u.afterAtomic loc n new).hart = u.hart := by
  cases new with
  | none => exact State.moves_hart ..
  | some x => exact (State.putAt_hart ..).trans (State.moves_hart ..)

-- the atomic itself

section
variable {u : State} {loc : Loc} (hinv : Inv u) (hst : stored loc = true) (hb : Backed u loc)
include hinv hst hb

/-- The step of an atomic writes its new value, or nothing (R178, R261). -/
theorem State.afterAtomic_memory {n : Nat} {new : Option Nat} (hnew : ∀ x, new = some x → x < 2 ^ (8 * n)) :
    SameOutside u (u.afterAtomic loc n new) loc n ∧ numAt (u.afterAtomic loc n new) loc n = new.getD (numAt u loc n) := by
  have hm (w : Bool) : (u.moves .atomic w loc n).mem = u.mem := State.moves_mem ..
  have hr (w : Bool) : (u.moves .atomic w loc n).regions = u.regions := State.moves_regions ..
  cases new with
  | none => exact ⟨fun p hp _ => byteAt_congr (hm _) (hr _) hp 0, numAt_congr (hm _) (hr _) hst n⟩
  | some x =>
    have hinv' : Inv (u.moves .atomic true loc n) := by
      unfold Inv State.memWf
      rw [hm, hr]
      exact hinv
    have hb' : Backed (u.moves .atomic true loc n) loc := by
      cases loc with
      | scr c l off => simpa only [Backed, State.region?, hr] using hb
      | _ => exact hb
    have hlt : x < 256 ^ n := by
      have h := hnew x rfl
      rwa [pow_mul] at h
    have hout := (byteAt_putAt hinv' hst hb' (bytesOf x n)).2
    rw [bytesOf_length] at hout
    refine ⟨fun p hp hw => (hout p hp hw).trans (byteAt_congr (hm _) (hr _) hp 0), ?_⟩
    exact (numAt_putAt hinv' hst hb' x n).trans (Nat.mod_eq_of_lt hlt)

end

section
variable {i : Instr} {s u : State} {a : Atomic} {loc : Loc}

theorem inv_of_reaches {va n : Nat} {acc : Access} (hinv : Inv s) (h : Reaches s va n acc loc u) : Inv u := by
  have hcount : Inv (counted s) := by
    unfold counted State.countGranule State.countTraffic
    repeat' split
    all_goals exact hinv
  have hx := h.1.2.2
  have hregions : u.regions = (counted s).regions := by rw [State.xlateOnce_onlyMem hx]
  refine ⟨?_, hregions ▸ hcount.2⟩
  unfold State.xlateOnce at hx
  split at hx
  · cases hx
    exact hcount.1
  · exact State.xlate_wf hcount.1 hx

/-- A scalar atomic of a hart that is ready completes, with its effect on memory (R178, R179). -/
theorem atomicCompletes (hform : atomicForm s i = some a) (hrun : s.hart.run = .ready) (hinv : Inv s) (hord : Ordered s a.order)
    (hreach : Reaches s (s.rx a.addr).toNat a.n a.acc loc u) (hread : Readable u loc a.n) (hst : stored loc = true) (hb : Backed u loc) :
    ∃ t, exec i s = .next t ∧ t.hart.pc = s.hart.pc + 4 ∧ t.hart.run = .ready ∧ t.hart.hid = s.hart.hid ∧
      SameOutside u t loc a.n ∧ numAt t loc a.n = (a.new (numAt u loc a.n)).getD (numAt u loc a.n) := by
  obtain ⟨pcie, f, g, hx, hg, hf⟩ := isAtomic_of_atomicForm hform
  have hold : numAt u loc a.n < 2 ^ (8 * a.n) := by
    have h := natOfBytes_lt ((List.range a.n).map (byteAt u loc))
    rwa [List.length_map, List.length_range, show 256 = 2 ^ 8 from rfl, ← pow_mul] at h
  obtain ⟨hnew, hlt⟩ := hf _ hold
  have hat := atomicAt_ok hord hreach hread pcie f
  rw [hnew] at hat
  obtain ⟨hout, hnum⟩ := State.afterAtomic_memory (inv_of_reaches hinv hreach) hst hb hlt
  have hhart := u.afterAtomic_hart loc a.n (a.new (numAt u loc a.n))
  obtain ⟨hmem, hreg, hpc, hr, hid⟩ := hg (numAt u loc a.n) (u.afterAtomic loc a.n (a.new (numAt u loc a.n)))
  obtain ⟨hid', hpc', -, hrun'⟩ := sameHart_of_reaches hreach
  rw [hhart] at hpc hr hid
  have hready : (g (numAt u loc a.n) (u.afterAtomic loc a.n (a.new (numAt u loc a.n)))).hart.run = .ready := hr.trans (hrun'.trans hrun)
  have hact : (atomicAt a.order (s.rx a.addr).toNat a.n a.acc pcie f >>= fun m => Act.upd (g m)) s =
      .ok () (g (numAt u loc a.n) (u.afterAtomic loc a.n (a.new (numAt u loc a.n)))) := Act.bind_ok hat
  refine ⟨_, hx.trans (Act.run_ok hact false), hpc.trans (congrArg (· + 4) hpc'), ?_, hid.trans hid', ?_, ?_⟩
  · simp only [State.finished, State.withHart_hart, hready]
    rfl
  · exact sameOutside_congr hout hmem hreg
  · exact (numAt_congr hmem hreg hst a.n).trans hnum

end

-- the error

theorem State.nextWord_of_fetch {s s' : State} {w : BitVec 32} (h : fetch s = .ok (w, s')) : s.nextWord = some w := by
  unfold State.nextWord
  rw [h]

theorem completes_of_next {f : State → Answer} {s t : State} (h : f s = .next t) (hpc : t.hart.pc = s.hart.pc + 4)
    (hrun : t.hart.run = .ready) (hid : t.hart.hid = s.hart.hid) : completes f s = some t := by
  unfold completes
  rw [h]
  exact if_pos ⟨hpc, hrun, hid⟩

/-- The error of an atomic that would complete: its trap, over its effect where that was applied (R408). -/
theorem scalarAtomicError_of_completes {f : State → Answer} {s t : State} (h : completes f s = some t) (hw : s.hart.waitTag = none)
    (va : Nat) (applied : Bool) : scalarAtomicError f va applied s =
      takeTrap true 11 (atomicErrorValue applied va) 0 (if applied then { t with hart := s.hart } else s) := by
  unfold scalarAtomicError
  rw [h, hw]

theorem remoteAtomicErrorsTrap : RemoteAtomicErrorsTrap := by
  intro i s s' u w a loc applied e hfetch hdec hform hwait hrun hinv hord hreach hread hcap hback
  have hst : stored loc = true := by
    obtain ⟨hout, -⟩ := hread
    cases loc with
    | dev | scr => rfl
    | cap k => exact absurd rfl (hcap k)
    | io | hostb => cases hout
  obtain ⟨haddr, f, hf, hexec⟩ := actsAs_of_decode hdec s a hform
  obtain ⟨t, hx, hpc, hready, hid, hout, hnum⟩ := atomicCompletes hform hrun hinv hord hreach hread hst hback
  have hdone : completes f s = some t := completes_of_next ((hexec s).trans hx) hpc hready hid
  let v : State := if applied then { t with hart := s.hart } else s
  have hv : v.hart = s.hart := by
    show (if applied then { t with hart := s.hart } else s : State).hart = s.hart
    split <;> rfl
  have herr : execRemoteAtomicError s.hart.hid applied e s =
      .next (takeTrap true 11 (atomicErrorValue applied (s.rx a.addr).toNat) 0 v) := by
    refine asHart_self ?_ ((takeTrap_hid ..).trans (congrArg Hart.hid hv))
    rw [haddr]
    simp only [State.nextWord_of_fetch hfetch, hf, scalarAtomicError_of_completes hdone hwait]
    rfl
  refine ⟨v, herr, hv, fun h => ?_, fun h => ?_⟩
  · subst h
    rfl
  · subst h
    exact ⟨sameOutside_congr hout rfl rfl, (numAt_congr rfl rfl hst a.n).trans hnum⟩

/-- Settles O50: a load of a device waits with one request out; a completion reaches who asked for it; a host's request acts on the
bytes of its range; and a remote atomic error raises its trap over the state that the atomic would leave, or over the one before. -/
theorem targetsAndHostsAreServed : Obligations.TargetsAndHostsAreServed :=
  ⟨deviceAccessesWaitForTheirTarget, targetsCompleteTheirRequests, hostPortsReachDeviceMemory, remoteAtomicErrorsTrap⟩

end Sys2Proof.Machine
end

section
namespace Sys2Proof.Machine

open Claims

/-! Ends of launches, second part: delivery failures, refits, and the ends that the firmware gives (R81, R82, R86, R386, R413). -/

-- what changes where the harts of a launch are, and nothing else of it

/-- Only what the launch unit keeps about the harts of launches has changed in their records; memory and the units are as before. -/
structure State.Rehouses (s t : State) : Prop where
  mem : t.mem = s.mem
  svc : t.svc = s.svc
  launches : ∃ f : Launch → List LHart, t.lu.launches = s.lu.launches.map fun l => { l with hs := f l }

theorem State.Rehouses.of_eq {s t : State} (hm : t.mem = s.mem) (hs : t.svc = s.svc) (hl : t.lu = s.lu) : s.Rehouses t :=
  ⟨hm, hs, Launch.hs, by rw [hl]; exact (List.map_id _).symm⟩

theorem State.Rehouses.refl (s : State) : s.Rehouses s := .of_eq rfl rfl rfl

theorem State.Rehouses.trans {s t u : State} (a : s.Rehouses t) (b : t.Rehouses u) : s.Rehouses u := by
  obtain ⟨f, hf⟩ := a.launches
  obtain ⟨g, hg⟩ := b.launches
  exact ⟨b.mem.trans a.mem, b.svc.trans a.svc, fun l => g { l with hs := f l }, by rw [hg, hf, List.map_map]; rfl⟩

theorem State.rehouses_updLaunch (s : State) (lid : Nat) (f : Launch → List LHart) :
    s.Rehouses (s.updLaunch lid fun l => { l with hs := f l }) := by
  refine ⟨rfl, rfl, fun l => if l.lid = lid then f l else l.hs, List.map_congr_left fun l _ => ?_⟩
  by_cases h : l.lid = lid
  · simp only [if_pos h]
  · simp only [if_neg h]

theorem State.rehouses_vacate (s : State) (hid : Nat) : s.Rehouses (s.vacate hid) := by
  unfold State.vacate
  dsimp only
  split
  · split
    · exact .of_eq rfl rfl rfl
    · exact .of_eq rfl rfl rfl
  · exact .of_eq rfl rfl rfl

theorem State.rehouses_leave (s : State) (h : Hart) (pos : HPos) : s.Rehouses (s.leave h pos) :=
  (s.rehouses_updLaunch h.lid _).trans (State.rehouses_vacate _ _)

theorem State.rehouses_removeHarts (s : State) (lid : Nat) : s.Rehouses (s.removeHarts lid) := by
  unfold State.removeHarts
  generalize s.placed.filter _ = hs
  induction hs generalizing s with
  | nil => exact .refl s
  | cons h hs ih => exact (s.rehouses_leave h .exited).trans (ih _)

theorem State.rehouses_moveHome {s t : State} {l : Launch} {core : Nat} (h : s.moveHome l core = some t) : s.Rehouses t := by
  unfold State.moveHome at h
  split at h
  · cases h
    exact .refl s
  · split at h
    · cases h
    · rename_i c _
      cases h
      exact (s.rehouses_updLaunch l.lid fun m =>
        m.hs.map fun r : LHart => if r.home = some core then { r with home := some c } else r).trans (.of_eq rfl rfl rfl)

/-- Homes are given to all the harts of a launch or to none (R86). -/
theorem State.rehouses_moveHomes {l : Launch} (cs : List Nat) {o : Option State} {s t : State} (ho : ∀ u, o = some u → s.Rehouses u)
    (h : cs.foldl (fun o c => o.bind fun s => s.moveHome l c) o = some t) : s.Rehouses t := by
  induction cs generalizing o with
  | nil => exact ho t h
  | cons c cs ih =>
    refine ih (fun v hv => ?_) h
    obtain ⟨u, hu, hm⟩ := Option.bind_eq_some_iff.mp hv
    exact (ho u hu).trans (State.rehouses_moveHome hm)

/-- What an id names after harts have moved. -/
theorem State.Rehouses.launch? {s t : State} (h : s.Rehouses t) (lid : Nat) :
    ∃ f : Launch → List LHart, t.launch? lid = (s.launch? lid).map fun l => { l with hs := f l } := by
  obtain ⟨f, hf⟩ := h.launches
  refine ⟨f, ?_⟩
  unfold State.launch?
  rw [hf, List.find?_map]
  rfl

theorem State.Rehouses.records {s t : State} (h : s.Rehouses t) {lid : Nat} {P : Launch → Prop} (hs : s.Records lid P)
    (hP : ∀ l x, P l → P { l with hs := x }) : t.Records lid P := by
  obtain ⟨f, hf⟩ := h.launches
  intro l hl hid
  rw [hf] at hl
  obtain ⟨q, hq, rfl⟩ := List.mem_map.mp hl
  exact hP q _ (hs q hq hid)

-- the units in service, while launches end

/-- Of the units in service, only the GRANT record may differ (R44, R46). -/
def State.SameUnits (s t : State) : Prop :=
  ∃ g q, t.svc.units = { s.svc.units with largest := g, seqGrant := q }

theorem State.SameUnits.of_eq {s t : State} (h : t.svc.units = s.svc.units) : s.SameUnits t := ⟨_, _, h⟩

theorem State.SameUnits.refl (s : State) : s.SameUnits s := .of_eq rfl

theorem State.SameUnits.trans {s t u : State} (a : s.SameUnits t) (b : t.SameUnits u) : s.SameUnits u := by
  obtain ⟨g, q, ht⟩ := a
  obtain ⟨g', q', hu⟩ := b
  exact ⟨g', q', by rw [hu, ht]⟩

theorem State.Rehouses.sameUnits {s t : State} (h : s.Rehouses t) : s.SameUnits t := .of_eq (by rw [h.svc])

theorem State.SameUnits.pool {s t : State} (h : s.SameUnits t) (d : Nat) : t.svc.units.pool d = s.svc.units.pool d := by
  obtain ⟨g, q, ht⟩ := h
  rw [ht]
  rfl

theorem State.sameUnits_trackGrant (s : State) : s.SameUnits s.trackGrant := by
  unfold State.trackGrant
  dsimp only
  split
  · exact .refl s
  · exact ⟨_, _, rfl⟩

theorem State.sameUnits_toFinal (s : State) (lid code : Nat) : s.SameUnits (s.toFinal lid code) := by
  unfold State.toFinal
  dsimp only
  refine State.SameUnits.trans ?_ (State.sameUnits_trackGrant _)
  split
  · exact .of_eq rfl
  · exact .of_eq rfl

theorem State.sameUnits_settleOne (s : State) (lid : Nat) : s.SameUnits (s.settleOne lid) := by
  unfold State.settleOne
  split
  · exact .refl s
  · split
    · exact .refl s
    · split
      · exact State.sameUnits_toFinal (s.updLaunch lid _) lid 12
      · dsimp only
        split
        · exact .of_eq rfl
        · exact .of_eq rfl

/-- What settling one launch keeps, settling all of them keeps. -/
theorem State.settle_keeps {I : State → Prop} (h : ∀ s lid, I s → I (s.settleOne lid)) (n : Nat) {s : State} (hs : I s) :
    I (State.settle n s) := by
  induction n generalizing s with
  | zero => exact hs
  | succ n ih => exact ih (List.foldlRecOn _ State.settleOne hs fun t ht lid _ => h t lid ht)

theorem State.sameUnits_finalize (s : State) (lid code : Nat) : s.SameUnits (s.finalize lid code) :=
  State.settle_keeps (I := s.SameUnits) (fun t id h => h.trans (t.sameUnits_settleOne id)) _ (s.sameUnits_toFinal lid code)

-- what an id names, while another launch ends

/-- What an id names after records of one id have changed, which stay that id's. -/
theorem State.launch?_updLaunch_own {s : State} {id : Nat} {f : Launch → Launch} (hf : ∀ l : Launch, l.lid = id → (f l).lid = id)
    (lid : Nat) : (s.updLaunch id f).launch? lid = (s.launch? lid).map fun l => if l.lid = id then f l else l := by
  have hp : (fun l : Launch => decide (l.lid = lid)) ∘ (fun l => if l.lid = id then f l else l) = fun l => decide (l.lid = lid) := by
    funext l
    by_cases hl : l.lid = id
    · simp [hl, hf l hl]
    · simp [hl]
  show (s.lu.launches.map fun l => if l.lid = id then f l else l).find? (fun l => decide (l.lid = lid)) = _
  rw [List.find?_map, hp]
  rfl

theorem State.launch?_updLaunch_other {s : State} {lid id : Nat} (hne : id ≠ lid) {f : Launch → Launch}
    (hf : ∀ l : Launch, l.lid = id → (f l).lid = id) : (s.updLaunch id f).launch? lid = s.launch? lid := by
  rw [State.launch?_updLaunch_own hf]
  cases hl : s.launch? lid with
  | none => rfl
  | some l => simp [State.launch?_lid hl, hne.symm]

theorem find?_ageOut {ls : List Launch} {lid : Nat} {l : Launch} (h : ls.find? (fun l => decide (l.lid = lid)) = some l)
    (hf : isFinal l.state = false) : (ageOut ls).find? (fun l => decide (l.lid = lid)) = some l := by
  unfold ageOut
  split
  · exact h
  · obtain ⟨hl, as, bs, rfl, hbefore⟩ := List.find?_eq_some_iff_append.mp h
    simp only [List.filter_append, List.find?_append, List.filter_cons, hf, Bool.false_and, Bool.not_false, if_true,
      List.find?_cons, hl, Option.or_eq_some_iff]
    refine .inr ⟨List.find?_eq_none.mpr fun q hq => ?_, trivial⟩
    simpa using hbefore q (List.mem_of_mem_filter hq)

section
variable {s : State} {lid : Nat} {l : Launch} (hl : s.launch? lid = some l)
include hl

/-- An end of another launch leaves what an id names, as long as that is live. -/
theorem State.launch?_toFinal_other (hf : isFinal l.state = false) {id : Nat} (hne : id ≠ lid) (code : Nat) :
    (s.toFinal id code).launch? lid = some l := by
  have hu : (s.updLaunch id fun l => { l with
      state := code, ending := none, tfinal := some s.clock
      handles := l.handles.keep (s.ops.filter fun o => o.lid == id && !o.scratch && code == 8) }).launch? lid = some l :=
    (State.launch?_updLaunch_other hne fun _ h => by exact h).trans hl
  unfold State.toFinal
  dsimp only
  unfold State.launch?
  rw [State.trackGrant_lu]
  split
  · exact find?_ageOut hu hf
  · exact find?_ageOut hu hf

theorem State.launch?_settleOne_other (hf : isFinal l.state = false) {id : Nat} (hne : id ≠ lid) : (s.settleOne id).launch? lid = some l := by
  unfold State.settleOne
  split
  · exact hl
  · rename_i q hq
    have hlid : q.lid = id := State.launch?_lid hq
    have hown (f : Launch → Launch) (hid : ∀ m : Launch, m.lid = id → (f m).lid = id) : (s.updLaunch id f).launch? lid = some l :=
      (State.launch?_updLaunch_other hne hid).trans hl
    split
    · exact hl
    · split
      · exact State.launch?_toFinal_other (hown _ fun _ hm => by exact hm) hf hne 12
      · dsimp only
        split
        · exact hown (fun _ => { s.markPre q with state := 1, tmet := some s.clock }) fun _ _ => hlid
        · exact hown (fun _ => s.markPre q) fun _ _ => hlid

/-- Settling leaves a launch that is not queued. -/
theorem State.settleOne_of_taken (h0 : l.state ≠ 0) : s.settleOne lid = s := by
  unfold State.settleOne
  rw [hl]
  exact if_pos h0

theorem State.launch?_finalize_other (hf : isFinal l.state = false) (h0 : l.state ≠ 0) {id : Nat} (hne : id ≠ lid) (code : Nat) :
    (s.finalize id code).launch? lid = some l := by
  refine State.settle_keeps (I := fun t => t.launch? lid = some l) (fun t q ht => ?_) _ (State.launch?_toFinal_other hl hf hne code)
  by_cases hq : q = lid
  · subst hq
    rwa [State.settleOne_of_taken ht h0]
  · exact State.launch?_settleOne_other ht hf hq

end

-- delivery failures (R81, R413)

/-- The end as DELIVFAIL with this CAUSE. -/
def Undelivered (cause : Nat) (l : Launch) : Prop := l.state = 13 ∧ l.cause = cause

/-- A launch that ends as a delivery failure, with its CAUSE and without its harts (R81, R413). -/
def State.failing (s : State) (lid cause : Nat) : State :=
  (s.updLaunch lid fun l => { l with cause := cause, causeHart := 0xFFFF, causeValue := 0 }).removeHarts lid

/-- A delivery failure of a launch that is not on its way to that end. -/
theorem State.deliveryFail_eq {s : State} {lid : Nat} {l : Launch} (hl : s.launch? lid = some l)
    (hf : isFinal l.state = false) (he : l.ending ≠ some 13) (cause : Nat) :
    s.deliveryFail lid cause = (s.failing lid cause).finalize lid 13 := by
  unfold State.deliveryFail
  simp only [hl, hf, he]
  rfl

/-- Otherwise it changes nothing. -/
theorem State.deliveryFail_cases (s : State) (lid cause : Nat) :
    s.deliveryFail lid cause = s ∨
      (∃ l, s.launch? lid = some l ∧ isFinal l.state = false) ∧ s.deliveryFail lid cause = (s.failing lid cause).finalize lid 13 := by
  unfold State.deliveryFail
  split
  · exact .inl rfl
  · rename_i l hl
    split
    · exact .inl rfl
    · rename_i h
      exact .inr ⟨⟨l, hl, eq_false_of_ne_true fun hf => h (by simp [hf])⟩, rfl⟩

theorem State.failing_frame (s : State) (lid cause : Nat) : (s.failing lid cause).mem = s.mem ∧ s.SameUnits (s.failing lid cause) :=
  ⟨(State.rehouses_removeHarts _ lid).mem, (State.rehouses_removeHarts _ lid).sameUnits⟩

theorem State.failing_launch?_other (s : State) {lid id : Nat} (hne : id ≠ lid) (cause : Nat) :
    ∃ f : Launch → List LHart, (s.failing id cause).launch? lid = (s.launch? lid).map fun l => { l with hs := f l } := by
  obtain ⟨f, hf⟩ := (State.rehouses_removeHarts (s.updLaunch id fun l => { l with cause := cause, causeHart := 0xFFFF, causeValue := 0 })
    id).launch? lid
  exact ⟨f, by rw [State.failing, hf, State.launch?_updLaunch_other hne fun _ hm => by exact hm]⟩

theorem State.failing_records_other {s : State} {lid id : Nat} {P : Launch → Prop} (h : s.Records lid P) (hne : id ≠ lid)
    (hP : ∀ l x, P l → P { l with hs := x }) (cause : Nat) : (s.failing id cause).Records lid P :=
  (State.rehouses_removeHarts _ id).records (h.updLaunch fun _ hq hid => absurd (hq.symm.trans hid) hne) hP

@[simp] theorem State.finalize_mem (s : State) (lid code : Nat) : (s.finalize lid code).mem = s.mem := (s.decides_finalize lid code).mem

@[simp] theorem State.deliveryFail_mem (s : State) (lid cause : Nat) : (s.deliveryFail lid cause).mem = s.mem := by
  rcases s.deliveryFail_cases lid cause with h | ⟨-, h⟩
  · rw [h]
  · rw [h, State.finalize_mem, (s.failing_frame lid cause).1]

theorem State.sameUnits_deliveryFail (s : State) (lid cause : Nat) : s.SameUnits (s.deliveryFail lid cause) := by
  rcases s.deliveryFail_cases lid cause with h | ⟨-, h⟩
  · rw [h]
    exact .refl s
  · rw [h]
    exact (s.failing_frame lid cause).2.trans (State.sameUnits_finalize _ _ _)

/-- A launch that is not on its way to that end ends so (R81, R413). -/
theorem State.undelivered_deliveryFail {s : State} {lid : Nat} {l : Launch} (hl : s.launch? lid = some l)
    (hf : isFinal l.state = false) (he : l.ending ≠ some 13) (cause : Nat) :
    (s.deliveryFail lid cause).Records lid (Undelivered cause) := by
  rw [State.deliveryFail_eq hl hf he]
  refine State.Records.finalize (P := fun l => l.cause = cause) ?_ (fun _ _ _ h => ⟨rfl, h⟩) fun l h => by rw [h.1]; decide
  exact (State.rehouses_removeHarts _ lid).records (State.records_updLaunch fun _ => rfl) fun _ _ h => h

/-- Records of a final state outlast the delivery failures of all launches. -/
theorem State.Records.deliveryFail {s : State} {lid : Nat} {P : Launch → Prop} (h : s.Records lid P)
    (hfinal : ∀ l, P l → isFinal l.state = true) (hP : ∀ l x, P l → P { l with hs := x }) (id cause : Nat) :
    (s.deliveryFail id cause).Records lid P := by
  rcases s.deliveryFail_cases id cause with hd | ⟨⟨l, hl, hlive⟩, hd⟩
  · rwa [hd]
  · have hne : id ≠ lid := by
      rintro rfl
      exact absurd (hfinal l (h.of_launch? hl)) (by simp [hlive])
    rw [hd]
    refine State.Records.settle ((State.failing_records_other h hne hP cause).toFinal_other hne) (fun l hl h0 => ?_) _
    exact absurd (hfinal l hl) (by simp [h0, isFinal])

theorem ended_of_undelivered {t : State} {lid cause : Nat} (h : t.Records lid (Undelivered cause)) : Ended t lid 13 cause :=
  fun _ hl => h.of_launch? hl

/-- The id names this launch, wherever its harts are by now. -/
def State.ShowsApart (s : State) (lid : Nat) (l : Launch) : Prop := ∃ hs, s.launch? lid = some { l with hs := hs }

theorem State.Rehouses.showsApart {s t : State} (h : s.Rehouses t) {lid : Nat} {l : Launch} (hs : s.ShowsApart lid l) :
    t.ShowsApart lid l := by
  obtain ⟨x, hx⟩ := hs
  obtain ⟨f, hf⟩ := h.launch? lid
  exact ⟨_, by rw [hf, hx]; rfl⟩

theorem State.ShowsApart.deliveryFail {s : State} {lid id : Nat} {l : Launch} (h : s.ShowsApart lid l)
    (hf : isFinal l.state = false) (h0 : l.state ≠ 0) (hne : id ≠ lid) (cause : Nat) : (s.deliveryFail id cause).ShowsApart lid l := by
  rcases s.deliveryFail_cases id cause with hd | ⟨-, hd⟩
  · rwa [hd]
  · obtain ⟨x, hx⟩ := h
    obtain ⟨f, hf'⟩ := s.failing_launch?_other hne cause
    rw [hx] at hf'
    exact ⟨_, by rw [hd]; exact State.launch?_finalize_other hf' hf h0 hne 13⟩

-- refits (R82, R86)

/-- One launch of a refit keeps its place, its harts perhaps elsewhere, or fails with CAUSE 0x01. -/
theorem State.refitOne_cases (s : State) (r : Refit) (id : Nat) :
    s.Rehouses (s.refitOne r id).2 ∧ (∀ l, s.launch? id = some l → ∀ d, d < 4 → 8 * l.gmin * l.harts ≤ s.svc.units.pool d) ∨
      (s.refitOne r id).2 = s.deliveryFail id 1 := by
  unfold State.refitOne
  split
  · rename_i hnone
    exact .inl ⟨.refl s, fun l hl => by simp [hl] at hnone⟩
  · rename_i l hl
    dsimp only
    split
    · rename_i u hfits hmoved
      refine .inl ⟨State.rehouses_moveHomes _ (fun u hu => Option.some.inj hu ▸ .refl s) hmoved, fun m hm d hd => ?_⟩
      obtain rfl := Option.some.inj (hl.symm.trans hm)
      simp only [Bool.and_eq_true, List.all_eq_true, List.mem_range, decide_eq_true_eq] at hfits
      exact le_trans (Nat.le_add_left _ _) (hfits.1.1.2 d hd)
    · exact .inr rfl

theorem State.refitOne_mem (s : State) (r : Refit) (id : Nat) : (s.refitOne r id).2.mem = s.mem := by
  rcases s.refitOne_cases r id with ⟨h, -⟩ | h
  · exact h.mem
  · rw [h, State.deliveryFail_mem]

/-- A refit goes through the launches in its order. -/
def State.refitAll (ids : List Nat) (p : Refit × State) : Refit × State := ids.foldl (fun p lid => p.2.refitOne p.1 lid) p

theorem State.refitAll_mem (ids : List Nat) (p : Refit × State) : (State.refitAll ids p).2.mem = p.2.mem := by
  induction ids generalizing p with
  | nil => rfl
  | cons id ids ih => exact (ih _).trans (p.2.refitOne_mem p.1 id)

theorem State.sameUnits_refitOne (s : State) (r : Refit) (id : Nat) : s.SameUnits (s.refitOne r id).2 := by
  rcases s.refitOne_cases r id with ⟨h, -⟩ | h
  · exact h.sameUnits
  · rw [h]
    exact s.sameUnits_deliveryFail id 1

/-- A launch that has ended stays so. -/
theorem State.undelivered_refitOne {s : State} {lid cause : Nat} (h : s.Records lid (Undelivered cause)) (r : Refit) (id : Nat) :
    (s.refitOne r id).2.Records lid (Undelivered cause) := by
  rcases s.refitOne_cases r id with ⟨hr, -⟩ | hr
  · exact hr.records h fun _ _ hl => hl
  · rw [hr]
    exact h.deliveryFail (fun l hl => by rw [hl.1]; rfl) (fun _ _ hl => hl) id 1

/-- A launch whose reservation a pool cannot hold ends when its turn comes (R82). -/
theorem State.ShowsApart.refitAll {lid : Nat} {l : Launch} (hf : isFinal l.state = false) (h0 : l.state ≠ 0)
    (he : l.ending ≠ some 13) {d : Nat} (hd : d < 4) {ids : List Nat} (hin : lid ∈ ids) {p : Refit × State}
    (hpool : p.2.svc.units.pool d < 8 * l.gmin * l.harts) (h : p.2.ShowsApart lid l) :
    (State.refitAll ids p).2.Records lid (Undelivered 1) := by
  induction ids generalizing p with
  | nil => cases hin
  | cons id ids ih =>
    show (State.refitAll ids (p.2.refitOne p.1 id)).2.Records lid _
    by_cases hid : id = lid
    · subst hid
      have hends : (p.2.refitOne p.1 id).2.Records id (Undelivered 1) := by
        obtain ⟨x, hx⟩ := h
        rcases p.2.refitOne_cases p.1 id with ⟨-, hroom⟩ | hr
        · exact absurd hpool (Nat.not_lt.mpr (hroom _ hx d hd))
        · rw [hr]
          exact State.undelivered_deliveryFail hx hf he 1
      exact List.foldlRecOn (motive := fun q : Refit × State => q.2.Records id (Undelivered 1)) ids _ hends
        fun q hq a _ => State.undelivered_refitOne hq q.1 a
    · refine ih ((List.mem_cons.mp hin).resolve_left (Ne.symm hid)) ?_ ?_
      · rwa [(p.2.sameUnits_refitOne p.1 id).pool]
      · rcases p.2.refitOne_cases p.1 id with ⟨hr, -⟩ | hr
        · exact hr.showsApart h
        · rw [hr]
          exact h.deliveryFail hf h0 hid 1

theorem exec_refit (s : State) : exec .refit s = .next (State.refitAll s.refitOrder (⟨0, 0, 0, 0⟩, s)).2.trackGrant := rfl

theorem State.mem_refitOrder {s : State} {lid : Nat} {l : Launch} (hl : s.launch? lid = some l) (hf : isFinal l.state = false)
    (hc : l.cls < 4) : lid ∈ s.refitOrder := by
  refine List.mem_flatMap.mpr ⟨l.cls, List.mem_range.mpr hc, List.mem_map.mpr ⟨l, ?_, State.launch?_lid hl⟩⟩
  simp [State.live, State.launch?_mem hl, hf]

-- the claim

theorem exec_promiseExpiry {s : State} {lid : Nat} {l : Launch} (hl : s.launch? lid = some l) (w : FirmwareEnd) :
    exec (.promiseExpiry ⟨lid, w⟩) s = .next (s.firmwareEnds l w) := by
  show execPromiseExpiry ⟨lid, w⟩ s = _
  unfold execPromiseExpiry
  simp [hl]

theorem brokenPromisesEndAsDeliveryFailures : BrokenPromisesEndAsDeliveryFailures := by
  refine ⟨fun s => ⟨_, exec_refit s, by rw [State.trackGrant_mem, State.refitAll_mem]⟩, fun lid s l hl hf he => ?_⟩
  obtain rfl : l.lid = lid := State.launch?_lid hl
  have hfail (cause : Nat) : Ended (s.deliveryFail l.lid cause) l.lid 13 cause :=
    ended_of_undelivered (State.undelivered_deliveryFail hl hf he cause)
  refine ⟨fun m hm hpast => ?_, fun hrun hpast => ?_, fun hid h hh hlid _ hnone hsuper hactive hcode => ?_,
    fun _ hc h0 ⟨d, hd, hpool⟩ => ?_⟩
  · have hends : s.firmwareEnds l .expired = s.deliveryFail l.lid 3 := by
      simp [State.firmwareEnds, Launch.promised, hm, hpast]
    exact ⟨_, exec_promiseExpiry hl _, by rw [hends, State.deliveryFail_mem], fun _ => hends ▸ hfail 3⟩
  · have hends : s.firmwareEnds l .allowance = s.deliveryFail l.lid 2 := by
      simp [State.firmwareEnds, hrun, hpast]
    exact ⟨_, exec_promiseExpiry hl _, by rw [hends, State.deliveryFail_mem], fun _ => hends ▸ hfail 2⟩
  · have hends : s.firmwareEnds l (.unresolved hid) = s.endLaunch l.lid 11 (bitsAt h.tcause.toNat 0 8) h.j h.tval.toNat := by
      have hbits : bitsAt h.tcause.toNat 0 8 = h.tcause.toNat % 256 := by simp [bitsAt]
      simp only [List.mem_cons, List.not_mem_nil, or_false] at hcode
      simp [State.firmwareEnds, hh, hlid, hsuper, hactive, hbits, hcode]
    refine ⟨_, exec_promiseExpiry hl _, by rw [hends, State.endLaunch_mem], ?_⟩
    rw [hends]
    exact ending_endLaunch hl hf hnone (by decide)
  · have hshows : s.ShowsApart l.lid l := ⟨l.hs, hl⟩
    have hrecords := hshows.refitAll (p := (⟨0, 0, 0, 0⟩, s)) hf h0 he hd (State.mem_refitOrder hl hf hc) hpool
    refine ⟨_, exec_refit s, by rw [State.trackGrant_mem, State.refitAll_mem], ended_of_undelivered ?_⟩
    unfold State.Records
    rw [State.trackGrant_lu]
    exact hrecords

end Sys2Proof.Machine
end

section
namespace Sys2Proof.Machine

open Claims

/-! Completion records and notices (R412 to R414). -/

-- the bytes of a record

theorem cellsPut_append (m : List Host.Cell) (a : Nat) (xs ys : List Byte) :
    cellsPut m a (xs ++ ys) = cellsPut (cellsPut m a xs) (a + xs.length) ys := by
  induction xs generalizing m a with
  | nil => rfl
  | cons x xs ih =>
    show cellsPut (cellSet m a x) (a + 1) (xs ++ ys) = _
    rw [ih, List.length_cons, Nat.add_assoc, Nat.add_comm 1]
    rfl

/-- A unit's write over one stretch of device memory. -/
theorem State.segWrite_dev_mem (s : State) (a n : Nat) (sy : Bool) {bs : List Byte} (h : bs.length = n) :
    (s.segWrite [⟨.dev a sy, n⟩] bs).mem = cellsPut s.mem a bs := by
  have hall : bs.take n = bs := List.take_of_length_le (Nat.le_of_eq h)
  show cellsPut (s.moves .passing true (.dev a sy) n).mem a (bs.take n) = _
  rw [hall, State.moves_mem]

/-- The record behind MAGIC: the state, three bytes, LID, and what follows it (R412). -/
theorem Launch.recordTail_eq (l : Launch) : ∃ why rest : List Byte, why.length = 3 ∧ rest.length = 48 ∧
    l.recordTail = bytesOf l.state 1 ++ (why ++ (bytesOf l.lid 8 ++ rest)) := by
  refine ⟨(l.recordTail.drop 1).take 3, l.recordTail.drop 12, ?_, ?_, rfl⟩
  · simp [Launch.recordTail]
  · simp [Launch.recordTail]

theorem Launch.recordTail_length (l : Launch) : l.recordTail.length = 60 := by
  obtain ⟨why, rest, hwhy, hrest, htail⟩ := l.recordTail_eq
  simp [htail, hwhy, hrest]

/-- What the write of a record changes (R412, R414). -/
structure RecordWritten (s : State) (l : Launch) (a : Nat) (t : State) : Prop where
  mem : t.mem = cellsPut (cellsPut s.mem (a + 4) l.recordTail) a (bytesOf 0x504D4F43 4)
  hart : t.hart = s.hart
  regions : t.regions = s.regions
  lu : t.lu = (s.updLaunch l.lid fun l => { l with recordDone := true }).lu

theorem State.recordWritten_writeRecord (s : State) {l : Launch} {a : Nat} {sy : Bool} (h : l.complAt = [⟨.dev a sy, 64⟩]) :
    RecordWritten s l a (s.writeRecord l) := by
  have hbody : segsAt l.complAt 4 60 = [⟨.dev (a + 4) sy, 60⟩] := by rw [h]; rfl
  have hmagic : segsAt l.complAt 0 4 = [⟨.dev a sy, 4⟩] := by rw [h]; rfl
  have hscr (b n : Nat) : NoScr [⟨.dev b sy, n⟩] := fun g hg => by rw [List.mem_singleton.mp hg]; rfl
  obtain ⟨u, hu⟩ : ∃ u, u = s.updLaunch l.lid fun l => { l with recordDone := true } := ⟨_, rfl⟩
  have hw : OnlyTraffic u ((u.segWrite [⟨.dev (a + 4) sy, 60⟩] l.recordTail).segWrite [⟨.dev a sy, 4⟩] (bytesOf 0x504D4F43 4)) :=
    (State.segWrite_onlyTraffic (hscr _ _) _ _).trans (State.segWrite_onlyTraffic (hscr _ _) _ _)
  have hm : ((u.segWrite [⟨.dev (a + 4) sy, 60⟩] l.recordTail).segWrite [⟨.dev a sy, 4⟩] (bytesOf 0x504D4F43 4)).mem =
      cellsPut (cellsPut s.mem (a + 4) l.recordTail) a (bytesOf 0x504D4F43 4) := by
    rw [State.segWrite_dev_mem _ _ _ _ (by simp), State.segWrite_dev_mem _ _ _ _ l.recordTail_length, hu]
    rfl
  unfold State.writeRecord
  dsimp only
  rw [hbody, hmagic, ← hu]
  generalize (u.segWrite _ _).segWrite _ _ = t at hw hm ⊢
  have ht : RecordWritten s l a t := by
    refine ⟨hm, ?_, ?_, ?_⟩
    · rw [show t = _ from hw, hu]; rfl
    · rw [show t = _ from hw, hu]; rfl
    · rw [show t = _ from hw, hu]
  obtain ⟨hmem, hhart, hreg, hlu⟩ := ht
  split
  · exact ⟨hmem, hhart, hreg, hlu⟩
  · exact ⟨hmem, hhart, hreg, hlu⟩

-- what is read where a record has been written

/-- What lies outside a stretch of device memory lies outside every part of it. -/
theorem within_dev_inside {a b n m : Nat} {sy : Bool} {p : Loc} (h : within (.dev a sy) n p = false) (hb : a ≤ b) (hm : b + m ≤ a + n) :
    within (.dev b sy) m p = false := by
  cases p with
  | dev c sy' =>
    simp only [within, Bool.and_eq_false_iff, decide_eq_false_iff_not] at h ⊢
    omega
  | _ => rfl

/-- A state that holds these bytes, for a step between two writes. -/
theorem State.exists_withMem (s : State) (m : List Host.Cell) : ∃ u : State, u.mem = m ∧ u.regions = s.regions :=
  ⟨{ s with mem := m }, rfl, rfl⟩

section
variable {s t : State} {l : Launch} {a : Nat} (h : RecordWritten s l a t) (hs : s.memWf)
include h hs

/-- The record reads as its parts (R412). -/
theorem RecordWritten.reads (sy : Bool) : numAt t (.dev a sy) 4 = 0x504D4F43 ∧ byteAt t (.dev a sy) 4 = BitVec.ofNat 8 l.state ∧
    numAt t (.dev (a + 8) sy) 8 = l.lid % 2 ^ 64 := by
  obtain ⟨why, rest, hwhy, -, htail⟩ := l.recordTail_eq
  obtain ⟨u, hu, -⟩ := s.exists_withMem (cellsPut (cellsPut s.mem (a + 4) (bytesOf l.state 1)) (a + 5) why)
  obtain ⟨v, hv, -⟩ := s.exists_withMem (cellsPut u.mem (a + 8) (bytesOf l.lid 8))
  obtain ⟨w, hw, -⟩ := s.exists_withMem (cellsPut v.mem (a + 16) rest)
  have hbody : cellsPut s.mem (a + 4) l.recordTail = w.mem := by
    rw [htail, cellsPut_append, cellsPut_append, cellsPut_append, hw, hv, hu]
    simp [hwhy, Nat.add_assoc]
  have huwf : u.memWf := by unfold State.memWf; rw [hu]; exact cellsWf_cellsPut _ _ (cellsWf_cellsPut _ _ hs)
  have hvwf : v.memWf := by unfold State.memWf; rw [hv]; exact cellsWf_cellsPut _ _ huwf
  have hwwf : w.memWf := by unfold State.memWf; rw [hw]; exact cellsWf_cellsPut _ _ hvwf
  have ht : t.mem = cellsPut w.mem a (bytesOf 0x504D4F43 4) := by rw [h.mem, hbody]
  refine ⟨(State.memNat_put ht hwwf).trans (by decide), ?_, ?_⟩
  · show cellAt t.mem (a + 4) = _
    rw [ht, cellAt_put_apart hwwf (by simp), ← hbody, cellAt_cellsPut _ _ _ hs, htail]
    simp [bytesOf]
  · calc
      t.memNat (a + 8) 8 = w.memNat (a + 8) 8 := State.memNat_put_apart ht hwwf (by rw [bytesOf_length]; omega)
      _ = v.memNat (a + 8) 8 := State.memNat_put_apart hw hvwf (by omega)
      _ = l.lid % 2 ^ 64 := State.memNat_put hv huwf

theorem RecordWritten.sameOutside (sy : Bool) : SameOutside s t (.dev a sy) 64 := by
  obtain ⟨u, hu, hr⟩ := s.exists_withMem (cellsPut s.mem (a + 4) l.recordTail)
  have hwf : u.memWf := by unfold State.memWf; rw [hu]; exact cellsWf_cellsPut _ _ hs
  have hbody := sameOutside_dev (sy := sy) hu hr hs
  have hmem : t.mem = cellsPut u.mem a (bytesOf 0x504D4F43 4) := by rw [h.mem, hu]
  have hmagic := sameOutside_dev (sy := sy) hmem (h.regions.trans hr.symm) hwf
  rw [l.recordTail_length] at hbody
  rw [bytesOf_length] at hmagic
  exact fun p hp hout => (hmagic p hp (within_dev_inside hout (by omega) (by omega))).trans
    (hbody p hp (within_dev_inside hout (by omega) (by omega)))

end

-- the claim

theorem exec_completionRecordWrite {s : State} {lid : Nat} {l : Launch} (hl : s.launch? lid = some l) (hf : isFinal l.state = true)
    (hd : l.recordDone = false) (hw : s.working lid = false) : exec (.completionRecordWrite lid) s = .next (s.writeRecord l) := by
  show execCompletionRecordWrite lid s = _
  unfold execCompletionRecordWrite
  simp [hl, hf, hd, hw]

theorem exec_hostNotice {s : State} {lid : Nat} {l : Launch} (hl : s.launch? lid = some l) (hd : l.recordDone = true)
    (hn : l.noticed = false) (hv : l.note ≠ 0xFFFF) :
    exec (.hostNotice lid) s = .next ((s.updLaunch lid fun l => { l with noticed := true }).send [.msix l.port l.note]) := by
  show execHostNotice lid s = _
  unfold execHostNotice
  simp [hl, hd, hn, hv]

theorem completionRecordAndNotice : CompletionRecordAndNotice := by
  refine ⟨fun lid a sy s l hinv hl hf hd hw hat _ => ?_, fun lid s l hl hd hn hv => ?_⟩
  · have hr := s.recordWritten_writeRecord hat
    obtain ⟨hmagic, hstate, hlid⟩ := hr.reads hinv.1 sy
    refine ⟨_, exec_completionRecordWrite hl hf hd hw, hr.hart, hr.sameOutside hinv.1 sy, hmagic, hstate, hlid, ?_⟩
    rintro rfl m hm
    have hrecords : (s.writeRecord l).Records l.lid fun m => m.recordDone = true := by
      unfold State.Records
      rw [hr.lu]
      exact State.records_updLaunch fun _ => rfl
    exact hrecords.of_launch? hm
  · refine ⟨_, exec_hostNotice hl hd hn hv, rfl, rfl, rfl, fun m hm => ?_⟩
    have hrecords : (s.updLaunch lid fun l => { l with noticed := true }).Records lid fun m => m.noticed = true :=
      State.records_updLaunch fun _ => rfl
    exact hrecords.of_launch? hm

/-- Settles O20: a delivery failure makes its launch final, and no end of another launch undoes that; a refit ends a launch that
outgrows a pool when its turn comes; a record reads as its parts, and a notice is sent once. -/
theorem launchesEndWithTheirRecord : Obligations.LaunchesEndWithTheirRecord :=
  ⟨brokenPromisesEndAsDeliveryFailures, completionRecordAndNotice⟩

end Sys2Proof.Machine
end

section
namespace Sys2Proof.Machine

open Claims

/-! Boot (R43, R74, R415, R416). -/

-- the journal

/-- No entry of a journal is for this step and unit. -/
def Fresh (su : Nat × Nat) (j : List JEntry) : Prop := ∀ e ∈ j, (e.step, e.unit) ≠ su

/-- A write keeps the entries of other steps and units (R416). -/
theorem journalPut_keeps {e o : JEntry} (hne : (o.step, o.unit) ≠ (e.step, e.unit)) :
    (!(o.step == e.step && o.unit == e.unit && (e.step != 7 || o.outcome == 0 || o.detail == e.detail))) = true := by
  have hapart : (o.step == e.step && o.unit == e.unit) = false := by simpa [Prod.mk.injEq] using hne
  simp only [hapart, Bool.false_and, Bool.not_false]

/-- A first entry for a step and unit goes behind the others (R416). -/
theorem journalPut_fresh {e : JEntry} {j : List JEntry} (h : Fresh (e.step, e.unit) j) : journalPut e j = j ++ [e] := by
  unfold journalPut
  rw [List.filter_eq_self.mpr fun o ho => journalPut_keeps (h o ho)]

theorem mem_journalPut_of_ne {e o : JEntry} {j : List JEntry} (ho : o ∈ j) (hne : (o.step, o.unit) ≠ (e.step, e.unit)) :
    o ∈ journalPut e j := List.mem_append_left _ (List.mem_filter.mpr ⟨ho, journalPut_keeps hne⟩)

theorem mem_journalPut_self (e : JEntry) (j : List JEntry) : e ∈ journalPut e j := List.mem_append_right _ (List.mem_singleton_self e)

-- a boot whose journal names no loss

/-- The entry of a step that passes in its full form (R416). -/
def passed (count : Nat) (su : Nat × Nat) : JEntry := ⟨su.1, su.2, 0, 0, count, 0⟩

/-- No failure is named for this step and unit. -/
def Spared (fails : List BootFail) (su : Nat × Nat) : Prop := ∀ f ∈ fails, (f.step, f.unit) ≠ su

/-- The supervisor's step is one (R415). -/
def OneSupervisor (su : Nat × Nat) : Prop := su.1 = 1 → su.2 = 0

/-- A step without a failure passes (R415, R416). -/
theorem BootRun.step_spared {fails : List BootFail} {b : BootRun} {su : Nat × Nat} (count : Nat) (hb : b.stopped = false)
    (hsu : OneSupervisor su) (hf : Spared fails su) :
    b.step [] count false fails su = { b with journal := journalPut (passed count su) b.journal } := by
  obtain ⟨step, unit⟩ := su
  obtain ⟨units, journal, stopped⟩ := b
  obtain rfl : stopped = false := hb
  have hnone : (fails.find? fun f => decide (f.step = step ∧ f.unit = unit)) = none :=
    List.find?_eq_none.mpr fun f hm => by simpa using hf f hm
  unfold BootRun.step
  simp only [Bool.false_eq_true, if_false]
  by_cases h7 : step = 7
  · subst h7
    have hlost : (fails.filter fun f => decide (f.step = 7 ∧ f.unit = unit ∧ 0 < f.count)) = [] :=
      List.filter_eq_nil_iff.mpr fun f hm => by
        have hne := hf f hm
        simp only [ne_eq, Prod.mk.injEq, not_and] at hne
        simp only [decide_eq_true_eq, not_and]
        exact fun h h' => absurd h' (hne h)
    simp only [if_true, BootRun.lanes, hlost, List.filter_nil, List.map_nil, List.foldl_nil, List.isEmpty_nil]
    rfl
  · by_cases h1 : step = 1
    · subst h1
      obtain rfl : unit = 0 := hsu rfl
      simp only [Nat.reduceEqDiff, if_false, if_true]
      rfl
    · simp only [h7, h1, if_false, List.find?_nil, Option.map_none, Option.getD_none, hnone, Nat.add_zero, Nat.lt_irrefl,
        Nat.not_lt_zero, and_false, or_self, Nat.zero_min, if_true, decide_false]
      rfl

/-- Steps without a failure all pass, and change the journal alone. -/
theorem BootRun.foldl_spared {fails : List BootFail} (count : Nat) {sus : List (Nat × Nat)} (hsu : ∀ su ∈ sus, OneSupervisor su)
    (hf : ∀ su ∈ sus, Spared fails su) {b : BootRun} (hb : b.stopped = false) :
    sus.foldl (BootRun.step [] count false fails) b =
      { b with journal := sus.foldl (fun j su => journalPut (passed count su) j) b.journal } := by
  induction sus generalizing b with
  | nil => rfl
  | cons su sus ih =>
    rw [List.foldl_cons, BootRun.step_spared count hb (hsu su (by simp)) (hf su (by simp))]
    exact ih (fun q hq => hsu q (by simp [hq])) (fun q hq => hf q (by simp [hq])) hb

/-- A boot that has stopped stays so (R415). -/
theorem BootRun.foldl_stopped {fails : List BootFail} (count : Nat) (sus : List (Nat × Nat)) {b : BootRun} (hb : b.stopped = true) :
    sus.foldl (BootRun.step [] count false fails) b = b := by
  induction sus with
  | nil => rfl
  | cons su sus ih => rwa [List.foldl_cons, show b.step [] count false fails su = b by simp [BootRun.step, hb]]

/-- Steps that are new to the journal are entered in their order. -/
theorem journal_of_passed (count : Nat) {sus : List (Nat × Nat)} (hn : sus.Nodup) {j : List JEntry} (hj : ∀ su ∈ sus, Fresh su j) :
    sus.foldl (fun j su => journalPut (passed count su) j) j = j ++ sus.map (passed count) := by
  induction sus generalizing j with
  | nil => simp
  | cons su sus ih =>
    obtain ⟨hnot, hn⟩ := List.nodup_cons.mp hn
    rw [List.foldl_cons, journalPut_fresh (hj su (by simp)), ih hn fun q hq e he => ?_]
    · simp
    · rcases List.mem_append.mp he with he | he
      · exact hj q (by simp [hq]) e he
      · rw [List.mem_singleton.mp he]
        rintro rfl
        exact hnot hq

/-- An entry outlasts the steps of other units. -/
theorem mem_journal_of_passed (count : Nat) {e : JEntry} {sus : List (Nat × Nat)} (hsus : (e.step, e.unit) ∉ sus) {j : List JEntry}
    (hj : e ∈ j) : e ∈ sus.foldl (fun j su => journalPut (passed count su) j) j := by
  induction sus generalizing j with
  | nil => exact hj
  | cons su sus ih =>
    exact ih (List.not_mem_of_not_mem_cons hsus) (mem_journalPut_of_ne hj (List.ne_of_not_mem_cons hsus))

-- the units of boot

theorem bootUnits_nodup : bootUnits.Nodup := by decide +kernel

theorem bootUnits_oneSupervisor : ∀ su ∈ bootUnits, OneSupervisor su := by unfold OneSupervisor; decide +kernel

/-- Every unit has its turn once. -/
theorem bootUnits_split {su : Nat × Nat} (h : su ∈ bootUnits) : ∃ before after, bootUnits = before ++ su :: after ∧ su ∉ before ∧ su ∉ after := by
  obtain ⟨before, after, hsplit⟩ := List.append_of_mem h
  have hn := bootUnits_nodup
  rw [hsplit, List.nodup_append] at hn
  obtain ⟨-, htail, hapart⟩ := hn
  exact ⟨before, after, hsplit, fun hin => hapart su hin su (by simp) rfl, (List.nodup_cons.mp htail).1⟩

/-- Boot with no loss in the journal, up to its end (R415). -/
def freshBoot (count : Nat) (fails : List BootFail) : BootRun :=
  bootUnits.foldl (BootRun.step [] count false fails) ⟨Units.full, [], false⟩

theorem freshBoot_clean (count : Nat) : freshBoot count [] = ⟨Units.full, bootUnits.map (passed count), false⟩ := by
  unfold freshBoot
  rw [BootRun.foldl_spared count bootUnits_oneSupervisor (fun _ _ _ hf => absurd hf List.not_mem_nil) rfl,
    journal_of_passed count bootUnits_nodup fun _ _ _ he => absurd he List.not_mem_nil]
  rfl

/-- A boot with one failing unit: those before it pass, and those after it do unless it stops (R415). -/
theorem freshBoot_failing {count : Nat} {f : BootFail} (hin : (f.step, f.unit) ∈ bootUnits) {units : Units} {e : JEntry} {stops : Bool}
    (he : (e.step, e.unit) = (f.step, f.unit))
    (hstep : ∀ j, BootRun.step [] count false [f] ⟨Units.full, j, false⟩ (f.step, f.unit) = ⟨units, journalPut e j, stops⟩) :
    ∃ j, freshBoot count [f] = ⟨units, j, stops⟩ ∧ e ∈ j := by
  obtain ⟨before, after, hsplit, hbefore, hafter⟩ := bootUnits_split hin
  have hone := bootUnits_oneSupervisor
  rw [hsplit] at hone
  have hspared {sus : List (Nat × Nat)} (hnot : (f.step, f.unit) ∉ sus) : ∀ su ∈ sus, Spared [f] su := by
    intro su hsu g hg hsame
    rw [List.mem_singleton.mp hg] at hsame
    exact hnot (hsame ▸ hsu)
  unfold freshBoot
  rw [hsplit, List.foldl_append, List.foldl_cons,
    BootRun.foldl_spared count (fun su hsu => hone su (by simp [hsu])) (hspared hbefore) rfl, hstep]
  cases stops with
  | true => exact ⟨_, BootRun.foldl_stopped count after rfl, mem_journalPut_self _ _⟩
  | false =>
    rw [BootRun.foldl_spared count (fun su hsu => hone su (by simp [hsu])) (hspared hafter) rfl]
    exact ⟨_, rfl, mem_journal_of_passed count (he ▸ hafter) (mem_journalPut_self _ _)⟩

/-- A core that fails once is excluded, core 0 excepted (R415). -/
theorem freshBoot_core (count : Nat) {core : Nat} (h0 : 0 < core) (h32 : core < 32) (d : Nat) :
    ∃ j, freshBoot count [⟨2, core, 1, d⟩] = ⟨{ Units.full with coresOut := [core] }, j, false⟩ ∧ ⟨2, core, 2, 1, count, d⟩ ∈ j := by
  refine freshBoot_failing ?_ rfl fun j => ?_
  · simp [bootUnits, h32]
  · have hne : core ≠ 0 := Nat.ne_of_gt h0
    simp [BootRun.step, bootAlts, hne, Units.withAlt, Units.full]

/-- A fabric link that fails in its last form stops boot (R415). -/
theorem freshBoot_link (count : Nat) {link : Nat} (h4 : link < 4) (d : Nat) :
    ∃ u j, freshBoot count [⟨4, link, 2, d⟩] = ⟨u, j, true⟩ ∧ ⟨4, link, 1, 1, count, d⟩ ∈ j := by
  refine ⟨Units.full.withAlt 4 link 1, freshBoot_failing ?_ rfl fun j => ?_⟩
  · simp [bootUnits, h4]
  · simp [BootRun.step, bootAlts]

-- what boot leaves

/-- How boot runs from the journal that it finds (R416). -/
def State.bootRun (s : State) (fails : List BootFail) : BootRun :=
  let old := if s.svc.clearJournal then [] else s.svc.journal
  bootUnits.foldl (BootRun.step old (s.svc.bootCount + 1) (old.any fun e => e.step == 1 && e.outcome == 1 && e.boot == s.svc.bootCount) fails)
    ⟨Units.full, old, false⟩

theorem State.bootRun_fresh {s : State} (h : s.svc.journal = [] ∨ s.svc.clearJournal = true) (fails : List BootFail) :
    s.bootRun fails = freshBoot (s.svc.bootCount + 1) fails := by
  have hold : (if s.svc.clearJournal then [] else s.svc.journal) = [] := by
    rcases h with h | h
    · rw [h]; exact ite_self []
    · rw [if_pos h]
  unfold State.bootRun
  dsimp only
  rw [hold]
  rfl

/-- A module without power has it again, with the run's units, and else what outlasts the loss of power (R74, R415, R416). -/
structure Booted (s : State) (b : BootRun) (t : State) : Prop where
  power : t.svc.power = .run
  count : t.svc.bootCount = s.svc.bootCount + 1
  clear : t.svc.clearJournal = false
  stopped : t.svc.bootStopped = b.stopped
  journal : t.svc.journal = b.journal
  units : t.svc.units = { b.units with bootCoresOut := b.units.coresOut, largest := t.svc.units.largest }
  keys : t.lu.keys = s.lu.keys
  bootKeys : t.lu.bootKeys = s.lu.keys
  launches : t.lu.launches = []
  rmin0 : t.lu.rmin0 = 16 * (t.svc.units.numSlots - t.svc.units.numFloor)
  rmin1 : t.lu.rmin1 = 8 * (t.svc.units.numSlots - t.svc.units.numFloor)
  hart : t.hart = State.reset.hart
  parked : t.parked = State.reset.parked

theorem exec_boot {s : State} (h : ¬ Powered s) (fails : List BootFail) :
    ∃ t, exec (.boot fails) s = .next t ∧ Booted s (s.bootRun fails) t := by
  have hoff : s.svc.power = .off := not_not.mp h
  show ∃ t, execBoot fails s = .next t ∧ _
  unfold execBoot State.bootRun
  rw [if_neg (not_not.mpr hoff)]
  dsimp only
  generalize bootUnits.foldl _ _ = b
  exact ⟨_, rfl, ⟨rfl, rfl, rfl, rfl, rfl, rfl, rfl, rfl, rfl, rfl, rfl, rfl, rfl⟩⟩

end Sys2Proof.Machine
end

section
namespace Sys2Proof.Machine

open Claims

/-! The link service routine (R409, R416, R417). -/

-- what the routine changes by itself

theorem onlyService_trans {s t u : State} (a : OnlyService s t) (b : OnlyService t u) : OnlyService s u := by
  obtain ⟨ht, hp⟩ := a
  obtain ⟨hu, hq⟩ := b
  exact ⟨by rw [hu, ht], hq.trans hp⟩

theorem onlyService_of_svc {s t : State} (h : t = { s with svc := t.svc }) : OnlyService s t := by
  refine ⟨?_, ?_⟩ <;> rw [h]

/-- A hart's account moves. -/
theorem State.onlyService_updHart (s : State) (hid : Nat) (f : Hart → Nat) :
    OnlyService s (s.updHart hid fun h => { h with since := f h }) := by
  refine ⟨?_, ?_⟩
  · unfold State.updHart
    dsimp only
    split <;> rfl
  · show (s.parked.map fun h => if h.hid = hid then { h with since := f h } else h).map _ = _
    rw [List.map_map]
    refine List.map_congr_left fun h _ => ?_
    rw [Function.comp_apply]
    split <;> rfl

/-- The accounts of some harts move, each by what the state before says. -/
theorem State.onlyService_foldl_updHart (f : Nat × Hart → State → Hart → Nat) (l : List (Nat × Hart)) (s : State) :
    let t := l.foldl (fun s p => s.updHart p.2.hid fun h => { h with since := f p s h }) s
    OnlyService s t ∧ t.svc = s.svc := by
  induction l generalizing s with
  | nil => exact ⟨onlyService_of_svc rfl, rfl⟩
  | cons p l ih =>
    obtain ⟨ho, hs⟩ := ih (s.updHart p.2.hid fun h => { h with since := f p s h })
    exact ⟨onlyService_trans (s.onlyService_updHart p.2.hid (f p s)) ho, hs⟩

/-- Clocks that are not charged move accounts alone (R409). -/
theorem State.onlyService_uncharge (s : State) (bound : Nat) : OnlyService s (s.uncharge bound) ∧ (s.uncharge bound).svc = s.svc := by
  unfold State.uncharge
  dsimp only
  generalize s.placed.filter _ = hs
  obtain ⟨ho, hsvc⟩ := State.onlyService_foldl_updHart
    (fun p s h => min s.clock (h.since + Config.uncharged (s.draw + p.1) % (bound + 1))) ((List.range hs.length).zip hs) s
  exact ⟨onlyService_trans ho ⟨rfl, rfl⟩, hsvc⟩

theorem State.mem_logEvent (s : State) (kind place detail : Nat) : ⟨kind, s.clock, place, detail⟩ ∈ (s.logEvent kind place detail).svc.log := by
  show _ ∈ if 65536 < (s.svc.log ++ [_]).length then (s.svc.log ++ [_]).tail else s.svc.log ++ [_]
  split
  · rename_i hlong
    cases hlog : s.svc.log with
    | nil => simp [hlog] at hlong
    | cons e es => simp
  · simp

/-- The routine up to the ends of launches: the clocks, the link's record, the log and the journal (R409, R416, R417, R420). -/
def State.linkServed (s : State) (link now : Nat) : State :=
  ((((s.uncharge 380000).updUnits fun u => { u with links := u.links.setIfInBounds link now, seqLinks := u.seqLinks + 2 }).logEvent 8
    link now).journal ⟨if link < 4 then 4 else 5, link, if now = 0 then 0 else if now = 3 then 1 else 2, if now = 3 then 1 else now,
      s.svc.bootCount, 0⟩)

/-- Delivery failures of some launches in their order (R409). -/
def State.failAll (lids : List Nat) (cause : Nat) (s : State) : State := lids.foldl (fun s lid => s.deliveryFail lid cause) s

/-- A link is served with an outcome that it can have; of the outcome and the alternative that it has, the higher stands (R409, R416). -/
theorem exec_linkService {link outcome now : Nat} {s : State} (hp : Powered s)
    (hfits : link < 4 ∧ (outcome = 0 ∨ outcome = 1 ∨ outcome = 3) ∨ 4 ≤ link ∧ link < 10 ∧ outcome < 3)
    (hnow : now = max outcome ((s.svc.units.links[link]?).getD 0)) :
    exec (.linkService link outcome) s = .next (if now = 3 then
      State.failAll ((s.linkServed link now).live.map (·.lid)) 5 (s.linkServed link now) else s.linkServed link now) := by
  subst hnow
  have hguard : ¬ (s.svc.power = .off ∨ ¬ if link < 4 then outcome = 0 ∨ outcome = 1 ∨ outcome = 3 else link < 10 ∧ outcome < 3) := by
    refine not_or.mpr ⟨hp, not_not.mpr ?_⟩
    split <;> omega
  have hcount : (s.uncharge 380000).svc.bootCount = s.svc.bootCount := by rw [(s.onlyService_uncharge 380000).2]
  show execLinkService link outcome s = _
  unfold execLinkService State.linkServed
  dsimp only
  rw [if_neg hguard, ← hcount]
  rfl

section
variable (s : State) (link now : Nat)

theorem State.onlyService_linkServed : OnlyService s (s.linkServed link now) := by
  refine onlyService_trans (s.onlyService_uncharge 380000).1 ?_
  unfold State.linkServed
  generalize s.uncharge 380000 = u
  exact onlyService_of_svc rfl

theorem State.linkServed_links : (s.linkServed link now).svc.units.links = s.svc.units.links.setIfInBounds link now := by
  show (s.uncharge 380000).svc.units.links.setIfInBounds link now = _
  rw [(s.onlyService_uncharge 380000).2]

theorem State.linkServed_seqLinks : (s.linkServed link now).svc.units.seqLinks = s.svc.units.seqLinks + 2 := by
  show (s.uncharge 380000).svc.units.seqLinks + 2 = _
  rw [(s.onlyService_uncharge 380000).2]

theorem State.mem_linkServed_log : ⟨8, s.clock, link, now⟩ ∈ (s.linkServed link now).svc.log := by
  obtain ⟨u, e, hu, hclock⟩ : ∃ (u : State) (e : JEntry), s.linkServed link now = (u.logEvent 8 link now).journal e ∧ u.clock = (s.uncharge 380000).clock :=
    ⟨_, _, rfl, rfl⟩
  have hsame : (s.uncharge 380000).clock = s.clock := by rw [(s.onlyService_uncharge 380000).1.1]
  rw [hu, ← hsame, ← hclock]
  exact State.mem_logEvent u 8 link now

theorem State.linkServed_lu : (s.linkServed link now).lu = s.lu := by rw [(s.onlyService_linkServed link now).1]

end

-- the ends of launches with a failed fabric link (R409)

/-- The id's launch has ended, or is to end as a delivery failure when its turn comes. -/
def State.Falls (s : State) (lid : Nat) : Prop :=
  s.Records lid (fun l => isFinal l.state = true) ∨
    ∃ l, s.launch? lid = some l ∧ isFinal l.state = false ∧ l.ending ≠ some 13

/-- A queued launch may be settled as PREFAIL, or become ready (R41). -/
theorem State.Falls.settleOne {s : State} {lid : Nat} (h : s.Falls lid) (id : Nat) : (s.settleOne id).Falls lid := by
  rcases h with h | ⟨l, hl, hf, he⟩
  · exact .inl (h.settleOne (fun l hl h0 => by simp [h0, isFinal] at hl) id)
  · by_cases hid : id = lid
    · subst hid
      have hlid : l.lid = id := State.launch?_lid hl
      have hown {f : Launch → Launch} (hkeep : ∀ m : Launch, m.lid = id → (f m).lid = id) : (s.updLaunch id f).launch? id = some (f l) := by
        rw [State.launch?_updLaunch_own hkeep, hl]
        simp [hlid]
      unfold State.settleOne
      rw [hl]
      dsimp only
      split
      · exact .inr ⟨l, hl, hf, he⟩
      · split
        · exact .inl (State.Records.toFinal (P := fun _ => True) (fun _ _ _ => trivial) fun _ _ _ _ => rfl)
        · split
          · exact .inr ⟨_, hown (f := fun _ => { s.markPre l with state := 1, tmet := some s.clock }) fun _ _ => hlid, rfl, he⟩
          · exact .inr ⟨_, hown (f := fun _ => s.markPre l) fun _ _ => hlid, hf, he⟩
    · exact .inr ⟨l, State.launch?_settleOne_other hl hf hid, hf, he⟩

theorem State.Falls.deliveryFail_other {s : State} {lid id : Nat} (h : s.Falls lid) (hne : id ≠ lid) (cause : Nat) :
    (s.deliveryFail id cause).Falls lid := by
  rcases h with h | ⟨l, hl, hf, he⟩
  · exact .inl (h.deliveryFail (fun _ hl => hl) (fun _ _ hl => hl) id cause)
  · rcases s.deliveryFail_cases id cause with hd | ⟨-, hd⟩
    · rw [hd]
      exact .inr ⟨l, hl, hf, he⟩
    · obtain ⟨f, hmoved⟩ := s.failing_launch?_other hne cause
      rw [hl] at hmoved
      rw [hd]
      exact State.settle_keeps (I := fun t => t.Falls lid) (fun t q ht => ht.settleOne q) _
        (.inr ⟨_, State.launch?_toFinal_other hmoved hf hne 13, hf, he⟩)

/-- When its turn comes, it ends. -/
theorem State.Falls.deliveryFail_self {s : State} {lid : Nat} (h : s.Falls lid) (cause : Nat) :
    (s.deliveryFail lid cause).Records lid fun l => isFinal l.state = true := by
  rcases h with h | ⟨l, hl, hf, he⟩
  · exact h.deliveryFail (fun _ hl => hl) (fun _ _ hl => hl) lid cause
  · intro m hm hid
    rw [(State.undelivered_deliveryFail hl hf he cause m hm hid).1]
    rfl

theorem State.failAll_frame (lids : List Nat) (cause : Nat) (s : State) :
    (State.failAll lids cause s).mem = s.mem ∧ s.SameUnits (State.failAll lids cause s) := by
  induction lids generalizing s with
  | nil => exact ⟨rfl, .refl s⟩
  | cons lid lids ih =>
    obtain ⟨hm, hu⟩ := ih (s.deliveryFail lid cause)
    exact ⟨hm.trans (s.deliveryFail_mem lid cause), (s.sameUnits_deliveryFail lid cause).trans hu⟩

theorem State.Falls.failAll {s : State} {lid : Nat} (h : s.Falls lid) {lids : List Nat} (hin : lid ∈ lids) (cause : Nat) :
    (State.failAll lids cause s).Records lid fun l => isFinal l.state = true := by
  induction lids generalizing s with
  | nil => cases hin
  | cons id lids ih =>
    by_cases hid : id = lid
    · subst hid
      exact List.foldlRecOn (motive := fun t : State => t.Records id fun l => isFinal l.state = true) lids _
        (h.deliveryFail_self cause) fun t ht a _ => ht.deliveryFail (fun _ hl => hl) (fun _ _ hl => hl) a cause
    · exact ih (h.deliveryFail_other hid cause) ((List.mem_cons.mp hin).resolve_left (Ne.symm hid))

-- the claims

/-- The clauses on BOOT (R74, R415, R416). -/
theorem bootRunsItsSteps (fails : List BootFail) {s : State} (h : ¬ Powered s) :
    ∃ t, exec (.boot fails) s = .next t ∧ t.svc.power = .run ∧ t.svc.bootCount = s.svc.bootCount + 1 ∧
      t.svc.clearJournal = false ∧ t.lu.keys = s.lu.keys ∧ t.lu.launches = [] ∧ t.hart = State.reset.hart ∧
      t.parked = State.reset.parked ∧ t.lu.bootKeys = s.lu.keys ∧
      t.lu.rmin0 = 16 * (t.svc.units.numSlots - t.svc.units.numFloor) ∧
      t.lu.rmin1 = 8 * (t.svc.units.numSlots - t.svc.units.numFloor) ∧
      (s.svc.journal = [] ∨ s.svc.clearJournal = true →
        let e (step unit outcome alt d : Nat) : JEntry := ⟨step, unit, outcome, alt, s.svc.bootCount + 1, d⟩
        (fails = [] → t.svc.bootStopped = false ∧ t.svc.units = { Units.full with largest := t.svc.units.largest } ∧
          t.svc.journal = bootUnits.map fun u => e u.1 u.2 0 0 0) ∧
        (∀ core d, fails = [⟨2, core, 1, d⟩] → 0 < core → core < 32 → t.svc.bootStopped = false ∧
          t.svc.units.coresOut = [core] ∧ e 2 core 2 1 d ∈ t.svc.journal) ∧
        (∀ link d, fails = [⟨4, link, 2, d⟩] → link < 4 → t.svc.bootStopped = true ∧
          e 4 link 1 1 d ∈ t.svc.journal)) := by
  obtain ⟨t, ht, hb⟩ := exec_boot h fails
  refine ⟨t, ht, hb.power, hb.count, hb.clear, hb.keys, hb.launches, hb.hart, hb.parked, hb.bootKeys, hb.rmin0, hb.rmin1, fun hfresh => ?_⟩
  obtain ⟨hstopped, hjournal, hunits⟩ : _ ∧ _ ∧ _ := ⟨hb.stopped, hb.journal, hb.units⟩
  rw [State.bootRun_fresh hfresh] at hstopped hjournal hunits
  refine ⟨?_, ?_, ?_⟩
  · rintro rfl
    rw [freshBoot_clean] at hstopped hjournal hunits
    exact ⟨hstopped, hunits, hjournal⟩
  · rintro core d rfl h0 h32
    obtain ⟨j, hj, hin⟩ := freshBoot_core (s.svc.bootCount + 1) h0 h32 d
    rw [hj] at hstopped hjournal hunits
    exact ⟨hstopped, by rw [hunits], hjournal ▸ hin⟩
  · rintro link d rfl h4
    obtain ⟨u, j, hj, hin⟩ := freshBoot_link (s.svc.bootCount + 1) h4 d
    rw [hj] at hstopped hjournal
    exact ⟨hstopped, hjournal ▸ hin⟩

/-- The clauses on LINK_SERVICE (R409, R416, R417). -/
theorem linkServiceRecordsItsOutcome {link outcome : Nat} {s : State} (hp : Powered s)
    (hfits : link < 4 ∧ (outcome = 0 ∨ outcome = 1 ∨ outcome = 3) ∨ 4 ≤ link ∧ link < 10 ∧ outcome < 3) :
    let now := max outcome ((s.svc.units.links[link]?).getD 0)
    ∃ t, exec (.linkService link outcome) s = .next t ∧ t.svc.units.links[link]? = some now ∧
      (∀ m, m ≠ link → t.svc.units.links[m]? = s.svc.units.links[m]?) ∧
      t.svc.units.seqLinks = s.svc.units.seqLinks + 2 ∧ t.mem = s.mem ∧
      (now ≠ 3 → OnlyService s t ∧ ⟨8, s.clock, link, now⟩ ∈ t.svc.log) ∧
      (now = 3 → ∀ lid l, IsLaunch s lid l → isFinal l.state = false → l.ending ≠ some 13 →
        ∀ m, t.launch? lid = some m → isFinal m.state = true) := by
  intro now
  have hx := exec_linkService hp hfits (now := now) rfl
  clear_value now
  have hserved := s.onlyService_linkServed link now
  have hlu := s.linkServed_lu link now
  have hmem : (s.linkServed link now).mem = s.mem := by rw [hserved.1]
  have hlink : (s.svc.units.links.setIfInBounds link now)[link]? = some now := by
    have h10 : link < 10 := by omega
    simp [h10]
  have hother (m : Nat) (hm : m ≠ link) : (s.svc.units.links.setIfInBounds link now)[m]? = s.svc.units.links[m]? := by
    simp [hm.symm]
  have hseq := s.linkServed_seqLinks link now
  have hlog := s.mem_linkServed_log link now
  rw [← s.linkServed_links link now] at hlink hother
  generalize s.linkServed link now = u at *
  by_cases hnow : now = 3
  · rw [if_pos hnow] at hx
    obtain ⟨hm, g, q, hunits⟩ := State.failAll_frame (u.live.map (·.lid)) 5 u
    refine ⟨State.failAll (u.live.map (·.lid)) 5 u, hx, ?_, ?_, ?_, hm.trans hmem, fun h => absurd hnow h, fun _ lid l hl hf he m hm => ?_⟩
    · rw [hunits]; exact hlink
    · rw [hunits]; exact hother
    · rw [hunits]; exact hseq
    · have hl : u.launch? lid = some l := by unfold State.launch?; rw [hlu]; exact hl
      have hin : lid ∈ u.live.map (·.lid) :=
        List.mem_map.mpr ⟨l, List.mem_filter.mpr ⟨State.launch?_mem hl, by simp [hf]⟩, State.launch?_lid hl⟩
      exact (State.Falls.failAll (.inr ⟨l, hl, hf, he⟩) hin 5).of_launch? hm
  · rw [if_neg hnow] at hx
    exact ⟨u, hx, hlink, hother, hseq, hmem, fun _ => ⟨hserved, hlog⟩, fun h => absurd h hnow⟩

/-- Settles O48: each unit of boot has its turn once and enters the journal in its order; a link's record takes the higher outcome, and
a launch that a failed fabric link reaches ends when its turn comes, or before. -/
theorem bootAndLinkServiceComplete : Obligations.BootAndLinkServiceComplete :=
  ⟨fun _ _ hp => if_pos hp, fun fails _ h => bootRunsItsSteps fails h, fun _ _ _ hp hfits => linkServiceRecordsItsOutcome hp hfits⟩

end Sys2Proof.Machine
end

section
namespace Sys2Proof.Machine

open Claims

/-! Fetch, dispatch and commit (R82, R116, R127, R133, R138, R144, R145, R254, R405). -/

-- fetch units (R127)

/-- A fetch unit serves this hart before that one: fewer buffered words, or as many and a lower slot. -/
def ServedBefore (h g : Hart) : Prop := h.fbuf < g.fbuf ∨ h.fbuf = g.fbuf ∧ h.hid < g.hid

/-- Of two harts the one that is served first. -/
def servedFirst (a b : Hart) : Hart := if b.fbuf < a.fbuf || (b.fbuf == a.fbuf && b.hid < a.hid) then b else a

theorem servedFirst_of_before {a b : Hart} (h : ServedBefore b a) : servedFirst a b = b := by
  unfold servedFirst
  rw [if_pos]
  simpa [ServedBefore] using h

theorem servedFirst_of_not {a b : Hart} (h : b = a ∨ ServedBefore a b) : servedFirst a b = a := by
  unfold servedFirst
  split
  · rename_i hb
    rcases h with rfl | h
    · rfl
    · simp only [ServedBefore, Bool.or_eq_true, Bool.and_eq_true, beq_iff_eq, decide_eq_true_eq] at h hb
      omega
  · rfl

theorem servedFirst_mem (a b : Hart) : servedFirst a b = a ∨ servedFirst a b = b := by
  unfold servedFirst
  split
  · exact .inr rfl
  · exact .inl rfl

/-- The hart that is served before all others of a list. -/
theorem foldl_servedFirst {h a : Hart} {hs : List Hart} (hin : h ∈ a :: hs) (hall : ∀ g ∈ a :: hs, g ≠ h → ServedBefore h g) :
    hs.foldl servedFirst a = h := by
  induction hs generalizing a with
  | nil => exact (List.mem_singleton.mp hin).symm
  | cons b hs ih =>
    have hpair : servedFirst a b ∈ a :: b :: hs := by
      rcases servedFirst_mem a b with hab | hab <;> simp [hab]
    refine ih ?_ fun g hg hne => ?_
    · by_cases ha : a = h
      · subst ha
        rw [servedFirst_of_not ((eq_or_ne b a).imp_right fun hne => hall b (by simp) hne)]
        simp
      · by_cases hb : b = h
        · subst hb
          rw [servedFirst_of_before (hall a (by simp) ha)]
          simp
        · simp only [List.mem_cons, Ne.symm ha, Ne.symm hb, false_or] at hin
          simp [hin]
    · rcases List.mem_cons.mp hg with rfl | hg
      · exact hall _ hpair hne
      · exact hall g (by simp [hg]) hne

/-- Harts that can take a block of a fetch unit for a partition. -/
def State.blockTakers (s : State) (core part : Nat) : List Hart :=
  s.placed.filter fun h => h.inPart core part && h.run != .swap && h.fbuf + h.blockWords ≤ 16

theorem State.mem_blockTakers {s : State} {core part : Nat} {h : Hart} :
    h ∈ s.blockTakers core part ↔ h ∈ s.placed ∧ TakesBlock h core part := by
  unfold State.blockTakers Hart.inPart
  simp only [List.mem_filter, Bool.and_eq_true, bne_iff_ne, beq_iff_eq, decide_eq_true_eq, and_assoc]
  rfl

/-- What a fetch unit does for the harts that can take a block (R127). -/
theorem State.fetchBlock_eq (s : State) (core part : Nat) :
    s.fetchBlock core part =
      let t : State := { s with fetchTurn := s.fetchTurn.setIfInBounds core ((part + 1) % 4) }
      match s.blockTakers core part with
      | [] => t
      | h :: hs => t.updHart (hs.foldl servedFirst h).hid fun h => { h with fbuf := h.fbuf + h.blockWords } := rfl

theorem fetchUnitsServeTheEmptiest (core part : Nat) (s : State) (hc : core < 32) (hpt : part < 4) (hp : Powered s)
    (hturn : s.fetchTurn[core]? = some part) :
    let t0 : State := { s with fetchTurn := s.fetchTurn.setIfInBounds core ((part + 1) % 4) }
    (∀ h ∈ s.placed, TakesBlock h core part →
      (∀ g ∈ s.placed, TakesBlock g core part → g ≠ h → h.fbuf < g.fbuf ∨ h.fbuf = g.fbuf ∧ h.hid < g.hid) →
      exec (.instructionFetch core part) s =
        .next (t0.updHart h.hid fun g => { g with fbuf := g.fbuf + nextBlock g })) ∧
    ((∀ h ∈ s.placed, ¬ TakesBlock h core part) → exec (.instructionFetch core part) s = .next t0) := by
  have hx : exec (.instructionFetch core part) s = .next (s.fetchBlock core part) := by
    show execInstructionFetch core part s = _
    unfold execInstructionFetch
    simp [Nat.not_le.mpr hc, Nat.not_le.mpr hpt, show s.svc.power ≠ .off from hp, hturn]
  rw [hx, s.fetchBlock_eq core part]
  dsimp only
  refine ⟨fun h hh htakes hleast => ?_, fun hnone => ?_⟩
  · have hin : h ∈ s.blockTakers core part := State.mem_blockTakers.mpr ⟨hh, htakes⟩
    have hall : ∀ g ∈ s.blockTakers core part, g ≠ h → ServedBefore h g := fun g hg hne =>
      hleast g (State.mem_blockTakers.mp hg).1 (State.mem_blockTakers.mp hg).2 hne
    cases htakers : s.blockTakers core part with
    | nil => simp [htakers] at hin
    | cons a hs =>
      rw [htakers] at hin hall
      dsimp only
      rw [foldl_servedFirst hin hall]
      rfl
  · have hnil : s.blockTakers core part = [] :=
      List.eq_nil_iff_forall_not_mem.mpr fun h hh => hnone h (State.mem_blockTakers.mp hh).1 (State.mem_blockTakers.mp hh).2
    rw [hnil]

-- queues (R138, R255)

theorem queueHeadsGoNext (s : State) (w : BitVec 32) (hw : s.wordNext s.hart = some w) (hq : queued (wordMajor w) = true) :
    (¬ MayIssue s s.hart → exec (.vectorQueueDispatch s.hart.hid) s = .next s) ∧
    (MayIssue s s.hart → slotClass (wordMajor w) = 2 → s.hart.unacked = [] →
      exec (.vectorQueueDispatch s.hart.hid) s = .next { s with picked := s.hart.hid :: s.picked.filter (· ≠ s.hart.hid) }) ∧
    (MayIssue s s.hart → slotClass (wordMajor w) = 1 →
      exec (.vectorQueueDispatch s.hart.hid) s = .next { s with picked := s.hart.hid :: s.picked.filter (· ≠ s.hart.hid) }) ∧
    (slotClass (wordMajor w) = 2 → s.hart.unacked ≠ [] → exec (.vectorQueueDispatch s.hart.hid) s = .next s) := by
  have hx : exec (.vectorQueueDispatch s.hart.hid) s =
      if !s.able s.hart || (slotClass (wordMajor w) == 2 && !s.hart.unacked.isEmpty) then .next s
      else .next { s with picked := s.hart.hid :: s.picked.filter (· ≠ s.hart.hid) } := by
    have hne : (fun n => n != s.hart.hid) = fun n => decide (n ≠ s.hart.hid) := by
      funext n
      exact Bool.eq_iff_iff.mpr (by simp)
    show execVectorQueueDispatch s.hart.hid s = _
    unfold execVectorQueueDispatch
    simp only [State.hart?_self, hw, hq, Bool.not_true, Bool.or_false, hne]
  rw [hx]
  refine ⟨fun hi => ?_, fun hi hc hu => ?_, fun hi hc => ?_, fun hc hu => ?_⟩
  · rw [if_pos]
    rw [← State.able_iff, Bool.not_eq_true] at hi
    simp [hi]
  · rw [if_neg]
    simp [(State.able_iff _ _).mpr hi, hu]
  · rw [if_neg]
    simp [(State.able_iff _ _).mpr hi, hc]
  · rw [if_pos]
    simp [hc, hu]

-- uncorrectable data (R405)

theorem exec_granuleCommit_marks {r : GaugeReport} (s : State) (hr : OtherLoss r) (hc : ∀ core, r ≠ .badCore core) :
    exec (.granuleCommit s.hart.hid r) s = .next (s.markBad s.hart.hid r) := by
  show execGranuleCommit s.hart.hid r s = _
  unfold execGranuleCommit
  rw [State.hart?_self]
  rcases hr with ⟨f, g, x, rfl⟩ | ⟨c, l, w, rfl⟩ | ⟨l, rfl⟩ | ⟨c, rfl⟩ | ⟨g, v, b, rfl⟩
  · rfl
  · rfl
  · rfl
  · exact absurd rfl (hc c)
  · rfl

theorem badRegistersAreMarked (f g x : Nat) (s : State) (hn : ∀ h ∈ s.parked, h.hid ≠ s.hart.hid) :
    ∃ t, exec (.granuleCommit s.hart.hid (.badRegister f g x)) s = .next t ∧
      t = { s with hart := { s.hart with poison := t.hart.poison } } ∧
        ∀ q, q ∈ t.hart.poison ↔ q ∈ s.hart.poison ∨ q = ⟨f, g, x⟩ := by
  refine ⟨_, exec_granuleCommit_marks s (.inl ⟨f, g, x, rfl⟩) (fun _ h => nomatch h), ?_⟩
  unfold State.markBad
  dsimp only
  rw [State.updHart_self hn]
  dsimp only
  split
  · rename_i hin
    exact ⟨rfl, fun q => ⟨.inl, fun h => h.elim id fun hq => hq ▸ List.contains_iff_mem.mp hin⟩⟩
  · exact ⟨rfl, fun q => by simp⟩

theorem Coherence.bad_spoil (c : Coherence) (line l : Nat) : (c.spoil line).bad l = true ↔ c.bad l = true ∨ l = line := by
  unfold Coherence.spoil
  split
  · rename_i hbad
    exact ⟨.inl, fun h => h.elim id fun hl => hl ▸ hbad⟩
  · split
    · rename_i hrec
      show (if (c.entry? l).isSome then (c.taint ++ [line]).contains l else c.poison.contains l) = true ↔ _
      unfold Coherence.bad
      split
      · simp
      · rename_i hl
        exact ⟨.inl, fun h => h.elim id fun h => absurd (h ▸ hrec) hl⟩
    · rename_i hrec
      show (if (c.entry? l).isSome then c.taint.contains l else (c.poison ++ [line]).contains l) = true ↔ _
      unfold Coherence.bad
      split
      · rename_i hl
        exact ⟨.inl, fun h => h.elim id fun h => absurd (h ▸ hl) hrec⟩
      · simp

theorem Coherence.spoil_eq (c : Coherence) (line : Nat) :
    c.spoil line = { c with poison := (c.spoil line).poison, taint := (c.spoil line).taint } := by
  unfold Coherence.spoil
  split
  · rfl
  · split <;> rfl

theorem badLinesAreMarked (line : Nat) (s : State) :
    ∃ t, exec (.granuleCommit s.hart.hid (.badLine line)) s = .next t ∧
      t = { s with coh := { s.coh with poison := t.coh.poison, taint := t.coh.taint } } ∧
        ∀ l, t.linePoisoned l = true ↔ s.linePoisoned l = true ∨ l = line := by
  refine ⟨{ s with coh := s.coh.spoil line }, exec_granuleCommit_marks s (.inr (.inr (.inl ⟨line, rfl⟩))) (fun _ h => nomatch h),
    ?_, s.coh.bad_spoil line⟩
  rw [← s.coh.spoil_eq line]

theorem badScratchWordsAreMarked (c l word : Nat) (s : State) :
    ∃ t, exec (.granuleCommit s.hart.hid (.badScratch c l word)) s = .next t ∧
      t = { s with regions := t.regions } ∧ ∀ r, s.region? (s.regionKey c l) l = some r →
        ∃ q, t.region? (s.regionKey c l) l = some q ∧ q.cells = r.cells ∧ ∀ x, x ∈ q.bad ↔ x ∈ r.bad ∨ x = word := by
  refine ⟨_, exec_granuleCommit_marks s (.inr (.inl ⟨c, l, word, rfl⟩)) (fun _ h => nomatch h), rfl, fun r hr => ?_⟩
  have hkey := (State.region?_spec hr).2
  unfold State.markBad
  dsimp only
  rw [State.region?_updRegion _ fun q => by split <;> exact ⟨rfl, rfl⟩, hr, Option.map_some, if_pos hkey]
  refine ⟨_, rfl, ?_⟩
  split
  · rename_i hin
    exact ⟨rfl, fun x => ⟨.inl, fun h => h.elim id fun hx => hx ▸ List.contains_iff_mem.mp hin⟩⟩
  · exact ⟨rfl, fun x => by simp⟩

theorem State.handlesOf_updHandles (s : State) (lid : Nat) (f : Handles → Handles) :
    (s.updHandles lid f).handlesOf lid = f (s.handlesOf lid) := by
  unfold State.updHandles State.handlesOf
  cases hl : s.launch? lid with
  | none =>
    show (match s.launch? lid with | some l => l.handles | none => f s.lu.ownHandles) = _
    rw [hl]
  | some l =>
    dsimp only
    rw [State.launch?_updLaunch_own fun _ h => by exact h, hl, Option.map_some, if_pos (State.launch?_lid hl)]

theorem badSamplersAreMarked (g v : Nat) (counter : Bool) (s : State) :
    ∃ t, exec (.granuleCommit s.hart.hid (.badSampler g v counter)) s = .next t ∧
      t = { s with lu := t.lu } ∧ ∀ q ∈ (s.handlesOf s.hart.lid).gibbs, q.h = g → v < q.nvar →
        ∃ r ∈ (t.handlesOf s.hart.lid).gibbs, r = { q with bad := r.bad, badMarg := r.badMarg } ∧
          (counter = true → v ∈ r.badMarg ∧ r.bad = q.bad) ∧ (counter = false → v ∈ r.bad ∧ r.badMarg = q.badMarg) := by
  refine ⟨_, exec_granuleCommit_marks s (.inr (.inr (.inr (.inr ⟨g, v, counter, rfl⟩)))) (fun _ h => nomatch h), ?_⟩
  unfold State.markBad
  simp only [State.hart?_self, State.handlesOf_updHandles]
  refine ⟨?_, fun q hq hg hv => ⟨_, List.mem_map_of_mem hq, ?_⟩⟩
  · unfold State.updHandles
    split <;> rfl
  · rw [if_neg (not_or.mpr ⟨not_not.mpr hg, Nat.not_le.mpr hv⟩)]
    cases counter with
    | true => exact ⟨rfl, fun _ => ⟨by simp, rfl⟩, fun h => Bool.noConfusion h⟩
    | false => exact ⟨rfl, fun h => Bool.noConfusion h, fun _ => ⟨by simp, rfl⟩⟩

-- failing cores (R82, R86)

/-- Changes of harts touch nothing else. -/
theorem State.foldl_updHart_eq (f : Hart → Hart) (l : List Hart) (s : State) : let t := l.foldl (fun s h => s.updHart h.hid f) s
    t = { s with hart := t.hart, parked := t.parked } := by
  induction l generalizing s with
  | nil => rfl
  | cons h l ih => exact (ih (s.updHart h.hid f)).trans rfl

/-- A migration is a request, and its stops are events to come (R389). -/
theorem State.migrate_frame (s : State) (which : Hart → Bool) : (s.migrate which).mem = s.mem ∧ (s.migrate which).svc = s.svc ∧
    ∃ late, (s.migrate which).inbox = s.inbox ++ late := by
  unfold State.migrate
  dsimp only
  rw [State.foldl_updHart_eq (fun h => { h with stop := some .migrate }) _ s]
  exact ⟨rfl, rfl, _, rfl⟩

theorem State.fenceCore_eq {s : State} {core : Nat} (h0 : core ≠ 0) (hin : s.svc.units.coreIn core = true) : ∃ which : Hart → Bool,
    let t := (s.updUnits fun u => { u with coresOut := u.coresOut ++ [core] }).migrate which
    s.fenceCore core = { t with inbox := .refit :: t.inbox } := by
  unfold State.fenceCore
  rw [if_neg (by simp [h0, hin])]
  exact ⟨_, rfl⟩

theorem failingCoresAreFenced (core : Nat) (s : State) (h0 : core ≠ 0) (hin : s.svc.units.coreIn core = true) :
    ∃ t late, exec (.granuleCommit s.hart.hid (.badCore core)) s = .next t ∧ t.mem = s.mem ∧ core ∈ t.svc.units.coresOut ∧
      t.inbox = .refit :: s.inbox ++ late := by
  have hx : exec (.granuleCommit s.hart.hid (.badCore core)) s = .next (s.fenceCore core) := by
    show execGranuleCommit s.hart.hid (.badCore core) s = _
    unfold execGranuleCommit
    rw [State.hart?_self]
  obtain ⟨which, hfence⟩ := State.fenceCore_eq h0 hin
  obtain ⟨hm, hs, late, hi⟩ := (s.updUnits fun u => { u with coresOut := u.coresOut ++ [core] }).migrate_frame which
  rw [hx, hfence]
  refine ⟨_, late, rfl, hm, ?_, congrArg (Instr.refit :: ·) hi⟩
  dsimp only
  rw [hs]
  simp [State.updUnits]

-- the gauge checker (R145, R146)

theorem gaugeFindingsAreKept (r : GaugeReport) (s : State) (w : BitVec 32) (hr : ¬ OtherLoss r) (hw : s.wordNext s.hart = some w)
    (hn : ∀ h ∈ s.parked, h.hid ≠ s.hart.hid) :
    (gauged (wordMajor w) = true → ∃ t, exec (.granuleCommit s.hart.hid r) s = .next t ∧
      t = { s with hart := { s.hart with gauge := some r }, lu := t.lu, draw := s.draw + 1 } ∧
      ∀ l q, IsLaunch s s.hart.lid l → l.hs[s.hart.j]? = some q → ∃ m, IsLaunch t s.hart.lid m ∧
        m.hs[s.hart.j]? = some { q with faults := q.faults + Config.retryClocks s.draw }) ∧
    (gauged (wordMajor w) = false → exec (.granuleCommit s.hart.hid r) s = .next s) := by
  have hx : exec (.granuleCommit s.hart.hid r) s =
      .next (if gauged (wordMajor w) then (s.updHart s.hart.hid fun h => { h with gauge := some r }).countRetry s.hart else s) := by
    show execGranuleCommit s.hart.hid r s = _
    unfold execGranuleCommit
    rw [State.hart?_self]
    cases r with
    | badRegister f g x => exact absurd (.inl ⟨f, g, x, rfl⟩) hr
    | badScratch c l w => exact absurd (.inr (.inl ⟨c, l, w, rfl⟩)) hr
    | badLine l => exact absurd (.inr (.inr (.inl ⟨l, rfl⟩))) hr
    | badCore c => exact absurd (.inr (.inr (.inr (.inl ⟨c, rfl⟩)))) hr
    | badSampler g v b => exact absurd (.inr (.inr (.inr (.inr ⟨g, v, b, rfl⟩)))) hr
    | _ =>
      dsimp only
      rw [hw]
  rw [hx]
  refine ⟨fun hg => ?_, fun hg => by simp [hg]⟩
  rw [if_pos hg, State.updHart_self hn]
  refine ⟨_, rfl, rfl, fun l q hl hq => ?_⟩
  refine ⟨_, (State.launch?_updLaunch_own (fun _ h => by exact h) s.hart.lid).trans ((congrArg _ hl).trans (Option.map_some ..)), ?_⟩
  rw [if_pos (State.launch?_lid hl)]
  simp [hq]

-- acknowledgements and words that are no instruction (R116, R117, R254)

theorem storesAreAcknowledged (s : State) (hn : ∀ h ∈ s.parked, h.hid ≠ s.hart.hid) :
    ∃ t, exec (.scalarStoreAck s.hart.hid) s = .next t ∧
      t = { s with hart := { s.hart with unacked := t.hart.unacked } } ∧
        ∀ tag, tag ∈ t.hart.unacked ↔ tag ∈ s.hart.unacked ∧ ∃ q ∈ s.targets, q.tag = tag := by
  have hx : exec (.scalarStoreAck s.hart.hid) s =
      .next { s with hart := { s.hart with unacked := s.hart.unacked.filter fun t => s.targets.any fun q => q.tag == t } } :=
    congrArg Host.Outcome.next (State.updHart_self hn _)
  exact ⟨_, hx, rfl, fun tag => by simp [List.mem_filter]⟩

theorem illegalInstructionsTrap (w : BitVec 32) (s : State) :
    exec (.illegalInstruction w) s = .next (takeTrap true 1 (BitVec.ofNat 64 w.toNat) 0 s) := by
  rw [BitVec.ofNat_toNat]
  rfl

end Sys2Proof.Machine
end

section
namespace Sys2Proof.Machine

open Claims

/-! The pickers of a partition (R133, R134). -/

-- the largest AGE

/-- The largest AGE of some harts. -/
def oldestAge (hs : List Hart) : Nat := (hs.map (·.age)).foldl max 0

theorem oldestAge_spec (hs : List Hart) : oldestAge hs ∈ 0 :: hs.map (·.age) ∧ ∀ x ∈ 0 :: hs.map (·.age), x ≤ oldestAge hs :=
  List.max?_eq_some_iff.mp List.max?_cons'

theorem le_oldestAge {hs : List Hart} {h : Hart} (hh : h ∈ hs) : h.age ≤ oldestAge hs :=
  (oldestAge_spec hs).2 _ (List.mem_cons_of_mem 0 (List.mem_map_of_mem hh))

theorem exists_oldest {hs : List Hart} {h : Hart} (hh : h ∈ hs) : ∃ g ∈ hs, g.age = oldestAge hs := by
  have hle := le_oldestAge hh
  rcases List.mem_cons.mp (oldestAge_spec hs).1 with h0 | hin
  · exact ⟨h, hh, by omega⟩
  · obtain ⟨g, hg, hage⟩ := List.mem_map.mp hin
    exact ⟨g, hg, hage⟩

-- one slot's pick

/-- A slot class prefers this hart: of the harts no one is older, and of those as old none comes before it from RR on (R134). -/
def Preferred (rr : Nat) (hs : List Hart) (h : Hart) : Prop :=
  h ∈ hs ∧ ∀ g ∈ hs, g.age < h.age ∨ g.age = h.age ∧ slotsFrom rr h ≤ slotsFrom rr g

theorem slotsFrom_lt (rr : Nat) (h : Hart) : slotsFrom rr h < 4 := Nat.mod_lt _ (by decide)

theorem slotsFrom_iff {rr i : Nat} (hi : i < 4) (h : Hart) : h.hid % 4 = (rr + i) % 4 ↔ slotsFrom rr h = i := by
  unfold slotsFrom
  omega

/-- The oldest hart at the `i`-th slot from RR on. -/
def oldestAt (rr : Nat) (hs : List Hart) (i : Nat) : Option Hart :=
  hs.find? fun h => h.age == oldestAge hs && h.hid % 4 == (rr + i) % 4

theorem oldestAt_some {rr i : Nat} {hs : List Hart} {h : Hart} (hi : i < 4) (hh : oldestAt rr hs i = some h) :
    h ∈ hs ∧ h.age = oldestAge hs ∧ slotsFrom rr h = i := by
  have hp := List.find?_some hh
  simp only [Bool.and_eq_true, beq_iff_eq] at hp
  exact ⟨List.mem_of_find?_eq_some hh, hp.1, (slotsFrom_iff hi h).mp hp.2⟩

theorem oldestAt_none {rr i : Nat} {hs : List Hart} (hi : i < 4) (hh : oldestAt rr hs i = none) {g : Hart} (hg : g ∈ hs)
    (hage : g.age = oldestAge hs) : slotsFrom rr g ≠ i := by
  have hp := List.find?_eq_none.mp hh g hg
  simp only [Bool.and_eq_true, beq_iff_eq, not_and] at hp
  exact fun h => hp hage ((slotsFrom_iff hi g).mpr h)

theorem pickSlot_eq (rr : Nat) (hs : List Hart) : pickSlot rr hs = (List.range 4).findSome? (oldestAt rr hs) := rfl

/-- The first place of a range that has something. -/
theorem findSome?_range {α : Type} {f : Nat → Option α} {n : Nat} {a : α} (h : (List.range n).findSome? f = some a) :
    ∃ i, i < n ∧ f i = some a ∧ ∀ j, j < i → f j = none := by
  induction n with
  | zero => simp at h
  | succ n ih =>
    rw [List.range_succ, List.findSome?_append, Option.or_eq_some_iff] at h
    rcases h with h | ⟨hnone, h⟩
    · obtain ⟨i, hi, hrest⟩ := ih h
      exact ⟨i, Nat.lt_succ_of_lt hi, hrest⟩
    · refine ⟨n, Nat.lt_succ_self n, by simpa using h, fun j hj => ?_⟩
      exact List.findSome?_eq_none_iff.mp hnone j (List.mem_range.mpr hj)

/-- A slot picks a hart that it prefers (R134). -/
theorem preferred_of_pickSlot {rr : Nat} {hs : List Hart} {h : Hart} (hp : pickSlot rr hs = some h) : Preferred rr hs h := by
  rw [pickSlot_eq] at hp
  obtain ⟨i, hi, hh, hbefore⟩ := findSome?_range hp
  obtain ⟨hin, hage, hslot⟩ := oldestAt_some hi hh
  refine ⟨hin, fun g hg => ?_⟩
  rcases Nat.lt_or_eq_of_le (le_oldestAge hg) with hlt | heq
  · exact .inl (hage ▸ hlt)
  · refine .inr ⟨heq.trans hage.symm, ?_⟩
    rw [hslot]
    by_contra hlt
    exact oldestAt_none (slotsFrom_lt rr g) (hbefore _ (Nat.lt_of_not_le hlt)) hg heq rfl

/-- With a hart to pick, a slot picks one. -/
theorem pickSlot_isSome {rr : Nat} {hs : List Hart} {h : Hart} (hh : h ∈ hs) : ∃ g, pickSlot rr hs = some g := by
  obtain ⟨g, hg, hage⟩ := exists_oldest hh
  rw [← Option.isSome_iff_exists, ← Option.ne_none_iff_isSome, pickSlot_eq]
  intro hnone
  have hat := List.findSome?_eq_none_iff.mp hnone _ (List.mem_range.mpr (slotsFrom_lt rr g))
  exact oldestAt_none (slotsFrom_lt rr g) hat hg hage rfl

-- the three slots of a partition

theorem Hart.inPart_iff {h : Hart} {core part : Nat} : h.inPart core part = true ↔ InPartition h core part := by
  simp [Hart.inPart, InPartition]

theorem State.isReady_iff {s : State} {h : Hart} : s.isReady h = true ↔ ReadyToIssue s h := by
  simp [State.isReady, ReadyToIssue, State.able_iff]

/-- Harts from which a slot class picks. -/
def State.candidates (s : State) (core part c : Nat) : List Hart :=
  ((s.placed.filter (·.inPart core part)).filter s.isReady).filter fun h => s.classOf h == c

theorem State.mem_candidates {s : State} {core part c : Nat} {h : Hart} :
    h ∈ s.candidates core part c ↔ h ∈ s.placed ∧ InPartition h core part ∧ ReadyToIssue s h ∧ s.classOf h = c := by
  simp only [State.candidates, List.mem_filter, Hart.inPart_iff, State.isReady_iff, beq_iff_eq, and_assoc]

/-- What a slot class picks. -/
def State.pickOf (s : State) (core part c : Nat) : Option Hart := pickSlot (rrOf s core part c) (s.candidates core part c)

/-- A picker's choice is what R134 says: no two harts are on one slot. -/
theorem State.picks_iff {s : State} (hn : (s.placed.map (·.hid)).Nodup) {core part c : Nat} {h : Hart} :
    Picks s core part c h ↔ s.pickOf core part c = some h := by
  have hpref : Picks s core part c h ↔ Preferred (rrOf s core part c) (s.candidates core part c) h := by
    simp only [Picks, Preferred, State.mem_candidates, and_imp, and_assoc]
  rw [hpref]
  refine ⟨fun hp => ?_, preferred_of_pickSlot⟩
  obtain ⟨g, hg⟩ := pickSlot_isSome (rr := rrOf s core part c) hp.1
  have hq := preferred_of_pickSlot hg
  obtain ⟨hplaced, hpart, -, -⟩ := State.mem_candidates.mp hp.1
  obtain ⟨gplaced, gpart, -, -⟩ := State.mem_candidates.mp hq.1
  have hslot : slotsFrom (rrOf s core part c) h = slotsFrom (rrOf s core part c) g := by
    have hle := hp.2 g hq.1
    have hge := hq.2 h hp.1
    omega
  have hhid : h.hid = g.hid := by
    have hlow := ((slotsFrom_iff (slotsFrom_lt _ h) h).mpr rfl).trans (hslot ▸ ((slotsFrom_iff (slotsFrom_lt _ g) g).mpr rfl).symm)
    have hhigh : h.hid / 4 = g.hid / 4 := hpart.trans gpart.symm
    omega
  rw [List.inj_on_of_nodup_map hn hplaced gplaced hhid]
  exact hg

/-- The picks of a partition: slot class and slot of the hart. -/
def State.picksOf (s : State) (core part : Nat) : List (Nat × Nat) :=
  (List.range 3).filterMap fun c => (s.pickOf core part c).map fun h => (c, h.hid)

theorem State.mem_picksOf {s : State} {core part c n : Nat} :
    (c, n) ∈ s.picksOf core part ↔ c < 3 ∧ ∃ h, s.pickOf core part c = some h ∧ h.hid = n := by
  simp only [State.picksOf, List.mem_filterMap, List.mem_range, Option.map_eq_some_iff, Prod.mk.injEq]
  constructor
  · rintro ⟨c', hc, h, hh, rfl, rfl⟩
    exact ⟨hc, h, hh, rfl⟩
  · rintro ⟨hc, h, hh, rfl⟩
    exact ⟨c, hc, h, hh, rfl, rfl⟩

-- the pointers of the slots

/-- The pointers after some picks of a partition. -/
def pointersAfter (base : Nat) (picks : List (Nat × Nat)) (rr : Vector Nat 384) : Vector Nat 384 :=
  picks.foldl (fun rr p => rr.setIfInBounds (base + p.1) ((p.2 % 4 + 1) % 4)) rr

theorem pointersAfter_unpicked {base c : Nat} {picks : List (Nat × Nat)} (h : ∀ p ∈ picks, p.1 ≠ c) (rr : Vector Nat 384) :
    (pointersAfter base picks rr)[base + c]? = rr[base + c]? := by
  induction picks generalizing rr with
  | nil => rfl
  | cons p picks ih =>
    have hne : base + p.1 ≠ base + c := fun heq => h p (by simp) (Nat.add_left_cancel heq)
    refine (ih (fun q hq => h q (by simp [hq])) _).trans ?_
    rw [Vector.getElem?_setIfInBounds, if_neg hne]

theorem pointersAfter_picked {base c n : Nat} (hb : base + c < 384) {picks : List (Nat × Nat)} (h : ∀ p ∈ picks, p.1 = c → p.2 = n)
    {rr : Vector Nat 384} (hin : (∃ p ∈ picks, p.1 = c) ∨ rr[base + c]? = some ((n % 4 + 1) % 4)) :
    (pointersAfter base picks rr)[base + c]? = some ((n % 4 + 1) % 4) := by
  induction picks generalizing rr with
  | nil => exact hin.resolve_left fun ⟨p, hp, _⟩ => absurd hp List.not_mem_nil
  | cons p picks ih =>
    refine ih (fun q hq => h q (by simp [hq])) ?_
    by_cases hp : p.1 = c
    · right
      rw [Vector.getElem?_setIfInBounds, hp, if_pos rfl, if_pos hb, h p (by simp) hp]
    · rcases hin with ⟨q, hq, hqc⟩ | hrr
      · rcases List.mem_cons.mp hq with rfl | hq
        · exact absurd hqc hp
        · exact .inl ⟨q, hq, hqc⟩
      · right
        rw [Vector.getElem?_setIfInBounds, if_neg fun heq => hp (Nat.add_left_cancel heq), hrr]

-- the ages of a partition's harts

theorem State.updHart_placed (s : State) (hid : Nat) (f : Hart → Hart) :
    (s.updHart hid f).placed = s.placed.map fun h => if h.hid = hid then f h else h := rfl

/-- One change of each of some harts on slots of their own. -/
theorem State.placed_foldl_updHart {f : Hart → Hart} (hf : ∀ h : Hart, (f h).hid = h.hid) {l : List Hart} (hn : (l.map (·.hid)).Nodup)
    (s : State) : (l.foldl (fun s h => s.updHart h.hid f) s).placed =
      s.placed.map fun g => if g.hid ∈ l.map (·.hid) then f g else g := by
  induction l generalizing s with
  | nil => simp
  | cons h l ih =>
    obtain ⟨hnot, hn⟩ := List.nodup_cons.mp hn
    rw [List.foldl_cons, ih hn, State.updHart_placed, List.map_map]
    refine List.map_congr_left fun g _ => ?_
    rw [Function.comp_apply, List.map_cons]
    by_cases hg : g.hid = h.hid
    · rw [if_pos hg, hf, hg, if_neg hnot, if_pos (by simp)]
    · rw [if_neg hg]
      simp only [List.mem_cons, hg, false_or]

/-- A hart was ready for its slot, which picked another. -/
def State.waitsOn (s : State) (core part : Nat) (h : Hart) : Bool :=
  ((s.placed.filter (·.inPart core part)).filter s.isReady).any (·.hid == h.hid) && !(s.picksOf core part).any (·.2 == h.hid)

/-- What the pickers of a partition do to the AGE of one of its harts (R134). -/
def State.aged (s : State) (core part : Nat) (h : Hart) : Hart := { h with age := if s.waitsOn core part h then h.age + 1 else 0 }

/-- The partition's harts as the pickers leave them. -/
def State.agedPart (s : State) (core part : Nat) : State :=
  (s.placed.filter (·.inPart core part)).foldl (fun t h => t.updHart h.hid (s.aged core part)) s

theorem State.pickPart_eq (s : State) (core part : Nat) : s.pickPart core part =
    { s.agedPart core part with
      picked := (s.agedPart core part).picked ++ (s.picksOf core part).map (·.2)
      rr := pointersAfter (3 * (core * 4 + part)) (s.picksOf core part) (s.agedPart core part).rr } := rfl

theorem State.waitsOn_iff {s : State} (hn : (s.placed.map (·.hid)).Nodup) {core part : Nat} {h : Hart} (hh : h ∈ s.placed)
    (hp : InPartition h core part) :
    s.waitsOn core part h = true ↔ ReadyToIssue s h ∧ h.hid ∉ (s.picksOf core part).map (·.2) := by
  have hready : ((s.placed.filter (·.inPart core part)).filter s.isReady).any (·.hid == h.hid) = true ↔ ReadyToIssue s h := by
    simp only [List.any_eq_true, List.mem_filter, Hart.inPart_iff, State.isReady_iff, beq_iff_eq]
    constructor
    · rintro ⟨g, ⟨⟨hg, -⟩, hr⟩, hid⟩
      exact List.inj_on_of_nodup_map hn hg hh hid ▸ hr
    · exact fun hr => ⟨h, ⟨⟨hh, hp⟩, hr⟩, rfl⟩
  have hpicked : (s.picksOf core part).any (·.2 == h.hid) = true ↔ h.hid ∈ (s.picksOf core part).map (·.2) := by
    simp only [List.any_eq_true, beq_iff_eq, List.mem_map]
  unfold State.waitsOn
  rw [Bool.and_eq_true, Bool.not_eq_true', ← Bool.not_eq_true, hready, hpicked]

theorem pickersPickByAge (core part : Nat) (s : State) (hc : core < 32) (hpt : part < 4) (hp : Powered s)
    (hn : (s.placed.map (·.hid)).Nodup) :
    ∃ t ps, exec (.slotPick core part) s = .next t ∧
      t = { s with hart := t.hart, parked := t.parked, picked := s.picked ++ ps, rr := t.rr } ∧
      (∀ n, n ∈ ps ↔ ∃ c h, c < 3 ∧ Picks s core part c h ∧ h.hid = n) ∧
      (∀ c h, c < 3 → Picks s core part c h → rrOf t core part c = (h.hid % 4 + 1) % 4) ∧
      (∀ c, c < 3 → (∀ h, ¬ Picks s core part c h) → rrOf t core part c = rrOf s core part c) ∧
      t.placed.length = s.placed.length ∧
      ∀ (i : Nat) (h : Hart), s.placed[i]? = some h → ∃ a, t.placed[i]? = some { h with age := a } ∧
        (¬ InPartition h core part → a = h.age) ∧
        (InPartition h core part → ReadyToIssue s h → h.hid ∉ ps → a = h.age + 1) ∧
        (InPartition h core part → ¬ ReadyToIssue s h ∨ h.hid ∈ ps → a = 0) := by
  have hx : exec (.slotPick core part) s = .next (s.pickPart core part) := by
    show execSlotPick core part s = _
    unfold execSlotPick
    simp [Nat.not_le.mpr hc, Nat.not_le.mpr hpt, show s.svc.power ≠ .off from hp]
  have hmine : ((s.placed.filter (·.inPart core part)).map (·.hid)).Nodup := hn.sublist (List.filter_sublist.map _)
  have heq : s.agedPart core part = { s with hart := (s.agedPart core part).hart, parked := (s.agedPart core part).parked } :=
    State.foldl_updHart_eq (s.aged core part) _ s
  have hplaced : (s.agedPart core part).placed = s.placed.map fun g => if g.inPart core part then s.aged core part g else g := by
    refine (State.placed_foldl_updHart (f := s.aged core part) (fun _ => rfl) hmine s).trans (List.map_congr_left fun g hg => ?_)
    have hiff : g.hid ∈ (s.placed.filter (·.inPart core part)).map (·.hid) ↔ g.inPart core part = true := by
      simp only [List.mem_map, List.mem_filter, Hart.inPart_iff]
      exact ⟨fun ⟨q, ⟨_, hq⟩, hid⟩ => (congrArg (· / 4) hid).symm.trans hq, fun hq => ⟨g, ⟨hg, hq⟩, rfl⟩⟩
    simp only [hiff]
  have hrr : (s.agedPart core part).rr = s.rr := by rw [heq]
  have hpicked : (s.agedPart core part).picked = s.picked := by rw [heq]
  rw [State.pickPart_eq, hrr, hpicked] at hx
  have hpicks {c : Nat} (hc3 : c < 3) (h : Hart) : Picks s core part c h → (c, h.hid) ∈ s.picksOf core part := fun hh =>
    State.mem_picksOf.mpr ⟨hc3, h, (State.picks_iff hn).mp hh, rfl⟩
  refine ⟨_, (s.picksOf core part).map (·.2), hx, ?_, fun n => ?_, fun c h hc3 hh => ?_, fun c hc3 hnone => ?_, ?_, fun i h hi => ?_⟩
  · dsimp only
    rw [heq]
  · simp only [List.mem_map, Prod.exists, exists_eq_right, State.mem_picksOf, State.picks_iff hn]
    exact ⟨fun ⟨c, hc3, h, hh, hid⟩ => ⟨c, h, hc3, hh, hid⟩, fun ⟨c, h, hc3, hh, hid⟩ => ⟨c, hc3, h, hh, hid⟩⟩
  · refine congrArg (Option.getD · 0) (pointersAfter_picked (c := c) (n := h.hid) (by omega) (fun p hin hpc => ?_)
      (.inl ⟨_, hpicks hc3 h hh, rfl⟩))
    obtain ⟨-, g, hg, hid⟩ := State.mem_picksOf.mp (show (c, p.2) ∈ s.picksOf core part from hpc ▸ hin)
    rw [(State.picks_iff hn).mp hh] at hg
    rw [← hid, Option.some.inj hg]
  · refine congrArg (Option.getD · 0) (pointersAfter_unpicked (c := c) (fun p hin hpc => ?_) s.rr)
    obtain ⟨-, g, hg, -⟩ := State.mem_picksOf.mp (show (c, p.2) ∈ s.picksOf core part from hpc ▸ hin)
    exact hnone g ((State.picks_iff hn).mpr hg)
  · exact (congrArg List.length hplaced).trans (by simp)
  · have hget : (s.agedPart core part).placed[i]? = some (if h.inPart core part then s.aged core part h else h) := by
      rw [hplaced, List.getElem?_map, hi]
      rfl
    have hh : h ∈ s.placed := List.mem_of_getElem? hi
    by_cases hin : InPartition h core part
    · rw [if_pos (Hart.inPart_iff.mpr hin)] at hget
      have hwaits := State.waitsOn_iff hn hh hin
      refine ⟨_, hget, fun hout => absurd hin hout, fun _ hr hnp => ?_, fun _ hor => ?_⟩
      · exact if_pos (hwaits.mpr ⟨hr, hnp⟩)
      · exact if_neg fun hw => hor.elim (absurd (hwaits.mp hw).1) (hwaits.mp hw).2
    · rw [if_neg (mt Hart.inPart_iff.mp hin)] at hget
      exact ⟨h.age, hget, fun _ => rfl, fun hp _ => absurd hp hin, fun hp _ => absurd hp hin⟩

end Sys2Proof.Machine
end

section
namespace Sys2Proof.Machine

open Claims

/-! The end of a hart (R80, R189). -/

-- what the records say of harts, while launches end

/-- Hart j of a launch has this position, if the launch has one. -/
def PosAt (j : Nat) (p : HPos) (l : Launch) : Prop := ∀ r, l.hs[j]? = some r → r.pos = p

/-- Ends and settling leave where harts are. -/
theorem State.Records.posAt_toFinal {s : State} {lid j : Nat} {p : HPos} (h : s.Records lid (PosAt j p)) (id code : Nat) :
    (s.toFinal id code).Records lid (PosAt j p) := by
  by_cases hid : id = lid
  · subst hid
    exact h.toFinal fun _ _ _ hl => hl
  · exact h.toFinal_other hid

theorem State.Records.posAt_settleOne {s : State} {lid j : Nat} {p : HPos} (h : s.Records lid (PosAt j p)) (id : Nat) :
    (s.settleOne id).Records lid (PosAt j p) := by
  unfold State.settleOne
  split
  · exact h
  · rename_i l hl
    have hown {m : Launch} (hlid : m.lid = l.lid) (hhs : m.hs = l.hs) : (s.updLaunch id fun _ => m).Records lid (PosAt j p) := by
      refine h.updLaunch fun q hq hm => ?_
      have hin : l.lid = lid := hlid.symm.trans hm
      refine ⟨hq.trans ((State.launch?_lid hl).symm.trans hin), fun _ r hr => ?_⟩
      exact h l (State.launch?_mem hl) hin r (hhs ▸ hr)
    split
    · exact h
    · split
      · refine State.Records.posAt_toFinal ?_ id 12
        exact h.updLaunch fun _ _ hm => ⟨hm, fun hpos => hpos⟩
      · dsimp only
        split
        · exact hown (m := { s.markPre l with state := 1, tmet := some s.clock }) rfl rfl
        · exact hown (m := s.markPre l) rfl rfl

theorem State.Records.posAt_finalize {s : State} {lid j : Nat} {p : HPos} (h : s.Records lid (PosAt j p)) (id code : Nat) :
    (s.finalize id code).Records lid (PosAt j p) :=
  State.settle_keeps (I := fun t => t.Records lid (PosAt j p)) (fun _ q ht => ht.posAt_settleOne q) _ (h.posAt_toFinal id code)

-- leaving a slot

theorem State.vacate_lu (s : State) (hid : Nat) : (s.vacate hid).lu = s.lu := by
  unfold State.vacate
  dsimp only
  split
  · split <;> rfl
  · rfl

/-- With another hart in the module, a vacated slot has none. -/
theorem State.leftSlot_vacate (s : State) (hid : Nat) : LeftSlot s (s.vacate hid) hid := by
  rintro ⟨g, hg, hne⟩
  have hothers {q : Hart} (hq : q ∈ s.parked.filter fun h => decide (h.hid ≠ hid)) : q.hid ≠ hid := by
    simpa using (List.mem_filter.mp hq).2
  unfold State.vacate
  dsimp only
  by_cases hactive : s.hart.hid = hid
  · have hparked : g ∈ s.parked.filter fun h => decide (h.hid ≠ hid) := by
      have hin : g ∈ s.parked := (List.mem_cons.mp hg).resolve_left fun heq => hne (heq ▸ hactive)
      simp [hin, hne]
    rw [if_pos hactive]
    split
    · rename_i k ks hks
      exact fun q hq => hothers (hks ▸ hq)
    · rename_i hnil
      rw [hnil] at hparked
      exact absurd hparked List.not_mem_nil
  · rw [if_neg hactive]
    intro q hq
    rcases List.mem_cons.mp hq with rfl | hq
    · exact hactive
    · exact hothers hq

theorem State.leftSlot_leave (s : State) (h : Hart) (p : HPos) : LeftSlot s (s.leave h p) h.hid := by
  unfold State.leave
  exact State.leftSlot_vacate (s.updLHart h.lid h.j _) h.hid

theorem State.leave_records (s : State) (h : Hart) (p : HPos) : (s.leave h p).Records h.lid (PosAt h.j p) := by
  unfold State.Records State.leave
  rw [State.vacate_lu]
  refine State.records_updLaunch fun l r hr => ?_
  rw [List.getElem?_modify] at hr
  obtain ⟨q, -, rfl⟩ := Option.map_eq_some_iff.mp hr
  rw [if_pos rfl]

-- the claim

/-- A hart that ends leaves its slot, and its launch may become final with it (R80, R189). -/
theorem State.hartEnds_cases (s : State) (h : Hart) :
    s.hartEnds h = s.leave h .exited ∨ ∃ code, s.hartEnds h = (s.leave h .exited).finalize h.lid code := by
  unfold State.hartEnds
  dsimp only
  split
  · exact .inl rfl
  · split
    · exact .inr ⟨_, rfl⟩
    · split
      · exact .inr ⟨_, rfl⟩
      · exact .inl rfl

theorem hartsThatExitedEnd (hid : Nat) (s : State) (h : Hart) (hh : s.hart? hid = some h) (h16 : 16 ≤ hid) :
    (h.exiting = true → h.unacked = [] →
      ∃ t, exec (.hartEnd hid) s = .next t ∧ t.mem = s.mem ∧ LeftSlot s t hid ∧ HasPos t h.lid h.j .exited) ∧
    (h.exiting = false ∨ h.unacked ≠ [] → exec (.hartEnd hid) s = .next s) := by
  obtain rfl : h.hid = hid := State.hart?_hid hh
  have hx : exec (.hartEnd h.hid) s = if h.exiting && h.unacked.isEmpty && 16 ≤ h.hid then .next (s.hartEnds h) else .next s := by
    show execHartEnd h.hid s = _
    unfold execHartEnd
    rw [hh]
  rw [hx]
  refine ⟨fun he hu => ?_, fun hor => ?_⟩
  · rw [if_pos (by simp [he, hu, h16])]
    have hslot := s.leftSlot_leave h .exited
    have hpos := s.leave_records h .exited
    have hmem : (s.leave h .exited).mem = s.mem := (s.rehouses_leave h .exited).mem
    rcases s.hartEnds_cases h with hends | ⟨code, hends⟩
    · rw [hends]
      exact ⟨_, rfl, hmem, hslot, fun l r hl => hpos.of_launch? hl r⟩
    · rw [hends]
      have hd := (s.leave h .exited).decides_finalize h.lid code
      refine ⟨_, rfl, hd.mem.trans hmem, fun hothers q hq => ?_, fun l r hl => (hpos.posAt_finalize h.lid code).of_launch? hl r⟩
      unfold State.placed at hq
      rw [hd.hart, hd.parked] at hq
      exact hslot hothers q hq
  · rw [if_neg]
    rcases hor with he | hu
    · simp [he]
    · simp [hu]

/-- Settles O46: fetch units serve the emptiest hart, each slot picks the oldest hart from its pointer on, queues and commits act on the
hart's next word, and a hart that has exited leaves its slot and its launch's records. -/
theorem frontEndEventsComplete : Obligations.FrontEndEventsComplete :=
  ⟨fetchUnitsServeTheEmptiest, pickersPickByAge, queueHeadsGoNext, badRegistersAreMarked, badLinesAreMarked, failingCoresAreFenced,
    badScratchWordsAreMarked, badSamplersAreMarked, gaugeFindingsAreKept, storesAreAcknowledged, illegalInstructionsTrap,
    hartsThatExitedEnd⟩

end Sys2Proof.Machine
end

section
namespace Sys2Proof

open Machine

/-! Every step keeps the invariant (R88, R99, R266). Device memory changes by `cellsPut` alone, and a region's bytes by `State.putAt` or
with the region; everything else that a step does leaves both. So the proof is one fact for each operation, `Inv s → Inv (op s)`, in the
order in which the model defines the operations, up to `exec` and `step`. -/

/-- The invariant speaks of device memory and the scratchpad regions alone. -/
theorem Inv.same {s t : State} (h : Inv s) (hm : t.mem = s.mem) (hr : t.regions = s.regions) : Inv t := by
  obtain ⟨hw, hc⟩ := h
  exact ⟨by unfold State.memWf; rwa [hm], by rwa [hr]⟩

/-- An update of a state that leaves device memory and the regions to it. -/
theorem Inv.rest {s : State} (h : Inv s)
    {hart parked lu ops nextOp mail colls pubs targets nextTag ats tlb invals fabric svc coh inbox outbox picked rr fetchTurn clock draw} :
    Inv ⟨hart, parked, s.mem, s.regions, lu, ops, nextOp, mail, colls, pubs, targets, nextTag, ats, tlb, invals, fabric, svc, coh,
      inbox, outbox, picked, rr, fetchTurn, clock, draw⟩ := h

/-- A write of device memory keeps the invariant, whatever else changes. -/
theorem Inv.put {s t : State} (h : Inv s) {a : Nat} {bs : List Byte} (hm : t.mem = cellsPut s.mem a bs)
    (hr : t.regions = s.regions) : Inv t := by
  obtain ⟨hw, hc⟩ := h
  exact ⟨by unfold State.memWf; rw [hm]; exact cellsWf_cellsPut _ _ hw, by rwa [hr]⟩

/-- A change of regions that keeps the form of each keeps the invariant. -/
theorem Inv.mapRegions {s t : State} (h : Inv s) {f : Region → Region} (hr : t.regions = s.regions.map f)
    (hm : t.mem = s.mem) (hf : ∀ r, cellsWf r.cells = true → cellsWf (f r).cells = true) : Inv t := by
  obtain ⟨hw, hc⟩ := h
  refine ⟨by unfold State.memWf; rwa [hm], fun r hmem => ?_⟩
  rw [hr] at hmem
  obtain ⟨q, hq, rfl⟩ := List.mem_map.mp hmem
  exact hf q (hc q hq)

theorem Inv.foldl {β : Type} {f : State → β → State} {l : List β} {s : State} (h : Inv s)
    (hf : ∀ s b, Inv s → Inv (f s b)) : Inv (l.foldl f s) := by
  induction l generalizing s with
  | nil => exact h
  | cons b l ih => exact ih (hf s b h)

theorem Inv.ite {p : Prop} [Decidable p] {s t : State} (hs : Inv s) (ht : Inv t) : Inv (if p then s else t) := by
  split
  · exact hs
  · exact ht

section
variable {s : State} (h : Inv s)
include h

-- harts, launches, events and logs: memory stays

theorem Inv.withHart {f} : Inv (s.withHart f) := h.same rfl rfl
theorem Inv.wx {r w} : Inv (s.wx r w) := h.same rfl rfl
theorem Inv.advance : Inv s.advance := h.same rfl rfl
theorem Inv.jump {pc} : Inv (s.jump pc) := h.same rfl rfl
theorem Inv.done1 {d w} : Inv (s.done1 d w) := h.same rfl rfl
theorem Inv.raise {n} : Inv (s.raise n) := h.same rfl rfl
theorem Inv.withBegun {f} : Inv (s.withBegun f) := h.same rfl rfl
theorem Inv.stall {b} : Inv (s.stall b) := h.same rfl rfl
theorem Inv.updLaunch {i f} : Inv (s.updLaunch i f) := h.same rfl rfl
theorem Inv.updLHart {i j f} : Inv (s.updLHart i j f) := h.same rfl rfl
theorem Inv.updHart {i f} : Inv (s.updHart i f) := h.same rfl rfl
theorem Inv.post {es} : Inv (s.post es) := h.same rfl rfl
theorem Inv.send {ms} : Inv (s.send ms) := h.same rfl rfl
theorem Inv.logEvent {k p d} : Inv (s.logEvent k p d) := h.same rfl rfl
theorem Inv.updUnits {f} : Inv (s.updUnits f) := h.same rfl rfl
theorem Inv.journal {e} : Inv (s.journal e) := h.same rfl rfl
theorem Inv.updCoh {f} : Inv (s.updCoh f) := h.same rfl rfl
theorem Inv.updFabric {f} : Inv (s.updFabric f) := h.same rfl rfl
theorem Inv.updOp {i f} : Inv (s.updOp i f) := h.same rfl rfl
theorem Inv.updColl {i f} : Inv (s.updColl i f) := h.same rfl rfl
theorem Inv.eachHart {f} : Inv (s.eachHart f) := h.same rfl rfl
theorem Inv.trackGrant : Inv s.trackGrant := h.ite (h.same (by rfl) (by rfl))

theorem Inv.updHandles {i f} : Inv (s.updHandles i f) := by
  unfold State.updHandles
  split
  · exact h.updLaunch
  · exact h.same rfl rfl

-- device memory and scratchpad

theorem Inv.memPut {a bs} : Inv (s.memPut a bs) := h.put rfl rfl

theorem Inv.moves {via w loc n} : Inv (s.moves via w loc n) := by
  unfold State.moves
  split
  · exact h.same rfl rfl
  · exact h

theorem Inv.updRegion {c l f} (hf : ∀ r, cellsWf r.cells = true → cellsWf (f r).cells = true) : Inv (s.updRegion c l f) :=
  h.mapRegions rfl (by rfl) fun r hr => by
    split
    · exact hf r hr
    · exact hr

theorem Inv.putAt {loc bs} : Inv (s.putAt loc bs) := by
  unfold State.putAt
  split
  · exact h.memPut
  · exact h.updRegion fun r hr => cellsWf_cellsPut _ _ hr
  · exact h

theorem Inv.storeAt {loc bs lane} : Inv (s.storeAt loc bs lane) := (h.same (by rfl) (by rfl)).ite h.moves.putAt

theorem Inv.setWord {w v} : Inv (s.setWord w v) := by
  unfold State.setWord
  split
  · exact h.moves.putAt
  · exact h.putAt

theorem Inv.storeSegs {gs bs} : Inv (s.storeSegs gs bs) := by
  induction gs generalizing s bs with
  | nil => exact h
  | cons g gs ih => exact ih h.storeAt

theorem Inv.sendWrite {loc bs} : Inv (s.sendWrite loc bs) := h.same rfl rfl

theorem Inv.segWriteVia {via gs bs} : Inv (State.segWriteVia via s gs bs) := by
  induction gs generalizing s bs with
  | nil => exact h
  | cons g gs ih => exact ih (h.sendWrite.ite h.moves.putAt)

theorem Inv.segWrite {gs bs} : Inv (s.segWrite gs bs) := h.segWriteVia

theorem Inv.segReadVia {via gs} : Inv (State.segReadVia via s gs) := h.foldl fun _ _ h => h.moves

theorem Inv.segRead {gs} : Inv (s.segRead gs) := h.segReadVia

theorem Inv.poisonLoc {loc n} : Inv (s.poisonLoc loc n) := by
  unfold State.poisonLoc
  split
  · exact h
  · split
    · exact h.same rfl rfl
    · exact h.updRegion fun r hr => hr
    · exact h

theorem Inv.poisonWords {gs n offs} : Inv (s.poisonWords gs n offs) := h.foldl fun _ _ h => h.foldl fun _ _ h => h.poisonLoc

theorem Inv.mend {gs} : Inv (s.mend gs) := h.ite (h.mapRegions rfl (by rfl) fun r hr => hr)

theorem Inv.segCopy {src dst n} : Inv (s.segCopy src dst n) := h.segRead.segWrite.poisonWords

theorem Inv.fill {dst bs bad} : Inv (s.fill dst bs bad) := h.segWriteVia.poisonWords

theorem Inv.onBehalf {l f} (hf : ∀ t, Inv t → Inv (f t)) : Inv (s.onBehalf l f) := (hf _ h.withHart).withHart

-- translation: A and D bits are set, and caches hold the leaf

theorem Inv.markUsed {f acc} : Inv (s.markUsed f acc) := by
  unfold State.markUsed
  split
  · exact h
  · exact h.put rfl rfl

theorem Inv.hold {cs a va f acc} : Inv (s.hold cs a va f acc) := h.foldl fun _ _ h => h.ite (h.same (by rfl) (by rfl))

theorem Inv.xlateIn {cs a root task va acc loc t} (hx : s.xlateIn cs a root task va acc = .ok (loc, t)) : Inv t := by
  unfold State.xlateIn at hx
  repeat' split at hx
  all_goals cases hx
  all_goals exact h.markUsed.hold

theorem Inv.xlate {va acc lanes loc t} (hx : s.xlate va acc lanes = .ok (loc, t)) : Inv t := by
  unfold State.xlate at hx
  dsimp only at hx
  split at hx
  · split at hx
    · cases hx; exact h
    · cases hx
  · split at hx
    · split at hx
      · cases hx; exact h
      · cases hx
    · exact h.xlateIn hx

theorem Inv.xlateOnce {va acc lanes loc t} (hx : s.xlateOnce va acc lanes = .ok (loc, t)) : Inv t := by
  unfold State.xlateOnce at hx
  split at hx
  · cases hx; exact h
  · exact h.xlate hx

theorem Inv.xlateAll {acc lanes vas} : Inv (s.xlateAll acc lanes vas).2 := by
  induction vas generalizing s with
  | nil => exact h
  | cons va vas ih =>
    unfold State.xlateAll
    split
    · rename_i hx
      exact ih (h.xlate hx)
    · exact h

theorem Inv.xlatePair {p q acc va loc t} (hx : s.xlatePair p q acc va = .ok (loc, t)) : Inv t := by
  unfold State.xlatePair at hx
  split at hx
  · cases hx
  · split at hx
    · cases hx
    · exact h.xlateIn hx

/-- A stretch is translated page by page. -/
theorem Inv.spanWith {tr : State → Nat → Except Nat (Loc × State)} (htr : ∀ s va loc t, Inv s → tr s va = .ok (loc, t) → Inv t)
    {ps gs t} (hx : spanWith tr ps s = .ok (gs, t)) : Inv t := by
  induction ps generalizing s gs with
  | nil => cases hx; exact h
  | cons p ps ih =>
    unfold Machine.spanWith at hx
    split at hx
    · cases hx
    · rename_i hp
      split at hx
      · cases hx
      · rename_i hr
        cases hx
        exact ih (htr _ _ _ _ h hp) hr

theorem Inv.spanPair {p q va n acc gs t} (hx : s.spanPair p q va n acc = .ok (gs, t)) : Inv t :=
  h.spanWith (fun _ _ _ _ h hx => h.xlatePair hx) hx

-- ends of launches: the regions of the launch are freed

theorem Inv.toFinal {i c} : Inv (s.toFinal i c) := by
  unfold State.toFinal
  refine Inv.trackGrant ?_
  have hf (t : State) (ht : Inv t) : t.memWf ∧ ∀ r ∈ t.regions.filter (·.lid ≠ i), cellsWf r.cells = true :=
    ⟨ht.1, fun r hr => ht.2 r (List.mem_filter.mp hr).1⟩
  exact hf _ (h.updLaunch.logEvent.ite h.updLaunch)

theorem Inv.settleOne {i} : Inv (s.settleOne i) := by
  unfold State.settleOne
  split
  · exact h
  · split
    · exact h
    · split
      · exact h.updLaunch.toFinal
      · exact (h.same (by rfl) (by rfl)).ite h.updLaunch

theorem Inv.settle {n} : Inv (State.settle n s) := by
  induction n generalizing s with
  | zero => exact h
  | succ n ih => exact ih (h.foldl fun _ _ h => h.settleOne)

theorem Inv.finalize {i c} : Inv (s.finalize i c) := h.toFinal.settle

theorem Inv.endLaunch {i c k j v} : Inv (s.endLaunch i c k j v) := by
  unfold State.endLaunch
  split
  · exact h
  · exact h.ite ((h.updLaunch.foldl fun _ _ h => h.updHart).post.ite h.updLaunch.finalize)

theorem Inv.migrate {which} : Inv (s.migrate which) := (h.foldl fun _ _ h => h.updHart).post

-- traps

theorem Inv.takeTrap {sync c v k} : Inv (takeTrap sync c v k s) := by
  unfold Machine.takeTrap
  dsimp only
  refine h.withHart.ite ?_
  split
  · exact h.withHart
  · refine h.endLaunch.ite ?_
    split
    · exact h.withHart.withHart.ite h.withHart
    · exact h.withHart
    · exact h.endLaunch

theorem Inv.trapReturn : Inv (trapReturn s) := h.withHart.post.ite h.withHart

theorem Inv.countTraffic : Inv s.countTraffic := by
  unfold State.countTraffic
  split
  · exact h
  · exact h.same rfl rfl

theorem Inv.countGranule {n} : Inv (s.countGranule n) := h.ite h.countTraffic.withBegun

end

end Sys2Proof
end

section
namespace Sys2Proof

open Machine

/-! The invariant, second part: answers, fetches, harts, control registers, fencing and saved images. -/

/-- The state that an answer goes on with, if it does, has the invariant. -/
def InvNext (a : Answer) : Prop := ∀ t, a = .next t → Inv t

theorem InvNext.ite {p : Prop} [Decidable p] {a b : Answer} (ha : InvNext a) (hb : InvNext b) : InvNext (if p then a else b) := by
  split
  · exact ha
  · exact hb

section
variable {s : State} (h : Inv s)
include h

theorem Inv.next : InvNext (.next s) := fun t ht => by cases ht; exact h

theorem Inv.illegal {i} : InvNext (illegal i s) := h.takeTrap.next

theorem Inv.illegalWord {w} : InvNext (illegalWord w s) := h.takeTrap.next

theorem Inv.whenFree {ms k} (hk : InvNext k) : InvNext (s.whenFree ms k) := h.stall.next.ite hk

-- whose turn it is

theorem Inv.rotate : Inv (rotate s) := by
  unfold Machine.rotate
  split
  · exact h
  · exact h.same rfl rfl

theorem Inv.giveTurn {i n} : Inv (giveTurn i n s) := by
  induction n generalizing s with
  | zero => exact h
  | succ n ih => exact h.ite (ih h.rotate)

theorem Inv.asHart {i f} (hf : ∀ t, Inv t → InvNext (f t)) : InvNext (asHart i f s) := by
  unfold Machine.asHart
  split
  · exact h.next
  · dsimp only
    split
    · rename_i ht
      exact (hf _ h.giveTurn _ ht).giveTurn.next
    · exact hf _ h.giveTurn

theorem Inv.tick : Inv (tick s) := h.same rfl rfl

theorem Inv.goOn : Inv s.goOn := h.post.ite h

-- fetch and the choice of harts

theorem Inv.fetchMoves {loc} : Inv (s.fetchMoves loc) := by
  unfold State.fetchMoves
  split
  · exact h.same rfl rfl
  · exact h.moves

theorem Inv.fetch {w t} (hx : fetch s = .ok (w, t)) : Inv t := by
  unfold Machine.fetch at hx
  dsimp only at hx
  split at hx
  · cases hx
  · split at hx
    · cases hx
    · split at hx
      · cases hx
      · rename_i hp
        repeat' split at hx
        all_goals cases hx
        exact (h.xlate hp).fetchMoves

theorem Inv.fetchBlock {c p} : Inv (s.fetchBlock c p) := by
  unfold State.fetchBlock
  dsimp only
  split
  · exact h.same rfl rfl
  · exact h.same rfl rfl

theorem Inv.pickPart {c p} : Inv (s.pickPart c p) := by
  unfold State.pickPart
  exact Inv.rest (h.foldl fun _ _ h => h.updHart)

theorem Inv.land : Inv s.land := h.eachHart.foldl fun _ _ h => h.updLHart

theorem Inv.refresh {waits i} : Inv (State.refresh waits s i) := by
  unfold State.refresh
  split
  · exact h
  · exact h.ite (h.updHart.ite h.updHart)

theorem Inv.serveStrips : Inv s.serveStrips := h.same rfl rfl

theorem Inv.round {waits} : Inv (s.round waits) :=
  Inv.serveStrips <| Inv.foldl (hf := fun _ _ h => h.pickPart) <| Inv.foldl (hf := fun _ _ h => h.refresh) <|
    h.land.foldl fun _ _ h => h.fetchBlock

theorem Inv.wake {i sel} (hsel : ∀ w f, sel w = some f → ∀ t, Inv t → InvNext (f t)) : InvNext (wake i sel s) := by
  unfold Machine.wake
  split
  · exact h.next
  · refine InvNext.ite (h.asHart fun t ht => ?_) h.next
    split
    · exact ht.next
    · rename_i hx
      split
      · rename_i hf
        exact hsel _ _ hf _ (ht.fetch hx).withHart
      · exact ht.next

theorem Inv.wakeAll {sel is} (hsel : ∀ w f, sel w = some f → ∀ t, Inv t → InvNext (f t)) : InvNext (wakeAll sel is s) := by
  induction is generalizing s with
  | nil => exact h.next
  | cons i is ih =>
    unfold Machine.wakeAll
    split
    · rename_i ht
      exact ih (h.wake hsel _ ht)
    · exact h.wake hsel

-- control registers

theorem Inv.writeDseed {v} : Inv (s.writeDseed v) := h.same rfl rfl

theorem Inv.writeRmin {c v} : Inv (s.writeRmin c v) := h.ite (h.same (by rfl) (by rfl))

theorem Inv.cregWrite {n v} : Inv (cregWrite s n v) := by
  unfold Machine.cregWrite
  split
  case h_6 => exact h.writeDseed
  case h_9 => exact h.writeRmin
  case h_10 => exact h.writeRmin
  all_goals exact h.withHart

theorem Inv.writeIfAllowed {n v} : InvNext (writeIfAllowed n v s) := (h.cregWrite.ite h).next

-- gauge checks and units that are lost

theorem Inv.markBad {i r} : Inv (s.markBad i r) := by
  unfold State.markBad
  split
  · exact h.updHart
  · exact h.updRegion fun r hr => by split <;> exact hr
  · exact h.same rfl rfl
  · split
    · exact h
    · exact h.updHandles
  · exact h

theorem Inv.countRetry {q} : Inv (s.countRetry q) := h.same rfl rfl

theorem Inv.fenceCore {c} : Inv (s.fenceCore c) := h.ite (h.updUnits.migrate.same (by rfl) (by rfl))

theorem Inv.bumpLanes : Inv s.bumpLanes := h.updUnits

theorem Inv.bumpGrant : Inv s.bumpGrant := h.updUnits

theorem Inv.journalLane {a p} : Inv (s.journalLane a p) := h.journal

theorem Inv.markLost {hs} : Inv (s.markLost hs) := h.foldl fun _ _ h => h.updLaunch

theorem Inv.fenceUnit {p} : Inv (s.fenceUnit p) := by
  unfold State.fenceUnit
  refine Inv.rest (Inv.trackGrant (Inv.migrate (Inv.markLost (Inv.rest (Inv.rest ?_)))))
  exact h.updUnits.bumpLanes.bumpGrant.logEvent.journalLane

theorem Inv.retireLane {p} : Inv (s.retireLane p) := h.updUnits.bumpLanes.logEvent.journalLane.ite h.fenceUnit

theorem Inv.loseArray {p} : Inv (s.loseArray p) := h.updUnits.bumpLanes.logEvent.journalLane

theorem Inv.strike {p} : Inv (s.strike p) :=
  h.ite (h.updUnits.logEvent.ite (h.updUnits.logEvent.loseArray.ite h.updUnits.logEvent.retireLane))

theorem Inv.settleGauge {acts d} : Inv (s.settleGauge acts d) := by
  unfold State.settleGauge
  split
  · exact h
  · refine h.ite ?_
    split
    · exact h.withHart.strike.ite h.withHart
    · exact h.withHart

theorem Inv.settleArray {k rows} : Inv (s.settleArray k rows) := by
  unfold State.settleArray
  split
  · exact h
  · dsimp only
    split
    · exact h.withHart.strike.ite h.withHart
    · exact h.withHart

theorem Inv.waive : Inv s.waive := h.ite (h.same (by rfl) (by rfl))

-- places of harts

theorem Inv.vacate {i} : Inv (s.vacate i) := by
  unfold State.vacate
  dsimp only
  refine Inv.ite ?_ (h.same rfl rfl)
  split
  · exact h.same rfl rfl
  · exact h.same rfl rfl

theorem Inv.leave {q p} : Inv (s.leave q p) := h.updLHart.vacate

theorem Inv.hartEnds {q} : Inv (s.hartEnds q) := by
  unfold State.hartEnds
  dsimp only
  split
  · exact h.leave
  · exact h.leave.finalize.ite (h.leave.finalize.ite h.leave)

theorem Inv.swapOut {q} : Inv (s.swapOut q) := h.updLHart.updHart

theorem Inv.stopHart {q} : InvNext (s.stopHart q) := by
  unfold State.stopHart
  refine InvNext.ite ?_ (h.next.ite h.swapOut.post.next)
  dsimp only
  split
  · exact h.leave.next
  · refine Inv.next ?_
    split
    · exact h.leave.ite h.leave.finalize
    · exact h.leave

theorem Inv.bringRegion {l c} : Inv (s.bringRegion l c) := h.mapRegions rfl (by rfl) fun r hr => by split <;> exact hr

/-- A launch's region is made empty. -/
theorem Inv.withRegion {l c} : Inv (s.withRegion l c) := by
  unfold State.withRegion
  have hb : Inv (s.bringRegion l.lid c) := h.bringRegion
  refine hb.ite ⟨hb.1, fun r hr => ?_⟩
  rcases List.mem_append.mp hr with hr | hr
  · exact hb.2 r hr
  · cases List.mem_singleton.mp hr
    rfl

theorem Inv.placeFirst {l j} : Inv (s.placeFirst l j) := by
  unfold State.placeFirst
  split
  · exact h
  · split
    · exact h
    · exact Inv.trackGrant (Inv.rest h.withRegion.updLHart.updLaunch)

theorem Inv.badSlot {l j} : InvNext (s.badSlot l j) := h.endLaunch.next

theorem Inv.loseGrant {l j i a b} : InvNext (s.loseGrant l j i a b) :=
  h.updHart.updLHart.trackGrant.asHart fun _ h => h.takeTrap.next

theorem Inv.restore {l r j i} : InvNext (s.restore l r j i) := by
  unfold State.restore
  dsimp only
  split
  · exact h.badSlot
  · rename_i hs
    have ht := h.spanPair hs
    split
    · exact ht.badSlot
    · rename_i hd
      have hu := ht.spanPair hd
      refine hu.badSlot.ite ((Inv.loseGrant (Inv.rest ?_)).ite (Inv.next (Inv.updLHart (Inv.rest ?_))))
      · exact hu.segRead.segWrite.withRegion.updLHart
      · exact hu.segRead.segWrite.withRegion.updLHart

theorem Inv.takeHeld : Inv (takeHeld s) := by
  unfold Machine.takeHeld
  refine h.ite ?_
  split
  · exact h.withHart.takeTrap
  · split
    · exact h.withHart.takeTrap
    · split
      · exact h.withHart.takeTrap
      · exact h

theorem Inv.applyGrant : Inv s.applyGrant := by
  unfold State.applyGrant
  split
  · exact h
  · exact h.updLHart.withHart.trackGrant

theorem Inv.setVl {d n} : Inv (s.setVl d n) := h.withHart.done1

theorem Inv.setVstart {k} : Inv (s.setVstart k) := h.withHart

theorem Inv.branchIf {n} {c} {o : BitVec n} : Inv (s.branchIf c o) := h.jump.ite h.advance

theorem Inv.kbr {c k o} : InvNext (kbr c k o s) := by
  refine h.stall.next.ite ?_
  split
  · exact h.takeTrap.next
  · exact h.branchIf.next

-- coherence and the patrol

theorem Inv.arrives {k a l o} (ho : Inv o) : Inv (s.arrives k a l o) := by
  unfold State.arrives
  split
  · exact (h.same (by rfl) (by rfl)).ite h
  · exact ho

theorem Inv.requests {k a l f} : Inv (s.requests k a l f) := h.ite (h.arrives (h.updCoh.ite h))

theorem Inv.leaves {a l f} : Inv (s.leaves a l f) := h.updCoh.ite h

theorem Inv.message {k a l} : Inv (s.message k a l) := (h.arrives h).ite h

theorem Inv.scrubbed {q} : Inv (s.scrubbed q) := by
  unfold State.scrubbed
  split
  · exact h.logEvent
  · exact h.updCoh.logEvent
  · exact h

end

end Sys2Proof
end

section
namespace Sys2Proof

open Machine

/-! The invariant, third part: cards and records of launches, engine operations and mesh objects. -/

section
variable {s : State} (h : Inv s)
include h

-- verified images, cards and records

theorem Inv.releaseImages {w} : Inv (s.releaseImages w) := h.same rfl rfl

theorem Inv.dropVerif {i} : Inv (s.dropVerif i) := h.same rfl rfl

theorem Inv.enterImage {e t} (hx : s.enterImage e = some t) : Inv t := by
  unfold State.enterImage at hx
  dsimp only at hx
  repeat' split at hx
  all_goals cases hx
  all_goals exact h.rest

theorem Inv.imageSpan {p q va n k gs t} (hx : s.imageSpan p q va n k = .ok (gs, t)) : Inv t := by
  unfold State.imageSpan at hx
  split at hx
  · cases hx
  · rename_i hp
    repeat' split at hx
    all_goals cases hx
    all_goals exact (h.spanPair hp).segRead

theorem Inv.verifyImage {p q a} : Inv (s.verifyImage p q a).2 := by
  unfold State.verifyImage
  split
  · exact h
  · split
    · exact h
    · rename_i hh
      have ht := h.imageSpan hh
      dsimp only
      split
      · exact ht
      · split
        · exact ht
        · rename_i hb
          have hu := ht.imageSpan hb
          split
          · exact hu
          · split
            · rename_i he
              exact hu.enterImage he
            · exact hu

theorem Inv.wakeUp : Inv s.wakeUp := (h.same (by rfl) (by rfl)).ite h

theorem Inv.placeRecord {l} : Inv (s.placeRecord l).2 := by
  unfold State.placeRecord
  split
  · exact h
  · split
    · rename_i hx
      exact h.spanPair hx
    · exact h

theorem Inv.accept {l} : Inv (s.accept l) := by
  unfold State.accept
  exact Inv.settleOne (Inv.trackGrant (Inv.wakeUp (Inv.rest h.placeRecord)))

theorem Inv.readCard {va c t} (hx : s.readCard va = .ok (c, t)) : Inv t := by
  unfold State.readCard at hx
  split at hx
  · cases hx
  · split at hx
    · cases hx
    · rename_i hp
      have ht := h.spanWith (fun _ _ _ _ h hx => h.xlate hx) hp
      repeat' split at hx
      all_goals cases hx
      exact ht.segRead

theorem Inv.startVerif {c} : Inv (s.startVerif c) := by
  unfold State.startVerif
  exact Inv.stall (Inv.withHart h.rest)

theorem Inv.launched {d w} : Inv (s.launched d w) := by
  unfold State.launched
  refine Inv.withHart (Inv.done1 ?_)
  split
  · exact h.dropVerif
  · exact h

theorem Inv.launchCard {d c o} : Inv (launchCard d c o s) := by
  unfold Machine.launchCard
  split
  · exact h.launched
  · exact h.launched.accept
  · exact h.startVerif

theorem Inv.postedStatus {p c} : Inv (postedStatus p c s).2 := by
  unfold Machine.postedStatus
  dsimp only
  split
  · exact h
  · split
    · have ht : Inv (s.verifyImage (cardPort c) (cardPasid c) (recField c 0x10 8)).2 := h.verifyImage
      split
      · exact ht.accept
      · exact ht
      · exact ht
    · split
      · exact h.accept
      · exact h
      · exact h

theorem Inv.preWord {l p x t} (hx : s.preWord l p = some (x, t)) : Inv t := by
  unfold State.preWord at hx
  split at hx
  · rename_i hp
    split at hx
    · cases hx
    · obtain ⟨-, ht⟩ := Prod.mk.inj (Option.some.inj hx)
      rw [← ht]
      exact (h.xlatePair hp).moves
  · cases hx

theorem Inv.copyData {l t} (hx : s.copyData l = .ok t) : Inv t := by
  unfold State.copyData at hx
  split at hx
  · cases hx
  · rename_i hs
    split at hx
    · cases hx
    · rename_i hd
      rw [← Except.ok.inj hx]
      exact ((h.spanPair hs).spanPair hd).segCopy.segWrite

theorem Inv.removeHarts {l} : Inv (s.removeHarts l) := h.foldl fun _ _ h => h.leave

theorem Inv.deliveryFail {l c} : Inv (s.deliveryFail l c) := by
  unfold State.deliveryFail
  split
  · exact h
  · exact h.ite h.updLaunch.removeHarts.finalize

theorem Inv.firmwareEnds {l e} : Inv (s.firmwareEnds l e) := by
  unfold State.firmwareEnds
  split
  · exact h.deliveryFail.ite h
  · exact h.deliveryFail.ite h
  · split
    · exact h
    · exact h.endLaunch.ite h

theorem Inv.moveHome {l c t} (hx : s.moveHome l c = some t) : Inv t := by
  unfold State.moveHome at hx
  split at hx
  · cases hx; exact h
  · split at hx
    · cases hx
    · cases hx
      exact h.updLaunch.mapRegions rfl (by rfl) fun r hr => by split <;> exact hr

/-- A launch's homes move one after another. -/
theorem Inv.moveHomes {l : Launch} {cs : List Nat} {t} (hx : cs.foldl (fun o c => o.bind fun s => s.moveHome l c) (some s) = some t) : Inv t := by
  induction cs generalizing s with
  | nil => cases hx; exact h
  | cons c cs ih =>
    simp only [List.foldl_cons, Option.bind_some] at hx
    cases hm : s.moveHome l c with
    | some u => exact ih (h.moveHome hm) (hm ▸ hx)
    | none =>
      have hn : ∀ cs, List.foldl (fun (o : Option State) c => o.bind fun s => s.moveHome l c) none cs = none := by
        intro cs
        induction cs with
        | nil => rfl
        | cons c cs ih => exact ih
      rw [hm, hn] at hx
      cases hx

theorem Inv.refitOne {r l} : Inv (s.refitOne r l).2 := by
  unfold State.refitOne
  split
  · exact h
  · dsimp only
    split
    · rename_i hm
      exact h.moveHomes hm
    · exact h.deliveryFail

theorem Inv.writeRecord {l} : Inv (s.writeRecord l) := by
  have hw : Inv (((s.updLaunch l.lid fun l => { l with recordDone := true }).segWrite (segsAt l.complAt 4 60) l.recordTail).segWrite
    (segsAt l.complAt 0 4) (bytesOf 0x504D4F43 4)) := h.updLaunch.segWrite.segWrite
  exact hw.ite hw.post

-- copies, weirs and engine operations

theorem Inv.weirCount {c l o n} : Inv (s.weirCount c l o n) := h.putAt

theorem Inv.weirLost {sig} : Inv (s.weirLost sig) := by
  unfold State.weirLost
  split
  · exact h.putAt
  · exact h

theorem Inv.askAll {gs} : Inv (s.askAll gs).1 := by
  induction gs generalizing s with
  | nil => exact h
  | cons g gs ih => exact ih h.rest

/-- An operation is dispatched: it begins at once, or waits for its turn. -/
theorem Inv.dispatch {i b ws rs w st dn run} (hrun : ∀ o t, Inv t → Inv (run o t).1) : Inv (s.dispatch i b ws rs w st dn run) := by
  unfold State.dispatch
  exact (Inv.rest (hrun _ _ (Inv.rest h.askAll))).ite (Inv.rest h.askAll)

theorem Inv.dispatchEngine {i b ws rs w tl run} (hrun : ∀ o t, Inv t → Inv (run o t).1) :
    Inv (s.dispatchEngine i b ws rs w tl run) := h.dispatch hrun

theorem Inv.sendFlit {r b} : Inv (s.sendFlit r b) := by
  unfold State.sendFlit
  dsimp only
  refine Inv.ite ?_ h.send
  split
  · exact h.post
  · exact h.post
  · exact h.post

theorem Inv.countFlits {l n} : Inv (s.countFlits l n) := h.updLaunch

theorem Inv.sendFor {l n r b} : Inv (s.sendFor l n r b) := h.sendFlit.ite h.sendFlit.countFlits

theorem Inv.endOp {i} : Inv (s.endOp i) := by
  unfold State.endOp
  split
  · exact h
  · dsimp only
    split
    · exact Inv.ite h.rest ((Inv.updLaunch h.rest).ite (Inv.post (Inv.updLaunch h.rest)))
    · exact h.rest

theorem Inv.arrived {i n} : Inv (s.arrived i n) := by
  unfold State.arrived
  split
  · exact h
  · split
    · exact h
    · dsimp only
      split
      · exact h.updOp.weirCount
      · exact h.updOp

theorem Inv.landBit {o k i} : Inv (s.landBit o k i) := by
  unfold State.landBit
  split
  · exact h.updHart
  · split
    · exact h
    · dsimp only
      split
      · rename_i hx
        exact (h.spanPair hx).onBehalf fun _ h => h.segWrite
      · exact h

theorem Inv.bump {d} : Inv (s.bump d) := by
  unfold State.bump
  split
  · exact h.setWord
  · exact h

theorem Inv.completeOp {o w st dn m g} : Inv (s.completeOp o w st dn m g) := by
  unfold State.completeOp
  have ht : Inv (match st with
      | some w' => s.onBehalf o.lid (·.segWrite [⟨w', 8⟩] (bytesOf w.toNat 8))
      | none => s) := by
    split
    · exact h.onBehalf fun _ h => h.segWrite
    · exact h
  exact ht.updHandles.bump.endOp.ite ht.updOp

theorem Inv.intoArray {a bs} : Inv (s.intoArray a bs) := h.segWrite

theorem Inv.putMesh {j o} : Inv (s.putMesh j o) := by
  unfold State.putMesh
  refine Inv.intoArray (Inv.foldl h.intoArray.intoArray.intoArray.intoArray fun _ _ h => ?_)
  split
  · exact h.segWrite
  · exact h

theorem Inv.putGhosts {j} : Inv (s.putGhosts j) := by
  refine h.foldl fun _ _ h => ?_
  dsimp only
  split
  · exact h
  · refine h.foldl fun _ _ h => ?_
    split
    · exact h.segWrite
    · exact h

theorem Inv.finishMesh {j} : Inv (s.finishMesh j).2.2 := by
  unfold State.finishMesh
  split
  · exact h
  · exact h
  · split
    · exact Inv.rest h.putGhosts
    · dsimp only
      split
      · exact h
      · exact h.putMesh

theorem Inv.takeShare {o m} : Inv (s.takeShare o m) := by
  unfold State.takeShare
  split
  · dsimp only
    split
    · exact Inv.rest h.finishMesh
    · exact h.rest
  · exact h

theorem Inv.meshArrive {f m} : Inv (s.meshArrive f m) := by
  unfold State.meshArrive
  split
  · exact h.countFlits.onBehalf fun _ h => h.takeShare
  · exact h.rest.ite (h.ite h.sendFlit)

theorem Inv.remapFrom {ty kids nc no old bad br new n fl rs} :
    Inv (State.remapFrom ty kids nc no old bad br new n fl rs s).2 := by
  induction rs generalizing s n fl with
  | nil => exact h
  | cons r rs ih =>
    unfold State.remapFrom
    dsimp only
    split
    · exact h
    · split
      · exact ih h
      · exact h
      · exact ih h.segWrite

theorem Inv.putColours {m r o c} : Inv (s.putColours m r o c).2 := by
  unfold State.putColours
  split
  · exact h
  · split
    · exact h
    · split
      · exact h
      · exact h.segWrite.segWrite.segWrite

theorem Inv.results {o : EngineOp} {w m g tl} : Inv (o.results w m g tl s).1 := h

theorem Inv.runCopy {sig src dst o} : Inv (runCopy sig src dst o s).1 := h.segReadVia.fill

theorem Inv.runPut {sig x n pa src o} : Inv (runPut sig x n pa src o s).1 := h.segReadVia.foldl fun _ _ h => h.sendFor

theorem Inv.runRows {k n src dst o} : Inv (runRows k n src dst o s).1 := h.segReadVia.fill

theorem Inv.runRepack {sig m w n g src old dst o} : Inv (runRepack sig m w n g src old dst o s).1 := h.segReadVia.fill

theorem Inv.goesOn {j : MeshJob} {o tl} : Inv (j.goesOn o tl s).1 := by
  unfold MeshJob.goesOn
  split
  · exact h
  · exact h.finishMesh.results

theorem Inv.runSettled {w g tl o} : Inv (runSettled w g tl o s).1 := h

theorem Inv.runSweep {n b seed gr tl o} : Inv (runSweep n b seed gr tl o s).1 := by
  unfold Machine.runSweep
  split
  · exact h
  · split
    · exact h
    · split
      · exact h
      · exact Inv.results h.updHandles

theorem Inv.runRead {m c dst tl o} : Inv (runRead m c dst tl o s).1 := by
  unfold Machine.runRead
  split
  · exact h
  · split
    · exact h
    · exact Inv.results (h.segWrite.updHandles.ite h.segWrite)

theorem Inv.startParts {j own tl o} : Inv (startParts j own tl o s).1 := by
  unfold Machine.startParts
  dsimp only
  split
  · exact Inv.results (h.foldl fun _ _ h => h.sendFor)
  · exact Inv.goesOn (Inv.rest (h.foldl fun _ _ h => h.sendFor))

theorem Inv.runJob {p tl o} : Inv (runJob p tl o s).1 := by
  unfold Machine.runJob
  dsimp only
  split
  · exact h.finishMesh.results
  · exact h.startParts

theorem Inv.runRemap {ty k nc no nn r old new tl o} : Inv (runRemap ty k nc no nn r old new tl o s).1 := h.remapFrom.results

theorem Inv.runColourGraph {m n ne r c out tl o} : Inv (runColourGraph m n ne r c out tl o s).1 := h.putColours.results

theorem Inv.runColourMesh {m n ne r out tl o} : Inv (runColourMesh m n ne r out tl o s).1 := h.putColours.results

theorem Inv.run {w : Work} {o tl} : Inv (w.run o tl s).1 := by
  unfold Work.run
  split
  · exact h.runSettled
  · exact h.runCopy
  · exact h.runRepack
  · exact h.runRows
  · exact h.runPut
  · exact h.runJob
  · split
    · exact h.runRemap
    · exact h.results
  · exact h.runColourMesh
  · exact h.runColourGraph
  · exact h.runSweep
  · exact h.runRead

theorem Inv.beginOp {o w tl} : Inv (s.beginOp o w tl) := by
  unfold State.beginOp
  exact Inv.rest h.withHart.run

-- meshes are read through their arrays

theorem Inv.arraySegs {tr : State → Nat → Except Nat (Loc × State)} (htr : ∀ s va loc t, Inv s → tr s va = .ok (loc, t) → Inv t)
    {rs gs t} (hx : s.arraySegs tr rs = .ok (gs, t)) : Inv t := by
  induction rs generalizing s gs with
  | nil => cases hx; exact h
  | cons r rs ih =>
    unfold State.arraySegs at hx
    split at hx
    · cases hx
    · rename_i hp
      split at hx
      · cases hx
      · split at hx
        · cases hx
        · rename_i hr
          cases hx
          exact ih (h.spanWith htr hp) hr

theorem Inv.readIn {sp : Space} {va loc t} (hx : sp.readIn s va = .ok (loc, t)) : Inv t := by
  unfold Space.readIn at hx
  split at hx
  · cases hx
  · exact h.xlateIn hx

theorem Inv.meshSegs {q gs t} (hx : s.meshSegs q = .ok (gs, t)) : Inv t := by
  unfold State.meshSegs at hx
  split at hx
  · cases hx
  · rename_i ha
    split at hx
    · cases hx
    · rename_i hb
      cases hx
      exact (h.arraySegs (fun _ _ _ _ h hx => h.readIn hx) ha).arraySegs (fun _ _ _ _ h hx => h.readIn hx) hb

theorem Inv.readMesh {q m gs t} (hx : s.readMesh q = .ok (m, gs, t)) : Inv t := by
  unfold State.readMesh at hx
  split at hx
  · cases hx
  · rename_i hm
    split at hx
    · cases hx
    · cases hx
      exact h.meshSegs hm

theorem Inv.openMesh {x m gs t} (hx : s.openMesh x = .ok (m, gs, t)) : Inv t := by
  unfold State.openMesh at hx
  split at hx
  · cases hx
  · split at hx
    · cases hx
    · rename_i ha
      split at hx
      · cases hx
      · split at hx
        · cases hx
        · split at hx
          · cases hx
          · rename_i hb
            split at hx
            · cases hx
            · cases hx
              exact (h.arraySegs (fun _ _ _ _ h hx => h.xlate hx) ha).arraySegs (fun _ _ _ _ h hx => h.xlate hx) hb

theorem Inv.storeMap {gs bs} : Inv (s.storeMap gs bs) := by
  induction gs generalizing s bs with
  | nil => exact h
  | cons g gs ih => exact ih ((h.foldl fun _ _ h => h.storeAt).ite h.storeAt)

end

end Sys2Proof
end

section
namespace Sys2Proof

open Machine

/-! The invariant, fourth part: collectives, membership, farms, the host's side, publications, power and vector runs; reset. -/

section
variable {s : State} (h : Inv s)
include h

-- collectives

theorem Inv.closeColl {c w} : Inv (s.closeColl c w) := by
  unfold State.closeColl
  dsimp only
  split
  · exact Inv.ite (Inv.post (Inv.rest h.bump)) (Inv.rest h.bump)
  · exact Inv.rest h.bump

theorem Inv.endColl {i w} : Inv (s.endColl i w) := by
  unfold State.endColl
  split
  · exact h
  · rename_i c _
    have ht : Inv (s.onBehalf c.lid (·.segWrite [⟨c.record.plus 0x30, 8⟩] (bytesOf w.toNat 8))) := h.onBehalf fun _ h => h.segWrite
    exact ht.closeColl.ite ht.updColl

theorem Inv.sendAll {l n b} : Inv (s.sendAll l n b) := h.foldl fun _ _ h => h.sendFor

theorem Inv.sourceRead {c} : Inv (s.sourceRead c) := h.ite (h.same (by rfl) (by rfl))

theorem Inv.sendShare {c} : Inv (s.sendShare c) := by
  unfold State.sendShare
  split
  · exact h.sendAll
  · exact h

theorem Inv.startColl {c} : Inv (s.startColl c) := by
  unfold State.startColl
  exact Inv.sendShare (Inv.foldl h.rest fun _ _ h => h.countFlits)

theorem Inv.putResult {c} : Inv (s.putResult c) := h.onBehalf fun _ h => h.segWrite

theorem Inv.completeColl {c} : Inv (s.completeColl c) := h.putResult.endColl.ite h.putResult.updColl

theorem Inv.slotWord {l j n gs t} (hx : s.slotWord l j n = some (gs, t)) : Inv t := by
  unfold State.slotWord at hx
  split at hx
  · cases hx
  · split at hx
    · cases hp : s.spanPair _ _ _ 8 .write with
      | error e => rw [hp] at hx; cases hx
      | ok q => rw [hp] at hx; cases hx; exact h.spanPair hp
    · cases hx

theorem Inv.inSlot {l j n f} : Inv (s.inSlot l j n f) := by
  unfold State.inSlot
  split
  · rename_i hx
    exact (h.slotWord hx).segWrite
  · exact h

theorem Inv.refuseHart {o x} : Inv (s.refuseHart o x) := by
  unfold State.refuseHart
  split
  · exact h.updHart.post
  · exact h.ite h.inSlot.inSlot

theorem Inv.discard {f} : Inv (s.discard f) := (h.same (by rfl) (by rfl)).ite h

theorem Inv.shareArrives {f e c n} : Inv (s.shareArrives f e c n) := by
  unfold State.shareArrives
  split
  · split
    · exact h.ite h.updColl.countFlits
    · exact h
  · exact (h.same (by rfl) (by rfl)).ite h

theorem Inv.heldArrives {f e c n} : Inv (s.heldArrives f e c n) := by
  unfold State.heldArrives
  split
  · exact h.ite h.updColl.countFlits
  · exact h

theorem Inv.dataArrives {f o k bs bad} : Inv (s.dataArrives f o k bs bad) := by
  unfold State.dataArrives
  split
  · split
    · have ht {l n dst} : Inv ((if f.sender = s.fabric.fid then s else s.countFlits l n).onBehalf l (·.fill dst bs bad)) :=
        (h.ite h.countFlits).onBehalf fun _ h => h.fill
      exact ht.arrived.ite ht.updOp
    · exact h
  · exact h

theorem Inv.doneArrives {f o n} : Inv (s.doneArrives f o n) := by
  unfold State.doneArrives
  split
  · split
    · exact (h.ite h.countFlits).arrived
    · exact h
  · exact h

theorem Inv.refusalArrives {f o} : Inv (s.refusalArrives f o) := by
  unfold State.refusalArrives
  split
  · exact h.ite (h.ite h.countFlits).post
  · exact h

theorem Inv.abortDest {c} : Inv (s.abortDest c) := by
  unfold State.abortDest
  exact h.ite (h.foldl fun _ _ h => Inv.ite (Inv.onBehalf h.rest fun _ h => h.segWrite) h.rest)

theorem Inv.policy {c} : Inv (s.policy c) := by
  unfold State.policy
  exact h.abortDest.endColl.ite (h.abortDest.endColl.ite (h.onBehalf fun _ h => h.askAll).updColl)

theorem Inv.settleColls {f} : Inv (s.settleColls f) := by
  refine h.foldl fun _ _ h => ?_
  split
  · exact h.endColl
  · exact h.completeColl.ite h.policy
  · exact h.policy

-- membership

theorem Inv.suspect {f} : Inv (s.suspect f) := by
  unfold State.suspect
  exact h.ite (h.updFabric.post.ite h.updFabric.send)

theorem Inv.propose : Inv s.propose := h.ite h.updFabric.send.post

theorem Inv.holdMember {w n} : Inv (s.holdMember w n) := by
  unfold State.holdMember
  split
  · exact h.updHart.post
  · exact h.inSlot

theorem Inv.renoteSlot {w n l j} : Inv (s.renoteSlot w n l j) := by
  unfold State.renoteSlot
  refine h.ite ?_
  dsimp only
  split
  · exact h.inSlot.inSlot.ite h.inSlot
  · exact h.inSlot

theorem Inv.renote {w} : Inv (s.renote w) := by
  unfold State.renote
  exact Inv.foldl h.rest fun _ _ h => h.foldl fun _ _ h => h.renoteSlot

theorem Inv.dropCopies : Inv s.dropCopies := by
  refine h.foldl fun _ _ h => ?_
  split
  · exact h.weirLost.endOp
  · exact h

theorem Inv.dropParts : Inv s.dropParts := h.same rfl rfl

theorem Inv.settleRequests : Inv s.settleRequests := h.updFabric

theorem Inv.resent : Inv s.resent := h.updFabric.post

theorem Inv.leaveView : Inv s.leaveView :=
  Inv.foldl (hf := fun _ _ h => h.holdMember) <| Inv.renote <| Inv.settleRequests <| Inv.dropParts <| Inv.dropCopies <|
    h.updFabric.foldl fun _ _ h => h.endColl

theorem Inv.adopt {t m q f} : Inv (s.adopt t m q f) := by
  unfold State.adopt
  refine Inv.resent (Inv.foldl (Inv.renote (Inv.settleRequests (Inv.ite (Inv.dropCopies ?_) ?_))) fun _ _ h => h.holdMember)
  · exact h.updFabric.dropParts.settleColls
  · exact h.updFabric.dropParts.settleColls

theorem Inv.holdAnswered {q f ps} : Inv (s.holdAnswered q f ps) := h.updFabric.send.post.ite h.updFabric

theorem Inv.holdAcked {q f} : Inv (s.holdAcked q f) := h.updFabric.ite (h.updFabric.propose.ite h.updFabric)

theorem Inv.takeRequest {f l} : Inv (s.takeRequest f l) := h.updFabric.ite h.updFabric.send

theorem Inv.updRequest {i f} : Inv (s.updRequest i f) := h.updFabric

theorem Inv.settle1 {f l d w} : Inv (s.settle1 f l d w) := h.updFabric.done1.withHart

theorem Inv.request {f l} : Inv (s.request f l) := by
  unfold State.request
  exact Inv.stall (Inv.rest h.updFabric)

theorem Inv.found : Inv s.found := h.updFabric

-- farms

theorem Inv.updFarm {g} : Inv (s.updFarm g) := by
  unfold State.updFarm
  split
  · exact h.updLaunch
  · exact h.rest

theorem Inv.passFarm : Inv s.passFarm := h.advance.withHart

-- hosts, devices and management

theorem Inv.putMgmt {p o bs} : Inv (s.putMgmt p o bs) := h.segWrite

theorem Inv.renewNonce {p} : Inv (s.renewNonce p) := by
  unfold State.renewNonce
  exact Inv.rest h.putMgmt

theorem Inv.answer {p r bs} : Inv (s.answer p r bs) := h.putMgmt.putMgmt.renewNonce.putMgmt

theorem Inv.command {p c f} (hf : Inv (f s).2.2) : InvNext (s.command p c f) := hf.answer.next.ite h.next

theorem Inv.keyset {p k r} : Inv (s.keyset p k r).2.2 := by
  unfold State.keyset
  dsimp only
  repeat' split
  · exact h
  · exact h
  · exact h
  · exact h.rest

theorem Inv.hostMoves {w a n} : Inv (s.hostMoves w a n) := h.updCoh

theorem Inv.hostRead {p a n} : Inv (s.hostRead p a n) := h.hostMoves.send

theorem Inv.hostWrite {p a bs} : Inv (s.hostWrite p a bs) := h.send.ite h.hostMoves.memPut.post

theorem Inv.finishInvals : Inv s.finishInvals := by
  unfold State.finishInvals
  exact Inv.send h.rest

theorem Inv.completed {q bs ok} : Inv (s.completed q bs ok) := by
  unfold State.completed
  dsimp only
  split
  · exact Inv.rest (h.updHart.ite h)
  · exact (h.updHart.ite h).send.ite h
  · exact h.updHart.ite h

theorem Inv.answerAsks {t bs} : Inv (s.answerAsks t bs) := h.same rfl rfl

-- progress words

theorem Inv.applyPub {p} : Inv (s.applyPub p) := h.setWord.ite h.moves

theorem Inv.publish {w b n} : Inv (s.publish w b n) := h.applyPub.ite (h.ite (h.same (by rfl) (by rfl)))

theorem Inv.publishOwn {w b n} : Inv (s.publishOwn w b n) := h.publish.ite h.publish.withBegun

-- power

theorem Inv.uncharge {b} : Inv (s.uncharge b) := by
  unfold State.uncharge
  exact Inv.rest (h.foldl fun _ _ h => h.updHart)

theorem Inv.endByTrip {l} : Inv (s.endByTrip l) := h.removeHarts.finalize.ite h.deliveryFail

theorem Inv.reportTrip {l} : Inv (s.reportTrip l) := by
  unfold State.reportTrip
  split
  · exact h
  · exact h.ite (h.writeRecord.ite h.logEvent.writeRecord)

theorem Inv.trip : Inv s.trip := by
  unfold State.trip
  exact Inv.post (Inv.journal (Inv.foldl (Inv.foldl h.rest fun _ _ h => h.endByTrip) fun _ _ h => h.reportTrip))

-- ends of vector instructions

theorem Inv.vecEnd {st c d} : Inv (s.vecEnd st c d) := by
  unfold State.vecEnd
  split
  · exact h.withHart.takeTrap
  · exact h.withHart.settleGauge.advance

theorem Inv.plainEnd {st} : Inv (s.plainEnd st) := h.vecEnd

theorem Inv.upToCut {acts st w last} (hl : ∀ t, Inv t → Inv (last t)) : Inv (s.upToCut acts st w last) := by
  unfold State.upToCut
  split
  · exact h.withHart
  · exact hl _ h.withHart

theorem Inv.vecRun {k srcs d v p} : Inv (s.vecRun k srcs d v p) := h.upToCut fun _ h => h.vecEnd

theorem Inv.vecWhole {st c d f} (hf : ∀ t, Inv t → Inv (f t)) : Inv (s.vecWhole st c d f) := by
  unfold State.vecWhole
  split
  · exact h.withHart.takeTrap
  · exact (hf _ h).withHart.settleGauge.advance

theorem Inv.updGibbs {q f} : Inv (s.updGibbs q f) := h.updHandles

theorem Inv.fdone {d r} : Inv (s.fdone d r) := h.raise.done1

theorem Inv.frelDone {r d a b f} : Inv (s.frelDone r d a b f) := h.fdone

theorem Inv.fmaDone {p q d a b c f} : Inv (s.fmaDone p q d a b c f) := h.fdone

end

/-- Nothing is in memory once power is removed. -/
theorem inv_kept (s : State) : Inv s.kept := ⟨rfl, fun r hr => by cases hr⟩

/-- Memory and scratchpad are empty at reset. -/
theorem inv_reset : Inv State.reset := ⟨State.reset_memWf, fun r hr => by cases hr⟩

end Sys2Proof
end

section
namespace Sys2Proof

open Machine

/-! The invariant, fifth part: meanings in `Act`. A rule for each way to compose them, then one fact for each that the model names. -/

/-- A meaning keeps the invariant, whether it ends, traps or waits, and what it ends with satisfies `Q`. -/
def Gives {α : Type} (m : Act α) (Q : α → Prop) : Prop :=
  ∀ s, Inv s → match m s with
    | .ok a t => Inv t ∧ Q a
    | .error _ t => Inv t

/-- A meaning keeps the invariant. -/
abbrev Keeps {α : Type} (m : Act α) : Prop := Gives m fun _ => True

section
variable {α β : Type} {P : α → Prop} {Q : β → Prop}

theorem gives_pure {b : β} (hb : Q b) : Gives (pure b) Q := fun _ hs => ⟨hs, hb⟩

theorem keeps_pure {a : α} : Keeps (pure a) := gives_pure trivial

theorem gives_throw {e : Stop} : Gives (throw e) Q := fun _ hs => hs

theorem Gives.bind {m : Act α} {k : α → Act β} (hm : Gives m P) (hk : ∀ a, P a → Gives (k a) Q) : Gives (m >>= k) Q := by
  intro s hs
  have h := hm s hs
  change match EStateM.bind m k s with
    | .ok b t => Inv t ∧ Q b
    | .error _ t => Inv t
  unfold EStateM.bind
  cases he : m s with
  | ok a t =>
    simp only [he] at h
    exact hk a h.2 t h.1
  | error e t =>
    simp only [he] at h
    exact h

theorem Keeps.bind {m : Act α} {k : α → Act β} (hm : Keeps m) (hk : ∀ a, Gives (k a) Q) : Gives (m >>= k) Q :=
  Gives.bind hm fun a _ => hk a

/-- A state that is read has the invariant. -/
theorem gives_get {k : State → Act β} (hk : ∀ s, Inv s → Gives (k s) Q) : Gives (get >>= k) Q := fun s hs => hk s hs s hs

theorem keeps_set {t : State} (ht : Inv t) : Keeps (set t : Act PUnit) := fun _ _ => ⟨ht, trivial⟩

theorem keeps_upd {f : State → State} (hf : ∀ s, Inv s → Inv (f s)) : Keeps (Act.upd f) := fun s hs => ⟨hf s hs, trivial⟩

theorem Gives.ite {p : Prop} [Decidable p] {m n : Act β} (hm : Gives m Q) (hn : Gives n Q) : Gives (if p then m else n) Q := by
  split
  · exact hm
  · exact hn

theorem keeps_mapM {f : α → Act β} (hf : ∀ a, Keeps (f a)) (l : List α) : Keeps (l.mapM f) := by
  induction l with
  | nil => exact keeps_pure
  | cons a l ih =>
    rw [List.mapM_cons]
    exact (hf a).bind fun _ => ih.bind fun _ => keeps_pure

theorem keeps_forM {f : α → Act PUnit} (hf : ∀ a, Keeps (f a)) (l : List α) : Keeps (l.forM f) := by
  induction l with
  | nil => exact keeps_pure
  | cons a l ih => exact (hf a).bind fun _ => ih

theorem keeps_map {f : α → β} {m : Act α} (hm : Keeps m) : Keeps (f <$> m) := by
  rw [map_eq_pure_bind]
  exact hm.bind fun _ => keeps_pure

theorem gives_trap {c v} : Gives (Act.trap c v) Q := gives_throw

theorem gives_trapThen {c v} {k : α → Act β} : Gives (Act.trap c v >>= k) Q := fun _ hs => hs

theorem gives_wait : Gives Act.wait Q := gives_throw

theorem keeps_check {b c v} : Keeps (Act.check b c v) := keeps_pure.ite gives_trap

theorem keeps_waitUntil {b} : Keeps (Act.waitUntil b) := keeps_pure.ite gives_wait

end

theorem Inv.actRun {s : State} (h : Inv s) {vector m} (hm : Keeps m) : InvNext (Act.run vector m s) := by
  have hr := hm s h
  unfold Act.run
  split at hr <;> rename_i hs <;> simp only [hs]
  · exact hr.1.withHart.next
  · split
    · rename_i e
      cases e
    · rename_i e
      cases e
      exact hr.withHart.takeTrap.next
    · rename_i e
      cases e
      exact hr.withHart.stall.next

-- accesses

theorem keeps_xlate {va acc lanes} : Keeps (Act.xlate va acc lanes) := by
  refine gives_get fun s hs => ?_
  split
  · rename_i hx
    exact (keeps_set (hs.xlateOnce hx)).bind fun _ => keeps_pure
  · exact gives_trap

theorem keeps_holding {α : Type} {Q : α → Prop} {acc vas lanes} {m : Act α} (hm : Gives m Q) : Gives (Act.holding acc vas m lanes) Q := by
  intro s hs
  have h := hm s hs
  unfold Act.holding
  cases he : m s with
  | ok a t => simpa only [he] using h
  | error e t =>
    simp only [he] at h
    cases e with
    | trap c v => exact h
    | wait a k =>
      by_cases hk : t.hart.begun.held.isSome
      · simp only [hk, if_true]
        exact h
      · simp only [hk]
        exact h.xlateAll.withBegun

theorem keeps_reach {va acc lanes} : Keeps (Act.reach va acc lanes) :=
  keeps_xlate.bind fun _ => gives_get fun _ _ => keeps_waitUntil.bind fun _ => keeps_pure

theorem gives_request {α : Type} {Q : α → Prop} {ats acc loc msg} : Gives (Act.request ats acc loc msg) Q := by
  refine gives_get fun s hs => ?_
  split
  · exact gives_wait
  · exact (keeps_set hs.rest).bind fun _ => gives_wait

theorem keeps_hostPage {p va acc} : Keeps (Act.hostPage p va acc) :=
  gives_get fun _ hs => ((keeps_set hs.withHart).bind fun _ => gives_trap).ite (gives_wait.ite (keeps_pure.ite gives_request))

theorem keeps_reply {acc loc msg} : Keeps (Act.reply acc loc msg) := by
  refine gives_get fun s hs => ?_
  split
  · exact (keeps_set hs.withHart).bind fun _ => keeps_pure
  · exact gives_request

theorem keeps_readAt {loc n lane} : Keeps (Act.readAt loc n lane) := by
  refine gives_get fun s hs => ?_
  split
  · exact (keeps_set hs.moves).bind fun _ => keeps_pure
  · exact keeps_pure
  · exact keeps_pure
  · exact keeps_reply
  · exact keeps_hostPage.bind fun _ => keeps_reply

theorem keeps_load {va loc n lane} : Keeps (Act.load va loc n lane) :=
  gives_get fun _ _ => keeps_check.bind fun _ => keeps_readAt.bind fun _ => keeps_pure

theorem keeps_storePage {loc} : Keeps (Act.storePage loc) := by
  unfold Act.storePage
  split
  · exact keeps_hostPage
  · exact keeps_pure

theorem keeps_store {loc bs} : Keeps (Act.store loc bs) := keeps_storePage.bind fun _ => keeps_upd fun _ h => h.storeAt

theorem keeps_drain : Keeps Act.drain := gives_get fun _ _ => keeps_waitUntil

theorem keeps_release {o} : Keeps (Act.release o) := keeps_drain.ite keeps_pure

theorem keeps_drainIo : Keeps Act.drainIo := gives_get fun _ _ => keeps_waitUntil

theorem keeps_granule {n} : Keeps (Act.granule n) := by
  refine gives_get fun s hs => ?_
  have hc {n : Nat} : Keeps (Act.upd (·.countGranule n)) := keeps_upd fun _ h => h.countGranule
  split
  · exact keeps_pure
  · refine Gives.ite (Gives.ite ?_ ?_) hc
    · exact (keeps_set hs.updLaunch.withHart).bind fun _ => hc
    · exact (keeps_set hs.updLaunch).bind fun _ => gives_trapThen

theorem keeps_span {va n acc lanes} : Keeps (Act.span va n acc lanes) := by
  refine gives_get fun s hs => ?_
  split
  · rename_i hx
    exact (keeps_set (hs.spanWith (fun _ _ _ _ h hx => h.xlateOnce hx) hx)).bind fun _ => keeps_pure
  · exact gives_trap

theorem keeps_rangesBy {f rs} (hf : ∀ i r, Keeps (f i r)) : Keeps (Act.rangesBy f rs) :=
  Keeps.bind (keeps_mapM (fun i => (hf i _).bind fun _ => keeps_pure) _) fun _ => keeps_pure

theorem keeps_ranges {rs} : Keeps (Act.ranges rs) := keeps_rangesBy fun _ _ => keeps_span

theorem keeps_reachAll {va n acc lanes} : Keeps (Act.reachAll va n acc lanes) :=
  keeps_span.bind fun _ => gives_get fun _ _ => keeps_waitUntil.bind fun _ => keeps_pure

theorem keeps_pushAll {ls} : Keeps (Act.pushAll ls) := by
  induction ls with
  | nil => exact keeps_pure
  | cons l ls ih => exact keeps_storePage.bind fun _ => ih

theorem keeps_grantReads {gs} : Keeps (Act.grantReads gs) := by
  induction gs with
  | nil => exact keeps_pure
  | cons g gs ih =>
    unfold Act.grantReads
    dsimp only
    split
    · exact keeps_hostPage.bind fun _ => ih
    · exact ih

/-- Pieces whose acts keep the invariant are performed in order. -/
theorem keeps_perform {mark ps} (hmark : ∀ p s, Inv s → Inv (mark p s)) (hps : ∀ p ∈ ps, ∀ s, Inv s → Inv (Piece.act p s)) :
    Keeps (Act.perform mark ps) := by
  induction ps with
  | nil => exact keeps_pure
  | cons p ps ih =>
    refine gives_get fun _ _ => Gives.ite ?_ ?_
    · exact (keeps_upd (hmark p)).bind fun _ => gives_throw
    · exact (keeps_upd (hps p List.mem_cons_self)).bind fun _ => ih fun q hq => hps q (List.mem_cons_of_mem p hq)

theorem inv_markStored {p : Piece} {s : State} (h : Inv s) : Inv (markStored p s) := h.withBegun

theorem keeps_pull {gs lane} : Keeps (Act.pull gs lane) := by
  induction gs with
  | nil => exact keeps_pure
  | cons g gs ih => exact keeps_readAt.bind fun _ => ih.bind fun _ => keeps_pure

theorem keeps_keep {α : Type} {m : Act α} (hm : Keeps m) : Keeps m.keep := by
  intro s hs
  have h := hm s hs
  unfold Act.keep
  cases he : m s with
  | ok a t => simpa only [he] using h
  | error e t =>
    simp only [he] at h
    cases e with
    | trap c v => exact h
    | wait a k => exact h

theorem keeps_attempt {α : Type} {m : Act α} (hm : Keeps m) : Keeps m.attempt := by
  intro s hs
  have h := hm s hs
  unfold Act.attempt
  cases he : m s with
  | ok a t =>
    simp only [he] at h
    exact ⟨h.1, trivial⟩
  | error e t =>
    simp only [he] at h
    cases e with
    | trap c v => exact ⟨h, trivial⟩
    | wait a k => exact h

-- weirs, remote places, progress words and handles

theorem keeps_weirAt {x} : Keeps (Act.weirAt x) := by
  refine gives_get fun s hs => ?_
  split
  · exact gives_trap
  · exact keeps_check.bind fun _ => keeps_pure

theorem keeps_signal {k x} : Keeps (Act.signal k x) := by
  refine Gives.ite (keeps_weirAt.bind fun _ => ?_) (keeps_check.bind fun _ => keeps_pure)
  split
  · exact keeps_pure
  · exact gives_trap

theorem keeps_signalWord {k x sig} : Keeps (Act.signalWord k x sig) :=
  (keeps_xlate.bind fun _ => keeps_check.bind fun _ => keeps_pure).ite keeps_pure

theorem keeps_remote {x n} : Keeps (Act.remote x n) := gives_get fun _ _ => keeps_check.bind fun _ => keeps_pure

theorem keeps_bound {k} : Keeps (Act.bound k) := gives_get fun _ _ => keeps_check.bind fun _ => keeps_pure

theorem keeps_wordPlace {va acc} : Keeps (Act.wordPlace va acc) :=
  keeps_reach.bind fun _ => keeps_check.bind fun _ => keeps_pure

theorem keeps_applied : Keeps Act.applied := gives_get fun _ _ => keeps_waitUntil

theorem keeps_meshHandle {x} : Keeps (Act.meshHandle x) := by
  refine gives_get fun s hs => ?_
  split
  · exact keeps_pure
  · exact gives_trap

theorem keeps_gibbsHandle {x} : Keeps (Act.gibbsHandle x) := by
  refine gives_get fun s hs => ?_
  split
  · exact keeps_pure
  · exact gives_trap

theorem keeps_idle {n} : Keeps (Act.idle n) := gives_get fun _ _ => keeps_waitUntil

theorem keeps_noPoison {va n gs} : Keeps (Act.noPoison va n gs) := by
  refine gives_get fun s hs => ?_
  split
  · exact gives_trap
  · exact keeps_pure

theorem keeps_fetchRange {va n} : Keeps (Act.fetchRange va n) :=
  keeps_span.bind fun _ => keeps_noPoison.bind fun _ => keeps_pull.bind fun _ => keeps_pure

theorem keeps_ownRange {va n lane} : Keeps (Act.ownRange va n lane) :=
  keeps_reachAll.bind fun _ => keeps_noPoison.bind fun _ => keeps_pull.bind fun _ => keeps_pure

theorem keeps_block {x r} : Keeps (Act.block x r) :=
  keeps_check.bind fun _ => keeps_fetchRange.bind fun _ => keeps_check.bind fun _ => keeps_pure

theorem keeps_tail {b gs} : Keeps (Act.tail b gs) := keeps_check.bind fun _ => keeps_pure

theorem keeps_spanIn {sp va n} : Keeps (Act.spanIn sp va n) := by
  refine gives_get fun s hs => ?_
  split
  · rename_i hx
    exact (keeps_set (hs.spanWith (fun _ _ _ _ h hx => h.readIn hx) hx)).bind fun _ => keeps_pure
  · exact gives_trap

-- scalar instructions

theorem keeps_waitw {d a b} : Keeps (waitw d a b) := by
  refine gives_get fun s hs => keeps_check.bind fun _ => keeps_reach.bind fun loc => ?_
  have hl : Keeps (do
      let v ← Act.load (s.rx a).toNat loc 8
      if wordOfNat v = s.rx b then throw (.wait true false) else Act.upd (·.done1 d (wordOfNat v))) :=
    keeps_load.bind fun _ => gives_throw.ite (keeps_upd fun _ h => h.done1)
  dsimp only
  split
  · exact gives_trapThen
  · exact hl

theorem keeps_scalarPlace {va n acc} : Keeps (scalarPlace va n acc) :=
  keeps_granule.bind fun _ => keeps_check.bind fun _ => keeps_reach.bind fun _ => gives_get fun _ _ =>
    keeps_waitUntil.bind fun _ => keeps_pure

theorem keeps_loadScalar {n g d a o} : Keeps (loadScalar n g d a o) :=
  gives_get fun _ _ => Keeps.bind (keeps_holding (keeps_scalarPlace.bind fun _ => keeps_load)) fun _ => keeps_upd fun _ h => h.done1

theorem keeps_storeScalar {n src a o} : Keeps (storeScalar n src a o) :=
  gives_get fun _ _ => Keeps.bind (keeps_holding (keeps_scalarPlace.bind fun _ => keeps_store)) fun _ => keeps_upd fun _ h => h.advance

theorem keeps_atomicAt {o va n acc pcie f} : Keeps (atomicAt o va n acc pcie f) := by
  refine keeps_release.bind fun _ => keeps_holding (keeps_scalarPlace.bind fun loc => ?_)
  split
  · exact gives_trap
  · split
    · exact gives_trap
    · exact keeps_hostPage.bind fun _ => gives_get fun _ _ => keeps_reply.bind fun _ => keeps_pure
  · refine gives_get fun s hs => keeps_check.bind fun _ => Keeps.bind (keeps_upd fun _ h => h.moves) fun _ => ?_
    dsimp only
    split
    · exact Keeps.bind (keeps_upd fun _ h => h.putAt) fun _ => keeps_pure
    · exact keeps_pure

theorem keeps_amo {g pcie f d a b o z} : Keeps (amo g pcie f d a b o z) :=
  gives_get fun _ _ => keeps_atomicAt.bind fun _ => keeps_upd fun _ h => h.done1

theorem keeps_weirwt {d a b} : Keeps (weirwt d a b) :=
  gives_get fun _ _ => keeps_drain.bind fun _ => keeps_granule.bind fun _ => keeps_weirAt.bind fun _ => keeps_load.bind fun _ =>
    keeps_waitUntil.bind fun _ => keeps_upd fun _ h => h.done1

theorem keeps_vwmwait {d a b} : Keeps (vwmwait d a b) :=
  keeps_drain.bind fun _ => keeps_granule.bind fun _ => keeps_bound.bind fun _ => keeps_wordPlace.bind fun _ =>
    keeps_load.bind fun _ => gives_get fun _ _ => keeps_waitUntil.bind fun _ => keeps_upd fun _ h => h.done1

theorem keeps_mswait {d a} : Keeps (mswait d a) :=
  gives_get fun _ _ => keeps_meshHandle.bind fun _ => keeps_idle.bind fun _ => keeps_upd fun _ h => h.done1

theorem keeps_gwait {d a} : Keeps (gwait d a) :=
  gives_get fun _ _ => keeps_gibbsHandle.bind fun _ => keeps_idle.bind fun _ => keeps_upd fun _ h => h.done1

theorem keeps_cwait {d a} : Keeps (cwait d a) := by
  refine gives_get fun _ _ => keeps_check.bind fun _ => keeps_reach.bind fun _ => ?_
  dsimp only
  split
  · split
    · exact keeps_upd fun _ h => h.done1
    · exact gives_wait
  · exact keeps_load.bind fun _ => keeps_upd fun _ h => h.done1

end Sys2Proof
end

section
namespace Sys2Proof

open Machine

/-! The invariant, sixth part: accesses that go through elements (R273, R348, R390). -/

/-- What a unit of an access has prepared keeps the invariant when it is performed. -/
def KeepsWhenPerformed (q : Prepared) : Prop := ∀ s, Inv s → Inv (q.2 s)

theorem keepsWhenPerformed_withHart {loc : Option Loc} {f : Hart → Hart} : KeepsWhenPerformed (loc, (·.withHart f)) :=
  fun _ h => h.withHart

-- the elements of a vector memory access

theorem keeps_performGranule {ps} (hps : ∀ p ∈ ps, ∀ s, Inv s → Inv (Piece.act p s)) : Keeps (Act.performGranule ps) :=
  Keeps.bind (keeps_perform (fun _ _ h => h.setVstart.withBegun) hps) fun _ => keeps_upd fun _ h => h.withBegun

theorem keeps_committed {p commit n} (hc : ∀ n s, Inv s → Inv (commit n s)) : Keeps (Act.committed p commit n) :=
  gives_get fun _ _ => gives_throw.ite (keeps_upd (hc n))

theorem keeps_stopAt {c} : Keeps (Act.stopAt c) := Keeps.bind (keeps_upd fun _ h => h.withHart) fun _ => gives_throw

/-- The end of a meaning keeps the invariant, and what it ends with satisfies `Q`. -/
def Ends {α : Type} (Q : α → Prop) : EStateM.Result Stop State α → Prop
  | .ok a t => Inv t ∧ Q a
  | .error _ t => Inv t

theorem gives_iff_ends {α : Type} {m : Act α} {Q : α → Prop} : Gives m Q ↔ ∀ s, Inv s → Ends Q (m s) := Iff.rfl

theorem gives_ite_pos {α : Type} {p : Prop} [Decidable p] {m n : Act α} {Q : α → Prop} (hp : p) :
    Gives (if p then m else n) Q ↔ Gives m Q := by rw [if_pos hp]

theorem gives_ite_neg {α : Type} {p : Prop} [Decidable p] {m n : Act α} {Q : α → Prop} (hp : ¬ p) :
    Gives (if p then m else n) Q ↔ Gives n Q := by rw [if_neg hp]

theorem keeps_keepActives {acts} {m : Act Unit} (hm : Keeps m) : Keeps (Act.keepActives acts m) := by
  intro s hs
  have h := hm s hs
  unfold Act.keepActives
  cases he : m s with
  | ok a t => simpa only [he] using h
  | error e t =>
    simp only [he] at h
    cases e with
    | trap c v => exact h
    | wait a k => exact h.withBegun

section
variable {w : Nat} {publishes : Bool} {prep : Nat → Act Prepared} {commit : Nat → Perform}
variable (hprep : ∀ i, Gives (prep i) KeepsWhenPerformed) (hc : ∀ n s, Inv s → Inv (commit n s))
include hprep hc

/-- An element of the granule that has begun: its preparation ends, traps or waits, and what was pending performs. -/
theorem keeps_elements_cons {i : Nat} {is : List Nat} {start : Nat} {rep : List Reply} {pend : List Piece}
    (ih : ∀ {gran start rep pend}, (∀ p ∈ pend, ∀ s, Inv s → Inv (Piece.act p s)) →
      Keeps (elements w publishes prep commit is gran start rep pend))
    (hpend : ∀ p ∈ pend, ∀ s, Inv s → Inv (Piece.act p s)) :
    Keeps (elements w publishes prep commit (i :: is) (some (i * w / 8192)) start rep pend) := by
  have hrev : ∀ p ∈ pend.reverse, ∀ s, Inv s → Inv (Piece.act p s) := fun p hp => hpend p (List.mem_reverse.mp hp)
  unfold elements
  refine (gives_ite_pos rfl).mpr (gives_iff_ends.mpr fun s hs => ?_)
  have hp := gives_iff_ends.mp (hprep i) s hs
  beta_reduce
  split
  next loc f t he =>
    simp only [he] at hp
    obtain ⟨ht, hf⟩ := hp
    split
    · refine Keeps.bind (keeps_performGranule fun p hp => ?_) (fun _ => Keeps.bind (keeps_upd fun _ h => h.setVstart) fun _ =>
        gives_get fun _ _ => Gives.ite gives_throw (ih (List.forall_mem_nil _))) t ht
      rcases List.mem_append.mp hp with hp | hp
      · exact hrev p hp
      · cases List.mem_singleton.mp hp
        exact hf
    · refine ih (fun p hp => ?_) t ht
      rcases List.mem_cons.mp hp with rfl | hp
      · exact hf
      · exact hpend p hp
  next c v t he =>
    simp only [he] at hp
    exact Keeps.bind (keeps_performGranule hrev) (fun _ => Keeps.bind (keeps_upd fun _ h => h.setVstart) fun _ =>
      (keeps_committed hc).bind fun _ => gives_trap) t hp
  next b t he =>
    simp only [he] at hp
    exact Keeps.bind (keeps_performGranule hrev) (fun _ => Keeps.bind (keeps_upd fun _ h => h.setVstart.withHart) fun _ =>
      gives_throw) t hp
  next b t he =>
    simp only [he] at hp
    exact Inv.withHart (Inv.setVstart hp)

theorem keeps_elements {is : List Nat} {gran : Option Nat} {start : Nat} {rep : List Reply} {pend : List Piece}
    (hpend : ∀ p ∈ pend, ∀ s, Inv s → Inv (Piece.act p s)) : Keeps (elements w publishes prep commit is gran start rep pend) := by
  have hrev {pend : List Piece} (hpend : ∀ p ∈ pend, ∀ s, Inv s → Inv (Piece.act p s)) :
    ∀ p ∈ pend.reverse, ∀ s, Inv s → Inv (Piece.act p s) := fun p hp => hpend p (List.mem_reverse.mp hp)
  induction is generalizing gran start rep pend with
  | nil => exact keeps_performGranule (hrev hpend)
  | cons i is ih =>
    have hin {start rep pend} (hpend : ∀ p ∈ pend, ∀ s, Inv s → Inv (Piece.act p s)) :=
      keeps_elements_cons hprep hc (i := i) (start := start) (rep := rep) ih hpend
    by_cases hg : gran = some (i * w / 8192)
    · exact hg ▸ hin hpend
    · unfold elements
      refine (gives_ite_neg hg).mpr ((keeps_performGranule (hrev hpend)).bind fun _ => gives_get fun s _ => ?_)
      split
      · exact Keeps.bind (keeps_upd fun _ h => h.setVstart) fun _ => (keeps_committed hc).bind fun _ => keeps_stopAt
      · refine Keeps.bind (keeps_upd fun _ h => h.setVstart) fun _ => (keeps_committed hc).bind fun _ => gives_throw.ite ?_
        refine keeps_granule.bind fun _ => gives_get fun t _ => ?_
        have hgo := hin (start := max s.hart.vstart (granuleStart w i)) (rep := t.hart.replies) (pend := []) (List.forall_mem_nil _)
        unfold elements at hgo
        exact (gives_ite_pos rfl).mp hgo

theorem keeps_access {g srcs units last} (hl : Keeps last) : Keeps (Act.access g srcs units prep commit last publishes) := by
  have hend : Keeps (last >>= fun _ => Act.upd fun s => (s.setVstart 0).advance) := hl.bind fun _ => keeps_upd fun _ h => h.setVstart.advance
  refine gives_get fun s hs => (keeps_keepActives (keeps_elements hprep hc (List.forall_mem_nil _))).bind fun _ => ?_
  dsimp only
  split
  · exact Keeps.bind (keeps_upd fun _ h => h.setVstart) fun _ => (keeps_committed hc).bind fun _ => gives_trapThen
  · exact hend

end

theorem keeps_dispatch {acc vas} {m : Act Unit} (hm : Keeps m) : Keeps (Act.dispatch acc vas m) :=
  keeps_drain.bind fun _ => keeps_holding hm

theorem Inv.mendBelow {s : State} (h : Inv s) {stores n} : Inv (mendBelow stores n s) := h.mend

theorem keeps_storing {g srcs units vas prep stores} (hprep : ∀ i, Gives (prep i) KeepsWhenPerformed) :
    Keeps (Act.storing g srcs units vas prep stores) :=
  gives_get fun _ _ => keeps_dispatch (keeps_access hprep (fun _ _ h => h.mendBelow) (keeps_upd fun _ h => h.mendBelow))

end Sys2Proof
end

section
namespace Sys2Proof

open Machine

/-! The invariant, seventh part: vector loads and stores. -/

-- vector loads

theorem keeps_opens {lane wva word g i} : Keeps (Act.opens lane wva word g i) :=
  gives_get fun _ _ => keeps_pure.ite (keeps_load.bind fun _ => keeps_waitUntil.bind fun _ => keeps_upd fun _ h => h.withBegun)

theorem gives_withHart {loc : Option Loc} {f : Hart → Hart} :
    Gives (pure (loc, (·.withHart f)) : Act Prepared) KeepsWhenPerformed := gives_pure keepsWhenPerformed_withHart

theorem gives_loadElem {c d eb mode addr idx i} : Gives (loadElem c d eb mode addr idx i) KeepsWhenPerformed := by
  refine keeps_check.bind fun _ => keeps_reach.bind fun loc => keeps_check.bind fun _ => ?_
  dsimp only
  split
  · exact keeps_opens.bind fun _ => gives_withHart.ite
      (Gives.ite ((keeps_keep keeps_load).bind fun _ => gives_withHart) (keeps_load.bind fun _ => gives_withHart))
  · exact gives_withHart.ite
      (Gives.ite ((keeps_keep keeps_load).bind fun _ => gives_withHart) (keeps_load.bind fun _ => gives_withHart))

theorem gives_loadSliced {c d a p i} : Gives (loadSliced c d a p i) KeepsWhenPerformed := by
  refine gives_get fun s _ => Keeps.bind (keeps_mapM (fun j => keeps_reach.bind fun loc => ?_) _) fun _ => gives_withHart
  exact Gives.ite ((keeps_keep keeps_load).bind fun _ => keeps_pure) (keeps_load.bind fun _ => keeps_pure)

theorem keeps_planeStride {si} : Keeps (Act.planeStride si) :=
  gives_get fun _ _ => keeps_pure.ite (keeps_check.bind fun _ => keeps_pure)

theorem inv_noCommit (n : Nat) (s : State) (h : Inv s) : Inv (noCommit n s) := h

/-- The accesses of a load go through elements that keep the invariant. -/
theorem keeps_accessLoad {g srcs units prep} (hprep : ∀ i, Gives (prep i) KeepsWhenPerformed) :
    Keeps (Act.access g srcs units prep noCommit (pure ())) := keeps_access hprep inv_noCommit keeps_pure

theorem keeps_gate {k g} : Keeps (Act.gate k g) := by
  refine keeps_bound.bind fun va => gives_get fun s hs => ?_
  split
  · exact keeps_pure
  · have hw := keeps_wordPlace (va := va) (acc := .read) s hs
    split
    · rename_i ht
      simp only [ht] at hw
      exact (keeps_set hw.1).bind fun _ => keeps_pure
    · rename_i ht
      simp only [ht] at hw
      exact (keeps_set (Inv.setVstart hw)).bind fun _ => gives_throw

-- vector stores

theorem gives_storePlace {c v eb ioOk addr i} : Keeps (storePlace c v eb ioOk addr i) := by
  refine keeps_check.bind fun _ => keeps_reach.bind fun _ => keeps_check.bind fun _ => keeps_storePage.bind fun _ =>
    gives_get fun _ _ => ?_
  dsimp only
  split
  · exact gives_trapThen
  · exact keeps_pure

theorem gives_storeElem {c v eb ioOk addr i} : Gives (storeElem c v eb ioOk addr i) KeepsWhenPerformed :=
  gives_storePlace.bind fun _ => gives_get fun _ _ => gives_pure fun _ h => h.storeAt

theorem gives_storeAny {c v eb addr acts i} : Gives (storeAny c v eb addr acts i) KeepsWhenPerformed :=
  gives_storePlace.bind fun _ => gives_get fun _ _ => gives_pure fun _ h =>
    Inv.ite (Inv.ite (Inv.storeAt h.rest) h.rest) h.storeAt

/-- A byte that is read to merge the bits of a group of eight. -/
theorem keeps_readMerged {q : Loc × Nat} {p : Prop} [Decidable p] : Keeps (if p then
    natOfBytes <$> (if q.1.isIo then (Act.readAt q.1 1).keep else Act.readAt q.1 1) else pure 0) :=
  Gives.ite (keeps_map ((keeps_keep keeps_readAt).ite keeps_readAt)) keeps_pure

theorem gives_storeSliced {c v a p acts i} : Gives (storeSliced c v a p acts i) KeepsWhenPerformed := by
  refine gives_get fun _ _ => Keeps.bind (keeps_mapM (fun _ => keeps_reach.bind fun _ => keeps_storePage.bind fun _ => keeps_pure) _)
    fun places => ?_
  dsimp only
  split
  · exact gives_trapThen
  · exact Keeps.bind (keeps_mapM (fun _ => keeps_readMerged) _) fun _ => gives_pure fun _ h => h.foldl fun _ _ h => h.storeAt

section
variable {s : State} (h : Inv s)
include h

-- the instructions that load and store vectors

theorem Inv.vld {word mode d a si g w} : InvNext (vld word mode d a si g w s) :=
  h.illegalWord.ite (h.actRun (Gives.ite
    (keeps_planeStride.bind fun _ => keeps_dispatch (keeps_accessLoad fun _ => gives_loadSliced))
    (keeps_dispatch (keeps_accessLoad fun _ => gives_loadElem))))

theorem Inv.vldWm {d a g w m} : InvNext (vldWm d a g w m s) :=
  h.illegalWord.ite (h.actRun (keeps_dispatch (keeps_gate.bind fun _ => keeps_accessLoad fun _ => gives_loadElem)))

theorem Inv.whenFreeIf {p : Prop} [Decidable p] {ms a} (ha : InvNext a) : InvNext (if p then s.whenFree ms a else a) :=
  (h.whenFree ha).ite ha

theorem Inv.vldx {word mode dup d a vi g w} : InvNext (vldx word mode dup d a vi g w s) :=
  h.illegalWord.ite (h.whenFreeIf (h.actRun (keeps_dispatch (keeps_accessLoad fun _ =>
    gives_loadElem.bind fun _ hq => gives_pure fun s hs => Inv.ite (hq s hs).withHart (hq s hs)))))

theorem Inv.vldxWm {d a vi ci g w m} : InvNext (vldxWm d a vi ci g w m s) :=
  h.illegalWord.ite (h.actRun (keeps_dispatch (keeps_gate.bind fun _ => keeps_accessLoad fun _ => gives_loadElem)))

theorem Inv.vst {word v a si g w} : InvNext (vst word v a si g w s) :=
  h.illegalWord.ite (h.actRun (Gives.ite
    (keeps_planeStride.bind fun _ => keeps_storing fun _ => gives_storeSliced)
    (keeps_storing fun _ => gives_storeElem)))

theorem Inv.execVstU {d a s0 c g w} : InvNext (execVstU d a s0 c g w s) :=
  h.illegalWord.ite (h.actRun (keeps_storing fun _ => gives_storeAny))

theorem Inv.vstx {word v a vi g w} : InvNext (vstx word v a vi g w s) :=
  h.illegalWord.ite (h.actRun (keeps_storing fun _ => gives_storeElem))

theorem Inv.execVstxU {d a s0 c g w} : InvNext (execVstxU d a s0 c g w s) :=
  h.illegalWord.ite (h.actRun (keeps_storing fun _ => gives_storeAny))

theorem Inv.execVstNt {d a m c g w} : InvNext (execVstNt d a m c g w s) := by
  refine h.illegalWord.ite (h.actRun ?_)
  have hend : Keeps (Act.upd fun s => (s.setVstart 0).advance) := keeps_upd fun _ h => h.setVstart.advance
  split
  · exact keeps_applied.bind fun _ => hend
  · have hacc {word stores} {publish : Nat → Perform} (hp : ∀ n t, Inv t → Inv (publish n t)) : Keeps (Act.access g []
        id (storeElem s.hart.cfg d (2 ^ w.toNat) false (s.strideAddr a 0 (2 ^ w.toNat))) publish (do
          Act.upd (·.setVstart s.hart.vl)
          Act.drain.keep
          Act.upd fun t => (Machine.mendBelow stores s.hart.vl t).publishOwn word (s.hart.wmBase m) s.hart.vl
          Act.applied.keep) true) :=
      keeps_access (fun _ => gives_storeElem) hp (Keeps.bind (keeps_upd fun _ h => h.setVstart) fun _ =>
        (keeps_keep keeps_drain).bind fun _ => Keeps.bind (keeps_upd fun _ h => h.mendBelow.publishOwn) fun _ =>
        keeps_keep keeps_applied)
    have hpub {n word stores} {p : Prop} [Decidable p] (t : State) (h : Inv t) :
        Inv (if p then (Machine.mendBelow stores n t).publish word (s.hart.wmBase m) n else Machine.mendBelow stores n t) :=
      h.mendBelow.publish.ite h.mendBelow
    exact keeps_bound.bind fun va => hend.ite (keeps_dispatch (keeps_wordPlace.bind fun _ =>
      Gives.ite (keeps_load.bind fun _ => hacc fun _ => hpub) (hacc fun _ => hpub)))

end

end Sys2Proof
end

section
namespace Sys2Proof

open Machine

/-! The invariant, eighth part: vector atomics, combining scatters and the events of atomics. -/

-- vector atomics and combining scatters

theorem keeps_atomicPlace {eb va} : Keeps (atomicPlace eb va) :=
  keeps_check.bind fun _ => keeps_reach.bind fun _ => keeps_check.bind fun _ => keeps_pure

theorem keeps_scatterPlaces {c v eb addr acts} : Keeps (scatterPlaces c v eb addr acts) := by
  refine keeps_mapM (fun _ => keeps_atomicPlace.bind fun _ => gives_get fun _ _ => ?_) _
  split
  · exact gives_trap
  · exact keeps_pure

theorem Inv.scatterUpdate {eb val comb ps} {s : State} (h : Inv s) : Inv (scatterUpdate eb val comb ps s) := by
  induction ps generalizing s with
  | nil => exact h
  | cons p ps ih => exact ih h.moves.putAt.raise

theorem gives_atomicElem {c v eb ret op addr i} : Gives (atomicElem c v eb ret op addr i) KeepsWhenPerformed := by
  refine keeps_atomicPlace.bind fun _ => gives_get fun _ _ => keeps_check.bind fun _ => ?_
  dsimp only
  split
  · exact gives_trapThen
  · exact gives_pure fun _ h => h.moves.putAt.raise.withHart.ite h.moves.putAt.raise

section
variable {s : State} (h : Inv s)
include h

theorem Inv.vamo {base op d a vi c r g w} : InvNext (vamo base op d a vi c r g w s) :=
  h.illegalWord.ite (h.actRun (keeps_dispatch (keeps_accessLoad fun _ => gives_atomicElem)))

theorem Inv.execVatfadd {d a vi c r g w} : InvNext (execVatfadd d a vi c r g w s) := by
  unfold Machine.execVatfadd
  exact h.vamo

theorem Inv.scatter {word ok comb v a vi g w} : InvNext (scatter word ok comb v a vi g w s) := by
  refine h.illegalWord.ite (h.actRun (keeps_dispatch (Keeps.bind (keeps_forM (fun _ => keeps_granule) _) fun _ =>
    keeps_scatterPlaces.bind fun places => ?_)))
  dsimp only
  split
  · exact gives_trapThen
  · refine gives_get fun _ _ => ?_
    split
    · exact gives_trapThen
    · exact Keeps.bind (keeps_upd fun _ h => h.raise) fun _ => Keeps.bind (keeps_upd fun _ h => h.scatterUpdate) fun _ =>
        keeps_upd fun _ h => h.setVstart.advance

theorem Inv.execVstxFadd {d a vi c g w} : InvNext (execVstxFadd d a vi c g w s) := by
  unfold Machine.execVstxFadd
  exact h.scatter

theorem Inv.execCas {d a b c o n z} : InvNext (execCas d a b c o n z s) :=
  h.actRun (keeps_atomicAt.bind fun _ => keeps_upd fun _ h => h.done1)

theorem Inv.execAtfadd {d a b o n z} : InvNext (execAtfadd d a b o n z s) :=
  h.actRun (keeps_atomicAt.bind fun _ => keeps_upd fun _ h => h.raise.done1)

theorem Inv.execLdo {d a o n z} : InvNext (execLdo d a o n z s) :=
  h.actRun (keeps_atomicAt.bind fun _ => keeps_upd fun _ h => h.done1)

theorem Inv.execSto {a b o n z} : InvNext (execSto a b o n z s) :=
  h.actRun (keeps_atomicAt.bind fun _ => keeps_upd fun _ h => h.advance)

end

-- the atomic that a hart executes next

theorem scalarAtomic_keeps {w f} (hf : scalarAtomic w = some f) {s : State} (h : Inv s) : InvNext (f s) := by
  unfold scalarAtomic at hf
  dsimp only at hf
  repeat' split at hf
  all_goals cases hf
  case isTrue => exact h.execCas
  case h_10 => exact h.execAtfadd
  case h_11 => exact h.execLdo
  case h_12 => exact h.execSto
  all_goals exact h.actRun keeps_amo

theorem vectorAtomic_keeps {w f} (hf : vectorAtomic w = some f) {s : State} (h : Inv s) : InvNext (f s) := by
  unfold vectorAtomic at hf
  simp only [Option.ite_none_left_eq_some] at hf
  obtain ⟨-, hf⟩ := hf
  split at hf
  case h_8 =>
    obtain rfl := Option.some.inj hf
    exact h.execVatfadd
  all_goals
    obtain rfl := Option.some.inj hf
    exact h.vamo

theorem combiningScatter_keeps {w f} (hf : combiningScatter w = some f) {s : State} (h : Inv s) : InvNext (f s) := by
  unfold combiningScatter at hf
  simp only [Option.ite_none_left_eq_some] at hf
  obtain ⟨-, hf⟩ := hf
  split at hf
  · obtain rfl := Option.some.inj hf
    exact h.scatter
  · obtain ⟨-, hf⟩ := Option.ite_none_right_eq_some.mp hf
    obtain rfl := Option.some.inj hf
    exact h.execVstxFadd

theorem atomicNext_keeps {s : State} {f vas} (hf : s.atomicNext = some (f, vas)) {t : State} (h : Inv t) : InvNext (f t) := by
  unfold State.atomicNext at hf
  obtain ⟨w, -, hw⟩ := Option.bind_eq_some_iff.mp hf
  rcases Option.or_eq_some_iff.mp hw with hs | ⟨-, hv⟩
  · obtain ⟨g, hg, he⟩ := Option.map_eq_some_iff.mp hs
    cases he
    exact scalarAtomic_keeps hg h
  · obtain ⟨g, hg, he⟩ := Option.map_eq_some_iff.mp hv
    cases he
    exact vectorAtomic_keeps hg h

-- remote atomic errors

theorem completes_keeps {f s t} (hf : InvNext (f s)) (ht : completes f s = some t) : Inv t := by
  unfold completes at ht
  split at ht
  next t' he =>
    obtain ⟨-, ht⟩ := Option.ite_none_right_eq_some.mp ht
    exact Option.some.inj ht ▸ hf t' he
  · cases ht

section
variable {s : State} (h : Inv s) {f : State → Answer} (hf : ∀ t, Inv t → InvNext (f t))
include h hf

theorem Inv.scalarAtomicError {va applied} : Inv (scalarAtomicError f va applied s) := by
  unfold Machine.scalarAtomicError
  dsimp only
  split
  · exact Inv.takeTrap (Inv.withHart h.rest)
  next t _ ht =>
    have ht := completes_keeps (hf s h) ht
    exact Inv.takeTrap (Inv.ite ht.rest h)
  · exact h

theorem Inv.vectorAtomicError {va k applied} : Inv (vectorAtomicError f va k applied s) := by
  unfold Machine.vectorAtomicError
  dsimp only
  split
  next t u ht hu =>
    have hq : Inv (if applied then u else t) := (completes_keeps (hf _ h.withHart) hu).ite (completes_keeps (hf _ h.withHart) ht)
    exact Inv.takeTrap hq.rest
  · exact h

theorem Inv.scatterError {va eb applied} : Inv (scatterError f va eb applied s) := by
  unfold Machine.scatterError
  split
  next t _ _ ht _ =>
    have ht := completes_keeps (hf s h) ht
    exact Inv.takeTrap (ht.ite ht.putAt)
  · exact h

end

theorem Inv.execRemoteAtomicError {i applied e} {s : State} (h : Inv s) : InvNext (execRemoteAtomicError i applied e s) := by
  refine h.asHart fun t h => ?_
  split
  · exact h.next
  · dsimp only
    split
    next f _ _ hf => exact (h.scalarAtomicError fun _ h => scalarAtomic_keeps hf h).next
    next f _ hf _ => exact ((h.vectorAtomicError fun _ h => vectorAtomic_keeps hf h).ite h).next
    next f hf _ _ => exact ((h.scatterError fun _ h => combiningScatter_keeps hf h).ite h).next
    · exact h.next

theorem Inv.execHomeAtomic {a} {s : State} (h : Inv s) : InvNext (execHomeAtomic a s) := by
  refine h.next.ite ?_
  have hu := h.updCoh (f := (·.hold (homeOf a.line) a.line true))
  dsimp only
  split
  · exact hu.next
  · refine hu.next.ite (hu.asHart fun t h => ?_)
    split
    next hf => exact InvNext.ite (atomicNext_keeps hf h) h.next
    · exact h.next

end Sys2Proof
end

section
namespace Sys2Proof

open Machine

/-! The invariant, ninth part: copies, collectives, Gibbs engines and mesh objects as instructions. -/

section
variable {s : State} (h : Inv s)
include h

-- fences, waits and copies

theorem Inv.execFence {o sc} : InvNext (execFence o sc s) :=
  h.actRun (keeps_release.bind fun _ => Gives.ite (keeps_drainIo.bind fun _ => keeps_upd fun _ h => h.advance)
    (keeps_upd fun _ h => h.advance))

theorem Inv.execWeirarm {a b} : InvNext (execWeirarm a b s) :=
  h.actRun (keeps_drain.bind fun _ => keeps_granule.bind fun _ => keeps_weirAt.bind fun _ =>
    keeps_upd fun _ h => h.putAt.putAt.advance)

theorem Inv.execCpy {d a b k n} : InvNext (execCpy d a b k n s) :=
  h.actRun (keeps_drain.bind fun _ => keeps_granule.bind fun _ => keeps_signal.bind fun _ => keeps_span.bind fun _ =>
    keeps_span.bind fun _ => keeps_signalWord.bind fun _ => keeps_grantReads.bind fun _ => keeps_pushAll.bind fun _ =>
    keeps_upd fun _ h => (h.dispatch fun _ _ h => h.runCopy).advance)

theorem Inv.execCpyrg {d a b k n} : InvNext (execCpyrg d a b k n s) :=
  h.actRun (keeps_drain.bind fun _ => keeps_waitUntil.bind fun _ => keeps_granule.bind fun _ => keeps_remote.bind fun _ =>
    keeps_signal.bind fun _ => keeps_span.bind fun _ => keeps_signalWord.bind fun _ => keeps_pushAll.bind fun _ =>
    keeps_upd fun _ h => (h.dispatch fun _ _ h => Inv.ite h h.sendFor).advance)

theorem Inv.execCpyrp {d a b k n} : InvNext (execCpyrp d a b k n s) :=
  h.actRun (keeps_drain.bind fun _ => keeps_waitUntil.bind fun _ => keeps_granule.bind fun _ => keeps_remote.bind fun _ =>
    keeps_signal.bind fun _ => keeps_span.bind fun _ => keeps_signalWord.bind fun _ => keeps_grantReads.bind fun _ =>
    keeps_upd fun _ h => (h.dispatch fun _ _ h => h.runPut).advance)

theorem Inv.execCpygs {d a b m} : InvNext (execCpygs d a b m s) := by
  refine h.illegalWord.ite (h.whenFree (h.actRun (keeps_drain.bind fun _ => keeps_granule.bind fun _ => keeps_check.bind fun _ => ?_)))
  dsimp only
  split
  · exact gives_trapThen
  · refine keeps_check.bind fun _ => ?_
    split
    · exact gives_trapThen
    · exact keeps_ranges.bind fun _ => keeps_span.bind fun _ => keeps_grantReads.bind fun _ =>
        keeps_upd fun _ h => h.advance.ite (Inv.advance (h.withHart.dispatch fun _ _ h => h.runRows))

theorem Inv.execCpyrk {d a b k n} : InvNext (execCpyrk d a b k n s) :=
  h.actRun (keeps_drain.bind fun _ => keeps_granule.bind fun _ => keeps_signal.bind fun _ => keeps_check.bind fun _ =>
    keeps_ranges.bind fun _ => keeps_ranges.bind fun _ => keeps_signalWord.bind fun _ => keeps_grantReads.bind fun _ =>
    keeps_pushAll.bind fun _ => keeps_upd fun _ h => (h.dispatch fun _ _ h => h.runRepack).advance)

-- collectives

theorem Inv.execCviewMap {a} : InvNext (execCviewMap a s) :=
  h.actRun (keeps_check.bind fun _ => keeps_reachAll.bind fun _ => keeps_pushAll.bind fun _ =>
    keeps_upd fun _ h => h.storeMap.countTraffic.advance)

end

theorem keeps_coll {a} : Keeps (coll a) := by
  refine gives_get fun _ _ => keeps_drain.bind fun _ => keeps_granule.bind fun _ => keeps_check.bind fun _ =>
    keeps_waitUntil.bind fun _ => keeps_fetchRange.bind fun _ => keeps_waitUntil.bind fun _ => keeps_check.bind fun _ =>
    keeps_ranges.bind fun _ => keeps_check.bind fun _ => keeps_grantReads.bind fun _ => keeps_pushAll.bind fun _ =>
    keeps_upd fun _ h => Inv.advance (Inv.ite (Inv.endColl h.rest) (Inv.ite (Inv.endColl h.rest)
      (Inv.ite (Inv.endColl h.rest) h.askAll.startColl)))

-- Gibbs engines

theorem keeps_bindArray {x va n} : Keeps (Act.bindArray x va n) := by
  refine gives_get fun s hs => ?_
  split
  · exact gives_trap
  next hx =>
    exact (keeps_set (hs.spanWith (tr := readHere) (fun _ _ _ _ h hx => h.xlate hx) hx)).bind fun _ => keeps_waitUntil.bind fun _ =>
      keeps_noPoison.bind fun _ => keeps_pull.bind fun _ => keeps_pure

theorem keeps_bindGraph {x g} : Keeps (Act.bindGraph x g) := by
  refine keeps_bindArray.bind fun _ => keeps_check.bind fun _ => Keeps.bind (keeps_mapM (fun _ => keeps_bindArray) _) fun _ => ?_
  dsimp only
  split
  · exact keeps_pure
  · exact gives_trap

theorem keeps_gbind {d a} : Keeps (gbind d a) := by
  refine gives_get fun _ _ => keeps_drain.bind fun _ => keeps_check.bind fun _ => keeps_bindArray.bind fun _ => ?_
  dsimp only
  split
  · exact gives_trap
  · refine keeps_bindGraph.bind fun _ => keeps_bindArray.bind fun _ => keeps_bindArray.bind fun _ => gives_get fun s hs => ?_
    split
    · exact gives_trapThen
    next hx =>
      exact (keeps_set (hs.spanWith (tr := readHere) (fun _ _ _ _ h hx => h.xlate hx) hx)).bind fun _ => gives_get fun _ _ =>
        Gives.ite (keeps_upd fun _ h => h.done1) (keeps_upd fun _ h => h.updHandles.done1)

theorem keeps_gibbsRanges {g rs} : Keeps (Act.gibbsRanges g rs) := keeps_ranges.bind fun _ => keeps_check.bind fun _ => keeps_pure

theorem keeps_gsweep {a b} : Keeps (gsweep a b) := by
  refine gives_get fun _ _ => keeps_gibbsHandle.bind fun _ => keeps_drain.bind fun _ => keeps_granule.bind fun _ => ?_
  have hend {g w} : Keeps (do
      let (_, done) ← Act.gibbsRanges g []
      Act.upd fun s => (s.dispatchEngine g.h (scratchy [] (none, done)) [] [] (.settled w) (none, done)
        (runSettled w true (none, done))).advance) :=
    keeps_gibbsRanges.bind fun _ => keeps_upd fun _ h => (h.dispatchEngine fun _ _ h => h.runSettled).advance
  dsimp only
  split
  · exact hend
  · exact keeps_check.bind fun _ => hend.ite (keeps_gibbsRanges.bind fun _ => gives_get fun _ _ => keeps_check.bind fun _ =>
      keeps_grantReads.bind fun _ => keeps_upd fun _ h => (h.dispatchEngine fun _ _ h => h.runSweep).advance)

theorem keeps_gread {m c a b} : Keeps (gread m c a b) :=
  gives_get fun _ _ => keeps_gibbsHandle.bind fun _ => keeps_drain.bind fun _ => keeps_granule.bind fun _ =>
    keeps_check.bind fun _ => keeps_gibbsRanges.bind fun _ => keeps_pushAll.bind fun _ =>
    keeps_upd fun _ h => (h.dispatchEngine fun _ _ h => h.runRead).advance

theorem gives_meshFail {α : Type} {Q : α → Prop} {x e} : Gives (Act.meshFail x e) Q := by
  unfold Act.meshFail
  split
  · exact gives_trap
  · exact gives_trap

section
variable {s : State} (h : Inv s)
include h

theorem Inv.execGtable {a b} : InvNext (execGtable a b s) :=
  h.actRun (keeps_gibbsHandle.bind fun _ => keeps_idle.bind fun _ => keeps_drain.bind fun _ => keeps_check.bind fun _ =>
    keeps_ownRange.bind fun _ => keeps_upd fun _ h => h.updGibbs.advance)

theorem Inv.execGrel {a} : InvNext (execGrel a s) :=
  h.actRun (keeps_gibbsHandle.bind fun _ => keeps_idle.bind fun _ => keeps_upd fun _ h => h.updHandles.advance)

-- mesh objects

theorem Inv.execMsopen {d a} : InvNext (execMsopen d a s) := by
  refine h.actRun (keeps_drain.bind fun _ => gives_get fun s hs => keeps_waitUntil.bind fun _ => ?_)
  dsimp only
  split
  · exact gives_meshFail
  next hx =>
    have ht := hs.openMesh hx
    exact keeps_waitUntil.bind fun _ => Gives.ite (keeps_set ht.countTraffic.done1) (keeps_set ht.countTraffic.updHandles.done1)

theorem Inv.execMsclose {a} : InvNext (execMsclose a s) :=
  h.actRun (keeps_meshHandle.bind fun _ => keeps_idle.bind fun _ => keeps_upd fun _ h => Inv.advance h.updHandles.rest)

theorem Inv.mskeyfind {base d a b ca kg f} : InvNext (mskeyfind base d a b ca kg f s) := by
  refine h.illegalWord.ite (h.actRun (keeps_meshHandle.bind fun _ => keeps_idle.bind fun _ => gives_get fun s hs =>
    Gives.ite (keeps_set hs.plainEnd) ?_))
  split
  · exact gives_meshFail
  next hx =>
    exact (keeps_set ((hs.readMesh hx).upToCut fun _ h => h.plainEnd)).bind fun _ => gives_throw.ite keeps_pure

end

theorem keeps_blockList {eb n gs} : Keeps (Act.blockList eb n gs) := by
  refine keeps_grantReads.bind fun _ => gives_get fun _ _ => ?_
  split
  · exact keeps_pure
  · exact keeps_pull.bind fun _ => keeps_pure

theorem keeps_fields {x b n new} : Keeps (Act.fields x b n new) := keeps_check.bind fun _ => keeps_pure

theorem keeps_peers {x b n} : Keeps (Act.peers x b n) := keeps_check.bind fun _ => keeps_pure

theorem keeps_meshAt {x q arrays fits} : Keeps (Act.meshAt x q arrays fits) := by
  refine gives_get fun _ _ => ?_
  split
  · exact keeps_pure
  · exact keeps_check.bind fun _ => keeps_pure
  · exact keeps_pure

theorem keeps_rangesIn {n : Nat} {q : MeshHandle} {rs} : Keeps (Act.rangesBy (fun i r =>
    if i < n then Act.span r.1 r.2.1 r.2.2 else Act.spanIn (q.spaceOf (i - n)) r.1 r.2.1) rs) :=
  keeps_rangesBy fun _ _ => keeps_span.ite keeps_spanIn

/-- A mesh job reads its fields' places and begins. -/
theorem keeps_beginJob {rs x arrays} {q : MeshHandle} {big : List (List Seg) → Bool} {reads writes : List (List Seg) → List Seg}
    {locs : List (List Seg) → List Loc} {plan : List (List Seg) → MeshAt → State → JobPlan} {tail : Option Loc × Option Loc} :
    Keeps (do
      let ds ← Act.ranges rs
      let mesh ← Act.meshAt x q arrays
      let s ← get
      Act.grantReads (reads ds)
      Act.pushAll (locs ds)
      Act.upd fun t => (t.dispatchEngine q.h (big ds) (writes ds) (reads ds) (.job (plan ds mesh s)) tail
        (runJob (plan ds mesh s) tail)).advance) :=
  keeps_ranges.bind fun _ => keeps_meshAt.bind fun _ => gives_get fun _ _ => keeps_grantReads.bind fun _ =>
    keeps_pushAll.bind fun _ => keeps_upd fun _ h => (h.dispatchEngine fun _ _ h => h.runJob).advance

theorem keeps_meshJob {kind a b} : Keeps (meshJob kind a b) := by
  refine gives_get fun _ _ => keeps_meshHandle.bind fun _ => keeps_drain.bind fun _ => keeps_waitUntil.bind fun _ =>
    keeps_granule.bind fun _ => keeps_block.bind fun _ => keeps_check.bind fun _ => keeps_rangesIn.bind fun _ =>
    keeps_tail.bind fun _ => keeps_check.bind fun _ => keeps_blockList.bind fun fl => keeps_blockList.bind fun pl => ?_
  rcases fl with _ | w <;> rcases pl with _ | w <;> dsimp only
  · exact keeps_pure.bind fun _ => keeps_pure.bind fun _ => keeps_beginJob
  · exact keeps_pure.bind fun _ => keeps_peers.bind fun _ => keeps_beginJob
  · exact keeps_fields.bind fun _ => keeps_pure.bind fun _ => keeps_beginJob
  · exact keeps_fields.bind fun _ => keeps_peers.bind fun _ => keeps_beginJob

theorem keeps_checkRecords {x n gs} : Keeps (Act.checkRecords x n gs) :=
  gives_get fun _ _ => keeps_waitUntil.bind fun _ => keeps_pull.bind fun _ => gives_get fun _ _ => keeps_check

theorem keeps_msremap {a b} : Keeps (msremap a b) := by
  refine gives_get fun _ _ => keeps_meshHandle.bind fun _ => keeps_drain.bind fun _ => keeps_granule.bind fun _ =>
    keeps_block.bind fun _ => ?_
  dsimp only
  split
  · exact gives_trap
  · exact keeps_check.bind fun _ => keeps_ranges.bind fun _ => keeps_tail.bind fun _ => keeps_grantReads.bind fun _ =>
      keeps_checkRecords.bind fun _ => keeps_pushAll.bind fun _ =>
      keeps_upd fun _ h => (h.dispatchEngine fun _ _ h => h.runRemap).advance

theorem keeps_colourHandle {x} : Keeps (Act.colourHandle x) := keeps_pure.ite (keeps_meshHandle.bind fun _ => keeps_pure)

theorem keeps_mscolor {a b} : Keeps (mscolor a b) := by
  refine gives_get fun _ _ => keeps_colourHandle.bind fun _ => keeps_drain.bind fun _ => keeps_granule.bind fun _ =>
    keeps_block.bind fun _ => keeps_check.bind fun _ => keeps_check.bind fun _ => ?_
  dsimp only
  split
  · exact keeps_fetchRange.bind fun _ => keeps_span.bind fun _ => keeps_span.bind fun _ =>
      Keeps.bind (keeps_mapM (fun _ => keeps_span) _) fun _ => keeps_ranges.bind fun _ => keeps_tail.bind fun _ =>
      keeps_grantReads.bind fun _ => keeps_pushAll.bind fun _ =>
      keeps_upd fun _ h => (h.dispatchEngine fun _ _ h => h.runColourGraph).advance
  · exact gives_trap
  · exact keeps_rangesIn.bind fun _ => keeps_tail.bind fun _ => keeps_check.bind fun _ => keeps_meshAt.bind fun _ =>
      keeps_pushAll.bind fun _ => keeps_upd fun _ h => (h.dispatchEngine fun _ _ h => h.runColourMesh).advance

end Sys2Proof
end

section
namespace Sys2Proof

open Machine

/-! The invariant, tenth part: progress words, matrix tiles, saved images and yarns as instructions. -/

-- progress words

section
variable {s : State} (h : Inv s)
include h

theorem Inv.execVwmbind {d a n} : InvNext (execVwmbind d a n s) :=
  h.actRun (keeps_granule.bind fun _ => keeps_check.bind fun _ => keeps_upd fun _ h => h.withHart.advance)

theorem Inv.execVwmaddr {d a} : InvNext (execVwmaddr d a s) :=
  h.actRun (keeps_granule.bind fun _ => keeps_bound.bind fun _ => keeps_upd fun _ h => h.done1)

theorem Inv.execVwmpub {d a} : InvNext (execVwmpub d a s) :=
  have hend : Keeps (Act.applied >>= fun _ => Act.upd State.advance) := keeps_applied.bind fun _ => keeps_upd fun _ h => h.advance
  h.actRun (Gives.ite (keeps_granule.bind fun _ => keeps_bound.bind fun _ => keeps_drain.bind fun _ => keeps_wordPlace.bind fun _ =>
    keeps_load.bind fun _ => Keeps.bind (keeps_upd fun _ h => h.publishOwn) fun _ => hend) hend)

-- matrix tiles

theorem Inv.onTile {k m} (hm : InvNext (m s)) : InvNext (onTile k m s) := Inv.next (Inv.rest h.takeTrap) |>.ite hm

end

theorem keeps_tilePlaces {cm a b acc cells} : Keeps (tilePlaces cm a b acc cells) :=
  gives_get fun _ _ => keeps_check.bind fun _ => keeps_mapM (fun _ => keeps_reach.bind fun _ => keeps_check.bind fun _ => keeps_pure) _

theorem keeps_markPieces {ps : List Piece} (hps : ∀ p ∈ ps, ∀ s, Inv s → Inv (Piece.act p s)) : Keeps (Act.perform markStored ps) :=
  keeps_perform (fun _ _ h => inv_markStored h) hps

/-- Pieces that are made one by one and of which some have performed. -/
theorem keeps_markMade {α β : Type} {f : α → β → Piece} {l : List α} {m : List β} {n : Nat}
    (hf : ∀ a b s, Inv s → Inv ((f a b).act s)) : Keeps (Act.perform markStored ((l.zipWith f m).drop n)) := by
  refine keeps_markPieces fun p hp => ?_
  obtain ⟨i, hi, rfl⟩ := List.mem_iff_getElem.mp (List.mem_of_mem_drop hp)
  rw [List.getElem_zipWith]
  exact hf _ _

section
variable {s : State} (h : Inv s)
include h

theorem Inv.mxld {cm k a b} : InvNext (mxld cm k a b s) :=
  h.onTile (Inv.next h.withHart.advance |>.ite (h.actRun (keeps_drain.bind fun _ => Keeps.bind
    (keeps_holding (keeps_granule.bind fun _ => keeps_tilePlaces.bind fun _ => Keeps.bind (keeps_mapM (fun _ => keeps_load) _) fun _ =>
      keeps_pure)) fun _ => keeps_upd fun _ h => h.withHart.advance)))

theorem Inv.mxst {cm k a b} : InvNext (mxst cm k a b s) := by
  refine h.onTile (Inv.next h.withHart.advance |>.ite (h.actRun (keeps_drain.bind fun _ => Keeps.bind
    (keeps_holding (keeps_granule.bind fun _ => keeps_tilePlaces.bind fun places => ?_)) fun _ =>
      keeps_upd fun _ h => h.mend.withHart.advance)))
  have hend : Keeps (Act.perform markStored ((s.hart.tilePieces k places).drop s.hart.begun.stored) >>= fun _ => pure places) :=
    (keeps_markMade fun _ _ _ h => h.storeAt).bind fun _ => keeps_pure
  refine Gives.ite ?_ hend
  split
  · exact gives_trapThen
  · exact keeps_pushAll.bind fun _ => hend

-- saved images

theorem Inv.execCtxsv {a} : InvNext (execCtxsv a s) := by
  refine h.illegal.ite (h.whenFree (h.actRun (keeps_drain.bind fun _ => keeps_check.bind fun _ => Keeps.bind
    (keeps_holding (keeps_reachAll.bind fun segs => ?_)) fun _ => keeps_upd fun _ h => h.advance)))
  have hend {n l bs} : Keeps (Act.perform markStored [⟨n, l, fun t => t.storeSegs (segsAt segs 0 headerSize) bs⟩]) :=
    keeps_markPieces fun p hp => by
      cases List.mem_singleton.mp hp
      exact fun _ h => h.storeSegs
  exact Gives.ite (keeps_pushAll.bind fun _ => Keeps.bind (keeps_upd fun _ h => h.storeSegs.poisonWords) fun _ => hend) hend

theorem Inv.execCtxld {a} : InvNext (execCtxld a s) := by
  refine h.illegal.ite (h.whenFree (h.actRun (keeps_drain.bind fun _ => keeps_check.bind fun _ => ?_)))
  have hread {off n} : Keeps (do
      let segs ← Act.reachAll ((s.rx a).toNat + off) n .read
      let t ← get
      match (t.badWords segs n).head? with
      | some o => Act.trap 7 (wordOfNat ((s.rx a).toNat + off + o))
      | none => natOfBytes <$> Act.pull segs) := by
    refine keeps_reachAll.bind fun _ => gives_get fun _ _ => ?_
    split
    · exact gives_trap
    · exact keeps_map keeps_pull
  exact Keeps.bind (keeps_holding (hread.bind fun _ => keeps_check.bind fun _ => hread.bind fun _ => keeps_pure)) fun _ =>
    keeps_upd fun _ h => h.withHart.advance

theorem Inv.invalidate {d g} : InvNext (s.invalidate d g) :=
  h.actRun (keeps_waitUntil.bind fun _ => keeps_upd fun _ h => Inv.advance h.rest)

theorem Inv.execAsw {a b} : InvNext (execAsw a b s) :=
  h.illegal.ite (h.actRun (keeps_drain.bind fun _ => keeps_upd fun _ h => h.withHart.advance))

end

-- yarns

theorem keeps_loadPieces {lane ps} : Keeps (Act.loadPieces lane ps) := by
  induction ps with
  | nil => exact keeps_pure
  | cons p ps ih => exact keeps_load.bind fun _ => ih.bind fun _ => keeps_pure

theorem keeps_reachKept {va n acc} : Keeps (Act.reachKept va n acc) :=
  keeps_reachAll.bind fun _ => Keeps.bind (keeps_upd fun _ h => h.withBegun) fun _ => keeps_pure

theorem keeps_loadVa {lane va n} : Keeps (Act.loadVa lane va n) := by
  refine keeps_reachKept.bind fun _ => ?_
  split
  · exact keeps_load
  · exact keeps_loadPieces.bind fun _ => keeps_pure

theorem keeps_leb {y : YarnSlot} {lane slot off n k u} : Keeps (y.leb lane slot off n k u) := by
  induction n generalizing k u with
  | zero => exact gives_trap
  | succ n ih => exact keeps_pure.ite (keeps_loadVa.bind fun _ => keeps_pure.ite ih)

theorem keeps_decode {y : YarnSlot} {lane slot F r p} : Keeps (y.decode lane slot F r p) := by
  unfold YarnSlot.decode
  dsimp only
  split
  · exact keeps_pure.ite (keeps_check.bind fun _ => keeps_loadVa.bind fun _ => keeps_pure)
  · refine keeps_leb.bind fun _ => ?_
    split
    · exact keeps_pure
    · exact keeps_pure
  · exact keeps_pure.ite (keeps_loadVa.bind fun _ => Gives.ite (keeps_loadVa.bind fun _ => keeps_pure) keeps_pure)
  · exact keeps_pure.ite (keeps_loadVa.bind fun _ => keeps_loadVa.bind fun _ => keeps_pure)
  · exact keeps_pure.ite (keeps_loadVa.bind fun _ => keeps_loadVa.bind fun _ => keeps_pure)

theorem keeps_yarnLoad {lane slot F r n i first y} : Keeps (yarnLoad lane slot F r n i first y) := by
  induction n generalizing i first y with
  | zero => exact keeps_pure
  | succ n ih =>
    refine (keeps_attempt keeps_decode).bind fun _ => ?_
    split
    · exact gives_trap.ite keeps_pure
    · exact keeps_pure
    · exact ih.bind fun _ => keeps_pure

theorem keeps_yarn {k w} : Keeps (Act.yarn k w) := gives_get fun _ _ => keeps_check.bind fun _ => keeps_pure

theorem keeps_available {y} : Keeps (Act.available y) :=
  keeps_pure.ite (keeps_check.bind fun _ => keeps_loadVa.bind fun _ => gives_get fun _ _ =>
    Keeps.bind (keeps_upd fun _ h => h.withBegun) fun _ => keeps_pure)

theorem keeps_topologyLoad {k y n} : Keeps (Act.topologyLoad k y n) := by
  refine gives_get fun _ _ => ?_
  split
  · exact gives_trap
  · refine keeps_idle.bind fun _ => keeps_check.bind fun _ => keeps_pure.ite (keeps_granule.bind fun _ => gives_get fun s hs => ?_)
    split
    · exact gives_trap
    next hx =>
      refine (keeps_set (hs.readMesh hx)).bind fun _ => ?_
      dsimp only
      split
      · exact gives_trapThen
      · exact keeps_pure

theorem keeps_vyldFinish {d k q y n xs z} : Keeps (vyld.finish d k q y n xs z) :=
  Gives.ite (keeps_upd fun _ h => h.withHart.advance) (Keeps.bind (keeps_upd fun _ h => h.withHart) fun _ =>
    keeps_stopAt.ite (keeps_upd fun _ h => h.withHart.advance))

theorem keeps_vyld {d k} : Keeps (vyld d k) :=
  gives_get fun _ _ => keeps_yarn.bind fun _ => keeps_drain.bind fun _ =>
    Gives.ite (keeps_topologyLoad.bind fun _ => keeps_vyldFinish) (keeps_vyldFinish.ite
      (keeps_granule.bind fun _ => keeps_available.bind fun _ => keeps_yarnLoad.bind fun _ => keeps_vyldFinish))

theorem keeps_places {die ws} : Keeps (Act.places die ws) := by
  induction ws with
  | nil => exact keeps_pure
  | cons w ws ih => exact keeps_reachKept.bind fun _ => ih.bind fun _ => keeps_pure

theorem keeps_yarnStore {q F xs cur first y} : Keeps (yarnStore q F xs cur first y) := by
  induction xs generalizing cur first y with
  | nil => exact keeps_pure
  | cons x xs ih =>
    obtain ⟨x, die, bad⟩ := x
    unfold yarnStore
    split
    · exact keeps_pure
    · dsimp only
      split
      · exact keeps_pure
      · exact gives_trap.ite keeps_pure
      · refine (keeps_attempt keeps_places).bind fun _ => ?_
        split
        · exact gives_trap.ite keeps_pure
        · exact ih.bind fun _ => keeps_pure

theorem keeps_yarnPut {gs av} : Keeps (Act.yarnPut gs av) := by
  refine gives_get fun _ _ => ?_
  have hend {α β : Type} {f : α → β → Piece} {l : List α} {m : List β} {n : Nat} (hf : ∀ a b s, Inv s → Inv ((f a b).act s)) :
      Keeps (Act.perform markStored ((l.zipWith f m).drop n) >>= fun _ =>
        Act.upd fun s => s.mend (gs.map fun g => ⟨g.1.loc, g.2.1.length⟩)) :=
    (keeps_markMade hf).bind fun _ => keeps_upd fun _ h => h.mend
  exact Gives.ite (keeps_pushAll.bind fun _ => hend fun _ _ _ h => h.storeAt) (hend fun _ _ _ h => h.storeAt)

theorem keeps_availAt {y} : Keeps (Act.availAt y) := keeps_pure.ite (keeps_check.bind fun _ => keeps_places)

theorem keeps_vyst {k a} : Keeps (vyst k a) := by
  refine gives_get fun _ _ => keeps_yarn.bind fun _ => keeps_drain.bind fun _ => Gives.ite (keeps_upd fun _ h => h.withHart.advance)
    (keeps_granule.bind fun _ => keeps_availAt.bind fun _ => Keeps.bind (Gives.ite ?_ keeps_pure) fun _ =>
      keeps_yarnStore.bind fun r => keeps_yarnPut.bind fun _ => Keeps.bind (keeps_upd fun _ h => h.withHart.raise.ite h.withHart)
      fun _ => ?_)
  · exact keeps_reach.bind fun _ => keeps_readAt.bind fun _ => keeps_pure
  · split
    · exact Keeps.bind (keeps_upd fun _ h => h.withHart) fun _ => gives_trap
    · exact keeps_stopAt.ite (keeps_upd fun _ h => h.withHart.advance)

theorem keeps_yarnFact {f d a} : Keeps (yarnFact f d a) :=
  gives_get fun _ _ => keeps_check.bind fun _ => keeps_granule.bind fun _ => keeps_upd fun _ h => h.done1

section
variable {s : State} (h : Inv s)
include h

theorem Inv.execYbind {d a} : InvNext (execYbind d a s) := by
  refine h.actRun (keeps_drain.bind fun _ => keeps_granule.bind fun _ => keeps_check.bind fun _ => keeps_ownRange.bind fun _ =>
    keeps_check.bind fun _ => keeps_check.bind fun _ => gives_get fun _ _ => Keeps.bind ?_ fun _ => keeps_upd fun _ h => h.withHart.advance)
  refine Gives.ite ?_ keeps_pure
  split
  · exact keeps_pure
  · exact gives_trap

theorem Inv.execVyld {d a} : InvNext (execVyld d a s) := h.illegalWord.ite (h.actRun keeps_vyld)

theorem Inv.execVyst {d a c} : InvNext (execVyst d a c s) := h.illegalWord.ite (h.actRun keeps_vyst)

theorem Inv.execYrel {d} : InvNext (execYrel d s) := by
  refine h.advance.next.ite (h.actRun (keeps_drain.bind fun _ => keeps_granule.bind fun _ => keeps_places.bind fun _ => ?_))
  have hend {av f g} : Keeps (Act.yarnPut f av >>= fun _ => Act.upd fun s => ((s.raise g).withHart (·.setYarn d YarnSlot.empty)).advance) :=
    keeps_yarnPut.bind fun _ => keeps_upd fun _ h => h.raise.withHart.advance
  exact Gives.ite (keeps_availAt.bind fun _ => hend) (keeps_pure.bind fun _ => hend)

end

end Sys2Proof
end

section
namespace Sys2Proof

open Machine

/-! The invariant, eleventh part: events. -/

section
variable {s : State} (h : Inv s)
include h

-- events of the module and of the fabric

theorem Inv.execBoot {fails} : InvNext (execBoot fails s) :=
  h.next.ite (Inv.next (Inv.renewNonce (Inv.renewNonce (Inv.rest (inv_kept s)))))

theorem Inv.execLinkService {l o} : InvNext (execLinkService l o s) :=
  h.next.ite (Inv.next (Inv.ite (h.uncharge.updUnits.logEvent.journal.foldl fun _ _ h => h.deliveryFail)
    h.uncharge.updUnits.logEvent.journal))

theorem Inv.execPatrolScrub {k e f} : InvNext (execPatrolScrub k e f s) :=
  h.next.ite (Inv.next (Inv.updCoh (Inv.rest (h.foldl fun _ _ h => h.scrubbed))))

theorem Inv.execHostPortRequest {p r} : InvNext (execHostPortRequest p r s) := by
  refine h.next.ite (Inv.next ?_)
  split
  · exact h.hostRead.ite h
  · exact h.hostWrite.ite h
  · exact h.hostRead.hostWrite.ite h

theorem Inv.execAtsInvalidation {p q a} : InvNext (execAtsInvalidation p q a s) := Inv.next (Inv.finishInvals h.rest)

theorem Inv.execHeartbeatReceive {f} : InvNext (execHeartbeatReceive f s) := h.updFabric.next.ite h.next

theorem Inv.execHeartbeatTimeout {f} : InvNext (execHeartbeatTimeout f s) := h.suspect.next.ite h.next

theorem Inv.execNeighbourUnreachable {f} : InvNext (execNeighbourUnreachable f s) := h.suspect.next.ite h.next

theorem Inv.execSuspicionReport {r f} : InvNext (execSuspicionReport r f s) := h.next.ite h.updFabric.propose.next

theorem Inv.execViewProposal {l p} : InvNext (execViewProposal l p s) :=
  h.next.ite (Inv.next (h.updFabric.post.ite h.updFabric.send))

theorem Inv.execProposalAck {f a} : InvNext (execProposalAck f a s) := by
  unfold Machine.execProposalAck
  dsimp only
  split
  · exact h.updFabric.next
  · exact h.updFabric.next.ite (h.updFabric.updFabric.send.post.next.ite h.updFabric.updFabric.next)

theorem Inv.execProposalAckTimeout {f} : InvNext (execProposalAckTimeout f s) := by
  unfold Machine.execProposalAckTimeout
  dsimp only
  split
  · exact h.next
  · exact h.next.ite h.updFabric.propose.next

theorem Inv.execViewCommit {t m q f} : InvNext (execViewCommit t m q f s) :=
  InvNext.ite (h.leaveView.next.ite (h.adopt.next.ite h.next)) (h.adopt.next.ite h.next)

theorem Inv.execCommitTimeout : InvNext (execCommitTimeout s) := by
  unfold Machine.execCommitTimeout
  split
  · exact h.next
  · exact h.next.ite (h.leaveView.next.ite h.updFabric.next)

theorem Inv.execQuiescenceHold {l} : InvNext (execQuiescenceHold l s) :=
  h.next.ite (h.updFabric.send.post.next.ite h.updFabric.send.next)

theorem Inv.execHoldAck {f ps} : InvNext (execHoldAck f ps s) := by
  unfold Machine.execHoldAck
  split
  · exact h.next
  · refine h.next.ite ?_
    split
    · exact h.holdAnswered.next
    · exact h.holdAcked.next.ite (h.next.ite (Inv.next (h.holdAcked.ite h.holdAcked.send)))

theorem Inv.execJoinRequest {f l} : InvNext (execJoinRequest f l s) :=
  InvNext.ite (h.takeRequest.next.ite h.next) (h.send.next.ite (h.send.next.ite (h.send.next.ite h.takeRequest.send.next)))

theorem Inv.execJoinRequestRetry {r a} : InvNext (execJoinRequestRetry r a s) := by
  unfold Machine.execJoinRequestRetry
  split
  · exact h.next
  · split
    · exact h.updRequest.next
    · exact h.updRequest.send.next
    · exact h.send.next

theorem Inv.execJoinTimeout {r} : InvNext (execJoinTimeout r s) := by
  unfold Machine.execJoinTimeout
  split
  · exact h.next
  · exact h.next.ite h.updRequest.next

theorem Inv.execFabricFlitArrival {f} : InvNext (execFabricFlitArrival f s) := by
  refine h.discard.next.ite (Inv.next ?_)
  split
  · exact h.shareArrives
  · exact h.heldArrives
  · exact h.post
  · exact h.post
  · exact h.dataArrives
  · exact h.doneArrives
  · exact h.refusalArrives
  · exact h.meshArrive

theorem Inv.execRemoteCopyAccess {f} : InvNext (execRemoteCopyAccess f s) := by
  refine h.discard.next.ite (h.next.ite ?_)
  split
  · exact h.sendFlit.next.ite (Inv.next (h.foldl fun _ _ h => h.segRead.sendFlit))
  · exact h.sendFlit.next.ite h.fill.sendFlit.next
  · exact h.next

theorem Inv.execRemoteCopyRefused {o} : InvNext (execRemoteCopyRefused o s) := by
  unfold Machine.execRemoteCopyRefused
  split
  · exact h.next
  · split
    · exact h.weirLost.refuseHart.endOp.next
    · exact h.weirLost.refuseHart.endOp.next
    · exact h.next

theorem Inv.execCollectiveMatch {t c} : InvNext (execCollectiveMatch t c s) := by
  unfold Machine.execCollectiveMatch
  split
  · exact h.next
  · refine h.next.ite (h.sourceRead.updColl.sendShare.next.ite (h.next.ite ?_))
    split
    · exact h.endColl.next
    · split
      · exact h.endColl.next
      · exact h.updColl.sendShare.next.ite h.updColl.sendAll.next

theorem Inv.execCollectiveComplete {t c} : InvNext (execCollectiveComplete t c s) := by
  unfold Machine.execCollectiveComplete
  split
  · exact h.next
  · refine h.next.ite ?_
    split
    · exact h.closeColl.next
    · exact h.endColl.next.ite (h.completeColl.next.ite h.next)

theorem Inv.execTargetCompletion {t bs ok} : InvNext (execTargetCompletion t bs ok s) := by
  unfold Machine.execTargetCompletion
  split
  · exact h.next
  · have hu : Inv { s with targets := s.targets.filter fun q => q.tag ≠ t } := h.rest
    exact Inv.next (Inv.finishInvals (hu.post.ite (hu.answerAsks.ite hu.completed)))

theorem Inv.execPowerReading {mw d} : InvNext (execPowerReading mw d s) := by
  -- as in `goesOn_powerReading`, `throttleNext` becomes a variable
  unfold Machine.execPowerReading
  obtain ⟨next, hnext⟩ : ∃ f, f = throttleNext := ⟨_, rfl⟩
  rw [← hnext]
  exact h.next.ite (Inv.next (Inv.ite (Inv.trip h.rest) h.rest))

-- management commands

theorem Inv.execAttest {p} : InvNext (execAttest p s) := by
  refine h.command ?_
  dsimp only
  exact h

theorem Inv.execJclear {p} : InvNext (execJclear p s) := by
  refine h.command ?_
  split
  · exact h
  · exact h.rest

theorem Inv.execJread {p} : InvNext (execJread p s) := by
  refine h.command ?_
  dsimp only
  split
  · exact h
  · exact h

theorem Inv.execLogread {p} : InvNext (execLogread p s) := by
  refine h.command ?_
  dsimp only
  split
  · exact h
  · exact h

theorem Inv.execKeysetInstall {p} : InvNext (execKeysetInstall p s) := h.next.ite (h.command h.keyset)

theorem Inv.execKeysetClear {p} : InvNext (execKeysetClear p s) := h.next.ite (h.command h.keyset)

theorem Inv.execSpaceBind {p} : InvNext (execSpaceBind p s) := by
  refine h.next.ite (h.command ?_)
  dsimp only
  split
  · exact h
  · split
    · exact h
    · split
      · exact h
      · split
        · exact h
        · exact h.rest

theorem Inv.execSpaceUnbind {p} : InvNext (execSpaceUnbind p s) := by
  refine h.next.ite (h.command ?_)
  dsimp only
  split
  · exact h
  · split
    · exact h
    · split
      · exact h
      · exact h.rest

theorem Inv.execUnknownCode {p} : InvNext (execUnknownCode p s) := h.next.ite (h.command (f := fun s => (1, [], s)) h)

-- events of launches

theorem Inv.execImageVerificationDone {v} : InvNext (execImageVerificationDone v s) := by
  unfold Machine.execImageVerificationDone
  dsimp only
  split
  · exact h.releaseImages.next
  · exact Inv.next (Inv.ite (Inv.rest h.releaseImages.verifyImage) h.releaseImages.verifyImage.dropVerif)

theorem Inv.execHandlePostedSlot {p k} : InvNext (execHandlePostedSlot p k s) := by
  refine h.next.ite ?_
  have hset {v w} : Inv (s.setWord v w) := h.setWord
  dsimp only
  have hp {b : Bool} {w t n} (ht : Inv t) : Inv (if b then (w, t) else Machine.postedStatus p n t).2 := by
    split
    · exact ht
    · exact ht.postedStatus
  exact Inv.next (Inv.ite (hp hset).segWrite.segWrite (hp hset).segWrite.segWrite.send)

theorem Inv.execPrereqWordMet {l j} : InvNext (execPrereqWordMet l j s) := by
  unfold Machine.execPrereqWordMet
  split
  · exact h.next
  · split
    · exact h.next
    next hx => exact (h.preWord hx).next.ite (h.preWord hx).updLaunch.settleOne.next

theorem Inv.execPrereqUnreadable {l j} : InvNext (execPrereqUnreadable l j s) := by
  unfold Machine.execPrereqUnreadable
  split
  · exact h.next
  · split
    · exact h.next
    · exact h.updLaunch.finalize.next

theorem Inv.execLaunchStart {l} : InvNext (execLaunchStart l s) := by
  unfold Machine.execLaunchStart
  split
  · exact h.next
  · refine h.next.ite (h.next.ite ?_)
    split
    · exact h.endLaunch.next
    next hx => exact Inv.next ((h.copyData hx).foldl fun _ _ h => h.placeFirst)

theorem Inv.execPromiseExpiry {e} : InvNext (execPromiseExpiry e s) := by
  unfold Machine.execPromiseExpiry
  split
  · exact h.next
  · exact h.firmwareEnds.next

theorem Inv.execCompletionRecordWrite {l} : InvNext (execCompletionRecordWrite l s) := by
  unfold Machine.execCompletionRecordWrite
  split
  · exact h.next
  · exact Inv.next (h.ite h.writeRecord)

theorem Inv.execHostNotice {l} : InvNext (execHostNotice l s) := by
  unfold Machine.execHostNotice
  split
  · exact h.next
  · exact h.next.ite h.updLaunch.send.next

omit h in
theorem inv_refits {l : List Nat} {p : Refit × State} (h : Inv p.2) :
    Inv (l.foldl (fun p lid => p.2.refitOne p.1 lid) p).2 := by
  induction l generalizing p with
  | nil => exact h
  | cons lid l ih => exact ih h.refitOne

theorem Inv.execRefit : InvNext (execRefit s) := Inv.next (Inv.trackGrant (inv_refits h))

theorem Inv.execStandbyEntry : InvNext (execStandbyEntry s) := Inv.next (Inv.ite h.rest h)

theorem Inv.execStandbyExitDone : InvNext (execStandbyExitDone s) := by
  refine Inv.next ?_
  split
  · exact h.wakeUp
  · exact Inv.post h.rest
  · exact h

-- events of copies and engines

theorem Inv.execPublicationApply {i} : InvNext (execPublicationApply i s) := by
  unfold Machine.execPublicationApply
  split
  · exact h.next
  · exact Inv.next (Inv.ite (Inv.applyPub h.rest) h)

theorem Inv.execCopyComplete {o} : InvNext (execCopyComplete o s) := by
  unfold Machine.execCopyComplete
  split
  · exact h.next
  · refine h.next.ite ?_
    split
    · exact h.setWord.endOp.next
    · exact h.endOp.next
    · exact h.next

theorem Inv.execWeirArrival {o n} : InvNext (execWeirArrival o n s) := by
  unfold Machine.execWeirArrival
  split
  · refine h.next.ite ?_
    split
    · exact h.arrived.next
    · exact h.updOp.arrived.next
    · exact h.next
  · exact h.next

theorem Inv.execCpygsRowLanded {o r} : InvNext (execCpygsRowLanded o r s) := by
  unfold Machine.execCpygsRowLanded
  split
  · exact h.next
  · split
    · exact h.next.ite (Inv.next (h.landBit.updOp.endOp.ite h.landBit.updOp))
    · exact h.next

theorem Inv.execEngineOperationComplete {o} : InvNext (execEngineOperationComplete o s) := by
  unfold Machine.execEngineOperationComplete
  split
  · exact h.next
  · split
    · exact Inv.next (h.completeOp.ite h)
    · exact Inv.next (h.beginOp.ite h)
    · exact h.next

theorem Inv.execEngineOperationStop {o} : InvNext (execEngineOperationStop o s) := by
  unfold Machine.execEngineOperationStop
  split
  · exact h.next
  · split
    · exact h.next
    · refine h.next.ite ?_
      split
      · exact h.weirLost.endOp.next
      · exact h.endOp.next

-- events of harts

theorem Inv.execHartStop {i} : InvNext (execHartStop i s) := by
  unfold Machine.execHartStop
  split
  · exact h.next
  · refine h.next.ite (h.stopHart.ite ?_)
    split
    · exact Inv.next h.updHart.rest
    · exact h.stopHart

theorem Inv.execHartRestore {l j} : InvNext (execHartRestore l j s) := by
  unfold Machine.execHartRestore
  split
  · exact h.next
  · split
    · exact h.next
    · refine h.next.ite ?_
      split
      · exact Inv.next (h.placeFirst.ite h)
      · split
        · exact h.next
        · exact h.restore
      · exact h.next

theorem Inv.execHeldEventTake {i} : InvNext (execHeldEventTake i s) := by
  unfold Machine.execHeldEventTake
  split
  · exact h.next
  · exact h.next.ite (h.asHart fun _ h => h.takeHeld.next)

theorem Inv.execMembershipChangeTrap {i} : InvNext (execMembershipChangeTrap i s) := by
  unfold Machine.execMembershipChangeTrap
  split
  · exact h.next
  · exact h.next.ite (h.asHart fun _ h => h.takeHeld.next)

theorem Inv.execGrantApply {i} : InvNext (execGrantApply i s) := by
  refine h.asHart fun t h => ?_
  split
  · exact Inv.next (h.applyGrant.ite h)
  · exact h.next

theorem Inv.execMtypeChange {i v} : InvNext (execMtypeChange i v s) := by
  refine h.asHart fun t h => ?_
  split
  · exact Inv.next (h.withHart.ite h)
  · exact h.next

theorem Inv.execInstructionFetch {c p} : InvNext (execInstructionFetch c p s) := h.next.ite h.fetchBlock.next

theorem Inv.execVectorQueueDispatch {i} : InvNext (execVectorQueueDispatch i s) := by
  unfold Machine.execVectorQueueDispatch
  split
  · exact h.next
  · split
    · exact h.next
    · exact h.next.ite (Inv.next h.rest)

theorem Inv.execGranuleCommit {i r} : InvNext (execGranuleCommit i r s) := by
  unfold Machine.execGranuleCommit
  split
  · exact h.next
  · split
    · exact h.markBad.next
    · exact h.markBad.next
    · exact h.markBad.next
    · exact h.markBad.next
    · exact h.fenceCore.next
    · split
      · exact Inv.next (h.updHart.countRetry.ite h)
      · exact h.next

theorem Inv.execHartSaveDone {i} : InvNext (execHartSaveDone i s) := by
  unfold Machine.execHartSaveDone
  split
  · exact h.next
  · split
    · exact h.next
    · refine h.next.ite ?_
      dsimp only
      split
      · exact h.endLaunch.next
      next hx =>
        have ht := h.spanPair hx
        have hend {t : State} (h : Inv t) {l g bs q p} : Inv ((t.onBehalf l (·.segWrite g bs)).leave q p) :=
          (h.onBehalf fun _ h => h.segWrite).leave
        have hrest : ∀ {l g bs ss n os}, Inv (State.onBehalf _ l fun t => (t.segWrite g bs).poisonWords ss n os) :=
          ht.onBehalf fun _ h => h.segWrite.poisonWords
        exact (hend ht).next.ite ((hend hrest).next.ite (Inv.next hrest.updHart))

theorem Inv.execStretchPreemption {i} : InvNext (execStretchPreemption i s) := by
  unfold Machine.execStretchPreemption
  split
  · exact h.next
  · exact Inv.next (h.updHart.post.ite h)

theorem Inv.execIssueBudgetExhausted {i} : InvNext (execIssueBudgetExhausted i s) := by
  unfold Machine.execIssueBudgetExhausted
  split
  · exact h.next
  · split
    · exact h.next
    · exact h.next.ite h.updHart.post.next

theorem Inv.execBudgetGraceExpiry {i} : InvNext (execBudgetGraceExpiry i s) := by
  unfold Machine.execBudgetGraceExpiry
  split
  · exact h.next
  · split
    · exact h.next
    · exact Inv.next (h.endLaunch.ite h)

theorem Inv.execHartEnd {i} : InvNext (execHartEnd i s) := by
  unfold Machine.execHartEnd
  split
  · exact h.hartEnds.next.ite h.next
  · exact h.next

theorem Inv.execStatusAccess {v} : InvNext (execStatusAccess v s) := by
  unfold Machine.execStatusAccess
  split
  · exact h.writeIfAllowed
  · exact h.next

theorem Inv.execControlRegisterWrite {c v} : InvNext (execControlRegisterWrite c v s) := h.writeIfAllowed.ite h.next

end

end Sys2Proof
end

section
namespace Sys2Proof

open Machine

/-! The invariant, twelfth part: vector, mask, tile, control and farm instructions, and the wakes. -/

section
variable {s : State} (h : Inv s)
include h

-- vector and mask instructions

theorem Inv.vreduce {ok word f d a g} : InvNext (vreduce ok word f d a g s) :=
  h.illegalWord.ite (Inv.next (h.vecWhole fun _ h => h.wx.raise))

theorem Inv.execVid {d g} : InvNext (execVid d g s) := h.illegalWord.ite h.vecRun.next

theorem Inv.execVrng {d b g} : InvNext (execVrng d b g s) := h.illegalWord.ite h.vecRun.next

theorem Inv.execVdrop {d b g} : InvNext (execVdrop d b g s) := h.whenFree h.vecRun.next

theorem Inv.execKmovSmiss {d} : InvNext (execKmovSmiss d s) := h.whenFree h.withHart.plainEnd.next

theorem Inv.execVqntB4 {d a b c e} : InvNext (execVqntB4 d a b c e s) :=
  h.illegalWord.ite (Inv.next (h.vecWhole fun _ h => h.withHart))

theorem Inv.execVdqntB4 {d a b c e g} : InvNext (execVdqntB4 d a b c e g s) := h.illegalWord.ite h.vecRun.next

theorem Inv.execVqntS1 {d a b c e} : InvNext (execVqntS1 d a b c e s) :=
  h.illegalWord.ite (h.whenFree (Inv.next (h.vecWhole fun _ h => h.withHart)))

theorem Inv.execVdqntS1 {d a b e g} : InvNext (execVdqntS1 d a b e g s) := h.illegalWord.ite (h.whenFree h.vecRun.next)

theorem Inv.execVwhile {k v b o} : InvNext (execVwhile k v b o s) := by
  refine h.illegal.ite (h.stall.next.ite ?_)
  split
  · exact h.takeTrap.next
  · exact Inv.next (h.withHart.jump.ite h.withHart.advance)

-- matrix tiles

theorem Inv.mxop {m k a b g} : InvNext (mxop m k a b g s) := by
  refine h.onTile ?_
  dsimp only
  split
  · exact h.withHart.takeTrap.next
  · exact Inv.next (h.waive.withHart.advance.ite h.waive.withHart.settleArray.advance)

theorem Inv.mxmove {d k cells} : InvNext (mxmove d k cells s) := by
  unfold Machine.mxmove
  dsimp only
  split
  · exact h.takeTrap.next
  · exact h.withHart.advance.next

theorem Inv.execMxzero {d} : InvNext (execMxzero d s) := h.onTile h.withHart.advance.next

-- scalar and control instructions

theorem Inv.execFcvti {d a t f m} : InvNext (execFcvti d a t f m s) := h.raise.done1.next

theorem Inv.execJalr {d a i} : InvNext (execJalr d a i s) := h.takeTrap.next.ite h.wx.jump.next

theorem Inv.execExit : InvNext (execExit s) := h.illegal.ite (h.hartEnds.next.ite h.withHart.stall.next)

theorem Inv.execCrr {d c} : InvNext (execCrr d c s) := h.done1.next.ite h.illegal

theorem Inv.execCrw {d a c} : InvNext (execCrw d a c s) := h.cregWrite.done1.next.ite h.illegal

theorem Inv.execCrs {d a c} : InvNext (execCrs d a c s) :=
  InvNext.ite (h.done1.next.ite h.illegal) (h.cregWrite.done1.next.ite h.illegal)

theorem Inv.execCrc {d a c} : InvNext (execCrc d a c s) :=
  InvNext.ite (h.done1.next.ite h.illegal) (h.cregWrite.done1.next.ite h.illegal)

theorem Inv.execLaunch {d a} : InvNext (execLaunch d a s) := by
  refine h.takeTrap.next.ite ?_
  split
  · split
    · exact h.stall.next
    · exact h.launchCard.next
  · split
    · exact h.done1.next
    next hx => exact (h.readCard hx).launchCard.next

theorem Inv.execLcancel {d a} : InvNext (execLcancel d a s) := by
  unfold Machine.execLcancel
  dsimp only
  split
  · exact h.done1.next.ite (h.done1.next.ite h.done1.endLaunch.next)
  · exact h.done1.next

theorem Inv.execVsetvlB {d a b} : InvNext (execVsetvlB d a b s) := h.illegal.ite h.applyGrant.withHart.setVl.next

theorem Inv.execVsettype {d a} : InvNext (execVsettype d a s) := h.illegal.ite h.withHart.setVl.next

theorem Inv.execMxmode {d a b} : InvNext (execMxmode d a b s) := h.illegal.ite h.withHart.done1.next

theorem Inv.execCaston {d a} : InvNext (execCaston d a s) := by
  refine h.takeTrap.next.ite (h.settle1.next.ite (h.found.settle1.next.ite (h.settle1.next.ite ?_)))
  split
  · split
    · exact h.settle1.next
    · exact h.stall.next
  · exact h.request.send.next

theorem Inv.execCleave {d a} : InvNext (execCleave d a s) := by
  refine h.takeTrap.next.ite ?_
  split
  · split
    · exact h.settle1.next
    · exact h.stall.next
  · exact h.done1.next.ite h.request.takeRequest.next

-- strip farms

theorem Inv.execFarm {a b} : InvNext (execFarm a b s) := by
  refine InvNext.ite ?_ h.stall.next
  unfold farmArrive
  dsimp only
  split
  · exact h.takeTrap.next
  · exact h.takeTrap.next
  · exact h.passFarm.next.ite (h.stall.next.ite (h.updFarm.updFarm.post.passFarm.next.ite h.updFarm.stall.next))

theorem Inv.execStrip {d a} : InvNext (execStrip d a s) :=
  h.wx.wx.advance.next.ite (h.updFarm.wx.wx.advance.next.ite h.wx.wx.advance.next)

theorem Inv.farmred {op d a b} : InvNext (farmred op d a b s) := by
  unfold Machine.farmred
  dsimp only
  refine h.takeTrap.next.ite (h.takeTrap.next.ite (InvNext.ite ?_ (h.updFarm.done1.next.ite h.takeTrap.next)))
  split
  · exact h.updFarm.stall.next
  · exact h.updFarm.raise.done1.withHart.next

-- events at which a waiting hart goes on

theorem Inv.execFarmBarrierRelease {l f} : InvNext (execFarmBarrierRelease l f s) := by
  unfold Machine.execFarmBarrierRelease
  split
  · exact h.next
  · refine h.wakeAll fun w f hf t ht => ?_
    unfold farmWord at hf
    obtain ⟨-, rfl⟩ := Option.ite_some_none_eq_some.mp hf
    exact ht.execFarm

theorem Inv.execFarmredResult {i} : InvNext (execFarmredResult i s) := by
  refine h.wake fun w f hf t ht => ?_
  unfold farmredWord at hf
  obtain ⟨-, rfl⟩ := Option.ite_some_none_eq_some.mp hf
  exact ht.farmred

theorem Inv.execWaitwWake {i} : InvNext (execWaitwWake i s) := by
  refine h.wake fun w f hf t ht => ?_
  obtain ⟨-, rfl⟩ := Option.ite_some_none_eq_some.mp hf
  exact ht.actRun keeps_waitw

theorem Inv.execWeirwtWake {i} : InvNext (execWeirwtWake i s) := by
  refine h.wake fun w f hf t ht => ?_
  obtain ⟨-, rfl⟩ := Option.ite_some_none_eq_some.mp hf
  exact ht.actRun keeps_weirwt

theorem Inv.execVwmwaitWake {i} : InvNext (execVwmwaitWake i s) := by
  refine h.wake fun w f hf t ht => ?_
  obtain ⟨-, rfl⟩ := Option.ite_some_none_eq_some.mp hf
  exact ht.actRun keeps_vwmwait

theorem Inv.execCwaitReturn {i} : InvNext (execCwaitReturn i s) := by
  refine h.wake fun w f hf t ht => ?_
  obtain ⟨-, rfl⟩ := Option.ite_some_none_eq_some.mp hf
  exact ht.actRun keeps_cwait

theorem Inv.execHandleWaitReturn {i} : InvNext (execHandleWaitReturn i s) := by
  refine h.wake fun w f hf t ht => ?_
  split at hf
  · obtain rfl := Option.some.inj hf
    exact ht.actRun keeps_mswait
  · obtain ⟨-, rfl⟩ := Option.ite_some_none_eq_some.mp hf
    exact ht.actRun keeps_gwait

theorem Inv.execGatedElementRead {i} : InvNext (execGatedElementRead i s) := by
  refine h.wake fun w f hf t ht => ?_
  obtain ⟨-, hf⟩ := Option.ite_none_left_eq_some.mp hf
  split at hf
  · obtain rfl := Option.some.inj hf
    exact ht.vldWm
  · obtain ⟨-, rfl⟩ := Option.ite_some_none_eq_some.mp hf
    exact ht.vldxWm

end

end Sys2Proof
end

section
namespace Sys2Proof

open Machine

/-! The invariant, last part: every arm of `exec`, and steps. -/

theorem Inv.execVqsum {s : State} (h : Inv s) {d a c g} : InvNext (execVqsum d a c g s) := by
  unfold Machine.execVqsum
  exact h.vreduce

/-- Every instruction and event keeps the invariant, arm by arm of `exec`. -/
theorem Inv.exec (i : Instr) {s : State} (h : Inv s) : InvNext (exec i s) := by
  cases i with
  | boot => exact h.execBoot
  | linkService => exact h.execLinkService
  | patrolScrub => exact h.execPatrolScrub
  | hostPortRequest => exact h.execHostPortRequest
  | atsInvalidation => exact h.execAtsInvalidation
  | heartbeatReceive => exact h.execHeartbeatReceive
  | heartbeatTimeout => exact h.execHeartbeatTimeout
  | neighbourUnreachable => exact h.execNeighbourUnreachable
  | suspicionReport => exact h.execSuspicionReport
  | viewProposal => exact h.execViewProposal
  | proposalAck => exact h.execProposalAck
  | proposalAckTimeout => exact h.execProposalAckTimeout
  | viewCommit => exact h.execViewCommit
  | commitTimeout => exact h.execCommitTimeout
  | quiescenceHold => exact h.execQuiescenceHold
  | holdAck => exact h.execHoldAck
  | joinRequest => exact h.execJoinRequest
  | joinRequestRetry => exact h.execJoinRequestRetry
  | joinTimeout => exact h.execJoinTimeout
  | fabricFlitArrival => exact h.execFabricFlitArrival
  | remoteCopyAccess => exact h.execRemoteCopyAccess
  | remoteCopyRefused => exact h.execRemoteCopyRefused
  | collectiveMatch => exact h.execCollectiveMatch
  | collectiveComplete => exact h.execCollectiveComplete
  | targetCompletion => exact h.execTargetCompletion
  | powerReading => exact h.execPowerReading
  | attest => exact h.execAttest
  | jclear => exact h.execJclear
  | jread => exact h.execJread
  | logread => exact h.execLogread
  | keysetInstall => exact h.execKeysetInstall
  | keysetClear => exact h.execKeysetClear
  | spaceBind => exact h.execSpaceBind
  | spaceUnbind => exact h.execSpaceUnbind
  | unknownCode => exact h.execUnknownCode
  | imageVerificationDone => exact h.execImageVerificationDone
  | handlePostedSlot => exact h.execHandlePostedSlot
  | prereqWordMet => exact h.execPrereqWordMet
  | prereqUnreadable => exact h.execPrereqUnreadable
  | launchStart => exact h.execLaunchStart
  | promiseExpiry => exact h.execPromiseExpiry
  | completionRecordWrite => exact h.execCompletionRecordWrite
  | hostNotice => exact h.execHostNotice
  | refit => exact h.execRefit
  | standbyEntry => exact h.execStandbyEntry
  | standbyExitDone => exact h.execStandbyExitDone
  | publicationApply => exact h.execPublicationApply
  | copyComplete => exact h.execCopyComplete
  | weirArrival => exact h.execWeirArrival
  | cpygsRowLanded => exact h.execCpygsRowLanded
  | engineOperationComplete => exact h.execEngineOperationComplete
  | engineOperationStop => exact h.execEngineOperationStop
  | hartStop => exact h.execHartStop
  | hartRestore => exact h.execHartRestore
  | heldEventTake => exact h.execHeldEventTake
  | membershipChangeTrap => exact h.execMembershipChangeTrap
  | grantApply => exact h.execGrantApply
  | mtypeChange => exact h.execMtypeChange
  | instructionFetch => exact h.execInstructionFetch
  | vectorQueueDispatch => exact h.execVectorQueueDispatch
  | granuleCommit => exact h.execGranuleCommit
  | hartSaveDone => exact h.execHartSaveDone
  | stretchPreemption => exact h.execStretchPreemption
  | issueBudgetExhausted => exact h.execIssueBudgetExhausted
  | budgetGraceExpiry => exact h.execBudgetGraceExpiry
  | hartEnd => exact h.execHartEnd
  | statusAccess => exact h.execStatusAccess
  | controlRegisterWrite => exact h.execControlRegisterWrite
  | waitwWake => exact h.execWaitwWake
  | weirwtWake => exact h.execWeirwtWake
  | vwmwaitWake => exact h.execVwmwaitWake
  | cwaitReturn => exact h.execCwaitReturn
  | handleWaitReturn => exact h.execHandleWaitReturn
  | gatedElementRead => exact h.execGatedElementRead
  | farmBarrierRelease => exact h.execFarmBarrierRelease
  | farmredResult => exact h.execFarmredResult
  | homeAtomic => exact h.execHomeAtomic
  | remoteAtomicError => exact h.execRemoteAtomicError
  | vtypeWrite | vlWrite | slipWrite | seedWrite | dseedWrite | rminWrite | mtypeWrite | mvlWrite | spbaseWrite =>
    exact h.writeIfAllowed
  | slotPick => exact Inv.next (h.ite h.pickPart)
  | scalarStoreAck | priResponse | priTimeout => exact h.updHart.next
  | rds | rdx | upg => exact h.requests.next
  | evc => exact Inv.next (h.leaves.ite h)
  | wbd => exact Inv.next ((h.arrives h.leaves).ite h)
  | snps | snpx | inv | binv | fwd | data | rsp | cmp => exact h.message.next
  | heartbeatSend => exact h.send.next
  | holdUnion => exact h.updFabric.next
  | powerRemoved => exact (inv_kept s).next
  | illegalInstruction | brk | syscall => exact h.takeTrap.next
  | tret => exact h.trapReturn.next
  | add | sub | and | or | xor | andn | sll | srl | sra | ror | slt | sltn | min | max | mul | mulh | mulhn | div | divn
  | rem | remn | clz | popc | slli | srli | srai | rori | addi | andi | ori | xori | slti | sltni | lhi | pchi | cview
  | cviewFid | lstat => exact h.done1.next
  | fmin | fmax | fcvt | fadd | fsub | fmul | fdiv | fsqrt | fcvtf => exact h.fdone.next
  | feq | flt | fle => exact h.frelDone.next
  | fma | fms | fnma | fnms => exact h.fmaDone.next
  | fcvti => exact h.execFcvti
  | beq | bne | blt | bge | bltn | bgen => exact h.branchIf.next
  | jal => exact h.wx.jump.next
  | jalr => exact h.execJalr
  | kbrAny | kbrNone | kbrAll | kbrNall =>
    dsimp only [Machine.exec, execKbrAny, execKbrNone, execKbrAll, execKbrNall]
    exact h.kbr
  | vwhile => exact h.execVwhile
  | yield => exact h.advance.withHart.next
  | exit => exact h.execExit
  | fence => exact h.execFence
  | waitw => exact h.actRun keeps_waitw
  | crr => exact h.execCrr
  | crw => exact h.execCrw
  | crs => exact h.execCrs
  | crc => exact h.execCrc
  | ctxsv => exact h.execCtxsv
  | ctxld => exact h.execCtxld
  | tlbinvPage | tlbinvAsid | tlbinvAll => exact h.illegal.ite h.invalidate
  | asw => exact h.execAsw
  | launch => exact h.execLaunch
  | lcancel => exact h.execLcancel
  | farm => exact h.execFarm
  | strip => exact h.execStrip
  | farmredF64 | farmredMin | farmredMax | farmredI64 => exact h.farmred
  | ldI8 | ldI16 | ldI32 | ldI64 | ldN8 | ldN16 | ldN32 => exact h.actRun keeps_loadScalar
  | stI8 | stI16 | stI32 | stI64 => exact h.actRun keeps_storeScalar
  | atswap | atadd | atand | ator | atxor | atmin | atmax | atminN | atmaxN => exact h.actRun keeps_amo
  | atfadd => exact h.execAtfadd (n := 0)
  | ldo => exact h.execLdo (n := 0)
  | sto => exact h.execSto (n := 0)
  | cas => exact h.execCas (n := 0)
  | vsetvl => exact h.applyGrant.setVl.next
  | vsetvlB => exact h.execVsetvlB
  | vsettype => exact h.execVsettype
  | mxmode => exact h.execMxmode
  | vadd | vsub | vrsub | vand | vor | vxor | vsll | vsrl | vsra | vmin | vmax | vminn | vmaxn | vmul | vmulh | vmulhn
  | vdiv | vdivn | vrem | vremn | vsadd | vsaddn | vssub | vssubn | vmuln | vaddVx | vsubVx | vrsubVx | vandVx | vorVx
  | vxorVx | vsllVx | vsrlVx | vsraVx | vminVx | vmaxVx | vminnVx | vmaxnVx | vmulVx | vmulhVx | vmulhnVx | vdivVx
  | vdivnVx | vremVx | vremnVx | vsaddVx | vsaddnVx | vssubVx | vssubnVx | vmulnVx => exact h.illegalWord.ite h.vecRun.next
  | vmv | vmvVx => exact h.illegalWord.ite h.vecRun.next
  | vid => exact h.execVid
  | vfadd | vfsub | vfmul | vfdiv | vfmin | vfmax | vfsigncp | vfsignneg | vfsignxor | vfaddVx | vfsubVx | vfmulVx
  | vfdivVx | vfminVx | vfmaxVx | vfsigncpVx | vfsignnegVx | vfsignxorVx => exact h.illegalWord.ite h.vecRun.next
  | vfsqrt | vfcvti | vfcvtin | vfcvtf | vfcvtfn => exact h.illegalWord.ite h.vecRun.next
  | vfma | vfms | vfnma | vfnms => exact h.illegalWord.ite h.vecRun.next
  | vcmpeq | vcmpne | vcmplt | vcmple | vcmpgt | vcmpge | vcmpltn | vcmplen | vcmpgtn | vcmpgen | vfcmpeq | vfcmpne
  | vfcmplt | vfcmple | vfcmpgt | vfcmpge | vfcmpun | vcmpeqVx | vcmpneVx | vcmpltVx | vcmpleVx | vcmpgtVx | vcmpgeVx
  | vcmpltnVx | vcmplenVx | vcmpgtnVx | vcmpgenVx | vfcmpeqVx | vfcmpneVx | vfcmpltVx | vfcmpleVx | vfcmpgtVx
  | vfcmpgeVx | vfcmpunVx => exact h.illegalWord.ite (h.whenFree h.vecRun.next)
  | vslideup | vslidedn | vinslo | vinshi | vbcast | vrev =>
    exact h.illegalWord.ite (h.whenFree (Inv.next (h.vecWhole fun _ h => h.withHart)))
  | vshuf | vcompress | vexpand | viota =>
    exact h.illegalWord.ite (h.whenFree (Inv.next (h.vecWhole fun _ h => h.withHart)))
  | vredsum | vredand | vredor | vredxor | vredmin | vredmax | vredminn | vredmaxn =>
    exact h.illegalWord.ite (Inv.next (h.vecWhole fun _ h => h.wx.raise))
  | vfredsum | vfredmin | vfredmax =>
    exact h.illegalWord.ite (Inv.next (h.vecWhole fun _ h => h.wx.raise))
  | vqsum => exact h.execVqsum
  | vcvt | vcvtNs | vscvt => exact h.illegalWord.ite h.vecRun.next
  | vqntB4 => exact h.execVqntB4
  | vdqntB4 => exact h.execVdqntB4
  | vqntS1 => exact h.execVqntS1
  | vdqntS1 => exact h.execVdqntS1
  | vrng => exact h.execVrng
  | vdrop => exact h.execVdrop
  | kand | kor | kxor | kandn | knot | kmov => exact h.whenFree (Inv.next (h.upToCut fun _ h => h.plainEnd))
  | kpop | kfirst => exact h.whenFree (Inv.next (Inv.plainEnd (h.ite h.wx)))
  | kmovSmiss => exact h.execKmovSmiss
  | vld | vldAcqDie | vldAcqPkg | vldAcqSys => exact h.vld
  | vldWm => exact h.vldWm
  | vldx | vldxAcqDie | vldxAcqPkg | vldxAcqSys | vldxDup | vldxDupAcqDie | vldxDupAcqPkg | vldxDupAcqSys => exact h.vldx
  | vldxWm => exact h.vldxWm
  | vst | vstRelDie | vstRelPkg | vstRelSys => exact h.vst
  | vstU => exact h.execVstU
  | vstNt => exact h.execVstNt
  | vstx | vstxRelDie | vstxRelPkg | vstxRelSys => exact h.vstx
  | vstxU => exact h.execVstxU
  | vstxAdd =>
    dsimp only [Machine.exec, execVstxAdd]
    exact h.scatter
  | vstxFadd => exact h.execVstxFadd
  | vatadd | vatswap | vatand | vator | vatxor | vatmin | vatmax =>
    dsimp only [Machine.exec, execVatadd, execVatswap, execVatand, execVator, execVatxor, execVatmin, execVatmax]
    exact h.vamo
  | vatfadd => exact h.execVatfadd
  | ybind => exact h.execYbind
  | vyld => exact h.execVyld
  | vyst => exact h.execVyst
  | yrel => exact h.execYrel
  | ystat | ybyte => exact h.actRun keeps_yarnFact
  | vwmbind => exact h.execVwmbind
  | vwmaddr => exact h.execVwmaddr
  | vwmpub => exact h.execVwmpub
  | vwmwait => exact h.actRun keeps_vwmwait
  | cpy => exact h.execCpy (n := 0)
  | cpyrg => exact h.execCpyrg (n := 0)
  | cpyrp => exact h.execCpyrp (n := 0)
  | cpygs => exact h.execCpygs
  | cpyrk => exact h.execCpyrk (n := 0)
  | weirarm => exact h.execWeirarm
  | weirwt => exact h.actRun keeps_weirwt
  | msopen => exact h.execMsopen
  | msclose => exact h.execMsclose
  | mskey | msfind =>
    dsimp only [Machine.exec, execMskey, execMsfind]
    exact h.mskeyfind
  | msrefine | msbal | msghost => exact h.actRun keeps_meshJob
  | mscolor => exact h.actRun keeps_mscolor
  | msremap => exact h.actRun keeps_msremap
  | mswait => exact h.actRun keeps_mswait
  | gbind => exact h.actRun keeps_gbind
  | gtable => exact h.execGtable
  | gsweep => exact h.actRun keeps_gsweep
  | greadState | greadMarg | greadMargClr => exact h.actRun keeps_gread
  | gwait => exact h.actRun keeps_gwait
  | grel => exact h.execGrel
  | caston => exact h.execCaston
  | cleave => exact h.execCleave
  | cviewMap => exact h.execCviewMap
  | coll => exact h.actRun keeps_coll
  | cwait => exact h.actRun keeps_cwait
  | mxzero => exact h.execMxzero
  | mxopa | mxops => exact h.mxop
  | mxrow | mxcol => exact h.onTile h.mxmove
  | mxldRm | mxldCm => exact h.mxld
  | mxstRm | mxstCm => exact h.mxst

-- steps

theorem Inv.runHart {s : State} (h : Inv s) : InvNext (runHart s) := by
  unfold Machine.runHart
  split
  · exact h.takeTrap.next
  next hx =>
    split
    · exact (h.fetch hx).countTraffic.exec _
    · exact (h.fetch hx).countTraffic.exec _

theorem Inv.handle {s : State} (h : Inv s) {e : Instr} : InvNext (handle e s) := h.next.ite (h.exec e)

theorem Inv.issue {s : State} (h : Inv s) {i : Nat} : InvNext (issue i s) := by
  unfold Machine.issue
  dsimp only
  split
  · exact h.next
  · refine InvNext.ite ?_ h.updHart.next
    have hr := (h.giveTurn (i := i) (n := s.parked.length + 1)).runHart
    split
    next hx => exact (hr _ hx).updHart.next
    · exact hr

theorem Inv.step {s : State} (h : Inv s) : InvNext (step s) := by
  unfold Machine.step
  split
  · exact Inv.handle (Inv.tick h.rest)
  · split
    · exact fun _ ht => by cases ht
    · split
      · have hi {i p} : InvNext (Machine.issue i (Machine.tick { s with picked := p })) := Inv.issue (Inv.tick h.rest)
        split
        next hx => exact (hi _ hx).goOn.next
        · exact hi
      · exact h.tick.round.goOn.next

/-- Settles O60: every arm of `exec` keeps the invariant, and so do the clock, the picks and the work that goes on by itself. -/
theorem everyStepKeepsTheInvariant : Obligations.EveryStepKeepsTheInvariant := fun _ t h => h.step t

/-- Settles O59: at reset no byte of device memory is listed and there is no region. -/
theorem resetMeetsTheInvariant : Obligations.ResetMeetsTheInvariant := inv_reset

end Sys2Proof
end

section
namespace Sys2Proof.Machine

open Claims

/-! Configuration of vectors and tiles (R92, R211 to R213, R236, R237). -/

theorem admitted_iff (v : Word) : admitted v = true ↔ AdmittedType v := by
  unfold admitted AdmittedType
  simp only [Bool.and_eq_true, Bool.or_eq_true, decide_eq_true_eq, beq_iff_eq]
  simp only [bitsAt, Nat.reducePow]
  omega

theorem State.applyGrant_none {s : State} (h : s.hart.target = none) : s.applyGrant = s := by
  unfold State.applyGrant
  rw [h]

-- what setting VL leaves (R212)

section
variable (s : State) (d : Reg) (n : Nat)

@[simp] theorem State.setVl_pc : (s.setVl d n).hart.pc = s.hart.pc + 4 := by simp [State.setVl]

@[simp] theorem State.setVl_vl : (s.setVl d n).hart.vl = min n (maxVl s.hart.vtype s.hart.grant) := by simp [State.setVl]

@[simp] theorem State.setVl_vstart : (s.setVl d n).hart.vstart = 0 := by simp [State.setVl]

@[simp] theorem State.setVl_vtype : (s.setVl d n).hart.vtype = s.hart.vtype := by simp [State.setVl]

@[simp] theorem State.setVl_grant : (s.setVl d n).hart.grant = s.hart.grant := by simp [State.setVl]

theorem State.wrote_setVl : Wrote s (s.setVl d n) d (BitVec.ofNat 64 (s.setVl d n).hart.vl) := by
  intro r
  rw [State.setVl_vl]
  exact State.rx_done1 _ d r _

theorem State.onlyConfig_setVl : OnlyConfig s (s.setVl d n) := by
  unfold OnlyConfig State.setVl
  rw [State.done1_eq]
  rfl

end

/-- VL is set under a new VTYPE. -/
theorem State.setVl_under (s : State) (v : Word) (d : Reg) (n : Nat) :
    let t := (s.withHart fun h => { h with vtype := v }).setVl d n
    OnlyConfig s t ∧ Onward s t ∧ t.hart.vstart = 0 ∧ t.hart.vtype = v ∧ t.hart.vl = min n (maxVl v s.hart.grant) ∧
      Wrote s t d (BitVec.ofNat 64 t.hart.vl) := by
  refine ⟨?_, State.setVl_pc .., State.setVl_vstart .., State.setVl_vtype .., State.setVl_vl .., State.wrote_setVl _ _ _⟩
  unfold OnlyConfig State.setVl
  rw [State.done1_eq]
  rfl

theorem exec_vsetvlB {d a b : Reg} {s : State} (h : AdmittedType (s.rx b)) :
    exec (.vsetvlB d a b) s = .next ((s.applyGrant.withHart fun h => { h with vtype := s.rx b }).setVl d (s.rx a).toNat) := by
  show execVsetvlB d a b s = _
  unfold execVsetvlB
  rw [(admitted_iff _).mpr h]
  rfl

theorem exec_vsetvlB_illegal {d a b : Reg} {s : State} (h : ¬ AdmittedType (s.rx b)) :
    exec (.vsetvlB d a b) s = .next (takeTrap true 1 ((encodeWord (.vsetvlB d a b)).setWidth 64) 0 s) := by
  show execVsetvlB d a b s = _
  unfold execVsetvlB
  rw [Bool.eq_false_iff.mpr (mt (admitted_iff _).mp h)]
  rfl

theorem exec_vsettype {d a : Reg} {s : State} (h : AdmittedType (s.rx a)) :
    exec (.vsettype d a) s = .next ((s.withHart fun h => { h with vtype := s.rx a }).setVl d s.hart.vl) := by
  show execVsettype d a s = _
  unfold execVsettype
  rw [(admitted_iff _).mpr h]
  rfl

theorem exec_vsettype_illegal {d a : Reg} {s : State} (h : ¬ AdmittedType (s.rx a)) :
    exec (.vsettype d a) s = .next (takeTrap true 1 ((encodeWord (.vsettype d a)).setWidth 64) 0 s) := by
  show execVsettype d a s = _
  unfold execVsettype
  rw [Bool.eq_false_iff.mpr (mt (admitted_iff _).mp h)]
  rfl

theorem vectorConfigurationSetsVl : VectorConfigurationSetsVl := by
  intro d a b s ht
  refine ⟨⟨_, rfl, ?_⟩, fun hb => ?_, fun ha => ⟨_, exec_vsettype ha, s.setVl_under ..⟩, exec_vsetvlB_illegal,
    exec_vsettype_illegal⟩
  · rw [State.applyGrant_none ht]
    exact ⟨s.onlyConfig_setVl d _, s.setVl_pc d _, s.setVl_vstart d _, s.setVl_vtype d _, s.setVl_vl d _, s.wrote_setVl d _⟩
  · refine ⟨_, exec_vsetvlB hb, ?_⟩
    rw [State.applyGrant_none ht]
    exact s.setVl_under ..

-- registers under a new number of elements (R92)

theorem bitsAt_one (x p : Nat) : bitsAt x p 1 = (x.testBit p).toNat := (Nat.toNat_testBit x p).symm

/-- Planes of `e` bits each, laid one after another. -/
def planesSum (a : Nat → Nat) (e n : Nat) : Nat := ((List.range n).map fun j => a j * 2 ^ (j * e)).sum

theorem planesSum_succ (a : Nat → Nat) (e n : Nat) : planesSum a e (n + 1) = 2 ^ (n * e) * a n + planesSum a e n := by
  unfold planesSum
  rw [List.range_succ, List.map_append, List.sum_append]
  simp [Nat.mul_comm, Nat.add_comm]

theorem planesSum_lt {a : Nat → Nat} {e : Nat} (ha : ∀ j, a j < 2 ^ e) (n : Nat) : planesSum a e n < 2 ^ (n * e) := by
  induction n with
  | zero => simp [planesSum]
  | succ n ih =>
    rw [planesSum_succ, Nat.succ_mul, Nat.pow_add]
    calc 2 ^ (n * e) * a n + planesSum a e n < 2 ^ (n * e) * a n + 2 ^ (n * e) := Nat.add_lt_add_left ih _
      _ = 2 ^ (n * e) * (a n + 1) := (Nat.mul_succ _ _).symm
      _ ≤ 2 ^ (n * e) * 2 ^ e := Nat.mul_le_mul_left _ (ha n)

theorem testBit_planesSum {a : Nat → Nat} {e : Nat} (ha : ∀ j, a j < 2 ^ e) {n j p : Nat} (hj : j < n) (hp : p < e) :
    (planesSum a e n).testBit (j * e + p) = (a j).testBit p := by
  induction n with
  | zero => omega
  | succ n ih =>
    rw [planesSum_succ, Nat.testBit_two_pow_mul_add _ (planesSum_lt ha n)]
    rcases Nat.lt_succ_iff_lt_or_eq.mp hj with hlt | rfl
    · have hle : (j + 1) * e ≤ n * e := Nat.mul_le_mul_right e hlt
      rw [Nat.succ_mul] at hle
      rw [if_pos (by omega), ih hlt]
    · rw [if_neg (by omega), Nat.add_sub_cancel_left]

/-- An element of a register that has moved to a new number of elements is as before below both, and zero beyond the old one. -/
theorem regElem_moveReg {w gm e e' v p : Nat} {sliced : Bool} (hp : p < e') :
    regElem ⟨w, sliced, gm, e'⟩ (moveReg w sliced e e' v) p = if p < e then regElem ⟨w, sliced, gm, e⟩ v p else 0 := by
  cases sliced with
  | false =>
    simp only [regElem, moveReg, Bool.false_eq_true, if_false]
    refine Nat.eq_of_testBit_eq fun i => ?_
    rw [testBit_bitsAt, Nat.testBit_mod_two_pow]
    split
    next he =>
      rw [testBit_bitsAt]
      by_cases hi : i < w
      · have hle : (p + 1) * w ≤ min e e' * w := Nat.mul_le_mul_right w (by omega)
        rw [Nat.succ_mul] at hle
        simp [hi, show p * w + i < min e e' * w by omega]
      · simp [hi]
    next he =>
      have hle : min e e' * w ≤ p * w := Nat.mul_le_mul_right w (by omega)
      simp [show ¬ p * w + i < min e e' * w by omega]
  | true =>
    simp only [regElem, moveReg, if_true]
    have hlt : ∀ j, bitsAt v (j * e) (min e e') < 2 ^ e' := fun j =>
      Nat.lt_of_lt_of_le (Nat.mod_lt _ (Nat.two_pow_pos _)) (Nat.pow_le_pow_right (by decide) (Nat.min_le_right e e'))
    have hbit : ∀ j < w, bitsAt (planesSum (fun j => bitsAt v (j * e) (min e e')) e' w) (j * e' + p) 1 =
        if p < e then bitsAt v (j * e + p) 1 else 0 := fun j hj => by
      rw [bitsAt_one, testBit_planesSum hlt hj hp, testBit_bitsAt, bitsAt_one]
      by_cases he : p < e
      · simp [he, hp]
      · simp [he]
    split
    next he =>
      refine congrArg List.sum (List.map_congr_left fun j hj => ?_)
      have h := hbit j (List.mem_range.mp hj)
      rw [if_pos he] at h
      exact congrArg (· * 2 ^ j) h
    next he =>
      refine List.sum_eq_zero fun x hx => ?_
      obtain ⟨j, hj, rfl⟩ := List.mem_map.mp hx
      have h := hbit j (List.mem_range.mp hj)
      rw [if_neg he] at h
      exact (congrArg (· * 2 ^ j) h).trans (Nat.zero_mul _)

-- the application of a grant (R92)

section
variable {s : State} {g : Nat} (h : s.hart.target = some g)
include h

theorem State.applyGrant_hart : s.applyGrant.hart = s.hart.regrant g := by
  unfold State.applyGrant
  rw [h]
  exact State.trackGrant_hart _

theorem State.applyGrant_mem : s.applyGrant.mem = s.mem := by
  unfold State.applyGrant
  rw [h]
  exact State.trackGrant_mem _

theorem State.applyGrant_rx (r : Reg) : s.applyGrant.rx r = s.rx r :=
  State.rx_congr (by rw [State.applyGrant_hart h]; rfl) r

/-- A register's elements once the grant is the hart's own. -/
theorem State.applyGrant_elem {r p : Nat} (hr : r < 32) (hp : p < s.applyGrant.hart.cfg.per) :
    regElem s.applyGrant.hart.cfg (s.applyGrant.hart.vreg r) p =
      if p < s.hart.cfg.per then regElem s.hart.cfg (s.hart.vreg r) p else 0 := by
  rw [State.applyGrant_hart h] at hp ⊢
  have hv : (s.hart.regrant g).vreg r =
      moveReg (widthOf s.hart.vtype) (s.hart.ew == 4) s.hart.cfg.per (s.hart.regrant g).cfg.per (s.hart.vreg r) := by
    unfold Hart.vreg Hart.regrant
    simp [hr, Hart.cfg]
  rw [hv]
  exact regElem_moveReg hp

end

-- words of VSETVL and MXMODE

theorem wordD_of_toNat {w : BitVec 32} {d : Reg} (h : w.toNat / 2 ^ 21 % 32 = d.toNat) : wordD w = d := by
  refine BitVec.eq_of_toNat_eq ?_
  rw [wordD, BitVec.extractLsb'_toNat, Nat.shiftRight_eq_div_pow]
  exact h

theorem wordA_of_toNat {w : BitVec 32} {a : Reg} (h : w.toNat / 2 ^ 16 % 32 = a.toNat) : wordA w = a := by
  refine BitVec.eq_of_toNat_eq ?_
  rw [wordA, BitVec.extractLsb'_toNat, Nat.shiftRight_eq_div_pow]
  exact h

theorem wordB_of_toNat {w : BitVec 32} {b : Reg} (h : w.toNat / 2 ^ 11 % 32 = b.toNat) : wordB w = b := by
  refine BitVec.eq_of_toNat_eq ?_
  rw [wordB, BitVec.extractLsb'_toNat, Nat.shiftRight_eq_div_pow]
  exact h

/-- A word of major 0x1E with the fields d, a and b (R112). -/
theorem wordFields {w : BitVec 32} {d a b : Reg} {n : Nat} (hn : n < 2048)
    (hw : w = BitVec.ofNat 32 (0x78000000 + n + d.toNat * 2 ^ 21 + a.toNat * 2 ^ 16 + b.toNat * 2 ^ 11)) :
    wordD w = d ∧ wordA w = a ∧ wordB w = b := by
  have hd : d.toNat < 32 := d.isLt
  have ha : a.toNat < 32 := a.isLt
  have hb : b.toNat < 32 := b.isLt
  have ht : w.toNat = 0x78000000 + n + d.toNat * 2 ^ 21 + a.toNat * 2 ^ 16 + b.toNat * 2 ^ 11 := by
    rw [hw, BitVec.toNat_ofNat]
    omega
  exact ⟨wordD_of_toNat (by omega), wordA_of_toNat (by omega), wordB_of_toNat (by omega)⟩

theorem wordFields_vsetvl (d a : Reg) : wordD (encodeWord (.vsetvl d a)) = d ∧ wordA (encodeWord (.vsetvl d a)) = a := by
  obtain ⟨hd, ha, -⟩ := wordFields (w := encodeWord (.vsetvl d a)) (d := d) (a := a) (b := 0) (n := 0) (by decide) rfl
  exact ⟨hd, ha⟩

theorem wordFields_vsetvlB (d a b : Reg) : wordD (encodeWord (.vsetvlB d a b)) = d ∧ wordA (encodeWord (.vsetvlB d a b)) = a ∧
    wordB (encodeWord (.vsetvlB d a b)) = b := wordFields (n := 0x40) (by decide) rfl

theorem wordFields_mxmode (d a b : Reg) : wordD (encodeWord (.mxmode d a b)) = d ∧ wordA (encodeWord (.mxmode d a b)) = a ∧
    wordB (encodeWord (.mxmode d a b)) = b := wordFields (n := 0xC0) (by decide) rfl

theorem State.isVsetvl_vsetvl (s : State) (d a : Reg) : s.isVsetvl (encodeWord (.vsetvl d a)) = true := by
  obtain ⟨hd, ha⟩ := wordFields_vsetvl d a
  simp [State.isVsetvl, hd, ha]

theorem State.isVsetvl_vsetvlB {s : State} {d a b : Reg} (h : AdmittedType (s.rx b)) :
    s.isVsetvl (encodeWord (.vsetvlB d a b)) = true := by
  obtain ⟨hd, ha, hb⟩ := wordFields_vsetvlB d a b
  simp [State.isVsetvl, hd, ha, hb, (admitted_iff _).mpr h]

/-- GRANT_APPLY for the acting hart, at a word that is a VSETVL. -/
theorem exec_grantApply {s t : State} {w : BitVec 32} (hf : fetch s = .ok (w, t)) (hw : s.isVsetvl w = true)
    (hid : s.applyGrant.hart.hid = s.hart.hid) : exec (.grantApply s.hart.hid) s = .next s.applyGrant := by
  show execGrantApply s.hart.hid s = _
  unfold execGrantApply
  refine asHart_self ?_ hid
  rw [State.nextWord_of_fetch hf]
  simp only [hw, if_true]

theorem grantApplicationKeepsTheCommonElements : GrantApplicationKeepsTheCommonElements := by
  intro s g hg _ _
  have hh := State.applyGrant_hart hg
  refine ⟨fun ⟨w, s', d, a, hf, hw⟩ => ⟨_, exec_grantApply hf ?_ (by rw [hh]; rfl), by rw [hh]; rfl, by rw [hh]; rfl, by rw [hh]; rfl,
    State.applyGrant_rx hg, State.applyGrant_mem hg, by rw [hh]; rfl, by rw [hh]; rfl, fun r p hr => State.applyGrant_elem hg hr⟩,
    fun d a => ⟨_, rfl, ?_, ?_, ?_, fun r => ?_⟩⟩
  · rcases hw with rfl | ⟨b, rfl, hb⟩
    · exact s.isVsetvl_vsetvl d a
    · exact State.isVsetvl_vsetvlB hb
  · rw [State.setVl_grant, hh]
    rfl
  · rw [Onward, State.setVl_pc, hh]
    rfl
  · rw [State.setVl_vl, hh]
    rfl
  · exact (State.wrote_setVl _ d _ r).trans (by rw [State.applyGrant_rx hg])

-- MXMODE (R237)

theorem Hart.retype_spec (h : Hart) (f : Nat) : (h.retype f).ifmt = f ∧ (h.ifmt = f → (h.retype f).acc = h.acc) ∧
    (h.ifmt ≠ f → (h.retype f).acc = Vector.replicate 4 0) ∧
    h.retype f = { h with ifmt := f, acc := (h.retype f).acc, poison := (h.retype f).poison } := by
  unfold Hart.retype
  split
  next hf => exact ⟨hf.symm, fun _ => rfl, fun hne => absurd hf.symm hne, by rw [hf]⟩
  next hf => exact ⟨rfl, fun he => absurd he.symm hf, fun _ => rfl, rfl⟩

/-- The shape and the type that MXMODE names. -/
def Hart.shaped (h : Hart) (x m : Word) : Hart :=
  { h.retype m.toNat with mrows := min (x.toNat % 65536) 32, mcols := min (x.toNat / 65536 % 65536) 32 }

theorem Hart.shaped_eq (h : Hart) (x m : Word) : h.shaped x m = { h with
    ifmt := m.toNat, acc := (h.retype m.toNat).acc, poison := (h.retype m.toNat).poison, mrows := min (x.toNat % 65536) 32,
    mcols := min (x.toNat / 65536 % 65536) 32 } := by
  obtain ⟨-, -, -, heq⟩ := Hart.retype_spec h m.toNat
  unfold Hart.shaped
  rw [heq]

theorem exec_mxmode {d a b : Reg} {s : State} (hb : (s.rx b).toNat ≤ 8) : exec (.mxmode d a b) s =
    .next ((s.withHart (·.shaped (s.rx a) (s.rx b))).done1 d (s.hart.shaped (s.rx a) (s.rx b)).mvl) := by
  show execMxmode d a b s = _
  unfold execMxmode
  rw [if_neg (by show ¬ 8 < (s.rx b).toNat; omega)]
  simp only [bitsAt, Nat.reducePow, Nat.div_one]
  rfl

theorem exec_mxmode_illegal {d a b : Reg} {s : State} (hb : 8 < (s.rx b).toNat) :
    exec (.mxmode d a b) s = .next (takeTrap true 1 ((encodeWord (.mxmode d a b)).setWidth 64) 0 s) := by
  show execMxmode d a b s = _
  unfold execMxmode
  rw [if_pos hb]
  rfl

/-- MTYPE_CHANGE for the acting hart, at an MXMODE that names the type. -/
theorem exec_mtypeChange {d a b : Reg} {s s' : State} (hf : fetch s = .ok (encodeWord (.mxmode d a b), s'))
    (hb : (s.rx b).toNat ≤ 8) (hid : (s.hart.retype (s.rx b).toNat).hid = s.hart.hid) :
    exec (.mtypeChange s.hart.hid (s.rx b)) s = .next (s.withHart (·.retype (s.rx b).toNat)) := by
  obtain ⟨hwd, hwa, hwb⟩ := wordFields_mxmode d a b
  show execMtypeChange s.hart.hid (s.rx b) s = _
  unfold execMtypeChange
  refine asHart_self ?_ hid
  rw [State.nextWord_of_fetch hf]
  simp only [hwd, hwa, hwb, hb, and_self, if_true]

theorem mxmodeSetsShapeAndType : MxmodeSetsShapeAndType := by
  intro d a b s
  obtain ⟨hifmt, hsame, hnew, heq⟩ := Hart.retype_spec s.hart (s.rx b).toNat
  refine ⟨fun hb => ⟨_, exec_mxmode hb, ?_⟩, exec_mxmode_illegal, fun s' hf hb =>
    ⟨_, exec_mtypeChange hf hb (by rw [heq]), by rw [State.withHart_hart, heq], State.rx_congr (by rw [State.withHart_hart, heq]),
      hifmt, hnew⟩⟩
  have hx (r : Reg) : (s.withHart (·.shaped (s.rx a) (s.rx b))).rx r = s.rx r :=
    State.rx_congr (by rw [State.withHart_hart, Hart.shaped_eq]) r
  refine ⟨?_, ?_, ?_, ?_, ?_, fun r => ?_, fun h => ?_, fun h => ?_⟩
  · simp [Onward, Hart.shaped_eq]
  · rw [State.done1_eq]
    simp only [State.withHart, Hart.shaped_eq]
  · simp [Hart.shaped_eq]
  · simp [Hart.shaped_eq]
  · simp [Hart.shaped_eq]
  · rw [State.rx_done1, hx]
    simp [Hart.shaped_eq, Hart.mvl, wordOfNat, Nat.mul_comm]
  · simpa [Hart.shaped_eq] using hsame h
  · simpa [Hart.shaped_eq] using hnew h

/-- Settles O17: VL is set under the VTYPE and the grant in force; a register that moves to a new grant keeps the elements that both
hold; MXMODE changes the shape and the type. -/
theorem configurationInstructionsComplete : Obligations.ConfigurationInstructionsComplete :=
  ⟨vectorConfigurationSetsVl, grantApplicationKeepsTheCommonElements, mxmodeSetsShapeAndType⟩

end Sys2Proof.Machine
end

section
namespace Sys2Proof.Machine

open Claims

/-! Strip farms (R97, R98, R201 to R203). -/

-- the farm of the acting hart

theorem State.myFarm_congr {s t : State} (hl : t.lu = s.lu) (hlid : t.hart.lid = s.hart.lid) (hj : t.hart.j = s.hart.j)
    (hid : t.hart.hid = s.hart.hid) : t.myFarm = s.myFarm := by
  unfold State.myFarm State.myLaunch State.launch?
  rw [hl, hlid, hj, hid]

@[simp] theorem State.updFarm_hart (s : State) (g : Farm → Farm) : (s.updFarm g).hart = s.hart := by
  unfold State.updFarm
  split <;> rfl

/-- A launch with the farm of its hart j changed. -/
def Launch.withFarm (l : Launch) (j : Nat) (g : Farm → Farm) : Launch := { l with farm := l.farm.modify (l.farmOf j) g }

theorem State.updFarm_of_launch {s : State} {l : Launch} (h : s.myLaunch = some l) (g : Farm → Farm) :
    s.updFarm g = s.updLaunch l.lid (·.withFarm s.hart.j g) := by
  unfold State.updFarm
  rw [h]
  rfl

/-- The launch of the acting hart after a change of its farm. -/
theorem State.myLaunch_updFarm (s : State) (g : Farm → Farm) :
    (s.updFarm g).myLaunch = s.myLaunch.map (·.withFarm s.hart.j g) := by
  cases hl : s.myLaunch with
  | some l =>
    have hlid : s.launch? s.hart.lid = some l := hl
    rw [State.updFarm_of_launch hl]
    show (s.updLaunch l.lid _).launch? s.hart.lid = _
    rw [State.launch?_updLaunch s (f := (·.withFarm s.hart.j g)) fun _ => rfl, hlid]
    simp
  | none =>
    unfold State.updFarm
    rw [hl]
    exact hl

theorem State.myFarm_updFarm {s : State} (h : FarmExists s) (g : Farm → Farm) : (s.updFarm g).myFarm = g s.myFarm := by
  have hl := s.myLaunch_updFarm g
  unfold FarmExists at h
  unfold State.myFarm
  rw [hl, State.updFarm_hart]
  cases hm : s.myLaunch with
  | some l =>
    rw [hm] at h
    obtain ⟨f, hf⟩ := Option.isSome_iff_exists.mp h
    show ((l.farm.modify (l.farmOf s.hart.j) g)[l.farmOf s.hart.j]?).getD Farm.empty = g ((l.farm[l.farmOf s.hart.j]?).getD Farm.empty)
    rw [List.getElem?_modify, hf]
    simp
  | none =>
    rw [hm] at h
    have hlt : s.hart.hid < 16 := h
    unfold State.updFarm
    rw [hm]
    show ((s.lu.ownFarms.setIfInBounds s.hart.hid _)[s.hart.hid]?).getD Farm.empty = _
    rw [Vector.getElem?_setIfInBounds]
    simp [hlt]

theorem State.farmExists_updFarm {s : State} (h : FarmExists s) (g : Farm → Farm) : FarmExists (s.updFarm g) := by
  unfold FarmExists at h ⊢
  rw [State.myLaunch_updFarm, State.updFarm_hart]
  cases hm : s.myLaunch with
  | some l =>
    rw [hm] at h
    show ((l.farm.modify (l.farmOf s.hart.j) g)[l.farmOf s.hart.j]?).isSome = true
    rw [List.getElem?_modify]
    simpa using h
  | none =>
    rw [hm] at h
    exact h

theorem State.myFarmHarts_updFarm (s : State) (g : Farm → Farm) : (s.updFarm g).myFarmHarts = s.myFarmHarts := by
  unfold State.myFarmHarts
  rw [State.myLaunch_updFarm, State.updFarm_hart]
  cases s.myLaunch <;> rfl

end Sys2Proof.Machine

namespace Sys2Proof.Claims

open Machine

-- what may differ

theorem onlyFarm_iff {s t : State} : OnlyFarm s t ↔ ∃ es ls own x st pc fb run gen, t = { s with
    inbox := es
    lu := { s.lu with launches := ls, ownFarms := own }
    hart := { s.hart with x := x, status := st, pc := pc, fbuf := fb, run := run, farmGen := gen } } := by
  refine ⟨fun h => ⟨_, _, _, _, _, _, _, _, _, h⟩, ?_⟩
  rintro ⟨es, ls, own, x, st, pc, fb, run, gen, rfl⟩
  rfl

theorem OnlyFarm.refl (s : State) : OnlyFarm s s := rfl

section
variable {s t : State} (h : OnlyFarm s t)
include h

theorem OnlyFarm.updFarm (g : Farm → Farm) : OnlyFarm s (t.updFarm g) := by
  obtain ⟨es, ls, own, x, st, pc, fb, run, gen, rfl⟩ := onlyFarm_iff.mp h
  unfold State.updFarm
  split
  · rfl
  · rfl

theorem OnlyFarm.post (es : List Instr) : OnlyFarm s (t.post es) := by
  obtain ⟨es, ls, own, x, st, pc, fb, run, gen, rfl⟩ := onlyFarm_iff.mp h
  rfl

theorem OnlyFarm.advance : OnlyFarm s t.advance := by
  obtain ⟨es, ls, own, x, st, pc, fb, run, gen, rfl⟩ := onlyFarm_iff.mp h
  rfl

theorem OnlyFarm.passFarm : OnlyFarm s t.passFarm := by
  obtain ⟨es, ls, own, x, st, pc, fb, run, gen, rfl⟩ := onlyFarm_iff.mp h
  rfl

theorem OnlyFarm.stall (b : Bool) : OnlyFarm s (t.stall b) := by
  obtain ⟨es, ls, own, x, st, pc, fb, run, gen, rfl⟩ := onlyFarm_iff.mp h
  rfl

theorem OnlyFarm.raise (n : Nat) : OnlyFarm s (t.raise n) := by
  obtain ⟨es, ls, own, x, st, pc, fb, run, gen, rfl⟩ := onlyFarm_iff.mp h
  rfl

theorem OnlyFarm.ready : OnlyFarm s (t.withHart fun h => { h with run := .ready }) := by
  obtain ⟨es, ls, own, x, st, pc, fb, run, gen, rfl⟩ := onlyFarm_iff.mp h
  rfl

theorem OnlyFarm.wx (d : Reg) (w : Word) : OnlyFarm s (t.wx d w) := by
  obtain ⟨es, ls, own, x, st, pc, fb, run, gen, rfl⟩ := onlyFarm_iff.mp h
  unfold State.wx State.withHart Hart.wx
  split <;> rfl

theorem OnlyFarm.done1 (d : Reg) (w : Word) : OnlyFarm s (t.done1 d w) := (h.wx d w).advance

end

theorem OnlyFarm.strip {s t : State} (h : OnlyFarm s t) (d a : Reg) (x y : Word) : OnlyFarm s ((t.wx d x).wx a y).advance :=
  ((h.wx d x).wx a y).advance

end Sys2Proof.Claims

end

section
namespace Sys2Proof.Machine

open Claims

/-! FARM and STRIP (R97, R201, R202). -/

-- what FARM leaves

@[simp] theorem State.passFarm_pc (s : State) : s.passFarm.hart.pc = s.hart.pc + 4 := rfl

@[simp] theorem State.passFarm_farmGen (s : State) : s.passFarm.hart.farmGen = s.hart.farmGen + 1 := rfl

@[simp] theorem State.passFarm_x (s : State) : s.passFarm.hart.x = s.hart.x := rfl

@[simp] theorem State.stall_hart (s : State) : (s.stall false).hart = { s.hart with run := .stalled } := rfl

@[simp] theorem State.stall_myFarm (s : State) : (s.stall false).myFarm = s.myFarm := rfl

/-- The acting hart's arrival at FARM with N and L. -/
def Farm.arrive (j n l : Nat) (f : Farm) : Farm := { f with arrived := f.arrived ++ [j], arrN := n, arrL := l }

-- the checks of FARM (R201)

theorem farmRefuses_zero (p : Option (Nat × Nat)) (n : Nat) : farmRefuses p n 0 = some false := rfl

theorem farmRefuses_long {p : Option (Nat × Nat)} {n l : Nat} (hl : 1 ≤ l) (hn : 2 ^ 24 < (n + l - 1) / l) :
    farmRefuses p n l = some true := by
  unfold farmRefuses
  rw [if_neg (by omega), if_pos (show 2 ^ 24 < stripsOf n l from hn)]

section
variable {n l : Nat} (h : Farmable n l)
include h

theorem farmRefuses_farmable (p : Option (Nat × Nat)) : farmRefuses p n l =
    if p.any fun p => n != p.1 then some true else if p.any fun p => l != p.2 then some false else none := by
  obtain ⟨hl, hn⟩ := h
  unfold farmRefuses
  rw [if_neg (by omega), if_neg (by show ¬ 2 ^ 24 < (n + l - 1) / l; omega)]

theorem farmRefuses_first : farmRefuses none n l = none := farmRefuses_farmable h none

theorem farmRefuses_same : farmRefuses (some (n, l)) n l = none := by
  rw [farmRefuses_farmable h]
  simp

theorem farmRefuses_otherN {m k : Nat} (hm : n ≠ m) : farmRefuses (some (m, k)) n l = some true := by
  rw [farmRefuses_farmable h]
  simp [hm]

theorem farmRefuses_otherL {k : Nat} (hk : l ≠ k) : farmRefuses (some (n, k)) n l = some false := by
  rw [farmRefuses_farmable h]
  simp [hk]

end

theorem Farm.first_of_le {f : Farm} {gen : Nat} (h : f.gen ≤ gen) :
    f.first gen = if f.arrived = [] then none else some (f.arrN, f.arrL) := by
  unfold Farm.first
  rw [if_neg (by omega)]

theorem farmRefuses_agree {f : Farm} {gen n l : Nat} (hg : f.gen ≤ gen) (h : Farmable n l) (ha : Agree f n l) :
    farmRefuses (f.first gen) n l = none := by
  rw [Farm.first_of_le hg]
  rcases ha with ha | ⟨rfl, rfl⟩
  · rw [if_pos ha]
    exact farmRefuses_first h
  · split
    · exact farmRefuses_first h
    · exact farmRefuses_same h

-- FARM

/-- Whether the harts of the farm have all arrived, once the acting hart has. -/
theorem allArrived_iff {s : State} (he : FarmExists s) (n l : Nat) :
    (let t := s.updFarm (Farm.arrive s.hart.j n l); t.myFarmHarts.all t.myFarm.arrived.contains = true) ↔
      ∀ j ∈ s.myFarmHarts, j ≠ s.hart.j → j ∈ s.myFarm.arrived := by
  dsimp only
  rw [State.myFarmHarts_updFarm, State.myFarm_updFarm he]
  simp only [Farm.arrive, List.all_eq_true, List.contains_iff_mem, List.mem_append, List.mem_singleton]
  exact forall₂_congr fun j _ => by tauto

section
variable {a b : Reg} {s : State} (hu : s.hart.unacked = [])
include hu

theorem exec_farm : exec (.farm a b) s = farmArrive a b s := by
  show execFarm a b s = _
  unfold execFarm
  rw [hu]
  rfl

theorem exec_farm_refusesN (h : farmRefuses (s.myFarm.first s.hart.farmGen) (s.rx a).toNat (s.rx b).toNat = some true) :
    exec (.farm a b) s = .next (takeTrap true 2 (s.rx a) 0 s) := by
  rw [exec_farm hu]
  unfold farmArrive
  simp only [h]

theorem exec_farm_refusesL (h : farmRefuses (s.myFarm.first s.hart.farmGen) (s.rx a).toNat (s.rx b).toNat = some false) :
    exec (.farm a b) s = .next (takeTrap true 2 (s.rx b) 0 s) := by
  rw [exec_farm hu]
  unfold farmArrive
  simp only [h]

section
variable (h : farmRefuses (s.myFarm.first s.hart.farmGen) (s.rx a).toNat (s.rx b).toNat = none)
include h

theorem exec_farm_open (hg : s.hart.farmGen < s.myFarm.gen) : exec (.farm a b) s = .next s.passFarm := by
  rw [exec_farm hu]
  unfold farmArrive
  simp only [h, hg, if_true]

theorem exec_farm_arrives (hg : s.myFarm.gen ≤ s.hart.farmGen) (hj : s.hart.j ∉ s.myFarm.arrived) :
    let t := s.updFarm (Farm.arrive s.hart.j (s.rx a).toNat (s.rx b).toNat)
    exec (.farm a b) s = if t.myFarmHarts.all t.myFarm.arrived.contains
      then .next (((t.updFarm Farm.opened).post t.releaseEvents).passFarm) else .next (t.stall false) := by
  rw [exec_farm hu]
  unfold farmArrive
  simp only [h, List.contains_iff_mem, hj, Nat.not_lt.mpr hg, if_false]
  rfl

end

end

/-- FARM by the last hart to arrive opens the loop. -/
theorem exec_farm_last {a b : Reg} {s : State} (he : FarmExists s) (hu : s.hart.unacked = []) (hg : s.myFarm.gen ≤ s.hart.farmGen)
    (hl : LastToArrive s) (hr : farmRefuses (s.myFarm.first s.hart.farmGen) (s.rx a).toNat (s.rx b).toNat = none) :
    ∃ t, exec (.farm a b) s = .next t ∧ OnlyFarm s t ∧ Onward s t ∧ SameX s t ∧
      t.hart.farmGen = s.hart.farmGen + 1 ∧ t.myFarm.gen = s.myFarm.gen + 1 ∧ t.myFarm.n = (s.rx a).toNat ∧
      t.myFarm.l = (s.rx b).toNat ∧ t.myFarm.next = 0 ∧ t.myFarm.deposits = [] := by
  obtain ⟨hj, hall⟩ := hl
  refine ⟨_, (exec_farm_arrives hu hr hg hj).trans (if_pos ((allArrived_iff he _ _).mpr hall)), ?_⟩
  have hf {u : State} (he : FarmExists u) (es : List Instr) : ((u.updFarm Farm.opened).post es).passFarm.myFarm = u.myFarm.opened :=
    State.myFarm_updFarm he _
  rw [hf (State.farmExists_updFarm he _), State.myFarm_updFarm he]
  exact ⟨((((OnlyFarm.refl s).updFarm _).updFarm _).post _).passFarm, by simp [Onward], State.rx_congr (by simp), by simp, rfl, rfl,
    rfl, rfl, rfl⟩

/-- FARM with others still to arrive is recorded and waits. -/
theorem exec_farm_notLast {a b : Reg} {s : State} (he : FarmExists s) (hu : s.hart.unacked = [])
    (hg : s.myFarm.gen ≤ s.hart.farmGen) (hj : s.hart.j ∉ s.myFarm.arrived) (hl : ¬ LastToArrive s)
    (hr : farmRefuses (s.myFarm.first s.hart.farmGen) (s.rx a).toNat (s.rx b).toNat = none) :
    ∃ t, exec (.farm a b) s = .next t ∧ OnlyFarm s t ∧ t.hart.pc = s.hart.pc ∧ SameX s t ∧ t.hart.run = .stalled ∧
      s.hart.j ∈ t.myFarm.arrived := by
  refine ⟨_, (exec_farm_arrives hu hr hg hj).trans (if_neg (mt (allArrived_iff he _ _).mp fun hall => hl ⟨hj, hall⟩)), ?_⟩
  refine ⟨((OnlyFarm.refl s).updFarm _).stall false, by simp, State.rx_congr (by simp), by simp, ?_⟩
  rw [State.stall_myFarm, State.myFarm_updFarm he]
  simp [Farm.arrive]

-- STRIP

/-- What STRIP writes: x[d] first, then x[a]. -/
theorem State.rx_strip (s : State) (d a r : Reg) (x y : Word) : (((s.wx d x).wx a y).advance).rx r =
    if r = 0 then 0 else if r = a then y else if r = d then x else s.rx r := by
  rw [State.rx_advance, State.rx_wx, State.rx_wx]
  by_cases h0 : r = 0#5
  · subst h0
    simpa using s.rx_zero
  · simp [h0]

theorem State.myFarm_strip (s : State) (d a : Reg) (x y : Word) : (((s.wx d x).wx a y).advance).myFarm = s.myFarm :=
  State.myFarm_congr rfl (by simp) (by simp) (by simp)

theorem exec_strip_closed {d a : Reg} {s : State} (h : s.myFarm.gen = 0) :
    exec (.strip d a) s = .next (((s.wx d 0).wx a 0).advance) := if_pos h

theorem exec_strip_hands {d a : Reg} {s : State} (h : s.myFarm.gen ≠ 0)
    (hn : s.myFarm.next < (s.myFarm.n + s.myFarm.l - 1) / s.myFarm.l) : exec (.strip d a) s =
      .next ((((s.updFarm fun f => { f with next := f.next + 1 }).wx d (wordOfNat (s.myFarm.next * s.myFarm.l))).wx a
        (wordOfNat (min s.myFarm.n (s.myFarm.next * s.myFarm.l + s.myFarm.l) - s.myFarm.next * s.myFarm.l))).advance) :=
  (if_neg h).trans (if_pos hn)

theorem exec_strip_done {d a : Reg} {s : State} (h : s.myFarm.gen ≠ 0)
    (hn : (s.myFarm.n + s.myFarm.l - 1) / s.myFarm.l ≤ s.myFarm.next) :
    exec (.strip d a) s = .next (((s.wx d (wordOfNat s.myFarm.n)).wx a 0).advance) :=
  (if_neg h).trans (if_neg (Nat.not_lt.mpr hn))

theorem farmsHandOutStripsInOrder : FarmsHandOutStripsInOrder := by
  refine ⟨fun a b s he hu hg hj => ⟨fun hf ha => ?_, fun hl => ?_, fun hl hn => ?_, fun hf ha hn => ?_, fun hf ha hn hl => ?_⟩,
    fun a b s he hu hg hf hn hl => ?_, fun d a s he => ⟨fun h => ?_, fun h hn => ?_, fun h hn => ?_⟩⟩
  · have hr := farmRefuses_agree (gen := s.hart.farmGen) hg hf ha
    exact ⟨fun hl => exec_farm_last he hu hg hl hr, fun hl => exec_farm_notLast he hu hg hj hl hr⟩
  · refine exec_farm_refusesL hu ?_
    rw [hl]
    exact farmRefuses_zero _ _
  · exact exec_farm_refusesN hu (farmRefuses_long hl hn)
  · refine exec_farm_refusesN hu ?_
    rw [Farm.first_of_le hg, if_neg ha]
    exact farmRefuses_otherN hf hn
  · refine exec_farm_refusesL hu ?_
    rw [Farm.first_of_le hg, if_neg ha, ← hn]
    exact farmRefuses_otherL hf hl
  · have hr : farmRefuses (s.myFarm.first s.hart.farmGen) (s.rx a).toNat (s.rx b).toNat = none := by
      unfold Farm.first
      rw [if_pos hg, ← hn, ← hl]
      exact farmRefuses_same hf
    exact ⟨_, exec_farm_open hu hr hg, (OnlyFarm.refl s).passFarm, rfl, fun _ => rfl, rfl, rfl⟩
  · refine ⟨_, exec_strip_closed h, (OnlyFarm.refl s).strip .., by simp [Onward], fun r => ?_⟩
    rw [State.rx_strip]
    by_cases h0 : r = 0#5
    · subst h0
      simpa using fun _ _ => s.rx_zero.symm
    · by_cases hr : r = a <;> simp [h0, hr]
  · refine ⟨_, exec_strip_hands h hn, ((OnlyFarm.refl s).updFarm _).strip .., by simp [Onward], ?_, fun r => ?_⟩
    · rw [State.myFarm_strip, State.myFarm_updFarm he]
    · rw [State.rx_strip, State.rx_congr (congrArg Hart.x (State.updFarm_hart s _))]
      rfl
  · refine ⟨_, exec_strip_done h hn, (OnlyFarm.refl s).strip .., by simp [Onward], ?_, fun r => ?_⟩
    · rw [State.myFarm_strip]
    · rw [State.rx_strip]
      rfl

end Sys2Proof.Machine
end

section
namespace Sys2Proof.Machine

open Claims

/-! FARMRED (R98, R203): its cases, the partials of the strips, and the tree of R163 over them. -/

-- the steps of the tree

theorem fminmax_lt {f : Fmt} (hf : f.Narrow) (isMax : Bool) (x y : Nat) : (fminmax f isMax x y).1 < 2 ^ f.bits := by
  have hx := Nat.mod_lt x (Nat.two_pow_pos f.bits)
  have hy := Nat.mod_lt y (Nat.two_pow_pos f.bits)
  unfold fminmax
  dsimp only
  split
  · exact hf.nan_lt
  · split
    · exact hy
    · split
      · exact hx
      · dsimp only
        split_ifs
        · exact hx
        · exact hy

theorem farmStep_lt (op x y : Nat) : (farmStep op x y).1 < 2 ^ 64 := by
  unfold farmStep
  split
  · exact fadd2_lt narrow_f64 ..
  · exact fminmax_lt narrow_f64 ..

/-- The operands of a tree of FARMRED: every position holds a word. -/
def HoldsWords (xs : List (Option Nat)) : Prop := ∀ o ∈ xs, ∃ v < 2 ^ 64, o = some v

theorem HoldsWords.of_words (xs : List Word) : HoldsWords (xs.map fun x => some x.toNat) := by
  intro o ho
  obtain ⟨x, -, rfl⟩ := List.mem_map.mp ho
  exact ⟨_, x.isLt, rfl⟩

theorem HoldsWords.cons {v : Nat} {xs : List (Option Nat)} (hv : v < 2 ^ 64) (h : HoldsWords xs) : HoldsWords (some v :: xs) :=
  List.forall_mem_cons.mpr ⟨⟨v, hv, rfl⟩, h⟩

section
variable {op : Nat → Nat → Nat × Nat} (hop : ∀ x y, (op x y).1 < 2 ^ 64)

theorem halve_go_length (xs ys : List (Option Nat)) : (halve.go op xs ys).1.length = xs.length := by
  induction xs generalizing ys with
  | nil => rfl
  | cons x xs ih =>
    cases ys with
    | nil => simp [halve.go, ih]
    | cons y ys =>
      rcases x with _ | a <;> rcases y with _ | b <;> simp [halve.go, ih]

include hop

theorem HoldsWords.halve_go {xs ys : List (Option Nat)} (hx : HoldsWords xs) (hy : HoldsWords ys) :
    HoldsWords (halve.go op xs ys).1 := by
  induction xs generalizing ys with
  | nil => exact hx
  | cons x xs ih =>
    obtain ⟨⟨v, hv, rfl⟩, hxs⟩ := List.forall_mem_cons.mp hx
    cases ys with
    | nil => exact .cons hv (ih hxs hy)
    | cons y ys =>
      obtain ⟨⟨w, -, rfl⟩, hys⟩ := List.forall_mem_cons.mp hy
      exact .cons (hop v w) (ih hxs hys)

theorem HoldsWords.tree (n : Nat) {xs : List (Option Nat)} (hne : xs ≠ []) (hx : HoldsWords xs) :
    ∃ v < 2 ^ 64, (tree op n xs).1 = some v := by
  induction n generalizing xs with
  | zero =>
    obtain ⟨x, xs, rfl⟩ := List.exists_cons_of_ne_nil hne
    exact hx x (List.mem_cons_self ..)
  | succ n ih =>
    refine ih (xs := (halve op (2 ^ n) xs).1) (List.ne_nil_of_length_pos ?_) ?_
    · have h1 := Nat.two_pow_pos n
      have h2 := List.length_pos_iff.mpr hne
      show 0 < (halve.go op _ _).1.length
      rw [halve_go_length, List.length_take]
      omega
    · exact .halve_go hop (fun o ho => hx o (List.mem_of_mem_take ho)) (fun o ho => hx o (List.mem_of_mem_drop ho))

end

-- the tree over one, two and four operands

section
variable (op : Nat → Nat → Nat × Nat) (x y z v : Nat)

theorem reduceTree_one : reduceTree op none [some x] = (some x, 0) := rfl

theorem halve_two : halve op 1 [some x, some y] = ([some (op x y).1], (op x y).2) := by
  show halve.go op [some x] [some y] = _
  simp [halve.go]

theorem halve_four : halve op 2 [some x, some y, some z, some v] =
    ([some (op x z).1, some (op y v).1], (op x z).2 ||| (op y v).2) := by
  show halve.go op [some x, some y] [some z, some v] = _
  simp [halve.go, Nat.or_comm]

theorem reduceTree_two : reduceTree op none [some x, some y] = (some (op x y).1, (op x y).2) := by
  have h : log2Up 2 = 1 := rfl
  simp [reduceTree, h, tree, halve_two]

theorem reduceTree_four : reduceTree op none [some x, some y, some z, some v] =
    (some (op (op x z).1 (op y v).1).1, (op x z).2 ||| (op y v).2 ||| (op (op x z).1 (op y v).1).2) := by
  have h : log2Up 4 = 2 := rfl
  simp [reduceTree, h, tree, halve_four, halve_two]

end

-- the result of FARMRED

theorem farmResult_eq {op : Nat} (h : op < 3) (xs : List Word) : ∃ e, farmResult op xs =
    (wordOfNat ((reduceTree (farmStep op) none (xs.map fun x => some x.toNat)).1.getD e),
      (reduceTree (farmStep op) none (xs.map fun x => some x.toNat)).2) := by
  have h3 : op = 0 ∨ op = 1 ∨ op = 2 := by omega
  rcases h3 with rfl | rfl | rfl
  · exact ⟨0, rfl⟩
  · exact ⟨f64.infPat, rfl⟩
  · exact ⟨f64.signed true f64.infPat, rfl⟩

theorem farmResult_reduceTree {op : Nat} (h : op < 3) {xs : List Word} (hne : xs ≠ []) :
    reduceTree (farmStep op) none (xs.map fun x => some x.toNat) = (some (farmResult op xs).1.toNat, (farmResult op xs).2) := by
  obtain ⟨v, hv, ht⟩ := (HoldsWords.of_words xs).tree (farmStep_lt op) (log2Up (xs.map fun x => some x.toNat).length) (by simpa)
  have hr : (reduceTree (farmStep op) none (xs.map fun x => some x.toNat)).1 = some v := ht
  obtain ⟨e, he⟩ := farmResult_eq h xs
  rw [he]
  refine Prod.ext ?_ rfl
  rw [hr]
  exact congrArg some (Nat.mod_eq_of_lt hv).symm

theorem farmResult_fold {op : Nat} (h : op < 3) (xs : List Word) : FarmFold op xs (farmResult op xs).1 (farmResult op xs).2 := by
  unfold FarmFold
  split
  next =>
    have h3 : op = 0 ∨ op = 1 ∨ op = 2 := by omega
    rcases h3 with rfl | rfl | rfl <;> exact ⟨rfl, rfl⟩
  next x =>
    obtain ⟨hr, hf⟩ := Prod.ext_iff.mp ((reduceTree_one ..).symm.trans (farmResult_reduceTree h (List.cons_ne_nil x [])))
    exact ⟨hf.symm, BitVec.eq_of_toNat_eq (Option.some.inj hr).symm⟩
  next x y =>
    obtain ⟨hr, hf⟩ := Prod.ext_iff.mp ((reduceTree_two ..).symm.trans (farmResult_reduceTree h (List.cons_ne_nil x [y])))
    exact Prod.ext (Option.some.inj hr).symm hf.symm
  next x y z v =>
    obtain ⟨hr, hf⟩ := Prod.ext_iff.mp ((reduceTree_four ..).symm.trans (farmResult_reduceTree h (List.cons_ne_nil x [y, z, v])))
    exact ⟨(Option.some.inj hr).symm, hf.symm⟩
  next xs hne _ _ _ => exact farmResult_reduceTree h hne

-- the partials of the strips

theorem mapM_eq_some_iff {α β : Type} (f : α → Option β) (ks : List α) (xs : List β) :
    ks.mapM f = some xs ↔ ks.map f = xs.map some := by
  induction ks generalizing xs with
  | nil => cases xs <;> simp
  | cons k ks ih => cases xs <;> simp [List.mapM_cons, Option.bind_eq_some_iff, ih]

theorem Farm.partials_eq_some_iff (f : Farm) (xs : List Word) : f.partials = some xs ↔ AllDeposited f xs := by
  unfold Farm.partials AllDeposited
  rw [mapM_eq_some_iff, List.ext_getElem?_iff]
  show _ ↔ xs.length = stripsOf f.n f.l ∧ _
  constructor
  · intro h
    have hl : xs.length = stripsOf f.n f.l := by simpa using (congrArg List.length (List.ext_getElem? h)).symm
    refine ⟨hl, fun k hk => ?_⟩
    have := h k
    simp_all
  · rintro ⟨hl, h⟩ k
    by_cases hk : k < xs.length
    · simp [← hl, hk, h k hk]
    · simp [← hl, hk]

-- the cases of FARMRED

theorem exec_farmred {i : Instr} {op : Nat} {d a b : Reg} (h : farmredForm i = some (op, d, a, b)) (s : State) :
    exec i s = farmred op d a b s ∧ op ≤ 3 := by
  unfold farmredForm at h
  split at h <;> cases h <;> exact ⟨rfl, by decide⟩

section
variable {op : Nat} {s : State} (d a : Reg) {b : Reg}

theorem farmred_refuses (h : s.myFarm.gen = 0 ∨ (∃ o, s.myFarm.op = some o ∧ o ≠ op) ∨ s.myFarm.n < (s.rx b).toNat ∨
    (s.rx b).toNat < s.myFarm.n ∧ ((s.rx b).toNat % s.myFarm.l ≠ 0 ∨
      ∃ p ∈ s.myFarm.deposits, p.1 = (s.rx b).toNat / s.myFarm.l)) :
    farmred op d a b s = .next (takeTrap true 2 (s.rx b) 0 s) := by
  unfold farmred
  dsimp only
  split_ifs with hg ho hx hs
  · rfl
  · rfl
  · rcases h with h | ⟨o, h, hne⟩ | h | ⟨h, -⟩
    · exact absurd h hg
    · exact absurd ⟨by simp [h], by simp [h, hne]⟩ ho
    · omega
    · omega
  · obtain ⟨hlt, hl, hd⟩ := hs
    rcases h with h | ⟨o, h, hne⟩ | h | ⟨-, h | ⟨p, hp, hpk⟩⟩
    · exact absurd h hg
    · exact absurd ⟨by simp [h], by simp [h, hne]⟩ ho
    · omega
    · exact absurd hl h
    · have : s.myFarm.deposits.any (fun p => p.1 = (s.rx b).toNat / s.myFarm.l) = true :=
        List.any_eq_true.mpr ⟨p, hp, decide_eq_true hpk⟩
      simp [this] at hd
  · rfl

section
variable (hg : s.myFarm.gen ≠ 0) (ho : s.myFarm.op = none ∨ s.myFarm.op = some op)
include ho

theorem not_otherOp : ¬ (s.myFarm.op.isSome ∧ s.myFarm.op ≠ some op) := by
  rcases ho with h | h <;> simp [h]

include hg

theorem farmred_deposits (hx : (s.rx b).toNat < s.myFarm.n) (hl : (s.rx b).toNat % s.myFarm.l = 0)
    (hd : ∀ p ∈ s.myFarm.deposits, p.1 ≠ (s.rx b).toNat / s.myFarm.l) : farmred op d a b s =
      .next ((s.updFarm fun f => { f with op := some op, deposits := f.deposits ++ [((s.rx b).toNat / f.l, s.rx a)] }).done1
        d 0) := by
  have hany : s.myFarm.deposits.any (fun p => p.1 = (s.rx b).toNat / s.myFarm.l) = false :=
    List.any_eq_false.mpr fun p hp => by simp [hd p hp]
  unfold farmred
  dsimp only
  rw [if_neg hg, if_neg (not_otherOp ho), if_neg hx.ne, if_pos ⟨hx, hl, by rw [hany]; rfl⟩]

theorem farmred_combines (hx : (s.rx b).toNat = s.myFarm.n) {xs : List Word} (hxs : AllDeposited s.myFarm xs) :
    farmred op d a b s = .next ((((s.updFarm fun f => { f with op := some op }).raise (farmResult op xs).2).done1 d
      (farmResult op xs).1).withHart fun h => { h with run := .ready }) := by
  unfold farmred
  dsimp only
  rw [if_neg hg, if_neg (not_otherOp ho), if_pos hx, (s.myFarm.partials_eq_some_iff xs).mpr hxs]

theorem farmred_waits (hx : (s.rx b).toNat = s.myFarm.n) (hxs : ¬ ∃ xs, AllDeposited s.myFarm xs) :
    farmred op d a b s = .next ((s.updFarm fun f => { f with op := some op }).stall false) := by
  have hp : s.myFarm.partials = none :=
    Option.eq_none_iff_forall_ne_some.mpr fun xs h => hxs ⟨xs, (s.myFarm.partials_eq_some_iff xs).mp h⟩
  unfold farmred
  dsimp only
  rw [if_neg hg, if_neg (not_otherOp ho), if_pos hx, hp]

end

end

@[simp] theorem State.myFarm_done1 (s : State) (d : Reg) (w : Word) : (s.done1 d w).myFarm = s.myFarm :=
  State.myFarm_congr rfl (by simp) (by simp) (by simp)

@[simp] theorem Hart.raise_pc (h : Hart) (fl : Nat) : (h.raise fl).pc = h.pc := rfl

theorem State.raised (s : State) (fl : Nat) : Raised s (s.raise fl) fl := rfl

theorem State.rx_ready (s : State) (r : Reg) : (s.withHart fun h => { h with run := .ready }).rx r = s.rx r := rfl

theorem State.rx_raise (s : State) (fl : Nat) (r : Reg) : (s.raise fl).rx r = s.rx r := rfl

theorem farmReductionsCombineEveryStrip : FarmReductionsCombineEveryStrip := by
  intro i s op d a b hi he
  obtain ⟨hx, hop⟩ := exec_farmred hi s
  dsimp only
  rw [hx]
  refine ⟨farmred_refuses d a, fun hg ho => ⟨fun hlt hl hd => ?_, fun xs hn hxs => ?_, fun hn hxs => ?_⟩⟩
  · refine ⟨_, farmred_deposits d a hg ho hlt hl hd, ((OnlyFarm.refl s).updFarm _).done1 .., by simp [Onward], fun r => ?_, by simp, ?_⟩
    · rw [State.rx_done1, State.rx_congr (congrArg Hart.x (State.updFarm_hart s _))]
    · rw [State.myFarm_done1, State.myFarm_updFarm he]
  · refine ⟨_, _, _, farmred_combines d a hg ho hn hxs, ((((OnlyFarm.refl s).updFarm _).raise _).done1 ..).ready, ?_, fun r => ?_, ?_,
      ?_, fun h3 => farmResult_fold (by omega) xs⟩
    · simp [Onward]
    · rw [State.rx_ready, State.rx_done1, State.rx_raise, State.rx_congr (congrArg Hart.x (State.updFarm_hart s _))]
    · simpa [Raised] using State.raised (s.updFarm fun f => { f with op := some op }) (farmResult op xs).2
    · rintro rfl
      exact ⟨rfl, rfl⟩
  · exact ⟨_, farmred_waits d a hg ho hn hxs, ((OnlyFarm.refl s).updFarm _).stall false, by simp, State.rx_congr (by simp), by simp⟩

/-- Settles O19: what each call does to the farm, and that the tree of R163 over a nonempty list of words is a word. -/
theorem stripFarmsServeEveryStripOnce : Obligations.StripFarmsServeEveryStripOnce :=
  ⟨farmsHandOutStripsInOrder, farmReductionsCombineEveryStrip⟩

end Sys2Proof.Machine
end

section
namespace Sys2Proof.Machine

/-! Fields of a number, and of a number that fields are put into (R3, R112). -/

theorem fld_eq_bitsAt (w lo n : Nat) : fld w lo n = BitVec.ofNat n (bitsAt w lo n) :=
  BitVec.eq_of_toNat_eq (by simp [fld, bitsAt])

theorem bitsAt_ofNat (c lo n : Nat) : bitsAt (no_index (OfNat.ofNat c)) lo n = OfNat.ofNat c / 2 ^ lo % 2 ^ n := by rw [bitsAt]

section
variable {x k v : Nat} {y : BitVec k} {p lo n c : Nat}

/-- A field is put where a number has zeros. -/
theorem add_put_eq_setBits (hx : bitsAt x p k = 0) : x + put y p = setBits x p k y.toNat := by
  simp [setBits, hx, put, Nat.mod_eq_of_lt y.isLt]

theorem ofNat_bitsAt_setBits : BitVec.ofNat k (bitsAt (setBits x p k y.toNat) p k) = y := by
  rw [bitsAt_setBits_same, Nat.mod_eq_of_lt y.isLt, BitVec.ofNat_toNat, BitVec.setWidth_eq]

theorem bitsAt_setBits_below (h : lo + n ≤ p) : bitsAt (setBits x p k v) lo n = bitsAt x lo n :=
  bitsAt_setBits_apart _ _ _ _ _ _ (.inl h)

theorem bitsAt_setBits_above (h : p + k ≤ lo) : bitsAt (setBits x p k v) lo n = bitsAt x lo n :=
  bitsAt_setBits_apart _ _ _ _ _ _ (.inr h)

/-- A field that is read in two parts. -/
theorem bitsAt_eq_iff_parts (x : Nat) (h : lo ≤ p) (h' : p ≤ lo + n) :
    bitsAt x lo n = c ↔ bitsAt x lo (p - lo) = c % 2 ^ (p - lo) ∧ bitsAt x p (lo + n - p) = c / 2 ^ (p - lo) := by
  obtain ⟨m, rfl⟩ := Nat.exists_eq_add_of_le h
  obtain ⟨k, rfl⟩ := Nat.exists_eq_add_of_le (Nat.le_of_add_le_add_left h')
  have hlow : bitsAt x lo m = bitsAt x lo (m + k) % 2 ^ m := (Nat.mod_mod_of_dvd _ (Nat.pow_dvd_pow 2 (by omega))).symm
  have hhigh : bitsAt x (lo + m) k = bitsAt x lo (m + k) / 2 ^ m := by
    rw [bitsAt, bitsAt, Nat.pow_add, Nat.pow_add, Nat.mod_mul_right_div_self, Nat.div_div_eq_div_mul]
  rw [Nat.add_sub_cancel_left, ← Nat.add_assoc, Nat.add_sub_cancel_left, hlow, hhigh]
  constructor
  · rintro rfl
    exact ⟨rfl, rfl⟩
  · rintro ⟨h1, h2⟩
    rw [← Nat.div_add_mod (bitsAt x lo (m + k)) (2 ^ m), h1, h2, Nat.div_add_mod]

/-- The bits below a field that begins within the bits that are read. -/
theorem bitsAt_setBits_eq_iff_low (h : lo < p) (h' : p < lo + n) :
    bitsAt (setBits x p k v) lo n = c ↔
      bitsAt x lo (p - lo) = c % 2 ^ (p - lo) ∧ bitsAt (setBits x p k v) p (lo + n - p) = c / 2 ^ (p - lo) := by
  rw [bitsAt_eq_iff_parts _ h.le h'.le, bitsAt_setBits_below (by omega)]

/-- The bits above a field that ends within the bits that are read. -/
theorem bitsAt_setBits_eq_iff_high (h : lo < p + k) (h' : p + k < lo + n) :
    bitsAt (setBits x p k v) lo n = c ↔ bitsAt (setBits x p k v) lo (p + k - lo) = c % 2 ^ (p + k - lo) ∧
      bitsAt x (p + k) (lo + n - (p + k)) = c / 2 ^ (p + k - lo) := by
  rw [bitsAt_eq_iff_parts _ h.le h'.le, bitsAt_setBits_above le_rfl]

theorem lt_of_bitsAt_eq_zero (h : ∀ k, bitsAt x p k = 0) : x < 2 ^ p := by
  have hx := h x
  rw [bitsAt, Nat.mod_eq_of_lt ((Nat.div_le_self ..).trans_lt x.lt_two_pow_self)] at hx
  exact (Nat.div_eq_zero_iff_lt (Nat.two_pow_pos p)).mp hx

end

/-- A number with the bits below a place cleared. -/
def topBits (w p : Nat) : Int := (w / 2 ^ p * 2 ^ p : Nat)

theorem topBits_zero (w : Nat) : topBits w 0 = w := by simp [topBits]

theorem topBits_eq_zero {w p : Nat} (h : w < 2 ^ p) : topBits w p = 0 := by simp [topBits, Nat.div_eq_of_lt h]

/-- A field in its place is the difference of what lies from its lowest bit on and what lies above it. -/
theorem bitsAt_mul_eq_topBits (w lo n : Nat) : ((bitsAt w lo n * 2 ^ lo : Nat) : Int) = topBits w lo - topBits w (lo + n) := by
  have hsplit : w / 2 ^ lo * 2 ^ lo = w / 2 ^ (lo + n) * 2 ^ (lo + n) + bitsAt w lo n * 2 ^ lo := by
    rw [Nat.pow_add, ← Nat.div_div_eq_div_mul, Nat.mul_comm (2 ^ lo), ← Nat.mul_assoc, ← Nat.add_mul, bitsAt, Nat.div_add_mod']
  rw [topBits, topBits, hsplit, Nat.cast_add, add_sub_cancel_left]

theorem put_fld_eq_topBits (w lo n : Nat) : ((put (fld w lo n) lo : Nat) : Int) = topBits w lo - topBits w (lo + n) := by
  rw [← bitsAt_mul_eq_topBits]
  simp [put, fld, bitsAt]

theorem bitsAt_eq_iff_topBits {w lo n c : Nat} : bitsAt w lo n = c ↔ topBits w lo - topBits w (lo + n) = (c * 2 ^ lo : Nat) := by
  rw [← bitsAt_mul_eq_topBits, Nat.cast_inj, Nat.mul_left_inj (Nat.two_pow_pos lo).ne']

end Sys2Proof.Machine
end

section
namespace Sys2Proof.Machine

/-! The decoder and the encoder undo each other (R111 to R117). -/

-- the decoder

/-- The entries of a major opcode (R114). -/
noncomputable def majorEntries (m : Nat) : Nat → Option Instr :=
  match m with
  | 0x01 => decodeMajor01 | 0x02 => decodeMajor02 | 0x03 => decodeMajor03 | 0x04 => decodeMajor04
  | 0x05 => decodeMajor05 | 0x06 => decodeMajor06 | 0x07 => decodeMajor07 | 0x08 => decodeMajor08
  | 0x09 => decodeMajor09 | 0x0A => decodeMajor0A | 0x0B => decodeMajor0B | 0x0C => decodeMajor0C
  | 0x0D => decodeMajor0D | 0x0E => decodeMajor0E | 0x0F => decodeMajor0F | 0x10 => decodeMajor10
  | 0x11 => decodeMajor11 | 0x12 => decodeMajor12 | 0x13 => decodeMajor13 | 0x14 => decodeMajor14
  | 0x15 => decodeMajor15 | 0x16 => decodeMajor16 | 0x17 => decodeMajor17 | 0x18 => decodeMajor18
  | 0x19 => decodeMajor19 | 0x1A => decodeMajor1A | 0x1B => decodeMajor1B | 0x1C => decodeMajor1C
  | 0x1D => decodeMajor1D | 0x1E => decodeMajor1E | 0x20 => decodeMajor20 | 0x21 => decodeMajor21
  | 0x22 => decodeMajor22 | 0x23 => decodeMajor23 | 0x24 => decodeMajor24 | 0x25 => decodeMajor25
  | 0x26 => decodeMajor26 | 0x27 => decodeMajor27 | 0x28 => decodeMajor28 | 0x29 => decodeMajor29
  | 0x2A => decodeMajor2A | 0x2B => decodeMajor2B | 0x2C => decodeMajor2C | 0x2D => decodeMajor2D
  | 0x2E => decodeMajor2E | 0x2F => decodeMajor2F | 0x30 => decodeMajor30 | 0x31 => decodeMajor31
  | 0x32 => decodeMajor32 | 0x33 => decodeMajor33 | 0x34 => decodeMajor34 | 0x35 => decodeMajor35
  | 0x36 => decodeMajor36 | 0x37 => decodeMajor37 | 0x38 => decodeMajor38 | 0x39 => decodeMajor39
  | _ => fun _ => none

theorem ok_iff_of_entry {w : Nat} {f : Nat → Option Instr} {i j : Instr} (hj : f w = some j) :
    (.ok j : Except DecodeError Instr) = .ok i ↔ f w = some i := by
  simp [hj]

theorem ok_iff_of_no_entry {w : Nat} {f : Nat → Option Instr} {i : Instr} {e : DecodeError} (hf : f w = none) :
    (.error e : Except DecodeError Instr) = .ok i ↔ f w = some i := by
  simp [hf]

theorem decodeEntry_eq_ok_iff {w : Nat} {i : Instr} : decodeEntry w = .ok i ↔ majorEntries (bitsAt w 26 6) w = some i := by
  unfold decodeEntry majorEntries
  dsimp only
  generalize bitsAt w 26 6 = m
  split
  case h_57 => simp
  all_goals
    split
    · exact ok_iff_of_entry ‹_›
    · exact ok_iff_of_no_entry ‹_›

theorem decodeEntry_of_entries {w m : Nat} {i : Instr} (hm : bitsAt w 26 6 = m) (hi : majorEntries m w = some i) :
    decodeEntry w = .ok i :=
  decodeEntry_eq_ok_iff.mpr (hm ▸ hi)

theorem decode_eq_ok_iff {w : BitVec 32} {i : Instr} : decode w = .ok i ↔ decodeEntry w.toNat = .ok i ∧ i.wf = true := by
  unfold decode
  split
  next j hj =>
    rw [hj, Except.ok.injEq]
    split
    next hw =>
      rw [Except.ok.injEq]
      exact ⟨fun h => ⟨h, h ▸ hw⟩, And.left⟩
    next hw =>
      refine ⟨fun h => (nomatch h), fun ⟨h, hi⟩ => absurd (h ▸ hi) hw⟩
  next e he =>
    rw [he]
    exact ⟨fun h => (nomatch h), fun ⟨h, _⟩ => (nomatch h)⟩

-- words of instructions

theorem encode_lt {i : Instr} {n : Nat} (h : encode i = some n) : n < 2 ^ 32 := by
  cases i
  all_goals cases h
  all_goals
    refine lt_of_bitsAt_eq_zero fun k => ?_
    simp only [add_put_eq_setBits, bitsAt_setBits_below, bitsAt_setBits_above, bitsAt_ofNat, Nat.reduceAdd, Nat.reducePow,
      Nat.reduceDiv, Nat.reduceMod, Nat.reduceLeDiff, Nat.zero_mod]

/-- The entry of an instruction reads each operand from the place where its word holds it, and no entry before it in its
major reads its own selecting bits there (R112 to R115). -/
theorem decodeEntry_encode {i : Instr} {n : Nat} (h : encode i = some n) : decodeEntry n = .ok i := by
  cases i
  all_goals cases h
  all_goals
    simp -failIfUnchanged only [add_put_eq_setBits, bitsAt_setBits_below, bitsAt_ofNat, Nat.reduceAdd, Nat.reducePow,
      Nat.reduceDiv, Nat.reduceMod, Nat.reduceLeDiff]
    apply decodeEntry_of_entries
    · simp only [bitsAt_setBits_above, bitsAt_ofNat, Nat.reduceAdd, Nat.reducePow, Nat.reduceDiv, Nat.reduceMod,
        Nat.reduceLeDiff]
      rfl
    · conv_lhs => fun; whnf
      simp only [bitsAt_setBits_below, bitsAt_setBits_above, bitsAt_setBits_eq_iff_low, bitsAt_setBits_eq_iff_high,
        bitsAt_ofNat, fld_eq_bitsAt, ofNat_bitsAt_setBits, Nat.reduceAdd, Nat.reduceSub, Nat.reducePow, Nat.reduceDiv,
        Nat.reduceMod, Nat.reduceLeDiff, Nat.reduceLT, Nat.reduceEqDiff, and_false, false_and, and_self, ↓reduceIte]

/-- Settles O53: an instruction's entry reads its word back as it, and `decode` then refuses it if it is not well-formed. -/
theorem decodeUndoesEncode : Obligations.DecodeUndoesEncode := by
  intro i n h
  have hn : n < 2 ^ 32 := encode_lt h
  have hdecode : decode (BitVec.ofNat 32 n) = .ok i ↔ i.wf = true := by
    rw [decode_eq_ok_iff, BitVec.toNat_ofNat, Nat.mod_eq_of_lt hn]
    exact and_iff_right (decodeEntry_encode h)
  exact ⟨hn, hdecode.mpr, fun hw hd => Bool.false_ne_true (hw.symm.trans (hdecode.mp hd))⟩

-- words that decode

/-- The word is the instruction's. -/
def Encodes (w : Nat) (i : Instr) : Prop := encode i = some w

theorem encodes_of_topBits {w x : Nat} {i : Instr} (h : encode i = some x) (hx : (x : Int) = topBits w 0) : Encodes w i := by
  rw [Encodes, h, Int.ofNat_inj.mp (hx.trans (topBits_zero w))]

/-- An entry that gives `i` where its condition holds, before the entries of `y`. -/
theorem Entry.row {P : Instr → Prop} {c : Prop} [Decidable c] {i : Instr} {y : Option Instr} (hy : Entry P y) (hi : c → P i) :
    Entry P (if c then Option.some i else y) := Entry.ite (fun h => Entry.some (hi h)) hy

/-- The selecting bits of an entry and the fields that it reads make up the whole word, each in its place (R112 to R115). -/
theorem encodes_majorEntries {w m : Nat} (hm : topBits w 26 = (m * 2 ^ 26 : Nat)) : Entry (Encodes w) (majorEntries m w) := by
  unfold majorEntries
  split
  case h_57 => exact Entry.none
  all_goals
    conv => arg 2; fun; whnf
    simp only [bitsAt_eq_iff_topBits, Nat.reduceAdd, Nat.reducePow, Nat.reduceMul, Nat.cast_ofNat] at hm ⊢
    repeat refine Entry.row ?_ ?_
    rintro _ ⟨⟩
  all_goals
    intros
    refine encodes_of_topBits rfl ?_
    simp only [Nat.cast_add, Nat.cast_ofNat, put_fld_eq_topBits, Nat.reduceAdd, hm]
    omega

theorem encode_of_decodeEntry {w : Nat} {i : Instr} (hw : w < 2 ^ 32) (h : decodeEntry w = .ok i) : encode i = some w := by
  have hm : topBits w 26 = (bitsAt w 26 6 * 2 ^ 26 : Nat) := by
    rw [bitsAt_mul_eq_topBits, topBits_eq_zero hw, sub_zero]
  exact encodes_majorEntries hm i (decodeEntry_eq_ok_iff.mp h)

/-- Settles O54: the entry of a word that decodes puts the word's own bits back. -/
theorem encodeUndoesDecode : Obligations.EncodeUndoesDecode := by
  intro w i h
  obtain ⟨he, hw⟩ := decode_eq_ok_iff.mp h
  exact ⟨hw, encode_of_decodeEntry w.isLt he⟩

-- worked words

/-- Settles O52: the words of file 06 are those of their instructions; of the reserved ones no major or no entry reads. -/
theorem wordsDecodeAsTheSpecWritesThem : Obligations.WordsDecodeAsTheSpecWritesThem := by
  refine ⟨by decide +kernel, by decide +kernel, by decide +kernel, by decide +kernel, by decide +kernel, by decide +kernel, ?_⟩
  rintro w (rfl | rfl | rfl | rfl | rfl)
  · exact ⟨.badMajor, by decide +kernel⟩
  · exact ⟨.badMajor, by decide +kernel⟩
  · exact ⟨.badMajor, by decide +kernel⟩
  · exact ⟨.unassigned, by decide +kernel⟩
  · exact ⟨.unassigned, by decide +kernel⟩

end Sys2Proof.Machine
end

section
namespace Sys2Proof.Machine

open Claims

/-! Patterns and flags of the floating operations (R107, R148 to R155, R175). -/

theorem narrow_fmtOf (n : Nat) : (fmtOf n).Narrow := by
  unfold fmtOf Fmt.Narrow
  split <;> decide

/-- A pattern of the format, with flags in STATUS[4:0]. -/
def Fmt.Fits (f : Fmt) (r : Nat × Nat) : Prop := r.1 < 2 ^ f.bits ∧ r.2 < 32

theorem Fmt.Fits.ite {f : Fmt} {c : Prop} [Decidable c] {x y : Nat × Nat} (hx : f.Fits x) (hy : f.Fits y) :
    f.Fits (if c then x else y) := by
  split
  · exact hx
  · exact hy

theorem flagNV_lt : flagNV < 32 := by decide

theorem snanFlag_lt (vs : List FVal) : snanFlag vs < 32 := by
  unfold snanFlag
  split <;> decide

theorem snd_ite_lt {c : Prop} [Decidable c] {x y : Nat × Nat} {b : Nat} (hx : x.2 < b) (hy : y.2 < b) :
    (if c then x else y).2 < b := by
  split
  · exact hx
  · exact hy

theorem overflow_flags_lt (f : Fmt) (r : Rounding) (sat neg : Bool) : (overflow f r sat neg).2 < 32 :=
  have hfl : flagOF + flagNX < 32 := by decide
  snd_ite_lt hfl hfl

theorem roundMag_flags_lt (f : Fmt) (r : Rounding) (sat neg : Bool) (q : Nat) (e : Int) (sticky : Bool) :
    (roundMag f r sat neg q e sticky).2 < 32 := by
  have hover := overflow_flags_lt f r sat neg
  have hnx : flagNX < 32 := by decide
  have hsticky : (if sticky then flagUF + flagNX else 0) < 32 := by cases sticky <;> decide
  have hsum (b c : Bool) : (if b then flagNX else 0) + (if c then flagUF else 0) < 32 := by cases b <;> cases c <;> decide
  unfold roundMag
  dsimp only
  exact snd_ite_lt hsticky (snd_ite_lt (snd_ite_lt hover (snd_ite_lt hover hnx)) (snd_ite_lt hover (hsum _ _)))

section
variable {f : Fmt} (hf : f.Narrow)
include hf

theorem Fmt.Narrow.fits_nan {fl : Nat} (h : fl < 32) : f.Fits (f.nan, fl) := ⟨hf.nan_lt, h⟩

theorem Fmt.Narrow.fits_zero (neg : Bool) : f.Fits (f.signed neg 0, 0) := ⟨hf.zero_lt neg, Nat.zero_lt_succ 31⟩

theorem Fmt.Narrow.fits_inf (neg : Bool) {fl : Nat} (h : fl < 32) : f.Fits (f.signed neg f.infPat, fl) :=
  ⟨hf.signed_lt hf.2.1 neg, h⟩

theorem fits_roundMag (r : Rounding) (sat neg : Bool) (q : Nat) (e : Int) (sticky : Bool) :
    f.Fits (roundMag f r sat neg q e sticky) := ⟨roundMag_lt hf .., roundMag_flags_lt ..⟩

theorem fits_roundInt (r : Rounding) (x e : Int) (zeroNeg : Bool) : f.Fits (roundInt f r x e zeroNeg) :=
  (hf.fits_zero _).ite (fits_roundMag hf ..)

theorem fits_fadd2 (r : Rounding) (a b : FVal) : f.Fits (fadd2 f r a b) := by
  refine ⟨fadd2_lt hf r a b, ?_⟩
  unfold fadd2
  split
  · exact snanFlag_lt _
  · exact snanFlag_lt _
  · exact snd_ite_lt (Nat.zero_lt_succ 31) flagNV_lt
  · exact Nat.zero_lt_succ 31
  · exact Nat.zero_lt_succ 31
  · exact (fits_roundInt hf ..).2

theorem fits_fmul2 (r : Rounding) (a b : FVal) : f.Fits (fmul2 f r a b) := by
  unfold fmul2
  split
  · exact hf.fits_nan (snanFlag_lt _)
  · exact hf.fits_nan (snanFlag_lt _)
  · exact hf.fits_inf _ (by decide)
  · exact (hf.fits_nan (by decide)).ite (hf.fits_inf _ (by decide))
  · exact (hf.fits_nan (by decide)).ite (hf.fits_inf _ (by decide))
  · exact fits_roundMag hf ..

theorem fits_fdiv2 (r : Rounding) (a b : FVal) : f.Fits (fdiv2 f r a b) := by
  unfold fdiv2
  dsimp only
  split
  · exact hf.fits_nan (snanFlag_lt _)
  · exact hf.fits_nan (snanFlag_lt _)
  · exact hf.fits_nan (by decide)
  · exact hf.fits_inf _ (by decide)
  · exact hf.fits_zero _
  · exact ((hf.fits_nan (by decide)).ite (hf.fits_inf _ (by decide))).ite ((hf.fits_zero _).ite (fits_roundMag hf ..))

theorem fits_fsqrt1 (r : Rounding) (a : FVal) : f.Fits (fsqrt1 f r a) := by
  unfold fsqrt1
  split
  next q => exact hf.fits_nan (by cases q <;> decide)
  · exact (hf.fits_nan (by decide)).ite (hf.fits_inf false (by decide))
  · exact (hf.fits_zero _).ite ((hf.fits_nan (by decide)).ite (fits_roundMag hf ..))

theorem fits_fma3 (r : Rounding) (negP negC : Bool) (a b c : FVal) : f.Fits (fma3 f r negP negC a b c) := by
  unfold fma3
  dsimp only
  refine (hf.fits_nan (by decide)).ite ((hf.fits_nan (snanFlag_lt _)).ite ?_)
  split
  · exact fits_roundInt hf ..
  · exact hf.fits_inf _ (by decide)
  · exact (hf.fits_inf _ (by decide)).ite (hf.fits_nan (by decide))
  · exact hf.fits_inf _ (by decide)

theorem fits_fcvt1 (r : Rounding) (sat : Bool) (a : FVal) : f.Fits (fcvt1 f r sat a) := by
  unfold fcvt1
  split
  next q => exact hf.fits_nan (by cases q <;> decide)
  · exact Fmt.Fits.ite ⟨hf.signed_lt hf.2.2.2 _, show flagOF < 32 by decide⟩ ((hf.fits_inf _ (by decide)).ite (hf.fits_nan (by decide)))
  · exact fits_roundMag hf ..

theorem fits_fminmax (isMax : Bool) (x y : Nat) : f.Fits (fminmax f isMax x y) := by
  refine ⟨fminmax_lt hf isMax x y, ?_⟩
  have hfl := snanFlag_lt [f.unpack x, f.unpack y]
  unfold fminmax
  dsimp only
  split
  · exact hfl
  · split
    · exact hfl
    · split
      · exact hfl
      · exact hfl

end

end Sys2Proof.Machine
end

section
namespace Sys2Proof.Machine

open Claims

/-! SFPU and SFMA (R103, R151, R174 to R176). -/

-- results

theorem State.onlyXStatus_raise_done1 (s : State) (fl : Nat) (d : Reg) (w : Word) : OnlyXStatus s ((s.raise fl).done1 d w) := by
  rw [State.done1_eq]
  rfl

theorem State.onward_raise_done1 (s : State) (fl : Nat) (d : Reg) (w : Word) : Onward s ((s.raise fl).done1 d w) := by
  rw [State.done1_eq]
  rfl

theorem State.wrote_raise_done1 (s : State) (fl : Nat) (d : Reg) (w : Word) : Wrote s ((s.raise fl).done1 d w) d w := fun r => by
  rw [State.rx_done1, State.rx_raise]

theorem State.raised_raise_done1 (s : State) (fl : Nat) (d : Reg) (w : Word) : Raised s ((s.raise fl).done1 d w) fl := by
  rw [State.done1_eq]
  rfl

/-- FCVTF converts the integer of its type (R175). -/
theorem fcvtf_operand (x : Word) (t : BitVec 2) :
    (if t.toNat < 2 then sextNat (x.toNat % 2 ^ (if t.toNat % 2 = 0 then 32 else 64)) (if t.toNat % 2 = 0 then 32 else 64)
      else ((x.toNat % 2 ^ (if t.toNat % 2 = 0 then 32 else 64) : Nat) : Int)) =
    match t.toNat with
    | 0 => (x.setWidth 32).toInt
    | 1 => x.toInt
    | 2 => ((x.setWidth 32).toNat : Int)
    | _ => (x.toNat : Int) := by
  have hlow : BitVec.ofNat 32 (x.toNat % 2 ^ 32) = x.setWidth 32 := BitVec.eq_of_toNat_eq (by simp)
  have hall : BitVec.ofNat 64 (x.toNat % 2 ^ 64) = x := BitVec.eq_of_toNat_eq (by simp [x.isLt])
  obtain h | h | h | h : t.toNat = 0 ∨ t.toNat = 1 ∨ t.toNat = 2 ∨ t.toNat = 3 := by have := t.isLt; omega
  · rw [h]
    exact (sextNat_eq_toInt _ (by decide)).trans (congrArg BitVec.toInt hlow)
  · rw [h]
    exact (sextNat_eq_toInt _ (by decide)).trans (congrArg BitVec.toInt hall)
  · rw [h]
    exact congrArg Nat.cast (BitVec.toNat_setWidth 32 x).symm
  · rw [h]
    exact congrArg Nat.cast (Nat.mod_eq_of_lt x.isLt)

theorem exec_of_floatResult {i : Instr} {s : State} {d : Reg} {F : Fmt} {r : Nat × Nat} (h : floatResult s i = some (d, F, r)) :
    exec i s = .next (s.fdone d r) ∧ F.Fits r := by
  have hF (n : Nat) := narrow_fmtOf n
  unfold floatResult at h
  split at h
  case h_9 d a t f m =>
    cases h
    exact ⟨congrArg (fun v : Int => Host.Outcome.next (s.fdone d (fcvtFrom (fmtOf f.toNat) (s.hart.roundingRm m) v)))
      (fcvtf_operand (s.rx a) t), fits_roundInt (hF _) ..⟩
  case h_14 => cases h
  all_goals cases h
  · exact ⟨rfl, fits_fadd2 (hF _) ..⟩
  · exact ⟨rfl, fits_fadd2 (hF _) ..⟩
  · exact ⟨rfl, fits_fmul2 (hF _) ..⟩
  · exact ⟨rfl, fits_fdiv2 (hF _) ..⟩
  · exact ⟨rfl, fits_fsqrt1 (hF _) ..⟩
  · exact ⟨rfl, fits_fminmax (hF _) ..⟩
  · exact ⟨rfl, fits_fminmax (hF _) ..⟩
  · exact ⟨rfl, fits_fcvt1 (hF _) ..⟩
  · exact ⟨rfl, fits_fma3 (hF _) ..⟩
  · exact ⟨rfl, fits_fma3 (hF _) ..⟩
  · exact ⟨rfl, fits_fma3 (hF _) ..⟩
  · exact ⟨rfl, fits_fma3 (hF _) ..⟩

theorem floatOperationsWriteResultAndFlags : FloatOperationsWriteResultAndFlags := by
  intro i s d F r h
  obtain ⟨hx, hbits, hfl⟩ := exec_of_floatResult h
  exact ⟨hbits, hfl, _, hx, s.onlyXStatus_raise_done1 .., s.onward_raise_done1 .., s.wrote_raise_done1 r.2 d _,
    s.raised_raise_done1 ..⟩

-- comparisons

/-- A finite value as a scaled integer, for a base not above its exponent. -/
theorem scaled_eq {neg : Bool} {m : Nat} {e base : Int} (h : base ≤ e) :
    ((scaled neg m e base : Int) : ℚ) = ((if neg then -1 else 1) * (m : ℚ) * (2 : ℚ) ^ e) * (2 : ℚ) ^ (-base) := by
  obtain ⟨k, rfl⟩ := Int.le.dest h
  have hk : (2 : ℚ) ^ (base + k) * (2 : ℚ) ^ (-base) = (2 : ℚ) ^ k := by
    rw [← zpow_add₀ (by norm_num), show base + k + -base = (k : Int) by ring, zpow_natCast]
  rw [mul_assoc, hk]
  unfold scaled
  rw [add_sub_cancel_left, Int.toNat_natCast]
  cases neg <;> simp

/-- Values that are numbers are ordered as the rationals that they are. -/
theorem fcmp_eq_compare {a b : FVal} {x y : ℚ} (hx : valueOf a = some x) (hy : valueOf b = some y) : fcmp a b = compare x y := by
  cases a with
  | nan | inf => cases hx
  | fin n m e =>
    cases b with
    | nan | inf => cases hy
    | fin n' m' e' =>
      cases hx
      cases hy
      have hpos : (0 : ℚ) < 2 ^ (-(min e e')) := zpow_pos (by norm_num) _
      rw [← cmp_eq_compare, ← cmp_mul_pos_right hpos, ← scaled_eq (min_le_left e e'), ← scaled_eq (min_le_right e e'),
        Int.cast_strictMono.cmp_map_eq, cmp_eq_compare]
      rfl

theorem snanFlag_pair (a b : FVal) : snanFlag [a, b] = if a = .nan true ∨ b = .nan true then flagNV else 0 := by
  simp [snanFlag]

/-- FEQ, FLT and FLE are the three relations that SFPU writes (R175). -/
theorem exec_of_compareOf {i : Instr} {d : Reg} {r : FRel} {a b : Reg} {F : Fmt} (h : compareOf i = some (d, r, a, b, F))
    (s : State) : (r = .eq ∨ r = .lt ∨ r = .le) ∧
      exec i s = .next (s.fdone d (if (frel r (s.fx F a) (s.fx F b)).1 then 1 else 0, (frel r (s.fx F a) (s.fx F b)).2)) := by
  unfold compareOf at h
  split at h
  · cases h; exact ⟨.inl rfl, rfl⟩
  · cases h; exact ⟨.inr (.inl rfl), rfl⟩
  · cases h; exact ⟨.inr (.inr rfl), rfl⟩
  · cases h

theorem frel_of_nan {r : FRel} (hr : r = .eq ∨ r = .lt ∨ r = .le) {a b : FVal} (h : a.isNan = true ∨ b.isNan = true) :
    frel r a b = (false, if r ≠ .eq ∨ a = .nan true ∨ b = .nan true then flagNV else 0) := by
  have hun : (a.isNan || b.isNan) = true := by simpa using h
  obtain rfl | rfl | rfl := hr <;> simp [frel, hun, snanFlag_pair]

theorem valueOf_not_nan {a : FVal} {x : ℚ} (h : valueOf a = some x) : a.isNan = false ∧ a ≠ .nan true := by
  cases a with
  | nan | inf => cases h
  | fin => exact ⟨rfl, nofun⟩

theorem frel_of_values {r : FRel} (hr : r = .eq ∨ r = .lt ∨ r = .le) {a b : FVal} {x y : ℚ} (hx : valueOf a = some x)
    (hy : valueOf b = some y) : ((frel r a b).1 = true ↔ relHolds r x y) ∧ (frel r a b).2 = 0 := by
  obtain ⟨hax, hay⟩ := valueOf_not_nan hx
  obtain ⟨hbx, hby⟩ := valueOf_not_nan hy
  have hcmp := fcmp_eq_compare hx hy
  obtain rfl | rfl | rfl := hr
  · simp [frel, relHolds, hax, hbx, hay, hby, hcmp, snanFlag_pair]
  · simp [frel, relHolds, hax, hbx, hcmp, compare_lt_iff_lt]
  · simp [frel, relHolds, hax, hbx, hcmp, compare_gt_iff_gt]

theorem wordOfNat_bit (b : Bool) : (wordOfNat (if b then 1 else 0) = 0 ∨ wordOfNat (if b then 1 else 0) = 1) ∧
    (wordOfNat (if b then 1 else 0) = 1 ↔ b = true) := by
  cases b <;> decide

theorem floatComparesFollowExactOrder : FloatComparesFollowExactOrder := by
  intro i s d r a b F h
  obtain ⟨hr, hx⟩ := exec_of_compareOf h s
  obtain ⟨hbit, hone⟩ := wordOfNat_bit (frel r (s.fx F a) (s.fx F b)).1
  refine ⟨_, _, _, hx, s.onlyXStatus_raise_done1 .., s.onward_raise_done1 .., s.wrote_raise_done1 _ d _,
    s.raised_raise_done1 .., hbit, fun hnan => ?_, fun x y hvx hvy => ?_⟩
  · rw [frel_of_nan hr hnan]
    have hnv : (0 : Nat) ≠ flagNV := by decide
    refine ⟨rfl, ?_, ?_⟩
    · simp only [ite_eq_left_iff, hnv, imp_false, not_not]
    · exact (ite_eq_or_eq _ flagNV 0).symm
  · obtain ⟨hrel, hfl⟩ := frel_of_values hr hvx hvy
    exact ⟨hone.trans hrel, hfl⟩

-- conversions to integer

/-- The magnitude of a value that is an integer is exact (R156). -/
theorem intMag_of_integer (r : Rounding) {neg : Bool} {m : Nat} {e n : Int} (h : valueOf (.fin neg m e) = some (n : ℚ)) :
    ∃ q : Nat, intMag r neg m e = (q, false) ∧ (if neg then -(q : Int) else q) = n := by
  have hval : (if neg then -1 else 1) * (m : ℚ) * (2 : ℚ) ^ e = n := Option.some.inj h
  unfold intMag
  by_cases he : 0 ≤ e
  · obtain ⟨k, rfl⟩ := Int.eq_ofNat_of_zero_le he
    rw [if_pos he]
    refine ⟨_, rfl, ?_⟩
    rw [zpow_natCast] at hval
    cases neg <;> simp at hval ⊢ <;> exact_mod_cast hval
  · obtain ⟨k, rfl⟩ : ∃ k : Nat, e = -k := ⟨(-e).toNat, by omega⟩
    have hk : (if neg then -1 else 1) * (m : Int) = n * 2 ^ k := by
      have hpow : ((2 : ℚ) ^ k) ≠ 0 := by positivity
      rw [zpow_neg, zpow_natCast, mul_inv_eq_iff_eq_mul₀ hpow] at hval
      exact_mod_cast hval
    have hm : m = n.natAbs * 2 ^ k := by
      have := congrArg Int.natAbs hk
      cases neg <;> simpa [Int.natAbs_mul, Int.natAbs_pow] using this
    have hq : m / 2 ^ k = n.natAbs := by rw [hm, Nat.mul_div_cancel _ (Nat.two_pow_pos k)]
    have hrem : m % 2 ^ k = 0 := by rw [hm, Nat.mul_mod_left]
    refine ⟨n.natAbs, ?_, ?_⟩
    · rw [if_neg he]
      simp [hq, hrem]
    · have hpos : (0 : Int) < 2 ^ k := by positivity
      cases neg with
      | false =>
        have hle : 0 ≤ n * 2 ^ k := hk ▸ by simp
        exact Int.natAbs_of_nonneg (nonneg_of_mul_nonneg_left hle hpos)
      | true =>
        have hle : n * 2 ^ k ≤ 0 := hk ▸ by simp
        have hn : n ≤ 0 := nonpos_of_mul_nonpos_left hle hpos
        exact (congrArg Neg.neg (Int.ofNat_natAbs_of_nonpos hn)).trans (neg_neg n)

theorem fcvtInt_of_integer (r : Rounding) (bits : Nat) (signed : Bool) {v : FVal} {n : Int} (h : valueOf v = some (n : ℚ))
    (hn : if signed then -(2 ^ (bits - 1) : Int) ≤ n ∧ n < 2 ^ (bits - 1) else 0 ≤ n ∧ n < 2 ^ bits) :
    fcvtInt r bits signed v = (n, 0) := by
  cases v with
  | nan | inf => cases h
  | fin neg m e =>
    obtain ⟨q, hq, hsign⟩ := intMag_of_integer r.noSr h
    unfold fcvtInt
    dsimp only
    rw [hq]
    dsimp only
    rw [hsign]
    cases signed with
    | false =>
      obtain ⟨hlo, hhi⟩ : 0 ≤ n ∧ n < 2 ^ bits := hn
      exact (if_neg (not_lt.mpr hlo)).trans (if_neg (not_lt.mpr (Int.le_sub_one_of_lt hhi)))
    | true =>
      obtain ⟨hlo, hhi⟩ : -(2 ^ (bits - 1) : Int) ≤ n ∧ n < 2 ^ (bits - 1) := hn
      exact (if_neg (not_lt.mpr hlo)).trans (if_neg (not_lt.mpr (Int.le_sub_one_of_lt hhi)))

theorem floatToIntegerKeepsExactIntegers : FloatToIntegerKeepsExactIntegers := by
  intro d a k f m s F bits
  refine ⟨_, _, _, rfl, s.onlyXStatus_raise_done1 .., s.onward_raise_done1 .., s.wrote_raise_done1 _ d _,
    s.raised_raise_done1 .., fun n hv hn => ?_⟩
  have hr : fcvtInt (s.hart.roundingRm m) bits (k.toNat < 2) (s.fx F a) = (n, 0) :=
    fcvtInt_of_integer _ _ _ hv (by simpa using hn)
  rw [hr]
  exact ⟨wordOfInt_eq_ofInt n, rfl⟩

/-- Settles O4: an SFPU or SFMA instruction raises its flags and writes its result, and the results of the comparisons and
of the conversions to integer are those of the exact values. -/
theorem scalarFloatInstructionsComplete : Obligations.ScalarFloatInstructionsComplete :=
  ⟨floatOperationsWriteResultAndFlags, floatComparesFollowExactOrder, floatToIntegerKeepsExactIntegers⟩

end Sys2Proof.Machine
end

section
namespace Sys2Proof.Machine

open Claims

/-! Control registers (R106 to R110, R196). -/

-- rights

/-- The model's rights are those of R106. -/
theorem rights_eq (n : Nat) : rights n =
    ((cregAccess false n).1, (cregAccess false n).2, (cregAccess true n).1, (cregAccess true n).2) := by
  unfold rights
  split
  case h_40 =>
    simp only [imp_false] at *
    have hnone (super : Bool) : cregAccess super n = (false, false) := by
      unfold cregAccess
      rw [if_neg, if_neg, if_neg, if_neg]
      all_goals
        simp only [List.mem_cons, List.not_mem_nil, or_false, Bool.or_eq_true, Bool.and_eq_true, decide_eq_true_eq]
        omega
    simp [hnone]
  all_goals rfl

theorem mayRead_iff {s : State} {n : Nat} : MayRead s n ↔ (cregAccess s.hart.super n).1 = true := by
  unfold MayRead
  rw [rights_eq]
  cases s.hart.super <;> rfl

theorem mayWrite_iff {s : State} {n : Nat} : MayWrite s n ↔ (cregAccess s.hart.super n).2 = true := by
  unfold MayWrite
  rw [rights_eq]
  cases s.hart.super <;> rfl

/-- The registers that some mode may write, WM0 to WM7 aside: those that a write may leave as they are, those of which it
stores a field, and those of which it stores the bits under a mask. -/
def writable : List Nat :=
  [0x001, 0x005, 0x052, 0x053] ++ [0x000, 0x002, 0x004, 0x006, 0x020, 0x030] ++
    [0x010, 0x011, 0x021, 0x022, 0x023, 0x024, 0x025, 0x031, 0x032, 0x080]

theorem writable_cases {s : State} {n : Nat} (h : MayWrite s n) : n ∈ writable ∨ ∃ k, k < 8 ∧ n = 0x060 + k := by
  have hcases : n ∈ writable ∨ (0x060 ≤ n ∧ n ≤ 0x067) := by
    rw [mayWrite_iff] at h
    unfold cregAccess at h
    simp only [writable, List.mem_append, List.mem_cons, List.not_mem_nil, or_false, Bool.or_eq_true, Bool.and_eq_true,
      decide_eq_true_eq] at h ⊢
    split_ifs at h <;> omega
  exact hcases.imp_right fun ⟨hlo, hhi⟩ => ⟨n - 0x060, by omega, by omega⟩

-- watermarks

theorem cregRead_wm (s : State) {k : Nat} (hk : k < 8) : cregRead s (0x060 + k) = s.hart.wm[k] := by
  unfold cregRead
  rw [if_pos (by omega), Nat.add_sub_cancel_left, Vector.getElem?_eq_getElem hk]
  rfl

theorem cregWrite_wm (s : State) {k : Nat} (hk : k < 8) (v : Word) :
    cregWrite s (0x060 + k) v = s.withHart fun h => { h with wm := h.wm.setIfInBounds k v } := by
  interval_cases k <;> rfl

-- what a write changes

/-- Only the contents of register `n` differ, and VL where `n` is VTYPE. -/
def OnlyCreg (n : Nat) (s t : State) : Prop :=
  t = { s with
    lu := { s.lu with
      dseed := if n = 0x011 then t.lu.dseed else s.lu.dseed
      rmin0 := if n = 0x052 then t.lu.rmin0 else s.lu.rmin0
      rmin1 := if n = 0x053 then t.lu.rmin1 else s.lu.rmin1 }
    hart := { s.hart with
      vl := if n = 0x000 ∨ n = 0x001 then t.hart.vl else s.hart.vl
      vtype := if n = 0x001 then t.hart.vtype else s.hart.vtype
      vstart := if n = 0x002 then t.hart.vstart else s.hart.vstart
      mrows := if n = 0x004 then t.hart.mrows else s.hart.mrows
      mcols := if n = 0x004 then t.hart.mcols else s.hart.mcols
      ifmt := if n = 0x005 then t.hart.ifmt else s.hart.ifmt
      slip := if n = 0x006 then t.hart.slip else s.hart.slip
      seed := if n = 0x010 then t.hart.seed else s.hart.seed
      status := if n = 0x020 then t.hart.status else s.hart.status
      tvec := if n = 0x021 then t.hart.tvec else s.hart.tvec
      tpc := if n = 0x022 then t.hart.tpc else s.hart.tpc
      tcause := if n = 0x023 then t.hart.tcause else s.hart.tcause
      tval := if n = 0x024 then t.hart.tval else s.hart.tval
      tscratch := if n = 0x025 then t.hart.tscratch else s.hart.tscratch
      asid := if n = 0x030 then t.hart.asid else s.hart.asid
      ptroot := if n = 0x031 then t.hart.ptroot else s.hart.ptroot
      spbase := if n = 0x032 then t.hart.spbase else s.hart.spbase
      wm := if 0x060 ≤ n ∧ n ≤ 0x067 then s.hart.wm.setIfInBounds (n - 0x060) (cregRead t n) else s.hart.wm
      viewnote := if n = 0x080 then t.hart.viewnote else s.hart.viewnote } }

theorem onlyCreg_self (s : State) {n : Nat} (h : ¬ (0x060 ≤ n ∧ n ≤ 0x067)) : OnlyCreg n s s := by
  unfold OnlyCreg
  simp only [ite_self, if_neg h]

theorem OnlyCreg.ite {n : Nat} {s t u : State} {c : Prop} [Decidable c] (ht : OnlyCreg n s t) (hu : OnlyCreg n s u) :
    OnlyCreg n s (if c then t else u) := by
  split
  · exact ht
  · exact hu

-- writes that may leave their register

theorem cregWrite_vtype (s : State) (v : Word) : cregWrite s 0x001 v =
    if admitted (v &&& 0x3FF) then
      s.withHart fun h => { h with vtype := v &&& 0x3FF, vl := min h.vl (maxVl (v &&& 0x3FF) h.grant) }
    else s :=
  apply_ite (fun h => ({ s with hart := h } : State)) _ _ _

theorem cregWrite_mtype (s : State) (v : Word) : cregWrite s 0x005 v =
    if bitsAt v.toNat 0 4 ≤ 8 then s.withHart fun h => { h with ifmt := bitsAt v.toNat 0 4 } else s :=
  apply_ite (fun h => ({ s with hart := h } : State)) _ _ _

theorem cregWrite_rmin0 (s : State) (v : Word) : cregWrite s 0x052 v =
    if s.live.any (fun l => l.cls = 0) then s
    else { s with lu := { s.lu with rmin0 := min v.toNat s.svc.units.shareUnits } } := rfl

theorem cregWrite_rmin1 (s : State) (v : Word) : cregWrite s 0x053 v =
    if s.live.any (fun l => l.cls = 1) then s
    else { s with lu := { s.lu with rmin1 := min v.toNat s.svc.units.shareUnits } } := rfl

theorem onlyCreg_cregWrite {s : State} {n : Nat} (v : Word) (h : MayWrite s n) : OnlyCreg n s (cregWrite s n v) := by
  obtain h | ⟨k, hk, rfl⟩ := writable_cases h
  · simp only [writable, List.mem_append, List.mem_cons, List.not_mem_nil, or_false] at h
    obtain ((rfl | rfl | rfl | rfl) | h) | h := h
    · rw [cregWrite_vtype]
      exact .ite rfl (onlyCreg_self s (by decide))
    · rw [cregWrite_mtype]
      exact .ite rfl (onlyCreg_self s (by decide))
    · rw [cregWrite_rmin0]
      exact .ite (onlyCreg_self s (by decide)) rfl
    · rw [cregWrite_rmin1]
      exact .ite (onlyCreg_self s (by decide)) rfl
    · obtain rfl | rfl | rfl | rfl | rfl | rfl := h <;> rfl
    · obtain rfl | rfl | rfl | rfl | rfl | rfl | rfl | rfl | rfl | rfl := h <;> rfl
  · have hread : cregRead (cregWrite s (0x060 + k) v) (0x060 + k) = v := by
      rw [cregRead_wm _ hk, cregWrite_wm s hk]
      exact Vector.getElem_setIfInBounds_self hk
    unfold OnlyCreg
    rw [hread, cregWrite_wm s hk]
    interval_cases k <;> rfl

theorem OnlyCreg.onlyControl {n : Nat} {s t : State} (h : OnlyCreg n s t) : OnlyControl s t := by
  unfold OnlyControl
  rw [h]

theorem cregRead_of_onlyCreg {s t : State} {n m : Nat} (h : OnlyCreg n s t) (hm : m ≠ n) (hvl : ¬ (n = 0x001 ∧ m = 0x000)) :
    cregRead t m = cregRead s m := by
  unfold cregRead
  split_ifs with hwm hlanes
  · obtain ⟨k, rfl⟩ := Nat.exists_eq_add_of_le hwm.1
    rw [h, Nat.add_sub_cancel_left]
    dsimp only
    split
    · rw [Vector.getElem?_setIfInBounds_ne (by omega)]
    · rfl
  · rw [h]
  · split
    all_goals rw [h]
    case h_1 => simp [hm.symm, show n ≠ 0x001 from fun h => hvl ⟨h, rfl⟩]
    -- BUDGET and DEADLINE count from fields that no write changes
    case h_22 => rfl
    case h_23 => rfl
    all_goals simp [hm.symm, Hart.mvl]

-- x[d] and the pc are no contents of a control register

theorem onlyControl_done1 {s t : State} (h : OnlyControl s t) (d : Reg) (w : Word) : OnlyControl s (t.done1 d w) := by
  rw [State.done1_eq]
  unfold OnlyControl at h ⊢
  rw [h]

theorem cregRead_done1 (s : State) (d : Reg) (w : Word) (m : Nat) : cregRead (s.done1 d w) m = cregRead s m := by
  rw [State.done1_eq]
  rfl

-- what the register then holds

theorem bitsAt_zero (x n : Nat) : bitsAt x 0 n = x % 2 ^ n := by
  rw [bitsAt, pow_zero, Nat.div_one]

/-- The bits of FRM that a write of STATUS stores (R107). -/
theorem frmField (v : Word) : (if 6 ≤ bitsAt v.toNat 5 3 then 0 else 0xE0 : Word) = if v.toNat / 32 % 8 < 6 then 0xE0 else 0 := by
  simp only [← not_lt, ite_not]
  rfl

theorem cregRead_cregWrite_same {s : State} {n : Nat} (v : Word) (h : MayWrite s n) :
    cregRead (cregWrite s n v) n = afterWrite s n v := by
  obtain h | ⟨k, hk, rfl⟩ := writable_cases h
  · simp only [writable, List.mem_append, List.mem_cons, List.not_mem_nil, or_false] at h
    obtain ((rfl | rfl | rfl | rfl) | h) | h := h
    · rw [cregWrite_vtype]
      exact apply_ite (cregRead · 0x001) _ _ _
    · rw [cregWrite_mtype, bitsAt_zero]
      exact apply_ite (cregRead · 0x005) _ _ _
    · rw [cregWrite_rmin0]
      exact apply_ite (cregRead · 0x052) _ _ _
    · rw [cregWrite_rmin1]
      exact apply_ite (cregRead · 0x053) _ _ _
    · obtain rfl | rfl | rfl | rfl | rfl | rfl := h
      · exact congrArg (fun x => wordOfNat (min x (maxVl s.hart.vtype s.hart.grant))) (bitsAt_zero _ 17)
      · exact congrArg wordOfNat (bitsAt_zero _ 17)
      · exact congrArg (fun x => wordOfNat (min x 32 + min (bitsAt v.toNat 8 8) 32 * 256)) (bitsAt_zero _ 8)
      · exact congrArg (fun x => wordOfNat (max 1 (min x 16))) (bitsAt_zero _ 5)
      · exact congrArg (fun keep : Word => (s.hart.status &&& ~~~(0x1F ||| keep ||| if s.hart.super then 0x20000 else 0)) |||
          (v &&& (0x1F ||| keep ||| if s.hart.super then 0x20000 else 0))) (frmField v)
      · exact congrArg wordOfNat (bitsAt_zero _ 16)
    · obtain rfl | rfl | rfl | rfl | rfl | rfl | rfl | rfl | rfl | rfl := h <;> rfl
  · rw [cregRead_wm _ hk, cregWrite_wm s hk]
    refine (Vector.getElem_setIfInBounds_self hk).trans ?_
    interval_cases k <;> rfl

theorem cregRead_vl_after_vtype (s : State) (v : Word) : cregRead (cregWrite s 0x001 v) 0x000 = clampedVl s v := by
  rw [cregWrite_vtype]
  unfold clampedVl
  split <;> rfl

theorem controlWritten_cregWrite {s : State} {n : Nat} (v : Word) (h : MayWrite s n) :
    ControlWritten s (cregWrite s n v) n v := by
  refine ⟨cregRead_cregWrite_same v h, fun m hm => ?_⟩
  split
  next hvl =>
    obtain ⟨rfl, rfl⟩ := hvl
    exact cregRead_vl_after_vtype s v
  next hvl => exact cregRead_of_onlyCreg (onlyCreg_cregWrite v h) hm hvl

/-- A write of a control register leaves the scalar registers and the pc. -/
theorem OnlyCreg.sameX {n : Nat} {s t : State} (h : OnlyCreg n s t) : SameX s t :=
  State.rx_congr (congrArg (·.hart.x) h)

theorem OnlyCreg.pc_eq {n : Nat} {s t : State} (h : OnlyCreg n s t) : t.hart.pc = s.hart.pc := congrArg (·.hart.pc) h

-- CRR, CRW, CRS and CRC (R196)

/-- A read leaves the register's contents in x[d] and goes on. -/
def ReadInto (s t : State) (d : Reg) (old : Word) : Prop := OnlyX s t ∧ Onward s t ∧ Wrote s t d old

/-- A write leaves the old contents in x[d], stores the new ones, and goes on. -/
def WrittenBy (s t : State) (d : Reg) (n : Nat) (old v : Word) : Prop :=
  OnlyControl s t ∧ Onward s t ∧ Wrote s t d old ∧ ControlWritten s t n v

theorem State.onward_done1 (s : State) (d : Reg) (w : Word) : Onward s (s.done1 d w) := by
  rw [State.done1_eq]
  rfl

theorem readInto_done1 (s : State) (d : Reg) (w : Word) : ReadInto s (s.done1 d w) d w := by
  refine ⟨?_, s.onward_done1 d w, fun r => s.rx_done1 d r w⟩
  rw [State.done1_eq]
  rfl

theorem writtenBy_cregWrite {s : State} {n : Nat} (d : Reg) (old v : Word) (h : MayWrite s n) :
    WrittenBy s ((cregWrite s n v).done1 d old) d n old v := by
  have hframe := onlyCreg_cregWrite v h
  obtain ⟨hnew, hother⟩ := controlWritten_cregWrite v h
  refine ⟨onlyControl_done1 hframe.onlyControl d old, ?_, fun r => ?_, ?_, fun m hm => ?_⟩
  · exact (State.onward_done1 _ d old).trans (congrArg (· + 4) hframe.pc_eq)
  · rw [State.rx_done1, hframe.sameX r]
  · rw [cregRead_done1, hnew]
  · rw [cregRead_done1, hother m hm]

theorem controlRegisterAccessesComplete : ControlRegisterAccessesComplete := by
  intro d a c s n old
  refine ⟨fun h => ?_, fun h => ?_, fun h => ?_, fun h => ?_, fun h ha => ?_, fun h ha => ?_⟩
  · exact ⟨_, if_pos (mayRead_iff.mp h), readInto_done1 s d old⟩
  · exact ⟨_, if_pos (mayWrite_iff.mp h), writtenBy_cregWrite d old _ h⟩
  · exact ⟨_, if_pos (mayRead_iff.mp h), readInto_done1 s d old⟩
  · exact ⟨_, if_pos (mayRead_iff.mp h), readInto_done1 s d old⟩
  · exact ⟨_, (if_neg ha).trans (if_pos (mayWrite_iff.mp h)), writtenBy_cregWrite d old _ h⟩
  · exact ⟨_, (if_neg ha).trans (if_pos (mayWrite_iff.mp h)), writtenBy_cregWrite d old _ h⟩

theorem controlRegisterRightsAreChecked : ControlRegisterRightsAreChecked := by
  refine fun d a c s => ⟨fun h => ?_, fun h => ?_⟩
  · rw [mayRead_iff] at h
    exact ⟨if_neg h, if_neg h, if_neg h⟩
  · rw [mayWrite_iff] at h
    exact ⟨if_neg h, fun ha => ⟨(if_neg ha).trans (if_neg h), (if_neg ha).trans (if_neg h)⟩⟩

-- events

theorem exec_of_writeEvent {i : Instr} {n : Nat} {v : Word} (h : writeEvent i = some (n, v)) (s : State) :
    exec i s = writeIfAllowed n v s := by
  unfold writeEvent at h
  split at h
  case h_11 c w =>
    split at h
    next hc =>
      cases h
      have hplain : plainCreg c.toNat = true := by
        unfold plainCreg
        simp only [List.mem_cons, List.not_mem_nil, or_false, Bool.or_eq_true, Bool.and_eq_true, decide_eq_true_eq] at hc ⊢
        omega
      exact if_pos hplain
    next => cases h
  case h_12 => cases h
  all_goals
    cases h
    rfl

theorem controlRegisterEventsStoreFields : ControlRegisterEventsStoreFields := by
  refine ⟨fun i n v s h => ⟨fun hw => ?_, fun hw => ?_⟩, fun s => rfl⟩
  · have hframe := onlyCreg_cregWrite v hw
    refine ⟨cregWrite s n v, ?_, hframe.onlyControl, hframe.sameX, hframe.pc_eq, controlWritten_cregWrite v hw⟩
    rw [exec_of_writeEvent h, writeIfAllowed, if_pos (mayWrite_iff.mp hw)]
  · rw [mayWrite_iff] at hw
    rw [exec_of_writeEvent h, writeIfAllowed, if_neg hw]

/-- Settles O16: a write of a register in its writer's rights changes that register alone, VL with VTYPE aside, and stores
the fields of its map; the accesses and the events are reads and such writes. -/
theorem controlRegistersFollowTheirMaps : Obligations.ControlRegistersFollowTheirMaps :=
  ⟨controlRegisterAccessesComplete, controlRegisterRightsAreChecked, controlRegisterEventsStoreFields⟩

end Sys2Proof.Machine
end
